-- ==== Sys2Proof/Word.lean ====
section
/-! DEFINITION. The word types of the LV-860 and their plainest readings (spec R4, R5, R105). -/

namespace Sys2Proof

/-- A 32-bit register, literal or payload word. -/
abbrev Word := BitVec 32
/-- A byte of memory (R4). -/
abbrev Byte := BitVec 8
/-- A 64-bit address, TRI64 value or descriptor word. -/
abbrev DWord := BitVec 64

/-- A 32-bit value beside its poison mark (R61, R77). -/
structure PWord where
  w : Word
  pois : Bool
  deriving DecidableEq, Repr

/-- Zero, unpoisoned. -/
def PWord.zero : PWord := ⟨0, false⟩
/-- Zero, poisoned. -/
def PWord.bad : PWord := ⟨0, true⟩
/-- An unpoisoned word. -/
def PWord.ok (w : Word) : PWord := ⟨w, false⟩

end Sys2Proof
end

