-- ==== Sys2Proof/Config.lean ====
section
/-! DEFINITION. What the spec leaves to the implementation, as constants without a body: nothing can
evaluate them, so a claim about them holds whatever they are. Each names its log entry. -/

namespace Sys2Proof.Config

/-- Which of several comes next, by the model's step counter and the kind of choice: 0 the activity that could
happen (assumption 2: the spec fixes no interleaving of its agents), 1 the replica, 2 the line of a slice, 3 the
line of a first-level cache and 4 and 5 the TLB entries of the two levels that are displaced (assumption 6). -/
opaque pick : Nat → Nat → Nat
/-- How many cycles pass before the step of that number (assumption 3: latencies). -/
opaque elapsed : Nat → Nat
/-- Whether a cache or TLB still holds an entry (assumption 6: replacement, R252, R309), by the step counter
and 8 x + the kind of look-up: 0 a first-level cache, 1 replicas, 2 a slice's lines, 3 a texture unit's line x,
4 and 5 the TLBs for access x. -/
opaque held : Nat → Nat → Bool
/-- A value the spec leaves unstated (assumption 7), by the step counter and 8 x + the kind of value: 0 the r
of a second RGNX, 1 word x of an answer, 2 the first word of a packet without flit 0, 3 word x of a texture
request's free bits, 4 word x of a reloaded screen tile. -/
opaque word : Nat → Nat → Word
/-- The result of a group 0x7 function beyond the precision the model carries (assumption 8). -/
opaque columnTail : Nat → Word → Word
/-- The result of FFRACT where the exact difference is no FP32 value, by mode and operand (R154;
assumption 7). -/
opaque fractInexact : Nat → Word → Word
/-- Whether an ML-DSA-87 signature over these bytes verifies (R437, R438, R440; assumption 9). -/
opaque signatureOk : List Byte → Bool
/-- The bytes of an attestation signature (R439; assumption 9). -/
opaque signature : List Byte → List Byte
/-- The SHA3-512 digest of a byte string (R437, R439; assumption 9). -/
opaque digest : List Byte → List Byte
/-- Whether the self-test of step 2 of R437 passes (assumption 9). -/
opaque selfTestOk : Nat → Bool
/-- Whether the Syrad firmware lists this node as a host of the module (R431; assumption 9). -/
opaque isHost : Nat → Bool
/-- The port that the Syrad firmware names for a Reltin node, none for a node it does not know (R426;
assumption 9). -/
opaque portOf : Nat → Option Nat
/-- The node number that the fabric manager gives the module (R426; assumption 9). -/
opaque moduleNode : Nat
/-- Whether an owner's life-cycle command is the owner's (R440; assumption 9). -/
opaque ownerOk : List Byte → Bool
/-- The command number of the life-cycle command, which R440 does not give (assumption 9). -/
opaque lifeCommand : Nat
/-- The firmware image that an image-load command brings (R438 gives its fields no layout; assumption 9). -/
opaque firmwareOf : List Byte → List Byte
/-- The image, in the layout of R50 to R53, of the graph of a Syrad engine (memory die 0-3) into which the
look-up-table islands convert a firmware image (R437; assumption 9). -/
opaque firmwareGraph : List Byte → Nat → List Byte
/-- Whether a block of memory that reads as a live queue descriptor and that no queue operation has named is a queue, by
the step counter and its physical address, and the virtual address by which its partition knows it (assumption 22). -/
opaque queueThere : Nat → Nat → Bool
opaque queueAddr : Nat → Nat → Int
/-- The virtual address of the descriptor of a memory die's service queue, which the firmware image places
(R436; assumption 9). -/
opaque serviceDesc : Nat → Int
/-- The registration, key and route word, that a firmware cell's write of a matcher word makes; none where it
makes none (R434: the words are not architectural; assumption 9): word number, index, high half, value. -/
opaque matcherWord : Nat → Nat → Bool → Word → Option (Nat × Word)
/-- The identity that management command 2 returns (R438; assumption 9). -/
opaque identity : List Byte
/-- What a control core reads from an entry of a service queue (R436 gives it no layout; assumption 9): the
partition, the word number, index and memory die as R377 lays them out, and the value. -/
opaque serviceOf : Word → Nat × Word × DWord
/-- Whether an IEEE 1588 message is a sync message of the domain's grandmaster (R432; assumption 9). -/
opaque isSync : Word → List Byte → Bool
/-- The time of day after such a message, from its bytes and the local time (R432; assumption 7). -/
opaque disciplined : List Byte → Nat → Nat
/-- KiB of the trailhead's image store that a partition may use (R321; assumption 7). -/
opaque storeKib : Nat
/-- The page-table root under which a Syrad engine's own accesses translate: the firmware image places its
tables and the spec does not say where (assumption 21). -/
opaque syradRoot : Nat → DWord
/-- Byte i of a guyline chain's save area (R265 gives it no layout; assumption 23): handle, wave, last own,
successor, share, number of held entries. -/
opaque saveByte : List Nat → Nat → Byte
/-- The entry of the spill table, of 2^k, that a full frame number hashes to (R68 gives no hash; assumption 23). -/
opaque spillEntry : Nat → Nat → Nat
/-- Byte i of a spill-table entry (R68: its bytes are not architectural; assumption 23), by the step counter and the
frame number. -/
opaque spillByte : Nat → Nat → Nat → Byte
/-- Byte i of the flush area of a screen tile with these samples (R405 gives the area no layout;
assumption 23). -/
opaque flushByte : List (List Nat) → Nat → Byte

end Sys2Proof.Config
end

