-- ==== Sys2Proof/Syntax.lean ====
section
/-! DEFINITION. The syntax of the LV-860: the fields of an instruction word (R35, R36, R37, R79), the
names of its agents (R9, R22) and the one inductive of instructions and steps (opcode table). -/

namespace Sys2Proof

/-- The sixteen tag actions (R79), in code order. -/
inductive TagAct
  | keep | next | wavePlus | wave0 | call | ret | setcol | eod1 | eod2 | eod3
  | pois | drop | ifp | ifnp | yield | done
  deriving DecidableEq, Repr

/-- A source select (R36), in code order. -/
inductive Sel
  | a | b | c | d | lit | v | lane | zero
  deriving DecidableEq, Repr

/-- A thread register (R36, R37). -/
inductive Reg
  | a | b | c | d
  deriving DecidableEq, Repr

/-- A destination (R37); the reserved codes 102-126 have no term. -/
inductive Dst
  | route (n : Fin 96)
  | reg (r : Reg)
  | v
  | p
  | none
  deriving DecidableEq, Repr

/-- The fields of an instruction word with its slot's literal word (R32, R35). -/
structure Fields where
  tag : TagAct
  selA : Sel
  selB : Sel
  dst1 : Dst
  dst2 : Dst
  lit : Word
  deriving DecidableEq, Repr

/-- A token kind (R62 [5:4]), in code order. -/
inductive TokKind
  | data | scale | config | control
  deriving DecidableEq, Repr

/-- A place that owns cells and a copy engine (R15, R19, R433): a tile by number
64 * die + 8 * column + row (R62, R365), a matrix element 96 * die + element, a Syrad engine by
memory-die code (R10). -/
inductive Site
  | tile (n : Nat)
  | elem (n : Nat)
  | syrad (n : Nat)
  deriving DecidableEq, Repr

/-- An executing agent (R22): cell 0 of an element is its control cell. -/
structure Agent where
  site : Site
  cell : Nat
  deriving DecidableEq, Repr

/-- Where an uncorrectable error lies (R362). -/
inductive ErrPlace
  /-- a slice, HBM or first-level word at this physical address, found on a read or a write-back -/
  | memory (pa : Nat)
  /-- a slot of a cell's tables -/
  | table (ag : Agent) (slot : Nat)
  /-- a frame word, lane-file word, queue word or thread-slot word, by the model's own numbering; the words of a lane in a
  thread slot are 0 to 3 for its registers and 4 for `v` -/
  | frame (tile frame slot lane : Nat)
  | laneFile (ag : Agent) (index : Nat)
  | queue (ag : Agent) (port lane : Nat)
  | threadSlot (uid lane word : Nat)
  /-- a tile context in the bivouac store -/
  | bivouac (tile : Nat)
  /-- the copy of this physical address in a tile's first-level cache -/
  | l1 (tile pa : Nat)
  /-- the replica of this physical address in a slice of another memory die -/
  | replica (die pa : Nat)
  deriving DecidableEq, Repr

/-- A power state of an island (R441). -/
inductive IslandPower
  | off | idle | running
  deriving DecidableEq, Repr

/-- Every row of the opcode table: the 204 instructions, each with the fields of its word and its
literal, and the 123 events that the part's other steps are. An event takes what it acts on from the
state (`State.subj`), as an instruction takes its thread from there. -/
inductive Instr
  /-- R88: Produces no result and leaves v and the registers unchanged; its routes emit v. -/
  | nop (f : Fields)
  /-- R88: Copies operand A to the result, carrying its poison. -/
  | mov (f : Fields)
  /-- R88: Branches unconditionally to the literal's target slot, popping loop entries as R81 states. -/
  | jmp (f : Fields)
  /-- R88: Branches to the target when the any, all or none condition holds over p of the selected lanes. -/
  | brp (f : Fields)
  /-- R90: Pushes a loop-stack entry with count N from lane 0 of A, or skips the body when N is 0. -/
  | loop (f : Fields)
  /-- R91: When its condition holds, pops up to k loop entries and branches to the target. -/
  | lexit (f : Fields)
  /-- R83: Latches a per-lane block condition, a count and a mask that select the lanes of the next n instructions. -/
  | pblk (f : Fields)
  /-- R88: Waits under timeout T until the thread's outstanding counters are at or below the literal's limits. -/
  | waitc (f : Fields)
  /-- R88: Waits under timeout T until a semaphore of this tile reaches the threshold B. -/
  | waits (f : Fields)
  /-- R89: Emits the lanes with p set to destination 1 and the other lanes to destination 2. -/
  | steer (f : Fields)
  /-- R88: Returns the thread's wave and sets the wave to A[15:0]. -/
  | wavea (f : Fields)
  /-- R92: Returns the time of day or the die cycle count, either a low half that latches the high half or the latched high half. -/
  | time (f : Fields)
  /-- R93: When its condition holds, queues a trap record and suspends the thread until the reply. -/
  | trap (f : Fields)
  /-- R93: When its dbg.bkpten bit is set, queues a breakpoint record and suspends the thread until the reply. -/
  | bkpt (f : Fields)
  /-- R94: Waits until a time of day is reached, or until the frame's mailbox slot is present, then consumes it. -/
  | gate (f : Fields)
  /-- R88: Sets p from the poison of A and returns an unpoisoned value. -/
  | ptest (f : Fields)
  /-- R110: 32-bit wrapping add. -/
  | add (f : Fields)
  /-- R110: 32-bit wrapping subtract. -/
  | sub (f : Fields)
  /-- R110: Signed saturating add. -/
  | addss (f : Fields)
  /-- R110: Unsigned saturating add. -/
  | addzs (f : Fields)
  /-- R110: Signed saturating subtract. -/
  | subss (f : Fields)
  /-- R110: Unsigned saturating subtract. -/
  | subzs (f : Fields)
  /-- R110: Wrapping negation. -/
  | neg (f : Fields)
  /-- R110: Wrapping absolute value. -/
  | abs (f : Fields)
  /-- R110: Bitwise AND. -/
  | and (f : Fields)
  /-- R110: Bitwise OR. -/
  | or (f : Fields)
  /-- R110: Bitwise XOR. -/
  | xor (f : Fields)
  /-- R110: A AND NOT B. -/
  | andn (f : Fields)
  /-- R110: Adds A scaled by 2^B[4:0] to z. -/
  | lea (f : Fields)
  /-- R110: Low 32 bits of the product. -/
  | mul (f : Fields)
  /-- R110: High half of the signed 64-bit product. -/
  | mulh (f : Fields)
  /-- R110: High half of the unsigned 64-bit product. -/
  | mulhz (f : Fields)
  /-- R112: Logical shift left; 0 for counts of 32 or more. -/
  | shl (f : Fields)
  /-- R112: Logical shift right; 0 for counts of 32 or more. -/
  | shr (f : Fields)
  /-- R112: Arithmetic shift right. -/
  | sar (f : Fields)
  /-- R112: Rotate left by B[4:0]. -/
  | rotl (f : Fields)
  /-- R112: Counts leading zero bits. -/
  | clz (f : Fields)
  /-- R112: Counts one bits. -/
  | popc (f : Fields)
  /-- R112: Reverses the bit order. -/
  | brev (f : Fields)
  /-- R113: Extracts a bit field described by B, optionally sign-extending it. -/
  | bfx (f : Fields)
  /-- R113: Inserts a field of A into z at the field that B describes. -/
  | bfi (f : Fields)
  /-- R114: Signed division rounding toward zero, with fixed results for zero and overflow; 12 cycles. -/
  | div (f : Fields)
  /-- R114: Unsigned division; 12 cycles. -/
  | divz (f : Fields)
  /-- R114: Signed remainder; 12 cycles. -/
  | rem (f : Fields)
  /-- R115: Four signed byte products added exactly to z, then saturated. -/
  | dot4 (f : Fields)
  /-- R115: Four unsigned byte products added to z, then saturated. -/
  | dot4z (f : Fields)
  /-- R115: Eight signed nibble products added to z, then saturated. -/
  | dot8 (f : Fields)
  /-- R116: Builds each result byte from the bytes of x and z as the nibbles of y select. -/
  | bytep (f : Fields)
  /-- R117: 1 if equal. -/
  | cmpeq (f : Fields)
  /-- R117: 1 if not equal. -/
  | cmpne (f : Fields)
  /-- R117: Signed less-than. -/
  | cmplt (f : Fields)
  /-- R117: Signed less-or-equal. -/
  | cmple (f : Fields)
  /-- R117: Unsigned less-than. -/
  | cmpltz (f : Fields)
  /-- R117: Unsigned less-or-equal. -/
  | cmplez (f : Fields)
  /-- R117: Signed minimum. -/
  | min (f : Fields)
  /-- R117: Signed maximum. -/
  | max (f : Fields)
  /-- R117: Unsigned minimum. -/
  | minz (f : Fields)
  /-- R117: Unsigned maximum. -/
  | maxz (f : Fields)
  /-- R118: Selects A where p is set and B elsewhere. -/
  | sel (f : Fields)
  /-- R118: Clamps z, signed, to the range from A to B. -/
  | clamp (f : Fields)
  /-- R119: FP32 equality compare. -/
  | fcmpeq (f : Fields)
  /-- R119: FP32 less-than compare. -/
  | fcmplt (f : Fields)
  /-- R119: FP32 less-or-equal compare. -/
  | fcmple (f : Fields)
  /-- R119: 1 if either operand is a NaN. -/
  | fcmpun (f : Fields)
  /-- R154: FP32 add in the literal's rounding mode. -/
  | fadd (f : Fields)
  /-- R154: FP32 subtract. -/
  | fsub (f : Fields)
  /-- R154: FP32 multiply. -/
  | fmul (f : Fields)
  /-- R154: Fused multiply-add with z, one rounding. -/
  | fma (f : Fields)
  /-- R154: Fused multiply-subtract of z. -/
  | fms (f : Fields)
  /-- R154: z minus the product, one rounding. -/
  | fnma (f : Fields)
  /-- R154: FP32 minimum, NaN if either is a NaN. -/
  | fmin (f : Fields)
  /-- R154: FP32 maximum. -/
  | fmax (f : Fields)
  /-- R154: Clears the sign bit. -/
  | fabs (f : Fields)
  /-- R154: Inverts the sign bit. -/
  | fneg (f : Fields)
  /-- R154: Copies the sign of B onto A. -/
  | fcpys (f : Fields)
  /-- R154: Rounds to an integral value. -/
  | frint (f : Fields)
  /-- R154: Multiplies by 2^B. -/
  | fscale (f : Fields)
  /-- R155: Returns a one-hot class of the FP32 value. -/
  | fclass (f : Fields)
  /-- R154: Correctly rounded FP32 divide; 14 cycles. -/
  | fdiv (f : Fields)
  /-- R154: Exact X minus RoundInt(X) in the mode. -/
  | ffract (f : Fields)
  /-- R157: Packed 16-bit float add. -/
  | hadd (f : Fields)
  /-- R157: Packed 16-bit float subtract. -/
  | hsub (f : Fields)
  /-- R157: Packed 16-bit float multiply. -/
  | hmul (f : Fields)
  /-- R157: Packed 16-bit fused multiply-add with z. -/
  | hfma (f : Fields)
  /-- R157: Packed 16-bit minimum. -/
  | hmin (f : Fields)
  /-- R157: Packed 16-bit maximum. -/
  | hmax (f : Fields)
  /-- R157: Two-term packed dot product added to FP32 z with one rounding. -/
  | hdot (f : Fields)
  /-- R157: Packed 16-bit negation. -/
  | hneg (f : Fields)
  /-- R159: Converts one element between the integer and float formats. -/
  | cvt (f : Fields)
  /-- R160: Scales FP32 to FP8 and packs it into a byte of z, poisoning in finite-only mode. -/
  | cvtq8 (f : Fields)
  /-- R161: Widens a scaled FP8 byte to FP32. -/
  | cvte8 (f : Fields)
  /-- R162: Computes a power-of-two block scale from a block maximum. -/
  | bscal (f : Fields)
  /-- R167: Encodes one residue channel word. -/
  | renc (f : Fields)
  /-- R169: Reconstructs an integer or FP32 value from three channel words; 2 cycles. -/
  | rdec (f : Fields)
  /-- R168: Adds two channel words of one channel. -/
  | radd (f : Fields)
  /-- R168: Multiplies two channel words of one channel. -/
  | rmul (f : Fields)
  /-- R168: 1 if A is a canonical channel word. -/
  | rchk (f : Fields)
  /-- R172: Column-unit reciprocal. -/
  | xrcp (f : Fields)
  /-- R172: Column-unit square root. -/
  | xsqrt (f : Fields)
  /-- R172: Column-unit reciprocal square root. -/
  | xrsq (f : Fields)
  /-- R172: Column-unit 2^x. -/
  | xexp2 (f : Fields)
  /-- R172: Column-unit log2. -/
  | xlog2 (f : Fields)
  /-- R172: Column-unit sin(pi x). -/
  | xsin (f : Fields)
  /-- R172: Column-unit cos(pi x). -/
  | xcos (f : Fields)
  /-- R172: Column-unit tanh. -/
  | xtanh (f : Fields)
  /-- R172: Column-unit logistic sigmoid. -/
  | xsigm (f : Fields)
  /-- R172: Column-unit error function. -/
  | xerf (f : Fields)
  /-- R122: Requests a colour grant of a width and returns the colour word. -/
  | ctxa (f : Fields)
  /-- R142: Drops a colour's reference count and frees the grant at zero. -/
  | ctxf (f : Fields)
  /-- R142: Joins two adjacent equal-width colours into one of twice the width. -/
  | pack (f : Fields)
  /-- R142: Splits a granted colour into two halves. -/
  | unpack (f : Fields)
  /-- R143: Returns the lane word. -/
  | lane (f : Fields)
  /-- R142: Broadcasts lane B of A to every lane. -/
  | bcast (f : Fields)
  /-- R142: Each lane reads A from the lane its own B names. -/
  | perm (f : Fields)
  /-- R144: Exchanges lanes by xor, up, down or rotate. -/
  | shfl (f : Fields)
  /-- R145: Ballot, any, all, none or count over the selected lanes. -/
  | vote (f : Fields)
  /-- R133: Loads a lane-file word at a gang-uniform index. -/
  | lfld (f : Fields)
  /-- R133: Stores B to the lane file at a gang-uniform index. -/
  | lfst (f : Fields)
  /-- R133: Loads a lane-file word at a per-lane index A+B. -/
  | lfldx (f : Fields)
  /-- R133: Stores B to the lane file at a per-lane index. -/
  | lfstx (f : Fields)
  /-- R142: Moves the lanes with p set to the low lanes. -/
  | cmpct (f : Fields)
  /-- R139: Wrapping-add reduction into the reduction elements. -/
  | redadd (f : Fields)
  /-- R139: Signed-maximum reduction. -/
  | redmax (f : Fields)
  /-- R139: Signed-minimum reduction. -/
  | redmin (f : Fields)
  /-- R139: OR reduction. -/
  | redor (f : Fields)
  /-- R139: FP32 add reduction over four interleaved partials. -/
  | redfadd (f : Fields)
  /-- R139: FP32 maximum reduction. -/
  | redfmax (f : Fields)
  /-- R139: Inclusive integer scan. -/
  | scanadd (f : Fields)
  /-- R139: Exclusive integer scan. -/
  | scanxadd (f : Fields)
  /-- R139: Inclusive FP32 scan. -/
  | scanfadd (f : Fields)
  /-- R140: Closes a dimension, emits the fold and resets the elements. -/
  | eod (f : Fields)
  /-- R256: Issues a per-lane load through a stream; data returns later to its load targets. -/
  | ld (f : Fields)
  /-- R256: Issues a per-lane store that performs later at the home slice. -/
  | st (f : Fields)
  /-- R261: Sends a chain load with own, predecessor and successor numbers to the chain's home. -/
  | ldc (f : Fields)
  /-- R261: Sends a chain store of z to the chain's home. -/
  | stc (f : Fields)
  /-- R256: Hints a line fetch to the first-level cache or the slice. -/
  | prf (f : Fields)
  /-- R257: Requests a multicast of lines into the caches of up to 32 tiles, each signalled on a semaphore. -/
  | ldmc (f : Fields)
  /-- R247: Holds later accesses of chosen streams behind earlier accesses of others. -/
  | stbar (f : Fields)
  /-- R264: Opens a guyline chain, reserving a share at its home, and returns the handle. -/
  | chnopn (f : Fields)
  /-- R264: Sends a close for a chain naming its last access and a semaphore. -/
  | chncls (f : Fields)
  /-- R256: Byte-masked word store. -/
  | stm (f : Fields)
  /-- R258: Atomic add at the home slice. -/
  | aadd (f : Fields)
  /-- R258: Atomic minimum. -/
  | amin (f : Fields)
  /-- R258: Atomic maximum. -/
  | amax (f : Fields)
  /-- R258: Atomic AND. -/
  | aand (f : Fields)
  /-- R258: Atomic OR. -/
  | aor (f : Fields)
  /-- R258: Atomic XOR. -/
  | axor (f : Fields)
  /-- R258: Atomic exchange. -/
  | axchg (f : Fields)
  /-- R258: Atomic compare-and-swap against z. -/
  | acas (f : Fields)
  /-- R258: Atomic FP32 add. -/
  | afadd (f : Fields)
  /-- R259: Atomic residue-triple add to a TRI64 word, with sticky poison. -/
  | atri (f : Fields)
  /-- R287: Takes a fence entry covering the thread's unperformed accesses of chosen classes. -/
  | fence (f : Fields)
  /-- R289: Waits until a fence entry's set has performed and frees the entry. -/
  | fwait (f : Fields)
  /-- R235: Starts a copy of the descriptor at base.k+A and returns its handle. -/
  | copy (f : Fields)
  /-- R235: Starts a command-block chain on the tile's copy engine. -/
  | cblk (f : Fields)
  /-- R236: Cancels the copy or chain a handle names. -/
  | cpcnl (f : Fields)
  /-- R235: Adds to a local or remote semaphore, after an optional release. -/
  | semi (f : Fields)
  /-- R235: Sets a semaphore of this tile. -/
  | semset (f : Fields)
  /-- R235: Reads a semaphore of this tile. -/
  | semrd (f : Fields)
  /-- R238: Starts a chain counted at a rendezvous and/or sends a task packet to an element, then emits. -/
  | fork (f : Fields)
  /-- R235: Waits until a semaphore reaches a count, then subtracts it. -/
  | rdzv (f : Fields)
  /-- R239: Pushes one entry per selected lane to a package queue, all or nothing, waiting for room. -/
  | qpush (f : Fields)
  /-- R241: Waits for and pops one entry per selected lane from a package queue. -/
  | qpop (f : Fields)
  /-- R235: Queries a package queue's free entries or kills it. -/
  | qfree (f : Fields)
  /-- R235: Emits A as control-kind tokens on every route destination. -/
  | edgef (f : Fields)
  /-- R194: Queues a load of weight K-blocks or lookup weights from the element stage. -/
  | mload (f : Fields)
  /-- R195: Queues dense residue multiply-accumulate of stage rows into the accumulators. -/
  | mma (f : Fields)
  /-- R195: Queues sparse multiply-accumulate from header-and-value lines. -/
  | mmas (f : Fields)
  /-- R200: Queues lookup-mode multiply-accumulate. -/
  | mlut (f : Fields)
  /-- R199: Queues multiply-accumulate with rows formed by the unfolding unit. -/
  | munf (f : Fields)
  /-- R197: Queues a drain of accumulator rows to memory through the element's copy engine. -/
  | mdrn (f : Fields)
  /-- R201: Queues emptying of accumulator rows. -/
  | mzero (f : Fields)
  /-- R198: Queues a load of row, column, K-group or side-band scales. -/
  | mscl (f : Fields)
  /-- R201: Pins or frees row bases, sets the fold limit, or reads an entry's state word after the queue empties. -/
  | mbnd (f : Fields)
  /-- R201: Queues folding of the non-empty unpinned entries of rows. -/
  | mfold (f : Fields)
  /-- R388: Arms a ray-query record in the lane file. -/
  | rqinit (f : Fields)
  /-- R390: Proceeds a ray query, dropping a candidate. -/
  | rqpro (f : Fields)
  /-- R390: Commits a ray query's candidate. -/
  | rqcom (f : Fields)
  /-- R390: Aborts a ray query. -/
  | rqabt (f : Fields)
  /-- R389: Reads one field of a ray-query record. -/
  | rqget (f : Fields)
  /-- R392: Loads a node and tests the query's ray against its four boxes. -/
  | boxt (f : Fields)
  /-- R394: Loads a triangle and tests it watertightly against the query, updating the record. -/
  | trit (f : Fields)
  /-- R393: Loads a node and classifies its boxes against a beam. -/
  | beamt (f : Fields)
  /-- R397: Computes sample coverage of a quad from an edge record. -/
  | cover (f : Fields)
  /-- R398: Tests and merges two quad records. -/
  | qmrg (f : Fields)
  /-- R401: Appends to or reads a screen tile's ticket bin, binding the tile on first use. -/
  | tseq (f : Fields)
  /-- R402: Blends ticketed fragments into a screen-tile buffer, ends a ticket, or resolves the tile. -/
  | tblnd (f : Fields)
  /-- R413: Requests a filtered texture sample. -/
  | txs (f : Fields)
  /-- R414: Requests a latent-texture sample written as eight lane-file words. -/
  | txl (f : Fields)
  /-- R414: Requests a gather of the four footprint texels of one channel. -/
  | txg (f : Fields)
  /-- R396: Emits with kind-4 routes taking their scene partition from B. -/
  | homep (f : Fields)
  /-- R97: Allocates a frame on this tile and returns its continuation word. -/
  | falloc (f : Fields)
  /-- R98: Frees a frame at its home tile. -/
  | ffree (f : Fields)
  /-- R99: Reads a frame slot, optionally clearing its presence bit. -/
  | frd (f : Fields)
  /-- R99: Writes a frame slot, optionally marking slot 0 or 1 present. -/
  | fwr (f : Fields)
  /-- R379: Reads a control word into each selected lane. -/
  | cwget (f : Fields)
  /-- R379: Writes a control word, refused for non-writers. -/
  | cwset (f : Fields)
  /-- R329: Reads and checks an RCB and creates a child region. -/
  | rgne (f : Fields)
  /-- R330: Closes or fences a region subtree. -/
  | rgnx (f : Fields)
  /-- R331: Offers a launch packet to a host queue and returns its invocation id. -/
  | lnch (f : Fields)
  /-- R343: Queries, grows, shrinks or freezes a stage's tiles on this die. -/
  | place (f : Fields)
  /-- R317: Starts a commit of a new range-register set. -/
  | rcmit (f : Fields)
  /-- R380: Writes a program record, poisons lanes, and optionally fences or stops. -/
  | fltx (f : Fields)
  /-- R381: Offers a mark record to the lantern buffer. -/
  | mark (f : Fields)
  /-- R208: A token leaves the egress buffer onto the fabric, changing the sender's L and S counts. Acts on site, a = token. -/
  | tokenEgressDepart
  /-- R208: A token arrives at the target tile's ingress, changing the receiver's L and V counts. Acts on a = token. -/
  | tokenIngressArrival
  /-- R70: A token leaves ingress into its target queue, frame slot or mailbox once a slot of its kind is free. Acts on site, a = token. -/
  | tokenDelivery
  /-- R75: An idle cell picks a ready thread, completed pair or queue head and fires or resumes it. Acts on ag. -/
  | workSelection
  /-- R126: A gang candidate claims its lane cells and source cell, releasing them if reservations cannot succeed. Acts on ag. -/
  | gangClaim
  /-- R126: The gang fires once every claimed cell holds and its reservations succeed. Acts on ag. -/
  | gangFire
  /-- R85: A suspended wait is retested when a watched resource changes and ends with success when it holds. Acts on a = thread. -/
  | waitTest
  /-- R85: A wait's timeout passes and it ends with p clear. Acts on a = thread. -/
  | waitExpiry
  /-- R207: A thread suspended on queue reservations becomes ready when every reservation could succeed. Acts on a = thread. -/
  | reservationReady
  /-- R249: A load's or atomic's data arrives and is written to its load targets, lowering nld or nst. Acts on a = access. -/
  | loadDataReturn
  /-- R291: A read arrives at its home slice and is served. Acts on a = access, b = lane, c = 1 when it came through the nearest memory die. -/
  | sliceRead
  /-- R296: A write performs at its home slice and sends collapses to the line's replica holders. Acts on a = access, b = lane. -/
  | writePerform
  /-- R258: An atomic reads and writes its word indivisibly at the home slice and returns the old value. Acts on a = access, b = lane. -/
  | atomicPerform
  /-- R294: A replicable read reaches the nearest memory die and hits its replica or goes on to the home. Acts on a = access, b = lane. -/
  | replicaRead
  /-- R297: A fill arrives at a holder slice and is written, or discarded after a crossing collapse. Acts on a = fill. -/
  | replicaFill
  /-- R296: A collapse reaches a holder, which invalidates its replica and acknowledges. Acts on a = memory die, b = line, c = the collapse. -/
  | collapse
  /-- R296: A collapse acknowledgement reaches the home, letting the write perform at wider scopes. Acts on a = memory die, b = line, c = the collapse. -/
  | collapseAcknowledge
  /-- R295: A holder evicts a replica and tells the home, which clears its bit. Acts on a = memory die, b = line. -/
  | replicaEvict
  /-- R312: A translation miss walks the page tables at package scope. Acts on a = access, b = lane. -/
  | pageWalk
  /-- R312: A control core walks again and replies retry or fail to a translation-miss record. Acts on a = partition, b = entry. -/
  | translationMissService
  /-- R313: A control core copies the page from the pool, rewrites the leaf, invalidates and replies retry. Acts on a = partition, b = entry, c = phase. -/
  | copyOnWriteService
  /-- R421: An LDMC request reaches its home slice and joins, merges with or queues behind earlier services. Acts on a = access: it leaves; or, with c = 1, it arrives at the slice of service b. -/
  | ldmcRequestArrival
  /-- R420: The slice reads the next line of a multicast service and sends its beats along the reply mask. Acts on a = service. -/
  | ldmcLineRead
  /-- R257: A multicast line reaches a named tile, which fills it and adds its increment after the last line. Acts on a = service, b = tile. -/
  | ldmcReplyArrival
  /-- R302: A line's merge window closes 32 slice cycles after its last beat. Acts on a = service, b = line index. -/
  | mergeWindowClose
  /-- R261: A chain access reaches its home and is released, held, refused or dropped, with any cascade of releases. Acts on a = access: it arrives, or, once released, takes its turn. -/
  | chainAccessArrival
  /-- R262: A refused chain access returns to its cell and parks with a replayable record. Acts on a = access. -/
  | guylineOverflow
  /-- R264: A chain close reaches the home and waits for its last access. Acts on a = close. -/
  | chainCloseArrival
  /-- R264: The close completes: held entries dropped, share freed, generation raised and the semaphore released. Acts on a = partition, b = chain. -/
  | chainCloseComplete
  /-- R232: A QPUSH, QPOP or QFREE performs indivisibly at the descriptor's home slice. Acts on a = push. -/
  | packageQueueOperation
  /-- R220: The copy engine reads and checks a copy descriptor at its home slice. Acts on site, a = slot. -/
  | copyDescriptorRead
  /-- R218: The engine starts a chunk of up to 4,096 destination bytes of a copy. Acts on site, a = slot; b = 1: the writes of chunk c in flight. -/
  | copyChunk
  /-- R219: A copy's release performs; ncp or the chain falls and the semaphore increment is sent. Acts on site, a = slot. -/
  | copyComplete
  /-- R229: A remote semaphore increment arrives and is added in the cycle order of R229. Acts on a = operation. -/
  | remoteSemaphoreAdd
  /-- R227: A chain fetches a command block from its home slice into its window. Acts on site, a = slot; b = 1: a malformed block is next to run. -/
  | commandBlockFetch
  /-- R225: A link block runs and goes to its next link. Acts on site, a = slot. -/
  | linkBlock
  /-- R225: A copy block starts a copy and goes on without waiting. Acts on site, a = slot. -/
  | copyBlock
  /-- R425: A semaphore block adds to or sets a semaphore after its release. Acts on site, a = slot. -/
  | semaphoreBlock
  /-- R225: A test block compares a semaphore or memory word and takes the next, alternate or skip path, or waits. Acts on site, a = slot. -/
  | testBlock
  /-- R225: A waiting test block retests on a semaphore change or every 256 cycles. Acts on site, a = slot. -/
  | testBlockRetest
  /-- R225: A waiting test block's timeout passes and it takes the alternate link. Acts on site, a = slot. -/
  | testBlockTimeout
  /-- R225: A loop block pushes a count and runs its body link. Acts on site, a = slot. -/
  | loopBlock
  /-- R225: A call block reads its pointer, pushes its return and runs the target. Acts on site, a = slot. -/
  | callBlock
  /-- R424: A return block pops the stack and repeats a loop body or returns. Acts on site, a = slot. -/
  | returnBlock
  /-- R225: A fetch-fence block waits for earlier copies, discards fetched-ahead blocks and refetches. Acts on site, a = slot. -/
  | fetchFenceBlock
  /-- R228: A command chain ends once its last block has run and its copies completed. Acts on site, a = slot. -/
  | chainEnd
  /-- R185: The element starts the next queued group 0xD instruction after the previous one finishes. Acts on a = element. -/
  | matrixQueueStart
  /-- R185: A queued matrix instruction finishes (MDRN once its release performs) and nmx falls. Acts on a = element. -/
  | matrixInstructionFinish
  /-- R170: A column unit accepts the next request round-robin across the column's tiles. Acts on a = column unit. -/
  | columnRequestAccept
  /-- R170: The column unit's reply returns 24 cycles after the last lane and is written. Acts on a = the waiting thread. -/
  | columnReply
  /-- R408: A texture unit accepts a request from one of its two tiles. Acts on a = texture unit. -/
  | textureRequestAccept
  /-- R408: A texture reply returns and is written to the load targets or lane file. Acts on a = access. -/
  | textureReply
  /-- R405: A flushed screen tile's samples finish reloading and its state returns to bound. Acts on a = fabric die, v = descriptor address, c = partition. -/
  | screenTileReload
  /-- R429: A command flit arrives; the last flit enters the packet into a host queue and is acknowledged. Acts on a = flit. -/
  | commandFlit
  /-- R333: The trailhead takes the next packet by queue priority and checks its header and entries. Acts on a = partition. -/
  | launchCheck
  /-- R336: A launch copies and checks a new image within the image-store budget and judges image-dependent reasons. Acts on a = launch. -/
  | launchImage
  /-- R336: A launch pitches non-resident stages into their initial or pinned tiles within the tile budget. Acts on a = launch. -/
  | launchPlace
  /-- R54: With all 64 cell reports in, the tile sets image-valid and the dispatcher opens it. Acts on a = tile. -/
  | pitchComplete
  /-- R336: The packet goes to each die, which takes its share and allocates frames; task entries go to elements. Acts on a = launch. -/
  | launchArm
  /-- R341: A die's local time reaches the start time and it delivers its initial tokens and task packets. Acts on a = launch, b = die. -/
  | launchStart
  /-- R336: A budget wait in Image, Place or Arm lasts T and the launch fails with status 2. Acts on a = launch, b = the state whose wait it is. -/
  | launchWaitExpiry
  /-- R348: Every 2 us the trailhead reads each die's L, S and V and declares completion on two matching passes. Acts on b = due cycle. -/
  | completionPoll
  /-- R349: A completed invocation frees its frames, optionally strikes its image, and pushes and raises its notices. Acts on a = launch. -/
  | invocationRetire
  /-- R57: An image is struck from all its tiles once its last invocation retires. Acts on a = partition, b = version, v = name. -/
  | imageStrike
  /-- R344: Every 2 us the placement controller samples stage depths and serves grow and shrink requests. Acts on a = die, b = due cycle. -/
  | placementSample
  /-- R56: A tile being struck is empty and homes no live frame; its cells clear and it returns to the pool. Acts on a = tile. -/
  | strikeComplete
  /-- R325: A 50,000 ns period begins; budget counts restart and held requests go on. Acts on b = due time of day. -/
  | periodBoundary
  /-- R345: A region's quantum expires and its running invocations are pre-empted. Acts on a = partition, b = region, c = work clock of the last look. -/
  | quantumExpiry
  /-- R298: Every 65,536 cycles each region's replication degree is raised, lowered or kept, and counts zeroed. Acts on a = memory die, b = the cycle in which its window ends. -/
  | regionWindow
  /-- R300: Each die sends a heartbeat every 1 us on each link and the sleep side band. Acts on a = die, b = due cycle. -/
  | heartbeat
  /-- R300: Heartbeats are missed for 50 us; the die is declared lost, masks dropped and affected domains fenced. Acts on a = die. -/
  | dieLost
  /-- R300: A collapse waiting for a sleeping link passes 2 us and its status becomes wake overdue. Acts on a = memory die, b = line, c = collapse. -/
  | wakeOverdue
  /-- R300: A sleeping die-to-die link wakes and its waiting collapses proceed. Acts on a, b = the two dies. -/
  | linkWake
  /-- R357: A held class 0 or 3 record is written once the trap-queue occupancy falls below 248. Acts on a = partition, b = held record. -/
  | trapRecordWrite
  /-- R359: A flt.reply with action 0 retries the walk or write, resends the parked access, or resumes the thread. Acts on a = partition, b = entry, d = thread, v = value. -/
  | replyRetry
  /-- R359: A flt.reply with action 1 fails the access or ends the thread. Acts on a = partition, b = entry, d = thread, v = value. -/
  | replyFail
  /-- R359: A flt.reply with action 2 ends the thread or drops the parked access. Acts on a = partition, b = entry, d = thread, v = value. -/
  | replyEndThread
  /-- R366: flt.cmd command 1 raises the partition's halt line. Acts on a = partition, d = thread. -/
  | raiseHalt
  /-- R366: flt.cmd command 2 releases the halt once stop records are written; engines go on. Acts on a = partition, d = thread. -/
  | releaseHalt
  /-- R366: flt.cmd command 3 requests pre-emption of a region and its descendants. Acts on a = partition, b = region, d = thread. -/
  | preemptRegion
  /-- R366: flt.cmd command 4 requests resumption of a pre-empted region. Acts on a = partition, b = region, d = thread. -/
  | resumeRegion
  /-- R363: A stop fault raises the halt line, which reaches every engine of the partition within 64 cycles. Acts on a = partition, b = code (0 for a raise). -/
  | haltLineRaise
  /-- R364: An engine reaches its stop unit under halt or pre-emption and acknowledges. Acts on a = partition, b = slot, c. -/
  | engineStop
  /-- R370: With every acknowledgement in, the leader declares pre-emption complete and swap-out begins. Acts on a = partition. -/
  | preemptionComplete
  /-- R370: Tile contexts are in their bivouac slots; tiles are cleared and returned to the pool. Acts on a = partition. -/
  | swapOutComplete
  /-- R372: With every target tile free, tiles are repitched, contexts swapped in and engines go on. Acts on a = partition. -/
  | resume
  /-- R362: An uncorrectable ECC error is found and handled by where it lies. Acts on err. -/
  | memoryError
  /-- R362: A correctable soft error is corrected and counted in flt.ecc. Acts on a = partition. -/
  | eccCorrection
  /-- R374: The lantern buffer drains a record into the ring at lt.base. Acts on a = die. -/
  | lanternDrain
  /-- R306: l2.ctl wb starts a ranged write-back of the named domains. Acts on a = domains, d = thread. -/
  | l2Writeback
  /-- R306: The write-back pass ends and busy clears. -/
  | l2WritebackEnd
  /-- R307: l2.ctl switch holds, drains and writes back the named domains, or is refused. Acts on a = domains, d = thread. -/
  | l2Switch
  /-- R307: The staged configuration becomes current on every memory die and held requests replay. -/
  | l2SwitchCommit
  /-- R314: mmu.inval go starts dropping matching TLB entries of the partition. Acts on a = partition, d = thread, v = value. -/
  | mmuInvalidate
  /-- R314: Every TLB has dropped the entries and translated accesses have performed; mmu.invst clears. Acts on a = partition, c = phase. -/
  | mmuInvalidateComplete
  /-- R262: A write of gl.share enlarges or shrinks a chain's share if granted. Acts on a = partition, b = slice, d = thread, v = value. -/
  | glShareWrite
  /-- R337: Writing live 0 in th.q.i.cfg destroys a host queue, dropping unfetched packets. Acts on a = partition, b = queue, d = thread, v = value. -/
  | hostQueueDestroy
  /-- R6: A read of an RC counter returns and clears it indivisibly. Acts on a = partition, b = word, c = index, d = thread. -/
  | rcRead
  /-- R379: A write of a control word with no behaviour of its own, staged by halves for 64-bit words. Acts on a = partition, b = word, c = 1024 * memory die + index, d = thread, v = value. -/
  | controlWordWrite
  /-- R317: With every die's report in, all dies switch to the new range set and the semaphore is raised. Acts on a = partition. -/
  | rangeCommitSwitch
  /-- R428: A read flit arrives and is served at the home through the export window. Acts on a = flit. -/
  | readFlit
  /-- R427: A read reply flit returns data for an aperture read. Acts on a = flit. -/
  | readReplyFlit
  /-- R428: A write flit arrives and is performed at the home. Acts on a = flit, b, c = the line and the bound of a write that is done. -/
  | writeFlit
  /-- R428: An atomic flit arrives and performs at the remote home as a collective. Acts on a = flit, b, c = the line and the bound of one that is done. -/
  | atomicFlit
  /-- R427: An acknowledgement flit arrives, completing a remote access or command. Acts on a = flit. -/
  | acknowledgementFlit
  /-- R432: An IEEE 1588 message arrives and disciplines the module's time base. Acts on a = flit. -/
  | timeFlit
  /-- R428: A stop flit raises the partition's halt line. Acts on a = flit. -/
  | stopFlit
  /-- R429: Management command 1 returns th.q.i.cfg and th.q.i.st. Acts on a = flit. -/
  | managementQueueRead
  /-- R438: Management command 2 returns the module's identity. Acts on a = flit. -/
  | identity
  /-- R439: Management command 3 returns a signature over the firmware digest, state, stepping and nonce. Acts on a = flit. -/
  | attest
  /-- R438: Management command 4 verifies a firmware image, writes it to flash and resets. Acts on a = flit. -/
  | imageLoad
  /-- R430: Management command 5 checks a creation record and builds a partition. Acts on a = flit. -/
  | partitionCreate
  /-- R431: Management command 6 writes one control word of a partition. Acts on a = flit. -/
  | managementWrite
  /-- R431: Management command 7 halts, wipes and frees a partition. Acts on a = flit. -/
  | partitionDestroy
  /-- R440: A signed life-cycle command moves to the next state, destroying partitions, wiping and resetting. Acts on a = flit. -/
  | lifeCycleChange
  /-- R437: Power-on or reset wipes memory, self-tests, verifies firmware and boots or enters recovery. -/
  | powerOnReset
  /-- R434: A hardware event matching a registration is delivered as a control token to the firmware graph. Acts on a = memory die 0-3. -/
  | eventMatch
  /-- R434: A Syrad timer expires and raises a coalescing timer event. Acts on a = memory die 0-3, b = timer. -/
  | syradTimer
  /-- R436: A control core serves a request from its service queue and answers on the sibling. Acts on a = memory die 0-3. -/
  | controlCoreService
  /-- R441: Firmware puts an island off, idle or running, and links sleep or wake. Acts on a = island, power. -/
  | islandPower
  /-- R426: A flit reaching a Reltin port is forwarded toward its destination node through the one port the firmware names, or is discarded with the port's error count raised when it names no known node or carries a reserved kind. Acts on a = flit. -/
  | flitForwarding
  /-- R372: The swapped-in contexts are in place, guyline chains are restored, withdrawn accesses reissue, engines go on, the dispatcher entries open and the pre-emption state returns from 4 to 0. Acts on a = partition. -/
  | swapInComplete
  /-- R317: The range-commit read of the table, made at .pkg with acquire, returns and the entries are checked; a failure abandons the commit, writes mmu.rcstat, raises the semaphore and records a range commit fault, and a pass stages the set on every die. Acts on a = partition. -/
  | rangeTableRead
  deriving DecidableEq, Repr

/-- What an event acts on; each event names the parts it uses. -/
structure Subj where
  site : Site := .tile 0
  ag : Agent := ⟨.tile 0, 0⟩
  a : Nat := 0
  b : Nat := 0
  c : Nat := 0
  d : Nat := 0
  v : DWord := 0
  err : ErrPlace := .memory 0
  power : IslandPower := .running
  deriving DecidableEq, Repr

/-- What may happen next: the running thread of an agent issues, or an event comes about. -/
inductive Act
  | issue (ag : Agent)
  | ev (i : Instr) (x : Subj)
  deriving DecidableEq, Repr

end Sys2Proof
end

