-- ==== Sys2Proof/Machine/State.lean ====
section
/-! DEFINITION. The state of the module as plain data: threads, cells, tiles, elements, memory and its
replicas, partitions, launches, faults, lantern, Reltin; the fault and refusal reasons; the state after
reset. A table lists only entries that differ from its default, which the reader of the table names. -/

namespace Sys2Proof.Machine

/-- A finite table; the first entry of a key counts. -/
abbrev Tbl (κ α : Type) := List (κ × α)

/-! ## Threads and tokens -/

/-- One lane of a thread (R76): registers, the chained value and the predicate. -/
structure Lane where
  a : PWord
  b : PWord
  c : PWord
  d : PWord
  v : PWord
  p : Bool
  deriving DecidableEq, Repr

/-- A loop-stack entry (R90). -/
structure LoopEnt where
  start : Nat
  fin : Nat
  count : Nat
  deriving DecidableEq, Repr

/-- Predicate-block state (R83): latched condition per lane, length, mask, instructions executed. -/
structure Pblk where
  cond : List Bool
  n : Nat
  mask : BitVec 8
  j : Nat
  deriving DecidableEq, Repr

/-- What a waiting instruction waits for (R85). -/
inductive WaitKind
  | counters (ld st cp mx : Nat)
  | sem (k : Nat) (threshold : Word)
  | time (b : Word)
  | mailbox
  | fence (entry : Nat)
  | push (desc : Int) (entries : List Word) (ctl : Bool)
  | pop (desc : Int)
  | rdzv (k : Nat) (count : Word)
  /-- a QPUSH or QPOP whose queue has been killed (R233) -/
  | killed (push : Bool)
  /-- no wait of R85: the column unit's reply, a handler's reply, a screen tile -/
  | unit
  deriving DecidableEq, Repr

/-- A pending wait: its deadline on the partition's work clock (R86, R367), none for no expiry; the fields
of the waiting instruction that its end still needs. -/
structure Wait where
  kind : WaitKind
  deadline : Option Nat
  fields : Fields
  opc : Nat
  deriving DecidableEq, Repr

/-- A reserved slot (R206). -/
inductive Resv
  | egress (site : Site) (ctl : Bool)
  | queue (ag : Agent) (port : Nat)
  deriving DecidableEq, Repr

/-- Where a route destination's token goes (R41, R42, R342, R346). -/
inductive Tgt
  | site (x : Site)
  /-- a kind-1 route that finds no open tile of the stage on the die -/
  | hold (die stage : Nat)
  /-- R42 fails; the partition or stage that failed -/
  | fail (n : Nat)
  /-- a kind-4 route of a waiting instruction, whose result is not yet known -/
  | late
  /-- cut by the depth limit (R346) -/
  | cut
  deriving DecidableEq, Repr

/-- A token's tag (R62); `width` is the number of lanes. -/
structure Tag where
  frame : BitVec 20
  ip : BitVec 8
  port : BitVec 2
  wave : BitVec 16
  colour : BitVec 5
  width : Nat
  eod : BitVec 2
  kind : TokKind
  block : BitVec 4
  deriving DecidableEq, Repr

/-- One route destination of an issued instruction: destination 1 or 2, its route code, target cell and
frame slot, the emitted tag, the chosen target and the slots it holds (R40, R78, R206). -/
structure PlanEnt where
  dest : Nat
  code : Nat
  cell : Nat
  fslot : Nat
  tag : Tag
  tgt : Tgt
  resv : List (Resv × Bool)
  deriving DecidableEq, Repr

/-- What an issued instruction may emit; `bad` is the fault that keeps a `call` or `ret` from emitting. -/
structure Plan where
  ents : List PlanEnt
  bad : Option Nat
  deriving DecidableEq, Repr

/-- What a thread is doing. -/
inductive TStat
  /-- holds its cells and issues -/
  | run
  /-- in a wait of R85 -/
  | wait
  /-- ready to continue at its IP (R75 step 1) -/
  | ready
  /-- suspended until its reservations could succeed (R207) -/
  | reserve
  /-- suspended until a reply (R358) -/
  | reply
  /-- a record that could not yet be written holds it in place (R357) -/
  | record
  /-- waits for the column unit (R170) -/
  | column
  /-- waits for a screen tile's ticket, pages or reload (R402, R405) -/
  | ticket (desc : Int)
  deriving DecidableEq, Repr

/-- The staged low half of a 64-bit control word (R379). -/
structure Staged where
  word : Nat
  index : Nat
  die : Nat
  low : Word
  deriving DecidableEq, Repr

/-- An STBAR that holds streams (R247): later accesses of held streams wait for the listed accesses. -/
structure StGate where
  hold : BitVec 4
  accs : List Nat
  scope : Nat
  deriving DecidableEq, Repr

/-- A thread (R76). `src` is its source cell (R121); lane l of a gang runs on the cell R121 gives. -/
structure Thread where
  src : Agent
  part : Nat
  region : Nat
  /-- the launch that owns its frame, 0 for none -/
  inv : Nat
  lanes : List Lane
  ip : Nat
  frame : BitVec 20
  wave : BitVec 16
  colour : BitVec 5
  eod : BitVec 2
  kind : TokKind
  block : BitVec 4
  /-- top of stack first -/
  loops : List LoopEnt
  pblk : Option Pblk
  nld : Nat
  nst : Nat
  ncp : Nat
  nmx : Nat
  /-- the halves latched by TIME selectors 0 and 2 (R92) -/
  todHi : Word
  cycHi : Word
  stat : TStat
  /-- thread slot held while suspended; none while running or held in place (R95) -/
  slot : Option Nat
  wait : Option Wait
  /-- pending registers with the access each waits for (R249) -/
  pend : List (Reg × Nat)
  /-- TRIT and TXL accesses that still hold the lane file (R384) -/
  lfPend : List Nat
  staged : Option Staged
  stgates : List StGate
  /-- what the instruction that waits may emit, with the slots it holds -/
  plan : Plan
  /-- the step at which it last suspended or held (R75, R229) -/
  susp : Nat
  /-- accesses issued so far, which numbers them in issue order (R246) -/
  seq : Nat
  /-- ends at its next instruction boundary (R353) -/
  ending : Bool
  /-- collapses that the writes of its completed copies and chains, and of its completed drains, still wait for
  (R287) -/
  cpOwed : List Nat := []
  mxOwed : List Nat := []
  deriving DecidableEq, Repr

/-- A token with its delivery header (R61, R63) and its owner's launch. -/
structure Token where
  id : Nat
  tag : Tag
  data : List PWord
  dst : Site
  cell : Nat
  fslot : Nat
  src : Agent
  part : Nat
  region : Nat
  inv : Nat
  /-- it already holds a slot of its target queue (R206) -/
  held : Bool
  /-- a kind-1 route found no open tile: die and stage it waits for in egress (R342) -/
  unres : Option (Nat × Nat)
  /-- the step at which it joined its queue (R75) -/
  at_ : Nat
  /-- an initial token of a launch, delivered in entry order (R341) -/
  initial : Bool := false
  deriving DecidableEq, Repr

/-- A completed pair (R70, R73): lower and upper slot tokens, the later one last to arrive. -/
structure Pair where
  lower : Token
  upper : Token
  /-- the upper slot's token completed the pair -/
  upperLast : Bool
  frame : Nat
  slot : Nat
  /-- when the second token arrived (R75) -/
  at_ : Nat
  deriving DecidableEq, Repr

/-! ## Cells, tiles, elements -/

/-- A partial of a reduction element (R136); none is empty. -/
structure Red where
  parts : List (Option PWord)
  k : Nat
  op : Option Nat
  deriving DecidableEq, Repr

/-- A fence-table entry (R287). -/
structure FenceEnt where
  owner : Option Nat
  accs : List Nat
  copies : List (Site × Nat × Nat)
  chains : List (Site × Nat × Nat)
  matrix : List Nat
  /-- collapses that completed copies' and drains' writes still wait for -/
  owed : List Nat
  scope : Nat
  faulted : Bool
  gen : BitVec 12
  deriving DecidableEq, Repr

/-- A gang candidate's claim (R126): the cells, and whether it is a queue head, a pair or a resumed
thread that claims; a head and a pair are known by the number of their last token. -/
inductive Cand
  | head (port id : Nat)
  | pair (slot frame id : Nat)
  | thread (uid : Nat)
  deriving DecidableEq, Repr

structure Claim where
  ag : Agent
  cells : List Nat
  cand : Cand
  deriving DecidableEq, Repr

/-- A cell (R16): tables, queues, thread slots, lane-file bank, reduction element, fence table. -/
structure Cell where
  instr : Tbl Nat Word
  lits : Tbl Nat Word
  routes : Tbl Nat Word
  nroutes : Nat
  bases : Tbl Nat DWord
  /-- the actor's last slot; none: no content (R53, R55) -/
  last : Option Nat
  queues : Tbl Nat (List Token)
  qresv : Tbl Nat Nat
  pairs : List Pair
  run : Option Nat
  slots : Tbl Nat Nat
  issued : Word
  passed : Word
  bank : Tbl Nat PWord
  red : Red
  fences : Tbl Nat FenceEnt
  /-- slots whose tables hold an uncorrectable error (R362) -/
  bad : List Nat
  deriving DecidableEq, Repr

/-- A frame (R64, R66): slot words per lane, presence bits, use count, size class. -/
structure Frame where
  cls : Nat
  use : Nat
  spilled : Bool
  slots : Tbl Nat (List PWord)
  present : List Nat
  /-- the tokens whose words stand in operand slots, for the firing of R73 -/
  toks : Tbl Nat Token
  part : Nat
  region : Nat
  inv : Nat
  deriving DecidableEq, Repr

/-- A colour grant (R122). -/
structure Grant where
  width : Nat
  count : Nat
  deriving DecidableEq, Repr

/-- An image of a partition (R49, R454). -/
structure ImgKey where
  part : Nat
  name : DWord
  version : Word
  deriving DecidableEq, Repr

/-- A parsed copy descriptor (R214 to R217). -/
structure CopyDesc where
  src : DWord
  dst : DWord
  srcKind : Nat
  dstKind : Nat
  rel : Nat
  acq : Nat
  sat : Bool
  mode : Nat
  dfmt : Nat
  sfmt : Nat
  /-- extents, source and destination strides in bytes, innermost first -/
  dims : List (Nat × Int × Int)
  inc : Nat
  remote : Bool
  semTile : Nat
  sem : Nat
  deriving DecidableEq, Repr

/-- Who started a copy: a thread or a chain of the same engine (R219). -/
inductive Issuer
  | thread (uid : Nat)
  | chain (slot : Nat)
  deriving DecidableEq, Repr

/-- Identity of the work that a record names (R356). -/
structure Who where
  ag : Agent
  part : Nat
  region : Nat
  inv : Nat
  frame : BitVec 20
  wave : BitVec 16
  ip : Nat
  opc : Nat
  /-- the cell of lane 0 (R121): a record that names a suppressed lane names its lane cell (R415) -/
  lane0 : Nat
  deriving DecidableEq, Repr

/-- Where an element of a copy goes: a memory address with its physical one, a stage offset, an element's
side band (R218). -/
inductive ElemDst
  | mem (ea : Int) (pa : Nat)
  | stage (off : Nat)
  | band (e : Nat)
  deriving DecidableEq, Repr

/-- A chunk in flight: it has read its sources; its writes are still to come. -/
structure Chunk where
  idx : Nat
  writes : List (ElemDst × List Byte)
  /-- the number under which its reads ask the homes for fills (R422) -/
  fill : Nat := 0
  deriving DecidableEq, Repr

/-- A copy in a copy slot (R218 to R223). -/
structure Copy where
  desc : Int
  parsed : Option CopyDesc
  /-- next element in visit order -/
  next : Nat
  issuer : Issuer
  who : Who
  gen : BitVec 16
  /-- accesses the descriptor read waits for (R220) -/
  gate : List Nat
  /-- the page and code of the record it is parked on (R221) -/
  parked : Option (Nat × Nat)
  cancelled : Bool
  /-- a fault has ended it: no further chunk, no semaphore (R221) -/
  failed : Bool
  /-- collapses its writes still wait for -/
  owed : List Nat
  flight : List Chunk
  /-- the access that reads the next chunk's sources from another module (R428) -/
  fetching : Option Nat
  /-- accesses that write to another module -/
  sent : List Nat
  /-- issue order among the engine's copies (R218) -/
  seq : Nat
  suppressed : Nat
  firstSup : Option Int
  /-- the address of a write that another module refused (R428) -/
  refused : Option Int := none
  deriving DecidableEq, Repr

/-- A fetched command block (R224): its address and 64 bytes. -/
structure Block where
  va : Int
  bytes : List Byte
  deriving DecidableEq, Repr

/-- A return-stack entry of a chain (R225, R424). -/
inductive RetEnt
  | loop (next body : DWord) (count : Nat)
  | call (next : DWord)
  deriving DecidableEq, Repr

/-- A command chain in a chain slot (R224 to R228). -/
structure CbChain where
  /-- the block to fetch next -/
  fetch : Option DWord
  /-- blocks fetched, the running one first -/
  window : List Block
  stack : List RetEnt
  who : Who
  uid : Nat
  gen : BitVec 16
  gate : List Nat
  /-- copy slots it started that have not completed -/
  copies : List Nat
  /-- collapses that its completed copies' writes still wait for -/
  owed : List Nat
  /-- rendezvous semaphore of the FORK that started it (R238) -/
  fork : Option Nat
  /-- a waiting test block: deadline on the work clock (R225) -/
  testing : Option (Option Nat)
  retest : Nat
  /-- a fault or CPCNL has stopped it -/
  stopped : Bool
  parked : Option (Nat × Nat)
  ended : Bool
  /-- a test block's outcome is skip and the block that it skips is still to be read (R225) -/
  skipping : Bool := false
  /-- a fault of it or of a copy that it started has been recorded (R288) -/
  faulted : Bool := false
  deriving DecidableEq, Repr

/-- A column-unit request (R170): the thread, whether it is accepted, the cycle it was made. -/
structure ColReq where
  uid : Nat
  accepted : Bool
  at_ : Nat
  deriving DecidableEq, Repr

/-- A tile, element or Syrad engine (R15, R17, R19, R433). -/
structure SiteSt where
  part : Option Nat
  img : Option ImgKey
  stage : Nat
  /-- image-valid: the dispatcher entry is open (R54 step 4) -/
  valid : Bool
  pitching : Bool
  /-- under a placement strike (R56) -/
  striking : Bool
  initial : Bool
  pinned : Bool
  /-- region whose launch or growth pitched it -/
  region : Nat
  /-- order of the grant, for the most recently granted tile (R343) -/
  granted : Nat
  frames : Tbl Nat Frame
  grants : Tbl Nat Grant
  sems : Tbl Nat Word
  egress : List Token
  egResv : Nat
  ingress : List Token
  copies : Tbl Nat Copy
  copyGens : Tbl Nat (BitVec 16)
  chains : Tbl Nat CbChain
  chainGens : Tbl Nat (BitVec 16)
  claims : List Claim
  colq : List ColReq
  texq : List Nat
  swapped : Bool
  /-- an uncorrectable error was found in the engine's state (R362, R365) -/
  err : Bool
  /-- tokens numbered from here on were routed after its strike began (R56) -/
  struckAt : Nat := 0
  deriving DecidableEq, Repr

/-- A weight block (R175, R178): format code, per column the 32 windows, exponent and bad mark. -/
structure WCol where
  w : List Int
  eb : Int
  bad : Bool
  deriving DecidableEq, Repr

structure WBlock where
  fmt : Nat
  cols : Tbl Nat WCol
  deriving DecidableEq, Repr

/-- An accumulator entry (R181): the triple, its poison, base, bound, fold register, folded flag. -/
structure AccEnt where
  c0 : Nat
  c1 : Nat
  c2 : Nat
  pois : Bool
  beta : Int
  u : Nat
  f : Word
  folded : Bool
  deriving DecidableEq, Repr

/-- A drain's descriptor, read as it starts (R197). -/
structure Drain where
  dest : DWord
  stride : Int
  out : Nat
  mode : Nat
  rel : Nat
  clear : Bool
  c0 : Nat
  cols : Nat
  deriving DecidableEq, Repr

/-- A queued group 0xD instruction (R185). -/
structure MxInstr where
  op : Nat
  lit : Word
  a : Word
  b : Word
  uid : Nat
  who : Who
  id : Nat
  /-- accesses that must perform before it starts (R276) -/
  gate : List Nat
  /-- next row, or K-block, of a running instruction (R188) -/
  row : Nat
  /-- nothing more of it is to be done -/
  done : Bool
  drain : Option Drain
  /-- the page and code of the record that a drain is parked on -/
  parked : Option (Nat × Nat)
  /-- collapses that a drain's writes wait for; its accesses to another module -/
  owed : List Nat
  sent : List Nat
  /-- outputs that a drain suppressed, with the address of the first (R255) -/
  sup : Nat
  supEa : Option Int
  /-- its "residue range" fault is raised (R203) -/
  ranged : Bool
  /-- another fault of it has been recorded (R288) -/
  faulted : Bool := false
  /-- the address of a write that another module refused (R428) -/
  refused : Option Int := none
  deriving DecidableEq, Repr

/-- A matrix element's own state (R175). -/
structure Elem where
  lookup : Bool
  blocks : Tbl Nat WBlock
  /-- lookup planes as loaded (R194): 64 bytes for each group of four K positions, one nibble a column; the
  weight-2 plane, then the weight-1 plane, which alone a one-bit store uses -/
  lut1 : List Byte
  lut0 : List Byte
  lutTwo : Bool
  g : Tbl Nat Int
  cs : Tbl Nat Word
  rs : Tbl Nat Word
  pins : Tbl Nat Int
  lam : Nat
  acc : Tbl Nat AccEnt
  side : List (BitVec 8 × Word)
  queue : List MxInstr
  running : Option MxInstr
  stage : Tbl Nat Byte
  deriving DecidableEq, Repr

/-! ## Memory accesses -/

/-- The atomic operations (R258, R259). -/
inductive AtKind
  | add | min (uns : Bool) | max (uns : Bool) | and | or | xor | xchg | cas | fadd (mode : Nat) | tri
  deriving DecidableEq, Repr

/-- A texture instruction's form (R385, R413, R414). -/
inductive TexOp
  | txs | txl | txg
  deriving DecidableEq, Repr

inductive AccOp
  | ld (signed : Bool)
  | st
  | stm
  | atomic (k : AtKind)
  | prf
  | ldmc (mask : Nat) (die : Nat) (half : Bool) (lines : Nat) (sem : Nat) (inc : Nat)
  | box
  | tri
  | beam
  | tseq
  | tex (op : TexOp)
  deriving DecidableEq, Repr

/-- Progress of one lane of an access. -/
inductive LaneSt
  /-- translated; may perform once its order allows -/
  | todo
  /-- its translation must walk (R309) -/
  | walk
  /-- parked on a replayable record (R253) -/
  | parked
  /-- sent to another module (R428) -/
  | remote
  /-- a read bound, or a write written at its home -/
  | done
  deriving DecidableEq, Repr

/-- One lane of an access. -/
structure LaneAcc where
  lane : Nat
  ea : Int
  pa : Nat
  /-- replication attribute of its translation (R299) -/
  repl : Nat
  size : Nat
  bytes : List Byte
  mask : List Bool
  /-- compare value of ACAS, or the high word of ATRI -/
  z : Word
  st : LaneSt
  /-- what was read -/
  got : List Byte
  pois : Bool
  /-- the collapses its write sent (R268) -/
  acks : List Nat
  /-- query or beam record read at issue (R394) -/
  qrec : List PWord
  qAt : Nat
  deriving DecidableEq, Repr

/-- A chain access's place in its chain (R261). -/
structure ChainRef where
  handle : Word
  own : Nat
  pred : Nat
  succ : Nat
  /-- it has reached the home, which did not refuse it -/
  arrived : Bool
  released : Bool
  /-- it is performing -/
  active : Bool
  deriving DecidableEq, Repr

/-- An issued access (R243 to R254). -/
structure Access where
  op : AccOp
  uid : Nat
  who : Who
  seq : Nat
  stream : Option Nat
  /-- 0 rlx, 1 acq, 2 rel, 3 ar, 4 sc -/
  ord : Nat
  scope : Nat
  noalloc : Bool
  targets : List Reg
  lanes : List LaneAcc
  chain : Option ChainRef
  lit : Word
  desc : Int
  faulted : Bool
  /-- failed lanes with their reason: 0 poison, 1 to 6 of "memory address", 9 a memory error (R254) -/
  fails : List (Nat × Nat)
  /-- its "memory address" record is written -/
  recd : Bool
  /-- its data was returned and its counter has fallen -/
  retired : Bool
  gates : List (List Nat × Nat)
  deriving DecidableEq, Repr

/-- Semaphore work under way (R219, R229, R231): what must perform first, then the operation. -/
structure SemOp where
  site : Site
  sem : Nat
  val : Word
  set : Bool
  gate : List Nat
  scope : Nat
  owed : List Nat
  /-- the launch it belongs to, 0 for none -/
  inv : Nat
  /-- the thread whose SEMI sent it, 0 for none, and the sequence number of its next access (R281) -/
  uid : Nat
  seq : Nat
  deriving DecidableEq, Repr

/-- A package queue (R232): its partition, the Syrad engine by whose tables a system queue's addresses translate, the
virtual and the physical address of its descriptor. -/
structure QueueId where
  part : Nat
  via : Site
  desc : Int
  pa : Nat
  deriving DecidableEq, Repr

/-- A control push of hardware to a package queue (R233, R333, R349). -/
structure PqOp where
  part : Nat
  /-- the engine by whose tables the system's own address translates -/
  via : Site
  desc : Int
  words : List Word
  /-- the physical address of the descriptor whose lost count takes a packet that is dropped (R233) -/
  dead : Option Nat
  deriving DecidableEq, Repr

/-- A guyline chain of a partition (R260 to R264). -/
structure Chain where
  isOpen : Bool
  gen : BitVec 16
  scope : Nat
  share : Nat
  save : Int
  w : BitVec 16
  s : Option Nat
  l : Nat
  /-- held entries, oldest first -/
  held : List Nat
  /-- released entries that have not performed, in release order -/
  released : List Nat
  home : Nat
  /-- the last access named by an arrived close, with its semaphore -/
  closing : Option (BitVec 16 × Nat × Site × Nat × Bool)
  /-- a pre-emption has written the chain to its save area (R265) -/
  saved : Bool
  /-- the cycle in which its gap stall began -/
  stall : Nat
  who : Option Who
  deriving DecidableEq, Repr

/-- A close on its way (R264). -/
structure CloseMsg where
  part : Nat
  handle : Word
  wave : BitVec 16
  own : Nat
  site : Site
  sem : Nat
  ok : Bool
  who : Who
  deriving DecidableEq, Repr

/-- A multicast reply on its way to a tile: its line, its bytes (none for an unreadable line), the requests
that it serves. -/
structure McReply where
  tile : Nat
  line : Nat
  bytes : List Byte
  accs : List Nat
  deriving DecidableEq, Repr

/-- Second copies of a line that a service still sends: line, requests with their tiles, bytes. -/
structure McLate where
  line : Nat
  want : List (Nat × Nat)
  bytes : List Byte
  deriving DecidableEq, Repr

/-- The lines of one LDMC that one slice serves (R302, R303, R420, R421); slice 64 stands for lines that
come from another module. -/
structure McSvc where
  slice : Nat
  die : Nat
  scope : Nat
  acc : Nat
  arrived : Bool
  /-- arrival order at the slice -/
  order : Nat
  /-- line numbers, ascending -/
  lines : List Nat
  /-- per line, the requests it serves with the tiles of each -/
  want : List (List (Nat × Nat))
  /-- index of the line whose reply leaves next -/
  next : Nat
  /-- that line has been read -/
  read : Bool
  /-- lines whose merge window is open -/
  windows : List Nat
  /-- buffered reads, by line index -/
  buf : Tbl Nat (List Byte)
  late : List McLate
  replies : List McReply
  /-- what the die's own tiles have newer of lines read already: tile, address, bytes and mask (R274, R280) -/
  own : List (Nat × Nat × List Byte × List Bool) := []
  deriving DecidableEq, Repr

/-! ## Regions, launches, partitions -/

/-- A region (R322, R323): the RCB's own fields. -/
structure Region where
  parent : Nat
  prio : Nat
  own : Bool
  inherit_ : BitVec 16
  items : List Nat
  closed : Bool
  /-- the close that frees it and the semaphore to raise (R330) -/
  closer : Option (Site × Nat)
  /-- owner region of its fault domain -/
  dom : Nat
  /-- activity counted in the period: die and item (R325) -/
  used : Tbl (Nat × Nat) Nat
  /-- quantum time used, on the work clock (R345) -/
  ran : Nat
  deriving DecidableEq, Repr

/-- A fault domain (R354). -/
structure Dom where
  fenced : Bool
  policy : Bool
  faults : Nat
  deriving DecidableEq, Repr

/-- A launch's states (R336). -/
inductive LaunchSt
  | check | image | place | arm | run | retire | done
  deriving DecidableEq, Repr

/-- A token entry of a packet (R332). -/
structure Entry where
  w0 : Word
  w1 : Word
  payload : Word
  key : Word
  deriving DecidableEq, Repr

/-- An accepted launch and its invocation (R332, R335, R336, R348). -/
structure Launch where
  part : Nat
  queue : Nat
  id : Word
  /-- accepted count when it entered (R333) -/
  accepted : Nat
  region : Nat
  hdr : List Byte
  entries : List Entry
  st : LaunchSt
  /-- start of its current state, on the work clock -/
  since : Nat
  status : Nat
  /-- image bytes charged to the store (R322 item 3), in KiB -/
  kib : Nat
  /-- initial tokens waiting for the start, per die -/
  armed : Tbl Nat (List Token)
  /-- its frames are allocated and its tokens hold for the start (R341) -/
  ready : Bool
  started : List Nat
  dones : Nat
  faults : Nat
  /-- tokens sent to and received from other dies, per die (R348) -/
  sent : Tbl Nat Nat
  recv : Tbl Nat Nat
  /-- the sum of sent tokens of the last passing round -/
  passed : Option Nat
  /-- owner table read at Arm (R395) -/
  owners : List Word
  /-- the collapses outstanding at its retirement, which waits for them (R349) -/
  owed : List Nat
  fenced : Bool
  issuer : Option Nat
  /-- the tiles that it has pitched, with the order of their grants (R336) -/
  pitched : List (Nat × Nat) := []
  deriving DecidableEq, Repr

/-- An image in the trailhead's store (R49). -/
structure Image where
  key : ImgKey
  bytes : List Byte
  kib : Nat
  strike : Bool
  region : Nat
  /-- its strike has begun: its tiles are being struck (R57) -/
  begun : Bool
  deriving DecidableEq, Repr

/-- A placement stage's runs on one die (R344). -/
structure Place where
  grow : Nat
  shrink : Nat
  frozen : Bool
  deriving DecidableEq, Repr

/-- A packet in a host queue: the accepted count that it carries, the region of the thread that offered it
(none for a host), its bytes (R331, R335). -/
structure QPacket where
  count : Nat
  issuer : Option Nat
  bytes : List Byte
  deriving DecidableEq, Repr

/-- A host queue (R337, R338). -/
structure HostQ where
  live : Bool
  prio : Nat
  accepted : Nat
  packets : List QPacket
  sib : DWord
  deriving DecidableEq, Repr

/-- A range register (R315). -/
structure RangeReg where
  vbase : Int
  vlimit : Int
  pbase : Nat
  write : Bool
  repl : Nat
  deriving DecidableEq, Repr

/-- A range commit under way (R317). -/
structure Commit where
  table : Int
  site : Site
  sem : Nat
  who : Who
  staged : Option (Tbl Nat RangeReg)
  /-- accesses the old set translated that have not performed -/
  gate : List Nat
  deriving DecidableEq, Repr

/-- What a reply to a record acts on (R359). -/
inductive RecFor
  | page (page : Nat) (die : Nat)
  | guyline (acc : Nat)
  | loop (uid : Nat)
  | trap (uid : Nat)
  | open_ (uid : Nat)
  deriving DecidableEq, Repr

/-- A record that awaits a reply, by its entry (R355, R359). -/
structure RecMeta where
  seq : Word
  for_ : RecFor
  code : Nat
  va : Int
  answered : Bool
  deriving DecidableEq, Repr

/-- A class 0 or 3 record not yet written (R357). -/
structure HeldRec where
  code : Nat
  cls : Nat
  region : Nat
  inv : Word
  details : List Word
  for_ : RecFor
  va : Int
  /-- written since, its agent not yet told -/
  written : Bool
  deriving DecidableEq, Repr

/-- A reply kept for an agent that is swapped out (R360): what its record was for and its code. -/
structure KeptReply where
  for_ : RecFor
  code : Nat
  action : Nat
  deriving DecidableEq, Repr

/-- Pre-emption of a partition (R369 to R372). -/
structure Preempt where
  /-- 0 idle, 1 stopping, 2 swapping out, 3 swapped, 4 swapping in (R361) -/
  st : Nat
  regions : List Nat
  tiles : List Nat
  elems : List Nat
  /-- engine slots (R365) still to stop -/
  toStop : List Nat
  byQuantum : Bool
  deriving DecidableEq, Repr

/-- A partition (R320, R378). -/
structure Part where
  tiles : List Nat
  elems : List Nat
  doms : BitVec 16
  /-- physical ranges per memory die: base and size (R430) -/
  mem : Tbl Nat (Nat × Nat)
  handler : List Byte
  frmK : Nat
  spillbase : DWord
  regions : Tbl Nat Region
  domains : Tbl Nat Dom
  chains : Tbl Nat Chain
  root : DWord
  ranges : Tbl Nat RangeReg
  commit : Option Commit
  rcstat : Word
  cowbase : DWord
  cowlimit : DWord
  invst : Option (Nat × Int × List Nat)
  queues : Tbl Nat HostQ
  lastQueue : Nat
  tqBase : DWord
  tqHead : Word
  tqTail : Word
  seq : Word
  recs : Tbl Nat RecMeta
  heldRecs : Tbl Nat HeldRec
  kept : List KeptReply
  lost : Word
  ecc : Word
  halted : Bool
  stop1 : Nat
  stop2 : Nat
  /-- engine slots that have still to write their stop record (R365) -/
  stopping : List Nat
  haltAt : Nat
  refused : Bool
  preempt : Preempt
  srbase : DWord
  bkpten : Word
  lfOob : Word
  lfOobIdx : Word
  mxOob : Word
  mxOobAdr : Word
  ownbase : DWord
  owncnt : Word
  expBase : DWord
  expSize : DWord
  /-- tile-buffer page quota per die (R399) -/
  quota : Tbl Nat Nat
  /-- cycles that did not count as work time (R367) -/
  frozen : Nat
  /-- the period in which its regions' activity was counted (R325) -/
  period : Nat := 0
  deriving DecidableEq, Repr

/-! ## Slices, replicas, screen tiles, lantern, Reltin -/

/-- An interleave domain's words on one die (R293). -/
structure L2Dom where
  base : Nat
  limit : Nat
  slices : BitVec 16
  hash : Tbl Nat DWord
  deriving DecidableEq, Repr

/-- A line held at its home (R295). -/
structure Line where
  holders : List Nat
  dirty : Bool
  /-- its home evicts it once its replicas are gone (R295) -/
  leaving : Bool
  /-- the partition and region for which it came from HBM (R325) -/
  owner : Nat × Nat
  deriving DecidableEq, Repr

/-- A replica of a line in a slice of another memory die (R294). -/
structure Replica where
  /-- the number of the fill that brought it -/
  id : Nat
  bytes : List Byte
  /-- addresses under an uncorrectable error (R362) -/
  bad : List Nat
  deriving DecidableEq, Repr

/-- A fill on its way to a holder (R294, R297, R422). -/
structure Fill where
  die : Nat
  line : Nat
  bytes : List Byte
  /-- a collapse crossed it (R297) -/
  discard : Bool
  /-- the access whose reply it is, 0 for an engine's read (R422) -/
  acc : Nat
  /-- addresses under an uncorrectable error (R362) -/
  bad : List Nat := []
  deriving DecidableEq, Repr

/-- A collapse on its way or waiting (R296, R300). -/
structure Coll where
  id : Nat
  die : Nat
  line : Nat
  /-- threads that have read the line at its home since (R274) -/
  seen : List Nat
  since : Nat
  arrived : Bool
  /-- 1 waiting, 2 wake pending, 3 wake overdue (R301) -/
  st : Nat
  deriving DecidableEq, Repr

/-- A tracked 2 MiB region (R298). -/
structure RegEnt where
  degree : Nat
  holders : List Nat
  pinned : Bool
  reads : Tbl Nat Nat
  colls : Nat
  last : Nat
  deriving DecidableEq, Repr

/-- A slice's counters and words (R261, R262, R301). -/
structure SliceSt where
  rhit : Word
  rfill : Word
  coll : Word
  raise : Word
  lower : Word
  cwait : Word
  mcmrg : Word
  gaps : Word
  gapcyc : Word
  shareOk : Bool
  /-- an uncorrectable error was found in a line it holds (R362, R365) -/
  err : Bool := false
  deriving DecidableEq, Repr

/-- A TLB entry (R309). -/
structure TlbEnt where
  part : Nat
  page : Nat
  bits : Nat
  pa : Nat
  write : Bool
  cow : Bool
  repl : Nat
  deriving DecidableEq, Repr

/-- A domain switch under way (R307). -/
structure Switch where
  doms : BitVec 16
  deriving DecidableEq, Repr

/-- A sample of a screen-tile buffer (R399). -/
structure Sample where
  depth : Word
  rgba : List (BitVec 16)
  deriving DecidableEq, Repr

/-- A screen-tile table entry (R399, R400): what its descriptor gave when it was bound, its counters, its
pages, and the samples that differ from the clear values. -/
structure ScrTile where
  lgS : Nat
  flush : Int
  clear : Sample
  issued : Word
  expected : Word
  late : Word
  resident : Bool
  flushed : Bool
  pages : Nat
  binPages : Nat
  samples : Tbl Nat Sample
  bin : Tbl Nat Word
  last : Nat
  region : Nat
  deriving DecidableEq, Repr

/-- A lantern record in a die's buffer (R375): its eight words. -/
structure LtRec where
  words : List Word
  deriving DecidableEq, Repr

/-- A flit (R427). -/
structure Flit where
  kind : Nat
  part : Nat
  dst : Nat
  src : Nat
  word : Word
  arg : DWord
  payload : List Byte
  port : Nat
  deriving DecidableEq, Repr

/-- A partly received command packet (R429). -/
structure Packet where
  part : Nat
  src : Nat
  queue : Nat
  tag : Nat
  flits : Tbl Nat (List Byte)
  deriving DecidableEq, Repr

/-- An event matcher (R434). -/
structure Matcher where
  /-- registered keys with the route word each takes -/
  regs : List (Nat × Word)
  /-- events waiting: key and payload -/
  waiting : List (Nat × Word)
  /-- events held at their source while the matcher is full -/
  sources : List (Nat × Word)
  timers : Tbl Nat (Nat × Nat)
  /-- service-queue descriptor the firmware image places, with its partition (R436) -/
  service : Option (Nat × Int)
  deriving DecidableEq, Repr

/-- A request of an engine for a line that its home lacks (R326): the act that makes it again, whose it is, its line,
and its number among all requests. -/
structure Want where
  act : Act
  site : Site
  part : Nat
  region : Nat
  line : Nat
  num : Nat
  deriving DecidableEq, Repr

/-- The caches, replicas and links between dies. -/
structure Coh where
  /-- engines' requests that wait for their line at a memory die (R326) -/
  wants : List Want
  lines : Tbl Nat Line
  replicas : Tbl (Nat × Nat) Replica
  fills : Tbl Nat Fill
  colls : List Coll
  regs : Tbl (Nat × Nat) RegEnt
  slices : Tbl Nat SliceSt
  doms : Tbl Nat L2Dom
  staged : Tbl Nat L2Dom
  ctlDoms : BitVec 16
  busy : Bool
  refused : Bool
  switch : Option Switch
  /-- writes of the hardware that a switch holds, oldest first (R307) -/
  hwHeld : List (Nat × List Byte)
  writeback : BitVec 16
  l1 : Tbl (Site × Nat) (List Byte)
  /-- addresses under an uncorrectable error in a first-level cache (R362) -/
  l1Bad : List (Site × Nat)
  tlb1 : Tbl Site (List TlbEnt)
  tlb2 : Tbl Nat (List TlbEnt)
  mc : Tbl Nat McSvc
  /-- sleeping links: unordered pairs of dies 0-15 (F0-F7, M0-M3, memory dies) -/
  asleep : List (Nat × Nat)
  lost : List Nat
  /-- cycle of each die's last heartbeat -/
  beats : Tbl Nat Nat
  deriving DecidableEq, Repr

/-- The lantern port (R374 to R376). -/
structure Lantern where
  ctl : Word
  base : DWord
  wr : Word
  edges : Tbl Nat Word
  drops : Tbl Nat Word
  buf : Tbl Nat (List LtRec)
  /-- per die the cycle in which it last took a record, and how many it took then (R374) -/
  taken : Tbl Nat (Nat × Nat)
  deriving DecidableEq, Repr

/-- The life-cycle states (R440), in code order. -/
inductive LifeCycle
  | manufacturing | provisioned | production | returned | decommissioned
  deriving DecidableEq, Repr

/-- Reltin, the Syrad engines and the life cycle (chapter 20). -/
structure Io where
  node : Nat
  /-- node numbers known to the forwarding table, with the port of each (R426) -/
  ports : Tbl Nat Nat
  errs : Tbl Nat Nat
  flits : Tbl Nat Flit
  out : List Flit
  packets : List Packet
  /-- requests awaiting a reply from another module: tag, access, lane -/
  remote : Tbl Nat (Nat × Nat)
  matchers : Tbl Nat Matcher
  life : LifeCycle
  recovery : Bool
  booted : Bool
  identity : Bool
  flash : List Byte
  power : Tbl Nat IslandPower
  locked : Bool
  grandmaster : Option Nat
  deriving DecidableEq, Repr

/-- A tile context in its bivouac slot (R371): the tile, its cells, its threads, the launches whose work it
holds. -/
structure Biv where
  site : SiteSt
  cells : Tbl Nat Cell
  threads : Tbl Nat Thread
  invs : List Nat
  /-- what was still to happen there -/
  acts : List Act
  /-- an uncorrectable error lies in it, met at swap-in (R362) -/
  bad : Bool := false
  deriving DecidableEq, Repr

/-- The whole module. -/
structure State where
  /-- steps taken: indexes the free values (assumption 2) -/
  tick : Nat
  /-- the activity chosen for the next step, if one is already chosen -/
  turn : Option Act
  /-- the agent whose thread the current instruction belongs to -/
  cur : Agent
  /-- what the current event acts on -/
  subj : Subj
  /-- what may happen next -/
  agenda : List Act
  /-- the model's own numbering of threads, tokens, accesses and other work -/
  fresh : Nat
  /-- cycles since reset, and the time of day in ns -/
  cycle : Nat
  /-- cycles that steps have ended and that `cell.passed` does not count yet (R103) -/
  uncounted : Nat
  tod : Nat
  mem : List Host.Cell
  /-- bytes whose word carries an uncorrectable error (R362), rising -/
  memBad : List Nat
  sites : Tbl Site SiteSt
  cells : Tbl Agent Cell
  threads : Tbl Nat Thread
  elems : Tbl Nat Elem
  fabric : List Token
  accs : Tbl Nat Access
  /-- package queues that an operation has found live -/
  queues : List QueueId
  semOps : Tbl Nat SemOp
  pqOps : Tbl Nat PqOp
  closes : Tbl Nat CloseMsg
  parts : Tbl Nat Part
  launches : Tbl Nat Launch
  images : List Image
  places : Tbl (ImgKey × Nat × Nat) Place
  biv : Tbl Nat Biv
  /-- screen-tile tables: fabric die, partition, descriptor address -/
  scr : Tbl (Nat × Nat × Int) ScrTile
  /-- texel lines that a texture unit's cache has read for a launch: unit, launch, line (R408) -/
  tex : Tbl (Nat × Nat × Nat) (List Byte)
  /-- requests each column unit (8 * die + column) has taken, its wait cycles, the row served last -/
  colReq : Tbl Nat Word
  colWait : Tbl Nat Word
  colLast : Tbl Nat Nat
  texLast : Tbl Nat Nat
  coh : Coh
  lantern : Lantern
  io : Io
  deriving DecidableEq, Repr

/-! ## Why a step stops -/

/-- Why the machine stops. -/
inductive Fault
  /-- Raised by every instruction's meaning when the agent whose turn it is runs no thread (no cell
  issues without one, R76). Safe: the hardware has no such step. -/
  | noThread
  /-- Raised by the step when nothing is left that could happen: no agent runs and no event is pending.
  Safe: the module then only waits for its ports. -/
  | idle
  deriving DecidableEq, Repr

/-- Why a step has no meaning. -/
inductive Refusal
  /-- An arm of exec whose instruction has no meaning yet. Safe. -/
  | notModelled (mnemonic : String)
  /-- Raised by an instruction whose literal holds a reserved value or field (reasons 4 and 6 of R46).
  No such slot of a pitched image ever executes (R48). Safe. -/
  | reservedLiteral (opcode : Nat)
  /-- Raised by the step when the slot holds a word that the decoder rejects (reasons 1 and 2 of R46),
  which no pitched image holds (R48). Safe. -/
  | reservedWord (word : Word)
  deriving DecidableEq, Repr

/-! ## Reset -/

def Red.reset : Red := ⟨[none, none, none, none], 0, none⟩

def Cell.reset : Cell :=
  { instr := [], lits := [], routes := [], nroutes := 0, bases := [], last := none, queues := [],
    qresv := [], pairs := [], run := none, slots := [], issued := 0, passed := 0, bank := [],
    red := Red.reset, fences := [], bad := [] }

def SiteSt.reset : SiteSt :=
  { part := none, img := none, stage := 0, valid := false, pitching := false, striking := false,
    initial := false, pinned := false, region := 0, granted := 0, frames := [], grants := [], sems := [],
    egress := [], egResv := 0, ingress := [], copies := [], copyGens := [], chains := [],
    chainGens := [], claims := [], colq := [], texq := [], swapped := false, err := false }

/-- R175: weights zero in dense S8 form, exponents 13, shifts 0, scales 1.0, rows unpinned, fold limit
46, accumulators empty. -/
def Elem.reset : Elem :=
  { lookup := false, blocks := [], lut1 := [], lut0 := [], lutTwo := false, g := [], cs := [], rs := [],
    pins := [], lam := 46, acc := [], side := [], queue := [], running := none, stage := [] }

/-- R298: an untracked region has degree 0. -/
def RegEnt.reset : RegEnt := ⟨0, [], false, [], 0, 0⟩

def SliceSt.reset : SliceSt := ⟨0, 0, 0, 0, 0, 0, 0, 0, 0, false, false⟩

def L2Dom.reset : L2Dom := ⟨0, 0, 0, []⟩

def Matcher.reset : Matcher := ⟨[], [], [], [], none⟩

def HostQ.reset : HostQ := ⟨false, 0, 0, [], 0⟩

def Preempt.reset : Preempt := ⟨0, [], [], [], [], false⟩

/-- Generation 1 at partition creation (R260). -/
def Chain.reset : Chain := ⟨false, 1, 0, 0, 0, 0, none, 254, [], [], 0, none, false, 0, none⟩

/-- A partition's words before creation sets any (R378): every word at the reset value its map gives. -/
def Part.reset : Part :=
  { tiles := [], elems := [], doms := 0, mem := [], handler := [], frmK := 0, spillbase := 0,
    regions := [], domains := [], chains := [], root := 0, ranges := [], commit := none, rcstat := 0,
    cowbase := 0, cowlimit := 0, invst := none, queues := [], lastQueue := 7, tqBase := 0, tqHead := 0,
    tqTail := 0, seq := 0, recs := [], heldRecs := [], kept := [], lost := 0, ecc := 0, halted := false,
    stop1 := 0, stop2 := 0, stopping := [], haltAt := 0, refused := false, preempt := Preempt.reset,
    srbase := 0, bkpten := 0, lfOob := 0, lfOobIdx := 0, mxOob := 0, mxOobAdr := 0, ownbase := 0,
    owncnt := 0, expBase := 0, expSize := 0, quota := [], frozen := 0 }

def Coh.reset : Coh :=
  { wants := [], lines := [], replicas := [], fills := [], colls := [], regs := [], slices := [], doms := [], staged := [],
    ctlDoms := 0, busy := false, refused := false, switch := none, hwHeld := [], writeback := 0, l1 := [], l1Bad := [], tlb1 := [],
    tlb2 := [], mc := [], asleep := [], lost := [], beats := [] }

/-- `lt.ctl` resets with ring size 16 (R376). -/
def Lantern.reset : Lantern := ⟨16, 0, 0, [], [], [], []⟩

/-- The node number, the firmware's tables and the life-cycle state are not of reset: assumption 4. -/
def Io.reset : Io :=
  { node := 0, ports := [], errs := [], flits := [], out := [], packets := [], remote := [],
    matchers := [], life := .production, recovery := false, booted := false, identity := true, flash := [],
    power := [], locked := false, grandmaster := none }

/-- The module from power-on or reset (R437): nothing is pitched, every memory byte is zero (step 1
wipes it), and the boot is the one thing that can happen. -/
def State.reset : State :=
  { tick := 0, turn := none, cur := ⟨.tile 0, 0⟩, subj := {}, agenda := [.ev .powerOnReset {}], fresh := 1, cycle := 0, uncounted := 0,
    tod := 0, mem := [], memBad := [], sites := [], cells := [], threads := [], elems := [], fabric := [],
    accs := [], queues := [], semOps := [], pqOps := [], closes := [], parts := [], launches := [], images := [],
    places := [], biv := [], scr := [], tex := [], colReq := [], colWait := [], colLast := [], texLast := [],
    coh := Coh.reset, lantern := Lantern.reset, io := Io.reset }

end Sys2Proof.Machine
end

