-- ==== Sys2Proof/Decode.lean ====
section
/-! DEFINITION. Bit fields, the decoder of an instruction word and its literal (R35 to R38, R44), the
reserved literals (R39, R46 reasons 4 to 6), and the encoder (R109). -/

namespace Sys2Proof

/-- Bits [lo + n - 1 : lo] of a word (R5). -/
def fld {k : Nat} (w : BitVec k) (lo n : Nat) : Nat := w.toNat / 2 ^ lo % 2 ^ n

/-- Bit n of a word (R5). -/
def bit {k : Nat} (w : BitVec k) (n : Nat) : Bool := fld w n 1 == 1

/-- Bits of a number, for values wider than a word. -/
def nfld (x lo n : Nat) : Nat := x / 2 ^ lo % 2 ^ n

/-- The number of a little-endian byte string (R4). -/
def leNat : List Byte → Nat
  | [] => 0
  | b :: bs => b.toNat + 256 * leNat bs

/-- The n-byte little-endian string of a number (R4). -/
def leBytes : Nat → Nat → List Byte
  | 0, _ => []
  | n + 1, x => BitVec.ofNat 8 x :: leBytes n (x / 256)

/-- Why the decoder rejects a word: reasons 1 and 2 of R46, or a byte string that is too short. -/
inductive DecodeErr
  | reservedOpcode (opcode : Nat)
  | reservedDestination (code : Nat)
  | short
  deriving DecidableEq, Repr

/-- R79. -/
def TagAct.ofCode : Nat → TagAct
  | 0 => .keep | 1 => .next | 2 => .wavePlus | 3 => .wave0 | 4 => .call | 5 => .ret | 6 => .setcol
  | 7 => .eod1 | 8 => .eod2 | 9 => .eod3 | 10 => .pois | 11 => .drop | 12 => .ifp | 13 => .ifnp
  | 14 => .yield | _ => .done

def TagAct.code : TagAct → Nat
  | .keep => 0 | .next => 1 | .wavePlus => 2 | .wave0 => 3 | .call => 4 | .ret => 5 | .setcol => 6
  | .eod1 => 7 | .eod2 => 8 | .eod3 => 9 | .pois => 10 | .drop => 11 | .ifp => 12 | .ifnp => 13
  | .yield => 14 | .done => 15

/-- R36. -/
def Sel.ofCode : Nat → Sel
  | 0 => .a | 1 => .b | 2 => .c | 3 => .d | 4 => .lit | 5 => .v | 6 => .lane | _ => .zero

def Sel.code : Sel → Nat
  | .a => 0 | .b => 1 | .c => 2 | .d => 3 | .lit => 4 | .v => 5 | .lane => 6 | .zero => 7

/-- R37. -/
def Dst.ofCode (n : Nat) : Option Dst :=
  if h : n < 96 then some (.route ⟨n, h⟩)
  else match n with
    | 96 => some (.reg .a) | 97 => some (.reg .b) | 98 => some (.reg .c) | 99 => some (.reg .d)
    | 100 => some .v | 101 => some .p | 127 => some .none | _ => Option.none

def Dst.code : Dst → Nat
  | .route n => n.val
  | .reg .a => 96 | .reg .b => 97 | .reg .c => 98 | .reg .d => 99
  | .v => 100 | .p => 101 | .none => 127

/-- A token kind by its code (R62 [5:4]). -/
def TokKind.ofCode : Nat → TokKind
  | 0 => .data | 1 => .scale | 2 => .config | _ => .control

def TokKind.code : TokKind → Nat
  | .data => 0 | .scale => 1 | .config => 2 | .control => 3

/-- The opcode map (R44): the instruction of a group and a column, none where the map has a dash. -/
def ctorOf (group col : Nat) : Option (Fields → Instr) :=
  match group with
  | 0 => match col with
    | 0 => some .nop | 1 => some .mov | 2 => some .jmp | 3 => some .brp | 4 => some .loop
    | 5 => some .lexit | 6 => some .pblk | 7 => some .waitc | 8 => some .waits | 9 => some .steer
    | 10 => some .wavea | 11 => some .time | 12 => some .trap | 13 => some .bkpt | 14 => some .gate
    | _ => some .ptest
  | 1 => match col with
    | 0 => some .add | 1 => some .sub | 2 => some .addss | 3 => some .addzs | 4 => some .subss
    | 5 => some .subzs | 6 => some .neg | 7 => some .abs | 8 => some .and | 9 => some .or
    | 10 => some .xor | 11 => some .andn | 12 => some .lea | 13 => some .mul | 14 => some .mulh
    | _ => some .mulhz
  | 2 => match col with
    | 0 => some .shl | 1 => some .shr | 2 => some .sar | 3 => some .rotl | 4 => some .clz
    | 5 => some .popc | 6 => some .brev | 7 => some .bfx | 8 => some .bfi | 9 => some .div
    | 10 => some .divz | 11 => some .rem | 12 => some .dot4 | 13 => some .dot4z | 14 => some .dot8
    | _ => some .bytep
  | 3 => match col with
    | 0 => some .cmpeq | 1 => some .cmpne | 2 => some .cmplt | 3 => some .cmple | 4 => some .cmpltz
    | 5 => some .cmplez | 6 => some .min | 7 => some .max | 8 => some .minz | 9 => some .maxz
    | 10 => some .sel | 11 => some .clamp | 12 => some .fcmpeq | 13 => some .fcmplt
    | 14 => some .fcmple | _ => some .fcmpun
  | 4 => match col with
    | 0 => some .fadd | 1 => some .fsub | 2 => some .fmul | 3 => some .fma | 4 => some .fms
    | 5 => some .fnma | 6 => some .fmin | 7 => some .fmax | 8 => some .fabs | 9 => some .fneg
    | 10 => some .fcpys | 11 => some .frint | 12 => some .fscale | 13 => some .fclass
    | 14 => some .fdiv | _ => some .ffract
  | 5 => match col with
    | 0 => some .hadd | 1 => some .hsub | 2 => some .hmul | 3 => some .hfma | 4 => some .hmin
    | 5 => some .hmax | 6 => some .hdot | 7 => some .hneg | _ => none
  | 6 => match col with
    | 0 => some .cvt | 1 => some .cvtq8 | 2 => some .cvte8 | 3 => some .bscal | 4 => some .renc
    | 5 => some .rdec | 6 => some .radd | 7 => some .rmul | 8 => some .rchk | _ => none
  | 7 => match col with
    | 0 => some .xrcp | 1 => some .xsqrt | 2 => some .xrsq | 3 => some .xexp2 | 4 => some .xlog2
    | 5 => some .xsin | 6 => some .xcos | 7 => some .xtanh | 8 => some .xsigm | 9 => some .xerf | _ => none
  | 8 => match col with
    | 0 => some .ctxa | 1 => some .ctxf | 2 => some .pack | 3 => some .unpack | 4 => some .lane
    | 5 => some .bcast | 6 => some .perm | 7 => some .shfl | 8 => some .vote | 9 => some .lfld
    | 10 => some .lfst | 11 => some .lfldx | 12 => some .lfstx | 13 => some .cmpct | _ => none
  | 9 => match col with
    | 0 => some .redadd | 1 => some .redmax | 2 => some .redmin | 3 => some .redor
    | 4 => some .redfadd | 5 => some .redfmax | 6 => some .scanadd | 7 => some .scanxadd
    | 8 => some .scanfadd | 9 => some .eod | _ => none
  | 10 => match col with
    | 0 => some .ld | 1 => some .st | 2 => some .ldc | 3 => some .stc | 4 => some .prf
    | 5 => some .ldmc | 6 => some .stbar | 7 => some .chnopn | 8 => some .chncls | 9 => some .stm | _ => none
  | 11 => match col with
    | 0 => some .aadd | 1 => some .amin | 2 => some .amax | 3 => some .aand | 4 => some .aor
    | 5 => some .axor | 6 => some .axchg | 7 => some .acas | 8 => some .afadd | 9 => some .atri
    | 10 => some .fence | 11 => some .fwait | _ => none
  | 12 => match col with
    | 0 => some .copy | 1 => some .cblk | 2 => some .cpcnl | 3 => some .semi | 4 => some .semset
    | 5 => some .semrd | 6 => some .fork | 7 => some .rdzv | 8 => some .qpush | 9 => some .qpop
    | 10 => some .qfree | 11 => some .edgef | _ => none
  | 13 => match col with
    | 0 => some .mload | 1 => some .mma | 2 => some .mmas | 3 => some .mlut | 4 => some .munf
    | 5 => some .mdrn | 6 => some .mzero | 7 => some .mscl | 8 => some .mbnd | 9 => some .mfold | _ => none
  | 14 => match col with
    | 0 => some .rqinit | 1 => some .rqpro | 2 => some .rqcom | 3 => some .rqabt | 4 => some .rqget
    | 5 => some .boxt | 6 => some .trit | 7 => some .beamt | 8 => some .cover | 9 => some .qmrg
    | 10 => some .tseq | 11 => some .tblnd | 12 => some .txs | 13 => some .txl | 14 => some .txg
    | _ => some .homep
  | 15 => match col with
    | 0 => some .falloc | 1 => some .ffree | 2 => some .frd | 3 => some .fwr | 4 => some .cwget
    | 5 => some .cwset | 6 => some .rgne | 7 => some .rgnx | 8 => some .lnch | 9 => some .place
    | 10 => some .rcmit | 11 => some .fltx | 12 => some .mark | _ => none
  | _ => none

/-- R35: an instruction word and its slot's literal word; every reserved encoding is rejected by name. -/
def decodeWord (w lit : Word) : Except DecodeErr Instr :=
  match ctorOf (fld w 28 4) (fld w 24 4) with
  | none => .error (.reservedOpcode (fld w 24 8))
  | some mk =>
    match Dst.ofCode (fld w 7 7), Dst.ofCode (fld w 0 7) with
    | none, _ => .error (.reservedDestination (fld w 7 7))
    | _, none => .error (.reservedDestination (fld w 0 7))
    | some d1, some d2 =>
      .ok (mk { tag := .ofCode (fld w 20 4), selA := .ofCode (fld w 17 3), selB := .ofCode (fld w 14 3),
                dst1 := d1, dst2 := d2, lit := lit })

/-- Decoding is total on bytes: the first four are the instruction word, the next four the literal word
of its slot (R4, R32); the rest is returned. -/
def decode (bs : List Byte) : Except DecodeErr (Instr × List Byte) :=
  match bs with
  | b0 :: b1 :: b2 :: b3 :: l0 :: l1 :: l2 :: l3 :: rest =>
    match decodeWord (BitVec.ofNat 32 (leNat [b0, b1, b2, b3])) (BitVec.ofNat 32 (leNat [l0, l1, l2, l3])) with
    | .ok i => .ok (i, rest)
    | .error e => .error e
  | _ => .error .short

/-- The instruction the decoder reads from bits numbered as the opcode table numbers them; the bits above
`nbits`, the literal word among them, are 0. -/
def decodeTableWord (nbits w : Nat) : Option Instr :=
  match decode (leBytes 8 (w % 2 ^ nbits)) with
  | .ok (i, _) => some i
  | .error _ => none

/-- The opcode of an instruction (R44); none for an event. -/
def Instr.opcode? : Instr → Option Nat
  | .nop _ => some 0x00
  | .mov _ => some 0x01
  | .jmp _ => some 0x02
  | .brp _ => some 0x03
  | .loop _ => some 0x04
  | .lexit _ => some 0x05
  | .pblk _ => some 0x06
  | .waitc _ => some 0x07
  | .waits _ => some 0x08
  | .steer _ => some 0x09
  | .wavea _ => some 0x0A
  | .time _ => some 0x0B
  | .trap _ => some 0x0C
  | .bkpt _ => some 0x0D
  | .gate _ => some 0x0E
  | .ptest _ => some 0x0F
  | .add _ => some 0x10
  | .sub _ => some 0x11
  | .addss _ => some 0x12
  | .addzs _ => some 0x13
  | .subss _ => some 0x14
  | .subzs _ => some 0x15
  | .neg _ => some 0x16
  | .abs _ => some 0x17
  | .and _ => some 0x18
  | .or _ => some 0x19
  | .xor _ => some 0x1A
  | .andn _ => some 0x1B
  | .lea _ => some 0x1C
  | .mul _ => some 0x1D
  | .mulh _ => some 0x1E
  | .mulhz _ => some 0x1F
  | .shl _ => some 0x20
  | .shr _ => some 0x21
  | .sar _ => some 0x22
  | .rotl _ => some 0x23
  | .clz _ => some 0x24
  | .popc _ => some 0x25
  | .brev _ => some 0x26
  | .bfx _ => some 0x27
  | .bfi _ => some 0x28
  | .div _ => some 0x29
  | .divz _ => some 0x2A
  | .rem _ => some 0x2B
  | .dot4 _ => some 0x2C
  | .dot4z _ => some 0x2D
  | .dot8 _ => some 0x2E
  | .bytep _ => some 0x2F
  | .cmpeq _ => some 0x30
  | .cmpne _ => some 0x31
  | .cmplt _ => some 0x32
  | .cmple _ => some 0x33
  | .cmpltz _ => some 0x34
  | .cmplez _ => some 0x35
  | .min _ => some 0x36
  | .max _ => some 0x37
  | .minz _ => some 0x38
  | .maxz _ => some 0x39
  | .sel _ => some 0x3A
  | .clamp _ => some 0x3B
  | .fcmpeq _ => some 0x3C
  | .fcmplt _ => some 0x3D
  | .fcmple _ => some 0x3E
  | .fcmpun _ => some 0x3F
  | .fadd _ => some 0x40
  | .fsub _ => some 0x41
  | .fmul _ => some 0x42
  | .fma _ => some 0x43
  | .fms _ => some 0x44
  | .fnma _ => some 0x45
  | .fmin _ => some 0x46
  | .fmax _ => some 0x47
  | .fabs _ => some 0x48
  | .fneg _ => some 0x49
  | .fcpys _ => some 0x4A
  | .frint _ => some 0x4B
  | .fscale _ => some 0x4C
  | .fclass _ => some 0x4D
  | .fdiv _ => some 0x4E
  | .ffract _ => some 0x4F
  | .hadd _ => some 0x50
  | .hsub _ => some 0x51
  | .hmul _ => some 0x52
  | .hfma _ => some 0x53
  | .hmin _ => some 0x54
  | .hmax _ => some 0x55
  | .hdot _ => some 0x56
  | .hneg _ => some 0x57
  | .cvt _ => some 0x60
  | .cvtq8 _ => some 0x61
  | .cvte8 _ => some 0x62
  | .bscal _ => some 0x63
  | .renc _ => some 0x64
  | .rdec _ => some 0x65
  | .radd _ => some 0x66
  | .rmul _ => some 0x67
  | .rchk _ => some 0x68
  | .xrcp _ => some 0x70
  | .xsqrt _ => some 0x71
  | .xrsq _ => some 0x72
  | .xexp2 _ => some 0x73
  | .xlog2 _ => some 0x74
  | .xsin _ => some 0x75
  | .xcos _ => some 0x76
  | .xtanh _ => some 0x77
  | .xsigm _ => some 0x78
  | .xerf _ => some 0x79
  | .ctxa _ => some 0x80
  | .ctxf _ => some 0x81
  | .pack _ => some 0x82
  | .unpack _ => some 0x83
  | .lane _ => some 0x84
  | .bcast _ => some 0x85
  | .perm _ => some 0x86
  | .shfl _ => some 0x87
  | .vote _ => some 0x88
  | .lfld _ => some 0x89
  | .lfst _ => some 0x8A
  | .lfldx _ => some 0x8B
  | .lfstx _ => some 0x8C
  | .cmpct _ => some 0x8D
  | .redadd _ => some 0x90
  | .redmax _ => some 0x91
  | .redmin _ => some 0x92
  | .redor _ => some 0x93
  | .redfadd _ => some 0x94
  | .redfmax _ => some 0x95
  | .scanadd _ => some 0x96
  | .scanxadd _ => some 0x97
  | .scanfadd _ => some 0x98
  | .eod _ => some 0x99
  | .ld _ => some 0xA0
  | .st _ => some 0xA1
  | .ldc _ => some 0xA2
  | .stc _ => some 0xA3
  | .prf _ => some 0xA4
  | .ldmc _ => some 0xA5
  | .stbar _ => some 0xA6
  | .chnopn _ => some 0xA7
  | .chncls _ => some 0xA8
  | .stm _ => some 0xA9
  | .aadd _ => some 0xB0
  | .amin _ => some 0xB1
  | .amax _ => some 0xB2
  | .aand _ => some 0xB3
  | .aor _ => some 0xB4
  | .axor _ => some 0xB5
  | .axchg _ => some 0xB6
  | .acas _ => some 0xB7
  | .afadd _ => some 0xB8
  | .atri _ => some 0xB9
  | .fence _ => some 0xBA
  | .fwait _ => some 0xBB
  | .copy _ => some 0xC0
  | .cblk _ => some 0xC1
  | .cpcnl _ => some 0xC2
  | .semi _ => some 0xC3
  | .semset _ => some 0xC4
  | .semrd _ => some 0xC5
  | .fork _ => some 0xC6
  | .rdzv _ => some 0xC7
  | .qpush _ => some 0xC8
  | .qpop _ => some 0xC9
  | .qfree _ => some 0xCA
  | .edgef _ => some 0xCB
  | .mload _ => some 0xD0
  | .mma _ => some 0xD1
  | .mmas _ => some 0xD2
  | .mlut _ => some 0xD3
  | .munf _ => some 0xD4
  | .mdrn _ => some 0xD5
  | .mzero _ => some 0xD6
  | .mscl _ => some 0xD7
  | .mbnd _ => some 0xD8
  | .mfold _ => some 0xD9
  | .rqinit _ => some 0xE0
  | .rqpro _ => some 0xE1
  | .rqcom _ => some 0xE2
  | .rqabt _ => some 0xE3
  | .rqget _ => some 0xE4
  | .boxt _ => some 0xE5
  | .trit _ => some 0xE6
  | .beamt _ => some 0xE7
  | .cover _ => some 0xE8
  | .qmrg _ => some 0xE9
  | .tseq _ => some 0xEA
  | .tblnd _ => some 0xEB
  | .txs _ => some 0xEC
  | .txl _ => some 0xED
  | .txg _ => some 0xEE
  | .homep _ => some 0xEF
  | .falloc _ => some 0xF0
  | .ffree _ => some 0xF1
  | .frd _ => some 0xF2
  | .fwr _ => some 0xF3
  | .cwget _ => some 0xF4
  | .cwset _ => some 0xF5
  | .rgne _ => some 0xF6
  | .rgnx _ => some 0xF7
  | .lnch _ => some 0xF8
  | .place _ => some 0xF9
  | .rcmit _ => some 0xFA
  | .fltx _ => some 0xFB
  | .mark _ => some 0xFC
  | .tokenEgressDepart => none
  | .tokenIngressArrival => none
  | .tokenDelivery => none
  | .workSelection => none
  | .gangClaim => none
  | .gangFire => none
  | .waitTest => none
  | .waitExpiry => none
  | .reservationReady => none
  | .loadDataReturn => none
  | .sliceRead => none
  | .writePerform => none
  | .atomicPerform => none
  | .replicaRead => none
  | .replicaFill => none
  | .collapse => none
  | .collapseAcknowledge => none
  | .replicaEvict => none
  | .pageWalk => none
  | .translationMissService => none
  | .copyOnWriteService => none
  | .ldmcRequestArrival => none
  | .ldmcLineRead => none
  | .ldmcReplyArrival => none
  | .mergeWindowClose => none
  | .chainAccessArrival => none
  | .guylineOverflow => none
  | .chainCloseArrival => none
  | .chainCloseComplete => none
  | .packageQueueOperation => none
  | .copyDescriptorRead => none
  | .copyChunk => none
  | .copyComplete => none
  | .remoteSemaphoreAdd => none
  | .commandBlockFetch => none
  | .linkBlock => none
  | .copyBlock => none
  | .semaphoreBlock => none
  | .testBlock => none
  | .testBlockRetest => none
  | .testBlockTimeout => none
  | .loopBlock => none
  | .callBlock => none
  | .returnBlock => none
  | .fetchFenceBlock => none
  | .chainEnd => none
  | .matrixQueueStart => none
  | .matrixInstructionFinish => none
  | .columnRequestAccept => none
  | .columnReply => none
  | .textureRequestAccept => none
  | .textureReply => none
  | .screenTileReload => none
  | .commandFlit => none
  | .launchCheck => none
  | .launchImage => none
  | .launchPlace => none
  | .pitchComplete => none
  | .launchArm => none
  | .launchStart => none
  | .launchWaitExpiry => none
  | .completionPoll => none
  | .invocationRetire => none
  | .imageStrike => none
  | .placementSample => none
  | .strikeComplete => none
  | .periodBoundary => none
  | .quantumExpiry => none
  | .regionWindow => none
  | .heartbeat => none
  | .dieLost => none
  | .wakeOverdue => none
  | .linkWake => none
  | .trapRecordWrite => none
  | .replyRetry => none
  | .replyFail => none
  | .replyEndThread => none
  | .raiseHalt => none
  | .releaseHalt => none
  | .preemptRegion => none
  | .resumeRegion => none
  | .haltLineRaise => none
  | .engineStop => none
  | .preemptionComplete => none
  | .swapOutComplete => none
  | .resume => none
  | .memoryError => none
  | .eccCorrection => none
  | .lanternDrain => none
  | .l2Writeback => none
  | .l2WritebackEnd => none
  | .l2Switch => none
  | .l2SwitchCommit => none
  | .mmuInvalidate => none
  | .mmuInvalidateComplete => none
  | .glShareWrite => none
  | .hostQueueDestroy => none
  | .rcRead => none
  | .controlWordWrite => none
  | .rangeCommitSwitch => none
  | .readFlit => none
  | .readReplyFlit => none
  | .writeFlit => none
  | .atomicFlit => none
  | .acknowledgementFlit => none
  | .timeFlit => none
  | .stopFlit => none
  | .managementQueueRead => none
  | .identity => none
  | .attest => none
  | .imageLoad => none
  | .partitionCreate => none
  | .managementWrite => none
  | .partitionDestroy => none
  | .lifeCycleChange => none
  | .powerOnReset => none
  | .eventMatch => none
  | .syradTimer => none
  | .controlCoreService => none
  | .islandPower => none
  | .flitForwarding => none
  | .swapInComplete => none
  | .rangeTableRead => none

/-- The fields of an instruction; none for an event. -/
def Instr.fields? : Instr → Option Fields
  | .nop f => some f
  | .mov f => some f
  | .jmp f => some f
  | .brp f => some f
  | .loop f => some f
  | .lexit f => some f
  | .pblk f => some f
  | .waitc f => some f
  | .waits f => some f
  | .steer f => some f
  | .wavea f => some f
  | .time f => some f
  | .trap f => some f
  | .bkpt f => some f
  | .gate f => some f
  | .ptest f => some f
  | .add f => some f
  | .sub f => some f
  | .addss f => some f
  | .addzs f => some f
  | .subss f => some f
  | .subzs f => some f
  | .neg f => some f
  | .abs f => some f
  | .and f => some f
  | .or f => some f
  | .xor f => some f
  | .andn f => some f
  | .lea f => some f
  | .mul f => some f
  | .mulh f => some f
  | .mulhz f => some f
  | .shl f => some f
  | .shr f => some f
  | .sar f => some f
  | .rotl f => some f
  | .clz f => some f
  | .popc f => some f
  | .brev f => some f
  | .bfx f => some f
  | .bfi f => some f
  | .div f => some f
  | .divz f => some f
  | .rem f => some f
  | .dot4 f => some f
  | .dot4z f => some f
  | .dot8 f => some f
  | .bytep f => some f
  | .cmpeq f => some f
  | .cmpne f => some f
  | .cmplt f => some f
  | .cmple f => some f
  | .cmpltz f => some f
  | .cmplez f => some f
  | .min f => some f
  | .max f => some f
  | .minz f => some f
  | .maxz f => some f
  | .sel f => some f
  | .clamp f => some f
  | .fcmpeq f => some f
  | .fcmplt f => some f
  | .fcmple f => some f
  | .fcmpun f => some f
  | .fadd f => some f
  | .fsub f => some f
  | .fmul f => some f
  | .fma f => some f
  | .fms f => some f
  | .fnma f => some f
  | .fmin f => some f
  | .fmax f => some f
  | .fabs f => some f
  | .fneg f => some f
  | .fcpys f => some f
  | .frint f => some f
  | .fscale f => some f
  | .fclass f => some f
  | .fdiv f => some f
  | .ffract f => some f
  | .hadd f => some f
  | .hsub f => some f
  | .hmul f => some f
  | .hfma f => some f
  | .hmin f => some f
  | .hmax f => some f
  | .hdot f => some f
  | .hneg f => some f
  | .cvt f => some f
  | .cvtq8 f => some f
  | .cvte8 f => some f
  | .bscal f => some f
  | .renc f => some f
  | .rdec f => some f
  | .radd f => some f
  | .rmul f => some f
  | .rchk f => some f
  | .xrcp f => some f
  | .xsqrt f => some f
  | .xrsq f => some f
  | .xexp2 f => some f
  | .xlog2 f => some f
  | .xsin f => some f
  | .xcos f => some f
  | .xtanh f => some f
  | .xsigm f => some f
  | .xerf f => some f
  | .ctxa f => some f
  | .ctxf f => some f
  | .pack f => some f
  | .unpack f => some f
  | .lane f => some f
  | .bcast f => some f
  | .perm f => some f
  | .shfl f => some f
  | .vote f => some f
  | .lfld f => some f
  | .lfst f => some f
  | .lfldx f => some f
  | .lfstx f => some f
  | .cmpct f => some f
  | .redadd f => some f
  | .redmax f => some f
  | .redmin f => some f
  | .redor f => some f
  | .redfadd f => some f
  | .redfmax f => some f
  | .scanadd f => some f
  | .scanxadd f => some f
  | .scanfadd f => some f
  | .eod f => some f
  | .ld f => some f
  | .st f => some f
  | .ldc f => some f
  | .stc f => some f
  | .prf f => some f
  | .ldmc f => some f
  | .stbar f => some f
  | .chnopn f => some f
  | .chncls f => some f
  | .stm f => some f
  | .aadd f => some f
  | .amin f => some f
  | .amax f => some f
  | .aand f => some f
  | .aor f => some f
  | .axor f => some f
  | .axchg f => some f
  | .acas f => some f
  | .afadd f => some f
  | .atri f => some f
  | .fence f => some f
  | .fwait f => some f
  | .copy f => some f
  | .cblk f => some f
  | .cpcnl f => some f
  | .semi f => some f
  | .semset f => some f
  | .semrd f => some f
  | .fork f => some f
  | .rdzv f => some f
  | .qpush f => some f
  | .qpop f => some f
  | .qfree f => some f
  | .edgef f => some f
  | .mload f => some f
  | .mma f => some f
  | .mmas f => some f
  | .mlut f => some f
  | .munf f => some f
  | .mdrn f => some f
  | .mzero f => some f
  | .mscl f => some f
  | .mbnd f => some f
  | .mfold f => some f
  | .rqinit f => some f
  | .rqpro f => some f
  | .rqcom f => some f
  | .rqabt f => some f
  | .rqget f => some f
  | .boxt f => some f
  | .trit f => some f
  | .beamt f => some f
  | .cover f => some f
  | .qmrg f => some f
  | .tseq f => some f
  | .tblnd f => some f
  | .txs f => some f
  | .txl f => some f
  | .txg f => some f
  | .homep f => some f
  | .falloc f => some f
  | .ffree f => some f
  | .frd f => some f
  | .fwr f => some f
  | .cwget f => some f
  | .cwset f => some f
  | .rgne f => some f
  | .rgnx f => some f
  | .lnch f => some f
  | .place f => some f
  | .rcmit f => some f
  | .fltx f => some f
  | .mark f => some f
  | .tokenEgressDepart => none
  | .tokenIngressArrival => none
  | .tokenDelivery => none
  | .workSelection => none
  | .gangClaim => none
  | .gangFire => none
  | .waitTest => none
  | .waitExpiry => none
  | .reservationReady => none
  | .loadDataReturn => none
  | .sliceRead => none
  | .writePerform => none
  | .atomicPerform => none
  | .replicaRead => none
  | .replicaFill => none
  | .collapse => none
  | .collapseAcknowledge => none
  | .replicaEvict => none
  | .pageWalk => none
  | .translationMissService => none
  | .copyOnWriteService => none
  | .ldmcRequestArrival => none
  | .ldmcLineRead => none
  | .ldmcReplyArrival => none
  | .mergeWindowClose => none
  | .chainAccessArrival => none
  | .guylineOverflow => none
  | .chainCloseArrival => none
  | .chainCloseComplete => none
  | .packageQueueOperation => none
  | .copyDescriptorRead => none
  | .copyChunk => none
  | .copyComplete => none
  | .remoteSemaphoreAdd => none
  | .commandBlockFetch => none
  | .linkBlock => none
  | .copyBlock => none
  | .semaphoreBlock => none
  | .testBlock => none
  | .testBlockRetest => none
  | .testBlockTimeout => none
  | .loopBlock => none
  | .callBlock => none
  | .returnBlock => none
  | .fetchFenceBlock => none
  | .chainEnd => none
  | .matrixQueueStart => none
  | .matrixInstructionFinish => none
  | .columnRequestAccept => none
  | .columnReply => none
  | .textureRequestAccept => none
  | .textureReply => none
  | .screenTileReload => none
  | .commandFlit => none
  | .launchCheck => none
  | .launchImage => none
  | .launchPlace => none
  | .pitchComplete => none
  | .launchArm => none
  | .launchStart => none
  | .launchWaitExpiry => none
  | .completionPoll => none
  | .invocationRetire => none
  | .imageStrike => none
  | .placementSample => none
  | .strikeComplete => none
  | .periodBoundary => none
  | .quantumExpiry => none
  | .regionWindow => none
  | .heartbeat => none
  | .dieLost => none
  | .wakeOverdue => none
  | .linkWake => none
  | .trapRecordWrite => none
  | .replyRetry => none
  | .replyFail => none
  | .replyEndThread => none
  | .raiseHalt => none
  | .releaseHalt => none
  | .preemptRegion => none
  | .resumeRegion => none
  | .haltLineRaise => none
  | .engineStop => none
  | .preemptionComplete => none
  | .swapOutComplete => none
  | .resume => none
  | .memoryError => none
  | .eccCorrection => none
  | .lanternDrain => none
  | .l2Writeback => none
  | .l2WritebackEnd => none
  | .l2Switch => none
  | .l2SwitchCommit => none
  | .mmuInvalidate => none
  | .mmuInvalidateComplete => none
  | .glShareWrite => none
  | .hostQueueDestroy => none
  | .rcRead => none
  | .controlWordWrite => none
  | .rangeCommitSwitch => none
  | .readFlit => none
  | .readReplyFlit => none
  | .writeFlit => none
  | .atomicFlit => none
  | .acknowledgementFlit => none
  | .timeFlit => none
  | .stopFlit => none
  | .managementQueueRead => none
  | .identity => none
  | .attest => none
  | .imageLoad => none
  | .partitionCreate => none
  | .managementWrite => none
  | .partitionDestroy => none
  | .lifeCycleChange => none
  | .powerOnReset => none
  | .eventMatch => none
  | .syradTimer => none
  | .controlCoreService => none
  | .islandPower => none
  | .flitForwarding => none
  | .swapInComplete => none
  | .rangeTableRead => none

/-- R109. -/
def encodeWord (opcode : Nat) (f : Fields) : Word :=
  BitVec.ofNat 32 (opcode * 2 ^ 24 + f.tag.code * 2 ^ 20 + f.selA.code * 2 ^ 17 + f.selB.code * 2 ^ 14
    + f.dst1.code * 2 ^ 7 + f.dst2.code)

/-- The words of an instruction: its instruction word and its literal word; none for an event. -/
def encode (i : Instr) : Option (Word × Word) :=
  match i.opcode?, i.fields? with
  | some o, some f => some (encodeWord o f, f.lit)
  | _, _ => none

/-! ## Reserved literals -/

/-- How an opcode uses its literal (R39). -/
inductive LitUse
  | control | mode | operand
  deriving DecidableEq, Repr

/-- R39. -/
def litUse (op : Nat) : LitUse :=
  let g := op / 16
  if g = 0xA ∨ g = 0xB ∨ g = 0xC ∨ g = 0xD ∨ g = 0xE ∨ g = 5 then .control
  else if op ∈ [0x02, 0x03, 0x04, 0x05, 0x06, 0x07, 0x08, 0x0E, 0x0C, 0x0D] then .control
  else if 0x60 ≤ op ∧ op ≤ 0x65 then .control
  else if op ∈ [0x88, 0x99] then .control
  else if 0xF2 ≤ op ∧ op ≤ 0xFC then .control
  else if op ∈ [0x40, 0x41, 0x42, 0x43, 0x44, 0x45, 0x4B, 0x4C, 0x4E, 0x4F] then .mode
  else .operand

/-- A control word (R378): its number, how many indexes it has, whether it has 64 bits. -/
structure CwRow where
  num : Nat
  count : Nat
  wide : Bool
  deriving DecidableEq, Repr

/-- The control words of R378. -/
def cwTable : List CwRow :=
  [⟨0x000, 1, false⟩, ⟨0x001, 1, false⟩, ⟨0x002, 8, true⟩, ⟨0x010, 1, false⟩, ⟨0x011, 1, true⟩,
   ⟨0x100, 1, false⟩, ⟨0x101, 3, false⟩, ⟨0x102, 1, false⟩, ⟨0x200, 1, false⟩, ⟨0x201, 1, false⟩,
   ⟨0x202, 1, false⟩, ⟨0x300, 32, false⟩, ⟨0x310, 1, false⟩, ⟨0x311, 1, false⟩, ⟨0x400, 1, false⟩,
   ⟨0x401, 1, false⟩, ⟨0x402, 1, false⟩, ⟨0x403, 1, false⟩, ⟨0x500, 64, false⟩, ⟨0x501, 64, false⟩,
   ⟨0x502, 64, false⟩] ++
  [⟨0x600, 16, true⟩, ⟨0x601, 16, true⟩, ⟨0x602, 16, false⟩, ⟨0x603, 64, true⟩, ⟨0x610, 1, false⟩,
   ⟨0x620, 64, false⟩, ⟨0x621, 64, false⟩, ⟨0x622, 64, false⟩, ⟨0x623, 64, false⟩, ⟨0x624, 64, false⟩,
   ⟨0x625, 64, false⟩, ⟨0x626, 64, false⟩, ⟨0x627, 64, false⟩, ⟨0x700, 1, true⟩, ⟨0x701, 1, true⟩,
   ⟨0x702, 1, false⟩, ⟨0x703, 1, false⟩, ⟨0x704, 1, true⟩, ⟨0x705, 1, true⟩] ++
  [⟨0x800, 8, false⟩, ⟨0x801, 8, false⟩, ⟨0x802, 8, true⟩, ⟨0x900, 1, false⟩, ⟨0x901, 1, true⟩,
   ⟨0x902, 1, false⟩, ⟨0x903, 1, false⟩, ⟨0x904, 1, false⟩, ⟨0x905, 1024, false⟩, ⟨0x906, 1, false⟩,
   ⟨0x907, 1, true⟩, ⟨0x908, 1, false⟩, ⟨0x909, 1, false⟩, ⟨0xA00, 1, false⟩, ⟨0xB00, 1, false⟩,
   ⟨0xB01, 1, true⟩, ⟨0xB02, 1, false⟩, ⟨0xB03, 16, false⟩, ⟨0xB04, 17, false⟩, ⟨0xC00, 1, true⟩,
   ⟨0xC01, 1, false⟩, ⟨0xC02, 1, false⟩, ⟨0xD00, 1, true⟩, ⟨0xD01, 1, true⟩]

/-- The row of a control-word number (R378). -/
def cwRow (num : Nat) : Option CwRow := cwTable.find? (fun r => r.num == num)

/-- R377: the literal of CWGET and CWSET. -/
def cwLitOk (l : Word) : Bool :=
  match cwRow (fld l 0 12) with
  | none => false
  | some r =>
    fld l 30 2 == 0 && (if bit l 25 then fld l 12 10 == 0 else decide (fld l 12 10 < r.count))
      && (!bit l 24 || r.wide)

/-- R245: what each opcode accepts in the fields of the memory control word (R244). -/
def memLitOk (op : Nat) (l : Word) : Bool :=
  let size := fld l 5 3
  let ord := fld l 8 3
  let scope := fld l 11 3
  let cls := fld l 14 2
  let opn := fld l 16 4
  fld l 20 12 == 0 && decide (scope ≤ 4) && decide (ord ≤ 4) && decide (cls ≤ 1) &&
    (match op with
     | 0xA0 => decide (size ≤ 4) && (ord == 0 || ord == 1 || ord == 4) && opn == 0
     | 0xA1 => decide (size ≤ 4) && (ord == 0 || ord == 2 || ord == 4) && opn == 0
     | 0xA9 => size == 4 && (ord == 0 || ord == 2 || ord == 4) && opn == 0
     | 0xA4 => size == 4 && ord == 0 && opn == 0
     | 0xA5 => size == 4 && (ord == 0 || ord == 1) && cls == 0 && opn == 0
     | 0xB1 => size == 4 && cls == 0 && decide (opn ≤ 1)
     | 0xB2 => size == 4 && cls == 0 && decide (opn ≤ 1)
     | 0xB8 => size == 4 && cls == 0 && decide (opn ≤ 3)
     | 0xB9 => size == 5 && cls == 0 && opn == 0
     | _ => size == 4 && cls == 0 && opn == 0)

/-- Width in bits of a CVT format (R147, R148, R158). -/
def cvtWidth : Nat → Nat
  | 0 => 32 | 1 => 32 | 2 => 16 | 3 => 16 | 4 => 8 | 5 => 8 | 6 => 4 | 7 => 32 | 8 => 16 | 9 => 16
  | _ => 8

/-- The control literals of groups 0xC and 0xD (R192, R234). -/
def litOkCD (op : Nat) (l : Word) : Bool :=
  match op with
  | 0xC0 => decide (l.toNat < 8)
  | 0xC1 => decide (l.toNat < 8)
  | 0xC2 => l == 0
  | 0xC3 => decide (l.toNat < 1024) && decide (fld l 7 3 ≤ 4)
  | 0xC4 => decide (l.toNat < 64)
  | 0xC5 => decide (l.toNat < 64)
  | 0xC6 => decide (l.toNat < 2048) && (bit l 6 || bit l 10)
  | 0xC7 => decide (l.toNat < 64)
  | 0xC8 => fld l 5 1 == 0
  | 0xC9 => fld l 4 2 == 0
  | 0xCA => !bit l 3 && fld l 5 1 == 0
  | 0xCB => l == 0
  | 0xD0 => decide (l.toNat < 512) && fld l 0 3 != 7 &&
      (if fld l 0 3 = 5 ∨ fld l 0 3 = 6 then fld l 3 6 == 0 else decide (fld l 3 3 + fld l 6 3 + 1 ≤ 8))
  | 0xD1 => decide (l.toNat < 8192) && decide (fld l 9 3 ≤ 4)
  | 0xD2 => decide (l.toNat < 4096) && decide (fld l 9 3 ≤ 4) && fld l 9 3 != 1
  | 0xD4 => decide (l.toNat < 8192) && decide (fld l 9 3 ≤ 4)
  | 0xD7 => decide (l.toNat < 2048) && (!(fld l 9 2 == 1 || fld l 9 2 == 2) || fld l 0 9 == 0)
  | 0xD8 => decide (l.toNat < 2048) && (!(fld l 9 2 == 2) || fld l 0 9 == 0)
  | _ => decide (l.toNat < 512)

/-- The control literals of groups 0xE and 0xF (R87, R316, R327, R377, R380, R381, R385). -/
def litOkEF (op : Nat) (l : Word) : Bool :=
  match op with
  | 0xE0 => decide (l.toNat < 16) && !(bit l 2 && bit l 3)
  | 0xE4 => decide (l.toNat ≤ 9)
  | 0xE5 => decide (l.toNat < 32)
  | 0xE6 => decide (l.toNat < 32)
  | 0xE7 => decide (l.toNat < 32)
  | 0xE8 => decide (l.toNat < 4)
  | 0xE9 => decide (l.toNat < 8192)
  | 0xEA => decide (l.toNat < 16)
  | 0xEB => decide (l.toNat < 2048) && fld l 5 3 != 7 && fld l 8 2 != 3
  | 0xEC => decide (l.toNat < 32768) && fld l 9 2 != 3
  | 0xED => decide (l.toNat < 2048) && fld l 3 2 != 3 && fld l 5 4 == 0 && fld l 9 2 != 3
  | 0xEE => decide (l.toNat < 32768) && fld l 3 6 == 0 && fld l 9 2 != 3
  | 0xF2 => decide (l.toNat < 256)
  | 0xF3 => decide (l.toNat < 256) && (!bit l 6 || decide (fld l 0 6 ≤ 1))
  | 0xF4 => cwLitOk l
  | 0xF5 => cwLitOk l
  | 0xF6 => decide (l.toNat < 8)
  | 0xF7 => decide (l.toNat < 128)
  | 0xF8 => decide (l.toNat < 64)
  | 0xF9 => decide (l.toNat < 512)
  | 0xFA => decide (l.toNat < 512)
  | 0xFB => decide (l.toNat < 2 ^ 18)
  | 0xFC => decide (l.toNat < 65536)
  | _ => l == 0

/-- Whether a control literal holds no reserved value or field, by its opcode (R46 reason 6); limits that
depend on the slot are the pitch's (R87). -/
def litOk (op : Nat) (l : Word) : Bool :=
  match op with
  | 0x02 => decide (l.toNat < 256)
  | 0x03 => decide (l.toNat < 1024) && fld l 8 2 != 3
  | 0x04 => decide (l.toNat < 256)
  | 0x05 => decide (l.toNat < 4096) && fld l 10 2 != 0
  | 0x06 => fld l 4 4 == 0 && fld l 16 16 == 0
  | 0x07 => true
  | 0x08 => decide (l.toNat < 64)
  | 0x0C => decide (l.toNat < 1024)
  | 0x0D => decide (l.toNat < 32)
  | 0x0E => decide (l.toNat < 2)
  | 0x60 => fld l 14 18 == 0 && decide (fld l 0 4 < 12) && decide (fld l 4 4 < 12) &&
      decide (fld l 11 3 < 32 / cvtWidth (fld l 0 4))
  | 0x61 => decide (l.toNat < 128) && fld l 1 2 != 3 && !(fld l 1 2 == 1 && fld l 0 1 == 0)
  | 0x62 => decide (l.toNat < 32)
  | 0x63 => decide (l.toNat < 16)
  | 0x64 => decide (l.toNat < 1024) && decide (fld l 4 6 < 48) && fld l 0 2 != 3 &&
      !(fld l 2 2 == 2 && fld l 0 2 == 2) && !(fld l 2 2 == 3 && fld l 0 2 != 2)
  | 0x65 => fld l 16 16 == 0 && fld l 6 2 == 0 && fld l 2 2 == 0 &&
      (fld l 0 2 == 3 || (fld l 8 8 == 0 && fld l 4 2 == 0))
  | 0x88 => decide (l.toNat < 16) && decide (fld l 0 3 ≤ 4)
  | 0x99 => decide (l.toNat < 4) && l != 0
  | 0xA2 => fld l 27 5 == 0 && decide (fld l 0 8 ≤ 253)
  | 0xA3 => fld l 27 5 == 0 && decide (fld l 0 8 ≤ 253)
  | 0xA6 => decide (l.toNat < 2048) && decide (fld l 8 3 ≤ 4)
  | 0xA7 => decide (l.toNat < 8192) && decide (8 ≤ fld l 6 7) && decide (fld l 6 7 ≤ 64) &&
      decide (1 ≤ fld l 3 3) && decide (fld l 3 3 ≤ 4)
  | 0xA8 => decide (l.toNat < 128)
  | 0xBA => decide (l.toNat < 8192) && !bit l 7 && decide (fld l 4 3 ≤ 4) && fld l 8 5 != 0 &&
      (!(bit l 8 || bit l 9) || fld l 0 4 != 0)
  | 0xBB => l == 0
  | _ =>
    if op / 16 = 5 then decide (l.toNat < 8)
    else if op / 16 = 0xA ∨ op / 16 = 0xB then memLitOk op l
    else if op / 16 = 0xC ∨ op / 16 = 0xD then litOkCD op l
    else litOkEF op l

/-- Reasons 4, 5 (call) and 6 of R46, and the literal use of R39, for one instruction word and its
literal: nothing reserved. -/
def fieldsOk (op : Nat) (f : Fields) : Bool :=
  (match litUse op with
   | .control => f.selA != .lit && f.selB != .lit && litOk op f.lit
   | .mode => f.selA == .lit || f.selB == .lit || fld f.lit 2 30 == 0
   | .operand => true) &&
  !(f.tag == .call && (f.selB == .lit || f.selB == .lane || f.selB == .zero))

end Sys2Proof
end

