-- ==== Sys2Proof/WellFormed.lean ====
section
/-! DEFINITION. Well-formed instructions: those whose words a pitch accepts (R39, R46). -/

namespace Sys2Proof

/-- An instruction is well formed when its literal and its source selects hold nothing reserved for its
opcode (reasons 4, 5 and 6 of R46). An event has no word, so none of its terms is ill formed. -/
def Instr.wf (i : Instr) : Bool :=
  match i.opcode?, i.fields? with
  | some op, some f => fieldsOk op f
  | _, _ => true

end Sys2Proof
end

