-- ==== Sys2Proof/Machine/Ops.lean ====
section
/-! DEFINITION. The named operations over the state: tables, memory, accessors, time, tokens and threads
ending, and taking a fault: one shared operation for every class (R350 to R357), with the fence of R353. -/

namespace Sys2Proof.Machine

/-! ## Tables -/

/-- The entry of a key, if the table lists one. -/
def tget {κ α : Type} [DecidableEq κ] : Tbl κ α → κ → Option α
  | [], _ => none
  | (k, a) :: t, x => if k = x then some a else tget t x

/-- The entry of a key, or the table's default. -/
def tgetD {κ α : Type} [DecidableEq κ] (t : Tbl κ α) (k : κ) (d : α) : α := (tget t k).getD d

/-- Write the entry of a key in place, or add it at the end. -/
def tset {κ α : Type} [DecidableEq κ] : Tbl κ α → κ → α → Tbl κ α
  | [], x, b => [(x, b)]
  | (k, a) :: t, x, b => if k = x then (k, b) :: t else (k, a) :: tset t x b

/-- Remove a key. -/
def tdel {κ α : Type} [DecidableEq κ] (t : Tbl κ α) (k : κ) : Tbl κ α := t.filter (fun e => e.1 ≠ k)

/-- Change the entry of a key, if the table lists one. -/
def tmod {κ α : Type} [DecidableEq κ] (t : Tbl κ α) (k : κ) (f : α → α) : Tbl κ α :=
  match tget t k with
  | none => t
  | some a => tset t k (f a)

/-- Put an element behind those that may stand before it. -/
def insBy {α : Type} (le : α → α → Bool) (x : α) : List α → List α
  | [] => [x]
  | y :: ys => if le y x then y :: insBy le x ys else x :: y :: ys

/-- Sort, keeping the order of equals. -/
def sortBy {α : Type} (le : α → α → Bool) (l : List α) : List α := l.foldl (fun r x => insBy le x r) []

/-! ## Memory -/

/-- What an address that no entry lists reads as: the boot wiped it to zero (R437 step 1). -/
def memDefault : Byte := 0

/-- Read one byte. -/
def rdB : List Host.Cell → Nat → Byte
  | [], _ => memDefault
  | (k, b) :: m, a => if k = a then b else if a < k then memDefault else rdB m a

/-- Write one byte, keeping addresses rising and no entry at the default. -/
def wrB : List Host.Cell → Nat → Byte → List Host.Cell
  | [], a, b => if b = memDefault then [] else [(a, b)]
  | (k, c) :: m, a, b =>
    if k = a then (if b = memDefault then m else (k, b) :: m)
    else if a < k then (if b = memDefault then (k, c) :: m else (a, b) :: (k, c) :: m)
    else (k, c) :: wrB m a b

/-- An address is above a bound, if there is one. -/
def Memory.above : Option Nat → Nat → Bool
  | none, _ => true
  | some l, k => decide (l < k)

/-- Every address is above `lo` and rising, and no entry is the default. -/
def Memory.wfFrom : Option Nat → List Host.Cell → Bool
  | _, [] => true
  | lo, (k, b) :: m => Memory.above lo k && b != memDefault && Memory.wfFrom (some k) m

/-- The canonical form of memory: strictly rising addresses, no entry equal to the default. -/
def Memory.wf (m : List Host.Cell) : Bool := Memory.wfFrom none m

def rdN (m : List Host.Cell) (a : Nat) : Nat → List Byte
  | 0 => []
  | n + 1 => rdB m a :: rdN m (a + 1) n

def wrN (m : List Host.Cell) (a : Nat) : List Byte → List Host.Cell
  | [] => m
  | b :: bs => wrN (wrB m a b) (a + 1) bs

/-- Write the bytes whose mask is set (STM, masked flits). -/
def wrMasked (m : List Host.Cell) (a : Nat) : List Byte → List Bool → List Host.Cell
  | b :: bs, k :: ks => wrMasked (if k then wrB m a b else m) (a + 1) bs ks
  | _, _ => m

/-- The 32-bit word at a physical address (R4). -/
def State.rdW (s : State) (a : Nat) : Word := BitVec.ofNat 32 (leNat (rdN s.mem a 4))
/-- The 64-bit word at a physical address (R4). -/
def State.rdD (s : State) (a : Nat) : DWord := BitVec.ofNat 64 (leNat (rdN s.mem a 8))

/-- The first address of [a, a + n) among those under an error: what a "memory error" record names (R356). -/
def firstErr (errs : List Nat) (a n : Nat) : Nat := (((List.range n).map (fun i => a + i)).find? (fun x => errs.contains x)).getD a

/-- Some byte of [a, a + n) lies in a word that carries an uncorrectable error (R362). -/
def State.badAt (s : State) (a n : Nat) : Bool := s.memBad.any (fun x => decide (a ≤ x ∧ x < a + n))

def lineOf (pa : Nat) : Nat := pa / 128

/-! ## Two's complement and signs -/

/-- R105. -/
def Sx (x : Word) : Int := x.toInt
/-- R105. -/
def Zx (x : Word) : Nat := x.toNat
/-- R105. -/
def wrap32 (n : Int) : Word := BitVec.ofInt 32 n
/-- R105. -/
def sat32 (n : Int) : Word := wrap32 (min (max n (-2147483648)) 2147483647)
/-- R105. -/
def satZ32 (n : Int) : Word := wrap32 (min (max n 0) 4294967295)
/-- R105. -/
def bitW (c : Bool) : Word := if c then 1 else 0
/-- A field of n bits read as two's complement. -/
def sxN (n : Nat) (x : Nat) : Int := if 2 ^ (n - 1) ≤ x % 2 ^ n then (x % 2 ^ n : Nat) - (2 ^ n : Nat) else (x % 2 ^ n : Nat)
def w32 (n : Nat) : Word := BitVec.ofNat 32 n

/-! ## Coordinates -/

/-- R22, R23. -/
def tileid (a : Agent) : Word :=
  match a.site with
  | .tile n => w32 (n * 64 + a.cell)
  | .elem n => w32 (2 ^ 30 + (n / 96) * 2 ^ 12 + n % 96)
  | .syrad n => w32 (2 ^ 31 + n * 2 ^ 12 + a.cell)

/-- The sixteen dies: F0-F7 are 0-7, M0-M3 8-11, the memory dies 12-15. -/
def dieOf : Site → Nat
  | .tile n => n / 64
  | .elem n => 8 + n / 96
  | .syrad n => 12 + n

/-- R21: the nearest memory die of a die. -/
def nearest (die : Nat) : Nat := if die < 8 then die / 2 else (die - 8) % 4

def isElem : Site → Bool
  | .elem _ => true
  | _ => false

def isTile : Site → Bool
  | .tile _ => true
  | _ => false

def isSyrad : Site → Bool
  | .syrad _ => true
  | _ => false

/-- R10. -/
def memDie (pa : Nat) : Nat := pa / 2 ^ 49 % 4

/-- A frame number's home tile and local index (R62). -/
def frameTile (f : BitVec 20) : Nat := f.toNat / 2 ^ 11
def frameLocal (f : BitVec 20) : Nat := f.toNat % 2 ^ 11

/-! ## Accessors -/

def State.cell (s : State) (a : Agent) : Cell := tgetD s.cells a Cell.reset
def State.setCell (s : State) (a : Agent) (c : Cell) : State := { s with cells := tset s.cells a c }
def State.modCell (s : State) (a : Agent) (f : Cell → Cell) : State := s.setCell a (f (s.cell a))
def State.site (s : State) (x : Site) : SiteSt := tgetD s.sites x SiteSt.reset
def State.setSite (s : State) (x : Site) (v : SiteSt) : State := { s with sites := tset s.sites x v }
def State.modSite (s : State) (x : Site) (f : SiteSt → SiteSt) : State := s.setSite x (f (s.site x))
def State.part (s : State) (p : Nat) : Part := tgetD s.parts p Part.reset
def State.setPart (s : State) (p : Nat) (v : Part) : State := { s with parts := tset s.parts p v }
def State.modPart (s : State) (p : Nat) (f : Part → Part) : State :=
  match tget s.parts p with
  | none => s
  | some v => s.setPart p (f v)
def State.thr? (s : State) (u : Nat) : Option Thread := tget s.threads u
def State.setThr (s : State) (u : Nat) (t : Thread) : State := { s with threads := tset s.threads u t }
def State.modThr (s : State) (u : Nat) (f : Thread → Thread) : State :=
  { s with threads := tmod s.threads u f }
def State.elem (s : State) (e : Nat) : Elem := tgetD s.elems e Elem.reset
def State.setElem (s : State) (e : Nat) (v : Elem) : State := { s with elems := tset s.elems e v }
def State.acc? (s : State) (a : Nat) : Option Access := tget s.accs a
def State.setAcc (s : State) (a : Nat) (x : Access) : State := { s with accs := tset s.accs a x }
def State.modAcc (s : State) (a : Nat) (f : Access → Access) : State := { s with accs := tmod s.accs a f }
def State.modLaunch (s : State) (l : Nat) (f : Launch → Launch) : State :=
  { s with launches := tmod s.launches l f }
def State.slice (s : State) (n : Nat) : SliceSt := tgetD s.coh.slices n SliceSt.reset
def State.modSlice (s : State) (n : Nat) (f : SliceSt → SliceSt) : State :=
  { s with coh := { s.coh with slices := tset s.coh.slices n (f (s.slice n)) } }
def State.matcher (s : State) (d : Nat) : Matcher := tgetD s.io.matchers d Matcher.reset
def State.modMatcher (s : State) (d : Nat) (f : Matcher → Matcher) : State :=
  { s with io := { s.io with matchers := tset s.io.matchers d (f (s.matcher d)) } }

/-! ## Homes -/

/-- R293: the current words of domain k on a memory die. -/
def State.dom (s : State) (die k : Nat) : L2Dom := tgetD s.coh.doms (16 * die + k) L2Dom.reset

/-- R292: the XOR of the low 49 bits. -/
def parity (x : Nat) : Nat := (List.range 49).foldl (fun a j => (a + x / 2 ^ j) % 2) 0

/-- The set bits of a slice mask, ascending. -/
def setBits (m : BitVec 16) : List Nat := (List.range 16).filter (fun j => m.getLsbD j)

/-- R292: the position among n slices that the hash masks give an address. -/
def hashIndex (h : Tbl Nat DWord) (pa n : Nat) : Nat :=
  (List.range (Nat.log2 n)).foldl (fun i j => i + parity (Nat.land (pa / 128 * 128) ((tgetD h j 0).toNat / 128 * 128) % 2 ^ 49) * 2 ^ j) 0

/-- R291 step 2: the domain whose range on the address's die holds it. -/
def State.domainOf (s : State) (pa : Nat) : Option Nat :=
  (List.range 16).find? (fun k =>
    let d := s.dom (memDie pa) k
    decide (d.base ≤ pa % 2 ^ 49 ∧ pa % 2 ^ 49 < d.limit) && d.slices != 0)

/-- R292, R294: the slice that a domain's words on a die choose for an address, 16 * die + slice. -/
def State.sliceOn (s : State) (die k pa : Nat) : Option Nat :=
  let d := s.dom die k
  let bits := setBits d.slices
  (bits[hashIndex d.hash pa bits.length]?).map (fun b => 16 * die + b)

/-- R291, R292: the home slice of an address; none outside every domain. -/
def State.homeOf (s : State) (pa : Nat) : Option Nat :=
  match s.domainOf pa with
  | none => none
  | some k => s.sliceOn (memDie pa) k pa

/-- The home slice, or the die's slice 0 where none homes the address. -/
def State.homeOr (s : State) (pa : Nat) : Nat := (s.homeOf pa).getD (16 * memDie pa)

/-- R428: the Reltin aperture. -/
def isAperture (pa : Nat) : Bool := nfld pa 47 2 == 3

/-- The address lies in the range of a domain that a switch holds (R307): in a current or a staged range. -/
def State.switching (s : State) (pa : Nat) : Bool :=
  match s.coh.switch with
  | none => false
  | some w => (setBits w.doms).any (fun k =>
      let d := s.dom (memDie pa) k
      let g := tgetD s.coh.staged (16 * memDie pa + k) d
      decide (d.base ≤ pa % 2 ^ 49 ∧ pa % 2 ^ 49 < d.limit ∨ g.base ≤ pa % 2 ^ 49 ∧ pa % 2 ^ 49 < g.limit))

/-- A tracked region's key (R298). -/
def regionOf (pa : Nat) : Nat := pa / 2 ^ 21

/-- R302: a write performed on a line closes its merge windows. -/
def State.closeWindows (s : State) (line : Nat) : State :=
  { s with coh := { s.coh with mc := s.coh.mc.map (fun e =>
    (e.1, { e.2 with windows := e.2.windows.filter (fun i => decide (e.2.lines[i]? ≠ some line)) })) } }

/-- Nanoseconds of a number of cycles of the 1.1 GHz arithmetic clock (R3). -/
def nsOf (cycles : Nat) : Nat := cycles * 10 / 11

/-- Cycles pass; the time of day goes on with them. -/
def State.pass (s : State) (d : Nat) : State :=
  { s with cycle := s.cycle + d, tod := s.tod + nsOf (s.cycle + d) - nsOf s.cycle }

/-- R8: a write of a control word is the last thing that reaches the word in its cycle: whatever reads it
from now on does so in a later one. -/
def State.endCycle (s : State) : State := { s.pass 1 with uncounted := s.uncounted + 1 }

/-- Add an activity that may come about. -/
def State.post (s : State) (a : Act) : State := { s with agenda := s.agenda ++ [a] }
def State.postEv (s : State) (i : Instr) (x : Subj := {}) : State := s.post (.ev i x)
/-- A fresh number for new work. -/
def State.bump (s : State) : State := { s with fresh := s.fresh + 1 }

/-! ## Writes of the hardware itself -/

/-- A write makes its line dirty (R306). -/
def State.soil (s : State) (line : Nat) : State :=
  { s with coh := { s.coh with lines := tmod s.coh.lines line (fun l => { l with dirty := true }) } }

/-- R296, R298, R301: the replicas of a line collapse within the hardware's own write: one collapse to each holder
of the line's mask, counted as any other. A fill on its way is discarded (R297). -/
def State.hwCollapse (s : State) (line : Nat) : State :=
  match tget s.coh.lines line with
  | none => s
  | some x =>
    let n := x.holders.length
    let s := s.modSlice (s.homeOr (line * 128)) (fun v => { v with coll := v.coll + w32 n })
    { s with coh := { s.coh with
      lines := tset s.coh.lines line { x with holders := [] }
      replicas := s.coh.replicas.filter (fun r => decide (r.1.2 ≠ line))
      fills := s.coh.fills.map (fun e => if e.2.line = line then (e.1, { e.2 with discard := true }) else e)
      regs := tmod s.coh.regs (memDie (line * 128), regionOf (line * 128)) (fun r => { r with colls := r.colls + n }) } }

/-- A home slice of this module can serve the address: it is not in the aperture (R428) and its die is not lost (R300). -/
def State.served (s : State) (pa : Nat) : Bool := !isAperture pa && !s.coh.lost.contains (12 + memDie pa)

/-- The hardware's write performs: memory takes the bytes, errors there are gone, every replica of the lines has
collapsed and their merge windows are closed (R268, R296, R302). One to a line homed on a lost die is not
performed (R300). -/
def State.hwPerform (s : State) (a : Nat) (bs : List Byte) : State :=
  if s.coh.lost.contains (12 + memDie a) then s else
  let s : State := { s with
    mem := wrN s.mem a bs
    memBad := s.memBad.filter (fun x => !(decide (a ≤ x ∧ x < a + bs.length))) }
  (List.range (lineOf (a + bs.length - 1) + 1 - lineOf a)).foldl (fun s i =>
    ((s.hwCollapse (lineOf a + i)).soil (lineOf a + i)).closeWindows (lineOf a + i)) s

/-- Bytes cut at the lines that they cross, each piece with its address. -/
def linePart (a : Nat) (bs : List Byte) : List (Nat × List Byte) :=
  (List.range (lineOf (a + bs.length - 1) + 1 - lineOf a)).map (fun i =>
    let lo := max a ((lineOf a + i) * 128)
    (lo, (bs.drop (lo - a)).take ((lineOf a + i + 1) * 128 - lo)))

/-- R428: a write of the hardware to another module: an access of no thread, whose write flits leave in the order of
such writes (assumption 29). -/
def State.hwSend (s : State) (a : Nat) (bs : List Byte) : State :=
  let lanes := (linePart a bs).mapIdx (fun i q =>
    ({ lane := i, ea := q.1, pa := q.1, repl := 0, size := q.2.length, bytes := q.2, mask := q.2.map (fun _ => true), z := 0,
       st := .todo, got := [], pois := false, acks := [], qrec := [], qAt := 0 } : LaneAcc))
  let x : Access := { op := .st, uid := 0, who := ⟨⟨.syrad 0, 0⟩, 16, 0, 0, 0, 0, 0, 0, 0⟩, seq := s.fresh, stream := some 0,
                      ord := 0, scope := 0, noalloc := true, targets := [], lanes := lanes, chain := none, lit := 0, desc := 0,
                      faulted := false, fails := [], recd := true, retired := false, gates := [] }
  let n := s.fresh
  lanes.foldl (fun s m => s.postEv .pageWalk { a := n, b := m.lane }) (s.bump.setAcc n x)

/-- A write of the hardware that has performed at every scope when the step ends; one to the range of a switch is
held until its replay (R307 step 1), one to another module leaves as flits (R428). -/
def State.hwWrite (s : State) (a : Nat) (bs : List Byte) : State :=
  if isAperture a then s.hwSend a bs
  else if s.switching a then { s with coh := { s.coh with hwHeld := s.coh.hwHeld ++ [(a, bs)] } } else s.hwPerform a bs

/-- Memory as the hardware's own read-modify-writes see it: what a switch holds has been written. -/
def State.hwMem (s : State) : List Host.Cell := s.coh.hwHeld.foldl (fun m w => wrN m w.1 w.2) s.mem

/-- R373: the work of a launch on a site is swapped out: a tile's context lies in its bivouac slot, an
element is held in place. -/
def State.away (s : State) (x : Site) (inv : Nat) : Bool :=
  match x with
  | .tile n =>
    match tget s.biv n with
    | none => false
    | some b => b.invs.contains inv || (inv == 0 && (s.site x).img.isNone)
  | _ => (s.site x).swapped

/-- R371, R373: a site as the work of a launch sees it: its context where that work is swapped out. -/
def State.workSite (s : State) (x : Site) (inv : Nat) : SiteSt :=
  match x with
  | .tile n => if s.away x inv then (tget s.biv n).elim (s.site x) (fun b => b.site) else s.site x
  | _ => s.site x

/-- The thread that the current agent runs (R76). -/
def State.curUid (s : State) : Option Nat := (s.cell s.cur).run

/-- The work clock of a partition: cycles that did not pass under a halt (R367). -/
def Part.clock (p : Part) (cycle : Nat) : Nat := (if p.halted then p.haltAt else cycle) - p.frozen
def State.work (s : State) (p : Nat) : Nat := (s.part p).clock s.cycle

/-! ## Cells of a thread (R121) -/

def Thread.width (t : Thread) : Nat := t.lanes.length

/-- The lane cells of a thread (R121). -/
def Thread.laneCells (t : Thread) : List Nat :=
  if t.width ≤ 1 then [t.src.cell]
  else (List.range t.width).map (fun l => t.src.cell / 32 * 32 + t.colour.toNat + l)

/-- The cells a thread holds while it runs: its lane cells and its source cell (R121). -/
def Thread.cellsHeld (t : Thread) : List Nat :=
  if t.src.cell ∈ t.laneCells then t.laneCells else t.laneCells ++ [t.src.cell]

def Thread.laneAgent (t : Thread) (l : Nat) : Agent :=
  ⟨t.src.site, if t.width ≤ 1 then t.src.cell else t.src.cell / 32 * 32 + t.colour.toNat + l⟩

def Thread.who (t : Thread) (opc : Nat) : Who :=
  ⟨t.src, t.part, t.region, t.inv, t.frame, t.wave, t.ip, opc, (t.laneAgent 0).cell⟩

/-- Change every cell of a list of one site. -/
def State.modCells (s : State) (x : Site) (cs : List Nat) (f : Cell → Cell) : State :=
  cs.foldl (fun s c => s.modCell ⟨x, c⟩ f) s

/-- Ask every cell of a list to choose its work (R75). -/
def State.wake (s : State) (x : Site) (cs : List Nat) : State :=
  cs.foldl (fun s c => s.postEv .workSelection { ag := ⟨x, c⟩ }) s

/-! ## Slots of queues and egress (R205, R206, R208) -/

def Cell.queue (c : Cell) (port : Nat) : List Token := tgetD c.queues port []
/-- Free slots of an input queue (R211). -/
def Cell.qfree (c : Cell) (port : Nat) : Nat := 8 - ((c.queue port).length + tgetD c.qresv port 0)

/-- Take one slot if there is one of its kind (R205, R208). -/
def State.reserve (s : State) (r : Resv) (ctl : Bool) : Option State :=
  match r with
  | .queue ag port =>
    let c := s.cell ag
    if (if ctl then 1 else 3) ≤ c.qfree port then
      some (s.setCell ag { c with qresv := tset c.qresv port (tgetD c.qresv port 0 + 1) })
    else none
  | .egress x _ =>
    let v := s.site x
    if v.egress.length + v.egResv < (if ctl then 64 else 56) then some (s.setSite x { v with egResv := v.egResv + 1 })
    else none

/-- Return one reserved slot. -/
def State.unreserve (s : State) (r : Resv) : State :=
  match r with
  | .queue ag port => s.modCell ag (fun c => { c with qresv := tset c.qresv port (tgetD c.qresv port 0 - 1) })
  | .egress x _ => s.modSite x (fun v => { v with egResv := v.egResv - 1 })

/-- Take every slot of a list, or none. -/
def State.reserveAll (s : State) : List (Resv × Bool) → Option State
  | [] => some s
  | (r, c) :: rs =>
    match s.reserve r c with
    | none => none
    | some s' => s'.reserveAll rs

/-! ## Threads end, frames go -/

/-- The end of a thread: its cells, slot, reservations, claims and fence entries are free again, its
column request is gone; its accesses and engine work go on (R76, R81, R212, R250, R289). -/
def State.endThread (s : State) (u : Nat) : State :=
  match s.thr? u with
  | none => s
  | some t =>
    let s := (t.plan.ents.flatMap (fun e => e.resv)).foldl (fun s r => s.unreserve r.1) s
    let s := s.modCells t.src.site t.cellsHeld (fun c =>
      { c with run := if c.run = some u then none else c.run, slots := c.slots.filter (fun e => e.2 ≠ u) })
    let s := s.modCell t.src (fun c =>
      { c with fences := c.fences.map (fun e => if e.2.owner = some u then (e.1, { e.2 with owner := none }) else e) })
    let s := s.modSite t.src.site (fun v => { v with colq := v.colq.filter (fun q => q.uid ≠ u) })
    let s := { s with threads := tdel s.threads u }
    s.wake t.src.site t.cellsHeld

/-- The site that homes a frame as an agent of site `x` names it (R60, R62, R176): the named tile, the
agent's own Syrad engine, none on an element. -/
def frameHome (x : Site) (f : BitVec 20) : Option Site :=
  match x with
  | .tile _ => some (.tile (frameTile f))
  | .elem _ => none
  | .syrad n => some (.syrad n)

def State.frame? (s : State) (x : Site) (f : BitVec 20) : Option Frame :=
  match frameHome x f with
  | none => none
  | some h => tget (s.site h).frames (frameLocal f)

def State.setFrame (s : State) (x : Site) (f : BitVec 20) (w : Frame) : State :=
  match frameHome x f with
  | none => s
  | some h => s.modSite h (fun v => { v with frames := tset v.frames (frameLocal f) w })

/-- Free a frame at its home (R79, R98). A strike may wait for it (R56). -/
def State.freeFrame (s : State) (x : Site) (f : BitVec 20) : State :=
  match frameHome x f with
  | none => s
  | some h => s.modSite h (fun v => { v with frames := tdel v.frames (frameLocal f) })

/-- R79: `done` lowers the frame's use count at its home and frees it at zero. -/
def State.useRelease (s : State) (x : Site) (f : BitVec 20) : State :=
  match s.frame? x f with
  | none => s
  | some w => if w.use ≤ 1 then s.freeFrame x f else s.setFrame x f { w with use := w.use - 1 }

/-! ## Records (R355 to R357) -/

/-- R351: the class of a fault code (R350). -/
def faultClass (code : Nat) : Nat :=
  if code < 0x10 then 0 else if code < 0x100 then 3 else if code < 0x200 then 1 else 2

/-- The invocation id of a launch number of the model (R335); all ones outside any (R355). -/
def State.invId (s : State) (inv : Nat) : Word :=
  match tget s.launches inv with
  | none => 0xFFFFFFFF
  | some l => l.id

/-- R356: detail words 0 to 3, with the fault's reason, and the further items. -/
def Who.details (w : Who) (reason : Nat) (more : List Word) : List Word :=
  [w32 (reason % 256 + (w.opc % 256) * 256 + (w.ip % 256) * 65536), tileid w.ag,
   w32 (w.frame.toNat * 4096), w32 w.wave.toNat] ++ more

/-- R203: the detail words of the matrix faults. -/
def Who.details203 (w : Who) (reason : Nat) (w5 : Word) : List Word :=
  [w32 reason, tileid w.ag, w32 (w.ip % 256 + (w.opc % 256) * 256), w32 (w.frame.toNat * 4096),
   w32 w.wave.toNat, w5]

def wordsBytes (ws : List Word) : List Byte := ws.flatMap (fun w => leBytes 4 w.toNat)

/-- R355: the sixteen words of a record. -/
def recordWords (part cls region code : Nat) (inv seq : Word) (entry : Nat) (awaits : Bool) (details : List Word)
    (tod : Nat) : List Word :=
  [w32 (part * 2 ^ 28 + cls * 2 ^ 26 + region * 2 ^ 16 + code), inv, seq,
   w32 (entry + if awaits then 256 else 0)] ++ (details ++ List.replicate 8 0).take 8
  ++ [w32 tod, w32 (tod / 2 ^ 32), 0, 0]

def Part.occupancy (p : Part) : Nat := (p.tqTail - p.tqHead).toNat

/-- The matcher that gets an event: the first whose key is registered, else Ridge's; when it is full the
event's source holds it (R434). -/
def State.notify (s : State) (key : Nat) (payload : Word) : State :=
  let d := ((List.range 4).find? (fun d => ((s.matcher d).regs.any (fun r => r.1 = key)))).getD 0
  let m := s.matcher d
  let full := 512 ≤ m.regs.length + m.waiting.length
  (s.modMatcher d (fun m => if full then { m with sources := m.sources ++ [(key, payload)] }
                            else { m with waiting := m.waiting ++ [(key, payload)] })).postEv .eventMatch { a := d }

/-- R357: write a record at the tail, raise the tail and notify the Syrad engine. The write has its cycle to itself,
so that no two records are written in one. What a firmware cell raises, which belongs to no partition, has no
trap queue and is dropped (assumption 48). -/
def State.putRecord (s : State) (p : Nat) (cls region : Nat) (inv : Nat) (id : Word) (code : Nat) (details : List Word)
    (await : Option RecFor) (va : Int) : State :=
  match tget s.parts p with
  | none => s
  | some v =>
    let entry := v.tqTail.toNat % 256
    let ws := recordWords p cls region code id v.seq entry await.isSome details s.tod
    let s := s.hwWrite ((v.tqBase.toNat + 64 * entry) % 2 ^ 51) (wordsBytes ws)
    let recs := match await with
      | none => tdel v.recs entry
      | some r => tset v.recs entry ⟨v.seq, r, code, va, false⟩
    let s := s.setPart p { v with tqTail := v.tqTail + 1, seq := v.seq + 1, recs := recs }
    let s := s.modLaunch inv (fun l => { l with faults := l.faults + 1 })
    let s := (s.notify (0x1000 + p) (w32 entry)).endCycle
    if code = 1 then s.postEv .translationMissService { a := p, b := entry }
    else if code = 2 then s.postEv .copyOnWriteService { a := p, b := entry } else s

/-- The launch of a partition that carries an invocation id. -/
def State.launchOf (s : State) (p : Nat) (id : Word) : Nat :=
  ((s.launches.find? (fun e => e.2.part = p ∧ e.2.id = id)).map (fun e => e.1)).getD 0

/-- R357: what is held is written, oldest first, while the occupancy is below 248; it is written before any later
record of its agent. -/
def State.flushHeld (s : State) (p : Nat) : State :=
  ((s.part p).heldRecs.filter (fun e => !e.2.written)).foldl (fun s e =>
    let h := e.2
    if 248 ≤ (s.part p).occupancy then s
    else (s.putRecord p h.cls h.region (s.launchOf p h.inv) h.inv h.code h.details (some h.for_) h.va).modPart p (fun v =>
      { v with heldRecs := tset v.heldRecs e.1 { h with written := true } })) s

/-! ## Fencing a domain (R353) -/

/-- The effective fault-domain owner of a region. -/
def Part.domOf (p : Part) (r : Nat) : Nat :=
  match tget p.regions r with
  | none => 0
  | some g => g.dom

/-- Poison rows r to r + n - 1 of an element's accumulators in every column (R182, R191). -/
def Elem.poisonRows (e : Elem) (r n : Nat) : Elem :=
  let keys := (List.range n).flatMap (fun i => (List.range 128).map (fun c => (r + i) * 128 + c))
  let one := fun (acc : Tbl Nat AccEnt) (k : Nat) =>
    tset acc k { tgetD acc k ⟨0, 0, 0, false, tgetD e.pins (k / 128) 0, 0, 0, false⟩ with pois := true }
  { e with acc := keys.foldl one e.acc }

/-- The rows an instruction of group 0xD uses: base and count (R192). -/
def MxInstr.rows (m : MxInstr) : Nat × Nat :=
  let r := fld m.lit 0 9
  let kind := fld m.lit 9 2
  if m.op = 0xD0 then (0, 0)
  else if m.op = 0xD7 then
    (if kind = 0 then (r, fld m.b 0 10) else if kind = 3 then (r, fld m.b 8 10) else (0, 0))
  else if m.op = 0xD8 then (if kind ≤ 1 then (r, fld m.b 0 10) else (0, 0))
  else (r, fld m.b 0 10)

def tokGone (p : Nat) (rs : List Nat) (t : Token) : Bool := t.part == p && rs.contains t.region
def whoGone (p : Nat) (rs : List Nat) (w : Who) : Bool := w.part == p && rs.contains w.region

/-- Discard the fenced tokens of a cell's queues and pairs. -/
def Cell.discard (c : Cell) (gone : Token → Bool) : Cell :=
  { c with queues := c.queues.map (fun q => (q.1, q.2.filter (fun t => !gone t))),
           pairs := c.pairs.filter (fun q => !(gone q.lower || gone q.upper)) }

/-- Discard the fenced tokens of a site's buffers and frames; cancel its copies and chains (R236). -/
def SiteSt.discard (v : SiteSt) (gone : Token → Bool) (goneW : Who → Bool) : SiteSt :=
  { v with
    egress := v.egress.filter (fun t => !gone t)
    ingress := v.ingress.filter (fun t => !gone t)
    frames := v.frames.map (fun e =>
      let dead := (e.2.toks.filter (fun k => gone k.2)).map (fun k => k.1)
      (e.1, { e.2 with toks := e.2.toks.filter (fun k => !gone k.2),
                       present := e.2.present.filter (fun b => !dead.contains b) }))
    copies := v.copies.map (fun e => (e.1, { e.2 with cancelled := e.2.cancelled || goneW e.2.who }))
    chains := v.chains.map (fun e => (e.1, { e.2 with stopped := e.2.stopped || goneW e.2.who, testing := if goneW e.2.who then none else e.2.testing })) }

/-- Slots that discarded ingress tokens held in their target queues are returned. -/
def State.returnHeld (s : State) (gone : Token → Bool) : State :=
  (s.sites.flatMap (fun e => e.2.ingress)).foldl (fun s t =>
    if gone t && t.held then s.unreserve (.queue ⟨t.dst, t.cell⟩ t.tag.port.toNat) else s) s

/-- Cancelled copies and stopped chains go on to their end. -/
def State.endFenced (s : State) (goneW : Who → Bool) : State :=
  s.sites.foldl (fun r e =>
    let r := (e.2.copies.filter (fun c => goneW c.2.who)).foldl (fun r c => r.postEv .copyComplete { site := e.1, a := c.1 }) r
    (e.2.chains.filter (fun c => goneW c.2.who)).foldl (fun r c => r.postEv .chainEnd { site := e.1, a := c.1 }) r) s

/-- R348: a token that crossed to another die has arrived there. -/
def State.countRecv (s : State) (k : Token) : State :=
  let b := dieOf k.dst
  if dieOf k.src.site = b then s
  else s.modLaunch k.inv (fun l => { l with recv := tset l.recv b (tgetD l.recv b 0 + 1) })

/-- A fence reaches a context in its bivouac slot: its tokens are discarded, its copies cancelled, its threads
end as soon as they are back. -/
def Biv.discard (b : Biv) (p : Nat) (rs : List Nat) : Biv :=
  { b with
    site := b.site.discard (tokGone p rs) (whoGone p rs)
    cells := b.cells.map (fun e => (e.1, e.2.discard (tokGone p rs)))
    threads := b.threads.map (fun e => if e.2.part = p ∧ e.2.region ∈ rs then (e.1, { e.2 with ending := true }) else e) }

/-- R353: what a fence does to every invocation of the domain's regions. An arriving token that is discarded
has arrived (R348); an element whose running instruction stops takes up the next of its queue (R185). -/
def State.fenceRegions (s : State) (p : Nat) (rs : List Nat) : State :=
  let gone := tokGone p rs
  let goneW := whoGone p rs
  let s := s.returnHeld gone
  let s := (s.fabric.filter gone).foldl State.countRecv s
  let stopped := (s.elems.filter (fun e => e.2.running.any (fun m => goneW m.who))).map (fun e => e.1)
  let s : State := { s with
    cells := s.cells.map (fun e => (e.1, e.2.discard gone))
    sites := s.sites.map (fun e => (e.1, e.2.discard gone goneW))
    fabric := s.fabric.filter (fun t => !gone t)
    biv := s.biv.map (fun e => (e.1, e.2.discard p rs))
    elems := s.elems.map (fun e =>
      let q := e.2.queue.filter (fun m => !goneW m.who)
      match e.2.running with
      | none => (e.1, { e.2 with queue := q })
      | some m => if goneW m.who then
          (e.1, { (e.2.poisonRows m.rows.1 m.rows.2) with queue := q, running := none })
        else (e.1, { e.2 with queue := q }))
    launches := s.launches.map (fun e =>
      if e.2.part = p ∧ e.2.region ∈ rs ∧ e.2.st = .run then (e.1, { e.2 with fenced := true, armed := [] }) else e) }
  let s := stopped.foldl (fun s e => s.postEv .matrixQueueStart { a := e }) s
  let s := s.endFenced goneW
  let mine := s.threads.filter (fun e => e.2.part = p ∧ e.2.region ∈ rs)
  mine.foldl (fun s e =>
    if e.2.stat = .run ∨ e.2.stat = .column then s.modThr e.1 (fun t => { t with ending := true })
    else s.endThread e.1) s

/-- R353: fence the domain that region `r` belongs to, once: one "domain fenced" record, then the effect
on every invocation of the domain's regions. The record names no agent, so its detail words are zero (assumption 50).
`cause` is the launch that caused it, none for a lost die. -/
def State.fenceDomain (s : State) (p r : Nat) (cause : Option Nat) : State :=
  match tget s.parts p with
  | none => s
  | some v =>
    let owner := v.domOf r
    let d := tgetD v.domains owner ⟨false, false, 0⟩
    if d.fenced then s else
    let s := s.setPart p { v with domains := tset v.domains owner { d with fenced := true } }
    let id := match cause with | none => 0xFFFFFFFF | some i => s.invId i
    let s := s.flushHeld p
    let s := if (s.part p).occupancy < 248 then s.putRecord p 1 owner (cause.getD 0) id 0x0119 [] none 0
      else s.modPart p (fun v => { v with lost := v.lost + 1 })
    s.fenceRegions p ((v.regions.filter (fun g => g.2.dom = owner)).map (fun g => g.1))

/-! ## Taking a fault (R350 to R357): the one shared operation -/

/-- A contained fault counts in its domain and fences it under policy 1 (R352, R354). -/
def State.countFault (s : State) (w : Who) : State :=
  match tget s.parts w.part with
  | none => s
  | some v =>
    let owner := v.domOf w.region
    let d := tgetD v.domains owner ⟨false, false, 0⟩
    let s := s.setPart w.part { v with domains := tset v.domains owner { d with faults := min 65535 (d.faults + 1) } }
    if d.policy then s.fenceDomain w.part w.region (some w.inv) else s

/-- R357: a record of a fault of the partition raised now is held, for want of room. -/
def State.tqFull (s : State) (p : Nat) : Bool := decide (248 ≤ ((s.flushHeld p).part p).occupancy)

/-- R357: a class 0 or 3 record is written while the occupancy is below 248, else held. -/
def State.putOrHold (s : State) (w : Who) (code : Nat) (details : List Word) (r : RecFor) (va : Int) : State :=
  if (s.part w.part).occupancy < 248 then
    s.putRecord w.part (faultClass code) w.region w.inv (s.invId w.inv) code details (some r) va
  else
    let h := s.fresh
    let x : HeldRec := ⟨code, faultClass code, w.region, s.invId w.inv, details, r, va, false⟩
    ((s.modPart w.part (fun v => { v with heldRecs := tset v.heldRecs h x })).bump).postEv .trapRecordWrite { a := w.part, b := h }

/-- R357, R363: a stop fault writes its record in a reserved entry and raises the halt line; with no entry
left it raises a second stop. -/
def State.stopFault (s : State) (p region inv : Nat) (id : Word) (code : Nat) (details : List Word) : State :=
  let s' := if (s.part p).occupancy < 256 then s.putRecord p 2 region inv id code details none 0
    else s.modPart p (fun v => { v with stop2 := 0x0200 })
  s'.postEv .haltLineRaise { a := p, b := code }

/-- Take a fault of any class for the work of `w`: write or hold its record, count it, fence, stop. -/
def State.raise (s : State) (w : Who) (code : Nat) (details : List Word) (r : Option RecFor := none)
    (va : Int := 0) : State :=
  let s := s.flushHeld w.part
  match faultClass code with
  | 1 =>
    (if (s.part w.part).occupancy < 248 then
       s.putRecord w.part 1 w.region w.inv (s.invId w.inv) code details none va
     else s.modPart w.part (fun v => { v with lost := v.lost + 1 })).countFault w
  | 2 => s.stopFault w.part w.region w.inv (s.invId w.inv) code details
  | _ => s.putOrHold w code details (r.getD (.loop 0)) va

/-! ## Semaphores (R229) -/

def State.sem (s : State) (x : Site) (k : Nat) : Word := tgetD (s.site x).sems k 0

/-- Every thread of a site that waits is tested again (R85). -/
def State.retest (s : State) (x : Site) : State :=
  (s.threads.filter (fun e => e.2.src.site = x ∧ e.2.stat = .wait)).foldl (fun s e => s.postEv .waitTest { a := e.1 }) s

/-- Chains of a site whose test block waits are tested again (R225). -/
def State.retestChains (s : State) (x : Site) : State :=
  ((s.site x).chains.filter (fun e => e.2.testing.isSome)).foldl (fun s e => s.postEv .testBlockRetest { site := x, a := e.1 }) s

/-- A semaphore's new value: what waits on it is tested, and the event has its cycle to itself, so that no set,
addition or read of a later one comes between (R229). -/
def State.setSem (s : State) (x : Site) (k : Nat) (v : Word) : State :=
  (((s.modSite x (fun y => { y with sems := tset y.sems k v })).retest x).retestChains x).endCycle

/-- The waits of R229 on a semaphore that could end now, oldest suspension first. -/
def State.semReady (s : State) (x : Site) (k : Nat) : List (Nat × Thread) :=
  s.threads.filter (fun e => e.2.src.site == x && e.2.stat == .wait &&
    (match e.2.wait with
     | some ⟨.sem j b, _, _, _⟩ => j == k && decide (Zx b ≤ Zx (s.sem x k))
     | some ⟨.rdzv j b, _, _, _⟩ => j == k && decide (Zx b ≤ Zx (s.sem x k))
     | _ => false))

/-- R229: waits on the semaphore are tested before the next event takes effect on it. -/
def State.semBusy (s : State) (x : Site) (k : Nat) : Bool := !(s.semReady x k).isEmpty

/-- A site belongs to a partition; a Syrad engine belongs to none and serves the system. -/
def State.owns (s : State) (p : Nat) (x : Site) : Bool :=
  match x with
  | .tile n => (s.part p).tiles.contains n
  | .elem n => (s.part p).elems.contains n
  | .syrad _ => false

/-- Queue a semaphore operation behind the accesses it releases (R231). -/
def State.queueSem (s : State) (x : Site) (k : Nat) (v : Word) (set : Bool) (gate : List Nat) (scope inv : Nat)
    (uid : Nat := 0) (seq : Nat := 0) : State :=
  let n := s.fresh
  ({ s with semOps := tset s.semOps n ⟨x, k, v, set, gate, scope, [], inv, uid, seq⟩ }.bump).postEv .remoteSemaphoreAdd { a := n }

/-- R229: add to a semaphore at once, or, where waits that its value satisfies are still to be tested, behind
them. `inv` is the launch whose work sends it. -/
def State.addSem (s : State) (x : Site) (k : Nat) (v : Word) (inv : Nat) : State :=
  if s.semBusy x k then s.queueSem x k v false [] 0 inv else s.setSem x k (s.sem x k + v)

/-- Queue a control push of four words to a package queue (R233, R333, R349); `dead` is the descriptor of the
dead queue that the packet tells of. -/
def State.queuePush (s : State) (p : Nat) (desc : Int) (ws : List Word) (dead : Option Nat := none) (via : Site := .syrad 0) : State :=
  if desc = 0 then s else
  let n := s.fresh
  ({ s with pqOps := tset s.pqOps n ⟨p, via, desc, ws, dead⟩ }.bump).postEv .packageQueueOperation { a := n }

end Sys2Proof.Machine
end

