-- ==== Sys2Proof/Machine/Float.lean ====
section
/-! DEFINITION. Floating-point formats, exact values, rounding (R147 to R151) and the residue system
(R163 to R166). Every value is exact until its one rounding. -/

namespace Sys2Proof.Machine

/-- A floating-point format (R148): width, fraction bits, bias, largest finite pattern, infinity pattern
if it has one, canonical NaN. -/
structure Fmt where
  w : Nat
  t : Nat
  bias : Nat
  maxP : Nat
  inf : Option Nat
  nan : Nat
  deriving DecidableEq, Repr

def fp32 : Fmt := ⟨32, 23, 127, 0x7F7FFFFF, some 0x7F800000, 0x7FC00000⟩
def bf16 : Fmt := ⟨16, 7, 127, 0x7F7F, some 0x7F80, 0x7FC0⟩
def fp16 : Fmt := ⟨16, 10, 15, 0x7BFF, some 0x7C00, 0x7E00⟩
def e4m3 : Fmt := ⟨8, 3, 7, 0x7E, none, 0x7F⟩
def e5m2 : Fmt := ⟨8, 2, 15, 0x7B, some 0x7C, 0x7E⟩

/-- An exact value: NaN, an infinity, or (−1)^neg × m × 2^e; a zero keeps its sign. -/
inductive FV
  | nan
  | inf (neg : Bool)
  | fin (neg : Bool) (m : Nat) (e : Int)
  deriving DecidableEq, Repr

/-- R148: the value of a pattern. -/
def Fmt.val (f : Fmt) (x : Nat) : FV :=
  let s := x / 2 ^ (f.w - 1) % 2 == 1
  let b := x % 2 ^ (f.w - 1)
  if b ≤ f.maxP then
    let E := b / 2 ^ f.t
    let T := b % 2 ^ f.t
    if E = 0 then .fin s T (1 - (f.bias : Int) - f.t) else .fin s (2 ^ f.t + T) ((E : Int) - f.bias - f.t)
  else if f.inf = some b then .inf s else .nan

/-- F(x) of R150. -/
def F (x : Word) : FV := fp32.val x.toNat

def FV.ofInt (n : Int) : FV := .fin (decide (n < 0)) n.natAbs 0

def FV.isNan : FV → Bool
  | .nan => true
  | _ => false

def FV.neg : FV → FV
  | .nan => .nan
  | .inf s => .inf (!s)
  | .fin s m e => .fin (!s) m e

/-- The sign bit of a value; a NaN has none. -/
def FV.sgn : FV → Bool
  | .nan => false
  | .inf s => s
  | .fin s _ _ => s

/-- The exact product; 0 × ∞ is invalid. -/
def FV.mul : FV → FV → FV
  | .nan, _ => .nan
  | _, .nan => .nan
  | .inf s, .inf r => .inf (s != r)
  | .inf s, .fin r m _ => if m = 0 then .nan else .inf (s != r)
  | .fin s m _, .inf r => if m = 0 then .nan else .inf (s != r)
  | .fin s m e, .fin r n g => .fin (s != r) (m * n) (e + g)

/-- Signed numerators of two finite values on their common exponent. -/
def alignTo (e g : Int) (m : Nat) : Nat := m * 2 ^ (g - e).toNat

/-- The exact sum; ∞ − ∞ is invalid; zero sums take the signs of R151 for the mode. -/
def FV.add (mode : Nat) : FV → FV → FV
  | .nan, _ => .nan
  | _, .nan => .nan
  | .inf s, .inf r => if s = r then .inf s else .nan
  | .inf s, .fin _ _ _ => .inf s
  | .fin _ _ _, .inf r => .inf r
  | .fin s m e, .fin r n g =>
    let k := min e g
    let a : Int := if s then -(alignTo k e m : Int) else alignTo k e m
    let b : Int := if r then -(alignTo k g n : Int) else alignTo k g n
    if a + b = 0 then .fin (if s = r then s else mode == 3) 0 0
    else .fin (decide (a + b < 0)) (a + b).natAbs k

/-- Comparison of two values that are no NaN. -/
def FV.lt : FV → FV → Bool
  | .nan, _ => false
  | _, .nan => false
  | .inf s, .inf r => s && !r
  | .inf s, .fin _ _ _ => s
  | .fin _ _ _, .inf r => !r
  | .fin s m e, .fin r n g =>
    let k := min e g
    let a : Int := if s then -(alignTo k e m : Int) else alignTo k e m
    let b : Int := if r then -(alignTo k g n : Int) else alignTo k g n
    decide (a < b)

def FV.eq (a b : FV) : Bool := !a.isNan && !b.isNan && !a.lt b && !b.lt a

/-- Round the exact quotient n / d to an integer, by mode and sign (R150): 0 nearest even, 1 toward zero,
2 up, 3 down. -/
def roundQ (mode : Nat) (neg : Bool) (n d : Nat) : Nat :=
  let q := n / d
  let r := n % d
  let up := match mode with
    | 0 => decide (d < 2 * r) || (decide (2 * r = d) && q % 2 == 1)
    | 1 => false
    | 2 => decide (r ≠ 0) && !neg
    | _ => decide (r ≠ 0) && neg
  if up then q + 1 else q

def Fmt.signed (f : Fmt) (neg : Bool) (b : Nat) : Nat := if neg then 2 ^ (f.w - 1) + b else b

/-- R150: an overflowing result. -/
def Fmt.over (f : Fmt) (mode : Nat) (neg : Bool) : Nat :=
  let toInf := match mode with | 0 => true | 1 => false | 2 => !neg | _ => neg
  if toInf then (match f.inf with | some b => f.signed neg b | none => f.nan) else f.signed neg f.maxP

/-- An exponent far outside every format, brought near it: the rounding is the same. -/
def clampExp (m : Nat) (e : Int) : Nat × Int :=
  let top := e + (Nat.log2 m : Int)
  if m = 0 then (0, 0) else if 2000 < top then (1, 2000) else if top < -2000 then (1, -2000) else (m, e)

/-- The magnitude pattern of n / d × 2^e rounded with an unbounded exponent, and it alone. -/
def Fmt.roundMag (f : Fmt) (mode : Nat) (neg : Bool) (n d : Nat) (e : Int) : Nat :=
  if n = 0 then 0 else
  let lg : Int := (Nat.log2 n : Int) - Nat.log2 d + e
  -- the true exponent is lg or lg - 1
  let low := if 0 ≤ lg - e then decide (n < d * 2 ^ (lg - e).toNat) else decide (n * 2 ^ (e - lg).toNat < d)
  let E := if low then lg - 1 else lg
  let qe := max E (1 - (f.bias : Int)) - f.t
  let sh := e - qe
  let q := if 0 ≤ sh then roundQ mode neg (n * 2 ^ sh.toNat) d else roundQ mode neg n (d * 2 ^ (-sh).toNat)
  (qe + f.t + f.bias - 1).toNat * 2 ^ f.t + q

/-- RoundFP of a rational times a power of two (R150). -/
def Fmt.roundRat (f : Fmt) (mode : Nat) (neg : Bool) (n d : Nat) (e : Int) : Nat :=
  let b := f.roundMag mode neg n d e
  if f.maxP < b then f.over mode neg else f.signed neg b

/-- RoundFP of an exact value (R150). -/
def Fmt.round (f : Fmt) (mode : Nat) : FV → Nat
  | .nan => f.nan
  | .inf s => (match f.inf with | some b => f.signed s b | none => f.nan)
  | .fin s m e => let c := clampExp m e; f.roundRat mode s c.1 1 c.2

def rnd32 (mode : Nat) (v : FV) : Word := w32 (fp32.round mode v)

/-- RoundInt (R150): infinities and zeros unchanged; a zero result keeps the sign. -/
def FV.toInt (mode : Nat) : FV → FV
  | .nan => .nan
  | .inf s => .inf s
  | .fin s m e => if 0 ≤ e then .fin s m e else .fin s (roundQ mode s m (2 ^ (-e).toNat)) 0

/-- The integer a finite value is, truncated. -/
def FV.int : FV → Int
  | .fin s m e =>
    let a : Nat := if 0 ≤ e then m * 2 ^ (min e 4096).toNat else m / 2 ^ (-e).toNat
    if s then -(a : Int) else a
  | _ => 0

def canonNaN : Word := 0x7FC00000

/-- The smaller of two values with −0 below +0, as patterns; the canonical NaN when either is a NaN. -/
def Fmt.minP (f : Fmt) (x y : Nat) : Nat :=
  let a := f.val x
  let b := f.val y
  if a.isNan || b.isNan then f.nan
  else if a.lt b then x else if b.lt a then y else if a.sgn then x else y

/-- The larger of two values with −0 below +0. -/
def Fmt.maxV (f : Fmt) (x y : Nat) : Nat :=
  let a := f.val x
  let b := f.val y
  if a.isNan || b.isNan then f.nan
  else if a.lt b then y else if b.lt a then x else if a.sgn then y else x

/-- The quotient of two values, rounded (R154). -/
def fdiv32 (mode : Nat) (a b : FV) : Word :=
  match a, b with
  | .nan, _ => canonNaN
  | _, .nan => canonNaN
  | .inf _, .inf _ => canonNaN
  | .inf s, .fin r _ _ => w32 (fp32.round mode (.inf (s != r)))
  | .fin s _ _, .inf r => w32 (fp32.signed (s != r) 0)
  | .fin s m e, .fin r n g =>
    if n = 0 then (if m = 0 then canonNaN else w32 (fp32.round mode (.inf (s != r))))
    else w32 (fp32.roundRat mode (s != r) m n (e - g))

/-! ## The residue system (R163 to R166) -/

/-- R163. -/
def modulus (k : Nat) : Nat := if k = 0 then 65536 else if k = 1 then 65535 else 65537
def rnsM : Nat := 65536 * 65535 * 65537

/-- R166: X in [0, M). -/
def crtX (a0 a1 a2 : Nat) : Nat :=
  let t1 := (a1 + 65535 * 2 - a0 % 65535) % 65535
  let t2 := ((a2 + 65537 * 2 - a0 % 65537 + t1) * 32769) % 65537
  a0 + 65536 * (t1 + 65535 * t2)

/-- R166: the signed value of a triple. -/
def crtDecode (a0 a1 a2 : Nat) : Int :=
  let x := crtX a0 a1 a2
  if rnsM / 2 ≤ x then (x : Int) - rnsM else x

/-- A residue triple. -/
structure Tri where
  c0 : Nat
  c1 : Nat
  c2 : Nat
  deriving DecidableEq, Repr

def Tri.zero : Tri := ⟨0, 0, 0⟩
def Tri.ofInt (n : Int) : Tri := ⟨(n % 65536).toNat, (n % 65535).toNat, (n % 65537).toNat⟩
def Tri.add (a b : Tri) : Tri := ⟨(a.c0 + b.c0) % 65536, (a.c1 + b.c1) % 65535, (a.c2 + b.c2) % 65537⟩
def Tri.mul (a b : Tri) : Tri := ⟨(a.c0 * b.c0) % 65536, (a.c1 * b.c1) % 65535, (a.c2 * b.c2) % 65537⟩
def Tri.int (a : Tri) : Int := crtDecode a.c0 a.c1 a.c2

/-- R164: a stored triple with its poison; a value that is not canonical is poisoned. -/
def tri64 (x : Nat) : Tri × Bool :=
  let t : Tri := ⟨nfld x 0 16, nfld x 16 16, nfld x 32 17⟩
  (t, nfld x 63 1 == 1 || nfld x 49 14 != 0 || decide (65534 < t.c1) || decide (65536 < t.c2))

/-- R164: the stored form of a triple. -/
def Tri.store (t : Tri) (pois : Bool) : Nat := t.c0 + t.c1 * 2 ^ 16 + t.c2 * 2 ^ 32 + (if pois then 2 ^ 63 else 0)

/-- R165: a canonical channel word's channel and residue. -/
def chan (x : Word) : Option (Nat × Nat) :=
  let k := fld x 30 2
  let r := fld x 0 17
  if k ≤ 2 ∧ fld x 17 13 = 0 ∧ r < modulus k then some (k, r) else none

def chanWord (k r : Nat) : Word := w32 (k * 2 ^ 30 + r)

/-! ## Conversion between element formats (R158, R159) -/

/-- The floating format of a CVT code. -/
def cvtFmt : Nat → Option Fmt
  | 7 => some fp32 | 8 => some bf16 | 9 => some fp16 | 10 => some e4m3 | 11 => some e5m2 | _ => none

/-- Range of an integer CVT code. -/
def cvtRange : Nat → Int × Int
  | 0 => (-2147483648, 2147483647) | 1 => (0, 4294967295) | 2 => (-32768, 32767) | 3 => (0, 65535)
  | 4 => (-128, 127) | 5 => (0, 255) | _ => (-8, 7)

def cvtSigned (c : Nat) : Bool := c == 0 || c == 2 || c == 4 || c == 6

/-- A source element of an integer code. -/
def cvtIntIn (c x : Nat) : Int := if cvtSigned c then sxN (cvtWidth c) x else (x % 2 ^ cvtWidth c : Nat)

/-- R159: into a floating format, with the saturate flag. -/
def cvtToFloat (f : Fmt) (v : FV) (mode : Nat) (sat : Bool) : Nat :=
  match v with
  | .nan => f.nan
  | .inf s => (match f.inf with
    | some b => f.signed s b
    | none => if sat then f.signed s f.maxP else f.nan)
  | .fin s m e =>
    let c := clampExp m e
    let b := f.roundMag mode s c.1 1 c.2
    if f.maxP < b then (if sat then f.signed s f.maxP else f.over mode s) else f.signed s b

/-- R159: one element from format `src` to format `dst`; the result is the destination's bit pattern, an
integer not yet extended. -/
def cvtElem (src dst mode : Nat) (sat : Bool) (x : Nat) : Int :=
  match cvtFmt src, cvtFmt dst with
  | none, none =>
    let n := cvtIntIn src x
    let r := cvtRange dst
    if sat then min (max n r.1) r.2
    else if cvtSigned dst then sxN (cvtWidth dst) (n % (2 ^ cvtWidth dst : Nat)).toNat else n % (2 ^ cvtWidth dst : Nat)
  | none, some f => (cvtToFloat f (FV.ofInt (cvtIntIn src x)) mode sat : Nat)
  | some g, some f => (cvtToFloat f (g.val (x % 2 ^ g.w)) mode sat : Nat)
  | some g, none =>
    let r := cvtRange dst
    match g.val (x % 2 ^ g.w) with
    | .nan => 0
    | .inf s => if s then r.1 else r.2
    | v => min (max (v.toInt mode).int r.1) r.2

end Sys2Proof.Machine
end

