-- ==== Sys2Proof/Machine/Regions.lean ====
section
/-! DEFINITION. The region tree: effective values, counts and grants (R322 to R326). -/

namespace Sys2Proof.Machine

/-- The items of a region control block by number (R322). -/
abbrev Item := Nat
def itemTiles : Item := 0
def itemFrames : Item := 1
def itemElements : Item := 2
def itemStore : Item := 3
def itemHbm : Item := 4
def itemReltin : Item := 5
def itemElemCycles : Item := 6
def itemTileCycles : Item := 7
def itemTexture : Item := 8
def itemQuantum : Item := 14
def itemDepth : Item := 15

/-- A region and its ancestors, nearest first (R321: a tree whose root is region 0). -/
def Part.pathFrom (v : Part) : Nat → Nat → List Nat
  | 0, _ => []
  | n + 1, r =>
    match tget v.regions r with
    | none => []
    | some g => if r = 0 then [0] else r :: v.pathFrom n g.parent

def Part.path (v : Part) (r : Nat) : List Nat := v.pathFrom 1024 r

/-- R323: the effective value of an item: the parent's when inherited, the region's own otherwise. -/
def Part.effFrom (v : Part) (i : Item) : Nat → Nat → Nat
  | 0, _ => 0
  | n + 1, r =>
    match tget v.regions r with
    | none => 0
    | some g => if g.inherit_.getLsbD i && r ≠ 0 then v.effFrom i n g.parent else g.items.getD i 0

def Part.eff (v : Part) (r : Nat) (i : Item) : Nat := v.effFrom i 1024 r

/-- Region `x` is `r` or a descendant of it. -/
def Part.within (v : Part) (r x : Nat) : Bool := (v.path x).contains r

/-- An element has group 0xD work of the region (R322 item 2). -/
def Elem.works (e : Elem) (p : Nat) (ok : Nat → Bool) : Bool :=
  (e.queue ++ e.running.toList).any (fun m => m.who.part == p && ok m.who.region)

/-- R322 item 2, R324, R371: an element runs work of these regions: group 0xD instructions, a task packet on its way
or at its control cell, a thread there, a copy or a chain of its copy engine. -/
def State.elemUsed (s : State) (p : Nat) (ok : Nat → Bool) (e : Nat) : Bool :=
  let x : Site := .elem e
  let v := s.site x
  let tok := fun (k : Token) => k.dst == x && k.part == p && ok k.region
  let who := fun (w : Who) => w.part == p && ok w.region
  (s.elem e).works p ok || s.fabric.any tok || v.ingress.any tok || (s.cell ⟨x, 0⟩).queues.any (fun q => q.2.any tok)
    || s.threads.any (fun t => t.2.src.site == x && t.2.part == p && ok t.2.region)
    || v.copies.any (fun c => who c.2.who) || v.chains.any (fun c => who c.2.who)

/-- R323: what is now counted against a region for items 0 to 3. -/
def State.held (s : State) (p r : Nat) (i : Item) : Nat :=
  let v := s.part p
  match i with
  | 0 => (s.sites.filter (fun e => isTile e.1 && e.2.part == some p && e.2.img.isSome && v.within r e.2.region)).length
  | 1 => ((s.sites.map (fun e => e.2.frames) ++ s.biv.map (fun e => e.2.site.frames)).map (fun fs =>
      (fs.filter (fun f => f.2.part == p && v.within r f.2.region)).length)).foldl (· + ·) 0
  | 2 => ((List.range 384).filter (s.elemUsed p (v.within r))).length
  | 3 => ((s.images.filter (fun m => m.key.part == p && v.within r m.region)).map (fun m => m.kib)).foldl (· + ·) 0
  | _ => 0

/-- R323: a grant of `n` more fits every region on the path. -/
def State.fits (s : State) (p r : Nat) (i : Item) (n : Nat) : Bool :=
  ((s.part p).path r).all (fun g => decide (s.held p g i + n ≤ (s.part p).eff g i))

/-- All ones: an unlimited period budget (R322). -/
def unlimited : Nat := 2 ^ 64 - 1

/-- R325: the number of the period in which the module is. -/
def State.period (s : State) : Nat := s.tod / 50000

/-- R325: a partition's counts of another period are gone. -/
def Part.inPeriod (v : Part) (n : Nat) : Part :=
  if v.period = n then v else { v with period := n, regions := v.regions.map (fun g => (g.1, { g.2 with used := [] })) }

/-- R325, R367: count activity of a die against a region and its ancestors; nothing counts under a halt line. -/
def State.charge (s : State) (p r die : Nat) (i : Item) (n : Nat) : State :=
  s.modPart p (fun v =>
    if v.halted then v
    else
      let v := v.inPeriod s.period
      { v with regions := v.regions.map (fun e =>
          if (v.path r).contains e.1 then (e.1, { e.2 with used := tset e.2.used (die, i) (tgetD e.2.used (die, i) 0 + n) }) else e) })

/-- R325: what a region has used of an item on a die in this period. -/
def State.usedBy (s : State) (p r die : Nat) (i : Item) : Nat :=
  match tget ((s.part p).inPeriod s.period).regions r with
  | none => 0
  | some x => tgetD x.used (die, i) 0

/-- R325: the region or an ancestor has used its period budget on this die. -/
def State.spent (s : State) (p r die : Nat) (i : Item) : Bool :=
  ((s.part p).path r).any (fun g =>
    let b := (s.part p).eff g i
    b != unlimited && decide (b ≤ s.usedBy p g die i))

/-- R326: how a request of a region ranks where requests contend: below its floor first, then by priority. -/
def State.rank (s : State) (p r die : Nat) (i : Item) : Nat :=
  let prio := match tget (s.part p).regions r with | none => 0 | some g => g.prio
  (if s.usedBy p r die i < (s.part p).eff r (i + 5) then 8 else 0) + prio

/-- R322 item 15: the depth limit, where 0 means 65,535. -/
def State.depthLimit (s : State) (p r : Nat) : Nat :=
  let d := (s.part p).eff r itemDepth % 65536
  if d = 0 then 65535 else d

/-- R321: the root region with items 0 to 3 as the partition's resources allow. -/
def rootRegion (tiles frames elems kib : Nat) : Region :=
  { parent := 0, prio := 0, own := true, inherit_ := 0,
    items := [tiles, frames, elems, kib] ++ List.replicate 10 unlimited ++ [0, 0],
    closed := false, closer := none, dom := 0, used := [], ran := 0 }

/-- R69: k of `frm.cfg`, where a value outside 10 to 20 is treated as 10. -/
def Part.k (v : Part) : Nat := if 10 ≤ v.frmK ∧ v.frmK ≤ 20 then v.frmK else 10

/-- R339. -/
def mix64 (x : Nat) : Nat :=
  let m := 2 ^ 64
  let x := x % m
  let x := (x ^^^ (x / 2 ^ 30)) * 0xBF58476D1CE4E5B9 % m
  let x := (x ^^^ (x / 2 ^ 27)) * 0x94D049BB133111EB % m
  x ^^^ (x / 2 ^ 31)

/-- R342: the tiles of a die, by column and row, that satisfy `ok` and whose dispatcher entry is open. -/
def State.openTiles (s : State) (die : Nat) (ok : SiteSt → Bool) : List Nat :=
  ((List.range 64).map (fun i => die * 64 + i)).filter (fun n =>
    let v := s.site (.tile n)
    v.valid && !v.striking && !v.swapped && ok v)

/-- R342: the choice among m tiles. -/
def choose (ts : List Nat) (key : Nat) : Option Nat :=
  if ts.isEmpty then none else ts[mix64 key % ts.length]?

end Sys2Proof.Machine
end

