-- ==== Sys2Proof/Machine/Flags.lean ====
section
/-! DEFINITION. The predicate `p`: which lanes a predicate block selects (R83, R84), the conditions of
BRP, LEXIT and TRAP (R87, R88), and how an instruction sets `p`. -/

namespace Sys2Proof.Machine

/-- R83: whether the covered instruction acts in a lane; true outside a block. -/
def Thread.selected (t : Thread) (l : Nat) : Bool :=
  match t.pblk with
  | none => true
  | some b => b.cond.getD l false == b.mask.getLsbD b.j

/-- The selected lanes' numbers. -/
def Thread.selLanes (t : Thread) : List Nat := (List.range t.width).filter t.selected

/-- R84: over the selected lanes, 0 any, 1 all, 2 none, 3 always; over none of them any and all are false. -/
def Thread.cond (t : Thread) (c : Nat) : Bool :=
  let ps := (t.selLanes.filterMap (fun l => t.lanes[l]?)).map (fun x => x.p)
  match c with
  | 0 => ps.any id
  | 1 => !ps.isEmpty && ps.all id
  | 2 => !(ps.any id)
  | _ => true

/-- `p` set to one value in every lane (R85). -/
def allP (t : Thread) (b : Bool) : List Bool := List.replicate t.width b

/-- R37, R105, R106: what destination 101 writes: bit 0 of the result, clear when it is poisoned. -/
def pOf (r : PWord) : Bool := r.w.getLsbD 0 && !r.pois

/-- R83: after an executed instruction the block has one covered instruction fewer; a PBLK starts its
own count. -/
def Pblk.step (b : Pblk) : Option Pblk := if b.j + 1 < b.n then some { b with j := b.j + 1 } else none

end Sys2Proof.Machine
end

