-- ==== Sys2Proof/Machine/Operands.lean ====
section
/-! DEFINITION. Operands and destinations of an instruction: source selects (R36), register
destinations (R37, R38, R105), route entries (R40), the emitted tag and payload (R78, R79) and the
choice of a route's target (R41, R42, R342). -/

namespace Sys2Proof.Machine

/-! ## Sources -/

/-- R36: what a source select delivers in lane l. -/
def Lane.src (x : Lane) (lit : Word) (l : Nat) : Sel → PWord
  | .a => x.a
  | .b => x.b
  | .c => x.c
  | .d => x.d
  | .lit => .ok lit
  | .v => x.v
  | .lane => .ok (w32 l)
  | .zero => .zero

/-- A source in every lane. -/
def Thread.srcs (t : Thread) (f : Fields) (q : Sel) : List PWord := t.lanes.mapIdx (fun l x => x.src f.lit l q)

/-- Operand A in every lane. -/
def Thread.as (t : Thread) (f : Fields) : List PWord := t.srcs f f.selA
/-- Operand B in every lane. -/
def Thread.bs (t : Thread) (f : Fields) : List PWord := t.srcs f f.selB
/-- z in every lane: `v` before the instruction (R105). -/
def Thread.zs (t : Thread) : List PWord := t.lanes.map (fun x => x.v)
/-- Operand A of lane 0. -/
def Thread.a0 (t : Thread) (f : Fields) : PWord := (t.as f).headD .zero
/-- Operand B of lane 0. -/
def Thread.b0 (t : Thread) (f : Fields) : PWord := (t.bs f).headD .zero
def Thread.z0 (t : Thread) : PWord := t.zs.headD .zero

/-- A lane takes part (R83). -/
def Thread.anyLane (t : Thread) : Bool := !t.selLanes.isEmpty

/-- R77: values that keep, lane by lane, the poison of another operand as well. -/
def taint (xs ys : List PWord) : List PWord := xs.mapIdx (fun l x => { x with pois := x.pois || (ys.getD l .zero).pois })

/-- The same value in every lane. -/
def Thread.all (t : Thread) (w : PWord) : List PWord := List.replicate t.width w

/-- The thread register a select names (R36). -/
def selReg : Sel → Option Reg
  | .a => some .a | .b => some .b | .c => some .c | .d => some .d | _ => none

/-- The registers an instruction's destinations name (R37). -/
def dstRegs (f : Fields) : List Reg :=
  (match f.dst1 with | .reg r => [r] | _ => []) ++ (match f.dst2 with | .reg r => [r] | _ => [])

/-! ## Register results -/

def Lane.setReg (x : Lane) (r : Reg) (w : PWord) : Lane :=
  match r with
  | .a => { x with a := w }
  | .b => { x with b := w }
  | .c => { x with c := w }
  | .d => { x with d := w }

/-- R37: one destination's effect on a lane. -/
def Lane.write (x : Lane) (r : PWord) : Dst → Lane
  | .reg q => x.setReg q r
  | .p => { x with p := pOf r }
  | _ => x

/-- R105: the result to `v` and to the register destinations of one lane. -/
def Lane.result (x : Lane) (f : Fields) (r : PWord) : Lane :=
  (({ x with v := r }).write r f.dst1).write r f.dst2

/-- What an instruction does to its own thread: its result per lane, none when `v` and the registers
stay; the `p` it sets; the branch target it takes. -/
structure Eff where
  v : Option (List PWord) := none
  p : Option (List Bool) := none
  jump : Option Nat := none
  /-- false where `v` alone is written -/
  regs : Bool := true
  /-- R248: the register destinations are load targets; `v` and `p` take the result -/
  load : Bool := false
  /-- R89, R12: destination 1 takes the lanes whose `p` was set when STEER read it, destination 2 the others -/
  steer : Option (List Bool) := none
  /-- R396: the scene-partition word of kind-4 routes in place of the result's -/
  part4 : Option PWord := none
  /-- the rest of a wait or reply: the instruction has not ended -/
  susp : Option TStat := none
  /-- new predicate block (R83) -/
  pblk : Option Pblk := none
  /-- R139: a reduction without a marker emits nothing and reserves nothing -/
  mute : Bool := false
  /-- R235: EDGEF's tokens are of control kind -/
  ctl : Bool := false
  /-- R139, R140: the emitted end-of-dimension level, unless an eod tag action sets it -/
  eod : Nat := 0

/-- A result in every lane. -/
def Eff.val (r : List PWord) : Eff := { v := some r }
/-- A result and `p` alike in every lane. -/
def Eff.valP (r : List PWord) (p : List Bool) : Eff := { v := some r, p := some p }

/-- R83, R105: one lane after the instruction. -/
def Lane.after (x : Lane) (f : Fields) (e : Eff) (l : Nat) : Lane :=
  let x := match e.p with | none => x | some ps => { x with p := ps.getD l x.p }
  match e.v with
  | none => x
  | some rs =>
    let r := rs.getD l x.v
    if e.load then (if f.dst1 = .p ∨ f.dst2 = .p then { x with v := r, p := pOf r } else { x with v := r })
    else if e.regs then x.result f r else { x with v := r }

/-- R83: the selected lanes take the result; the others change nothing. -/
def Thread.commit (t : Thread) (f : Fields) (e : Eff) : Thread :=
  { t with lanes := t.lanes.mapIdx (fun l x => if t.selected l then x.after f e l else x) }

/-! ## Route entries (R40) -/

def rtKind (w : Word) : Nat := fld w 29 3
def rtPort (w : Word) : Nat := fld w 27 2
def rtIp (w : Word) : Nat := fld w 19 8
def rtCell (w : Word) : Nat := fld w 13 6
def rtFslot (w : Word) : Nat := fld w 7 6
def rtIdx (w : Word) : Nat := fld w 0 7

/-- The route destinations of an instruction with their numbers (R37, R38). -/
def routeDsts (f : Fields) : List (Nat × Nat) :=
  (match f.dst1 with | .route n => [(1, n.val)] | _ => []) ++ (match f.dst2 with | .route n => [(2, n.val)] | _ => [])

/-- R80: a continuation word. -/
def contFrame (w : Word) : BitVec 20 := BitVec.ofNat 20 (fld w 12 20)
def contIp (w : Word) : BitVec 8 := BitVec.ofNat 8 (fld w 4 8)
def contPort (w : Word) : BitVec 2 := BitVec.ofNat 2 (fld w 2 2)

/-- R78, R79: the tag of a token before `setcol`. -/
def Thread.tagFor (t : Thread) (rt : Word) (act : TagAct) (cont : Word) : Tag :=
  let g : Tag := { frame := t.frame, ip := BitVec.ofNat 8 (rtIp rt), port := BitVec.ofNat 2 (rtPort rt), wave := t.wave,
                   colour := t.colour, width := t.width, eod := 0, kind := t.kind, block := t.block }
  match act with
  | .wavePlus => { g with wave := t.wave + 1 }
  | .wave0 => { g with wave := 0 }
  | .call => { g with frame := contFrame cont, ip := contIp cont, port := contPort cont }
  | .ret => { g with frame := contFrame cont, ip := contIp cont, port := contPort cont }
  | .eod1 => { g with eod := 1 }
  | .eod2 => { g with eod := 2 }
  | .eod3 => { g with eod := 3 }
  | _ => g

/-! ## Targets -/

/-- The handler or stage image whose numbers a site's routes name (R41, R177). -/
def State.image? (s : State) (k : ImgKey) : Option Image := s.images.find? (fun m => m.key = k)

/-- A tile-list entry of an image (R43, R50). -/
def tileListEntry (bytes : List Byte) (i : Nat) : Word :=
  let off := leNat ((bytes.drop 0x18).take 8)
  BitVec.ofNat 32 (leNat ((bytes.drop (off + 4 * i)).take 4))

/-- R43: the tile of a tile-list entry; R395 uses the same places. -/
def tleTile (w : Word) : Nat := fld w 13 3 * 64 + fld w 10 3 * 8 + fld w 7 3
def tleStage (w : Word) : Nat := fld w 0 7

/-- R42: whether a site runs a stage as the emitter's routes name it: the emitter's own image, or, for an
element control cell, any image of the partition. A tile whose work is swapped out runs the stage of its context
(R373). -/
def State.runs (s : State) (t : Thread) (x : Site) (stage : Nat) : Bool :=
  let v := s.workSite x t.inv
  v.img.isSome && v.part == some t.part && v.stage == stage
    && (isElem t.src.site || v.img == (s.site t.src.site).img)

/-- R395: the owner of a scene partition in the invocation's copy of the owner table. -/
def State.owner4 (s : State) (inv n : Nat) : Option Nat :=
  match tget s.launches inv with
  | none => none
  | some l =>
    match l.owners[n]? with
    | none => none
    | some w => if w.getLsbD 31 then some (tleTile w) else none

/-- The tile list that a kind-3 route of this site indexes (R43, R177). -/
def State.tileList (s : State) (t : Thread) : Option (List Byte) :=
  if isElem t.src.site then some (s.part t.part).handler
  else match (s.site t.src.site).img with
    | none => none
    | some k => (s.image? k).map (fun m => m.bytes)

/-- The word that names the scene partition of kind-4 routes: lane 0 of the result as its bits stand (R42),
or HOMEP's B, which a poison mark makes fail (R396). -/
def Eff.scene (e : Eff) (r0 : PWord) : PWord := e.part4.getD ⟨r0.w, false⟩

/-- R41, R42, R342: the target of a route of a given kind and index for an emitted tag; `r0` is the word
that names a scene partition, none while it is not known. -/
def State.target (s : State) (t : Thread) (kind idx : Nat) (g : Tag) (r0 : Option PWord) : Tgt :=
  let named := fun (n : Nat) => if s.runs t (.tile n) idx then Tgt.site (.tile n) else Tgt.fail idx
  match kind with
  | 0 => .site t.src.site
  | 1 =>
    let die := match t.src.site with
      | .tile n => n / 64
      | _ => g.frame.toNat / 2 ^ 17
    let ts := s.openTiles die (fun v => v.part == some t.part && v.stage == idx
      && (!isTile t.src.site || v.img == (s.site t.src.site).img))
    match choose ts (g.frame.toNat * 2 ^ 16 + g.wave.toNat) with
    | some n => .site (.tile n)
    | none => .hold die idx
  | 2 => named (frameTile g.frame)
  | 3 =>
    match s.tileList t with
    | none => .fail idx
    | some bs =>
      let w := tileListEntry bs idx
      if s.runs t (.tile (tleTile w)) (tleStage w) then .site (.tile (tleTile w)) else .fail (tleStage w)
  | _ =>
    match r0 with
    | none => .late
    | some r =>
      let n := fld r.w 0 16
      if r.pois then .fail n
      else match s.owner4 t.inv n with
      | none => .fail n
      | some x => named x

/-- R206, R207: the slots that one destination reserves. -/
def resvFor (t : Thread) (cell : Nat) (g : Tag) (x : Tgt) : List (Resv × Bool) :=
  let ctl := g.kind == .control
  let q := (Resv.queue ⟨t.src.site, cell⟩ g.port.toNat, ctl)
  let e := (Resv.egress t.src.site ctl, ctl)
  match x with
  | .site y => if y = t.src.site then [q] else [e]
  | .late => [e, q]
  | _ => [e]

/-- The word that `call` and `ret` take the target from, or the fault that keeps them from emitting: a
poisoned word (R80), a frame homed elsewhere or on no tile (R176), a free frame (R98). -/
def State.contWord (s : State) (t : Thread) (f : Fields) : Except Nat Word :=
  match f.tag with
  | .call => let w := t.b0 f; if w.pois then .error 0x0105 else .ok w.w
  | .ret =>
    if frameHome t.src.site t.frame ≠ some t.src.site then .error 0x0102
    else match s.frame? t.src.site t.frame with
      | none => .error 0x0103
      | some x =>
        let w := ((tgetD x.slots 0 []).headD .zero)
        if w.pois then .error 0x0105 else .ok w.w
  | _ => .ok 0

/-- R346: a `wave+` emission to the emitting actor's own cell past the depth limit. -/
def State.cutsDepth (s : State) (t : Thread) (f : Fields) (cell : Nat) (g : Tag) (x : Tgt) : Bool :=
  f.tag == .wavePlus && x == .site t.src.site && cell == t.src.cell
    && decide (s.depthLimit t.part t.region < g.wave.toNat)

/-- R206: what an instruction may emit, with the slots it must hold; `cont` is its continuation word, read
before it writes anything (R12). -/
def State.planFor (s : State) (t : Thread) (f : Fields) (cont : Except Nat Word) (r0 : Option PWord) : Plan :=
  if f.tag = .drop then ⟨[], none⟩ else
  match cont with
  | .error c => ⟨[], some c⟩
  | .ok w =>
    let rts := (s.cell t.src).routes
    ⟨(routeDsts f).map (fun d =>
      let rt := tgetD rts d.2 0
      let g := t.tagFor rt f.tag w
      let x := s.target t (rtKind rt) (rtIdx rt) g r0
      { dest := d.1, code := d.2, cell := rtCell rt, fslot := rtFslot rt, tag := g,
        tgt := if s.cutsDepth t f (rtCell rt) g x then .cut else x, resv := resvFor t (rtCell rt) g x }), none⟩

/-! ## Payloads -/

/-- R89, R79: the lanes a destination carries, none when it receives no token. -/
def payload (t : Thread) (f : Fields) (e : Eff) (dest : Nat) : Option (List PWord) :=
  let vs := t.lanes.map (fun x => x.v)
  let ps := t.lanes.map (fun x => x.p)
  let keep := fun (ps : List Bool) (q : Bool) (vs : List PWord) =>
    if ps.any (· == q) then some (vs.mapIdx (fun l w => if ps.getD l false == q then w else .zero)) else none
  let base := match e.steer with
    | some old => keep old (dest == 1) vs
    | none => some vs
  match f.tag with
  | .ifp => base.bind (keep ps true)
  | .ifnp => base.bind (keep ps false)
  | .pois => base.map (fun vs => vs.map (fun w => { w with pois := true }))
  | _ => base

/-- The strip of a thread's lane-0 cell. -/
def Thread.strip (t : Thread) : Nat := (t.laneAgent 0).cell / 32

/-- R124: the grant of colour k in a strip of a site. -/
def State.grant? (s : State) (x : Site) (strip k : Nat) : Option Grant := tget (s.site x).grants (32 * strip + k)

/-- R128: `setcol` recolours the token and fits its lanes to the new width. -/
def State.setcol (s : State) (t : Thread) (r0 : PWord) (g : Tag) (vs : List PWord) : Tag × List PWord :=
  let k := fld r0.w 0 5
  let w2 := match s.grant? t.src.site t.strip k with | some h => h.width | none => 1
  ({ g with colour := BitVec.ofNat 5 k, width := w2 },
   (List.range w2).map (fun j => vs.getD (if j < t.width then j else j % t.width) .zero))

end Sys2Proof.Machine
end

