-- ==== Sys2Proof/Machine/Issue.lean ====
section
/-! DEFINITION. Issuing an instruction: the holds (R212, R249, R384), the reservation of slots (R206,
R207), suspension (R127), the next IP (R81), emission (R78, R79), the tag action and the end of a wait. -/

namespace Sys2Proof.Machine

abbrev Out := Host.Outcome State Fault Refusal

/-- The outstanding counters (R212). -/
inductive Ctr
  | ld | st | cp | mx
  deriving DecidableEq, Repr

def Thread.ctr (t : Thread) : Ctr → Nat
  | .ld => t.nld
  | .st => t.nst
  | .cp => t.ncp
  | .mx => t.nmx

def Thread.addCtr (t : Thread) : Ctr → Thread
  | .ld => { t with nld := t.nld + 1 }
  | .st => { t with nst := t.nst + 1 }
  | .cp => { t with ncp := t.ncp + 1 }
  | .mx => { t with nmx := t.nmx + 1 }

def Thread.subCtr (t : Thread) : Ctr → Thread
  | .ld => { t with nld := t.nld - 1 }
  | .st => { t with nst := t.nst - 1 }
  | .cp => { t with ncp := t.ncp - 1 }
  | .mx => { t with nmx := t.nmx - 1 }

/-- What issue needs to know of an opcode: its number, which selects it reads, whether it uses the lane
file (R384), which counter it raises and for which threads (R212), its issue cycles with those that depend on its
thread (R170), whether its literal is one
that R378 does not decide (R434). -/
structure Form where
  opc : Nat
  a : Bool := true
  b : Bool := true
  lf : Bool := false
  ctr : Option Ctr := none
  counts : Thread → Bool := fun _ => true
  cyc : Nat := 1
  more : Thread → Nat := fun _ => 0
  free : Bool := false

/-- R434: a CWSET of a Syrad cell's own matcher words, whose numbers R378 does not list. -/
def matcherLit (op : Nat) (lit : Word) : Bool := op == 0xF5 && (cwRow (fld lit 0 12)).isNone

/-! ## Stopped engines (R364, R369) -/

/-- The engine slot of a tile's or element's cells (R365). -/
def engOf : Site → Nat
  | .tile n => n
  | .elem n => 512 + n
  | .syrad _ => 4096

/-- The engine slot of a site's copy engine (R365). -/
def copyEngOf : Site → Nat
  | .tile n => 1280 + n
  | .elem n => 1792 + n
  | .syrad _ => 4096

/-- R369, R370: an engine slot that a pre-emption stops. -/
def Preempt.covers (q : Preempt) (slot : Nat) : Bool :=
  if slot < 512 then q.tiles.contains slot
  else if slot < 896 then q.elems.contains (slot - 512)
  else if slot < 1280 then false
  else if slot < 1792 then q.tiles.contains (slot - 1280)
  else if slot < 2176 then q.elems.contains (slot - 1792) else false

/-- R370, R371: a pre-emption holds a slot's engine: a tile until its context is out, an element until resume. -/
def Preempt.holds (q : Preempt) (slot : Nat) : Bool :=
  q.st != 0 && q.covers slot && !q.toStop.contains slot && (q.st != 3 || decide (512 ≤ slot ∧ slot < 896) || decide (1792 ≤ slot))

/-- R171, R364: the column unit of a tile has stopped for the partition. -/
def State.unitStopped (s : State) (p n : Nat) : Bool :=
  let v := s.part p
  let k := 1152 + n / 8
  (v.halted && !v.stopping.contains k) || (v.preempt.st != 0 && v.preempt.tiles.contains n && !v.preempt.toStop.contains k && v.preempt.st != 3)

/-- R363, R370: an engine of the partition that has stopped and does not go on. -/
def State.stopped (s : State) (p slot : Nat) : Bool :=
  let v := s.part p
  (v.halted && !v.stopping.contains slot && slot != 4096)
    || v.preempt.holds slot

/-- A site's engine does not act: it has stopped (R363, R370) or is swapped out (R373). -/
def State.idleSite (s : State) (x : Site) : Bool :=
  (s.site x).swapped || (match (s.site x).part with
    | none => false
    | some p => s.stopped p (engOf x))

/-! ## Holds -/

/-- R212, R249, R384: the instruction names a pending register, would take a counter to 256, or uses the
lane file while a TRIT or TXL is outstanding. -/
def Thread.blocked (t : Thread) (f : Fields) (m : Form) : Bool :=
  let regs := (if m.a then (selReg f.selA).toList else []) ++ (if m.b || f.tag == .call then (selReg f.selB).toList else [])
    ++ dstRegs f
  regs.any (fun r => t.pend.any (fun e => e.1 == r)) || (m.lf && !t.lfPend.isEmpty)
    || (match m.ctr with | none => false | some c => m.counts t && decide (255 ≤ t.ctr c))

/-! ## Suspension (R95, R127, R207, R358) -/

/-- The lowest thread-slot number free in every cell the thread holds (R127). -/
def State.freeSlot (s : State) (t : Thread) : Option Nat :=
  (List.range 4).find? (fun k => t.cellsHeld.all (fun c => (tget (s.cell ⟨t.src.site, c⟩).slots k).isNone))

/-- Suspend into a free slot and release the cells; with none, stay in place. -/
def State.suspend (s : State) (u : Nat) (st : TStat) : State :=
  match s.thr? u with
  | none => s
  | some t =>
    match s.freeSlot t with
    | none => s.setThr u { t with stat := st, slot := none, susp := s.tick }
    | some k =>
      let s := s.modCells t.src.site t.cellsHeld (fun c =>
        { c with run := if c.run = some u then none else c.run, slots := tset c.slots k u })
      (s.setThr u { t with stat := st, slot := some k, susp := s.tick }).wake t.src.site t.cellsHeld

/-- Hold in place: the thread keeps its cells (R170, R358). -/
def State.holdAt (s : State) (u : Nat) (st : TStat) : State :=
  s.modThr u (fun t => { t with stat := st, slot := none, susp := s.tick })

/-- Start what the instruction waits for: a column request and an unwritten record keep the cells, every
other wait suspends (R85, R170, R357, R358). -/
def State.startWait (s : State) (u : Nat) (st : TStat) : State :=
  if st = .column ∨ st = .record then s.holdAt u st else s.suspend u st

/-! ## The next IP (R81) -/

/-- R81 rule 2: loop-back at the top entry, popping entries whose count reaches zero. -/
def loopBack (cand : Nat) : List LoopEnt → Nat × List LoopEnt
  | [] => (cand, [])
  | e :: es =>
    if e.fin < cand then
      (if e.count ≤ 1 then loopBack cand es else (e.start, { e with count := e.count - 1 } :: es))
    else (cand, e :: es)

/-- R81: the thread at its next IP after an instruction that continues. -/
def Thread.advance (t : Thread) : Option Nat → Thread
  | some g => { t with ip := g, loops := t.loops.filter (fun e => decide (e.start ≤ g ∧ g ≤ e.fin)) }
  | none => let r := loopBack (t.ip + 1) t.loops; { t with ip := r.1, loops := r.2 }

/-- R81: an IP above the actor's last slot names a slot with no content. -/
def State.pastEnd (s : State) (t : Thread) : Bool :=
  match (s.cell t.src).last with
  | none => true
  | some n => decide (n < t.ip)

/-! ## Emission -/

/-- The invocation and region a token of a tag belongs to (R328, R353): the owner of the frame its `call`
or `ret` names, else the emitter's. -/
def State.tokOwner (s : State) (t : Thread) (g : Tag) : Nat × Nat :=
  if g.frame = t.frame then (t.inv, t.region)
  else match s.frame? t.src.site g.frame with
    | none => (t.inv, t.region)
    | some x => (x.inv, x.region)

/-- Put a token whose slots are reserved on its way: held in its own tile, else in egress (R206, R208). -/
def State.launchTok (s : State) (k : Token) (src : Site) : State :=
  if k.dst = src ∧ k.unres = none then
    (s.modSite src (fun v => { v with ingress := v.ingress ++ [{ k with held := true }] })).postEv .tokenDelivery
      { site := src, a := k.id }
  else
    (s.modSite src (fun v => { v with egress := v.egress ++ [k], egResv := v.egResv - 1 })).postEv .tokenEgressDepart
      { site := src, a := k.id }

def State.unreserveAll (s : State) (rs : List (Resv × Bool)) : State := rs.foldl (fun s r => s.unreserve r.1) s

/-- R42, R346: a destination that emits nothing although it could; its slots were returned. -/
def State.emitFault (s : State) (t : Thread) (opc : Nat) (d : PlanEnt) : State :=
  match d.tgt with
  | .fail n => s.raise (t.who opc) 0x0101 ((t.who opc).details 0 [w32 d.code, w32 n])
  | .cut => s.raise (t.who opc) 0x0116 ((t.who opc).details 0 [])
  | _ => s

/-- R78, R79, R206: one route destination: a token where it carries one, its slots returned where not. -/
def State.emitOne (s : State) (t : Thread) (f : Fields) (opc : Nat) (e : Eff) (d : PlanEnt) : State :=
  match payload t f e d.dest with
  | none => s.unreserveAll d.resv
  | some vs =>
    let r0 := (t.lanes.map (fun x => x.v)).headD .zero
    let g := if f.tag = .eod1 ∨ f.tag = .eod2 ∨ f.tag = .eod3 then d.tag else { d.tag with eod := BitVec.ofNat 2 e.eod }
    let gv := if f.tag = .setcol then s.setcol t r0 g vs else (g, vs)
    let ow := s.tokOwner t gv.1
    let k : Token := { id := s.fresh, tag := gv.1, data := gv.2, dst := t.src.site, cell := d.cell, fslot := d.fslot,
                       src := t.src, part := t.part, region := ow.2, inv := ow.1, held := false, unres := none, at_ := 0 }
    match d.tgt with
    | .site x => ((s.unreserveAll (d.resv.drop 1)).bump).launchTok { k with dst := x } t.src.site
    | .hold die stage => (s.bump).launchTok { k with unres := some (die, stage) } t.src.site
    | _ => (s.unreserveAll d.resv).emitFault t opc d

/-- R42, R346 for a kind-4 route whose partition was not known at issue: choose now, keep the slot that fits. -/
def State.settle (s : State) (t : Thread) (f : Fields) (e : Eff) (d : PlanEnt) : State × PlanEnt :=
  if d.tgt ≠ .late then (s, d) else
  let r0 := (t.lanes.map (fun x => x.v)).headD .zero
  let rt := tgetD (s.cell t.src).routes d.code 0
  let x := s.target t 4 (rtIdx rt) d.tag (some (e.scene r0))
  if s.cutsDepth t f d.cell d.tag x then (s, { d with tgt := .cut })
  else match x, d.resv with
  | .site y, [eg, q] => if y = t.src.site then (s.unreserve eg.1, { d with tgt := x, resv := [q] })
                        else (s.unreserve q.1, { d with tgt := x, resv := [eg] })
  | _, _ => (s, { d with tgt := x })

def State.emitAll (s : State) (t : Thread) (f : Fields) (opc : Nat) (e : Eff) (p : Plan) : State :=
  let s := match p.bad with
    | none => s
    | some c => s.raise (t.who opc) c ((t.who opc).details 0 [])
  p.ents.foldl (fun s d => let r := s.settle t f e d; r.1.emitOne t f opc e r.2) s

/-! ## The end of an instruction -/

/-- R79: whether the thread continues under its tag action. -/
def continues (a : TagAct) : Bool := a == .next || a == .yield

/-- After an instruction that continues: the next IP, and where the thread goes on from: its cell, a
thread slot, or, past the actor's last slot, nowhere (R79, R81). -/
def State.goOn (s : State) (u : Nat) (t : Thread) (f : Fields) (jump : Option Nat) : State :=
  let t := t.advance jump
  if s.pastEnd t then (s.setThr u t).endThread u
  else match t.slot with
    | some _ => (s.setThr u { t with stat := .ready }).wake t.src.site t.cellsHeld
    | none =>
      let s := s.setThr u { t with stat := .run }
      if f.tag = .yield ∧ (s.freeSlot t).isSome then s.suspend u .ready
      else if t.stat = .run then s else s.post (.issue t.src)

/-- R79: `done` counts in its invocation and lowers its frame's use count. -/
def State.doneAct (s : State) (t : Thread) : State :=
  (s.useRelease t.src.site t.frame).modLaunch t.inv (fun l => { l with dones := l.dones + 1 })

/-- The end of an instruction: emission, the predicate block, the tag action. -/
def State.finish (s : State) (u : Nat) (f : Fields) (opc : Nat) (e : Eff) (p : Plan) : State :=
  match s.thr? u with
  | none => s
  | some t =>
    let s := s.emitAll t f opc e p
    let pb := match e.pblk with | some b => some b | none => t.pblk.bind Pblk.step
    let ending := match s.thr? u with | none => true | some t' => t'.ending
    let t := { t with pblk := pb, wait := none, plan := ⟨[], none⟩, ending := ending }
    let s := s.setThr u t
    if ending then s.endThread u
    else if continues f.tag then s.goOn u t f e.jump
    else if f.tag = .done then (s.doneAct t).endThread u
    else s.endThread u

/-- R103: an instruction issued in each cell that its thread holds; R325: its cycles in them count against its
region. -/
def State.countIssue (s : State) (t : Thread) (cyc : Nat) : State :=
  let s := s.modCells t.src.site t.cellsHeld (fun c => { c with issued := c.issued + 1 })
  if isTile t.src.site then s.charge t.part t.region (dieOf t.src.site) itemTileCycles (cyc * t.cellsHeld.length) else s

/-- What an instruction's own part gives: a state in which it has not ended and holds no slots (it holds,
or waits for a handler before it runs again); a slot that it cannot reserve (R207); or the state after its
side effects and what it does to its thread. -/
inductive Body
  | hold (s : State)
  | full
  | ok (s : State) (e : Eff)

/-- R207: suspend until the reservations could succeed. -/
def State.noSlot (s : State) (u : Nat) : State := (s.suspend u .reserve).postEv .reservationReady { a := u }

/-- Issue the instruction whose body has been worked out: reserve its slots or suspend (R206, R207); then
write results, count, and end the instruction or start its wait. -/
def State.issue (s : State) (u : Nat) (f : Fields) (m : Form) (b : State) (e : Eff) : State :=
  match b.thr? u with
  | none => b
  | some t =>
    let t := t.commit f e
    let r0 := (t.lanes.map (fun x => x.v)).headD .zero
    let k := if e.ctl then { t with kind := .control } else t
    let w := match s.thr? u with | none => .ok 0 | some t0 => s.contWord t0 f
    let p := if e.mute then ⟨[], none⟩ else b.planFor k f w (if e.susp.isSome then none else some (e.scene r0))
    match b.reserveAll (p.ents.flatMap (fun d => d.resv)) with
    | none => s.noSlot u
    | some s1 =>
      let s2 := (s1.setThr u t).countIssue t (m.cyc + m.more t)
      match e.susp with
      | none => s2.finish u f m.opc e p
      | some st => (s2.setThr u { t with plan := p }).startWait u st

/-- The end of a wait: the waiting instruction takes its results and ends with the slots it holds, in the step of its
test (assumption 47). -/
def State.complete (s : State) (u : Nat) (e : Eff) : State :=
  match s.thr? u with
  | none => s
  | some t =>
    match t.wait with
    | none => s
    | some w => (s.setThr u (t.commit w.fields e)).finish u w.fields w.opc e t.plan

/-- The thread that an instruction leaves waiting: what it waits for and its own fields. -/
def Thread.waiting (t : Thread) (k : WaitKind) (deadline : Option Nat) (f : Fields) (opc : Nat) : Thread :=
  { t with wait := some ⟨k, deadline, f, opc⟩ }

/-- An instruction of the current agent's thread: `body` gives the state after its side effects and what
it does to its thread. A held instruction changes nothing and issues again. A slot with a reserved literal
or select is in no pitched image (R46, R48), so it has no meaning. -/
def State.instr (s : State) (f : Fields) (m : Form) (body : Nat → Thread → Body) : Out :=
  match s.curUid with
  | none => .fault .noThread
  | some u =>
    match s.thr? u with
    | none => .fault .noThread
    | some t =>
      if !fieldsOk m.opc f && !m.free then .refused (.reservedLiteral m.opc)
      else if t.ending then .next (s.endThread u)
      else if t.blocked f m then .next s
      else match body u t with
        | .hold b => .next b
        | .full => .next (s.noSlot u)
        | .ok b e => .next (s.issue u f m b e)

/-- An instruction that changes nothing outside its thread. -/
def State.pureInstr (s : State) (f : Fields) (m : Form) (eff : Thread → Eff) : Out :=
  s.instr f m (fun _ t => .ok s (eff t))

end Sys2Proof.Machine
end

