-- ==== Sys2Proof/Machine/Alu.lean ====
section
/-! DEFINITION. Groups 0x1, 0x2 and 0x3: integer, bit and comparison work (R100 to R119). -/

namespace Sys2Proof.Machine

/-! ## The shared effect (R105, R106) -/

/-- A result per lane from A. -/
def Thread.map1 (t : Thread) (f : Fields) (g : Word → Word) : List PWord := (t.as f).map (fun x => ⟨g x.w, x.pois⟩)
/-- A result per lane from A and B; poison of either poisons it. -/
def Thread.map2 (t : Thread) (f : Fields) (g : Word → Word → Word) : List PWord :=
  List.zipWith (fun x y => ⟨g x.w y.w, x.pois || y.pois⟩) (t.as f) (t.bs f)
/-- A result per lane from A, B and z. -/
def Thread.map3 (t : Thread) (f : Fields) (g : Word → Word → Word → Word) : List PWord :=
  List.zipWith (fun (xy : PWord × PWord) z => ⟨g xy.1.w xy.2.w z.w, xy.1.pois || xy.2.pois || z.pois⟩)
    (List.zip (t.as f) (t.bs f)) t.zs

/-- One-operand instruction of the shared effect. -/
def State.alu1 (s : State) (f : Fields) (opc cyc : Nat) (g : Word → Word) : Out :=
  s.pureInstr f { opc := opc, b := false, cyc := cyc } (fun t => .val (t.map1 f g))
/-- Two-operand instruction of the shared effect. -/
def State.alu2 (s : State) (f : Fields) (opc cyc : Nat) (g : Word → Word → Word) : Out :=
  s.pureInstr f { opc := opc, cyc := cyc } (fun t => .val (t.map2 f g))
/-- Three-operand instruction of the shared effect. -/
def State.alu3 (s : State) (f : Fields) (opc cyc : Nat) (g : Word → Word → Word → Word) : Out :=
  s.pureInstr f { opc := opc, cyc := cyc } (fun t => .val (t.map3 f g))

/-- R106, R118: SEL uses only the operand it selects in each lane. -/
def Thread.sel (t : Thread) (f : Fields) : List PWord :=
  List.zipWith (fun (xy : PWord × PWord) (l : Lane) => if l.p then xy.1 else xy.2) (List.zip (t.as f) (t.bs f)) t.lanes


/-! ## The pure functions -/

/-- R110. -/
def fnLea (x y z : Word) : Word := wrap32 (Zx z + Zx x * 2 ^ fld y 0 5 : Nat)
/-- R110, R111: the high half of the exact signed product. -/
def fnMulh (x y : Word) : Word := wrap32 (Sx x * Sx y / 2 ^ 32)
/-- R110, R111: the high half of the exact unsigned product. -/
def fnMulhz (x y : Word) : Word := w32 (Zx x * Zx y / 2 ^ 32)
/-- R112: a count of 32 or more gives 0. -/
def fnShl (x y : Word) : Word := if Zx y < 32 then w32 (Zx x * 2 ^ Zx y) else 0
/-- R112: a count of 32 or more gives 0. -/
def fnShr (x y : Word) : Word := if Zx y < 32 then w32 (Zx x / 2 ^ Zx y) else 0
/-- R112: a count of 32 or more acts as 31. -/
def fnSar (x y : Word) : Word := wrap32 (Sx x / 2 ^ min (Zx y) 31)
/-- R112: only y[4:0] is read. -/
def fnRotl (x y : Word) : Word := x.rotateLeft (fld y 0 5)

/-- Leading zeros of the low n bits. -/
def clzGo (x : Word) : Nat → Nat
  | 0 => 0
  | n + 1 => if x.getLsbD n then 0 else 1 + clzGo x n

/-- R112. -/
def fnClz (x : Word) : Word := w32 (clzGo x 32)
/-- R112. -/
def fnPopc (x : Word) : Word := w32 ((List.range 32).filter (fun i => x.getLsbD i)).length
/-- R112: bit i of the result is bit 31 − i of x. -/
def fnBrev (x : Word) : Word := w32 (((List.range 32).map (fun i => if x.getLsbD (31 - i) then 2 ^ i else 0)).foldl (· + ·) 0)

/-- R113: position and length, cut at bit 31. -/
def bfPos (y : Word) : Nat := fld y 0 5
def bfLen (y : Word) : Nat := min (fld y 5 6) (32 - bfPos y)

/-- R113. -/
def fnBfx (x y : Word) : Word :=
  let len := bfLen y
  let f := Zx x / 2 ^ bfPos y % 2 ^ len
  if bit y 11 ∧ 0 < len ∧ 2 ^ (len - 1) ≤ f then wrap32 ((f : Int) - 2 ^ len) else w32 f

/-- R113. -/
def fnBfi (x y z : Word) : Word :=
  let len := bfLen y
  let m := w32 ((2 ^ len - 1) * 2 ^ bfPos y)
  (z &&& ~~~m) ||| w32 (Zx x % 2 ^ len * 2 ^ bfPos y)

/-- R114. -/
def fnDiv (x y : Word) : Word := if y = 0 then 0xFFFFFFFF else wrap32 ((Sx x).tdiv (Sx y))
/-- R114. -/
def fnDivz (x y : Word) : Word := if y = 0 then 0xFFFFFFFF else w32 (Zx x / Zx y)
/-- R114. -/
def fnRem (x y : Word) : Word := if y = 0 then x else wrap32 (Sx x - Sx y * (Sx x).tdiv (Sx y))

def byteS (x : Word) (i : Nat) : Int := sxN 8 (fld x (8 * i) 8)
def byteZ (x : Word) (i : Nat) : Nat := fld x (8 * i) 8
def nibS (x : Word) (i : Nat) : Int := sxN 4 (fld x (4 * i) 4)

/-- An exact sum. -/
def sumI (xs : List Int) : Int := xs.foldl (· + ·) 0

/-- R115. -/
def fnDot4 (x y z : Word) : Word := sat32 (Sx z + sumI ((List.range 4).map (fun i => byteS x i * byteS y i)))
/-- R115. -/
def fnDot4z (x y z : Word) : Word :=
  satZ32 ((Zx z : Int) + sumI ((List.range 4).map (fun i => (byteZ x i : Int) * byteZ y i)))
/-- R115. -/
def fnDot8 (x y z : Word) : Word := sat32 (Sx z + sumI ((List.range 8).map (fun i => nibS x i * nibS y i)))

/-- R116: one result byte from the eight source bytes and a selector nibble. -/
def bytepByte (x z : Word) (n : Nat) : Nat :=
  let b := if n % 8 < 4 then byteZ x (n % 8) else byteZ z (n % 8 - 4)
  if n < 8 then b else if b < 128 then 0 else 255

/-- R116. -/
def fnBytep (x y z : Word) : Word :=
  w32 (((List.range 4).map (fun i => bytepByte x z (fld y (4 * i) 4) * 2 ^ (8 * i))).foldl (· + ·) 0)

/-- R117, R118. -/
def fnClamp (x y z : Word) : Word := wrap32 (min (max (Sx z) (Sx x)) (Sx y))


/-! ## The meanings -/

/-- R110. -/
def execAdd (f : Fields) (s : State) : Out := s.alu2 f 0x10 1 (fun x y => w32 (Zx x + Zx y))
/-- R110. -/
def execSub (f : Fields) (s : State) : Out := s.alu2 f 0x11 1 (fun x y => wrap32 ((Zx x : Int) - Zx y))
/-- R110. -/
def execAddss (f : Fields) (s : State) : Out := s.alu2 f 0x12 1 (fun x y => sat32 (Sx x + Sx y))
/-- R110. -/
def execAddzs (f : Fields) (s : State) : Out := s.alu2 f 0x13 1 (fun x y => satZ32 ((Zx x : Int) + Zx y))
/-- R110. -/
def execSubss (f : Fields) (s : State) : Out := s.alu2 f 0x14 1 (fun x y => sat32 (Sx x - Sx y))
/-- R110. -/
def execSubzs (f : Fields) (s : State) : Out := s.alu2 f 0x15 1 (fun x y => satZ32 ((Zx x : Int) - Zx y))
/-- R110. -/
def execNeg (f : Fields) (s : State) : Out := s.alu1 f 0x16 1 (fun x => wrap32 (-Sx x))
/-- R110. -/
def execAbs (f : Fields) (s : State) : Out := s.alu1 f 0x17 1 (fun x => wrap32 (|Sx x|))
/-- R110. -/
def execAnd (f : Fields) (s : State) : Out := s.alu2 f 0x18 1 (fun x y => x &&& y)
/-- R110. -/
def execOr (f : Fields) (s : State) : Out := s.alu2 f 0x19 1 (fun x y => x ||| y)
/-- R110. -/
def execXor (f : Fields) (s : State) : Out := s.alu2 f 0x1A 1 (fun x y => x ^^^ y)
/-- R110. -/
def execAndn (f : Fields) (s : State) : Out := s.alu2 f 0x1B 1 (fun x y => x &&& ~~~y)
/-- R110. -/
def execLea (f : Fields) (s : State) : Out := s.alu3 f 0x1C 1 (fun x y z => fnLea x y z)
/-- R110. -/
def execMul (f : Fields) (s : State) : Out := s.alu2 f 0x1D 1 (fun x y => w32 (Zx x * Zx y))
/-- R110. -/
def execMulh (f : Fields) (s : State) : Out := s.alu2 f 0x1E 1 (fun x y => fnMulh x y)
/-- R110. -/
def execMulhz (f : Fields) (s : State) : Out := s.alu2 f 0x1F 1 (fun x y => fnMulhz x y)
/-- R112. -/
def execShl (f : Fields) (s : State) : Out := s.alu2 f 0x20 1 (fun x y => fnShl x y)
/-- R112. -/
def execShr (f : Fields) (s : State) : Out := s.alu2 f 0x21 1 (fun x y => fnShr x y)
/-- R112. -/
def execSar (f : Fields) (s : State) : Out := s.alu2 f 0x22 1 (fun x y => fnSar x y)
/-- R112. -/
def execRotl (f : Fields) (s : State) : Out := s.alu2 f 0x23 1 (fun x y => fnRotl x y)
/-- R112. -/
def execClz (f : Fields) (s : State) : Out := s.alu1 f 0x24 1 (fun x => fnClz x)
/-- R112. -/
def execPopc (f : Fields) (s : State) : Out := s.alu1 f 0x25 1 (fun x => fnPopc x)
/-- R112. -/
def execBrev (f : Fields) (s : State) : Out := s.alu1 f 0x26 1 (fun x => fnBrev x)
/-- R113. -/
def execBfx (f : Fields) (s : State) : Out := s.alu2 f 0x27 1 (fun x y => fnBfx x y)
/-- R113. -/
def execBfi (f : Fields) (s : State) : Out := s.alu3 f 0x28 1 (fun x y z => fnBfi x y z)
/-- R114. -/
def execDiv (f : Fields) (s : State) : Out := s.alu2 f 0x29 12 (fun x y => fnDiv x y)
/-- R114. -/
def execDivz (f : Fields) (s : State) : Out := s.alu2 f 0x2A 12 (fun x y => fnDivz x y)
/-- R114. -/
def execRem (f : Fields) (s : State) : Out := s.alu2 f 0x2B 12 (fun x y => fnRem x y)
/-- R115. -/
def execDot4 (f : Fields) (s : State) : Out := s.alu3 f 0x2C 1 (fun x y z => fnDot4 x y z)
/-- R115. -/
def execDot4z (f : Fields) (s : State) : Out := s.alu3 f 0x2D 1 (fun x y z => fnDot4z x y z)
/-- R115. -/
def execDot8 (f : Fields) (s : State) : Out := s.alu3 f 0x2E 1 (fun x y z => fnDot8 x y z)
/-- R116. -/
def execBytep (f : Fields) (s : State) : Out := s.alu3 f 0x2F 1 (fun x y z => fnBytep x y z)
/-- R117. -/
def execCmpeq (f : Fields) (s : State) : Out := s.alu2 f 0x30 1 (fun x y => bitW (x == y))
/-- R117. -/
def execCmpne (f : Fields) (s : State) : Out := s.alu2 f 0x31 1 (fun x y => bitW (x != y))
/-- R117. -/
def execCmplt (f : Fields) (s : State) : Out := s.alu2 f 0x32 1 (fun x y => bitW (decide (Sx x < Sx y)))
/-- R117. -/
def execCmple (f : Fields) (s : State) : Out := s.alu2 f 0x33 1 (fun x y => bitW (decide (Sx x ≤ Sx y)))
/-- R117. -/
def execCmpltz (f : Fields) (s : State) : Out := s.alu2 f 0x34 1 (fun x y => bitW (decide (Zx x < Zx y)))
/-- R117. -/
def execCmplez (f : Fields) (s : State) : Out := s.alu2 f 0x35 1 (fun x y => bitW (decide (Zx x ≤ Zx y)))
/-- R117. -/
def execMin (f : Fields) (s : State) : Out := s.alu2 f 0x36 1 (fun x y => if Sx x ≤ Sx y then x else y)
/-- R117. -/
def execMax (f : Fields) (s : State) : Out := s.alu2 f 0x37 1 (fun x y => if Sx y ≤ Sx x then x else y)
/-- R117. -/
def execMinz (f : Fields) (s : State) : Out := s.alu2 f 0x38 1 (fun x y => if Zx x ≤ Zx y then x else y)
/-- R117. -/
def execMaxz (f : Fields) (s : State) : Out := s.alu2 f 0x39 1 (fun x y => if Zx y ≤ Zx x then x else y)
/-- R117. -/
def execSel (f : Fields) (s : State) : Out := s.pureInstr f { opc := 0x3A } (fun t => .val (t.sel f))
/-- R117. -/
def execClamp (f : Fields) (s : State) : Out := s.alu3 f 0x3B 1 (fun x y z => fnClamp x y z)
/-- R119. -/
def execFcmpeq (f : Fields) (s : State) : Out := s.alu2 f 0x3C 1 (fun x y => bitW ((F x).eq (F y)))
/-- R119. -/
def execFcmplt (f : Fields) (s : State) : Out := s.alu2 f 0x3D 1 (fun x y => bitW ((F x).lt (F y)))
/-- R119. -/
def execFcmple (f : Fields) (s : State) : Out := s.alu2 f 0x3E 1 (fun x y => bitW ((F x).lt (F y) || (F x).eq (F y)))
/-- R119. -/
def execFcmpun (f : Fields) (s : State) : Out := s.alu2 f 0x3F 1 (fun x y => bitW ((F x).isNan || (F y).isNan))

end Sys2Proof.Machine
end

