-- ==== Sys2Proof/Machine/Frames.lean ====
section
/-! DEFINITION. Frames and waits: places and spills (R64 to R68), allocation (R97), the frame an
instruction names (R99), the start of a wait (R85). -/

namespace Sys2Proof.Machine

/-- The partition number that stands for the system: the threads of Syrad firmware cells. -/
def sysPart : Nat := 16

/-- R230, R235: a semaphore operation of a partition's agent reaches a tile of the partition. DESIGN CHOICE
(assumption 48): one of a firmware cell, which is in none, reaches every tile. -/
def State.reaches (s : State) (p : Nat) (x : Site) : Bool := s.owns p x || (p == sysPart && isTile x)

/-- R66: the first line and the line count of a frame's place. -/
def framePlace (i cls : Nat) : Nat × Nat := ((i * 2 ^ cls) % 1024, 2 ^ cls)

/-- R66: two places overlap. -/
def placesMeet (p q : Nat × Nat) : Bool := decide (p.1 < q.1 + q.2 ∧ q.1 < p.1 + p.2)

/-- R67: a resident frame of another number whose place overlaps that of frame i. -/
def spillsFor (i cls : Nat) (e : Nat × Frame) : Bool :=
  decide (e.1 ≠ i) && !e.2.spilled && placesMeet (framePlace e.1 e.2.cls) (framePlace i cls)

/-- R67: every resident frame whose place overlaps spills. Its contents stay with it: nothing but the tile itself
reads or writes the spill table while the partition runs (R68). -/
def spillFor (fs : Tbl Nat Frame) (i cls : Nat) : Tbl Nat Frame :=
  fs.map (fun e => if spillsFor i cls e then (e.1, { e.2 with spilled := true }) else e)

/-- The full number of a frame of a home site and local index (R62). -/
def frameNum (h : Site) (i : Nat) : BitVec 20 :=
  match h with
  | .tile n => BitVec.ofNat 20 (n * 2 ^ 11 + i)
  | _ => BitVec.ofNat 20 i

/-- R67, R68: a spill writes the frame's entry of the spill table, whose base the model takes for a physical address
(assumption 11); a firmware cell's frames have none. -/
def State.spillWrite (s : State) (h : Site) (e : Nat × Frame) : State :=
  if e.2.part = sysPart then s
  else
    let v := s.part e.2.part
    let n := (frameNum h e.1).toNat
    s.hwWrite ((v.spillbase.toNat / 65536 * 65536 + 8512 * (Config.spillEntry v.k n % 2 ^ v.k)) % 2 ^ 51)
      ((List.range 8512).map (Config.spillByte s.tick n))

/-- R67: the frames in the way of frame i of a class spill. -/
def State.spill (s : State) (h : Site) (i cls : Nat) : State :=
  (((s.site h).frames.filter (spillsFor i cls)).foldl (fun s e => s.spillWrite h e) s).modSite h (fun v =>
    { v with frames := spillFor v.frames i cls })

/-- R67: a spilled frame becomes resident when its contents are needed. -/
def State.touchFrame (s : State) (x : Site) (f : BitVec 20) : State :=
  match frameHome x f, s.frame? x f with
  | some h, some w =>
    if w.spilled then (s.spill h (frameLocal f) w.cls).modSite h (fun v =>
      { v with frames := tset v.frames (frameLocal f) { w with spilled := false } })
    else s
  | _, _ => s

/-- R97: the local index an allocation takes: the lowest free one whose place overlaps no resident
frame, else the lowest free one. -/
def pickFrame (fs : Tbl Nat Frame) (cls : Nat) : Option Nat :=
  let free := fun (i : Nat) => (tget fs i).isNone
  match (List.range 2048).find? (fun i => free i &&
    !(fs.any (fun e => !e.2.spilled && placesMeet (framePlace e.1 e.2.cls) (framePlace i cls)))) with
  | some i => some i
  | none => (List.range 2048).find? free

/-- R68: the live frames of a partition. -/
def State.liveFrames (s : State) (p : Nat) : Nat :=
  ((s.sites.map (fun e => e.2.frames) ++ s.biv.map (fun e => e.2.site.frames)).map (fun fs =>
    (fs.filter (fun w => w.2.part == p)).length)).foldl (· + ·) 0

/-- R65: a frame as allocated. -/
def newFrame (cls use part region inv : Nat) : Frame :=
  { cls := cls, use := use, spilled := false, slots := [], present := [], toks := [], part := part,
    region := region, inv := inv }

/-- R68, R97: allocate a frame of a class at a home site, within the region's budget and the spill
reservation; none where that fails. -/
def State.allocFrame (s : State) (h : Site) (cls use part region inv : Nat) : Option (State × BitVec 20) :=
  let v := s.site h
  if part ≠ sysPart ∧ (2 ^ (s.part part).k ≤ s.liveFrames part ∨ !s.fits part region itemFrames 1) then none
  else match pickFrame v.frames cls with
    | none => none
    | some i =>
      some ((s.spill h i cls).modSite h (fun v => { v with frames := tset v.frames i (newFrame cls use part region inv) }),
            frameNum h i)

/-- The class of a width of R64. -/
def classOf : Nat → Option Nat
  | 1 => some 0 | 2 => some 1 | 4 => some 2 | 8 => some 3 | 16 => some 4 | 32 => some 5 | _ => none

/-- The word of a frame slot in lane l; zero at or above the frame's width (R96). -/
def Frame.word (w : Frame) (slot l : Nat) : PWord :=
  if l < 2 ^ w.cls then (tgetD w.slots slot []).getD l .zero else .zero

/-- Write one lane of a slot, below the frame's width. -/
def Frame.setWord (w : Frame) (slot l : Nat) (x : PWord) : Frame :=
  if l < 2 ^ w.cls then
    let ws := (List.range (2 ^ w.cls)).map (fun j => if j = l then x else w.word slot j)
    { w with slots := tset w.slots slot ws }
  else w

def Frame.clear (w : Frame) (slot : Nat) : Frame :=
  { w with present := w.present.filter (· ≠ slot), toks := tdel w.toks slot }

def Frame.mark (w : Frame) (slot : Nat) : Frame :=
  { w with present := if slot ∈ w.present then w.present else w.present ++ [slot] }

/-- R98, R99, R176: the frame of a number as a thread may use it, or the fault: "frame home" for one not
homed on this site, "stale frame" for a free one. -/
def State.frameFor (s : State) (t : Thread) (f : BitVec 20) : Except Nat Frame :=
  if frameHome t.src.site f ≠ some t.src.site then .error 0x0102
  else match s.frame? t.src.site f with
    | none => .error 0x0103
    | some w => .ok w

/-! ## Waits (R85) -/

/-- A waiting instruction at issue: it ends at once where its condition holds (`won`) or T is 0, and
suspends otherwise. -/
def State.waitOn (s : State) (u : Nat) (t : Thread) (f : Fields) (opc : Nat) (k : WaitKind) (T : PWord)
    (won : Option (State × Eff)) (lost : Eff) : Body :=
  match won with
  | some r => .ok r.1 { r.2 with p := some (allP t true) }
  | none =>
    if T.pois || T.w == 0 then .ok s { lost with p := some (allP t false) }
    else
      let dl := if T.w = 0xFFFFFFFF then none else some (s.work t.part + T.w.toNat)
      let s := s.setThr u (t.waiting k dl f opc)
      .ok (if dl.isSome then s.postEv .waitExpiry { a := u } else s) { susp := some .wait }

/-- A counter of a thread falls and its wait is tested again (R85, R212, R213). -/
def State.fall (s : State) (u : Nat) (c : Ctr) : State :=
  match s.thr? u with
  | none => s
  | some t =>
    let s := s.setThr u (t.subCtr c)
    if t.stat = .wait then s.postEv .waitTest { a := u } else s

/-- A suspended RDZV or WAITS that comes first, before a suspension at `susp` of thread u. -/
def State.semFirst (s : State) (x : Site) (k susp u : Nat) : Bool :=
  !(s.semReady x k).any (fun e => decide (e.1 ≠ u ∧ (e.2.susp < susp ∨ e.2.susp = susp ∧ e.1 < u)))


end Sys2Proof.Machine
end

