-- ==== Sys2Proof/Machine/Slices.lean ====
section
/-! DEFINITION. Slices: homes (R291, R292), the lines a slice holds, collapses and replicas (R294 to R297),
package-queue descriptors in memory (R232, R233) and a write performed at its home (R268, R296). -/

namespace Sys2Proof.Machine

/-! ## Collapses (R295 to R300) -/

/-- A link between two dies is asleep (R441). -/
def State.linkAsleep (s : State) (a b : Nat) : Bool := s.coh.asleep.contains (min a b, max a b)

/-- Send one collapse of a line to a holder. -/
def State.sendColl (s : State) (line holder : Nat) : State × Nat :=
  let n := s.fresh
  let home := memDie (line * 128)
  let asleep := s.linkAsleep (12 + home) (12 + holder)
  let c : Coll := { id := n, die := holder, line := line, seen := [], since := s.cycle, arrived := false, st := if asleep then 2 else 1 }
  let key := (home, regionOf (line * 128))
  let s := s.modSlice (s.homeOr (line * 128)) (fun v => { v with coll := v.coll + 1 })
  let s := { s with coh := { s.coh with
    colls := s.coh.colls ++ [c]
    regs := tmod s.coh.regs key (fun r => { r with colls := r.colls + 1 }) } }.bump
  let s := s.postEv .collapse { a := holder, b := line, c := n }
  (if asleep then (s.postEv .linkWake { a := 12 + home, b := 12 + holder }).postEv .wakeOverdue { a := holder, b := line, c := n }
   else s, n)

/-- Collapses of a line that are not yet acknowledged. -/
def State.collsOf (s : State) (line : Nat) : List Nat := (s.coh.colls.filter (fun c => c.line = line)).map (fun c => c.id)

/-- R268, R296: collapse every replica in a line's mask and clear the mask; the numbers of all collapses of the
line that are then unacknowledged, earlier ones included. -/
def State.collapseLine (s : State) (line : Nat) : State × List Nat :=
  match tget s.coh.lines line with
  | none => (s, s.collsOf line)
  | some x =>
    let old := s.collsOf line
    let s : State := { s with coh := { s.coh with lines := tset s.coh.lines line { x with holders := [] } } }
    x.holders.foldl (fun r h => let q := r.1.sendColl line h; (q.1, r.2 ++ [q.2])) (s, old)

/-- Of these collapses, the ones still unacknowledged. -/
def State.owing (s : State) (ids : List Nat) : List Coll := s.coh.colls.filter (fun c => ids.contains c.id)

/-- Of these numbers, those of collapses still unacknowledged, each once. -/
def State.unacked (s : State) (ids : List Nat) : List Nat := (s.owing ids).map (fun c => c.id)

/-- R268: the collapses that keep a write from having performed at a scope: those of the writer's nearest
memory die at `.die`, all at `.pkg` and `.sys`. -/
def State.owingAt (s : State) (x : Site) (scope : Nat) (ids : List Nat) : Bool :=
  if scope ≤ 1 then false
  else if scope = 2 then (s.owing ids).any (fun c => c.die == nearest (dieOf x))
  else !(s.owing ids).isEmpty

/-! ## Lines of a slice -/

/-- R325: a line leaves its slice; a dirty one is written to its HBM stack for the region that brought it in. -/
def State.dropLine (s : State) (line : Nat) : State :=
  match tget s.coh.lines line with
  | none => s
  | some x =>
    let s := if x.dirty then s.charge x.owner.1 x.owner.2 (12 + memDie (line * 128)) itemHbm 128 else s
    { s with coh := { s.coh with lines := tdel s.coh.lines line } }

/-- No replica of the line stands or is still collapsing. -/
def State.lineAlone (s : State) (line : Nat) (x : Line) : Bool := x.holders.isEmpty && (s.collsOf line).isEmpty

/-- R295: a line that its home evicts collapses its replicas first; it leaves once they are gone. -/
def State.evictLine (s : State) (line : Nat) : State :=
  match tget s.coh.lines line with
  | none => s
  | some x =>
    if s.lineAlone line x then s.dropLine line
    else
      let s := (s.collapseLine line).1
      { s with coh := { s.coh with lines := tmod s.coh.lines line (fun x => { x with leaving := true }) } }

/-- The lines being evicted whose collapses are acknowledged leave. -/
def State.endEvictions (s : State) : State :=
  (s.coh.lines.filter (fun e => e.2.leaving && s.lineAlone e.1 e.2)).foldl (fun s e => s.dropLine e.1) s

/-- R20, R25: a slice of 8 MiB holds this many lines, its own and replicas together. -/
def sliceLines : Nat := 65536

/-- R294: the slice of a holder that keeps a line's replica. -/
def State.replicaSlice (s : State) (die line : Nat) : Nat :=
  ((s.domainOf (line * 128)).bind (fun d => s.sliceOn die d (line * 128))).getD (16 * die)

/-- R295: a holder evicts a replica; the home clears its bit, unless another fill is on its way to that holder. -/
def State.replicaEvict (s : State) (die line : Nat) : State :=
  match tget s.coh.replicas (die, line) with
  | none => s
  | some _ =>
    let s := { s with coh := { s.coh with replicas := tdel s.coh.replicas (die, line) } }
    if s.coh.fills.any (fun e => e.2.die == die && e.2.line == line && !e.2.discard) then s
    else { s with coh := { s.coh with lines := tmod s.coh.lines line (fun x => { x with holders := x.holders.filter (· ≠ die) }) } }

/-- What a slice holds beside a line: the other lines that it homes, under `none`, and the replicas that it keeps, under
their die. -/
def State.sliceHolds (s : State) (n line : Nat) : List (Option Nat × Nat) :=
  ((s.coh.lines.filter (fun e => e.1 ≠ line ∧ s.homeOr (e.1 * 128) = n)).map (fun e => (none, e.1)))
    ++ ((s.coh.replicas.filter (fun e => e.1.2 ≠ line ∧ s.replicaSlice e.1.1 e.1.2 = n)).map (fun e => (some e.1.1, e.1.2)))

/-- A slice's entry can be displaced: a replica, or a home line that is not leaving yet; `now`: with no replica to
collapse first. -/
def State.displaces (s : State) (now : Bool) (e : Option Nat × Nat) : Bool :=
  match e.1, tget s.coh.lines e.2 with
  | none, some x => !x.leaving && (!now || s.lineAlone e.2 x)
  | none, none => false
  | some _, _ => true

/-- R20, R25: a slice makes room for a line. A full one displaces an entry, one that can leave at once where it has one;
one that is not full may displace one (assumption 6). -/
def State.makeRoom (s : State) (n line i : Nat) : State :=
  let all := s.sliceHolds n line
  let full := decide (sliceLines ≤ all.length)
  let soon := all.filter (s.displaces full)
  let mine := if soon.isEmpty then all.filter (s.displaces false) else soon
  if Config.held s.tick i && !full then s
  else match mine[Config.pick s.tick i % mine.length]? with
    | none => s
    | some (none, l) => s.evictLine l
    | some (some d, l) => s.replicaEvict d l

/-- Bring a line into its home slice, charging the region's HBM bytes (R322 item 4); none while the budget
is spent (R325). -/
def State.lineIn (s : State) (p r line : Nat) : Option State :=
  if (tget s.coh.lines line).isSome then some s
  else
    let die := 12 + memDie (line * 128)
    if s.spent p r die itemHbm then none
    else
      let s := s.charge p r die itemHbm 128
      let s := s.makeRoom (s.homeOr (line * 128)) line 2
      some { s with coh := { s.coh with lines := tset s.coh.lines line ⟨[], false, false, (p, r)⟩ } }

/-! ## Package-queue descriptors (R232) -/

/-- A descriptor's words. -/
structure QDesc where
  ring : Nat
  m : Nat
  state : Nat
  ok : Bool
  lost : Nat
  head : Nat
  tail : Nat
  sib : Nat

/-- R232: the descriptor at a physical address. DESIGN CHOICE (assumption 22): `ok` when m and the ring's alignment
follow the table, which says of no operation what it does where they do not; reserved bits are ignored (R7). -/
def qdescAt (m : List Host.Cell) (pa : Nat) : QDesc :=
  let w := fun (o n : Nat) => leNat (rdN m (pa + o) n)
  let c := w 8 4
  { ring := w 0 8, m := nfld c 0 5, state := nfld c 8 2,
    ok := decide (4 ≤ nfld c 0 5 ∧ nfld c 0 5 ≤ 24 ∧ w 0 8 % 64 = 0),
    lost := w 0xC 4, head := w 0x10 4, tail := w 0x14 4, sib := w 0x18 8 }

/-- Entries in a queue. -/
def QDesc.used (q : QDesc) : Nat := (q.tail + 2 ^ 32 - q.head) % 2 ^ 32
def QDesc.free (q : QDesc) : Nat := 2 ^ q.m - q.used

/-- R233: the lost count of the descriptor at `pa` rises by one. -/
def State.lostUp (s : State) (pa : Nat) : State :=
  s.hwWrite (pa + 0xC) (leBytes 4 (leNat (rdN s.hwMem (pa + 0xC) 4) + 1))

/-- A queue operation meets a live queue where the state is 1; one whose m or ring breaks the table is taken for a
queue that is not live (assumption 22). -/
def QDesc.live (q : QDesc) : Bool := q.ok && q.state == 1

/-- The engine by whose tables the addresses of a queue translate, for an agent at `x` (R310). -/
def queueVia (p : Nat) (x : Site) : Site := if p = sysPart then x else .syrad 0

/-- An address lies in a partition's memory. -/
def Part.owns (v : Part) (pa : Nat) : Bool :=
  let r := tgetD v.mem (memDie pa) (0, 0)
  decide (r.1 ≤ pa % 2 ^ 49 ∧ pa % 2 ^ 49 < r.1 + r.2)

/-- DESIGN CHOICE (assumption 22): the queues that software has made live in memory `m` and no operation has named yet.
Nothing tells such a descriptor from data of the same bytes, so a free value says which of them are queues. -/
def State.unusedQueues (s : State) (m : List Host.Cell) : List QueueId :=
  m.filterMap (fun c =>
    let pa := c.1 - 9
    if c.1 % 64 = 9 && (qdescAt m pa).live && !s.queues.any (fun q => q.pa == pa) && Config.queueThere s.tick pa then
      (s.parts.find? (fun e => e.2.owns pa)).map (fun e => ⟨e.1, .syrad 0, Config.queueAddr s.tick pa, pa⟩)
    else none)

/-- R232: the live queues of memory `m` whose descriptors lie in a line. -/
def State.queuesIn (s : State) (m : List Host.Cell) (line : Nat) : List QueueId :=
  (s.queues ++ s.unusedQueues m).filter (fun q => lineOf q.pa == line)

/-- R233: a thread that waits at one of the descriptor addresses of a killed queue waits no more:
its instruction fails with `p` clear at its next test, whatever is written there meanwhile. -/
def Thread.lose (p : Nat) (via : Site) (descs : List Int) (t : Thread) : Thread :=
  if t.part ≠ p ∨ queueVia p t.src.site ≠ via then t else
  match t.wait with
  | some ⟨.push d _ _, dl, f, o⟩ => if descs.contains d then { t with wait := some ⟨.killed true, dl, f, o⟩ } else t
  | some ⟨.pop d, dl, f, o⟩ => if descs.contains d then { t with wait := some ⟨.killed false, dl, f, o⟩ } else t
  | _ => t

/-- R233: kill a queue: it is dead, its waiting operations are over and the handler packet goes to its sibling. -/
def State.killQueue (s : State) (i : QueueId) (reason : Nat) : State :=
  let q := qdescAt s.hwMem i.pa
  let s := s.hwWrite (i.pa + 9) [BitVec.ofNat 8 (nfld (leNat (rdN s.hwMem (i.pa + 9) 1)) 2 6 * 4 + 2)]
  let same := fun (e : QueueId) => e.part == i.part && e.via == i.via && e.pa == i.pa
  let names := i.desc :: (s.queues.filter same).map (fun e => e.desc)
  let lose := fun (t : Thread) => t.lose i.part i.via names
  let s : State := { s with
    queues := s.queues.filter (fun e => !same e)
    threads := s.threads.map (fun e => (e.1, lose e.2))
    biv := s.biv.map (fun e => (e.1, { e.2 with threads := e.2.threads.map (fun t => (t.1, lose t.2)) })) }
  let s := (s.threads.filter (fun e => e.2.part = i.part ∧ e.2.stat = .wait)).foldl (fun s e => s.postEv .waitTest { a := e.1 }) s
  let d := BitVec.ofInt 64 i.desc
  if q.sib = 0 then s.lostUp i.pa else s.queuePush i.part (BitVec.ofNat 64 q.sib).toInt
    [w32 (0xF0000000 + reason), w32 d.toNat, w32 (d.toNat / 2 ^ 32), w32 q.used] (some i.pa) i.via

/-- R232: a store that changed the state, head or tail of a live queue kills it. -/
def State.killChanged (s : State) (old : List Host.Cell) (line : Nat) : State :=
  (s.queuesIn old line).foldl (fun s e =>
    let a := qdescAt old e.pa
    let b := qdescAt s.mem e.pa
    if a.state = 1 ∧ (b.state ≠ 1 ∨ a.head ≠ b.head ∨ a.tail ≠ b.tail) then s.killQueue e 2 else s) s

/-! ## A write at its home -/

/-- The bytes of a line copy with some bytes replaced from offset `o`. -/
def patch (old : List Byte) (o : Nat) (bs : List Byte) (mask : List Bool) : List Byte :=
  old.mapIdx (fun i b => if o ≤ i ∧ mask.getD (i - o) false then bs.getD (i - o) b else b)

/-- R252: a store updates a copy of its line in its own tile's cache. -/
def State.patchL1 (s : State) (x : Site) (pa : Nat) (bs : List Byte) (mask : List Bool) : State :=
  { s with coh := { s.coh with l1 := tmod s.coh.l1 (x, lineOf pa) (fun old => patch old (pa % 128) bs mask)
                               l1Bad := s.coh.l1Bad.filter (fun b => !(b.1 == x && decide (pa ≤ b.2) && mask.getD (b.2 - pa) false)) } }

/-- The index of a line that a multicast service has read already. -/
def McSvc.readAt (v : McSvc) (line : Nat) : Bool :=
  match v.lines.findIdx? (fun l => l == line) with
  | none => false
  | some i => decide (i < v.next) || (decide (i = v.next) && v.read)

/-- R274, R280: what a tile writes, or reads at the home, is newer there than what the services have read of the line:
their copies for that tile take it over (assumption 31). -/
def State.noteNewer (s : State) (x : Site) (pa : Nat) (bs : List Byte) (mask : List Bool) : State :=
  match x with
  | .tile n => { s with coh := { s.coh with mc := s.coh.mc.map (fun e =>
      (e.1, if e.2.readAt (lineOf pa) then { e.2 with own := e.2.own ++ [(n, pa, bs, mask)] } else e.2)) } }
  | _ => s

/-- A multicast line as it enters a tile's cache: as it was sent, with what is newer at that tile. -/
def McSvc.newest (v : McSvc) (r : McReply) : List Byte :=
  (v.own.filter (fun o => o.1 = r.tile ∧ lineOf o.2.1 = r.line)).foldl (fun bs o => patch bs (o.2.1 % 128) o.2.2.1 o.2.2.2) r.bytes

/-- R268, R296: a write within one line performs at its home: memory takes the masked bytes, the writer's
own first-level copy follows, the replicas are sent collapses; the numbers of those collapses. -/
def State.writeHome (s : State) (own : Option Site) (pa : Nat) (bs : List Byte) (mask : List Bool) : State × List Nat :=
  let line := lineOf pa
  let old := s.mem
  let hit := fun (a : Nat) => decide (pa ≤ a) && mask.getD (a - pa) false
  let s := { s with mem := wrMasked s.mem pa bs mask, memBad := s.memBad.filter (fun a => !hit a) }.closeWindows line
  let s := match own with | none => s | some x => (s.patchL1 x pa bs mask).noteNewer x pa bs mask
  let r := (s.soil line).collapseLine line
  (r.1.killChanged old line, r.2)

/-- All bytes of a write taken. -/
def fullMask (bs : List Byte) : List Bool := bs.map (fun _ => true)

/-- R422: a fill that a read's own reply brings is written first. -/
def State.fillAhead (s : State) (a : Nat) : Bool := s.coh.fills.any (fun e => e.2.acc == a)

end Sys2Proof.Machine
end

