-- ==== Sys2Proof/Machine/Translate.lean ====
section
/-! DEFINITION. Translation of virtual addresses: range registers (R315), the TLBs (R309), the walk of the
page tables (R310 to R312). -/

namespace Sys2Proof.Machine

/-- A physical range lies inside the partition's memory (R430); the system's lies anywhere. -/
def State.inMem (s : State) (p pa n : Nat) : Bool :=
  p == sysPart ||
  (let r := tgetD (s.part p).mem (memDie pa) (0, 0)
   decide (r.1 ≤ pa % 2 ^ 49 ∧ pa % 2 ^ 49 + n ≤ r.1 + r.2 ∧ pa < 2 ^ 51))

/-- R34: the address lies in the 57-bit sign-extended range. -/
def inRange57 (ea : Int) : Bool := decide (-(2 ^ 56) ≤ ea ∧ ea < 2 ^ 56)

/-- The 57 bits of an address that index the page tables. -/
def va57 (ea : Int) : Nat := (ea % 2 ^ 57).toNat

/-- R310: the lowest bit and the number of bits of a level's index. -/
def levelIndex : Nat → Nat × Nat
  | 0 => (16, 5)
  | 1 => (21, 9)
  | 2 => (30, 9)
  | 3 => (39, 9)
  | _ => (48, 9)

/-- R311: the address field. -/
def pteAddr (e : Nat) : Nat := nfld e 8 43 * 256

/-- R311: an entry that is valid and breaks no rule that holds at every level. -/
def pteOk (e : Nat) : Bool :=
  bit (w32 e) 0 && nfld e 51 13 == 0 && nfld e 2 1 == 0 && decide (nfld e 5 3 ≤ 4)

/-- R310, R311: a leaf's translation, none when it breaks a rule. -/
def leafEnt (s : State) (p va level e : Nat) : Option TlbEnt :=
  let bits := (levelIndex level).1
  let write := nfld e 3 1 == 1
  let cow := nfld e 4 1 == 1
  if decide (2 < level) || decide (pteAddr e % 2 ^ bits ≠ 0) || (cow && (decide (level ≠ 0) || write))
      || !s.inMem p (pteAddr e) (2 ^ bits) then none
  else some { part := p, page := va / 2 ^ bits, bits := bits, pa := pteAddr e, write := write, cow := cow, repl := nfld e 5 3 }

/-- R310, R312: the walk from a table of a level; none where it meets an entry that is not valid, among them one that
no home slice of the module serves (R300, R428; assumption 29). -/
def State.walkFrom (s : State) (p va : Nat) : Nat → Nat → Option TlbEnt
  | level, table =>
    let ix := levelIndex level
    let at_ := table + 8 * nfld va ix.1 ix.2
    let e := (s.rdD at_).toNat
    if !s.served at_ || s.badAt at_ 8 || !pteOk e then none
    else if nfld e 1 1 = 1 then leafEnt s p va level e
    else if nfld e 4 1 = 1 then none
    else match level with
      | 0 => none
      | n + 1 => if n = 0 ∨ pteAddr e % 4096 = 0 then s.walkFrom p va n (pteAddr e) else none

/-- The root of the tables that an agent's accesses use (R310). -/
def State.rootOf (s : State) (p : Nat) (x : Site) : DWord :=
  if p = sysPart then Config.syradRoot (dieOf x) else (s.part p).root

/-- R312: a walk made at package scope. -/
def State.walk (s : State) (p : Nat) (x : Site) (ea : Int) : Option TlbEnt :=
  s.walkFrom p (va57 ea) 4 ((s.rootOf p x).toNat / 4096 * 4096)

/-- R307: the walk reads an entry whose address a switch holds. -/
def State.walkHeldFrom (s : State) (va : Nat) : Nat → Nat → Bool
  | level, table =>
    let ix := levelIndex level
    let at_ := table + 8 * nfld va ix.1 ix.2
    let e := (s.rdD at_).toNat
    s.switching at_ || (match level with
      | 0 => false
      | n + 1 => pteOk e && nfld e 1 1 != 1 && s.walkHeldFrom va n (pteAddr e))

/-- R307: a walk that is held. -/
def State.walkHeld (s : State) (p : Nat) (x : Site) (ea : Int) : Bool :=
  s.coh.switch.isSome && s.walkHeldFrom (va57 ea) 4 ((s.rootOf p x).toNat / 4096 * 4096)

/-- A TLB entry's address and permissions for a virtual address. -/
def TlbEnt.covers (e : TlbEnt) (p : Nat) (ea : Int) : Bool := e.part == p && e.page == va57 ea / 2 ^ e.bits
def TlbEnt.at (e : TlbEnt) (ea : Int) : Nat := e.pa + va57 ea % 2 ^ e.bits

/-- What a translation gives (R309 to R315). -/
inductive Xl
  /-- a range commit holds it (R317) -/
  | hold
  | ok (pa repl : Nat)
  /-- no TLB entry: a walk is needed -/
  | walk
  /-- "memory address" reason 4 -/
  | ro
  /-- a write through a copy-on-write leaf (R313) -/
  | cow
  deriving DecidableEq, Repr

/-- R315: the lowest-numbered valid range register that holds the address. -/
def Part.rangeFor (v : Part) (ea : Int) : Option RangeReg :=
  (List.range 32).findSome? (fun i =>
    match tget v.ranges i with
    | none => none
    | some r => if r.vbase ≤ ea ∧ ea < r.vlimit then some r else none)

/-- R317 step 4: a new set of range registers is staged, and every new translation through the old one is held. -/
def Part.staging (v : Part) : Bool := (v.commit.bind (fun c => c.staged)).isSome

/-- R311 to R313: what a leaf allows. -/
def TlbEnt.use (e : TlbEnt) (ea : Int) (wr : Bool) : Xl :=
  if wr && !e.write then (if e.cow then .cow else .ro) else .ok (e.at ea) e.repl

/-- R309: the TLB entry an access would use, unless it has been replaced (assumption 6). -/
def State.tlbEnt (s : State) (p : Nat) (x : Site) (ea : Int) (n : Nat) : Option TlbEnt :=
  match (tgetD s.coh.tlb1 x []).find? (fun e => e.covers p ea) with
  | some e => if Config.held s.tick (8 * n + 4) then some e else none
  | none =>
    match (tgetD s.coh.tlb2 (dieOf x) []).find? (fun e => e.covers p ea) with
    | some e => if Config.held s.tick (8 * n + 5) then some e else none
    | none => none

/-- R309: translate an access of partition `p` from site `x`; `n` numbers the access among the step's. -/
def State.xlate (s : State) (p : Nat) (x : Site) (ea : Int) (wr : Bool) (n : Nat) : Xl :=
  match (s.part p).rangeFor ea with
  | some r =>
    if (s.part p).staging then .hold
    else if wr && !r.write then .ro
    else .ok (r.pbase + (ea - r.vbase).toNat) r.repl
  | none =>
    match s.tlbEnt p x ea n with
    | some e => e.use ea wr
    | none => .walk

/-- R309: an entry enters a TLB of n entries; in a full one it displaces the one that `k` picks. -/
def tlbAdd (n k : Nat) (e : TlbEnt) (es : List TlbEnt) : List TlbEnt :=
  let es := es.filter (fun f => decide (¬ (f.part = e.part ∧ f.page = e.page ∧ f.bits = e.bits)))
  e :: (if es.length < n then es else es.eraseIdx (k % es.length))

/-- R309: the first-level entries of an agent; a memory die has a second level alone. -/
def tlb1Size (x : Site) : Nat := if isTile x then 128 else if isElem x then 32 else 0

/-- R309: a walk's leaf enters the first-level TLB of its agent and the second-level TLB of the die (which entry a
full one loses: assumption 6). -/
def State.fillTlb (s : State) (x : Site) (e : TlbEnt) : State :=
  let t1 := if tlb1Size x = 0 then s.coh.tlb1
    else tset s.coh.tlb1 x (tlbAdd (tlb1Size x) (Config.pick s.tick 4) e (tgetD s.coh.tlb1 x []))
  { s with coh := { s.coh with tlb1 := t1
                               tlb2 := tset s.coh.tlb2 (dieOf x) (tlbAdd 4096 (Config.pick s.tick 5) e (tgetD s.coh.tlb2 (dieOf x) [])) } }

/-- A whole translation by hardware that does not park: ranges, else a walk; none where it fails or, for a
write, where the page is not writable. -/
def State.hwXlate (s : State) (p : Nat) (x : Site) (ea : Int) (wr : Bool) : Option Nat :=
  if !inRange57 ea then none
  else match (s.part p).rangeFor ea with
    | some r => if wr && !r.write then none else some (r.pbase + (ea - r.vbase).toNat)
    | none =>
      match s.walk p x ea with
      | none => none
      | some e => match e.use ea wr with | .ok pa _ => some pa | _ => none

/-- R307, R317: the hardware's own access to a virtual address is held: its range register by a commit, its walk, or the
address it gives, by a switch. -/
def State.hwHolds (s : State) (p : Nat) (x : Site) (ea : Int) : Bool :=
  match (s.part p).rangeFor ea with
  | some r => (s.part p).staging || s.switching (r.pbase + (ea - r.vbase).toNat)
  | none => s.coh.switch.isSome
      && (s.walkHeld p x ea || (match s.walk p x ea with | none => false | some e => s.switching (e.at ea)))

/-- An address as an access reaches it: at a domain's slice, on no die any more, nowhere, or in another
module (R291, R300, R428). -/
inductive Spot
  | slice (n : Nat)
  | lost
  | nowhere
  | remote
  deriving DecidableEq, Repr

def State.place (s : State) (pa : Nat) : Spot :=
  if isAperture pa then .remote
  else if s.coh.lost.contains (12 + memDie pa) then .lost
  else match s.homeOf pa with
    | some n => .slice n
    | none => .nowhere

end Sys2Proof.Machine
end

