-- ==== Sys2Proof/Machine/Access.lean ====
section
/-! DEFINITION. Memory accesses: the control word (R244), the checks of a lane (R243), issue, translation,
parking (R253), failure (R254), the order in which they perform (R246, R270, R273) and their retirement
(R212, R249). -/

namespace Sys2Proof.Machine

/-! ## The memory control word (R244) -/

def mBase (w : Word) : Nat := fld w 0 3
def mStream (w : Word) : Nat := fld w 3 2
def mSize (w : Word) : Nat := fld w 5 3
def mOrd (w : Word) : Nat := fld w 8 3
def mScope (w : Word) : Nat := fld w 11 3
def mNoalloc (w : Word) : Bool := fld w 14 2 == 1
def mOp (w : Word) : Nat := fld w 16 4

/-- R243: Bytes(size). -/
def sizeBytes (sz : Nat) : Nat := if sz ≤ 1 then 1 else if sz ≤ 3 then 2 else if sz = 4 then 4 else 8

/-- An ordering with acquire effect (R270). -/
def ordAcq (o : Nat) : Bool := o == 1 || o == 3 || o == 4
/-- An ordering with release effect (R270). -/
def ordRel (o : Nat) : Bool := o == 2 || o == 3 || o == 4

/-- R34: base entry k of a thread's source cell. -/
def State.baseOf (s : State) (t : Thread) (k : Nat) : Int := (tgetD (s.cell t.src).bases k 0).toInt

/-- R243. -/
def eaOf (base : Int) (a : Word) (n : Nat) : Int := base + Sx a * n

/-- R243 checks 1 to 3: the reason of the first that fails (0 for poison). -/
def laneFault (pois : Bool) (ea : Int) (n : Nat) : Option Nat :=
  if pois then some 0
  else if !inRange57 ea then some 1
  else if ea % n ≠ 0 then some 2
  else none

def AccOp.writes : AccOp → Bool
  | .st => true
  | .stm => true
  | .atomic _ => true
  | _ => false

def AccOp.isAtomic : AccOp → Bool
  | .atomic _ => true
  | _ => false

/-- The counter an access raises (R212). -/
def AccOp.counter : AccOp → Option Ctr
  | .prf => none
  | .st => some .st
  | .stm => some .st
  | .atomic _ => some .st
  | _ => some .ld

/-! ## Performance (R268, R288) -/

/-- The stores of a TBLND resolve (R406). -/
def Access.isResolve (x : Access) : Bool := x.who.opc == 0xEB

/-- A store of ST or STM, which has performed at `.gang` once it has issued (R268). -/
def Access.plainStore (x : Access) : Bool := (x.op == .st || x.op == .stm) && x.chain.isNone && !x.isResolve

/-- The access has performed at a scope: every lane bound or written, no collapse owed there; at `.gang` a store
has once it has issued. -/
def State.accDone (s : State) (x : Access) (scope : Nat) : Bool :=
  (x.plainStore && scope == 0) || x.lanes.all (fun l => l.st == .done && !s.owingAt x.who.ag.site scope l.acks)

/-- An access that the table no longer lists has performed everywhere. -/
def State.performed (s : State) (a scope : Nat) : Bool :=
  match s.acc? a with
  | none => true
  | some x => s.accDone x scope

/-- The lane has its physical address. -/
def LaneAcc.placed (m : LaneAcc) : Bool := m.st != .walk && m.st != .parked

/-- Two lanes reach a common byte: under one address, or, once both are translated, under two mappings of it. -/
def LaneAcc.meets (l m : LaneAcc) : Bool :=
  decide (l.ea < m.ea + m.size ∧ m.ea < l.ea + l.size)
    || (l.placed && m.placed && decide (l.pa < m.pa + m.size ∧ m.pa < l.pa + l.size))

/-- R258: two lanes share a line. -/
def LaneAcc.shares (l m : LaneAcc) : Bool :=
  l.ea / 128 == m.ea / 128 || (l.placed && m.placed && lineOf l.pa == lineOf m.pa)

def AccOp.isLdmc : AccOp → Bool
  | .ldmc _ _ _ _ _ _ => true
  | _ => false

/-- R246, R270: what an earlier access `y` of the thread must have done before a lane of `x` performs. A lane of
`y` whose walk is under way may yet turn out to meet it; a parked one holds back its own stream alone. -/
def State.after (s : State) (x : Access) (l : LaneAcc) (y : Access) : Bool :=
  let both := x.stream.isSome && y.stream.isSome
  let near := both && (x.stream == y.stream
    || (y.lanes.any (fun m => m.meets l || m.st == .walk) && !(x.op.isLdmc && y.op.isLdmc)))
  (!near || s.accDone y 4)
    && (!ordAcq y.ord || s.accDone y y.scope)
    && (!(ordRel x.ord && y.stream.isSome) || s.accDone y x.scope)

/-- R231, R281 to R284: increments of thread `u` with a release that have not arrived; those sent before its access
of sequence number `seq`. -/
def State.relSems (s : State) (u seq : Nat) : Bool :=
  s.semOps.any (fun o => decide (u ≠ 0 ∧ o.2.uid = u ∧ o.2.scope ≠ 0 ∧ o.2.seq ≤ seq))

/-- R246, R258: a lower lane `m` of an access comes before its lane `l`: they meet, share a line of an atomic, are of one
chain access, or `m` may yet turn out to, since its walk is under way. -/
def Access.lower (x : Access) (l m : LaneAcc) : Bool :=
  decide (m.lane < l.lane) && m.st != .done
    && (m.meets l || x.chain.isSome || m.st == .walk || (x.op.isAtomic && m.shares l))

/-- R246, R247, R258, R270, R281 to R284, R307: a lane may perform. -/
def State.mayPerform (s : State) (x : Access) (l : LaneAcc) : Bool :=
  ((s.accs.filter (fun e => e.2.uid = x.uid ∧ e.2.seq < x.seq ∧ e.2.op ≠ .prf)).all (fun e => s.after x l e.2))
    && !(ordRel x.ord && s.relSems x.uid x.seq)
    && x.gates.all (fun g => g.1.all (fun a => s.performed a g.2))
    && !x.lanes.any (x.lower l)
    && !s.switching l.pa

/-! ## Fences hear of faults (R288) -/

/-- A covered access that ends in a fault marks every entry that lists it. -/
def State.noteFault (s : State) (a : Nat) : State :=
  let s := s.modAcc a (fun x => { x with faulted := true })
  { s with cells := s.cells.map (fun e => (e.1, { e.2 with fences := e.2.fences.map (fun n =>
      if n.2.accs.contains a then (n.1, { n.2 with faulted := true }) else n) })) }

/-- A thread that waits is tested again. -/
def State.nudge (s : State) (u : Nat) : State :=
  match s.thr? u with
  | none => s
  | some t => if t.stat = .wait then s.postEv .waitTest { a := u } else s

/-! ## Retirement -/

/-- The lane mask of a list of lanes. -/
def maskOf (ls : List Nat) : Word := w32 (ls.foldl (fun m l => Nat.lor m (2 ^ l)) 0)

/-- R254: the record of an access whose lanes are all decided: the lowest lane that failed check 2, 3 or 4,
and the mask of every failed lane. A lane of 32 or above is the second part of a record that spans two
lines (R384); LDMC and resolve name lane 0. -/
def State.addressRecord (s : State) (a : Nat) (x : Access) : State :=
  let real := x.fails.filter (fun e => e.2 ≠ 0 ∧ e.2 ≠ 9)
  match (List.range 32).findSome? (fun l => real.find? (fun e => e.1 % 32 = l)) with
  | none => s
  | some e =>
    if x.recd then s
    else (s.modAcc a (fun x => { x with recd := true })).raise x.who 0x0111
      (x.who.details e.2 (if x.op.isLdmc || x.isResolve then [0, 1] else [w32 (e.1 % 32), maskOf (x.fails.map (fun f => f.1 % 32))]))

/-- The access's counter falls and it is retired. -/
def State.retire (s : State) (a : Nat) (x : Access) : State :=
  let s := s.modAcc a (fun x => { x with retired := true })
  match x.op.counter with
  | none => s
  | some c => s.fall x.uid c

/-- Look at an access again after a lane or a collapse: its record, its retirement (a store's when it has
performed at its scope, R212, which at `.gang` is as it issues; the data of the others returns as an event of its
own), its removal once it has performed everywhere. -/
def State.settleAcc (s : State) (a : Nat) : State :=
  match s.acc? a with
  | none => s
  | some x =>
    if !x.lanes.all (fun l => l.st == .done) then (if x.retired || !(x.plainStore && x.scope == 0) then s else s.retire a x)
    else
      let s := s.addressRecord a x
      let s :=
        if x.retired then s
        else match x.op with
          | .st => if !s.accDone x x.scope then s else if x.isResolve then s.postEv .loadDataReturn { a := a } else s.retire a x
          | .stm => if s.accDone x x.scope then s.retire a x else s
          | .prf => s.retire a x
          | _ => s.postEv .loadDataReturn { a := a }
      match s.acc? a with
      | none => s
      | some x =>
        if x.retired && s.accDone x 4 then ({ s with accs := tdel s.accs a }).nudge x.uid
        else s.nudge x.uid

def State.modLane (s : State) (a l : Nat) (f : LaneAcc → LaneAcc) : State :=
  s.modAcc a (fun x => { x with lanes := x.lanes.map (fun m => if m.lane = l then f m else m) })

def Access.lane? (x : Access) (l : Nat) : Option LaneAcc := x.lanes.find? (fun m => m.lane = l)

/-- A lane is decided. -/
def State.finishLane (s : State) (a l : Nat) (got : List Byte) (pois : Bool) (acks : List Nat) : State :=
  (s.modLane a l (fun m => { m with st := .done, got := got, pois := pois, acks := acks })).settleAcc a

/-- R428: a write of an engine to another module is refused: its copy or drain keeps the address. -/
def State.engineRefused (s : State) (a : Nat) (x : Access) (ea : Int) : State :=
  let y := x.who.ag.site
  let s : State := { s with sites := s.sites.map (fun v => if v.1 = y then (v.1, { v.2 with copies := v.2.copies.map (fun c =>
    if c.2.sent.contains a then (c.1, { c.2 with refused := some (c.2.refused.getD ea) }) else c) }) else v) }
  match y with
  | .elem e =>
    let v := s.elem e
    s.setElem e { v with running := v.running.map (fun m => if m.sent.contains a then { m with refused := some (m.refused.getD ea) } else m) }
  | _ => s

/-- R254: a lane fails with a reason; it accesses nothing and its targets take zero, poisoned. -/
def State.failLane (s : State) (a l reason : Nat) : State :=
  match s.acc? a with
  | none => s
  | some x =>
    if x.op = .prf then s.finishLane a l [] true []
    else
      let s := if x.uid = 0 then s.engineRefused a x ((x.lane? l).elim 0 (fun m => m.ea)) else s
      let s := s.modAcc a (fun x => { x with fails := x.fails ++ [(l, reason)] })
      (s.noteFault a).finishLane a l [] true []

/-! ## Parking (R253, R312, R313) -/

/-- The 64 KiB page of a virtual address, by number. -/
def pageOf (ea : Int) : Nat := va57 ea / 2 ^ 16

def RecFor.isPage (r : RecFor) (page die : Nat) : Bool :=
  match r with
  | .page q d => q == page && d == die
  | _ => false

/-- A record for this page and die still awaits its reply (R309: misses of one die to one page merge;
R313: one copy-on-write record per page per die). -/
def State.pageRecorded (s : State) (p page die code : Nat) : Bool :=
  (s.part p).recs.any (fun e => e.2.for_.isPage page die && e.2.code == code && !e.2.answered)
    || (s.part p).heldRecs.any (fun e => e.2.for_.isPage page die && e.2.code == code)

/-- Park a lane with its page's record. The system's own accesses have no trap queue: they fail. -/
def State.parkLane (s : State) (a l code : Nat) : State :=
  match s.acc? a with
  | none => s
  | some x =>
    match x.lane? l with
    | none => s
    | some m =>
      let p := x.who.part
      if p = sysPart then s.failLane a l (if code = 1 then 3 else 4)
      else
        let die := dieOf x.who.ag.site
        let page := pageOf m.ea
        let s := s.modLane a l (fun m => { m with st := .parked })
        if s.pageRecorded p page die code then s
        else s.raise x.who code (x.who.details 0 []) (some (.page page die)) m.ea

/-! ## Reltin requests (R427, R428) -/

/-- R427: a flit carries 240 bytes of payload; those that its sender does not use are zero. -/
def Flit.fit (f : Flit) : Flit := { f with payload := (f.payload ++ List.replicate 240 0).take 240 }

/-- A flit arrives at one of the module's ports. -/
def State.recvFlit (s : State) (f : Flit) : State :=
  let n := s.fresh
  ({ s with io := { s.io with flits := tset s.io.flits n f } }.bump).postEv .flitForwarding { a := n }

/-- A flit leaves by the port that the firmware names for its node (R426); one for this module's own node
comes straight back. -/
def State.sendFlit (s : State) (f : Flit) : State :=
  if f.dst = s.io.node then s.recvFlit f
  else match tget s.io.ports f.dst with
    | none => s
    | some q => { s with io := { s.io with out := s.io.out ++ [{ f.fit with port := q }] } }

/-- The 16-byte mask of a write flit. -/
def maskBytes (o n : Nat) (mask : List Bool) : List Byte :=
  (List.range 16).map (fun i => BitVec.ofNat 8 ((List.range 8).foldl (fun m j =>
    let k := 8 * i + j
    if o ≤ k ∧ k < o + n ∧ mask.getD (k - o) false then m + 2 ^ j else m) 0))

/-- 128 bytes with some from offset `o`. -/
def lineWith (o : Nat) (bs : List Byte) : List Byte := List.replicate o 0 ++ bs ++ List.replicate (128 - o - bs.length) 0

def AtKind.opcode : AtKind → Nat
  | .add => 0xB0 | .min _ => 0xB1 | .max _ => 0xB2 | .and => 0xB3 | .or => 0xB4 | .xor => 0xB5
  | .xchg => 0xB6 | .cas => 0xB7 | .fadd _ => 0xB8 | .tri => 0xB9

def AtKind.field : AtKind → Nat
  | .min u => if u then 1 else 0
  | .max u => if u then 1 else 0
  | .fadd m => m
  | _ => 0

/-- The request of one lane to another module: kind, kind word beyond the tag, argument, payload. -/
def requestFlit (x : Access) (m : LaneAcc) (tag node : Nat) : Flit :=
  let off := nfld m.pa 0 33
  let base : Flit := { kind := 2, part := nfld m.pa 33 4, dst := nfld m.pa 37 10, src := node, word := w32 tag,
                       arg := BitVec.ofNat 64 (off / 128 * 128), payload := [], port := 0 }
  match x.op with
  | .atomic k =>
    { base with kind := 5, word := w32 (tag + 2 ^ 8 * k.opcode + 2 ^ 16 * k.field), arg := BitVec.ofNat 64 off,
                payload := m.bytes ++ List.replicate (8 - m.bytes.length) 0 ++ leBytes 4 m.z.toNat }
  | .st => { base with kind := 4, payload := lineWith (off % 128) m.bytes ++ maskBytes (off % 128) m.size m.mask }
  | .stm => { base with kind := 4, payload := lineWith (off % 128) m.bytes ++ maskBytes (off % 128) m.size m.mask }
  | _ => base

/-! ## Contention (R326) -/

/-- A lane that goes to memory by an event of its own. -/
def Access.contends (x : Access) (m : LaneAcc) : Bool :=
  m.st == .todo && x.chain.all (fun c => c.active) && !x.op.isLdmc && (match x.op with | .tex _ => false | _ => true)

/-- R326: lane `l` of access `a` yields at a port to another lane that contends there and whose region has budget
left: one that ranks higher, or an older one of the same rank. -/
def State.yields (s : State) (a l : Nat) (x : Access) (die : Nat) (i : Item) (here : LaneAcc → Bool) : Bool :=
  let mine := s.rank x.who.part x.who.region die i
  s.accs.any (fun e => e.2.lanes.any (fun m =>
    e.2.contends m && here m && s.mayPerform e.2 m && !s.spent e.2.who.part e.2.who.region die i
      && (let r := s.rank e.2.who.part e.2.who.region die i
          decide (mine < r ∨ mine = r ∧ (e.1 < a ∨ e.1 = a ∧ m.lane < l)))))

/-- R420, R421: a multicast service's slice serves no earlier one to the die any more, second copies included. -/
def State.mcTurn (s : State) (n : Nat) (v : McSvc) : Bool :=
  !s.coh.mc.any (fun e => e.1 != n && e.2.arrived && e.2.slice == v.slice && e.2.die == v.die && decide (e.2.order < v.order)
      && (decide (e.2.next < e.2.lines.length) || !e.2.late.isEmpty))

/-- An engine's request that waits for its line can go on: nothing but other requests holds it. -/
def State.wantReady (s : State) (w : Want) : Bool :=
  s.agenda.contains w.act && (tget s.coh.lines w.line).isNone && !s.switching (w.line * 128) && !(s.part w.part).staging
    && !(s.site w.site).swapped && !s.stopped w.part (engOf w.site) && !s.stopped w.part (copyEngOf w.site)

/-- A request at a memory die that may be served: its region's rank, its number, its lane. -/
abbrev Rival := Nat × Nat × Nat

/-- R326: a request is served before another: it ranks higher, or is older at the same rank. -/
def Rival.beats (r q : Rival) : Bool :=
  decide (q.1 < r.1 ∨ q.1 = r.1 ∧ (r.2.1 < q.2.1 ∨ r.2.1 = q.2.1 ∧ r.2.2 < q.2.2))

/-- R326: the requests that contend for lines that a memory die must read from HBM, of regions with budget left: lanes,
engines' requests, and the next lines of multicast services. -/
def State.hbmRivals (s : State) (die : Nat) : List Rival :=
  let lacks := fun (l : Nat) => decide (memDie (l * 128) = die) && (tget s.coh.lines l).isNone
  let of := fun (p r n l : Nat) => if s.spent p r (12 + die) itemHbm then none else some (s.rank p r (12 + die) itemHbm, n, l)
  let lanes := s.accs.flatMap (fun e => e.2.lanes.filterMap (fun m =>
    if e.2.contends m && !isAperture m.pa && lacks (lineOf m.pa) && s.mayPerform e.2 m then of e.2.who.part e.2.who.region e.1 m.lane else none))
  let engines := s.coh.wants.filterMap (fun w => if lacks w.line && s.wantReady w then of w.part w.region w.num 0 else none)
  let casts := s.coh.mc.filterMap (fun e =>
    let line := e.2.lines.getD e.2.next 0
    if e.2.arrived && !e.2.read && decide (e.2.next < e.2.lines.length ∧ e.2.slice ≠ 64) && lacks line && s.mcTurn e.1 e.2 then
      (s.acc? e.2.acc).bind (fun x => of x.who.part x.who.region e.1 0)
    else none)
  lanes ++ engines ++ casts

/-- R326: another request for a line of the die goes first. -/
def State.hbmYields (s : State) (die : Nat) (me : Rival) : Bool := (s.hbmRivals die).any (fun r => r.beats me)

/-- R325, R326: a lane's line comes into its home slice; none while its region's budget is spent or another
request goes first at the memory die. -/
def State.laneLine (s : State) (a l : Nat) (x : Access) (m : LaneAcc) : Option State :=
  let die := memDie m.pa
  if (tget s.coh.lines (lineOf m.pa)).isNone && s.hbmYields die (s.rank x.who.part x.who.region (12 + die) itemHbm, a, l) then none
  else s.lineIn x.who.part x.who.region (lineOf m.pa)

/-- R325, R326: an engine's line comes into its home slice; none while its region's budget is spent or another request
goes first at the memory die. -/
def State.engLine (s : State) (x : Site) (p r line : Nat) : Option State :=
  match tget s.coh.lines line with
  | some _ => some s
  | none =>
    let die := memDie (line * 128)
    let mine := fun (w : Want) => decide (w.site = x ∧ w.part = p ∧ w.region = r ∧ w.line = line)
    let n := ((s.coh.wants.find? mine).map (fun w => w.num)).getD s.fresh
    if s.hbmYields die (s.rank p r (12 + die) itemHbm, n, 0) then none
    else ({ s with coh := { s.coh with wants := s.coh.wants.filter (fun w => !mine w) } }).lineIn p r line

/-- R326: the act posted last asks again for the first of these lines that its home lacks: from now on it contends. -/
def State.wantLast (s : State) (x : Site) (p r : Nat) (lines : List Nat) : State :=
  match s.agenda.getLast?, lines.find? (fun l => (tget s.coh.lines l).isNone) with
  | some a, some l =>
    let old := s.coh.wants.filter (fun w => s.agenda.contains w.act)
    let new := if old.any (fun w => w.act == a && w.line == l) then [] else [⟨a, x, p, r, l, s.fresh⟩]
    { s with coh := { s.coh with wants := old ++ new } }.bump
  | _, _ => s

/-- The port by which a lane's request leaves for its node; none for this module's own node, or an unknown one. -/
def State.lanePort (s : State) (m : LaneAcc) : Option Nat :=
  let node := nfld m.pa 37 10
  if node = s.io.node then none else tget s.io.ports node

/-- R325, R326: a lane's request is held at its port: its region's bytes are spent, or another request goes first. -/
def State.portHolds (s : State) (a l : Nat) (x : Access) (m : LaneAcc) : Bool :=
  match s.lanePort m with
  | none => false
  | some q =>
    let die := 12 + q / 4
    s.spent x.who.part x.who.region die itemReltin
      || s.yields a l x die itemReltin (fun k => isAperture k.pa && s.lanePort k == some q)

/-- R325: the payload bytes of a lane's request count at its port's memory die. -/
def State.portCharge (s : State) (x : Access) (m : LaneAcc) (f : Flit) : State :=
  match s.lanePort m with
  | none => s
  | some q => s.charge x.who.part x.who.region (12 + q / 4) itemReltin f.payload.length

/-- Send a lane to its node under a free tag once it may perform (R246, R270) and its port takes it (R325, R326);
with none free it waits. -/
def State.sendRemote (s : State) (a l : Nat) : State :=
  match s.acc? a with
  | none => s
  | some x =>
    match x.lane? l, (List.range 256).find? (fun g => (tget s.io.remote g).isNone) with
    | some m, some g =>
      if !s.mayPerform x m || s.portHolds a l x m then s.postEv .pageWalk { a := a, b := l } else
      let f := requestFlit x m g s.io.node
      let s := (s.modLane a l (fun m => { m with st := .remote })).portCharge x m f
      ({ s with io := { s.io with remote := tset s.io.remote g (a, l) } }).sendFlit f
    | _, _ => s.postEv .pageWalk { a := a, b := l }

/-! ## From issue to a slice -/

/-- R269: a read that a replica may serve. -/
def Access.replicable (x : Access) : Bool :=
  match x.op with
  | .ld _ => (x.scope == 2 && decide (x.ord ≤ 1)) || (x.scope == 3 && x.ord == 0)
  | _ => false

/-- The event by which a lane performs. -/
def Access.event (x : Access) : Instr :=
  match x.op with
  | .st => .writePerform
  | .stm => .writePerform
  | .atomic _ => .atomicPerform
  | .ldmc _ _ _ _ _ _ => .ldmcRequestArrival
  | .tex _ => .textureReply
  | _ => if x.replicable then .replicaRead else .sliceRead

/-- A translated lane: it is on its way to where its address leads (R291, R300, R428). -/
def State.arrive (s : State) (a l : Nat) (x : Access) (pa repl : Nat) : State :=
  let s := s.modLane a l (fun m => { m with pa := pa, repl := repl, st := .todo })
  match s.place pa with
  | .remote => s.sendRemote a l
  | .lost => s.failLane a l 5
  | .nowhere => s.failLane a l 3
  | .slice _ => if x.op.isLdmc then s else s.postEv x.event { a := a, b := l }

/-- What a translation does to a lane (R253, R254). -/
def State.onXlate (s : State) (a l : Nat) (x : Access) (r : Xl) : State :=
  match r with
  | .hold => s.postEv .pageWalk { a := a, b := l }
  | .walk => s.postEv .pageWalk { a := a, b := l }
  | .ok pa repl => s.arrive a l x pa repl
  | .ro => s.failLane a l 4
  | .cow => if x.op = .prf then s.failLane a l 4 else s.parkLane a l 2

/-- Translate one lane at issue. -/
def State.startLane (s : State) (a : Nat) (x : Access) (m : LaneAcc) : State :=
  if m.st ≠ .walk then s
  else s.onXlate a m.lane x (s.xlate x.who.part x.who.ag.site m.ea x.op.writes (64 * a + m.lane))

/-- R312: walk for a lane; R309: a range or another access's walk may meanwhile translate it. -/
def State.pageWalk (s : State) (a l : Nat) : State :=
  match s.acc? a with
  | none => s
  | some x =>
    match x.lane? l with
    | none => s
    | some m =>
      if m.st = .todo && isAperture m.pa then s.sendRemote a l
      else if m.st ≠ .walk then s
      else
        let p := x.who.part
        let y := x.who.ag.site
        match s.xlate p y m.ea x.op.writes (64 * a + l) with
        | .walk =>
          if s.walkHeld p y m.ea then s.postEv .pageWalk { a := a, b := l }
          else match s.walk p y m.ea with
          | none => if x.op = .prf then s.failLane a l 3 else s.parkLane a l 1
          | some e => (s.fillTlb y e).onXlate a l x (e.use m.ea x.op.writes)
        | r => s.onXlate a l x r

/-! ## Issue -/

/-- A lane of an access before its translation. -/
def LaneAcc.new (l : Nat) (ea : Int) (size : Nat) (bytes : List Byte) (mask : List Bool) (z : Word) : LaneAcc :=
  { lane := l, ea := ea, pa := 0, repl := 0, size := size, bytes := bytes, mask := mask, z := z, st := .walk, got := [],
    pois := false, acks := [], qrec := [], qAt := 0 }

/-- R247: the STBARs of the thread that hold a stream. -/
def Thread.gatesFor (t : Thread) (stream : Option Nat) : List (List Nat × Nat) :=
  match stream with
  | none => []
  | some j => (t.stgates.filter (fun g => g.hold.getLsbD j)).map (fun g => (g.accs, g.scope))

/-- An access as it issues, without lanes. -/
def Thread.access (t : Thread) (op : AccOp) (opc : Nat) (lit : Word) (stream : Option Nat) (ord scope : Nat)
    (targets : List Reg) : Access :=
  { op := op, uid := 0, who := t.who opc, seq := t.seq, stream := stream, ord := ord, scope := scope, noalloc := false,
    targets := targets, lanes := [], chain := none, lit := lit, desc := 0, faulted := false, fails := [], recd := false,
    retired := false, gates := t.gatesFor stream }

/-- R253, R254: the lanes with the failures of checks 1 to 3 decided. A failing lane of a prefetch is ignored
(R256). -/
def Access.addLane (x : Access) (m : LaneAcc) (bad : Option Nat) : Access :=
  match bad with
  | none => { x with lanes := x.lanes ++ [m] }
  | some r =>
    if x.op = .prf then x
    else { x with lanes := x.lanes ++ [{ m with st := .done, pois := true }], fails := x.fails ++ [(m.lane, r)], faulted := true }

/-- R415: the lane cell of a lane. -/
def Who.laneCell (w : Who) (l : Nat) : Agent := ⟨w.ag.site, w.lane0 + l⟩

/-- R255: the record of the suppressed lanes of a store or atomic: `src` as the table has it; `ag` is the
lane cell of the first suppressed lane (R415), or the owner of the engine. -/
def Who.poisonRecord (w : Who) (ag : Agent) (src : Nat) (ea : Int) (mask : Word) : List Word :=
  let e := BitVec.ofInt 64 ea
  [w32 (src + (w.opc % 256) * 256 + (w.ip % 256) * 65536), tileid ag, w32 (w.frame.toNat * 4096), w32 w.wave.toNat,
   w32 e.toNat, w32 (e.toNat / 2 ^ 32), mask]

/-- The "poison store" record of an access with suppressed lanes. -/
def State.poisonStore (s : State) (x : Access) : State :=
  if !x.op.writes then s
  else
    let ls := (x.fails.filter (fun e => e.2 = 0)).map (fun e => e.1)
    match x.lanes.find? (fun m => ls.contains m.lane) with
    | none => s
    | some m => s.raise x.who 0x0112 (x.who.poisonRecord (x.who.laneCell m.lane) (if x.op.isAtomic then 1 else 0) m.ea (maskOf ls))

/-- Issue an access of thread `u`: its counter rises, its targets are pending, its lanes translate. With no lane
selected the instruction changes nothing (R83, assumption 46). -/
def State.issueAcc (s : State) (u : Nat) (x : Access) : State :=
  if x.lanes.isEmpty && !x.isResolve then s else
  let a := s.fresh
  let x := { x with uid := u }
  let s := s.bump.modThr u (fun t =>
    let t := match x.op.counter with | none => t | some c => t.addCtr c
    { t with seq := t.seq + 1, pend := t.pend ++ x.targets.map (fun r => (r, a)) })
  let s := (s.setAcc a x).poisonStore x
  let s := x.lanes.foldl (fun s m => s.startLane a x m) s
  s.settleAcc a

/-- R273: an `.sc` access issues only after the thread's previous one has performed at its scope. -/
def State.scHeld (s : State) (u ord : Nat) : Bool :=
  ord == 4 && s.accs.any (fun e => e.2.uid == u && e.2.ord == 4 && !s.accDone e.2 e.2.scope)

/-- The earlier accesses of a thread that a release at a scope covers (R270): streams and atomics. -/
def State.relCover (s : State) (u : Nat) : List Nat :=
  (s.accs.filter (fun e => e.2.uid = u ∧ e.2.stream.isSome ∧ e.2.op ≠ .prf)).map (fun e => e.1)

end Sys2Proof.Machine
end

