-- ==== Sys2Proof/Machine/Memory.lean ====
section
/-! DEFINITION. Groups 0xA and 0xB but for the guyline class: loads, stores, prefetch, barriers, atomics
(R243 to R259), FENCE and FWAIT (R285 to R289). -/

namespace Sys2Proof.Machine

/-- The lanes of an access: `g` builds a selected lane from its number, address and operands, and says
whether it is poisoned; `n` is its size in bytes. -/
def Access.fill (x : Access) (t : Thread) (f : Fields) (base : Int) (n : Nat) (usesB usesZ : Bool)
    (g : Nat → Int → PWord → PWord → LaneAcc × Bool) : Access :=
  t.selLanes.foldl (fun x l =>
    let a := (t.as f).getD l .zero
    let b := (t.bs f).getD l .zero
    let z := (t.zs).getD l .zero
    let ea := eaOf base a.w n
    let r := g l ea b z
    x.addLane r.1 (laneFault (a.pois || (usesB && b.pois) || (usesZ && z.pois) || r.2) ea n)) x

/-- A stream access of the memory control word. -/
def State.memAccess (s : State) (u : Nat) (t : Thread) (f : Fields) (opc : Nat) (op : AccOp) (n : Nat) (usesB usesZ : Bool)
    (targets : List Reg) (g : Nat → Int → PWord → PWord → LaneAcc × Bool) : State :=
  let x := t.access op opc f.lit (some (mStream f.lit)) (mOrd f.lit) (mScope f.lit) targets
  let x := { x with noalloc := mNoalloc f.lit }
  s.issueAcc u (x.fill t f (s.baseOf t (mBase f.lit)) n usesB usesZ g)

/-- A stream access instruction: it waits for R273, then issues. -/
def State.memInstr (s : State) (f : Fields) (m : Form) (body : Nat → Thread → Body) : Out :=
  s.instr f m (fun u t => if s.scHeld u (mOrd f.lit) then .hold s else body u t)

/-- A lane that reads n bytes. -/
def readLane (n : Nat) (l : Nat) (ea : Int) (_b _z : PWord) : LaneAcc × Bool := (.new l ea n [] [] 0, false)

/-- R256, R248. -/
def execLd (f : Fields) (s : State) : Out :=
  s.memInstr f { opc := 0xA0, b := false, ctr := some .ld, counts := Thread.anyLane } (fun u t =>
    let sz := mSize f.lit
    .ok (s.memAccess u t f 0xA0 (.ld (sz == 1 || sz == 3)) (sizeBytes sz) false false (dstRegs f) (readLane (sizeBytes sz)))
      { v := some (t.as f), load := true })

/-- R256; R77, R248: its result is B, poisoned where A or B is. -/
def execSt (f : Fields) (s : State) : Out :=
  s.memInstr f { opc := 0xA1, ctr := some .st, counts := Thread.anyLane } (fun u t =>
    let n := sizeBytes (mSize f.lit)
    .ok (s.memAccess u t f 0xA1 .st n true false [] (fun l ea b _ =>
        (.new l ea n (leBytes n b.w.toNat) (List.replicate n true) 0, false)))
      (.val (taint (t.bs f) (t.as f))))

/-- R256: a hint, without a counter, a record or a fault; its failing lanes are ignored. -/
def execPrf (f : Fields) (s : State) : Out :=
  s.instr f { opc := 0xA4, b := false } (fun u t =>
    .ok (s.memAccess u t f 0xA4 .prf 4 false false [] (readLane 4)) (.val (t.as f)))

/-- R256: the bytes that z selects; R77: the result is poisoned where an operand is. -/
def execStm (f : Fields) (s : State) : Out :=
  s.memInstr f { opc := 0xA9, ctr := some .st, counts := Thread.anyLane } (fun u t =>
    .ok (s.memAccess u t f 0xA9 .stm 4 true true [] (fun l ea b z =>
        (.new l ea 4 (leBytes 4 b.w.toNat) ((List.range 4).map (fun j => z.w.getLsbD j)) 0, false)))
      (.val (taint (taint (t.bs f) (t.as f)) t.zs)))

/-- The thread's earlier accesses in the streams of a mask that have not performed at a scope. -/
def State.pendingIn (s : State) (u : Nat) (mask : BitVec 4) (scope : Nat) : List Nat :=
  (s.accs.filter (fun e => e.2.uid == u && e.2.op != .prf
    && (match e.2.stream with | none => false | some j => mask.getLsbD j) && !s.accDone e.2 scope)).map (fun e => e.1)

/-- R247, R248: `v` keeps its value and the register destinations receive it. -/
def execStbar (f : Fields) (s : State) : Out :=
  s.instr f { opc := 0xA6, a := false, b := false } (fun u t =>
    let scope := fld f.lit 8 3
    let hold : BitVec 4 := BitVec.ofNat 4 (fld f.lit 0 4)
    let accs := s.pendingIn u (BitVec.ofNat 4 (fld f.lit 4 4)) scope
    let keep := t.stgates.filter (fun g => g.accs.any (fun a => !s.performed a g.scope))
    if t.selLanes.isEmpty then .ok s (.val t.zs)
    else if hold = 0 ∨ accs = [] then .ok (s.setThr u { t with stgates := keep }) (.val t.zs)
    else .ok (s.setThr u { t with stgates := keep ++ [⟨hold, accs, scope⟩] }) (.val t.zs))

/-! ## Atomics (R258, R259) -/

/-- An atomic of the word form; ACAS reads z as well. R77: the result is poisoned where an operand is. -/
def State.atomicInstr (s : State) (f : Fields) (opc : Nat) (k : AtKind) (usesZ : Bool) : Out :=
  s.memInstr f { opc := opc, ctr := some .st, counts := Thread.anyLane } (fun u t =>
    .ok (s.memAccess u t f opc (.atomic k) 4 true usesZ (dstRegs f) (fun l ea b z =>
        (.new l ea 4 (leBytes 4 b.w.toNat) (List.replicate 4 true) z.w, false)))
      { v := some (if usesZ then taint (taint (t.bs f) (t.as f)) t.zs else taint (t.bs f) (t.as f)), load := true })

/-- R258. -/
def execAadd (f : Fields) (s : State) : Out := s.atomicInstr f 0xB0 .add false
/-- R258. -/
def execAmin (f : Fields) (s : State) : Out := s.atomicInstr f 0xB1 (.min (mOp f.lit % 2 == 1)) false
/-- R258. -/
def execAmax (f : Fields) (s : State) : Out := s.atomicInstr f 0xB2 (.max (mOp f.lit % 2 == 1)) false
/-- R258. -/
def execAand (f : Fields) (s : State) : Out := s.atomicInstr f 0xB3 .and false
/-- R258. -/
def execAor (f : Fields) (s : State) : Out := s.atomicInstr f 0xB4 .or false
/-- R258. -/
def execAxor (f : Fields) (s : State) : Out := s.atomicInstr f 0xB5 .xor false
/-- R258. -/
def execAxchg (f : Fields) (s : State) : Out := s.atomicInstr f 0xB6 .xchg false
/-- R258. -/
def execAcas (f : Fields) (s : State) : Out := s.atomicInstr f 0xB7 .cas true
/-- R258. -/
def execAfadd (f : Fields) (s : State) : Out := s.atomicInstr f 0xB8 (.fadd (mOp f.lit % 4)) false

/-- R259: an operand that is not canonical, or poisoned, poisons its lane. R77: the result is poisoned where an
operand is. -/
def execAtri (f : Fields) (s : State) : Out :=
  s.memInstr f { opc := 0xB9, ctr := some .st, counts := Thread.anyLane } (fun u t =>
    .ok (s.memAccess u t f 0xB9 (.atomic .tri) 8 true true [] (fun l ea b z =>
        let n := b.w.toNat + z.w.toNat * 2 ^ 32
        (.new l ea 8 (leBytes 8 n) (List.replicate 8 true) z.w, (tri64 n).2)))
      (.val (taint (taint (t.bs f) (t.as f)) t.zs)))

/-- R258, R259: what an atomic leaves in memory. -/
def AtKind.apply (k : AtKind) (old new z : Nat) : Nat :=
  let o := w32 old
  let b := w32 new
  match k with
  | .add => (o + b).toNat
  | .min uns => if (if uns then decide (Zx o ≤ Zx b) else decide (Sx o ≤ Sx b)) then o.toNat else b.toNat
  | .max uns => if (if uns then decide (Zx b ≤ Zx o) else decide (Sx b ≤ Sx o)) then o.toNat else b.toNat
  | .and => (o &&& b).toNat
  | .or => (o ||| b).toNat
  | .xor => (o ^^^ b).toNat
  | .xchg => b.toNat
  | .cas => if old = z then b.toNat else o.toNat
  | .fadd m => (rnd32 m ((F o).add m (F b))).toNat
  | .tri =>
    let a := tri64 old
    let t := (tri64 new).1
    if a.2 then Nat.lor old (2 ^ 63)
    else Tri.store ⟨(a.1.c0 + t.c0) % modulus 0, (a.1.c1 + t.c1) % modulus 1, (a.1.c2 + t.c2) % modulus 2⟩ false

/-! ## FENCE and FWAIT (R285 to R289) -/

/-- R286. -/
def fenceWord (cell : Nat) (gen : BitVec 12) (n : Nat) : Word := w32 (cell * 2 ^ 16 + gen.toNat * 2 ^ 4 + n)

/-- A copy or chain that has not ended: its engine, slot and generation. -/
def State.copyLive (s : State) (c : Site × Nat × Nat) : Bool :=
  match tget (s.site c.1).copies c.2.1 with
  | none => false
  | some k => k.gen.toNat == c.2.2

def State.chainLive (s : State) (c : Site × Nat × Nat) : Bool :=
  match tget (s.site c.1).chains c.2.1 with
  | none => false
  | some k => k.gen.toNat == c.2.2

/-- A matrix instruction still queued or running on an element. -/
def State.matrixLive (s : State) (x : Site) (id : Nat) : Bool :=
  match x with
  | .elem e => ((s.elem e).queue ++ (s.elem e).running.toList).any (fun m => m.id == id)
  | _ => false

/-- R288: a covered access has performed for a fence at a scope; an atomic has also returned. -/
def State.fenceAccDone (s : State) (x : Access) (scope : Nat) : Bool :=
  (!x.op.isAtomic || x.retired) && s.accDone x scope

/-- R288: the accesses of the stream and chain classes that a fence covers. -/
def State.fenceAccs (s : State) (u : Nat) (lit : Word) (scope : Nat) : List (Nat × Access) :=
  let mask : BitVec 4 := BitVec.ofNat 4 (fld lit 0 4)
  let inStream := fun (x : Access) => match x.stream with | none => false | some j => mask.getLsbD j
  let loads := fun (x : Access) => match x.op with | .ld _ => true | .ldmc _ _ _ _ _ _ => true | _ => false
  s.accs.filter (fun e => e.2.uid == u &&
    ((bit lit 8 && e.2.chain.isNone && loads e.2 && inStream e.2)
      || (bit lit 9 && e.2.chain.isNone && e.2.op.writes && inStream e.2)
      || (bit lit 10 && e.2.chain.isSome)) && !s.fenceAccDone e.2 scope)

/-- R287, R288: what a fence of thread `u` covers, and whether a fault of it has been recorded already; the writes of
copies and drains that have completed count while their collapses are not acknowledged. -/
def State.fenceSet (s : State) (u : Nat) (t : Thread) (lit : Word) : FenceEnt :=
  let scope := fld lit 4 3
  let x := t.src.site
  let accs := s.fenceAccs u lit scope
  let v := s.site x
  let cps := if bit lit 11 then v.copies.filter (fun e => e.2.issuer = .thread u) else []
  let chs := if bit lit 11 then v.chains.filter (fun e => e.2.uid = u) else []
  let mxs : List MxInstr := match x with
    | .elem e => if bit lit 12 then ((s.elem e).queue ++ (s.elem e).running.toList).filter (fun m => m.uid = u) else []
    | _ => []
  { owner := some u, accs := accs.map (fun e => e.1),
    copies := cps.map (fun e => (x, e.1, e.2.gen.toNat)), chains := chs.map (fun e => (x, e.1, e.2.gen.toNat)),
    matrix := mxs.map (fun m => m.id),
    owed := (if bit lit 11 then t.cpOwed else []) ++ (if bit lit 12 then t.mxOwed else []), scope := scope,
    faulted := accs.any (fun e => e.2.faulted) || cps.any (fun e => e.2.failed) || chs.any (fun e => e.2.faulted)
      || mxs.any (fun m => m.faulted || m.ranged), gen := 0 }

def FenceEnt.reset : FenceEnt := ⟨none, [], [], [], [], [], 0, false, 0⟩

/-- R287. -/
def execFence (f : Fields) (s : State) : Out :=
  s.instr f { opc := 0xBA, a := false, b := false } (fun u t =>
    let c := s.cell t.src
    if t.selLanes.isEmpty then .ok s {} else
    match (List.range 16).find? (fun n => (tgetD c.fences n .reset).owner.isNone) with
    | none => .ok s (.valP (t.all .zero) (allP t false))
    | some n =>
      let g := (tgetD c.fences n .reset).gen + 1
      let c := { c with fences := tset c.fences n { s.fenceSet u t f.lit with gen := g } }
      .ok (s.setCell t.src c) (.valP (t.all (.ok (fenceWord t.src.cell g n))) (allP t true)))

/-- R288: every covered access has performed. -/
def State.fenceDone (s : State) (x : Site) (e : FenceEnt) : Bool :=
  e.accs.all (fun a => match s.acc? a with | none => true | some y => s.fenceAccDone y e.scope)
    && !e.copies.any s.copyLive && !e.chains.any s.chainLive && !e.matrix.any (s.matrixLive x)
    && !s.owingAt x e.scope e.owed

/-- R286, R289: the entry of the thread's cell that an FWAIT names; the value 0 names none. -/
def State.fenceNamed (s : State) (u : Nat) (t : Thread) (a : Word) : Option Nat :=
  let n := fld a 0 4
  match tget (s.cell t.src).fences n with
  | none => none
  | some e => if e.owner = some u ∧ a = fenceWord t.src.cell e.gen n ∧ a ≠ 0 then some n else none

/-- R289: the result of an FWAIT whose entry is complete, which frees the entry. -/
def State.fenceEnd (s : State) (t : Thread) (n : Nat) : Option (State × Eff) :=
  match tget (s.cell t.src).fences n with
  | none => none
  | some e =>
    if s.fenceDone t.src.site e then
      let s := s.modCell t.src (fun c => { c with fences := tset c.fences n { e with owner := none } })
      some (s, if e.faulted then .valP (t.all (.ok 3)) (allP t false) else .valP (t.all (.ok 1)) (allP t true))
    else none

/-- R289. -/
def execFwait (f : Fields) (s : State) : Out :=
  s.instr f { opc := 0xBB } (fun u t =>
    let a := t.a0 f
    if a.pois then .ok s (.valP (t.all .bad) (allP t false))
    else match s.fenceNamed u t a.w with
      | none => .ok s (.valP (t.all .zero) (allP t false))
      | some n =>
        match s.fenceEnd t n with
        | some r => .ok r.1 r.2
        | none => s.waitOn u t f 0xBB (.fence n) (t.b0 f) none (.val (t.all .zero)))

end Sys2Proof.Machine
end

