-- ==== Sys2Proof/Machine/MemEvents.lean ====
section
/-! DEFINITION. The steps of an access after its issue: reads, writes and atomics at slices (R252, R258,
R269, R291, R296), replicas, their degree and their collapses (R294 to R300), page walks (R312), the return
of data (R249, R250). -/

namespace Sys2Proof.Machine

/-! ## First-level caches (R252) -/

/-- A load that its tile's cache may serve. -/
def Access.cached (x : Access) : Bool :=
  isTile x.who.ag.site && !x.noalloc && decide (x.scope ≤ 1)
    && (match x.op with | .ld _ => true | .box => true | .tri => true | .beam => true | _ => false)

/-- The access fills the cache of its tile. -/
def Access.fills (x : Access) : Bool :=
  isTile x.who.ag.site && !x.noalloc && (match x.op with
    | .ld _ => true | .prf => true | .box => true | .tri => true | .beam => true | _ => false)

/-- The bytes of a line in a tile's cache, unless the line has been replaced (assumption 6). -/
def State.l1Hit (s : State) (x : Access) (pa : Nat) : Option (List Byte) :=
  match tget s.coh.l1 (x.who.ag.site, lineOf pa) with
  | none => none
  | some bs => if x.cached && Config.held s.tick 0 then some bs else none

/-- R252: a first-level cache of 64 KiB holds this many lines. -/
def l1Lines : Nat := 512

/-- A line enters a tile's cache; in a full one it displaces another (assumption 6). -/
def State.setL1 (s : State) (x : Site) (line : Nat) (bs : List Byte) : State :=
  let mine := s.coh.l1.filter (fun e => e.1.1 = x ∧ e.1.2 ≠ line)
  let l1 := if mine.length < l1Lines then s.coh.l1
    else match mine[Config.pick s.tick 3 % mine.length]? with
      | none => s.coh.l1
      | some e => tdel s.coh.l1 e.1
  let bad := (s.memBad.filter (fun a => lineOf a = line)).map (fun a => (x, a))
  { s with coh := { s.coh with l1 := tset l1 (x, line) bs
                               l1Bad := s.coh.l1Bad.filter (fun b => !(b.1 == x && lineOf b.2 == line)) ++ bad } }

/-- R362: some byte of [a, a + n) is under an uncorrectable error in a tile's cache. -/
def State.l1Errs (s : State) (x : Site) : List Nat := (s.coh.l1Bad.filter (fun b => b.1 == x)).map (fun b => b.2)
def State.l1BadAt (s : State) (x : Site) (a n : Nat) : Bool := s.coh.l1Bad.any (fun b => b.1 == x && decide (a ≤ b.2 ∧ b.2 < a + n))

def State.dropL1 (s : State) (x : Site) (line : Nat) : State :=
  { s with coh := { s.coh with l1 := tdel s.coh.l1 (x, line) } }

/-- What a read at its home does to the reader's first-level cache: a class 0 access fills the line; a
class 1 load of `.gang` or `.tile` scope drops a copy, so that R274 holds for later loads of that scope. A multicast
line on its way to the tile takes over what the tile has read. -/
def State.l1After (s : State) (x : Access) (pa : Nat) : State :=
  let y := x.who.ag.site
  let bs := rdN s.mem (lineOf pa * 128) 128
  let newer := fun (s : State) => s.noteNewer y (lineOf pa * 128) bs (fullMask bs)
  if x.fills then newer (s.setL1 y (lineOf pa) bs)
  else if x.noalloc && decide (x.scope ≤ 1) then newer (s.dropL1 y (lineOf pa)) else s

/-! ## The region table (R298, R299) -/

/-- Replicas of a region on one die collapse, and the die leaves the lines' masks. -/
def State.collapseRegion (s : State) (home region die : Nat) : State :=
  let ls := s.coh.lines.filter (fun e => memDie (e.1 * 128) = home ∧ regionOf (e.1 * 128) = region ∧ die ∈ e.2.holders)
  ls.foldl (fun s e =>
    let s : State := { s with coh := { s.coh with lines := tset s.coh.lines e.1 { e.2 with holders := e.2.holders.filter (· ≠ die) } } }
    (s.sendColl e.1 die).1) s

def State.regEnt (s : State) (home region : Nat) : RegEnt := tgetD s.coh.regs (home, region) RegEnt.reset

def State.setReg (s : State) (home region : Nat) (r : RegEnt) : State :=
  { s with coh := { s.coh with regs := tset s.coh.regs (home, region) r } }

/-- Untrack a region: its replicas collapse and it is of degree 0 again. -/
def State.untrack (s : State) (home region : Nat) : State :=
  let s := (s.regEnt home region).holders.foldl (fun s d => s.collapseRegion home region d) s
  { s with coh := { s.coh with regs := tdel s.coh.regs (home, region) } }

/-- The unpinned entry of a die that was used longest ago. -/
def oldestReg (es : Tbl (Nat × Nat) RegEnt) (home : Nat) : Option (Nat × Nat) :=
  let mine := es.filter (fun e => e.1.1 = home ∧ !e.2.pinned)
  (mine.find? (fun e => mine.all (fun f => decide (e.2.last ≤ f.2.last)))).map (fun e => e.1)

/-- R298: room in the table for a region; an untracked one displaces the oldest unpinned entry of a full table. -/
def State.admitReg (s : State) (home region : Nat) : State :=
  if (tget s.coh.regs (home, region)).isSome || decide ((s.coh.regs.filter (fun e => e.1.1 = home)).length < 4096) then s
  else match oldestReg s.coh.regs home with
    | none => s
    | some k => s.untrack k.1 k.2

/-- R298: a replicable read of a region from the compute dies near `from_`. -/
def State.countRead (s : State) (home region from_ : Nat) : State :=
  let s := s.admitReg home region
  let r := s.regEnt home region
  s.setReg home region { r with reads := tset r.reads from_ (tgetD r.reads from_ 0 + 1), last := s.tick }

/-- R291, R298: the domains that have a part of a region. -/
def State.regDoms (s : State) (home region : Nat) : List Nat :=
  let lo := region * 2 ^ 21 % 2 ^ 49
  (List.range 16).filter (fun k =>
    let d := s.dom home k
    decide (max d.base lo < min d.limit (lo + 2 ^ 21)) && d.slices != 0)

/-- R298: the memory dies, but the home, on which a domain of the region has slices. -/
def State.candDies (s : State) (home region : Nat) : List Nat :=
  let ks := s.regDoms home region
  (List.range 4).filter (fun d => decide (d ≠ home) && ks.any (fun k => (s.dom d k).slices != 0))

/-- The die with the most reads, the lower code on a tie. -/
def mostRead (r : RegEnt) (ds : List Nat) : Option Nat :=
  ds.find? (fun d => ds.all (fun e => decide (tgetD r.reads e 0 ≤ tgetD r.reads d 0)))

/-- The die with the fewest reads, the higher code on a tie. -/
def leastRead (r : RegEnt) (ds : List Nat) : Option Nat :=
  ds.reverse.find? (fun d => ds.all (fun e => decide (tgetD r.reads d 0 ≤ tgetD r.reads e 0)))

/-- Region events count at the slice that homes the region's first line (R301). -/
def State.regSlice (s : State) (region : Nat) : Nat := s.homeOr (region * 2 ^ 21)

/-- R298: raise the degree by one holder. -/
def State.raiseReg (s : State) (home region : Nat) (ds : List Nat) : State :=
  let r := s.regEnt home region
  match mostRead r (ds.filter (fun d => d ∉ r.holders)) with
  | none => s
  | some d =>
    (s.setReg home region { r with degree := r.degree + 1, holders := r.holders ++ [d] }).modSlice (s.regSlice region)
      (fun v => { v with raise := v.raise + 1 })

/-- R298: drop the holder with the fewest reads; its replicas of the region collapse. -/
def State.lowerReg (s : State) (home region : Nat) : State :=
  let r := s.regEnt home region
  match leastRead r ((List.range 4).filter (fun d => d ∈ r.holders)) with
  | none => s.setReg home region { r with degree := r.degree - 1 }
  | some d =>
    let s := s.setReg home region { r with degree := r.degree - 1, holders := r.holders.filter (· ≠ d) }
    (s.collapseRegion home region d).modSlice (s.regSlice region) (fun v => { v with lower := v.lower + 1 })

/-- R299: holders up to a pinned degree, by the order of a raise while there are candidates; dropped ones at once. -/
def State.toDegree (s : State) (home region d : Nat) : Nat → State
  | 0 => s
  | n + 1 =>
    let r := s.regEnt home region
    if r.holders.length < d then (s.raiseReg home region (s.candDies home region)).toDegree home region d n
    else if d < r.holders.length then (s.lowerReg home region).toDegree home region d n
    else s

/-- R299: what the replication attribute of a replicable read does at its home. -/
def State.pin (s : State) (home region repl : Nat) : State :=
  let r := s.regEnt home region
  let full := decide (1024 ≤ (s.coh.regs.filter (fun e => e.1.1 = home ∧ e.2.pinned)).length)
  if repl = 0 ∨ 4 < repl ∨ (full ∧ !r.pinned) then
    (if r.pinned then s.setReg home region { r with pinned := false } else s)
  else
    let s := s.admitReg home region
    let s := (s.setReg home region { r with pinned := true, last := s.tick }).toDegree home region (repl - 1) 4
    s.setReg home region { s.regEnt home region with degree := repl - 1 }

/-- R298: the step of one entry at a window's end; its counts return to zero. -/
def State.windowReg (s : State) (home region : Nat) (r : RegEnt) : State :=
  let reads := (r.reads.map (fun e => e.2)).foldl (· + ·) 0
  let cands := (s.candDies home region).filter (fun d => decide (64 ≤ tgetD r.reads d 0))
  let s :=
    if r.pinned then s
    else if r.degree < cands.length ∧ 8 * r.colls ≤ reads then s.raiseReg home region cands
    else if 0 < r.degree ∧ reads < 2 * r.colls then s.lowerReg home region
    else s
  s.setReg home region { s.regEnt home region with reads := [], colls := 0 }

/-- The window's length. -/
def windowCycles : Nat := 65536

/-- Acts on a = memory die, b = the cycle in which its window ends. -/
def execRegionWindow (s : State) : Out :=
  if s.cycle < s.subj.b then .next (s.postEv .regionWindow s.subj)
  else
    let die := s.subj.a
    let s' := (s.coh.regs.filter (fun e => e.1.1 = die)).foldl (fun s e => s.windowReg die e.1.2 e.2) s
    .next (s'.postEv .regionWindow { a := die, b := s.subj.b + windowCycles })

/-! ## Reads -/

/-- The reader's thread has read the line at its home although collapses to its nearest die are on the way. -/
def State.markSeen (s : State) (u die line : Nat) : State :=
  { s with coh := { s.coh with colls := s.coh.colls.map (fun c =>
      if c.die = die ∧ c.line = line then { c with seen := c.seen ++ [u] } else c) } }

/-- R294, R297, R422: the home sends a fill to the reader's nearest die if that die is a holder, with the reply of
access `acc` behind it. A line that its home is about to evict sends the collapse after it (R295). -/
def State.sendFill (s : State) (die line acc : Nat) : State :=
  let home := memDie (line * 128)
  let r := s.regEnt home (regionOf (line * 128))
  let sl := (s.domainOf (line * 128)).bind (fun k => s.sliceOn die k (line * 128))
  match sl, tget s.coh.lines line with
  | some _, some x =>
    if die ∉ r.holders then s
    else
      let hs := if die ∈ x.holders then x.holders else x.holders ++ [die]
      let k : Fill := { die := die, line := line, bytes := rdN s.mem (line * 128) 128, discard := false, acc := acc,
                        bad := s.memBad.filter (fun a => lineOf a = line) }
      let s := ({ s with coh := { s.coh with lines := tset s.coh.lines line { x with holders := hs }
                                             fills := tset s.coh.fills s.fresh k } }.bump).postEv .replicaFill { a := s.fresh }
      if x.leaving then (s.collapseLine line).1 else s
  | _, _ => s

/-- R362: an uncorrectable error under a read: the lane fails with a "memory error" record. A prefetch raises none
(R256). -/
def State.readError (s : State) (a l : Nat) (x : Access) (pa : Nat) : State :=
  let s := if x.op = .prf ∨ x.fails.any (fun e => e.2 = 9) then s
    else s.raise x.who 0x0117 (x.who.details 0 [w32 pa, w32 (pa / 2 ^ 32)])
  s.failLane a l 9

/-- A lane is served from its home slice. -/
def State.readAtHome (s : State) (a l : Nat) (x : Access) (m : LaneAcc) (via : Bool) : State :=
  match s.laneLine a l x m with
  | none => s.postEv .sliceRead { a := a, b := l, c := if via then 1 else 0 }
  | some s =>
    let line := lineOf m.pa
    let near := nearest (dieOf x.who.ag.site)
    let home := memDie m.pa
    let s := if x.replicable then s.pin home (regionOf m.pa) m.repl else s
    let s := if via then s.sendFill near line a else s
    let s := s.markSeen x.uid near line
    if s.badAt m.pa m.size then s.readError a l x (firstErr s.memBad m.pa m.size)
    else (s.l1After x m.pa).finishLane a l (rdN s.mem m.pa m.size) false []

/-- R252, R291: a read arrives where it is served: its tile's cache or its home slice. -/
def State.sliceRead (s : State) (a l : Nat) (via : Bool) : State :=
  match s.acc? a with
  | none => s
  | some x =>
    match x.lane? l with
    | none => s
    | some m =>
      if m.st ≠ .todo then s
      else if !s.mayPerform x m then s.postEv .sliceRead { a := a, b := l, c := if via then 1 else 0 }
      else match s.place m.pa with
        | .lost => s.failLane a l 5
        | .nowhere => s.failLane a l 3
        | _ =>
          match s.l1Hit x m.pa with
          | some bs =>
            if s.l1BadAt x.who.ag.site m.pa m.size then s.readError a l x (firstErr (s.l1Errs x.who.ag.site) m.pa m.size)
            else s.finishLane a l ((bs.drop (m.pa % 128)).take m.size) false []
          | none => s.readAtHome a l x m via

/-- Acts on a = access, b = lane, c = 1 when it came through the nearest memory die. -/
def execSliceRead (s : State) : Out := .next (s.sliceRead s.subj.a s.subj.b (s.subj.c == 1))

/-- R294, R298: a replicable read at the reader's nearest memory die. What it leaves in the first-level cache is
the line as the home has it, so that a stale replica never takes a cache back behind a write (R274; assumption 31). -/
def State.replicaRead (s : State) (a l : Nat) : State :=
  match s.acc? a with
  | none => s
  | some x =>
    match x.lane? l with
    | none => s
    | some m =>
      let near := nearest (dieOf x.who.ag.site)
      let home := memDie m.pa
      let line := lineOf m.pa
      if m.st ≠ .todo then s
      else if !s.mayPerform x m then s.postEv .replicaRead { a := a, b := l }
      else if near = home then s.sliceRead a l false
      else match s.place m.pa with
      | .lost => s.failLane a l 5
      | .nowhere => s.failLane a l 3
      | _ =>
        let s := s.countRead home (regionOf m.pa) near
        match tget s.coh.replicas (near, line) with
        | none => s.postEv .sliceRead { a := a, b := l, c := 1 }
        | some r =>
          let owed := s.coh.colls.filter (fun c => c.die = near ∧ c.line = line)
          if owed.any (fun c => c.seen.contains x.uid && decide (r.id < c.id)) then s.postEv .sliceRead { a := a, b := l, c := 1 }
          else
            let s := s.modSlice (s.replicaSlice near line) (fun v => { v with rhit := v.rhit + 1 })
            if r.bad.any (fun b => decide (m.pa ≤ b ∧ b < m.pa + m.size)) then s.readError a l x (firstErr r.bad m.pa m.size)
            else
            let s := if x.fills then s.l1After x m.pa else s
            s.finishLane a l ((r.bytes.drop (m.pa % 128)).take m.size) false []

/-- Acts on a = access, b = lane. -/
def execReplicaRead (s : State) : Out := .next (s.replicaRead s.subj.a s.subj.b)

/-! ## Writes -/

/-- R268, R296: a store lane performs at its home slice. -/
def State.writePerform (s : State) (a l : Nat) : State :=
  match s.acc? a with
  | none => s
  | some x =>
    match x.lane? l with
    | none => s
    | some m =>
      if m.st ≠ .todo then s
      else if !s.mayPerform x m then s.postEv .writePerform { a := a, b := l }
      else match s.place m.pa with
        | .lost => s.failLane a l 5
        | .nowhere => s.failLane a l 3
        | _ =>
          match s.laneLine a l x m with
          | none => s.postEv .writePerform { a := a, b := l }
          | some s =>
            let r := s.writeHome (some x.who.ag.site) m.pa m.bytes m.mask
            r.1.finishLane a l [] false r.2

/-- Acts on a = access, b = lane. -/
def execWritePerform (s : State) : Out := .next (s.writePerform s.subj.a s.subj.b)

/-- R258, R259: an atomic lane performs at its home slice, lanes of one line in ascending order. -/
def State.atomicPerform (s : State) (a l : Nat) : State :=
  match s.acc? a with
  | none => s
  | some x =>
    match x.lane? l, x.op with
    | some m, .atomic k =>
      if m.st ≠ .todo then s
      else if !s.mayPerform x m then s.postEv .atomicPerform { a := a, b := l }
      else match s.place m.pa with
        | .lost => s.failLane a l 5
        | .nowhere => s.failLane a l 3
        | _ =>
          match s.laneLine a l x m with
          | none => s.postEv .atomicPerform { a := a, b := l }
          | some s =>
            if s.badAt m.pa m.size then s.readError a l x (firstErr s.memBad m.pa m.size)
            else
              let old := rdN s.mem m.pa m.size
              let new := leBytes m.size (k.apply (leNat old) (leNat m.bytes) m.z.toNat)
              let r := s.writeHome (some x.who.ag.site) m.pa new (fullMask new)
              r.1.finishLane a l old false r.2
    | _, _ => s

/-- Acts on a = access, b = lane. -/
def execAtomicPerform (s : State) : Out := .next (s.atomicPerform s.subj.a s.subj.b)

/-! ## Fills, collapses, evictions -/

/-- R297: a fill arrives at its holder, the fills of a line in the order in which the home sent them: written, or
discarded after a crossing collapse. The slice makes room for it, and may evict a replica at another time
(assumption 6). -/
def State.replicaFill (s : State) (n : Nat) : State :=
  match tget s.coh.fills n with
  | none => s
  | some k =>
    if s.coh.fills.any (fun e => decide (e.1 < n) && e.2.die == k.die && e.2.line == k.line) then s.postEv .replicaFill { a := n }
    else
    let s : State := { s with coh := { s.coh with fills := tdel s.coh.fills n } }
    if k.discard then s
    else
      let sl := s.replicaSlice k.die k.line
      let s := s.makeRoom sl k.line 1
      let s : State := { s with coh := { s.coh with replicas := tset s.coh.replicas (k.die, k.line) ⟨n, k.bytes, k.bad⟩ } }
      let s := s.modSlice sl (fun v => { v with rfill := v.rfill + 1 })
      if Config.held s.tick 3 then s
      else match ((s.coh.replicas.filter (fun e => e.1.1 = k.die)).map (fun e => e.1.2))[Config.pick s.tick 3 % s.coh.replicas.length]? with
        | none => s
        | some l => s.postEv .replicaEvict { a := k.die, b := l }

/-- Acts on a = fill. -/
def execReplicaFill (s : State) : Out := .next (s.replicaFill s.subj.a)

/-- R296, R297, R300: a collapse reaches its holder unless the link still sleeps. -/
def State.collapseArrives (s : State) (die line id : Nat) : State :=
  if !s.coh.colls.any (fun c => c.id = id) then s
  else if s.linkAsleep (12 + memDie (line * 128)) (12 + die) then s.postEv .collapse { a := die, b := line, c := id }
  else
    let fills := s.coh.fills.map (fun e => if e.2.die = die ∧ e.2.line = line ∧ e.1 < id then (e.1, { e.2 with discard := true }) else e)
    let colls := s.coh.colls.map (fun c => if c.id = id then { c with arrived := true } else c)
    { s with coh := { s.coh with replicas := tdel s.coh.replicas (die, line), fills := fills, colls := colls } }.postEv .collapseAcknowledge { a := die, b := line, c := id }

/-- Acts on a = memory die, b = line, c = the collapse. -/
def execCollapse (s : State) : Out := .next (s.collapseArrives s.subj.a s.subj.b s.subj.c)

/-- R301: the cycles that a slice's collapses now under way have been unacknowledged and that are not yet counted. -/
def State.waitNow (s : State) (slice : Nat) : Nat :=
  s.cycle - (s.coh.colls.filter (fun d => s.homeOr (d.line * 128) = slice)).foldl (fun m d => min m d.since) s.cycle

/-- R301: the cycles a slice has had a collapse unacknowledged, as the oldest one goes. -/
def State.countWait (s : State) (c : Coll) : State :=
  let n := s.homeOr (c.line * 128)
  let rest := s.coh.colls.filter (fun d => d.id ≠ c.id ∧ s.homeOr (d.line * 128) = n)
  let t := rest.foldl (fun m d => min m d.since) s.cycle
  if c.since ≤ t then s.modSlice n (fun v => { v with cwait := v.cwait + w32 (t - c.since) }) else s

/-- R268, R278: collapses count as acknowledged: what waited for them is looked at again. -/
def State.acked (s : State) (ids : List Nat) : State :=
  let gone := s.coh.colls.filter (fun c => ids.contains c.id)
  let s := gone.foldl (fun s c =>
    let s := s.countWait c
    { s with coh := { s.coh with colls := s.coh.colls.filter (fun d => d.id ≠ c.id) } }) s
  let s := s.endEvictions
  let s := (s.accs.filter (fun e => e.2.lanes.any (fun l => l.acks.any ids.contains))).foldl (fun s e => s.settleAcc e.1) s
  (s.threads.filter (fun e => e.2.stat = .wait)).foldl (fun s e => s.postEv .waitTest { a := e.1 }) s

/-- Acts on a = memory die, b = line, c = the collapse. -/
def execCollapseAcknowledge (s : State) : Out := .next (s.acked [s.subj.c])

/-- Acts on a = memory die, b = line. -/
def execReplicaEvict (s : State) : Out := .next (s.replicaEvict s.subj.a s.subj.b)

/-- Acts on a = access, b = lane. -/
def execPageWalk (s : State) : Out := .next (s.pageWalk s.subj.a s.subj.b)

/-! ## The return of data (R249, R250, R256) -/

/-- R256: the word that a load's bytes give. -/
def loadWord (signed : Bool) (bs : List Byte) : Word :=
  if signed then wrap32 (sxN (8 * bs.length) (leNat bs)) else w32 (leNat bs)

/-- What a load target of a lane receives. The result of a test or a texture request keeps its value bits under
poison (R383). -/
def Access.value (x : Access) (m : LaneAcc) : PWord :=
  match x.op with
  | .box | .tri | .beam | .tex _ => ⟨w32 (leNat m.got), m.pois⟩
  | .ld sg => if m.pois then .bad else .ok (loadWord sg m.got)
  | _ => if m.pois then .bad else .ok (w32 (leNat m.got))

/-- R249: write the returned words to the load targets; they and the lane file are no longer held. -/
def Thread.receive (t : Thread) (a : Nat) (x : Access) : Thread :=
  let lanes := t.lanes.mapIdx (fun l y =>
    match x.lane? l with
    | none => y
    | some m => x.targets.foldl (fun y r => y.setReg r (x.value m)) y)
  { t with lanes := lanes, pend := t.pend.filter (fun e => e.2 ≠ a), lfPend := t.lfPend.filter (· ≠ a) }

/-- The data of an access can return. -/
def State.returns (s : State) (a : Nat) (x : Access) : Bool :=
  !x.retired && x.lanes.all (fun m => m.st == .done) && s.accDone x x.scope && !s.fillAhead a

/-- R249, R250: the data of a load or atomic returns. -/
def State.returnData (s : State) (a : Nat) (x : Access) : State :=
  ((s.modThr x.uid (fun t => t.receive a x)).retire a x).settleAcc a

end Sys2Proof.Machine
end

