-- ==== Sys2Proof/Machine/Chains.lean ====
section
/-! DEFINITION. Guyline chains: LDC, STC, CHNOPN, CHNCLS and the steps at a chain's home (R260 to R265). -/

namespace Sys2Proof.Machine

/-! ## Handles and homes (R260) -/

def chainHash (h : Word) : Nat := (h * 0x9E3779B9).toNat / 2 ^ 16
def chainNum (h : Word) : Nat := fld h 0 8
def chainHandle (n : Nat) (gen : BitVec 16) : Word := w32 (gen.toNat * 2 ^ 8 + n)

/-- The partition's lowest-numbered interleave domain. -/
def Part.lowDomain (v : Part) : Option Nat := (List.range 16).find? (fun k => v.doms.getLsbD k)

/-- R260: the slices of a domain over all four memory dies, in (die, slice) order. -/
def State.domSlices (s : State) (k : Nat) : List Nat :=
  (List.range 4).flatMap (fun d => (setBits (s.dom d k).slices).map (fun b => 16 * d + b))

/-- R260: the home of a chain handle; none while the domain holds no slice. -/
def State.chainHome (s : State) (p : Nat) (h : Word) : Option Nat :=
  match (s.part p).lowDomain with
  | none => none
  | some k =>
    let sl := s.domSlices k
    sl[chainHash h % sl.length]?

/-- R260: the open chain that a handle names. -/
def State.chainOf (s : State) (p : Nat) (h : Word) : Option (Nat × Chain) :=
  match tget (s.part p).chains (chainNum h) with
  | none => none
  | some c => if c.isOpen ∧ chainHandle (chainNum h) c.gen = h then some (chainNum h, c) else none

def State.setChain (s : State) (p n : Nat) (c : Chain) : State :=
  s.modPart p (fun v => { v with chains := tset v.chains n c })

def State.modChain (s : State) (p n : Nat) (f : Chain → Chain) : State :=
  s.modPart p (fun v => { v with chains := tmod v.chains n f })

/-! ## The "chain" fault (R262, R263) -/

/-- R262: detail words 0 to 5; R263: the reason in word 6. -/
def chainDetails (w : Who) (c : ChainRef) (entries reason : Nat) : List Word :=
  [w32 (c.own + c.pred * 2 ^ 8 + c.succ * 2 ^ 16 + (w.opc % 256) * 2 ^ 24), c.handle, tileid w.ag, w32 (w.ip % 256),
   w32 (w.frame.toNat * 4096), w32 (w.wave.toNat + entries * 2 ^ 16), w32 reason]

/-- R263, R264, R359: a chain access ends without performing: its targets take zero, poisoned, and its
counter falls. -/
def State.endChainAcc (s : State) (a : Nat) : State :=
  let s := s.noteFault a
  (s.modAcc a (fun x => { x with lanes := x.lanes.map (fun m => { m with st := .done, pois := true }) })).settleAcc a

/-- A dropped access with its fault. -/
def State.dropChainAcc (s : State) (a : Nat) (x : Access) (c : ChainRef) (entries reason : Nat) : State :=
  (s.raise x.who 0x0113 (chainDetails x.who c entries reason)).endChainAcc a

/-! ## LDC and STC -/

/-- The load targets of the selected lanes take zero, poisoned (R263). -/
def Thread.badTargets (t : Thread) (rs : List Reg) : Thread :=
  { t with lanes := t.lanes.mapIdx (fun l y => if t.selected l then rs.foldl (fun y r => y.setReg r .bad) y else y) }

/-- R261: a chain access: its lanes form one entry and meet R243 as they perform. -/
def State.chainInstr (s : State) (f : Fields) (m : Form) (store : Bool) : Out :=
  s.instr f m (fun u t =>
    let h := t.b0 f
    let r := if store then t.zs else t.as f
    if h.pois then
      let t' := if store then t else t.badTargets (dstRegs f)
      .ok (s.setThr u t') { v := some (r.map (fun w => { w with pois := true })), load := !store }
    else if t.selLanes.isEmpty then .ok s { load := !store }
    else
      let a := s.fresh
      let base := s.baseOf t (fld f.lit 24 3)
      let lane := fun (l : Nat) =>
        let x := (t.as f).getD l .zero
        let z := (t.zs).getD l .zero
        let bs := if store then leBytes 4 z.w.toNat else []
        { LaneAcc.new l (eaOf base x.w 4) 4 bs (fullMask bs) 0 with pois := x.pois || (store && z.pois) }
      let x := t.access (if store then .st else .ld false) m.opc f.lit none 0 0 (if store then [] else dstRegs f)
      let c : ChainRef := { handle := h.w, own := fld f.lit 0 8, pred := fld f.lit 8 8, succ := fld f.lit 16 8,
                            arrived := false, released := false, active := false }
      let x := { x with uid := u, lanes := t.selLanes.map lane, chain := some c }
      let s := (s.bump.modThr u (fun t =>
        { (if store then t.addCtr .st else t.addCtr .ld) with seq := t.seq + 1, pend := t.pend ++ x.targets.map (fun r => (r, a)) })).setAcc a x
      .ok (s.postEv .chainAccessArrival { a := a }) { v := some r, load := !store })

/-- R256, R261. -/
def execLdc (f : Fields) (s : State) : Out :=
  s.chainInstr f { opc := 0xA2, ctr := some .ld, counts := fun t => !(t.b0 f).pois && t.anyLane } false
/-- R256, R261. -/
def execStc (f : Fields) (s : State) : Out :=
  s.chainInstr f { opc := 0xA3, ctr := some .st, counts := fun t => !(t.b0 f).pois && t.anyLane } true

/-! ## CHNOPN and CHNCLS (R264) -/

/-- What the save area of a CHNOPN meets: a wait for its translation, a "memory address" reason, or none. -/
inductive SaveCheck
  | miss (ea : Int)
  | bad (reason : Nat)
  | ok
  deriving DecidableEq, Repr

/-- R264: the 16 KiB save area must lie in range, aligned to words, and be mapped writable, not
copy-on-write. -/
def State.saveCheck (s : State) (t : Thread) (ea : Int) : SaveCheck :=
  match (match laneFault false ea 4 with | some r => some r | none => laneFault false (ea + 16380) 4) with
  | some r => .bad r
  | none =>
    let one := fun (e : Int) =>
      match (s.part t.part).rangeFor e with
      | some r => if r.write then SaveCheck.ok else .bad 4
      | none => match s.walk t.part t.src.site e with
        | none => .miss e
        | some q => if q.write then .ok else .bad 4
    match one ea with
    | .ok => one (ea + 16383)
    | c => c

/-- R307, R317: the check of the save area is held. -/
def State.saveHeld (s : State) (t : Thread) (f : Fields) : Bool :=
  let ea := eaOf (s.baseOf t (fld f.lit 0 3)) (t.a0 f).w 4096
  [ea, ea + 16383].any (fun e => if ((s.part t.part).rangeFor e).isNone then s.walkHeld t.part t.src.site e else (s.part t.part).staging)

/-- R264: the lowest free chain number whose home can reserve the share. -/
def State.freeChain (s : State) (p : Nat) : Option Nat :=
  (List.range 256).find? (fun n => !(tgetD (s.part p).chains n Chain.reset).isOpen)

/-- The shares reserved on a slice. -/
def State.sharesOn (s : State) (slice : Nat) : Nat :=
  (s.parts.flatMap (fun e => (e.2.chains.filter (fun c => c.2.isOpen ∧ c.2.home = slice)).map (fun c => c.2.share))).foldl (· + ·) 0

/-- A CHNOPN that fails: nothing reserved, r zero, `p` clear. -/
def openFail (t : Thread) : Eff := .valP (t.all .zero) (allP t false)

/-- R264: open a chain at a save area that has passed. -/
def State.openChain (s : State) (t : Thread) (lit : Word) (ea : Int) : State × Eff :=
  match s.freeChain t.part with
  | none => (s, openFail t)
  | some n =>
    let c := tgetD (s.part t.part).chains n Chain.reset
    let h := chainHandle n c.gen
    let share := fld lit 6 7
    match s.chainHome t.part h with
    | none => (s, openFail t)
    | some home =>
      if 512 < s.sharesOn home + share then (s, openFail t)
      else
        let c : Chain := { c with isOpen := true, scope := fld lit 3 3, share := share, save := ea, w := t.wave - 1, s := none,
                                  l := 254, held := [], released := [], home := home, closing := none, saved := false,
                                  stall := 0, who := none }
        (s.setChain t.part n c, .valP (t.all (.ok h)) (allP t true))

/-- R264, R254: check the save area and open; none while the area's translation must be served first. -/
def State.tryOpen (s : State) (t : Thread) (f : Fields) : State × Option Eff :=
  let ea := eaOf (s.baseOf t (fld f.lit 0 3)) (t.a0 f).w 4096
  match s.saveCheck t ea with
  | .bad r => (s.raise (t.who 0xA7) 0x0111 ((t.who 0xA7).details r [0, 1]), some (openFail t))
  | .miss _ => (s, none)
  | .ok => let r := s.openChain t f.lit ea; (r.1, some r.2)

/-- R312: the save area's page has no valid entry: a replayable record, and the thread waits. -/
def State.openMiss (s : State) (u : Nat) (t : Thread) (f : Fields) : Body :=
  let ea := eaOf (s.baseOf t (fld f.lit 0 3)) (t.a0 f).w 4096
  let full := s.tqFull t.part
  let s := s.raise (t.who 0xA7) 0x0001 ((t.who 0xA7).details 0 []) (some (.open_ u)) ea
  .ok (s.setThr u (t.waiting .unit none f 0xA7)) { susp := some (if full then .record else .reply) }

/-- R264. -/
def execChnopn (f : Fields) (s : State) : Out :=
  s.instr f { opc := 0xA7, b := false } (fun u t =>
    if (t.a0 f).pois then .ok s (openFail t)
    else if t.selLanes.isEmpty then .ok s {}
    else if s.saveHeld t f then .hold s
    else match s.tryOpen t f with
      | (s', some e) => .ok s' e
      | (_, none) => s.openMiss u t f)

/-- A tile named by nine bits as die, column, row. -/
def tileOfBits (w : Word) : Nat := fld w 0 9

/-- The semaphore that CHNCLS names, and whether it can be reached (R230, R264). -/
def State.closeSem (s : State) (t : Thread) (lit z : Word) : Site × Bool :=
  if bit lit 6 then (.tile (tileOfBits z), s.reaches t.part (.tile (tileOfBits z)))
  else (t.src.site, !isElem t.src.site)

/-- A close of this handle is already on its way or waiting (R264). -/
def State.closing (s : State) (p : Nat) (h : Word) (c : Chain) : Bool :=
  c.closing.isSome || s.closes.any (fun e => e.2.part == p && e.2.handle == h)

/-- R264. DESIGN CHOICE (assumption 50): a close has no number of its own, no predecessor and no successor, and its
fault's detail word 0 holds zeros for them. -/
def execChncls (f : Fields) (s : State) : Out :=
  s.instr f { opc := 0xA8 } (fun _ t =>
    let a := t.a0 f
    let b := t.b0 f
    let z := t.z0
    let w := t.who 0xA8
    let bad := a.pois || b.pois || (bit f.lit 6 && z.pois)
    let c : ChainRef := { handle := a.w, own := 0, pred := 0, succ := 0, arrived := false, released := false, active := false }
    let refuse := fun (e : Eff) =>
      let n := match s.chainOf t.part a.w with | none => 0 | some x => x.2.held.length
      Body.ok (s.raise w 0x0113 (chainDetails w c n 2)) e
    if t.selLanes.isEmpty then .ok s {}
    else if bad then refuse (.val ((t.as f).map (fun x => { x with pois := true })))
    else match s.chainOf t.part a.w with
      | none => refuse (.val (t.as f))
      | some (_, ch) =>
        if s.closing t.part a.w ch then refuse (.val (t.as f))
        else
          let q := s.closeSem t f.lit z.w
          let n := s.fresh
          let m : CloseMsg := { part := t.part, handle := a.w, wave := BitVec.ofNat 16 (fld b.w 8 16), own := fld b.w 0 8,
                                site := q.1, sem := fld f.lit 0 6, ok := q.2, who := w }
          .ok (({ s with closes := tset s.closes n m }.bump).postEv .chainCloseArrival { a := n }) (.val (t.as f)))

/-! ## At the home (R261 to R264) -/

/-- R261: an access of wave w may be released after the chain's last one. -/
def Chain.releasable (c : Chain) (w : BitVec 16) (own pred : Nat) : Bool :=
  if pred = 254 then c.l == 254 && w == c.w + 1
  else if pred = 255 then c.w == w && c.l == own
  else c.w == w && c.s == some pred

/-- R261: the cycles in which a slice has a chain in a gap stall, as the oldest stall ends. -/
def State.endStall (s : State) (p n : Nat) (c : Chain) : State :=
  let others := s.parts.flatMap (fun e => (e.2.chains.filter (fun d => d.2.home = c.home ∧ d.2.held ≠ [] ∧ ¬ (e.1 = p ∧ d.1 = n))).map (fun d => d.2.stall))
  let t := others.foldl (fun m d => min m d) s.cycle
  if c.stall ≤ t then s.modSlice c.home (fun v => { v with gapcyc := v.gapcyc + w32 (t - c.stall) }) else s

/-- R261: the cycles that a slice's gap stalls in progress have lasted and that are not yet counted. -/
def State.stallNow (s : State) (slice : Nat) : Nat :=
  let from_ := (s.parts.flatMap (fun e => (e.2.chains.filter (fun d => d.2.home = slice ∧ d.2.held ≠ [])).map (fun d => d.2.stall))).foldl
    (fun m d => min m d) s.cycle
  s.cycle - from_

/-- R261: release one access: it becomes (W, S, L). -/
def State.releaseAcc (s : State) (p n a : Nat) (x : Access) (r : ChainRef) (c : Chain) : State :=
  let s := s.setChain p n { c with w := x.who.wave, s := some r.own, l := r.succ, released := c.released ++ [a],
                                   held := c.held.filter (· ≠ a) }
  let s := s.modAcc a (fun x => { x with scope := c.scope, chain := some { r with arrived := true, released := true } })
  s.postEv .chainAccessArrival { a := a }

/-- R261: release held entries until none has become releasable. -/
def State.cascade (s : State) (p n : Nat) : Nat → State
  | 0 => s
  | k + 1 =>
    match tget (s.part p).chains n with
    | none => s
    | some c =>
      match c.held.findSome? (fun a => (s.acc? a).bind (fun x => x.chain.bind (fun r =>
          if c.releasable x.who.wave r.own r.pred then some (a, x, r) else none))) with
      | none => s
      | some (a, x, r) =>
        let s := s.releaseAcc p n a x r c
        let s := if (c.held.filter (· ≠ a)).isEmpty then s.endStall p n c else s
        s.cascade p n k

/-- R263: the access repeats a held entry or the last released one. -/
def State.chainDup (s : State) (c : Chain) (w : BitVec 16) (own : Nat) : Bool :=
  (c.w == w && c.s == some own) ||
  c.held.any (fun a => match s.acc? a with
    | none => false
    | some y => y.who.wave == w && (match y.chain with | none => false | some r => r.own == own))

/-- R261 to R263: an access reaches the home. -/
def State.chainArrive (s : State) (a : Nat) (x : Access) (r : ChainRef) : State :=
  let p := x.who.part
  match s.chainOf p r.handle with
  | none => s.dropChainAcc a x r 0 2
  | some (n, c) =>
    if s.chainDup c x.who.wave r.own then s.dropChainAcc a x r c.held.length 1
    else if c.releasable x.who.wave r.own r.pred then
      (s.releaseAcc p n a x r c).cascade p n 512
    else if c.held.length < c.share then
      let s := if c.held = [] then s.modSlice c.home (fun v => { v with gaps := v.gaps + 1 }) else s
      let s := s.setChain p n { c with held := c.held ++ [a], stall := if c.held = [] then s.cycle else c.stall }
      s.modAcc a (fun x => { x with chain := some { r with arrived := true } })
    else (s.modAcc a (fun x => { x with chain := some { r with arrived := true } })).postEv .guylineOverflow { a := a }

/-- R263: a released access performs once every access released before it has performed at the chain's
scope. -/
def State.chainTurn (s : State) (a : Nat) (x : Access) (r : ChainRef) : State :=
  let p := x.who.part
  let n := chainNum r.handle
  match tget (s.part p).chains n with
  | none => s
  | some c =>
    let before := c.released.takeWhile (· ≠ a)
    if before.any (fun b => !s.performed b c.scope) then s.postEv .chainAccessArrival { a := a }
    else
      let s := s.setChain p n { c with released := c.released.dropWhile (· ≠ a) }
      let faults := x.lanes.filterMap (fun m => (laneFault m.pois m.ea m.size).map (fun e => (m.lane, e)))
      let lanes := x.lanes.map (fun m => if faults.any (fun e => e.1 = m.lane) then { m with st := .done, pois := true } else m)
      let x := { x with lanes := lanes, fails := faults, chain := some { r with active := true } }
      let s := s.setAcc a x
      let s := if faults = [] then s else s.noteFault a
      let sup := (faults.filter (fun e => e.2 = 0)).map (fun e => e.1)
      let s := match (if x.op.writes then x.lanes.find? (fun m => sup.contains m.lane) else none) with
        | none => s
        | some m => s.raise x.who 0x0112 (x.who.poisonRecord (x.who.laneCell m.lane) 5 m.ea (maskOf sup))
      (x.lanes.foldl (fun s m => s.startLane a x m) s).settleAcc a

/-- R263: the accesses of one thread to one home arrive in issue order; R270: after its earlier acquires. -/
def State.chainEarlier (s : State) (x : Access) (r : ChainRef) : Bool :=
  s.accs.any (fun e => e.2.uid == x.uid && decide (e.2.seq < x.seq) &&
    ((match e.2.chain with
      | none => false
      | some q => !q.arrived && s.chainHome x.who.part q.handle == s.chainHome x.who.part r.handle)
     || (ordAcq e.2.ord && !s.accDone e.2 e.2.scope)))

/-- R265: the chain's state lies in its save area: nothing arrives and nothing is released. -/
def State.chainSaved (s : State) (p : Nat) (h : Word) : Bool :=
  match s.chainOf p h with
  | none => false
  | some c => c.2.saved

/-- Acts on a = access: it arrives, or, once released, takes its turn. -/
def execChainAccessArrival (s : State) : Out :=
  let a := s.subj.a
  match s.acc? a with
  | none => .next s
  | some x =>
    match x.chain with
    | none => .next s
    | some r =>
      if r.active then .next s
      else if r.released then .next (s.chainTurn a x r)
      else if s.chainSaved x.who.part r.handle || (!r.arrived && s.chainEarlier x r) then
        .next (s.postEv .chainAccessArrival { a := a })
      else .next (s.chainArrive a x r)

/-- R262: a refused access is back at its cell and parks with a replayable record.
Acts on a = access. -/
def execGuylineOverflow (s : State) : Out :=
  let a := s.subj.a
  match s.acc? a with
  | none => .next s
  | some x =>
    match x.chain with
    | none => .next s
    | some r =>
      let n := match s.chainOf x.who.part r.handle with | none => 0 | some c => c.2.held.length
      let s := s.modAcc a (fun x => { x with lanes := x.lanes.map (fun m => { m with st := .parked }) })
      .next (s.raise x.who 0x0003 ((chainDetails x.who r n 0).take 6) (some (.guyline a)))

/-- R264: a close reaches the home and waits there; not while the chain lies in its save area (R265). It ends its cycle:
an access that arrives in the same cycle has arrived before it.
Acts on a = close. -/
def execChainCloseArrival (s : State) : Out :=
  match tget s.closes s.subj.a with
  | none => .next s
  | some m =>
    if s.chainSaved m.part m.handle then .next (s.postEv .chainCloseArrival { a := s.subj.a }) else
    let s := { s with closes := tdel s.closes s.subj.a }
    match s.chainOf m.part m.handle with
    | none => .next s
    | some (n, _) =>
      .next ((s.modChain m.part n (fun c => { c with closing := some (m.wave, m.own, m.site, m.sem, m.ok), who := some m.who })).endCycle.postEv
        .chainCloseComplete { a := m.part, b := n })

/-- R264: the close completes. -/
def State.closeChain (s : State) (p n : Nat) (c : Chain) (x : Site) (sem : Nat) (ok : Bool) : State :=
  let h := chainHandle n c.gen
  let s := if c.held = [] then s else s.endStall p n c
  let s := s.setChain p n { c with isOpen := false, gen := c.gen + 1, share := 0, held := [], released := [], closing := none }
  let s := c.held.foldl (fun s a =>
    match s.acc? a with
    | none => s
    | some y => match y.chain with
      | none => s
      | some r => s.dropChainAcc a y r c.held.length 3) s
  if ok then s.queueSem x sem 1 false [] c.scope (c.who.elim 0 (fun w => w.inv))
  else match c.who with
    | none => s
    | some w => s.raise w 0x010F (w.details 0 [h])

/-- R264, R265: it waits until (W, S) is the close's last access and every released access has performed, and while
the chain lies in its save area.
Acts on a = partition, b = chain. -/
def execChainCloseComplete (s : State) : Out :=
  let p := s.subj.a
  let n := s.subj.b
  match tget (s.part p).chains n with
  | none => .next s
  | some c =>
    match c.closing with
    | none => .next s
    | some (w, own, x, sem, ok) =>
      if !c.saved ∧ c.w = w ∧ c.s = some own ∧ c.released.all (fun a => s.performed a c.scope) then .next (s.closeChain p n c x sem ok)
      else .next (s.postEv .chainCloseComplete { a := p, b := n })

/-- R262: a write of gl.share; bit 31 of the slice's word shows whether it was granted. -/
def State.glShare (s : State) (p slice : Nat) (v : Word) : State :=
  let n := fld v 0 8
  let share := fld v 8 7
  let c := tgetD (s.part p).chains n Chain.reset
  let ok := c.isOpen && c.home == slice && decide (8 ≤ share ∧ share ≤ 64) && decide (c.held.length ≤ share)
    && decide (s.sharesOn slice - c.share + share ≤ 512)
  let s := s.modSlice slice (fun x => { x with shareOk := ok })
  if ok then s.setChain p n { c with share := share } else s

end Sys2Proof.Machine
end

