-- ==== Sys2Proof/Machine/Flow.lean ====
section
/-! DEFINITION. Group 0x0 and the frame instructions F0 to F3 (R87 to R99). -/

namespace Sys2Proof.Machine

/-- R88: no result; `v` and the registers stay. -/
def execNop (f : Fields) (s : State) : Out := s.pureInstr f { opc := 0x00, a := false, b := false } (fun _ => {})

/-- R88: poison is carried. -/
def execMov (f : Fields) (s : State) : Out := s.pureInstr f { opc := 0x01, b := false } (fun t => .val (t.as f))

/-- R88, R84: a taken branch for the whole gang. -/
def execJmp (f : Fields) (s : State) : Out :=
  s.pureInstr f { opc := 0x02, a := false, b := false } (fun _ => { jump := some (fld f.lit 0 8) })

/-- R88, R84. -/
def execBrp (f : Fields) (s : State) : Out :=
  s.pureInstr f { opc := 0x03, a := false, b := false }
    (fun t => { jump := if t.cond (fld f.lit 8 2) then some (fld f.lit 0 8) else none })

/-- Every lane of `v` poisoned, its bits kept. -/
def poisonV (t : Thread) : List PWord := t.zs.map (fun w => { w with pois := true })

/-- R90: with three entries LOOP raises the replayable "loop stack" fault, changes nothing and waits for
the handler; its record is written or held (R357, R358). -/
def State.loopFault (s : State) (u : Nat) (t : Thread) : State :=
  let w := t.who 0x04
  let s' := s.raise w 0x0004 (w.details 0 []) (some (.loop u))
  if s.tqFull t.part then s'.holdAt u .record else s'.suspend u .reply

/-- R90. -/
def execLoop (f : Fields) (s : State) : Out :=
  s.instr f { opc := 0x04, b := false } (fun u t =>
    let a := t.a0 f
    let n := if a.pois then 0 else Zx a.w
    let e := fld f.lit 0 8
    let v := if a.pois then some (poisonV t) else none
    if n = 0 then .ok s { v := v, regs := false, jump := some (e + 1) }
    else if 3 ≤ t.loops.length then .hold (s.loopFault u t)
    else .ok (s.setThr u { t with loops := ⟨t.ip + 1, e, n⟩ :: t.loops }) {})

/-- R91. -/
def execLexit (f : Fields) (s : State) : Out :=
  s.instr f { opc := 0x05, a := false, b := false } (fun u t =>
    if t.cond (fld f.lit 8 2) then
      .ok (s.setThr u { t with loops := t.loops.drop (fld f.lit 10 2) }) { jump := some (fld f.lit 0 8) }
    else .ok s {})

/-- R83: latches the condition, the count and the mask. -/
def execPblk (f : Fields) (s : State) : Out :=
  s.pureInstr f { opc := 0x06, a := false, b := false } (fun t =>
    { pblk := some { cond := t.lanes.map (fun x => x.p != bit f.lit 0), n := fld f.lit 1 3 + 1,
                     mask := BitVec.ofNat 8 (fld f.lit 8 8), j := 0 } })

/-- R88, R213: the thread's counters are at or below the limits. -/
def Thread.countsOk (t : Thread) (ld st cp mx : Nat) : Bool :=
  decide (t.nld ≤ ld ∧ t.nst ≤ st ∧ t.ncp ≤ cp ∧ t.nmx ≤ mx)

/-- R88. -/
def execWaitc (f : Fields) (s : State) : Out :=
  s.instr f { opc := 0x07, b := false } (fun u t =>
    let k := (fld f.lit 0 8, fld f.lit 8 8, fld f.lit 16 8, fld f.lit 24 8)
    s.waitOn u t f 0x07 (.counters k.1 k.2.1 k.2.2.1 k.2.2.2) (t.a0 f)
      (if t.countsOk k.1 k.2.1 k.2.2.1 k.2.2.2 then some (s, {}) else none) {})

/-- R230: a semaphore operation on an element control cell. -/
def State.semFault (s : State) (t : Thread) (opc : Nat) (items : List Word) : State :=
  s.raise (t.who opc) 0x010F ((t.who opc).details 0 items)

/-- R88, R229, R230: a poisoned threshold expires at once. -/
def execWaits (f : Fields) (s : State) : Out :=
  s.instr f { opc := 0x08 } (fun u t =>
    let k := fld f.lit 0 6
    if isElem t.src.site then .ok (s.semFault t 0x08 [w32 k]) (.valP (poisonV t) (allP t false))
    else
      let b := t.b0 f
      if b.pois then .ok s { p := some (allP t false) }
      else if s.semBusy t.src.site k then .hold s
      else s.waitOn u t f 0x08 (.sem k b.w) (t.a0 f) (if Zx b.w ≤ Zx (s.sem t.src.site k) then some (s, {}) else none) {})

/-- R89. -/
def execSteer (f : Fields) (s : State) : Out :=
  s.pureInstr f { opc := 0x09, b := false } (fun t => { v := some (t.as f), steer := some (t.lanes.map (fun x => x.p)) })

/-- R88: the old wave; then the new one from lane 0 of A. -/
def execWavea (f : Fields) (s : State) : Out :=
  s.instr f { opc := 0x0A, b := false } (fun u t =>
    let a := t.a0 f
    let r := t.all ⟨w32 t.wave.toNat, a.pois⟩
    if a.pois || t.selLanes.isEmpty then .ok s (.val r)
    else .ok (s.setThr u { t with wave := BitVec.ofNat 16 (fld a.w 0 16) }) (.val r))

/-- R92. -/
def execTime (f : Fields) (s : State) : Out :=
  s.instr f { opc := 0x0B, b := false } (fun u t =>
    let a := t.a0 f
    if a.pois then .ok s (.val (t.all .bad))
    else if t.selLanes.isEmpty then .ok s {}
    else match fld a.w 0 2 with
      | 0 => .ok (s.setThr u { t with todHi := w32 (s.tod / 2 ^ 32) }) (.val (t.all (.ok (w32 s.tod))))
      | 1 => .ok s (.val (t.all (.ok t.todHi)))
      | 2 => .ok (s.setThr u { t with cycHi := w32 (s.cycle / 2 ^ 32) }) (.val (t.all (.ok (w32 s.cycle))))
      | _ => .ok s (.val (t.all (.ok t.cycHi))))

/-- R93, R356, R358: queue a trap or breakpoint record and suspend until the reply. -/
def State.trapRecord (s : State) (u : Nat) (t : Thread) (f : Fields) (opc code num : Nat) : Body :=
  let a := t.a0 f
  let b := t.b0 f
  let w := t.who opc
  let full := s.tqFull t.part
  let s := s.raise w code (w.details 0 [w32 num, a.w, b.w, w32 ((if a.pois then 1 else 0) + if b.pois then 2 else 0)])
    (some (.trap u))
  .ok (s.setThr u (t.waiting .unit none f opc)) { susp := some (if full then .record else .reply) }

/-- R93. -/
def execTrap (f : Fields) (s : State) : Out :=
  s.instr f { opc := 0x0C } (fun u t =>
    if t.cond (fld f.lit 8 2) then s.trapRecord u t f 0x0C 0x0010 (fld f.lit 0 8) else .ok s {})

/-- R93. -/
def execBkpt (f : Fields) (s : State) : Out :=
  s.instr f { opc := 0x0D } (fun u t =>
    let k := fld f.lit 0 5
    if (s.part t.part).bkpten.getLsbD k && !t.selLanes.isEmpty then s.trapRecord u t f 0x0D 0x0011 k else .ok s {})

/-- R94: (time of day − b), read signed, is at or above 0. -/
def State.timeReached (s : State) (b : Word) : Bool := decide (0 ≤ Sx (w32 s.tod - b))

/-- R94: take the mailbox word of a frame and clear its presence bit. -/
def State.takeMail (s : State) (t : Thread) : Option (State × Eff) :=
  match s.frameFor t t.frame with
  | .error _ => none
  | .ok w =>
    if 1 ∈ w.present then
      some ((s.touchFrame t.src.site t.frame).setFrame t.src.site t.frame ({ w with spilled := false }.clear 1),
            .val ((List.range t.width).map (w.word 1)))
    else none

/-- R94, R98, R176. The time form with a poisoned B waits on its value bits and poisons its result (assumption 47). -/
def execGate (f : Fields) (s : State) : Out :=
  s.instr f { opc := 0x0E, b := !bit f.lit 0 } (fun u t =>
    if bit f.lit 0 then
      match s.frameFor t t.frame with
      | .error c => .ok (s.raise (t.who 0x0E) c ((t.who 0x0E).details 0 [])) { v := some (t.all .bad), p := some (allP t false) }
      | .ok _ => (s.touchFrame t.src.site t.frame).waitOn u t f 0x0E .mailbox (t.a0 f) (s.takeMail t) (.val (t.all .zero))
    else
      let b := (t.b0 f).w
      let now := Eff.val (t.all ⟨w32 s.tod, (t.b0 f).pois⟩)
      match s.waitOn u t f 0x0E (.time b) (t.a0 f) (if s.timeReached b then some (s, now) else none) now with
      | .ok s' e => .ok (if e.susp.isSome then s'.postEv .waitTest { a := u } else s') e
      | b => b)

/-- R88. -/
def execPtest (f : Fields) (s : State) : Out :=
  s.pureInstr f { opc := 0x0F, b := false } (fun t =>
    { v := some ((t.as f).map (fun x => if x.pois then .zero else x)), p := some ((t.as f).map (fun x => x.pois)) })

/-! ## Frame instructions -/

/-- R96, R97. -/
def execFalloc (f : Fields) (s : State) : Out :=
  s.instr f { opc := 0xF0 } (fun _ t =>
    let a := t.a0 f
    let b := t.b0 f
    let bad : Body := .ok s (.valP (t.all .zero) (allP t false))
    let use := Zx a.w
    if a.pois || b.pois || isElem t.src.site || use == 0 || decide (65535 < use) || t.selLanes.isEmpty then bad
    else match classOf (if b.w = 0 then t.width else Zx b.w) with
      | none => bad
      | some c =>
        match s.allocFrame t.src.site c use t.part t.region t.inv with
        | none => bad
        | some r => .ok r.1 (.valP (t.all (.ok (w32 (r.2.toNat * 4096)))) (allP t true)))

/-- R98: a frame's home as FFREE reaches it. -/
def freeHome (x : Site) (f : BitVec 20) : Site :=
  match x with
  | .syrad n => .syrad n
  | _ => .tile (frameTile f)

/-- R96, R98. A frame whose tile's context lies in its bivouac slot is not found (assumption 47). -/
def execFfree (f : Fields) (s : State) : Out :=
  s.instr f { opc := 0xF1, b := false } (fun _ t =>
    let a := t.a0 f
    if a.pois then .ok s (.val ((t.as f).map (fun x => { x with pois := true })))
    else if t.selLanes.isEmpty then .ok s {}
    else
      let g := contFrame a.w
      let h := freeHome t.src.site g
      match tget (s.site h).frames (frameLocal g) with
      | none => .ok (s.raise (t.who 0xF1) 0x0106 ((t.who 0xF1).details 0 [w32 (g.toNat * 4096)])) (.val (t.as f))
      | some w =>
        if w.part = t.part then .ok (s.freeFrame h g) (.val (t.as f))
        else .ok (s.raise (t.who 0xF1) 0x0106 ((t.who 0xF1).details 0 [w32 (g.toNat * 4096)])) (.val (t.as f)))

/-- R87, R99: the frame FRD and FWR act on, or the fault. -/
def State.frdFrame (s : State) (t : Thread) (f : Fields) : Except Nat (BitVec 20 × Frame) :=
  let a := t.a0 f
  let g := if bit f.lit 7 then contFrame a.w else t.frame
  if bit f.lit 7 && a.pois then .error 0x0102
  else match s.frameFor t g with
    | .error c => .error c
    | .ok w => .ok (g, w)

/-- R99: nothing read or written, every lane of `v` poisoned, a contained fault. -/
def State.frameFail (s : State) (t : Thread) (opc c : Nat) : Body :=
  if t.selLanes.isEmpty then .ok s {} else .ok (s.raise (t.who opc) c ((t.who opc).details 0 [])) (.val (t.all .bad))

/-- R96, R99. -/
def execFrd (f : Fields) (s : State) : Out :=
  s.instr f { opc := 0xF2, b := false } (fun _ t =>
    match s.frdFrame t f with
    | .error c => s.frameFail t 0xF2 c
    | .ok (g, w) =>
      let k := fld f.lit 0 6
      let s := s.touchFrame t.src.site g
      let r := Eff.val ((List.range t.width).map (w.word k))
      if bit f.lit 6 && !t.selLanes.isEmpty then .ok (s.setFrame t.src.site g ({ w with spilled := false }.clear k)) r
      else .ok s r)

/-- R96, R99. -/
def execFwr (f : Fields) (s : State) : Out :=
  s.instr f { opc := 0xF3 } (fun _ t =>
    match s.frdFrame t f with
    | .error c => s.frameFail t 0xF3 c
    | .ok (g, w) =>
      let k := fld f.lit 0 6
      let s := s.touchFrame t.src.site g
      let bs := t.bs f
      let w := t.selLanes.foldl (fun w l => w.setWord k l (bs.getD l .zero)) { w with spilled := false }
      let mark := bit f.lit 6 && !t.selLanes.isEmpty
      let s := s.setFrame t.src.site g (if mark then w.mark k else w)
      .ok (if mark then s.retest t.src.site else s) (.val bs))

end Sys2Proof.Machine
end

