-- ==== Sys2Proof/Machine/Queues.lean ====
section
/-! DEFINITION. Group 0xC: semaphores (R229 to R231), package queues (R232, R233, R239 to R241), the start of
copies and chains (R222, R235 to R238). -/

namespace Sys2Proof.Machine

/-- R234: a poisoned lane-0 operand of group 0xC: `v` poisoned in every lane. -/
def badV (t : Thread) : List PWord := t.all .bad

/-! ## Semaphores -/

/-- The release scope of SEMI and of semaphore blocks: none, or the scope number of R244. -/
def relScope (n : Nat) : Option Nat := if n = 0 ∨ 4 < n then none else some n

/-- R229, R231: SEMI's increment by thread `u`: at once where nothing is released and the semaphore is this tile's
own, else as a message behind the accesses it releases. -/
def State.semOp (s : State) (own x : Site) (k : Nat) (v : Word) (rel u : Nat) (t : Thread) : State :=
  match relScope rel with
  | none => if own = x then s.addSem x k v t.inv else s.queueSem x k v false [] 0 t.inv
  | some sc => s.queueSem x k v false (s.relCover u) sc t.inv u t.seq

/-- R235, R230. -/
def execSemi (f : Fields) (s : State) : Out :=
  s.instr f { opc := 0xC3, b := bit f.lit 6 } (fun u t =>
    let a := t.a0 f
    let b := t.b0 f
    let k := fld f.lit 0 6
    let remote := bit f.lit 6
    let own := t.src.site
    let w := t.who 0xC3
    if t.selLanes.isEmpty then .ok s {}
    else if !remote && isElem own then .ok (s.semFault t 0xC3 [w32 k]) (.val (badV t))
    else if a.pois || (remote && b.pois) then .ok s (.val (badV t))
    else
      let x := if remote then Site.tile (tileOfBits b.w) else own
      let r := Eff.val (t.all a)
      if remote && !s.reaches t.part x then .ok (s.raise w 0x010F (w.details 0 [w32 k, w32 (tileOfBits b.w)])) r
      else .ok (s.semOp own x k a.w (fld f.lit 7 3) u t) r)

/-- R235, R230. -/
def execSemset (f : Fields) (s : State) : Out :=
  s.instr f { opc := 0xC4, b := false } (fun _ t =>
    let a := t.a0 f
    let k := fld f.lit 0 6
    if t.selLanes.isEmpty then .ok s {}
    else if isElem t.src.site then .ok (s.semFault t 0xC4 [w32 k]) (.val (badV t))
    else if a.pois then .ok s (.val (badV t))
    else if s.semBusy t.src.site k then .hold s
    else .ok (s.setSem t.src.site k a.w) (.val (t.all a)))

/-- R235, R230. -/
def execSemrd (f : Fields) (s : State) : Out :=
  s.instr f { opc := 0xC5, a := false, b := false } (fun _ t =>
    let k := fld f.lit 0 6
    if t.selLanes.isEmpty then .ok s {}
    else if isElem t.src.site then .ok (s.semFault t 0xC5 [w32 k]) (.val (badV t))
    else if s.semBusy t.src.site k then .hold s
    else .ok s (.val (t.all (.ok (s.sem t.src.site k)))))

/-- R235: a RDZV that succeeds subtracts its count and returns the value before. -/
def State.takeRdzv (s : State) (t : Thread) (k : Nat) (b : Word) : Option (State × Eff) :=
  let v := s.sem t.src.site k
  if Zx b ≤ Zx v then some (s.setSem t.src.site k (v - b), .val (t.all (.ok v))) else none

/-- R235, R229, R230. -/
def execRdzv (f : Fields) (s : State) : Out :=
  s.instr f { opc := 0xC7 } (fun u t =>
    let k := fld f.lit 0 6
    let b := t.b0 f
    let x := t.src.site
    if isElem x then .ok (s.semFault t 0xC7 [w32 k]) (.valP (badV t) (allP t false))
    else if b.pois then .ok s (.valP (t.all .zero) (allP t false))
    else if s.semBusy x k then .hold s
    else s.waitOn u t f 0xC7 (.rdzv k b.w) (t.a0 f) (s.takeRdzv t k b.w) (.val (t.all .zero)))

/-! ## Package queues -/

/-- R234: the descriptor address of a queue instruction. -/
def State.queueAddr (s : State) (t : Thread) (lit : Word) : Int := s.baseOf t (fld lit 0 3) + (fld lit 6 26 * 64 : Nat)

/-- R232: the descriptor that an address names for an agent: its physical address and words; none where
nothing writable is mapped there. A queue operation is one step at the home slice of the descriptor, and no
flit of R427 carries one, so a descriptor in the Reltin aperture names no live queue (assumption 22), nor does one that
is homed on a lost die (R300). -/
def State.qdesc? (s : State) (p : Nat) (x : Site) (desc : Int) : Option (Nat × QDesc) :=
  match s.hwXlate p x desc true with
  | none => none
  | some pa => if s.served pa then some (pa, qdescAt s.mem pa) else none

/-- A live queue is known from its first operation on (assumption 22). -/
def State.knowQueue (s : State) (q : QueueId) : State :=
  if s.queues.contains q then s else { s with queues := s.queues ++ [q] }

/-- The physical addresses of n ring entries from count i on; none where one is not mapped, or lies in the
Reltin aperture (assumption 22) or on a lost die (R300). -/
def State.ringAddrs (s : State) (p : Nat) (x : Site) (q : QDesc) (i n : Nat) : Option (List Nat) :=
  (List.range n).foldr (fun j r =>
    match r, s.hwXlate p x ((BitVec.ofNat 64 q.ring).toInt + (4 * ((i + j) % 2 ^ q.m) : Nat)) true with
    | some r, some a => if s.served a then some (a :: r) else none
    | _, _ => none) (some [])

/-- R307, R317: an operation of n entries on a package queue is held: its descriptor, or an entry that it may reach. -/
def State.pkgQueueHeld (s : State) (p : Nat) (x : Site) (desc : Int) (n : Nat) : Bool :=
  s.hwHolds p x desc || (match s.qdesc? p x desc with
    | none => false
    | some (_, q) => [q.head, q.tail].any (fun i => (List.range n).any (fun j =>
        s.hwHolds p x ((BitVec.ofNat 64 q.ring).toInt + (4 * ((i + j) % 2 ^ q.m) : Nat)))))

/-- Threads of a partition that wait at a package queue are tested again. -/
def State.retestQueues (s : State) (p : Nat) : State :=
  (s.threads.filter (fun e => e.2.part == p && e.2.stat == .wait &&
    (match e.2.wait with | some ⟨.push _ _ _, _, _, _⟩ => true | some ⟨.pop _, _, _, _⟩ => true | _ => false))).foldl
    (fun s e => s.postEv .waitTest { a := e.1 }) s

/-- What a queue operation meets. -/
inductive QRes
  /-- not live: it fails with `p` clear -/
  | dead
  /-- its condition does not hold yet -/
  | wait
  | done (s : State) (ws : List Word)

/-- R436: a push to a memory die's service queue requests a service of its control core. -/
def State.wakeService (s : State) (p : Nat) (x : Site) (desc : Int) : State :=
  ((List.range 4).filter (fun d => (s.matcher d).service = some (p, desc) ∧ queueVia p (.syrad d) = queueVia p x)).foldl
    (fun s d => s.postEv .controlCoreService { a := d }) s

/-- R239: push words as one indivisible step; `ctl` may use the last two entries. -/
def State.qPush (s : State) (p : Nat) (x : Site) (desc : Int) (ws : List Word) (ctl : Bool) : QRes :=
  if s.pkgQueueHeld p x desc ws.length then .wait
  else match s.qdesc? p x desc with
  | none => .dead
  | some (pa, q) =>
    if !q.live then .dead
    else
      let s := s.knowQueue ⟨p, queueVia p x, desc, pa⟩
      let n := ws.length
      if n = 0 then .done s []
      else if q.free < n + (if ctl then 0 else 2) then .wait
      else match s.ringAddrs p x q q.tail n with
        | none => .dead
        | some as =>
          let s := (as.zip ws).foldl (fun s e => s.hwWrite e.1 (leBytes 4 e.2.toNat)) s
          let s := s.hwWrite (pa + 0x14) (leBytes 4 (q.tail + n))
          .done ((s.retestQueues p).wakeService p x desc) []

/-- R241: pop n words as one indivisible step. -/
def State.qPop (s : State) (p : Nat) (x : Site) (desc : Int) (n : Nat) : QRes :=
  if s.pkgQueueHeld p x desc n then .wait
  else match s.qdesc? p x desc with
  | none => .dead
  | some (pa, q) =>
    if !q.live then .dead
    else
      let s := s.knowQueue ⟨p, queueVia p x, desc, pa⟩
      if q.used < n then .wait
      else match s.ringAddrs p x q q.head n with
        | none => .dead
        | some as =>
          let ws := as.map s.rdW
          let s := if n = 0 then s else s.hwWrite (pa + 0x10) (leBytes 4 (q.head + n))
          .done (s.retestQueues p) ws

/-- R240: a push or pop of m' entries that no queue of this size could ever take. -/
def QDesc.tooMany (q : QDesc) (n : Nat) (ctl : Bool) : Bool := decide (2 ^ q.m < n + (if ctl then 0 else 2))

/-- R240: failing at issue: `p` clear, r zero. -/
def qFail (t : Thread) : Eff := .valP (t.all .zero) (allP t false)

/-- R240: the same with a "queue operand" fault. -/
def State.qFault (s : State) (t : Thread) (opc : Nat) (desc : Int) : Body :=
  let d := BitVec.ofInt 64 desc
  .ok (s.raise (t.who opc) 0x0110 ((t.who opc).details 0 [w32 d.toNat, w32 (d.toNat / 2 ^ 32)])) (qFail t)

/-- The words of the selected lanes in ascending order (R239). -/
def Thread.selWords (t : Thread) (xs : List PWord) : List Word := t.selLanes.map (fun l => (xs.getD l .zero).w)

/-- R239, R270, R283: with release, every earlier access of the thread performs at `.pkg` first, and its increments
with a release arrive first. -/
def State.allDone (s : State) (u scope : Nat) : Bool :=
  (s.accs.filter (fun e => e.2.uid = u ∧ e.2.op ≠ .prf)).all (fun e => s.accDone e.2 scope)
    && !s.semOps.any (fun o => decide (u ≠ 0 ∧ o.2.uid = u ∧ o.2.scope ≠ 0))

/-- R239, R240, R255. -/
def execQpush (f : Fields) (s : State) : Out :=
  s.instr f { opc := 0xC8 } (fun u t =>
    let desc := s.queueAddr t f.lit
    let ctl := bit f.lit 4
    let as := t.as f
    let n := t.selLanes.length
    let bad := t.selLanes.filter (fun l => (as.getD l .zero).pois)
    if desc % 64 ≠ 0 then s.qFault t 0xC8 desc
    else if s.pkgQueueHeld t.part t.src.site desc n then .hold s
    else match s.qdesc? t.part t.src.site desc with
      | none => .ok s (qFail t)
      | some (_, q) =>
        if !q.live then .ok s (qFail t)
        else if q.tooMany n ctl then s.qFault t 0xC8 desc
        else match bad with
          | l :: _ =>
            let ea := (BitVec.ofNat 64 q.ring).toInt + (4 * ((q.tail + (t.selLanes.takeWhile (· ≠ l)).length) % 2 ^ q.m) : Nat)
            .ok (s.raise (t.who 0xC8) 0x0112 ((t.who 0xC8).poisonRecord (t.laneAgent l) 4 ea (maskOf bad))) (qFail t)
          | [] =>
            if bit f.lit 3 && !s.allDone u 3 then .hold s
            else
              let ws := t.selWords as
              match s.qPush t.part t.src.site desc ws ctl with
              | .dead => .ok s (qFail t)
              | .done s' _ => .ok s' (.valP as (allP t true))
              | .wait => s.waitOn u t f 0xC8 (.push desc ws ctl) (t.b0 f) none (.val as))

/-- R241: entry h goes to the h-th selected lane. -/
def Thread.popped (t : Thread) (ws : List Word) : List PWord :=
  (List.range t.width).map (fun l => .ok (ws.getD (t.selLanes.takeWhile (· ≠ l)).length 0))

/-- R241, R240. -/
def execQpop (f : Fields) (s : State) : Out :=
  s.instr f { opc := 0xC9, b := false } (fun u t =>
    let desc := s.queueAddr t f.lit
    let n := t.selLanes.length
    if desc % 64 ≠ 0 then s.qFault t 0xC9 desc
    else if s.pkgQueueHeld t.part t.src.site desc n then .hold s
    else match s.qdesc? t.part t.src.site desc with
      | none => .ok s (qFail t)
      | some (_, q) =>
        if !q.live then .ok s (qFail t)
        else if q.tooMany n false then s.qFault t 0xC9 desc
        else match s.qPop t.part t.src.site desc n with
          | .dead => .ok s (qFail t)
          | .done s' ws => .ok s' (.valP (t.popped ws) (allP t true))
          | .wait => s.waitOn u t f 0xC9 (.pop desc) (t.a0 f) none (.val (t.all .zero)))

/-- R235, R233. -/
def execQfree (f : Fields) (s : State) : Out :=
  s.instr f { opc := 0xCA, a := false, b := false } (fun _ t =>
    let desc := s.queueAddr t f.lit
    if t.selLanes.isEmpty then .ok s {}
    else if desc % 64 ≠ 0 then s.qFault t 0xCA desc
    else if s.pkgQueueHeld t.part t.src.site desc 0 then .hold s
    else match s.qdesc? t.part t.src.site desc with
      | none => .ok s (qFail t)
      | some (pa, q) =>
        if bit f.lit 4 then
          .ok (if q.live then s.killQueue ⟨t.part, queueVia t.part t.src.site, desc, pa⟩ 1 else s) (.valP (t.all .zero) (allP t q.live))
        else .ok (if q.live then s.knowQueue ⟨t.part, queueVia t.part t.src.site, desc, pa⟩ else s) (.valP (t.all (.ok (w32 (2 ^ q.m - q.used - 2)))) (allP t q.live)))

/-- R232, R233: a control push of the hardware performs; one that its queue cannot take is dropped and, for
a dead queue's packet, counted there. Acts on a = push. -/
def execPackageQueueOperation (s : State) : Out :=
  match tget s.pqOps s.subj.a with
  | none => .next s
  | some o =>
    if s.pkgQueueHeld o.part o.via o.desc o.words.length then .next (s.postEv .packageQueueOperation { a := s.subj.a }) else
    let s := { s with pqOps := tdel s.pqOps s.subj.a }
    match s.qPush o.part o.via o.desc o.words true with
    | .done s' _ => .next s'
    | _ => match o.dead with
      | none => .next s
      | some pa => .next (s.lostUp pa)

/-- R235, R210: emission of control kind. -/
def execEdgef (f : Fields) (s : State) : Out :=
  s.instr f { opc := 0xCB, b := false } (fun _ t => .ok s { v := some (t.as f), ctl := true })

/-- R229: a semaphore operation arrives once what it releases has performed, earlier releasing increments of its
thread included (R281 to R284); a swapped tile's waits (R373), and one at a semaphore whose waits are still to be
tested follows them.
Acts on a = operation. -/
def execRemoteSemaphoreAdd (s : State) : Out :=
  match tget s.semOps s.subj.a with
  | none => .next s
  | some o =>
    if s.away o.site o.inv || o.gate.any (fun a => !s.performed a o.scope) || s.owingAt o.site o.scope o.owed
      || s.semOps.any (fun e => decide (o.uid ≠ 0 ∧ o.scope ≠ 0 ∧ e.2.uid = o.uid ∧ e.2.scope ≠ 0 ∧ e.1 < s.subj.a))
      || (s.semBusy o.site o.sem && !s.idleSite o.site) then
      .next (s.postEv .remoteSemaphoreAdd { a := s.subj.a })
    else
      let s := { s with semOps := tdel s.semOps s.subj.a }
      .next (s.setSem o.site o.sem (if o.set then o.val else s.sem o.site o.sem + o.val))

/-! ## Copies and chains: their start (R222, R235 to R238) -/

def copyHandle (slot : Nat) (gen : BitVec 16) : Word := w32 (slot * 2 ^ 16 + gen.toNat)
def cbHandle (slot : Nat) (gen : BitVec 16) : Word := w32 (2 ^ 30 + slot * 2 ^ 16 + gen.toNat)

/-- R220, R270, R276: the stores that the thread issued before an engine command, and its acquires. -/
def State.cmdGate (s : State) (u : Nat) : List Nat :=
  (s.accs.filter (fun e => e.2.uid == u && (e.2.op.writes && e.2.chain.isNone || ordAcq e.2.ord))).map (fun e => e.1)

/-- The gate of an engine command is open: stores have performed at `.tile`, acquires at their scope. -/
def State.gateOpen (s : State) (g : List Nat) : Bool :=
  g.all (fun a => match s.acc? a with
    | none => true
    | some x => s.accDone x (if ordAcq x.ord then max 1 x.scope else 1))

/-- R222: the lowest free copy slot of an engine. -/
def freeCopy (v : SiteSt) : Option Nat := (List.range 1024).find? (fun n => (tget v.copies n).isNone)
/-- DESIGN CHOICE (assumption 50): R235 names no order among free chain slots, and the lowest is taken. -/
def freeCbSlot (v : SiteSt) : Option Nat := (List.range 16).find? (fun n => (tget v.chains n).isNone)

/-- A copy as it starts. -/
def newCopy (desc : Int) (iss : Issuer) (w : Who) (gen : BitVec 16) (gate : List Nat) (seq : Nat) : Copy :=
  { desc := desc, parsed := none, next := 0, issuer := iss, who := w, gen := gen, gate := gate, parked := none,
    cancelled := false, failed := false, owed := [], flight := [], fetching := none, sent := [], seq := seq, suppressed := 0,
    firstSup := none }

/-- R235: start a copy on an engine; none where no slot is free. -/
def State.startCopy (s : State) (x : Site) (desc : Int) (iss : Issuer) (w : Who) (gate : List Nat) : Option (State × Nat × Word) :=
  let v := s.site x
  match freeCopy v with
  | none => none
  | some n =>
    let g := tgetD v.copyGens n 0
    let c := newCopy desc iss w g gate s.fresh
    some ((s.bump.setSite x { v with copies := tset v.copies n c }).postEv .copyDescriptorRead { site := x, a := n }, n, copyHandle n g)

/-- R235: start a chain on an engine; none where no slot is free. -/
def State.startChain (s : State) (x : Site) (va : Int) (u : Nat) (w : Who) (gate : List Nat) (fork : Option Nat) :
    Option (State × Nat × Word) :=
  let v := s.site x
  match freeCbSlot v with
  | none => none
  | some n =>
    let g := tgetD v.chainGens n 0
    let c : CbChain := { fetch := some (BitVec.ofInt 64 va), window := [], stack := [], who := w, uid := u, gen := g, gate := gate,
                         copies := [], owed := [], fork := fork, testing := none, retest := 0, stopped := false, parked := none,
                         ended := false }
    some ((s.setSite x { v with chains := tset v.chains n c }).postEv .commandBlockFetch { site := x, a := n }, n, cbHandle n g)

/-- R235, R237. -/
def execCopy (f : Fields) (s : State) : Out :=
  s.instr f { opc := 0xC0, b := false, ctr := some .cp, counts := fun t => !(t.a0 f).pois && !t.selLanes.isEmpty } (fun u t =>
    let a := t.a0 f
    if a.pois then .ok s (.val (badV t))
    else if t.selLanes.isEmpty then .ok s {}
    else
      let desc := s.baseOf t (fld f.lit 0 3) + (Zx a.w : Nat)
      match s.startCopy t.src.site desc (.thread u) (t.who 0xC0) (s.cmdGate u) with
      | none => .hold s
      | some r => .ok (r.1.modThr u (fun t => t.addCtr .cp)) (.val (t.all (.ok r.2.2))))

/-- R235, R237. -/
def execCblk (f : Fields) (s : State) : Out :=
  s.instr f { opc := 0xC1, b := false, ctr := some .cp, counts := fun t => !(t.a0 f).pois && !t.selLanes.isEmpty } (fun u t =>
    let a := t.a0 f
    if a.pois then .ok s (.val (badV t))
    else if t.selLanes.isEmpty then .ok s {}
    else
      let va := s.baseOf t (fld f.lit 0 3) + (Zx a.w : Nat)
      match s.startChain t.src.site va u (t.who 0xC1) (s.cmdGate u) none with
      | none => .hold s
      | some r => .ok (r.1.modThr u (fun t => t.addCtr .cp)) (.val (t.all (.ok r.2.2))))

/-- R236: cancel one copy; it ends at its next chunk boundary. -/
def State.cancelCopy (s : State) (x : Site) (n : Nat) : State :=
  (s.modSite x (fun v => { v with copies := tmod v.copies n (fun c => { c with cancelled := true }) })).postEv .copyComplete
    { site := x, a := n }

/-- A copy that has not been cancelled or failed. -/
def State.running (s : State) (x : Site) (n : Nat) : Bool :=
  match tget (s.site x).copies n with
  | none => false
  | some c => !c.cancelled && !c.failed

/-- R236: cancel a chain and every copy it started. -/
def State.cancelChain (s : State) (x : Site) (n : Nat) : State :=
  match tget (s.site x).chains n with
  | none => s
  | some c =>
    let s := s.modSite x (fun v => { v with chains := tset v.chains n { c with stopped := true, testing := none } })
    (c.copies.foldl (fun s k => s.cancelCopy x k) s).postEv .chainEnd { site := x, a := n }

/-- R236: of a chain that a fault has stopped, the copies still running are cancelled. -/
def execCpcnl (f : Fields) (s : State) : Out :=
  s.instr f { opc := 0xC2, b := false } (fun _ t =>
    let a := t.a0 f
    let x := t.src.site
    let v := s.site x
    let n := fld a.w 16 10
    let r := fun (s : State) (b : Bool) => Body.ok s (.valP (t.all a) (allP t b))
    if a.pois then .ok s (.valP (badV t) (allP t false))
    else if t.selLanes.isEmpty then .ok s {}
    else if fld a.w 30 2 = 0 then
      match tget v.copies n with
      | none => r s false
      | some c => if copyHandle n c.gen = a.w ∧ !c.cancelled ∧ !c.failed then r (s.cancelCopy x n) true else r s false
    else
      match tget v.chains n with
      | none => r s false
      | some c => if cbHandle n c.gen = a.w ∧ (!c.stopped ∨ c.copies.any (s.running x)) then r (s.cancelChain x n) true else r s false)

/-- R238: the task packet of a FORK. -/
def Thread.task (t : Thread) (id e : Nat) (tag : Nat) (payload : PWord) : Token :=
  { id := id, tag := { frame := t.frame, ip := BitVec.ofNat 8 tag, port := 0, wave := t.wave, colour := 0, width := 1,
                       eod := 0, kind := .data, block := 0 },
    data := [payload], dst := .elem e, cell := 0, fslot := 0, src := t.src, part := t.part, region := t.region, inv := t.inv,
    held := false, unres := none, at_ := 0 }

/-- R238: send the task packet through a slot of the egress buffer; none where it is full. -/
def State.sendTask (s : State) (t : Thread) (b : Word) (z : PWord) : Option State :=
  let e := 96 * fld b 23 2 + fld b 16 7
  let w := t.who 0xC6
  if 96 ≤ fld b 16 7 || !s.owns t.part (.elem e) then some (s.raise w 0x0101 (w.details 0 [0, w32 e]))
  else match s.reserve (.egress t.src.site false) false with
    | none => none
    | some s =>
      let k := t.task s.fresh e (fld b 8 8) z
      some ((s.bump.modSite t.src.site (fun v => { v with egress := v.egress ++ [k], egResv := v.egResv - 1 })).postEv
        .tokenEgressDepart { site := t.src.site, a := k.id })

/-- R212, R234, R238: a FORK that goes through to its starts: no operand it uses is poisoned and a lane is selected. -/
def Thread.forks (t : Thread) (f : Fields) : Bool :=
  !(bit f.lit 6 && (t.a0 f).pois) && !(bit f.lit 10 && ((t.b0 f).pois || t.z0.pois)) && !t.selLanes.isEmpty

/-- R238. -/
def execFork (f : Fields) (s : State) : Out :=
  let chain := bit f.lit 6
  let task := bit f.lit 10
  s.instr f { opc := 0xC6, b := task, ctr := if chain then some .cp else none, counts := (·.forks f) } (fun u t =>
    let a := t.a0 f
    let b := t.b0 f
    let z := t.z0
    if (chain && a.pois) || (task && (b.pois || z.pois)) then .ok s (.val (badV t))
    else if t.selLanes.isEmpty then .ok s {}
    else
      let va := s.baseOf t (fld f.lit 7 3) + (Zx a.w : Nat)
      let started := if chain then
          (s.startChain t.src.site va u (t.who 0xC6) (s.cmdGate u) (some (fld f.lit 0 6))).map
            (fun r => (r.1.modThr u (fun t => t.addCtr .cp), PWord.ok r.2.2))
        else some (s, a)
      match started with
      | none => .hold s
      | some (s', r) =>
        match (if task then s'.sendTask t b.w z else some s') with
        | none => .full
        | some s'' => .ok s'' (.val (t.all r)))

end Sys2Proof.Machine
end

