-- ==== Sys2Proof/Machine/Copies.lean ====
section
/-! DEFINITION. Copy engines: translation and lines of engine accesses, descriptors (R214 to R217, R220), chunks
(R218, R221), completion (R219). -/

namespace Sys2Proof.Machine

/-! ## Accesses of engines -/

/-- What the translation of an engine access gives (R221, R226). -/
inductive EngX
  | hold
  | ok (pa repl : Nat)
  | miss
  | cow
  | fail
  deriving DecidableEq, Repr

/-- An address as an engine reaches it. -/
def State.engPlace (s : State) (pa repl : Nat) : EngX :=
  if s.switching pa then .hold
  else match s.place pa with
    | .lost => .fail
    | .nowhere => .fail
    | _ => .ok pa repl

/-- Translate an access of the engine of site `x`: a miss and a copy-on-write page are replayable, but for the
system, which has no trap queue. -/
def State.engXlate (s : State) (p : Nat) (x : Site) (ea : Int) (wr : Bool) (n : Nat) : EngX :=
  let soft := fun (e : EngX) => if p = sysPart then .fail else e
  let of := fun (r : Xl) => match r with
    | .hold => EngX.hold
    | .ok pa repl => s.engPlace pa repl
    | .cow => soft .cow
    | .ro => .fail
    | .walk => soft .miss
  if !inRange57 ea then .fail
  else match s.xlate p x ea wr n with
    | .walk => if s.walkHeld p x ea then .hold else (match s.walk p x ea with
      | none => soft .miss
      | some e => of (e.use ea wr))
    | r => of r

/-- The engine's copy side does not act: stopped or swapped out. -/
def State.copyIdle (s : State) (x : Site) (p : Nat) : Bool := (s.site x).swapped || s.stopped p (copyEngOf x)

/-- R269: the bytes of an engine's read with an acquire scope: a replica's or the home's. -/
def State.engRead (s : State) (x : Site) (acq pa n : Nat) : List Byte :=
  let near := nearest (dieOf x)
  match (if acq ≤ 2 ∧ near ≠ memDie pa then tget s.coh.replicas (near, lineOf pa) else none) with
  | some r => (r.bytes.drop (pa % 128)).take n
  | none => rdN s.mem pa n

/-- R362: the addresses under an uncorrectable error in what serves an engine's read: a replica or the home. -/
def State.engErrs (s : State) (x : Site) (acq pa : Nat) : List Nat :=
  let near := nearest (dieOf x)
  match (if acq ≤ 2 ∧ near ≠ memDie pa then tget s.coh.replicas (near, lineOf pa) else none) with
  | some r => r.bad
  | none => s.memBad

/-- R362: an uncorrectable error lies under an engine's read. -/
def State.engBad (s : State) (x : Site) (acq pa n : Nat) : Bool := (s.engErrs x acq pa).any (fun b => decide (pa ≤ b ∧ b < pa + n))

/-- R356, R362: the "memory error" record of an engine's read. -/
def State.engError (s : State) (w : Who) (x : Site) (acq pa n : Nat) : State :=
  let a := firstErr (s.engErrs x acq pa) pa n
  s.raise w 0x0117 (w.details 0 [w32 a, w32 (a / 2 ^ 32)])

/-- R294, R298, R299, R325: an engine's read reaches a line: its replica or its home, where the replication
attribute of a replicable read acts; none while the region's HBM budget is spent. The fill that a miss brings is
asked for under number `n` (R422). -/
def State.engTouch (s : State) (p r : Nat) (x : Site) (acq n pa repl : Nat) : Option State :=
  let near := nearest (dieOf x)
  let home := memDie pa
  let line := lineOf pa
  if isAperture pa then some s
  else if acq ≤ 2 ∧ near ≠ home then
    let s := s.countRead home (regionOf pa) near
    if (tget s.coh.replicas (near, line)).isSome then
      some (s.modSlice (s.replicaSlice near line) (fun v => { v with rhit := v.rhit + 1 }))
    else (s.engLine x p r line).map (fun s => (s.pin home (regionOf pa) repl).sendFill near line n)
  else (s.engLine x p r line).map (fun s => if acq ≤ 2 then s.pin home (regionOf pa) repl else s)

/-- Reach a list of addresses, one line once. -/
def State.engTouchAll (s : State) (p r : Nat) (x : Site) (acq n : Nat) (as : List (Nat × Nat)) : Option State :=
  let firsts := as.foldl (fun (l : List (Nat × Nat)) a => if l.any (fun b => lineOf b.1 == lineOf a.1) then l else l ++ [a]) []
  firsts.foldl (fun o a => o.bind (fun s => s.engTouch p r x acq n a.1 a.2)) (some s)

/-- R253, R313, R357: the record of an engine access that holds, unless its page has one. -/
def State.parkEngine (s : State) (x : Site) (w : Who) (code : Nat) (ea : Int) (details : List Word) : State :=
  if s.pageRecorded w.part (pageOf ea) (dieOf x) code then s
  else s.raise w code (w.details 0 details) (some (.page (pageOf ea) (dieOf x))) ea

def addrWords (a : Int) : List Word := let d := BitVec.ofInt 64 a; [w32 d.toNat, w32 (d.toNat / 2 ^ 32)]

/-- R428: an engine's access to another module: no thread's, and its faults are the engine's. -/
def engineAccess (op : AccOp) (w : Who) (lanes : List LaneAcc) : Access :=
  { op := op, uid := 0, who := w, seq := 0, stream := none, ord := 0, scope := 0, noalloc := true, targets := [], lanes := lanes,
    chain := none, lit := 0, desc := 0, faulted := false, fails := [], recd := true, retired := false, gates := [] }

/-- Send every lane of an engine's access. -/
def State.sendEngine (s : State) (a : Nat) (x : Access) : State :=
  x.lanes.foldl (fun s m => s.sendRemote a m.lane) (s.setAcc a x)

/-- What a read gives that may have to wait for another module. -/
inductive Reading
  | wait (s : State)
  | fail (s : State)
  | ok (s : State) (bs : List Byte)

/-- R428: bytes at these addresses (virtual, physical, length) of another module, in order: an access of their own
reads them, which is found again by its site, partition and addresses and used once. -/
def State.farRead (s : State) (w : Who) (qs : List (Int × Nat × Nat)) : Reading :=
  match s.accs.find? (fun e => e.2.uid == 0 && e.2.op == .ld false && e.2.who.part == w.part && e.2.who.ag.site == w.ag.site
      && e.2.lanes.map (fun m => (m.ea, m.pa, m.size)) == qs) with
  | none => .wait (s.bump.sendEngine s.fresh (engineAccess (.ld false) w (qs.mapIdx (fun i q =>
      { LaneAcc.new i q.1 q.2.2 [] [] 0 with pa := q.2.1, st := .todo }))))
  | some (a, y) =>
    if !y.lanes.all (fun m => m.st == .done) then .wait s
    else
      let s := { s with accs := tdel s.accs a }
      if y.fails ≠ [] then .fail s else .ok s (y.lanes.flatMap (fun m => m.got))

/-! ## Descriptors -/

/-- R215: bytes of an element code; none for a reserved one. -/
def eltBytes (c : Nat) : Option Nat :=
  if c = 4 ∨ c = 5 ∨ c = 10 ∨ c = 11 then some 1
  else if c = 2 ∨ c = 3 ∨ c = 8 ∨ c = 9 then some 2
  else if c = 0 ∨ c = 1 ∨ c = 7 then some 4
  else if c = 12 then some 8 else none

def CopyDesc.sBytes (d : CopyDesc) : Nat := (eltBytes d.sfmt).getD 1
def CopyDesc.dBytes (d : CopyDesc) : Nat := (eltBytes d.dfmt).getD 1

/-- R214 to R217: the fields of a descriptor's 128 bytes, and whether its reserved bits are zero. -/
def copyFields (bs : List Byte) : CopyDesc × Bool :=
  let q := fun (o n : Nat) => leNat ((bs.drop o).take n)
  let a := q 0 8
  let b := q 8 8
  let c := q 0x10 4
  let y := q 0x14 4
  let k := nfld c 4 4
  let n := nfld c 0 4
  let ss := (eltBytes (nfld c 8 4)).getD 1
  let ds := (eltBytes (nfld c 12 4)).getD 1
  let ext0 := nfld a 57 7 + 128 * nfld b 57 7 + 1
  let dim := fun (j : Nat) => let w := q (0x18 + 8 * j) 8
    (nfld w 0 12 + 1, sxN 24 (nfld w 12 24) * (2 ^ k : Nat), sxN 24 (nfld w 36 24) * (2 ^ k : Nat))
  let d : CopyDesc := { src := BitVec.ofInt 64 (sxN 57 a), dst := BitVec.ofInt 64 (sxN 57 b), srcKind := nfld c 28 2,
                        dstKind := nfld c 26 2, rel := nfld c 22 3, acq := nfld c 19 3, sat := nfld c 18 1 == 1, mode := nfld c 16 2,
                        dfmt := nfld c 12 4, sfmt := nfld c 8 4,
                        dims := (ext0, (ss : Int), (ds : Int)) :: (List.range n).map dim, inc := nfld y 16 16,
                        remote := nfld y 15 1 == 1, semTile := nfld y 6 9, sem := nfld y 0 6 }
  (d, nfld c 30 2 == 0 && nfld c 25 1 == 0 && decide (n ≤ 13)
    && (List.range 13).all (fun j => if j < n then nfld (q (0x18 + 8 * j) 8) 60 4 == 0 else q (0x18 + 8 * j) 8 == 0))

/-- R218, R220: what a descriptor must meet on the engine of site `x` of partition `p`. -/
def State.copyOk (s : State) (p : Nat) (x : Site) (d : CopyDesc) : Bool :=
  let whole := fun (a : Int) (n : Nat) => decide (a % n = 0)
  let src := d.src.toInt
  let dst := d.dst.toInt
  let stage := fun (a : Int) => isElem x && decide (a % 2 ^ 57 < 2 ^ 21)
  decide (d.srcKind ≤ 2) && decide (d.dstKind ≤ 2) && decide (d.rel ≤ 4) && decide (d.acq ≤ 4)
    && (eltBytes d.sfmt).isSome && (eltBytes d.dfmt).isSome && ((d.sfmt == 12) == (d.dfmt == 12))
    && (d.srcKind != 1 || stage src) && (d.dstKind != 1 || stage dst)
    && (d.srcKind == 2 || whole src d.sBytes && d.dims.all (fun e => whole e.2.1 d.sBytes))
    && (if d.dstKind = 2 then
          d.dfmt == 12 && decide (nfld d.dst.toNat 0 57 < 512) && decide (nfld d.dst.toNat 0 7 < 96)
            && s.owns p (.elem (96 * nfld d.dst.toNat 7 2 + nfld d.dst.toNat 0 7))
        else whole dst d.dBytes)
    && d.dims.all (fun e => whole e.2.2 d.dBytes)
    && (!d.remote || s.reaches p (.tile d.semTile)) && (d.remote || d.inc == 0 || !isElem x)

/-! ## Copies in their slots -/

def State.copy? (s : State) (x : Site) (n : Nat) : Option Copy := tget (s.site x).copies n

def State.setCopy (s : State) (x : Site) (n : Nat) (c : Copy) : State :=
  s.modSite x (fun v => { v with copies := tset v.copies n c })

/-- Change every fence entry of a site's cells. -/
def State.modFences (s : State) (x : Site) (f : FenceEnt → FenceEnt) : State :=
  { s with cells := s.cells.map (fun e =>
      if e.1.site = x then (e.1, { e.2 with fences := e.2.fences.map (fun n => (n.1, f n.2)) }) else e) }

/-- R288: a fault of a copy marks the fence entries that cover it, or the chain that started it, and that chain. -/
def State.copyFaulted (s : State) (x : Site) (n : Nat) (c : Copy) : State :=
  let s := match c.issuer with
    | .thread _ => s
    | .chain k => s.modSite x (fun v => { v with chains := tmod v.chains k (fun h => { h with faulted := true }) })
  let byChain := fun (e : FenceEnt) => match c.issuer with
    | .thread _ => false
    | .chain k => ((s.site x).chains.filter (fun h => h.1 = k)).any (fun h => e.chains.contains (x, k, h.2.gen.toNat))
  s.modFences x (fun e => if e.copies.contains (x, n, c.gen.toNat) || byChain e then { e with faulted := true } else e)

/-- R221: a fault ends a copy: no later chunk, no semaphore; chunks in flight finish. -/
def State.copyFault (s : State) (x : Site) (n : Nat) (c : Copy) (code : Nat) (items : List Word) : State :=
  let s := s.raise c.who code (c.who.details 0 items)
  let s := s.copyFaulted x n c
  (s.modSite x (fun v => { v with copies := tmod v.copies n (fun c => { c with failed := true }) })).postEv .copyComplete { site := x, a := n }

/-- R221: the items of a "copy address" fault. -/
def copyAddr (n : Nat) (c : Copy) (chunk : Nat) (a : Int) : List Word := [copyHandle n c.gen, w32 chunk] ++ addrWords a

/-- R220: the descriptor's bytes are checked; a good one starts the copy. -/
def State.copyParse (s : State) (x : Site) (n : Nat) (c : Copy) (bs : List Byte) : State :=
  let d := copyFields bs
  if d.2 && s.copyOk c.who.part x d.1 then
    (s.setCopy x n { c with parsed := some d.1 }).postEv .copyChunk { site := x, a := n }
  else s.copyFault x n c 0x010C []

/-- R220, R221, R428: read and check the descriptor at its home, which may be another module's. -/
def State.copyDescriptor (s : State) (x : Site) (n : Nat) (c : Copy) : State :=
  let p := c.who.part
  let again := s.postEv .copyDescriptorRead { site := x, a := n }
  if c.desc % 128 ≠ 0 then s.copyFault x n c 0x010C []
  else match s.engXlate p x c.desc false 0 with
    | .hold => again
    | .miss => (s.setCopy x n { c with parked := some (pageOf c.desc, 1) }).parkEngine x c.who 1 c.desc (addrWords c.desc)
    | .cow => again
    | .fail => s.copyFault x n c 0x010D (copyAddr n c 0xFFFFFFFF c.desc)
    | .ok pa _ =>
      if isAperture pa then
        (match s.farRead c.who [(c.desc, pa, 128)] with
        | .wait s => s.postEv .copyDescriptorRead { site := x, a := n }
        | .fail s => s.copyFault x n c 0x010D (copyAddr n c 0xFFFFFFFF c.desc)
        | .ok s bs => s.copyParse x n c bs)
      else match s.engLine x p c.who.region (lineOf pa) with
        | none => again.wantLast x p c.who.region [lineOf pa]
        | some s =>
          if s.badAt pa 128 then
            (s.engError c.who x 4 pa 128).copyFault x n c 0x010C []
          else s.copyParse x n c (rdN s.mem pa 128)

/-- R220. Acts on site, a = slot. -/
def execCopyDescriptorRead (s : State) : Out :=
  let x := s.subj.site
  let n := s.subj.a
  match s.copy? x n with
  | none => .next s
  | some c =>
    if c.cancelled || c.failed || c.parked.isSome || c.parsed.isSome then .next s
    else if s.copyIdle x c.who.part || !s.gateOpen c.gate then .next (s.postEv .copyDescriptorRead { site := x, a := n })
    else .next (s.copyDescriptor x n c)

/-! ## Chunks (R218) -/

/-- Elements of a copy. -/
def CopyDesc.total (d : CopyDesc) : Nat := (d.dims.map (fun e => e.1)).foldl (· * ·) 1
/-- Elements of a chunk. -/
def CopyDesc.per (d : CopyDesc) : Nat := 4096 / d.dBytes

/-- R218: source and destination offsets of element `e` in visit order. -/
def elemOffs : List (Nat × Int × Int) → Nat → Int × Int
  | [], _ => (0, 0)
  | (n, a, b) :: ds, e => let r := elemOffs ds (e / n); ((e % n : Nat) * a + r.1, (e % n : Nat) * b + r.2)

/-- Where an element comes from. -/
inductive ElemSrc
  | zero
  | stage (off : Nat)
  | mem (pa repl : Nat)
  deriving DecidableEq, Repr

/-- What the places of a chunk meet. -/
inductive ChunkX
  | ok (es : List (ElemSrc × ElemDst))
  | hold
  | park (code : Nat) (ea : Int)
  | fail (a : Int)

def EngX.chunk (r : EngX) (ea : Int) (k : Nat → Nat → ChunkX) : ChunkX :=
  match r with
  | .hold => .hold
  | .ok pa repl => k pa repl
  | .miss => .park 1 ea
  | .cow => .park 2 ea
  | .fail => .fail ea

/-- A stage offset within the stage. -/
def inStage (a : Int) (n : Nat) : Bool := decide (0 ≤ a ∧ a + n ≤ 2 ^ 21)

/-- The place an element goes to. -/
def State.elemDst (s : State) (p : Nat) (x : Site) (d : CopyDesc) (off : Int) (n : Nat) (k : ElemDst → ChunkX) : ChunkX :=
  let a := d.dst.toInt + off
  match d.dstKind with
  | 0 => (s.engXlate p x a true n).chunk a (fun pa _ => k (.mem a pa))
  | 1 => if inStage a d.dBytes then k (.stage a.toNat) else .fail a
  | _ => k (.band (96 * nfld d.dst.toNat 7 2 + nfld d.dst.toNat 0 7))

/-- The place an element comes from. -/
def State.elemSrc (s : State) (p : Nat) (x : Site) (d : CopyDesc) (off : Int) (n : Nat) (k : ElemSrc → ChunkX) : ChunkX :=
  let a := d.src.toInt + off
  match d.srcKind with
  | 0 => (s.engXlate p x a false n).chunk a (fun pa repl => k (.mem pa repl))
  | 1 => if inStage a d.sBytes then k (.stage a.toNat) else .fail a
  | _ => k .zero

/-- The places of the elements of a chunk, or what the first that has none meets. -/
def State.chunkPlaces (s : State) (p : Nat) (x : Site) (d : CopyDesc) : List Nat → ChunkX
  | [] => .ok []
  | e :: es =>
    let o := elemOffs d.dims e
    s.elemSrc p x d o.1 (2 * e) (fun src =>
      s.elemDst p x d o.2 (2 * e + 1) (fun dst =>
        match s.chunkPlaces p x d es with
        | .ok r => .ok ((src, dst) :: r)
        | r => r))

/-- R158, R218: the destination bytes of one element. -/
def CopyDesc.convert (d : CopyDesc) (bs : List Byte) : List Byte :=
  let v := leNat bs
  leBytes d.dBytes (if d.sfmt = d.dfmt then v else (cvtElem d.sfmt d.dfmt d.mode d.sat v % 2 ^ (8 * d.dBytes)).toNat)

/-- The element number of an element site. -/
def elemNum (x : Site) : Nat := match x with | .elem e => e | _ => 0

def Elem.rd (e : Elem) (o n : Nat) : List Byte := (List.range n).map (fun i => tgetD e.stage (o + i) 0)
def Elem.wr (e : Elem) (o : Nat) (bs : List Byte) : Elem :=
  { e with stage := (bs.mapIdx (fun i b => (o + i, b))).foldl (fun t b => tset t b.1 b.2) e.stage }

/-- One element as read: none when it is poisoned. `far` holds what another module sent. -/
def State.elemRead (s : State) (x : Site) (d : CopyDesc) (i : Nat) (far : Option Access) : ElemSrc → Option (List Byte)
  | .zero => some (leBytes d.dBytes 0)
  | .stage o => some (d.convert ((s.elem (elemNum x)).rd o d.sBytes))
  | .mem pa _ =>
    if isAperture pa then far.bind (fun y => (y.lane? i).map (fun m => d.convert m.got))
    else if s.engBad x d.acq pa d.sBytes then none
    else some (d.convert (s.engRead x d.acq pa d.sBytes))

/-- The lanes that a chunk reads from another module. -/
def farLanes (d : CopyDesc) (es : List (ElemSrc × ElemDst)) : List LaneAcc :=
  (es.mapIdx (fun i e => match e.1 with
    | .mem pa _ => if isAperture pa then [{ LaneAcc.new i pa d.sBytes [] [] 0 with pa := pa, st := .todo }] else []
    | _ => [])).flatten

/-- R218: a chunk starts: its sources are read, its writes go into flight. -/
def State.chunkRead (s : State) (x : Site) (n : Nat) (c : Copy) (d : CopyDesc) (es : List (ElemSrc × ElemDst)) (far : Option Access) (fill : Nat) : State :=
  let vals := es.mapIdx (fun i e => (e.2, s.elemRead x d i far e.1))
  let bad := vals.filter (fun v => v.2.isNone)
  let ea := fun (t : ElemDst) => match t with | .mem a _ => a | .stage o => (o : Int) | .band _ => d.dst.toInt
  let s := match es.find? (fun e => (match e.1 with | .mem pa _ => !isAperture pa && s.engBad x d.acq pa d.sBytes | _ => false)) with
    | some (.mem pa _, _) => s.engError c.who x d.acq pa d.sBytes
    | _ => s
  let k : Chunk := ⟨c.next / d.per, vals.filterMap (fun v => v.2.map (fun b => (v.1, b))), fill⟩
  let c := { c with next := c.next + es.length, flight := c.flight ++ [k], fetching := none, suppressed := c.suppressed + bad.length,
                    firstSup := (match c.firstSup with | some a => some a | none => (bad.head?).map (fun v => ea v.1)) }
  let s := (s.setCopy x n c).postEv .copyChunk { site := x, a := n, b := 1, c := k.idx }
  if c.next < d.total then s.postEv .copyChunk { site := x, a := n } else s

/-- The lines of a list of addresses that a home of the module serves. -/
def wantLines (as : List (Nat × Nat)) : List Nat := (as.filter (fun a => !isAperture a.1)).map (fun a => lineOf a.1)

/-- The line of the write that a chunk waits to make. -/
def writeLines (ws : List (ElemDst × List Byte)) : List Nat :=
  match ws with
  | (.mem _ pa, _) :: _ => wantLines [(pa, 0)]
  | _ => []

/-- R218, R221: the next chunk of a copy starts, or holds. -/
def State.chunkStart (s : State) (x : Site) (n : Nat) (c : Copy) (d : CopyDesc) : State :=
  let p := c.who.part
  let again := fun (s : State) => s.postEv .copyChunk { site := x, a := n }
  let elems := (List.range (min d.per (d.total - c.next))).map (fun i => c.next + i)
  match s.chunkPlaces p x d elems with
  | .hold => again s
  | .park code ea => (s.setCopy x n { c with parked := some (pageOf ea, code) }).parkEngine x c.who code ea []
  | .fail a => s.copyFault x n c 0x010D (copyAddr n c (c.next / d.per) a)
  | .ok es =>
    let lanes := farLanes d es
    let srcs := es.filterMap (fun e => match e.1 with | .mem pa r => some (pa, r) | _ => none)
    let touch := fun (s : State) => s.bump.engTouchAll p c.who.region x d.acq s.fresh srcs
    let line := fun (s : State) => (again s).wantLast x p c.who.region (wantLines srcs)
    match c.fetching with
    | none =>
      if lanes ≠ [] then
        again ((s.bump.setCopy x n { c with fetching := some s.fresh }).sendEngine s.fresh (engineAccess (.ld false) c.who lanes))
      else
        match touch s with
        | none => line s
        | some s' => s'.chunkRead x n c d es none s.fresh
    | some a =>
      match s.acc? a with
      | none => again (s.setCopy x n { c with fetching := none })
      | some y =>
        if !y.lanes.all (fun m => m.st == .done) then again s
        else
          let s := { s with accs := tdel s.accs a }
          match y.fails with
          | f :: _ => s.copyFault x n c 0x010D (copyAddr n c (c.next / d.per) ((y.lane? f.1).elim 0 (fun m => m.ea)))
          | [] =>
            match touch s with
            | none => line ({ s with accs := tset s.accs a y })
            | some s' => s'.chunkRead x n c d es (some y) s.fresh

/-- R218: an earlier copy of the engine still has elements for this side band; of one that a fault or a cancellation
has ended, the chunks in flight. -/
def State.bandWaits (s : State) (x : Site) (n : Nat) (c : Copy) (idx e : Nat) : Bool :=
  (s.site x).copies.any (fun k => let on := !k.2.failed && !k.2.cancelled
    decide (k.2.seq < c.seq) && (match k.2.parsed with
      | none => on
      | some d => d.dstKind == 2 && 96 * nfld d.dst.toNat 7 2 + nfld d.dst.toNat 0 7 == e
          && ((on && decide (k.2.next < d.total)) || !k.2.flight.isEmpty)))
    || (match s.copy? x n with
        | none => false
        | some c => c.flight.any (fun k => decide (k.idx < idx)))

/-- R198: the side-band queue of an element holds this many entries. -/
def sideBandSize : Nat := 16

/-- One write of a chunk: the state and the collapses it waits for, an access that another module must
acknowledge; none where it must wait. -/
def State.chunkWrite (s : State) (x : Site) (w : Who) : ElemDst × List Byte → Option (State × List Nat × Option Nat)
  | (.mem ea pa, bs) =>
    if isAperture pa then
      let m := { LaneAcc.new 0 ea bs.length bs (fullMask bs) 0 with pa := pa, st := .todo }
      some (s.bump.sendEngine s.fresh (engineAccess .st w [m]), [], some s.fresh)
    else match s.engPlace pa 0 with
      | .hold => none
      | .ok _ _ => (s.engLine x w.part w.region (lineOf pa)).map (fun s =>
          let r := s.writeHome (some x) pa bs (fullMask bs)
          (r.1, r.2, none))
      | _ => some (s, [], none)
  | (.stage o, bs) => some (s.setElem (elemNum x) ((s.elem (elemNum x)).wr o bs), [], none)
  | (.band e, bs) =>
    let v := s.elem e
    if sideBandSize ≤ v.side.length then none
    else
      let q := (BitVec.ofNat 8 (leNat bs), w32 (leNat bs / 2 ^ 32))
      some (s.setElem e { v with side := v.side ++ [q] }, [], none)

/-- The writes of a chunk up to one that must wait: the state, what is left, the collapses and accesses. -/
def State.chunkWrites (s : State) (x : Site) (w : Who) : List (ElemDst × List Byte) → State × List (ElemDst × List Byte) × List Nat × List Nat
  | [] => (s, [], [], [])
  | e :: es =>
    match s.chunkWrite x w e with
    | none => (s, e :: es, [], [])
    | some (s, ids, a) =>
      let r := s.chunkWrites x w es
      (r.1, r.2.1, ids ++ r.2.2.1, a.toList ++ r.2.2.2)

/-- R300: the address of the first of a chunk's writes whose line is homed on a die that has been lost since. -/
def State.lostWrite (s : State) (ws : List (ElemDst × List Byte)) : Option Int :=
  ws.findSome? (fun w => match w.1 with
    | .mem ea pa => (match s.engPlace pa 0 with | .fail => if isAperture pa then none else some ea | _ => none)
    | _ => none)

/-- R218, R422: a chunk in flight writes, once the fills that its reads brought are written. A write that a lost die
keeps from being performed ends the copy as a translation that fails does (R221, R300; assumption 10). -/
def State.chunkFinish (s : State) (x : Site) (n : Nat) (c : Copy) (k : Chunk) : State :=
  let waits := match k.writes.head? with
    | some (.band e, _) => s.bandWaits x n c k.idx e
    | _ => false
  if waits || (k.fill ≠ 0 && s.fillAhead k.fill) then s.postEv .copyChunk { site := x, a := n, b := 1, c := k.idx }
  else
    let r := s.chunkWrites x c.who k.writes
    let rest := c.flight.filter (fun j => decide (j.idx ≠ k.idx))
    let c := { c with owed := c.owed ++ r.2.2.1, sent := c.sent ++ r.2.2.2,
                      flight := if r.2.1 = [] then rest else { k with writes := r.2.1 } :: rest }
    let s := r.1.setCopy x n c
    let s := if r.2.1 ≠ [] then (s.postEv .copyChunk { site := x, a := n, b := 1, c := k.idx }).wantLast x c.who.part c.who.region (writeLines r.2.1)
      else s.postEv .copyComplete { site := x, a := n }
    match s.lostWrite (k.writes.take (k.writes.length - r.2.1.length)) with
    | some a => if c.failed || c.cancelled then s else s.copyFault x n c 0x010D (copyAddr n c k.idx a)
    | none => s

/-- R218. Acts on site, a = slot; b = 1: the writes of chunk c in flight. -/
def execCopyChunk (s : State) : Out :=
  let x := s.subj.site
  let n := s.subj.a
  match s.copy? x n with
  | none => .next s
  | some c =>
    if s.subj.b = 1 then
      match c.flight.find? (fun k => k.idx = s.subj.c) with
      | none => .next s
      | some k => .next (s.chunkFinish x n c k)
    else if c.cancelled || c.failed || c.parked.isSome then .next s
    else match c.parsed with
      | none => .next s
      | some d =>
        if s.copyIdle x c.who.part then .next (s.postEv .copyChunk { site := x, a := n })
        else if c.next < d.total then .next (s.chunkStart x n c d)
        else .next s

/-! ## Completion (R219) -/

/-- The sync word's increment (R216): at this engine's own tile, or sent as a message. -/
def State.copySync (s : State) (x : Site) (d : CopyDesc) (inv : Nat) : State :=
  if d.inc = 0 then s
  else if d.remote then s.queueSem (.tile d.semTile) d.sem (w32 d.inc) false [] 0 inv
  else s.addSem x d.sem (w32 d.inc) inv

/-- A copy leaves its slot: its issuer's count falls, fences that cover it and later ones of its issuer go on with its
collapses (R287, R288); one that completed adds to its semaphore. -/
def State.endCopy (s : State) (x : Site) (n : Nat) (c : Copy) (ok : Bool) : State :=
  let s := s.modSite x (fun v => { v with copies := tdel v.copies n, copyGens := tset v.copyGens n (c.gen + 1) })
  let s := s.modFences x (fun e => if e.copies.contains (x, n, c.gen.toNat) then { e with owed := e.owed ++ c.owed } else e)
  let s := if c.suppressed = 0 then s
    else (s.raise c.who 0x0112 (c.who.poisonRecord c.who.ag 2 (c.firstSup.getD 0) (w32 c.suppressed))).copyFaulted x n c
  let s := match c.issuer with
    | .thread u => (s.modThr u (fun t => { t with cpOwed := s.unacked (t.cpOwed ++ c.owed) })).fall u .cp
    | .chain k => s.modSite x (fun v => { v with chains := tmod v.chains k (fun h =>
        { h with copies := h.copies.filter (· ≠ n), owed := h.owed ++ c.owed }) })
  let s := s.retest x
  match c.parsed with
  | none => s
  | some d => if ok then s.copySync x d c.who.inv else s

/-- R219, R236: a copy completes once its release has performed; a cancelled or failed one ends when its
chunks in flight have finished. Acts on site, a = slot. -/
def execCopyComplete (s : State) : Out :=
  let x := s.subj.site
  let n := s.subj.a
  match s.copy? x n with
  | none => .next s
  | some c =>
    if c.flight ≠ [] then .next s
    else if c.cancelled || c.failed then .next (s.endCopy x n c false)
    else match c.parsed with
      | none => .next s
      | some d =>
        if c.next < d.total then .next s
        else if c.refused.isSome then .next (s.copyFault x n c 0x010D (copyAddr n c ((c.next - 1) / d.per) (c.refused.getD 0)))
        else if c.sent.any (fun a => !s.performed a 4) || s.owingAt x (max 1 d.rel) c.owed then
          .next (s.postEv .copyComplete { site := x, a := n })
        else .next (s.endCopy x n c true)

end Sys2Proof.Machine
end

