-- ==== Sys2Proof/Machine/CmdBlocks.lean ====
section
/-! DEFINITION. Command-block chains: fetching ahead (R226, R227, R423), the blocks (R224, R225, R424, R425), the
chain's end (R228). -/

namespace Sys2Proof.Machine

/-! ## Blocks (R224, R225) -/

def Block.q (b : Block) (o n : Nat) : Nat := leNat ((b.bytes.drop o).take n)
def Block.kind (b : Block) : Nat := nfld (b.q 0 4) 0 4
def Block.waits (b : Block) : Bool := nfld (b.q 0 4) 4 1 == 1
def Block.next (b : Block) : Nat := b.q 8 8
def Block.alt (b : Block) : Nat := b.q 0x10 8
def Block.body (b : Block) : Nat := b.q 0x20 8

/-- Bytes of the kind fields that R225 lists, from 0x18 on. -/
def blockFields : Nat → List (Nat × Nat)
  | 1 => [(0x18, 8)]
  | 2 => [(0x18, 4), (0x1C, 4)]
  | 3 => [(0x18, 4), (0x20, 8), (0x28, 4), (0x2C, 4), (0x30, 4)]
  | 4 => [(0x18, 4), (0x20, 8)]
  | 5 => [(0x20, 8)]
  | _ => []

/-- R224, R225: bytes not listed are zero. -/
def Block.zeros (b : Block) : Bool :=
  (List.range 40).all (fun i => (blockFields b.kind).any (fun f => decide (f.1 ≤ 0x18 + i ∧ 0x18 + i < f.1 + f.2)) || b.bytes.getD (0x18 + i) 0 == 0)

/-- R224 to R226: the block follows its tables on the engine of site `x` of partition `p`. -/
def State.blockOk (s : State) (p : Nat) (x : Site) (b : Block) : Bool :=
  let h := b.q 0 4
  let c := b.q 0x18 4
  nfld h 5 27 == 0 && decide (b.kind ≤ 7) && b.q 4 4 == 0 && b.next % 64 == 0 && b.alt % 64 == 0 && b.zeros
    && (match b.kind with
      | 2 => nfld c 21 11 == 0 && decide (nfld c 16 2 ≤ 1) && decide (nfld c 18 3 ≤ 4)
          && (if nfld c 15 1 = 1 then s.reaches p (.tile (nfld c 6 9)) else !isElem x)
      | 3 => nfld c 15 17 == 0 && decide (nfld c 1 3 ≤ 3) && decide (nfld c 4 2 ≤ 2) && decide (nfld c 12 3 ≤ 4)
          && (if nfld c 0 1 = 0 then !isElem x else b.q 0x20 8 % 4 == 0)
      | 4 => b.body % 64 == 0
      | 5 => b.body % 8 == 0
      | _ => true)

/-- The event by which a block runs; a malformed one stops the chain as its fetch is taken up. -/
def State.blockEvent (s : State) (p : Nat) (x : Site) (b : Block) : Instr :=
  if !s.blockOk p x b then .commandBlockFetch
  else match b.kind with
    | 0 => .linkBlock
    | 1 => .copyBlock
    | 2 => .semaphoreBlock
    | 3 => .testBlock
    | 4 => .loopBlock
    | 5 => .callBlock
    | 6 => .returnBlock
    | _ => .fetchFenceBlock

/-! ## Chains in their slots -/

def State.cb? (s : State) (x : Site) (n : Nat) : Option CbChain := tget (s.site x).chains n

def State.setCb (s : State) (x : Site) (n : Nat) (c : CbChain) : State :=
  s.modSite x (fun v => { v with chains := tset v.chains n c })

/-- The block that is next to run is taken up. -/
def State.callHead (s : State) (x : Site) (n : Nat) (c : CbChain) : State :=
  match c.window with
  | [] => s
  | b :: _ => s.postEv (s.blockEvent c.who.part x b) { site := x, a := n, b := 1 }

/-- R226: the chain stops with a "command block" fault that names its handle and the block address. -/
def State.cbFault (s : State) (x : Site) (n : Nat) (c : CbChain) (va : Int) : State :=
  let s := s.raise c.who 0x010E (c.who.details 0 (cbHandle n c.gen :: addrWords va))
  let s := s.modFences x (fun e => if e.chains.contains (x, n, c.gen.toNat) then { e with faulted := true } else e)
  (s.setCb x n { c with stopped := true, testing := none, faulted := true }).postEv .chainEnd { site := x, a := n }

/-- R226, R423, R428: read n bytes of a block, a pointer or a test word; a miss parks the chain. -/
def State.cbRead (s : State) (x : Site) (n : Nat) (c : CbChain) (va : Int) (k acq : Nat) (again : State → State) : Reading :=
  let p := c.who.part
  match s.engXlate p x va false 0 with
  | .hold => .wait (again s)
  | .cow => .wait (again s)
  | .miss => .wait ((s.setCb x n { c with parked := some (pageOf va, 1) }).parkEngine x c.who 1 va [])
  | .fail => .fail s
  | .ok pa repl =>
    if isAperture pa then
      (match s.farRead c.who [(va, pa, k)] with
      | .wait s => .wait (again s)
      | r => r)
    else match s.engTouch p c.who.region x acq 0 pa repl with
      | none => .wait ((again s).wantLast x p c.who.region [lineOf pa])
      | some s => if s.engBad x acq pa k then .fail (s.engError c.who x acq pa k) else .ok s (s.engRead x acq pa k)

/-- A link as an address. -/
def linkVa (l : Nat) : Int := (BitVec.ofNat 64 l).toInt

/-- R227: a kind whose next links are fetched ahead. -/
def Block.ahead (b : Block) : Bool := decide (b.kind ≤ 2)

/-- R423: the window is complete. -/
def CbChain.complete (c : CbChain) : Bool :=
  decide (5 ≤ c.window.length) || (match c.window.getLast? with | none => false | some b => !b.ahead) || c.fetch.isNone

/-- R227, R423: fetch the next block into the window. -/
def State.cbFetch (s : State) (x : Site) (n : Nat) (c : CbChain) (l : DWord) : State :=
  let again := fun (s : State) => s.postEv .commandBlockFetch { site := x, a := n }
  if l.toNat % 64 ≠ 0 then s.cbFault x n c l.toInt
  else match s.cbRead x n c l.toInt 64 4 again with
    | .wait s => s
    | .fail s => s.cbFault x n c l.toInt
    | .ok s bs =>
      let b : Block := ⟨l.toInt, bs⟩
      let more := b.ahead && s.blockOk c.who.part x b && b.next != 0
      let c' := { c with window := c.window ++ [b], fetch := if more then some (BitVec.ofNat 64 b.next) else none }
      let s := s.setCb x n c'
      let s := if c.window = [] then s.callHead x n c' else s
      if more then again s else s

/-- R223, R226: the chain does not act: stopped, parked or its engine idle. -/
def State.cbHeld (s : State) (x : Site) (c : CbChain) : Bool := c.stopped || c.ended || c.parked.isSome || s.copyIdle x c.who.part

/-- Acts on site, a = slot; b = 1: a malformed block is next to run. -/
def execCommandBlockFetch (s : State) : Out :=
  let x := s.subj.site
  let n := s.subj.a
  match s.cb? x n with
  | none => .next s
  | some c =>
    if c.stopped || c.ended || c.parked.isSome then .next s
    else if s.copyIdle x c.who.part then .next (s.postEv .commandBlockFetch s.subj)
    else if s.subj.b = 1 then
      match c.window with
      | [] => .next s
      | b :: _ => .next (if s.blockOk c.who.part x b then s.callHead x n c else s.cbFault x n c b.va)
    else if !s.gateOpen c.gate || decide (5 ≤ c.window.length) then .next (s.postEv .commandBlockFetch { site := x, a := n })
    else match c.fetch with
      | none => .next s
      | some l => .next (s.cbFetch x n c l)

/-! ## Running a block -/

/-- The chain goes on at a link with an empty window; 0 ends it. -/
def State.cbGo (s : State) (x : Site) (n : Nat) (c : CbChain) (link : Nat) : State :=
  if link = 0 then (s.setCb x n { c with window := [], fetch := none, ended := true, testing := none, skipping := false }).postEv .chainEnd { site := x, a := n }
  else (s.setCb x n { c with window := [], fetch := some (BitVec.ofNat 64 link), testing := none, skipping := false }).postEv
    .commandBlockFetch { site := x, a := n }

/-- After a link, copy or semaphore block: the next block of the window. -/
def State.cbNext (s : State) (x : Site) (n : Nat) (c : CbChain) : State :=
  let c' := { c with window := c.window.drop 1 }
  match c.window.drop 1, c.fetch with
  | [], none => s.cbGo x n c 0
  | [], some _ => s.setCb x n c'
  | _ :: _, _ => (s.setCb x n c').callHead x n c'

/-- The head of a chain's window, when its own event may run it: its copies have completed under a wait bit;
a link, copy or semaphore block has its window complete (R224, R423). -/
def State.cbRun (s : State) (i : Instr) (body : Site → Nat → CbChain → Block → State) : Out :=
  let x := s.subj.site
  let n := s.subj.a
  match s.cb? x n with
  | none => .next s
  | some c =>
    if c.stopped || c.ended || c.parked.isSome || c.testing.isSome then .next s
    else match c.window with
      | [] => .next s
      | b :: _ =>
        if s.blockEvent c.who.part x b ≠ i then .next s
        else if s.copyIdle x c.who.part || (b.waits && !c.copies.isEmpty) || (b.ahead && !c.complete) then
          .next (s.postEv i { site := x, a := n, b := 1 })
        else .next (body x n c b)

/-- R225. Acts on site, a = slot. -/
def execLinkBlock (s : State) : Out := s.cbRun .linkBlock (fun x n c _ => s.cbNext x n c)

/-- R225: the copy starts as COPY would start it, once a slot is free. Acts on site, a = slot. -/
def execCopyBlock (s : State) : Out := s.cbRun .copyBlock (fun x n c b =>
  match s.startCopy x (linkVa (b.q 0x18 8)) (.chain n) c.who [] with
  | none => s.postEv .copyBlock { site := x, a := n, b := 1 }
  | some (s, k, _) => s.cbNext x n { c with copies := c.copies ++ [k] })

/-- R225, R231, R425: the operation takes effect, after its release, before the next block.
Acts on site, a = slot. -/
def execSemaphoreBlock (s : State) : Out := s.cbRun .semaphoreBlock (fun x n c b =>
  let w := b.q 0x18 4
  let k := nfld w 0 6
  let y := if nfld w 15 1 = 1 then Site.tile (nfld w 6 9) else x
  let v := w32 (b.q 0x1C 4)
  let rel := nfld w 18 3
  if s.away y c.who.inv || (s.semBusy y k && !s.idleSite y) || (rel != 0 && (c.gate.any (fun a => !s.performed a rel) || s.owingAt x rel c.owed)) then
    s.postEv .semaphoreBlock { site := x, a := n, b := 1 }
  else (s.setSem y k (if nfld w 16 2 = 1 then v else s.sem y k + v)).cbNext x n c)

/-- R225: the comparison of a test block. -/
def testHolds (cmp : Nat) (v b : Word) : Bool :=
  match cmp with
  | 0 => decide (Zx b ≤ Zx v)
  | 1 => v == b
  | 2 => v != b
  | _ => decide (Zx v < Zx b)

/-- The value that a test block compares, through `k`; a memory word is read with its acquire scope. -/
def State.testValue (s : State) (x : Site) (n : Nat) (c : CbChain) (b : Block) (again : State → State) : Reading :=
  let w := b.q 0x18 4
  if nfld w 0 1 = 0 then .ok s (leBytes 4 (s.sem x (nfld w 6 6)).toNat)
  else s.cbRead x n c (linkVa (b.q 0x20 8)) 4 (nfld w 12 3) again

/-- R225, R424: outcome skip: the block at next is read, and the chain goes on at that block's own next. Where the
read holds, only the read is made again (R226). -/
def State.skipBlock (s : State) (x : Site) (n : Nat) (c : CbChain) (b : Block) (again : State → State) : State :=
  if b.next = 0 then s.cbGo x n c 0
  else
    let c := { c with skipping := true }
    match (s.setCb x n c).cbRead x n c (linkVa b.next) 64 4 again with
    | .wait s => s
    | .fail s => s.cbFault x n c (linkVa b.next)
    | .ok s bs =>
      let l := (Block.mk 0 bs).next
      if l % 64 ≠ 0 then s.cbFault x n c (linkVa b.next) else s.cbGo x n c l

/-- R225, R424: the outcome false: alternate, skip, or wait. -/
def State.testFalse (s : State) (x : Site) (n : Nat) (c : CbChain) (b : Block) (again : State → State) : State :=
  match nfld (b.q 0x18 4) 4 2 with
  | 0 => s.cbGo x n c b.alt
  | 1 =>
    let T := b.q 0x30 4
    let dl := if T = 0xFFFFFFFF then none else some (s.work c.who.part + T)
    let s := s.setCb x n { c with testing := some dl, retest := s.cycle + 256 }
    let s := if nfld (b.q 0x18 4) 0 1 = 1 then s.postEv .testBlockRetest { site := x, a := n } else s
    if dl.isSome then s.postEv .testBlockTimeout { site := x, a := n } else s
  | _ => s.skipBlock x n c b again

/-- R225: the words of a test hold. -/
def Block.holds (b : Block) (bs : List Byte) : Bool :=
  testHolds (nfld (b.q 0x18 4) 1 3) (w32 (leNat bs) &&& w32 (b.q 0x28 4)) (w32 (b.q 0x2C 4))

/-- R225: test, as the block runs or again while it waits. -/
def State.runTest (s : State) (x : Site) (n : Nat) (c : CbChain) (b : Block) (again : State → State) (waiting : Bool) : State :=
  match s.testValue x n c b again with
  | .wait s => s
  | .fail s => s.cbFault x n c b.va
  | .ok s bs =>
    if b.holds bs then s.cbGo x n c b.next
    else if waiting then again s
    else s.testFalse x n c b again

/-- R225; the outcome of a test whose skipped block is still to be read stands. Acts on site, a = slot. -/
def execTestBlock (s : State) : Out := s.cbRun .testBlock (fun x n c b =>
  let again := fun (s : State) => s.postEv .testBlock { site := x, a := n, b := 1 }
  if c.skipping then s.skipBlock x n c b again else s.runTest x n c b again false)

/-- R225: a waiting test is made again when its semaphore changes, or every 256 cycles for a memory word.
Acts on site, a = slot. -/
def execTestBlockRetest (s : State) : Out :=
  let x := s.subj.site
  let n := s.subj.a
  match s.cb? x n with
  | none => .next s
  | some c =>
    match c.testing, c.window with
    | some _, b :: _ =>
      let mem := nfld (b.q 0x18 4) 0 1 == 1
      let again := s.postEv .testBlockRetest { site := x, a := n }
      if c.stopped || c.parked.isSome then .next s
      else if s.copyIdle x c.who.part || (mem && decide (s.cycle < c.retest)) then .next again
      else if mem then
        let c := { c with retest := s.cycle + 256 }
        .next ((s.setCb x n c).runTest x n c b (fun s => s.postEv .testBlockRetest { site := x, a := n }) true)
      else .next (s.runTest x n c b id true)
    | _, _ => .next s

/-- R225: after T cycles a waiting test that does not hold takes its alternate link. Acts on site, a = slot. -/
def execTestBlockTimeout (s : State) : Out :=
  let x := s.subj.site
  let n := s.subj.a
  match s.cb? x n with
  | none => .next s
  | some c =>
    match c.testing, c.window with
    | some (some d), b :: _ =>
      if c.stopped then .next s
      else if c.parked.isSome || s.copyIdle x c.who.part || decide (s.work c.who.part < d) then
        .next (s.postEv .testBlockTimeout { site := x, a := n })
      else
        let again := fun (s : State) => s.postEv .testBlockTimeout { site := x, a := n }
        match s.testValue x n c b again with
        | .wait s => .next (if (s.cb? x n).any (fun c => c.parked.isSome) then again s else s)
        | .fail s => .next (s.cbFault x n c b.va)
        | .ok s bs => .next (s.cbGo x n c (if b.holds bs then b.next else b.alt))
    | _, _ => .next s

/-- R225, R226, R424. Acts on site, a = slot. -/
def execLoopBlock (s : State) : Out := s.cbRun .loopBlock (fun x n c b =>
  let k := b.q 0x18 4
  if k = 0 then s.cbGo x n c b.next
  else if 4 ≤ c.stack.length then s.cbFault x n c b.va
  else s.cbGo x n { c with stack := .loop (BitVec.ofNat 64 b.next) (BitVec.ofNat 64 b.body) k :: c.stack } b.body)

/-- R225, R226, R423: the pointer is read as the block runs. Acts on site, a = slot. -/
def execCallBlock (s : State) : Out := s.cbRun .callBlock (fun x n c b =>
  if 4 ≤ c.stack.length then s.cbFault x n c b.va
  else match s.cbRead x n c (linkVa b.body) 8 4 (fun s => s.postEv .callBlock { site := x, a := n, b := 1 }) with
    | .wait s => s
    | .fail s => s.cbFault x n c b.va
    | .ok s bs =>
      if leNat bs % 64 ≠ 0 then s.cbFault x n c b.va
      else s.cbGo x n { c with stack := .call (BitVec.ofNat 64 b.next) :: c.stack } (leNat bs))

/-- R225, R226, R424. Acts on site, a = slot. -/
def execReturnBlock (s : State) : Out := s.cbRun .returnBlock (fun x n c b =>
  match c.stack with
  | [] => s.cbFault x n c b.va
  | .call l :: r => s.cbGo x n { c with stack := r } l.toNat
  | .loop l body k :: r =>
    if 1 < k then s.cbGo x n { c with stack := .loop l body (k - 1) :: r } body.toNat
    else s.cbGo x n { c with stack := r } l.toNat)

/-- R225, R227: waits for the chain's copies; what was fetched beyond it is discarded. Acts on site, a = slot. -/
def execFetchFenceBlock (s : State) : Out := s.cbRun .fetchFenceBlock (fun x n c b =>
  if c.copies ≠ [] then s.postEv .fetchFenceBlock { site := x, a := n, b := 1 } else s.cbGo x n c b.next)

/-! ## The end (R228, R238) -/

/-- R238: the rendezvous of the FORK that started a chain. -/
def State.forkDone (s : State) (x : Site) (n : Nat) (c : CbChain) : State :=
  match c.fork with
  | none => s
  | some k => if isElem x then s.raise c.who 0x010F (c.who.details 0 [cbHandle n c.gen]) else s.addSem x k 1 c.who.inv

/-- R228: a chain ends once its copies have completed. Acts on site, a = slot. -/
def execChainEnd (s : State) : Out :=
  let x := s.subj.site
  let n := s.subj.a
  match s.cb? x n with
  | none => .next s
  | some c =>
    if !(c.ended || c.stopped) then .next s
    else if c.copies ≠ [] then .next (s.postEv .chainEnd { site := x, a := n })
    else
      let s := s.modSite x (fun v => { v with chains := tdel v.chains n, chainGens := tset v.chainGens n (c.gen + 1) })
      let s := s.modFences x (fun e => if e.chains.contains (x, n, c.gen.toNat) then { e with owed := e.owed ++ c.owed } else e)
      let s := s.modThr c.uid (fun t => { t with cpOwed := s.unacked (t.cpOwed ++ c.owed) })
      let s := (s.fall c.uid .cp).retest x
      .next (if c.stopped then s else s.forkDone x n c)

end Sys2Proof.Machine
end

