-- ==== Sys2Proof/Machine/ColumnFn.lean ====
section
/-! DEFINITION. The functions of group 0x7 (R172): FP32 values of the exact functions, rounded to nearest
even. Each is enclosed in an interval of fixed-point numbers; where both ends round alike, that is the
result; where they did not even at the widest precision, the result is `Config.columnTail` (log 8). -/

namespace Sys2Proof.Machine

/-- An enclosure [lo, hi] / 2^P of a non-negative real. -/
structure Iv where
  lo : Nat
  hi : Nat
  deriving DecidableEq, Repr

/-- Fraction bits of the enclosures. -/
def ivP : Nat := 400
def ivOne : Nat := 2 ^ ivP

/-- The enclosure of n / d × 2^e. -/
def Iv.rat (n d : Nat) (e : Int) : Iv :=
  let a := if 0 ≤ e then n * 2 ^ (e.toNat + ivP) else n * 2 ^ ivP
  let b := if 0 ≤ e then d else d * 2 ^ (-e).toNat
  ⟨a / b, (a + b - 1) / b⟩

def Iv.add (a b : Iv) : Iv := ⟨a.lo + b.lo, a.hi + b.hi⟩
/-- The difference, which is known not to be negative. -/
def Iv.sub (a b : Iv) : Iv := ⟨a.lo - b.hi, a.hi - b.lo⟩
def Iv.mul (a b : Iv) : Iv := ⟨a.lo * b.lo / ivOne, (a.hi * b.hi + ivOne - 1) / ivOne⟩
/-- The quotient by an interval that does not touch zero. -/
def Iv.div (a b : Iv) : Iv := ⟨a.lo * ivOne / b.hi, (a.hi * ivOne + b.lo - 1) / b.lo⟩
def Iv.divN (a : Iv) (n : Nat) : Iv := ⟨a.lo / n, (a.hi + n - 1) / n⟩
def Iv.mulN (a : Iv) (n : Nat) : Iv := ⟨a.lo * n, a.hi * n⟩

/-- e^t for 0 ≤ t ≤ 1: the Taylor sum; the rest after n terms is below twice the last term. -/
def expSum (t : Iv) : Nat → Nat → Iv → Iv → Iv
  | 0, _, term, acc => ⟨acc.lo, acc.hi + 2 * term.hi + 2⟩
  | n + 1, k, term, acc => let x := (term.mul t).divN k; expSum t n (k + 1) x (acc.add x)

def Iv.expSmall (t : Iv) : Iv := expSum t 90 1 ⟨ivOne, ivOne⟩ ⟨ivOne, ivOne⟩

def Iv.sqN (a : Iv) : Nat → Iv
  | 0 => a
  | n + 1 => Iv.sqN (a.mul a) n

/-- e^t for 0 ≤ t < 256. -/
def Iv.exp (t : Iv) : Iv := (t.divN 256).expSmall.sqN 8

/-- The odd power sum x + x³/3 + x⁵/5 + …, alternating or not, for 0 ≤ x ≤ 1/3. -/
def atanSum (x2 : Iv) (alt : Bool) : Nat → Nat → Iv → Iv → Iv → Iv
  | 0, _, term, pos, neg => ⟨(pos.sub neg).lo - (2 * term.hi + 2), (pos.sub neg).hi + 2 * term.hi + 2⟩
  | n + 1, k, term, pos, neg =>
    let x := term.mul x2
    let y := x.divN (2 * k + 1)
    if alt && k % 2 == 1 then atanSum x2 alt n (k + 1) x pos (neg.add y) else atanSum x2 alt n (k + 1) x (pos.add y) neg

def Iv.artanh (x : Iv) : Iv := atanSum (x.mul x) false 140 1 x x ⟨0, 0⟩
def Iv.atan (x : Iv) : Iv := atanSum (x.mul x) true 140 1 x x ⟨0, 0⟩

def ivLn2 : Iv := (Iv.rat 1 3 0).artanh.mulN 2
/-- π by Machin's formula. -/
def ivPi : Iv := ((Iv.rat 1 5 0).atan.mulN 16).sub ((Iv.rat 1 239 0).atan.mulN 4)

/-- sin θ for 0 ≤ θ ≤ π/2. -/
def sinSum (t2 : Iv) : Nat → Nat → Iv → Iv → Iv → Iv
  | 0, _, term, pos, neg => ⟨(pos.sub neg).lo - (term.hi + 2), (pos.sub neg).hi + term.hi + 2⟩
  | n + 1, k, term, pos, neg =>
    let x := ((term.mul t2).divN (2 * k)).divN (2 * k + 1)
    if k % 2 = 1 then sinSum t2 n (k + 1) x pos (neg.add x) else sinSum t2 n (k + 1) x (pos.add x) neg

def Iv.sin (t : Iv) : Iv := sinSum (t.mul t) 70 1 t t ⟨0, 0⟩

/-- x (1 + 2x²/3 + (2x²)²/(3·5) + …) for x < 4. -/
def erfSum (x2 : Iv) : Nat → Nat → Iv → Iv → Iv
  | 0, _, term, acc => ⟨acc.lo, acc.hi + 2 * term.hi + 2⟩
  | n + 1, k, term, acc => let x := ((term.mul x2).mulN 2).divN (2 * k + 1); erfSum x2 n (k + 1) x (acc.add x)

/-- The root bit by bit: the largest r with r² ≤ n. -/
def isqrtGo (n : Nat) : Nat → Nat → Nat
  | 0, r => r
  | k + 1, r => let c := r + 2 ^ k; isqrtGo n k (if c * c ≤ n then c else r)

def isqrt (n : Nat) : Nat := isqrtGo n (Nat.log2 n / 2 + 1) 0

def Iv.sqrt (a : Iv) : Iv := ⟨isqrt (a.lo * ivOne), isqrt (a.hi * ivOne) + 1⟩

/-- erf x for 0 < x < 4: 2/√π × e^(−x²) × the sum. -/
def Iv.erf (x : Iv) : Iv :=
  let x2 := x.mul x
  (((erfSum x2 160 1 x x).mulN 2).div (ivPi.sqrt)).div x2.exp

/-- Round an enclosure; none where its ends round apart. -/
def Iv.round (a : Iv) (neg : Bool) : Option Word :=
  let l := fp32.roundRat 0 neg a.lo ivOne 0
  let h := fp32.roundRat 0 neg a.hi ivOne 0
  if l = h then some (w32 h) else none

def Iv.result (a : Iv) (neg : Bool) (op : Nat) (x : Word) : Word :=
  match a.round neg with
  | some w => w
  | none => Config.columnTail op x

def z32 (neg : Bool) : Word := w32 (fp32.signed neg 0)
def inf32 (neg : Bool) : Word := w32 (fp32.round 0 (.inf neg))
def one32 (neg : Bool) : Word := w32 (fp32.signed neg 0x3F800000)

def fnRcp (x : Word) : Word :=
  match F x with
  | .nan => canonNaN
  | .inf s => z32 s
  | .fin s m e => if m = 0 then inf32 s else w32 (fp32.roundRat 0 s 1 m (-e))

/-- √(m 2^e) rounded: the root of a scaled integer with a sticky bit. -/
def fnSqrt (x : Word) : Word :=
  match F x with
  | .nan => canonNaN
  | .inf s => if s then canonNaN else inf32 false
  | .fin s m e =>
    if m = 0 then z32 s else if s then canonNaN else
    let g := if e % 2 = 0 then e else e - 1
    let n := if e % 2 = 0 then m * 2 ^ 60 else m * 2 ^ 61
    let r := isqrt n
    w32 (fp32.roundRat 0 false (2 * r + (if r * r = n then 0 else 1)) 1 (g / 2 - 31))

/-- 1/√(m 2^e): from the root of 2^k / m with a sticky bit. -/
def fnRsq (x : Word) : Word :=
  match F x with
  | .nan => canonNaN
  | .inf s => if s then canonNaN else z32 false
  | .fin s m e =>
    if m = 0 then inf32 s else if s then canonNaN else
    let g := if e % 2 = 0 then e else e - 1
    let d := if e % 2 = 0 then m else 2 * m
    let n := 2 ^ 120 / d
    let r := isqrt n
    w32 (fp32.roundRat 0 false (2 * r + (if r * r * d = 2 ^ 120 then 0 else 1)) 1 (-(g / 2) - 61))

/-- 2^x. -/
def fnExp2 (x : Word) : Word :=
  match F x with
  | .nan => canonNaN
  | .inf s => if s then z32 false else inf32 false
  | .fin s m e =>
    if m = 0 then one32 false
    else if 8 < e + (Nat.log2 m : Int) then (if s then z32 false else inf32 false)
    else
      let y := Iv.rat m 1 e
      let n : Nat := y.lo / ivOne
      let fr : Iv := ⟨y.lo % ivOne, y.hi - n * ivOne⟩
      if fr.lo = 0 ∧ y.lo = y.hi then w32 (fp32.round 0 (.fin false 1 (if s then -(n : Int) else n)))
      else
        let p := (fr.mul ivLn2).exp
        if s then
          let q := Iv.div ⟨ivOne, ivOne⟩ p
          match fp32.roundRat 0 false q.lo ivOne (-(n : Int)), fp32.roundRat 0 false q.hi ivOne (-(n : Int)) with
          | l, h => if l = h then w32 h else Config.columnTail 0x73 x
        else
          match fp32.roundRat 0 false p.lo ivOne n, fp32.roundRat 0 false p.hi ivOne n with
          | l, h => if l = h then w32 h else Config.columnTail 0x73 x

/-- log2 x = k + ln(m')/ln 2 with 1 ≤ m' < 2. -/
def fnLog2 (x : Word) : Word :=
  match F x with
  | .nan => canonNaN
  | .inf s => if s then canonNaN else inf32 false
  | .fin s m e =>
    if m = 0 then inf32 true else if s then canonNaN else
    let l := Nat.log2 m
    let k : Int := e + l
    if m = 2 ^ l then rnd32 0 (FV.ofInt k)
    else
      let f := ((Iv.rat (m - 2 ^ l) (m + 2 ^ l) 0).artanh.mulN 2).div ivLn2
      if 0 ≤ k then ((Iv.rat k.toNat 1 0).add f).result false 0x74 x
      else ((Iv.rat (-k).toNat 1 0).sub f).result true 0x74 x

/-- sin(πx) of a finite x: quadrant reduction is exact. -/
def fnSin (x : Word) : Word :=
  match F x with
  | .nan => canonNaN
  | .inf _ => canonNaN
  | .fin s m e =>
    if m = 0 then z32 s
    else if 0 ≤ e then z32 s
    else
      let d := 2 ^ (-e).toNat
      let r := m % (2 * d)
      if r % d = 0 then z32 s
      else
        let neg := decide (d < r)
        let q := r % d
        let h := if 2 * q ≤ d then q else d - q
        if 2 * h = d then one32 (s != neg)
        else ((ivPi.mul (Iv.rat h d 0)).sin).result (s != neg) 0x75 x

/-- cos(πx) of a finite x. -/
def fnCos (x : Word) : Word :=
  match F x with
  | .nan => canonNaN
  | .inf _ => canonNaN
  | .fin _ m e =>
    if m = 0 then one32 false
    else if 0 < e then one32 false
    else
      let d := 2 ^ (-e).toNat
      let r := m % (2 * d)
      -- cos(π r/d), r/d in [0, 2)
      let a := if d < r then 2 * d - r else r
      if a = 0 then one32 false
      else if a = d then one32 true
      else if 2 * a = d then z32 false
      else if 2 * a < d then ((ivPi.mul (Iv.rat (d - 2 * a) (2 * d) 0)).sin).result false 0x76 x
      else ((ivPi.mul (Iv.rat (2 * a - d) (2 * d) 0)).sin).result true 0x76 x

/-- tanh x; from 16 on it rounds to ±1, since 2e^(−32) < 2^(−25). -/
def fnTanh (x : Word) : Word :=
  match F x with
  | .nan => canonNaN
  | .inf s => one32 s
  | .fin s m e =>
    if m = 0 then z32 s
    else if 3 < e + (Nat.log2 m : Int) then one32 s
    else
      let p := ((Iv.rat m 1 e).mulN 2).exp
      let o : Iv := ⟨ivOne, ivOne⟩
      ((p.sub o).div (p.add o)).result s 0x77 x

/-- 1 / (1 + e^(−x)); beyond 2^7 it rounds to 1 or to 0, since e^(−128) < 2^(−150). -/
def fnSigm (x : Word) : Word :=
  match F x with
  | .nan => canonNaN
  | .inf s => if s then z32 false else one32 false
  | .fin s m e =>
    if m = 0 then 0x3F000000
    else if 6 < e + (Nat.log2 m : Int) then (if s then z32 false else one32 false)
    else
      let p := (Iv.rat m 1 e).exp
      let o : Iv := ⟨ivOne, ivOne⟩
      if s then (o.div (p.add o)).result false 0x78 x else (p.div (p.add o)).result false 0x78 x

/-- erf x; from 4 on it rounds to ±1, since 1 − erf 4 < 2^(−25). -/
def fnErf (x : Word) : Word :=
  match F x with
  | .nan => canonNaN
  | .inf s => one32 s
  | .fin s m e =>
    if m = 0 then z32 s
    else if 1 < e + (Nat.log2 m : Int) then one32 s
    else ((Iv.rat m 1 e).erf).result s 0x79 x

/-- R172: a function of group 0x7 by opcode. -/
def columnFn (op : Nat) (x : Word) : Word :=
  match op with
  | 0x70 => fnRcp x
  | 0x71 => fnSqrt x
  | 0x72 => fnRsq x
  | 0x73 => fnExp2 x
  | 0x74 => fnLog2 x
  | 0x75 => fnSin x
  | 0x76 => fnCos x
  | 0x77 => fnTanh x
  | 0x78 => fnSigm x
  | _ => fnErf x

end Sys2Proof.Machine
end

