-- ==== Sys2Proof/Machine/Fp.lean ====
section
/-! DEFINITION. Groups 0x4, 0x5 and 0x6: FP32, packed 16-bit floating point, conversions, block scales and
the residue instructions (R147 to R169). -/

namespace Sys2Proof.Machine

/-- R39, R150: the mode of a mode-literal instruction; nearest even when the literal is an operand. -/
def modeOf (f : Fields) : Nat := if f.selA = .lit ∨ f.selB = .lit then 0 else fld f.lit 0 2

/-! ## FP32 (R154, R155) -/

def fnFadd (m : Nat) (x y : Word) : Word := rnd32 m ((F x).add m (F y))
def fnFsub (m : Nat) (x y : Word) : Word := rnd32 m ((F x).add m (F y).neg)
def fnFmul (m : Nat) (x y : Word) : Word := rnd32 m ((F x).mul (F y))
/-- One rounding. -/
def fnFma (m : Nat) (x y z : Word) : Word := rnd32 m (((F x).mul (F y)).add m (F z))
def fnFms (m : Nat) (x y z : Word) : Word := rnd32 m (((F x).mul (F y)).add m (F z).neg)
def fnFnma (m : Nat) (x y z : Word) : Word := rnd32 m ((F z).add m ((F x).mul (F y)).neg)
/-- R149: a NaN result is canonical. -/
def canon (x : Word) : Word := if (F x).isNan then canonNaN else x
def fnFabs (x : Word) : Word := canon (x &&& 0x7FFFFFFF)
def fnFneg (x : Word) : Word := canon (x ^^^ 0x80000000)
def fnFcpys (x y : Word) : Word := canon ((x &&& 0x7FFFFFFF) ||| (y &&& 0x80000000))
def fnFrint (m : Nat) (x : Word) : Word := rnd32 0 ((F x).toInt m)
/-- X × 2^Sx(y). -/
def fnFscale (m : Nat) (x y : Word) : Word :=
  match F x with
  | .fin s n e => if n = 0 then x else rnd32 m (.fin s n (e + Sx y))
  | v => rnd32 m v

/-- R155. -/
def fnFclass (x : Word) : Word :=
  let sg := bit x 31
  let E := fld x 23 8
  let T := fld x 0 23
  let k := if E = 255 then (if T = 0 then (if sg then 0 else 7) else if bit x 22 then 9 else 8)
    else if E = 0 then (if T = 0 then (if sg then 3 else 4) else if sg then 2 else 5)
    else if sg then 1 else 6
  w32 (2 ^ k)

def fnFdiv (m : Nat) (x y : Word) : Word := fdiv32 m (F x) (F y)

/-- X − RoundInt(X, m), exact; a zero result has the sign of x. Under up a small positive x gives a difference
that FP32 does not hold, for which R154 states no result (assumption 7). -/
def fnFfract (m : Nat) (x : Word) : Word :=
  match F x with
  | .fin s n e =>
    match (FV.fin s n e).add 0 ((FV.fin s n e).toInt m).neg with
    | .fin r k g =>
      if k = 0 then w32 (fp32.signed s 0)
      else if rnd32 2 (.fin r k g) = rnd32 3 (.fin r k g) then rnd32 2 (.fin r k g)
      else Config.fractInexact m x
    | _ => canonNaN
  | _ => canonNaN

/-! ## Packed halves (R156, R157) -/

def hFmt (l : Word) : Fmt := if bit l 2 then fp16 else bf16
def hMode (l : Word) : Nat := fld l 0 2
def half (x : Word) (h : Nat) : Nat := fld x (16 * h) 16
def packH (a b : Nat) : Word := w32 (a % 65536 + b % 65536 * 65536)

/-- A result per half from the half's values. -/
def perHalf (l : Word) (g : FV → FV → FV → FV) (x y z : Word) : Word :=
  let f := hFmt l
  let one := fun (h : Nat) => f.round (hMode l) (g (f.val (half x h)) (f.val (half y h)) (f.val (half z h)))
  packH (one 0) (one 1)

def perHalfP (l : Word) (g : Fmt → Nat → Nat → Nat) (x y : Word) : Word :=
  packH (g (hFmt l) (half x 0) (half y 0)) (g (hFmt l) (half x 1) (half y 1))

/-- The whole word: F(z) + x0 × y0 + x1 × y1, one rounding. -/
def fnHdot (l : Word) (x y z : Word) : Word :=
  let f := hFmt l
  let m := hMode l
  let p := fun (h : Nat) => (f.val (half x h)).mul (f.val (half y h))
  rnd32 m (((F z).add m (p 0)).add m (p 1))

/-- A half with its sign inverted; a NaN half gives the canonical NaN. -/
def negHalf (f : Fmt) (x _y : Nat) : Nat := if (f.val x).isNan then f.nan else if 2 ^ 15 ≤ x then x - 2 ^ 15 else x + 2 ^ 15

/-! ## Conversions (R158 to R162) -/

/-- R158, R159. -/
def fnCvt (l : Word) (x : Word) : Word :=
  let src := fld l 0 4
  wrap32 (cvtElem src (fld l 4 4) (fld l 8 2) (bit l 10) (Zx x / 2 ^ (cvtWidth src * fld l 11 3)))

/-- The FP8 format a literal's bit 0 names. -/
def fp8 (l : Word) : Fmt := if bit l 0 then e5m2 else e4m3

/-- R160: the byte of one conversion; none when finite-only poisons the lane. -/
def cvtq8Byte (l : Word) (x y : Word) : Option Nat :=
  let f := fp8 l
  let m := fld l 3 2
  let ovf := fld l 1 2
  match (F x).mul (F y) with
  | .nan => if ovf = 2 then none else some f.nan
  | .inf s => if ovf = 2 then none else if ovf = 0 then some (f.signed s f.maxP) else some (f.round m (.inf s))
  | .fin s n e =>
    let c := clampExp n e
    let b := f.roundMag m s c.1 1 c.2
    if f.maxP < b then (if ovf = 2 then none else if ovf = 0 then some (f.signed s f.maxP) else some (f.over m s))
    else some (f.signed s b)

/-- z with byte k replaced. -/
def setByte (z : Word) (k b : Nat) : Word := (z &&& ~~~(w32 (255 * 2 ^ (8 * k)))) ||| w32 (b % 256 * 2 ^ (8 * k))

/-- R160. -/
def fnCvtq8 (l : Word) (x y z : PWord) : PWord :=
  let k := x.pois || y.pois || z.pois
  match cvtq8Byte l x.w y.w with
  | some b => ⟨setByte z.w (fld l 5 2) b, k⟩
  | none => ⟨setByte z.w (fld l 5 2) 0, true⟩

/-- R161. A zero takes the sign of the product (assumption 47). -/
def fnCvte8 (l : Word) (x y : Word) : Word := rnd32 (fld l 3 2) (((fp8 l).val (fld x (8 * fld l 1 2) 8)).mul (F y))

/-- Emax of R150. -/
def emax (l : Word) : Int := if bit l 0 then 15 else 8

/-- R162. -/
def fnBscal (l : Word) (x : Word) : Word :=
  match F x with
  | .fin _ m e =>
    if m = 0 then 0x3F800000 else
    let k := emax l - (e + (Nat.log2 m : Int)) - fld l 1 2
    let k := min (max k (-126)) 127
    rnd32 0 (.fin false 1 (if bit l 3 then -k else k))
  | _ => canonNaN

/-! ## Residues (R165 to R169) -/

/-- R167: the number a channel encodes, with the poisoned cases. -/
def rencIn (l : Word) (x : Word) : Int × Bool :=
  match fld l 2 2 with
  | 0 => (Sx x, false)
  | 1 => ((Zx x : Int), false)
  | 2 => if fld l 0 2 = 0 then ((fld x 0 16 : Int), false) else ((fld x 16 16 : Int), fld x 16 16 == 65535)
  | _ => ((fld x 0 17 : Int), bit x 31 || fld x 17 14 != 0 || decide (65536 < fld x 0 17))

/-- R167. -/
def fnRenc (l : Word) (x : PWord) : PWord :=
  let n := rencIn l x.w
  let k := fld l 0 2
  if n.2 then .bad else ⟨chanWord k ((n.1 * 2 ^ fld l 4 6) % (modulus k : Int)).toNat, x.pois⟩

/-- R168: an operation on the common channel. -/
def onChan (g : Nat → Nat → Nat) (x y : PWord) : PWord :=
  match chan x.w, chan y.w with
  | some (k, r), some (j, q) => if k = j then ⟨chanWord k (g r q % modulus k), x.pois || y.pois⟩ else .bad
  | _, _ => .bad

/-- R168. -/
def fnRchk (x : Word) : Word := bitW (chan x).isSome

/-- R169. -/
def fnRdec (l : Word) (x y z : PWord) : PWord :=
  match chan x.w, chan y.w, chan z.w with
  | some (0, a), some (1, b), some (2, c) =>
    let s := crtDecode a b c
    let r := match fld l 0 2 with
      | 0 => wrap32 s
      | 1 => wrap32 (s / 2 ^ 32)
      | 2 => sat32 s
      | _ => rnd32 (fld l 4 2) (.fin (decide (s < 0)) s.natAbs (sxN 8 (fld l 8 8)))
    ⟨r, x.pois || y.pois || z.pois⟩
  | _, _, _ => .bad

/-- A result per lane from poison-carrying operands. -/
def Thread.mapP1 (t : Thread) (f : Fields) (g : PWord → PWord) : List PWord := (t.as f).map g
def Thread.mapP2 (t : Thread) (f : Fields) (g : PWord → PWord → PWord) : List PWord := List.zipWith g (t.as f) (t.bs f)
def Thread.mapP3 (t : Thread) (f : Fields) (g : PWord → PWord → PWord → PWord) : List PWord :=
  List.zipWith (fun (xy : PWord × PWord) z => g xy.1 xy.2 z) (List.zip (t.as f) (t.bs f)) t.zs

def State.aluP1 (s : State) (f : Fields) (opc cyc : Nat) (g : PWord → PWord) : Out :=
  s.pureInstr f { opc := opc, b := false, cyc := cyc } (fun t => .val (t.mapP1 f g))
def State.aluP2 (s : State) (f : Fields) (opc cyc : Nat) (g : PWord → PWord → PWord) : Out :=
  s.pureInstr f { opc := opc, cyc := cyc } (fun t => .val (t.mapP2 f g))
def State.aluP3 (s : State) (f : Fields) (opc cyc : Nat) (g : PWord → PWord → PWord → PWord) : Out :=
  s.pureInstr f { opc := opc, cyc := cyc } (fun t => .val (t.mapP3 f g))

/-! ## The meanings -/

/-- R154. -/
def execFadd (f : Fields) (s : State) : Out := s.alu2 f 0x40 1 (fun x y => fnFadd (modeOf f) x y)
/-- R154. -/
def execFsub (f : Fields) (s : State) : Out := s.alu2 f 0x41 1 (fun x y => fnFsub (modeOf f) x y)
/-- R154. -/
def execFmul (f : Fields) (s : State) : Out := s.alu2 f 0x42 1 (fun x y => fnFmul (modeOf f) x y)
/-- R154. -/
def execFma (f : Fields) (s : State) : Out := s.alu3 f 0x43 1 (fun x y z => fnFma (modeOf f) x y z)
/-- R154. -/
def execFms (f : Fields) (s : State) : Out := s.alu3 f 0x44 1 (fun x y z => fnFms (modeOf f) x y z)
/-- R154. -/
def execFnma (f : Fields) (s : State) : Out := s.alu3 f 0x45 1 (fun x y z => fnFnma (modeOf f) x y z)
/-- R154. -/
def execFmin (f : Fields) (s : State) : Out := s.alu2 f 0x46 1 (fun x y => w32 (fp32.minP x.toNat y.toNat))
/-- R154. -/
def execFmax (f : Fields) (s : State) : Out := s.alu2 f 0x47 1 (fun x y => w32 (fp32.maxV x.toNat y.toNat))
/-- R154. -/
def execFabs (f : Fields) (s : State) : Out := s.alu1 f 0x48 1 (fun x => fnFabs x)
/-- R154. -/
def execFneg (f : Fields) (s : State) : Out := s.alu1 f 0x49 1 (fun x => fnFneg x)
/-- R154. -/
def execFcpys (f : Fields) (s : State) : Out := s.alu2 f 0x4A 1 (fun x y => fnFcpys x y)
/-- R154. -/
def execFrint (f : Fields) (s : State) : Out := s.alu1 f 0x4B 1 (fun x => fnFrint (modeOf f) x)
/-- R154. -/
def execFscale (f : Fields) (s : State) : Out := s.alu2 f 0x4C 1 (fun x y => fnFscale (modeOf f) x y)
/-- R155. -/
def execFclass (f : Fields) (s : State) : Out := s.alu1 f 0x4D 1 (fun x => fnFclass x)
/-- R154. -/
def execFdiv (f : Fields) (s : State) : Out := s.alu2 f 0x4E 14 (fun x y => fnFdiv (modeOf f) x y)
/-- R154. -/
def execFfract (f : Fields) (s : State) : Out := s.alu1 f 0x4F 1 (fun x => fnFfract (modeOf f) x)
/-- R157. -/
def execHadd (f : Fields) (s : State) : Out := s.alu2 f 0x50 1 (fun x y => perHalf f.lit (fun a b _ => a.add (hMode f.lit) b) x y 0)
/-- R157. -/
def execHsub (f : Fields) (s : State) : Out := s.alu2 f 0x51 1 (fun x y => perHalf f.lit (fun a b _ => a.add (hMode f.lit) b.neg) x y 0)
/-- R157. -/
def execHmul (f : Fields) (s : State) : Out := s.alu2 f 0x52 1 (fun x y => perHalf f.lit (fun a b _ => a.mul b) x y 0)
/-- R157. -/
def execHfma (f : Fields) (s : State) : Out := s.alu3 f 0x53 1 (fun x y z => perHalf f.lit (fun a b c => (a.mul b).add (hMode f.lit) c) x y z)
/-- R157. -/
def execHmin (f : Fields) (s : State) : Out := s.alu2 f 0x54 1 (fun x y => perHalfP f.lit Fmt.minP x y)
/-- R157. -/
def execHmax (f : Fields) (s : State) : Out := s.alu2 f 0x55 1 (fun x y => perHalfP f.lit Fmt.maxV x y)
/-- R157. -/
def execHdot (f : Fields) (s : State) : Out := s.alu3 f 0x56 1 (fun x y z => fnHdot f.lit x y z)
/-- R157. -/
def execHneg (f : Fields) (s : State) : Out := s.alu1 f 0x57 1 (fun x => perHalfP f.lit negHalf x 0)
/-- R159. -/
def execCvt (f : Fields) (s : State) : Out := s.alu1 f 0x60 1 (fun x => fnCvt f.lit x)
/-- R160. -/
def execCvtq8 (f : Fields) (s : State) : Out := s.aluP3 f 0x61 1 (fnCvtq8 f.lit)
/-- R161. -/
def execCvte8 (f : Fields) (s : State) : Out := s.alu2 f 0x62 1 (fun x y => fnCvte8 f.lit x y)
/-- R162. -/
def execBscal (f : Fields) (s : State) : Out := s.alu1 f 0x63 1 (fun x => fnBscal f.lit x)
/-- R167. -/
def execRenc (f : Fields) (s : State) : Out := s.aluP1 f 0x64 1 (fnRenc f.lit)
/-- R169. -/
def execRdec (f : Fields) (s : State) : Out := s.aluP3 f 0x65 2 (fnRdec f.lit)
/-- R168. -/
def execRadd (f : Fields) (s : State) : Out := s.aluP2 f 0x66 1 (onChan (· + ·))
/-- R168. -/
def execRmul (f : Fields) (s : State) : Out := s.aluP2 f 0x67 1 (onChan (· * ·))
/-- R168. -/
def execRchk (f : Fields) (s : State) : Out := s.alu1 f 0x68 1 (fun x => fnRchk x)

end Sys2Proof.Machine
end

