-- ==== Sys2Proof/Machine/Column.lean ====
section
/-! DEFINITION. Group 0x7 and the column units (R170 to R172). -/

namespace Sys2Proof.Machine

/-- The function of a group 0x7 instruction on operand A. -/
def columnEff (t : Thread) (f : Fields) (op : Nat) : Eff := .val (t.map1 f (columnFn op))

/-- The column unit of a tile: 8 * die + column. -/
def unitOf (tile : Nat) : Nat := tile / 8

/-- R170, R325: cycles beyond the first in which a request holds its cells' issue slots. -/
def Thread.columnHold (t : Thread) : Nat := (t.width + 3) / 4 + 23

/-- R170: a request of all lanes goes to the tile's queue of 4 entries towards its column unit; the cell
keeps its thread until the reply. While the unit has stopped, the thread stays at its instruction (R171). On an
element or a Syrad cell the unit is inside the agent (R171). -/
def State.columnInstr (s : State) (f : Fields) (op : Nat) : Out :=
  s.instr f { opc := op, b := false, more := Thread.columnHold } (fun u t =>
    match t.src.site with
    | .tile n =>
      let v := s.site (.tile n)
      if s.unitStopped t.part n || decide (4 ≤ (v.colq.filter (fun q => !q.accepted)).length) then .hold s
      else
        let s := s.setSite (.tile n) { v with colq := v.colq ++ [⟨u, false, s.cycle⟩] }
        let s := s.setThr u (t.waiting .unit none f op)
        .ok (s.postEv .columnRequestAccept { a := unitOf n }) { susp := some .column }
    | _ => .ok s (columnEff t f op))

/-- R172. -/
def execXrcp (f : Fields) (s : State) : Out := s.columnInstr f 0x70
/-- R172. -/
def execXsqrt (f : Fields) (s : State) : Out := s.columnInstr f 0x71
/-- R172. -/
def execXrsq (f : Fields) (s : State) : Out := s.columnInstr f 0x72
/-- R172. -/
def execXexp2 (f : Fields) (s : State) : Out := s.columnInstr f 0x73
/-- R172. -/
def execXlog2 (f : Fields) (s : State) : Out := s.columnInstr f 0x74
/-- R172. -/
def execXsin (f : Fields) (s : State) : Out := s.columnInstr f 0x75
/-- R172. -/
def execXcos (f : Fields) (s : State) : Out := s.columnInstr f 0x76
/-- R172. -/
def execXtanh (f : Fields) (s : State) : Out := s.columnInstr f 0x77
/-- R172. -/
def execXsigm (f : Fields) (s : State) : Out := s.columnInstr f 0x78
/-- R172. -/
def execXerf (f : Fields) (s : State) : Out := s.columnInstr f 0x79

/-- R170: the rows in the order the unit serves them, after the row served last; before any, after row 7. -/
def serveOrder (last : Nat) : List Nat := (List.range 8).map (fun i => (last + 1 + i) % 8)

/-- R170: the next request by row, the oldest of its tile first: its tile and its thread. -/
def State.nextColumn (s : State) (c : Nat) : Option (Nat × ColReq) :=
  (serveOrder (tgetD s.colLast c 7)).findSome? (fun r =>
    let n := c * 8 + r
    match ((s.site (.tile n)).colq.find? (fun q => !q.accepted)) with
    | some q =>
      let p := (s.site (.tile n)).part.getD 0
      if s.stopped p (engOf (.tile n)) || s.unitStopped p n then none else some (n, q)
    | none => none)

/-- R170: the unit accepts the next request; it counts in `col.xreq` now (assumption 49), its wait in `col.xwait`. -/
def State.acceptColumn (s : State) (c : Nat) : State :=
  match s.nextColumn c with
  | none => s
  | some (n, q) =>
    let s := s.modSite (.tile n) (fun v =>
      { v with colq := v.colq.map (fun x => if x.uid = q.uid then { x with accepted := true } else x) })
    { s with
      colReq := tset s.colReq c (tgetD s.colReq c 0 + 1)
      colWait := tset s.colWait c (tgetD s.colWait c 0 + w32 (s.cycle - q.at_))
      colLast := tset s.colLast c (n % 8) }.postEv .columnReply { a := q.uid }

/-- Acts on a = column unit. -/
def execColumnRequestAccept (s : State) : Out := .next (s.acceptColumn s.subj.a)

/-- R170, R105: the reply is written and the instruction ends. -/
def State.columnReply (s : State) (u : Nat) : State :=
  match s.thr? u with
  | none => s
  | some t =>
    match t.wait with
    | none => s
    | some w =>
      let taken := (s.site t.src.site).colq.any (fun q => q.uid == u && q.accepted)
      if t.stat ≠ .column ∨ !taken then s
      else
        let s := s.modSite t.src.site (fun v => { v with colq := v.colq.filter (fun q => q.uid ≠ u) })
        s.complete u (columnEff t w.fields w.opc)

/-- Acts on a = the waiting thread. -/
def execColumnReply (s : State) : Out := .next (s.columnReply s.subj.a)

end Sys2Proof.Machine
end

