-- ==== Sys2Proof/Machine/Lanes.lean ====
section
/-! DEFINITION. Groups 0x8 and 0x9: colours, the permute network, the lane file, reductions and scans
(R121 to R145). -/

namespace Sys2Proof.Machine

/-! ## Colours (R122, R123, R142) -/

/-- R123: a colour word. -/
def colourWord (k w : Nat) : Word := w32 (w * 256 + k)

/-- A cell of positions [b, b + w) of a strip lies in a granted block. -/
def blockTaken (gs : Tbl Nat Grant) (strip b w : Nat) : Bool :=
  gs.any (fun e => e.1 / 32 == strip && decide (e.1 % 32 < b + w ∧ b < e.1 % 32 + e.2.width))

/-- R122: try width 2^n, then the smaller ones down to 2; none where no grant of width 2 or more is made. -/
def ctxaGo (gs : Tbl Nat Grant) (strip q : Nat) : Nat → Option (Nat × Nat × Tbl Nat Grant)
  | 0 => none
  | n + 1 =>
    let w := 2 ^ (n + 1)
    let b := q / w * w
    match tget gs (32 * strip + b) with
    | some g =>
      if g.width = w ∧ g.count < 65535 then some (b, w, tset gs (32 * strip + b) ⟨w, g.count + 1⟩)
      else ctxaGo gs strip q n
    | none => if blockTaken gs strip b w then ctxaGo gs strip q n else some (b, w, tset gs (32 * strip + b) ⟨w, 1⟩)

/-- R122: the requested width, 1 to 32. -/
def ctxaWidth (a : Word) : Nat := if a = 0 then 1 else min (Zx a) 32

/-- A poisoned lane-0 operand of CTXA, CTXF, PACK or UNPACK. -/
def colourBad (t : Thread) (s : State) : Body := .ok s (.valP (t.all .bad) (allP t false))

/-- R122. -/
def execCtxa (f : Fields) (s : State) : Out :=
  s.instr f { opc := 0x80, b := false, cyc := 4 } (fun _ t =>
    let a := t.a0 f
    let q := (t.laneAgent 0).cell % 32
    if a.pois then colourBad t s
    else if t.selLanes.isEmpty then .ok s {}
    else
      let v := s.site t.src.site
      let g := if isElem t.src.site then none else ctxaGo v.grants t.strip q (Nat.log2 (ctxaWidth a.w))
      match g with
      | some (b, w, gs) => .ok (s.setSite t.src.site { v with grants := gs }) (.valP (t.all (.ok (colourWord b w))) (allP t true))
      | none => .ok s (.valP (t.all (.ok (colourWord q 1))) (allP t true)))

/-- R142. -/
def execCtxf (f : Fields) (s : State) : Out :=
  s.instr f { opc := 0x81, b := false, cyc := 4 } (fun _ t =>
    let a := t.a0 f
    if a.pois then colourBad t s
    else if t.selLanes.isEmpty then .ok s {}
    else
      let v := s.site t.src.site
      let key := 32 * t.strip + fld a.w 0 5
      match tget v.grants key with
      | none => .ok s (.valP (t.all a) (allP t false))
      | some g =>
        let gs := if g.count ≤ 1 then tdel v.grants key else tset v.grants key ⟨g.width, g.count - 1⟩
        .ok (s.setSite t.src.site { v with grants := gs }) (.valP (t.all a) (allP t true)))

/-- R142: the packed grants, none where PACK fails. -/
def packGrants (gs : Tbl Nat Grant) (strip k1 k2 : Nat) : Option (Nat × Tbl Nat Grant) :=
  let g1 := tgetD gs (32 * strip + k1) ⟨1, 1⟩
  let g2 := tgetD gs (32 * strip + k2) ⟨1, 1⟩
  let u := g1.width
  if g2.width = u ∧ k1 % (2 * u) = 0 ∧ k2 = k1 + u ∧ (u = 1 → !blockTaken gs strip k1 2) ∧ g1.count + g2.count ≤ 65535 then
    some (2 * u, tset (tdel gs (32 * strip + k2)) (32 * strip + k1) ⟨2 * u, g1.count + g2.count⟩)
  else none

/-- R142, R130. -/
def execPack (f : Fields) (s : State) : Out :=
  s.instr f { opc := 0x82, cyc := 4 } (fun _ t =>
    let a := t.a0 f
    let b := t.b0 f
    if a.pois || b.pois then colourBad t s
    else if t.selLanes.isEmpty then .ok s {}
    else
      let v := s.site t.src.site
      let k := fld a.w 0 5
      match (if isElem t.src.site then none else packGrants v.grants t.strip k (fld b.w 0 5)) with
      | some (w, gs) => .ok (s.setSite t.src.site { v with grants := gs }) (.valP (t.all (.ok (colourWord k w))) (allP t true))
      | none => .ok s (.valP (t.all .zero) (allP t false)))

/-- R142: the two halves of a grant; halves of width 1 hold none. -/
def unpackGrants (gs : Tbl Nat Grant) (strip k : Nat) (g : Grant) : Tbl Nat Grant :=
  let h := g.width / 2
  if h ≤ 1 then tdel gs (32 * strip + k)
  else tset (tset gs (32 * strip + k) ⟨h, g.count⟩) (32 * strip + k + h) ⟨h, g.count⟩

/-- R142. -/
def execUnpack (f : Fields) (s : State) : Out :=
  s.instr f { opc := 0x83, b := false, cyc := 4 } (fun _ t =>
    let a := t.a0 f
    if a.pois then colourBad t s
    else if t.selLanes.isEmpty then .ok s {}
    else
      let v := s.site t.src.site
      let k := fld a.w 0 5
      match tget v.grants (32 * t.strip + k) with
      | some g => .ok (s.setSite t.src.site { v with grants := unpackGrants v.grants t.strip k g })
          (.valP (t.all (.ok (colourWord k (g.width / 2)))) (allP t true))
      | none => .ok s (.valP (t.all .zero) (allP t false)))

/-! ## The permute network -/

/-- R143. -/
def laneWord (t : Thread) (l : Nat) : Word :=
  w32 (t.colour.toNat * 2 ^ 16 + (t.width - 1) * 2 ^ 11 + l * 2 ^ 6 + (t.laneAgent l).cell)

/-- R142, R143. -/
def execLane (f : Fields) (s : State) : Out :=
  s.pureInstr f { opc := 0x84, a := false, b := false, cyc := 2 }
    (fun t => .val ((List.range t.width).map (fun l => .ok (laneWord t l))))

/-- Lane s of a list, or zero, unpoisoned. -/
def fromLane (t : Thread) (xs : List PWord) (n : Nat) : PWord := if n < t.width then xs.getD n .zero else .zero

/-- R142. -/
def execBcast (f : Fields) (s : State) : Out :=
  s.pureInstr f { opc := 0x85, cyc := 2 } (fun t =>
    let b := t.b0 f
    let r := fromLane t (t.as f) (Zx b.w)
    .val (t.all ⟨r.w, r.pois || b.pois⟩))

/-- R142. -/
def execPerm (f : Fields) (s : State) : Out :=
  s.pureInstr f { opc := 0x86, cyc := 2 } (fun t =>
    .val ((t.bs f).map (fun b => let r := fromLane t (t.as f) (Zx b.w); ⟨r.w, r.pois || b.pois⟩)))

/-- R144: the source lane, none where it lies outside the gang. -/
def shflSrc (desc : Word) (w l : Nat) : Option Nat :=
  let d := fld desc 0 5
  match fld desc 5 2 with
  | 0 => let s := Nat.xor l d; if s < w then some s else none
  | 1 => if d ≤ l then some (l - d) else none
  | 2 => if l + d < w then some (l + d) else none
  | _ => some ((l + d) % w)

/-- R144: the descriptor is read from lane 0; lanes whose own B is poisoned are poisoned (R142). -/
def execShfl (f : Fields) (s : State) : Out :=
  s.pureInstr f { opc := 0x87, cyc := 2 } (fun t =>
    let b := t.b0 f
    let as := t.as f
    .val ((t.bs f).mapIdx (fun l bl =>
      let own := as.getD l .zero
      let r := if b.pois then own else match shflSrc b.w t.width l with
        | some n => as.getD n .zero
        | none => own
      ⟨r.w, r.pois || b.pois || bl.pois⟩)))

/-- R145: over the conditions of the selected lanes, each with its lane number. -/
def voteWord (mode : Nat) (cs : List (Nat × Bool)) : Word :=
  match mode with
  | 0 => w32 ((cs.map (fun c => if c.2 then 2 ^ c.1 else 0)).foldl (· + ·) 0)
  | 1 => bitW (cs.any (fun c => c.2))
  | 2 => bitW (!cs.isEmpty && cs.all (fun c => c.2))
  | 3 => bitW (!(cs.any (fun c => c.2)))
  | _ => w32 (cs.filter (fun c => c.2)).length

/-- R145. -/
def execVote (f : Fields) (s : State) : Out :=
  s.pureInstr f { opc := 0x88, a := bit f.lit 3, b := false, cyc := 2 } (fun t =>
    let src := bit f.lit 3
    let as := t.as f
    let cond := fun (l : Nat) => if src then pOf (as.getD l .zero) else (t.lanes.map (fun x => x.p)).getD l false
    let bad := src && t.selLanes.any (fun l => (as.getD l .zero).pois)
    .val (t.all ⟨voteWord (fld f.lit 0 3) (t.selLanes.map (fun l => (l, cond l))), bad⟩))

/-- R142, R132: every lane with `p` set is a source. -/
def execCmpct (f : Fields) (s : State) : Out :=
  s.pureInstr f { opc := 0x8D, b := false, cyc := 2 } (fun t =>
    let live := ((t.as f).zip t.lanes).filter (fun x => x.2.p)
    .val ((List.range t.width).map (fun j => (live.map (fun x => x.1)).getD j .zero)))

/-! ## The lane file (R133, R134) -/

def State.lfWord (s : State) (ag : Agent) (i : Nat) : PWord := tgetD (s.cell ag).bank i .zero

/-- A word of a bank; the default word zero, unpoisoned, is not listed. -/
def State.setLf (s : State) (ag : Agent) (i : Nat) (w : PWord) : State :=
  s.modCell ag (fun c => { c with bank := if w = .zero then tdel c.bank i else tset c.bank i w })

/-- R134: the first out-of-range access of the partition since the record was cleared. The one that is recorded ends its
cycle: no other cell's goes out of range in the same one. A firmware cell belongs to no partition and records none
(assumption 48). -/
def State.lfOobRecord (s : State) (t : Thread) (l i : Nat) (write : Bool) : State :=
  match tget s.parts t.part with
  | none => s
  | some v =>
    if v.lfOob.getLsbD 31 then s
    else (s.setPart t.part { v with
      lfOob := w32 (2 ^ 31 + (if write then 2 ^ 30 else 0) + t.src.cell % 64 * 2 ^ 24 + t.ip % 256 * 2 ^ 16
        + fld (tileid (t.laneAgent l)) 0 15)
      lfOobIdx := w32 i }).endCycle

/-- An index a lane may use: below 1,024, on a cell with a bank. -/
def lfInRange (t : Thread) (i : Nat) : Bool := decide (i < 1024) && !isElem t.src.site

/-- R133: per lane its index with the poison of its source, and the word to store where it stores. -/
def State.lfAccess (s : State) (t : Thread) (idx : Nat → Nat × Bool) (store : Option (Nat → PWord)) : Body :=
  let bads := t.selLanes.filter (fun l => !(idx l).2 && !lfInRange t (idx l).1)
  let s := match bads with
    | [] => s
    | l :: _ => s.lfOobRecord t l (idx l).1 store.isSome
  let ok := fun (l : Nat) => !(idx l).2 && lfInRange t (idx l).1
  match store with
  | none => .ok s (.val ((List.range t.width).map (fun l =>
      if (idx l).2 then .bad else if ok l then s.lfWord (t.laneAgent l) (idx l).1 else .zero)))
  | some b =>
    let s' := t.selLanes.foldl (fun s l => if ok l then s.setLf (t.laneAgent l) (idx l).1 (b l) else s) s
    .ok s' (.val ((List.range t.width).map (fun l => ⟨(b l).w, (b l).pois || (idx l).2⟩)))

/-- R133. -/
def execLfld (f : Fields) (s : State) : Out :=
  s.instr f { opc := 0x89, b := false, lf := true } (fun _ t => let a := t.a0 f; s.lfAccess t (fun _ => (Zx a.w, a.pois)) none)

/-- R133. -/
def execLfst (f : Fields) (s : State) : Out :=
  s.instr f { opc := 0x8A, lf := true } (fun _ t =>
    let a := t.a0 f
    let bs := t.bs f
    s.lfAccess t (fun _ => (Zx a.w, a.pois)) (some (fun l => bs.getD l .zero)))

/-- R133: the exact sum of both operands. -/
def execLfldx (f : Fields) (s : State) : Out :=
  s.instr f { opc := 0x8B, lf := true } (fun _ t =>
    let as := t.as f
    let bs := t.bs f
    s.lfAccess t (fun l => let x := as.getD l .zero; let y := bs.getD l .zero; (Zx x.w + Zx y.w, x.pois || y.pois)) none)

/-- R133. -/
def execLfstx (f : Fields) (s : State) : Out :=
  s.instr f { opc := 0x8C, lf := true } (fun _ t =>
    let as := t.as f
    let bs := t.bs f
    s.lfAccess t (fun l => let x := as.getD l .zero; (Zx x.w, x.pois)) (some (fun l => bs.getD l .zero)))

/-! ## Reductions and scans (R136 to R140) -/

/-- R138: the identity of an opcode. -/
def redIdent (op : Nat) : Word :=
  match op with
  | 0x91 => 0x80000000 | 0x92 => 0x7FFFFFFF | 0x94 => 0x80000000 | 0x95 => 0xFF800000 | 0x98 => 0x80000000 | _ => 0

/-- R138: the combine of an opcode. -/
def redComb (op : Nat) (u x : Word) : Word :=
  match op with
  | 0x91 => if Sx x ≤ Sx u then u else x
  | 0x92 => if Sx u ≤ Sx x then u else x
  | 0x93 => u ||| x
  | 0x94 => fnFadd 0 u x
  | 0x95 => w32 (fp32.maxV u.toNat x.toNat)
  | 0x98 => fnFadd 0 u x
  | _ => w32 (Zx u + Zx x)

/-- A partial; an empty one reads as the opcode's identity (R136). -/
def Red.part (e : Red) (op j : Nat) : PWord := ((e.parts.getD j none).getD (.ok (redIdent op)))

/-- R138: Fold, poisoned when any partial is (R139). -/
def Red.fold (e : Red) (op : Nat) : PWord :=
  let c := redComb op
  ⟨c (c (e.part op 0).w (e.part op 1).w) (c (e.part op 2).w (e.part op 3).w),
   (e.part op 0).pois || (e.part op 1).pois || (e.part op 2).pois || (e.part op 3).pois⟩

/-- R136, R139: combine a value into partial k mod 4, where k is that of the lane-0 element. -/
def Red.push (e : Red) (k op : Nat) (x : PWord) : Red :=
  let j := k % 4
  let p := e.part op j
  { e with parts := e.parts.set j (some ⟨redComb op p.w x.w, p.pois || x.pois⟩) }

def State.red (s : State) (ag : Agent) : Red := (s.cell ag).red

/-- R136: every write of k, of the opcode and every reset applies to every lane cell of the gang. -/
def State.modReds (s : State) (t : Thread) (g : Red → Red) : State :=
  s.modCells t.src.site t.laneCells (fun c => { c with red := g c.red })

/-- R136, R139: one reduction or scan instruction. SCANXADD gives the fold of before its update, poisoned where a
partial is after it. -/
def State.reduce (s : State) (t : Thread) (f : Fields) (op : Nat) : Body :=
  let r0 := s.red (t.laneAgent 0)
  let mixed := match r0.op with | some o => o != op && r0.k != 0 | none => false
  let s := if mixed then (s.modReds t (fun _ => Red.reset)).raise (t.who op) 0x0108
    ((t.who op).details 0 [w32 (r0.op.getD 0), w32 op]) else s
  let k := (s.red (t.laneAgent 0)).k
  let before := s
  let as := t.as f
  let s := t.selLanes.foldl (fun s l => s.modCell (t.laneAgent l) (fun c => { c with red := c.red.push k op (as.getD l .zero) })) s
  let out := (List.range t.width).map (fun l =>
    let x := (s.red (t.laneAgent l)).fold op
    if op = 0x97 then ⟨((before.red (t.laneAgent l)).fold op).w, x.pois⟩ else x)
  let s := s.modReds t (fun e => { e with k := (k + 1) % 2 ^ 32, op := some op })
  let lv := t.eod.toNat
  if op < 0x96 then
    if lv = 0 then .ok s { mute := true }
    else .ok (s.modReds t (fun _ => Red.reset)) { v := some out, eod := lv - 1 }
  else .ok (if lv = 0 then s else s.modReds t (fun _ => Red.reset)) { v := some out, eod := lv }

def State.reduceInstr (s : State) (f : Fields) (op : Nat) : Out :=
  s.instr f { opc := op, b := false } (fun _ t => s.reduce t f op)

/-- R138, R139. -/
def execRedadd (f : Fields) (s : State) : Out := s.reduceInstr f 0x90
/-- R138, R139. -/
def execRedmax (f : Fields) (s : State) : Out := s.reduceInstr f 0x91
/-- R138, R139. -/
def execRedmin (f : Fields) (s : State) : Out := s.reduceInstr f 0x92
/-- R138, R139. -/
def execRedor (f : Fields) (s : State) : Out := s.reduceInstr f 0x93
/-- R138, R139. -/
def execRedfadd (f : Fields) (s : State) : Out := s.reduceInstr f 0x94
/-- R138, R139. -/
def execRedfmax (f : Fields) (s : State) : Out := s.reduceInstr f 0x95
/-- R138, R139. -/
def execScanadd (f : Fields) (s : State) : Out := s.reduceInstr f 0x96
/-- R138, R139. -/
def execScanxadd (f : Fields) (s : State) : Out := s.reduceInstr f 0x97
/-- R138, R139. -/
def execScanfadd (f : Fields) (s : State) : Out := s.reduceInstr f 0x98

/-- R140. -/
def execEod (f : Fields) (s : State) : Out :=
  s.instr f { opc := 0x99, a := false, b := false } (fun _ t =>
    let r0 := s.red (t.laneAgent 0)
    let lv := fld f.lit 0 2
    let s' := s.modReds t (fun _ => Red.reset)
    match r0.op with
    | none => .ok s' { v := some (t.all .zero), eod := lv - 1 }
    | some op =>
      .ok s' { v := some ((List.range t.width).map (fun l => (s.red (t.laneAgent l)).fold op)),
               eod := if op < 0x96 then lv - 1 else lv })

end Sys2Proof.Machine
end

