-- ==== Sys2Proof/Machine/Graphics.lean ====
section
/-! DEFINITION. Group 0xE without screen tiles and textures: records in the lane file (R383), ray queries
(R387 to R390), the box, beam and triangle tests (R391 to R394), HOMEP (R396), coverage and quad merging
(R397, R398). -/

namespace Sys2Proof.Machine

/-! ## Common rules (R382, R383) -/

/-- R382: on an element control cell or a Syrad firmware cell: the result is 0, poisoned, and `p` clears. -/
def gfxOff (t : Thread) : Eff := .valP (t.all .bad) (allP t false)

/-- R212, R382: a thread on a fabric tile with a selected lane. -/
def Thread.tileLane (t : Thread) : Bool := isTile t.src.site && t.anyLane

/-- An instruction of group 0xE: without effect away from a fabric tile. -/
def State.gfxInstr (s : State) (f : Fields) (m : Form) (body : Nat → Thread → Body) : Out :=
  s.instr f m (fun u t => if isTile t.src.site then body u t else .ok s (gfxOff t))

/-- R383: a record of n words at an index can be used. -/
def recOk (i : PWord) (n : Nat) : Bool := !i.pois && decide (Zx i.w + n ≤ 1024)

/-- R383, R134: of some records, each an index, a size and whether it is written, the first that reaches beyond its
bank in the lowest selected lane is recorded in `lf.oob`. -/
def State.recOobs (s : State) (t : Thread) (rs : List (List PWord × Nat × Bool)) : State :=
  let out := fun (l : Nat) => rs.find? (fun r => let i := r.1.getD l .zero; !i.pois && !recOk i r.2.1)
  match t.selLanes.findSome? (fun l => (out l).map (fun r => (l, r))) with
  | none => s
  | some (l, r) => s.lfOobRecord t l (max 1024 (Zx (r.1.getD l .zero).w)) r.2.2

/-- The same for one record. -/
def State.recOob (s : State) (t : Thread) (idx : List PWord) (n : Nat) (write : Bool) : State := s.recOobs t [(idx, n, write)]

/-- The n words of a lane's record. -/
def State.recWords (s : State) (t : Thread) (l : Nat) (i : PWord) (n : Nat) : List PWord :=
  (List.range n).map (fun j => s.lfWord (t.laneAgent l) (Zx i.w + j))

/-- Word j of a record. -/
def rw (q : List PWord) (j : Nat) : PWord := q.getD j .zero
/-- The FP32 value of word j. -/
def rf (q : List PWord) (j : Nat) : FV := F (rw q j).w

/-- R383: whether one of these words is poisoned. -/
def anyPois (q : List PWord) (js : List Nat) : Bool := js.any (fun j => (rw q j).pois)

/-- Write words of a lane's record, each with the mark that the instruction gives them. -/
def State.recWrite (s : State) (t : Thread) (l i : Nat) (ws : List (Nat × Word)) (pois : Bool) : State :=
  ws.foldl (fun s w => s.setLf (t.laneAgent l) (i + w.1) ⟨w.2, pois⟩) s

/-! ## Ray queries (R387 to R390) -/

def qState (w : Word) : Nat := fld w 0 2
def qFirst (w : Word) : Bool := bit w 4
def qCull (w : Word) : Bool := bit w 5

/-- R388: a state word. -/
def stateWord (flags : Nat) (hit : Bool) (st : Nat) : Word := w32 (flags * 16 + (if hit then 4 else 0) + st)

/-- R388: a state word with a new state; its other fields stay, its reserved bits are zero. -/
def toState (w : Word) (hit : Bool) (st : Nat) : Word := stateWord (fld w 4 4) hit st

/-- A query instruction's effect on one lane's record: the words it writes, its result, its `p`, and the
record words it reads. -/
structure QStep where
  writes : List (Nat × Word)
  r : Word
  p : Option Bool
  reads : List Nat

/-- R383: run a query instruction in the selected lanes whose record it can use; in the others the result is
zero, poisoned, and `p` clears where the instruction writes `p`. -/
def State.queryInstr (s : State) (f : Fields) (m : Form) (step : List PWord → QStep) : Out :=
  s.gfxInstr f m (fun _ t =>
    let idx := t.as f
    let s := s.recOob t idx 16 false
    let out := (List.range t.width).map (fun l =>
      let i := idx.getD l .zero
      if recOk i 16 then
        let q := s.recWords t l i 16
        some (i, q, step q)
      else none)
    let s' := t.selLanes.foldl (fun s l =>
      match out.getD l none with
      | none => s
      | some (i, q, k) => s.recWrite t l (Zx i.w) k.writes (anyPois q k.reads)) s
    let r := out.map (fun o => match o with
      | none => PWord.bad
      | some (_, q, k) => ⟨k.r, anyPois q k.reads⟩)
    let p := (out.zip t.lanes).map (fun o => match o.1 with
      | none => if (step []).p.isSome then false else o.2.p
      | some (_, _, k) => k.p.getD o.2.p)
    .ok s' { v := some r, p := some p })

def FV.finite : FV → Bool
  | .fin _ _ _ => true
  | _ => false

def FV.isZero : FV → Bool
  | .fin _ m _ => m == 0
  | _ => false

/-- `a ≤ b` of two values; false with a NaN. -/
def FV.le (a b : FV) : Bool := !a.isNan && !b.isNan && !b.lt a

def FV.zero : FV := .fin false 0 0
def FV.one : FV := .fin false 1 0

/-- R388: words 1 to 8 hold a valid ray. -/
def rayOk (q : List PWord) : Bool :=
  [1, 2, 3, 4, 5, 6].all (fun j => (rf q j).finite) && !(rf q 7).isNan && !(rf q 8).isNan
    && !([4, 5, 6] : List Nat).all (fun j => (rf q j).isZero) && FV.zero.le (rf q 7) && (rf q 7).le (rf q 8)

/-- R388. -/
def rqinitStep (lit : Word) (q : List PWord) : QStep :=
  let w := stateWord (fld lit 0 4) false (if rayOk q then 1 else 3)
  { writes := [(0, w)], r := w, p := none, reads := [1, 2, 3, 4, 5, 6, 7, 8] }

/-- R388. -/
def execRqinit (f : Fields) (s : State) : Out := s.queryInstr f { opc := 0xE0, b := false, lf := true } (rqinitStep f.lit)

/-- R390: what a commit writes. -/
def commitWrites (w : Word) (t id u v : Word) : List (Nat × Word) :=
  [(0, toState w true (if qFirst w then 3 else 1)), (8, t), (9, id), (10, u), (11, v)]

/-- R390: a query step that only changes the state. -/
def stepTo (w : Word) (st : Nat) (p : Bool) : QStep :=
  { writes := [(0, toState w (bit w 2) st)], r := toState w (bit w 2) st, p := some p, reads := [0] }

/-- R390: RQPRO. -/
def rqproStep (q : List PWord) : QStep :=
  let w := (rw q 0).w
  match qState w with
  | 1 => stepTo w 1 true
  | 2 => stepTo w 1 true
  | n => stepTo w n false

/-- R390: RQCOM. -/
def rqcomStep (q : List PWord) : QStep :=
  let w := (rw q 0).w
  if qState w = 2 then
    { writes := commitWrites w (rw q 12).w (rw q 13).w (rw q 14).w (rw q 15).w
      r := toState w true (if qFirst w then 3 else 1), p := some true, reads := [0, 12, 13, 14, 15] }
  else stepTo w (qState w) false

/-- R390: RQABT. -/
def rqabtStep (q : List PWord) : QStep := stepTo (rw q 0).w 3 true

/-- R390. -/
def execRqpro (f : Fields) (s : State) : Out := s.queryInstr f { opc := 0xE1, b := false, lf := true } rqproStep
/-- R390. -/
def execRqcom (f : Fields) (s : State) : Out := s.queryInstr f { opc := 0xE2, b := false, lf := true } rqcomStep
/-- R390. -/
def execRqabt (f : Fields) (s : State) : Out := s.queryInstr f { opc := 0xE3, b := false, lf := true } rqabtStep

/-- R389: the record word of a field. -/
def rqField (n : Nat) : Nat := [0, 8, 9, 10, 11, 12, 13, 14, 15, 7].getD n 0

/-- R389: the word comes with its own mark. -/
def execRqget (f : Fields) (s : State) : Out :=
  s.queryInstr f { opc := 0xE4, b := false, lf := true } (fun q =>
    let j := rqField (fld f.lit 0 4)
    { writes := [], r := (rw q j).w, p := none, reads := [j] })

/-! ## Loads of nodes and triangles (R384) -/

/-- The two parts of a record that spans two lines; a lane number of 32 or more is a second part. -/
def recParts (l : Nat) (ea : Int) (size : Nat) (q : List PWord) (at_ : Nat) : List LaneAcc :=
  let n := min size (128 - (ea % 128).toNat)
  let mk := fun (l : Nat) (ea : Int) (n : Nat) => { LaneAcc.new l ea n [] [] 0 with qrec := q, qAt := at_ }
  mk l ea n :: (if n < size then [mk (32 + l) (ea + n) (size - n)] else [])

/-- R384: BOXT, TRIT or BEAMT as it issues. -/
def State.testLoad (s : State) (u : Nat) (t : Thread) (f : Fields) (opc : Nat) (op : AccOp) (size align : Nat) : State :=
  let idx := t.as f
  let s := s.recOob t idx 16 false
  let x := t.access op opc f.lit (some (fld f.lit 3 2)) 0 1 (dstRegs f)
  let x := t.selLanes.foldl (fun x l =>
    let i := idx.getD l .zero
    let b := (t.bs f).getD l .zero
    let ea := eaOf (s.baseOf t (fld f.lit 0 3)) b.w 1
    let at_ := Zx i.w
    if !i.pois && !recOk i 16 then
      { x with lanes := x.lanes ++ [{ LaneAcc.new l ea size [] [] 0 with st := .done, pois := true }] }
    else match laneFault (i.pois || b.pois) ea align with
      | some r => x.addLane (LaneAcc.new l ea size [] [] 0) (some r)
      | none => (recParts l ea size (s.recWords t l i 16) at_).foldl (fun x m => x.addLane m none) x) x
  let a := s.fresh
  let s := s.issueAcc u x
  if op = .tri ∧ (s.acc? a).isSome then s.modThr u (fun t => { t with lfPend := t.lfPend ++ [a] }) else s

/-- R384. -/
def State.testInstr (s : State) (f : Fields) (opc : Nat) (op : AccOp) (size align : Nat) : Out :=
  s.gfxInstr f { opc := opc, lf := true, ctr := some .ld, counts := Thread.tileLane } (fun u t =>
    .ok (s.testLoad u t f opc op size align) { v := some (t.as f), load := true })

/-- R392. -/
def execBoxt (f : Fields) (s : State) : Out := s.testInstr f 0xE5 .box 128 128
/-- R394. -/
def execTrit (f : Fields) (s : State) : Out := s.testInstr f 0xE6 .tri 48 16
/-- R393. -/
def execBeamt (f : Fields) (s : State) : Out := s.testInstr f 0xE7 .beam 128 128

/-! ## Exact values -/

def FV.sub (a b : FV) : FV := a.add 0 b.neg
/-- The smaller value; a NaN if either is one. -/
def FV.min2 (a b : FV) : FV := if a.isNan || b.isNan then .nan else if b.lt a then b else a
def FV.max2 (a b : FV) : FV := if a.isNan || b.isNan then .nan else if a.lt b then b else a
/-- RoundFP to FP32, as a value. -/
def FV.r32 (v : FV) (mode : Nat := 0) : FV := fp32.val (fp32.round mode v)
/-- RoundFP(a / b, FP32, rne), as a value. -/
def FV.div32 (a b : FV) : FV := F (fdiv32 0 a b)

def FV.abs : FV → FV
  | .nan => .nan
  | .inf _ => .inf false
  | .fin _ m e => .fin false m e

/-- FP32 value j of the bytes of a node or triangle. -/
def fAt (bs : List Byte) (off : Nat) : FV := F (w32 (leNat ((bs.drop off).take 4)))

/-! ## Boxes (R391, R392) -/

/-- Corner c (0 lo, 1 hi) of box i on axis a. -/
def boxAt (node : List Byte) (i c a : Nat) : FV := fAt node (24 * i + 12 * c + 4 * a)

/-- R391: a box that never hits. -/
def boxNever (node : List Byte) (i : Nat) : Bool :=
  [0, 1, 2].any (fun a =>
    let lo := boxAt node i 0 a
    let hi := boxAt node i 1 a
    lo.isNan || hi.isNan || hi.lt lo)

/-- R392: a product in which 0 times an infinite factor is 0. -/
def FV.mul0 (a b : FV) : FV := if a.isZero && (match b with | .inf _ => true | _ => false) then .zero else a.mul b

/-- R392: one axis: near and far, none where the box is missed. -/
def boxAxis (o d lo hi : FV) : Option (FV × FV) :=
  if d.isZero then (if o.lt lo || hi.lt o then none else some (.inf true, .inf false))
  else
    let inv := FV.one.div32 d
    let t1 := (lo.sub o).mul0 inv
    let t2 := (hi.sub o).mul0 inv
    some ((t1.min2 t2).r32 3, (t1.max2 t2).r32 2)

/-- R392: the entry of a box that the ray hits. -/
def boxHit (q : List PWord) (node : List Byte) (i : Nat) : Option FV :=
  if qState (rw q 0).w = 0 ∨ qState (rw q 0).w = 3 ∨ boxNever node i then none
  else
    let ax := fun (a : Nat) => boxAxis (rf q (1 + a)) (rf q (4 + a)) (boxAt node i 0 a) (boxAt node i 1 a)
    match ax 0, ax 1, ax 2 with
    | some x, some y, some z =>
      let entry := (((rf q 7).max2 x.1).max2 y.1).max2 z.1
      let exit_ := (((rf q 8).min2 x.2).min2 y.2).min2 z.2
      if entry.le exit_ then some entry else none
    | _, _, _ => none

/-- R392: the returned word of a BOXT lane. -/
def boxWord (q : List PWord) (node : List Byte) : Word :=
  let hs := (List.range 4).filterMap (fun i => (boxHit q node i).map (fun e => (i, e)))
  let order := (sortBy (fun (a b : Nat × FV) => !b.2.lt a.2) hs).map (fun h => h.1)
  let order := order ++ (List.range 4).filter (fun i => !order.contains i)
  w32 ((hs.map (fun h => 2 ^ h.1)).foldl (· + ·) 0 + ((order.mapIdx (fun j i => i * 2 ^ (4 + 2 * j))).foldl (· + ·) 0))

/-! ## Beams (R393) -/

/-- R393: n · (c − origin) of plane n for a corner. -/
def beamSide (q : List PWord) (node : List Byte) (i corner n : Nat) : FV :=
  [0, 1, 2].foldl (fun acc a =>
    acc.add 0 ((rf q (3 + 3 * n + a)).mul ((boxAt node i (corner / 2 ^ a % 2) a).sub (rf q a)))) .zero

/-- R393: 0 outside, 1 partial, 2 inside. -/
def beamBox (q : List PWord) (node : List Byte) (i : Nat) : Nat :=
  if boxNever node i then 0
  else if (List.range 4).any (fun n => (List.range 8).all (fun c => (beamSide q node i c n).lt .zero)) then 0
  else if (List.range 4).all (fun n => (List.range 8).all (fun c => FV.zero.le (beamSide q node i c n))) then 2
  else 1

def beamWord (q : List PWord) (node : List Byte) : Word :=
  w32 (((List.range 4).map (fun i => beamBox q node i * 4 ^ i)).foldl (· + ·) 0)

/-! ## Triangles (R394) -/

/-- R394: the axes kx, ky, kz. -/
def triAxes (q : List PWord) : Nat × Nat × Nat :=
  let d := fun (a : Nat) => (rf q (4 + a)).abs
  let kz := if (d 0).lt (d 1) then (if (d 1).lt (d 2) then 2 else 1) else (if (d 0).lt (d 2) then 2 else 0)
  let kx := (kz + 1) % 3
  let ky := (kz + 2) % 3
  if (rf q (4 + kz)).lt .zero then (ky, kx, kz) else (kx, ky, kz)

/-- R394: a vertex in the ray's frame, with its rounded steps; none where one of them is not finite. -/
def triVertex (q : List PWord) (k : Nat × Nat × Nat) (sx sy sz : FV) (p : Nat → FV) : Option (FV × FV × FV) :=
  let d := fun (a : Nat) => ((p a).sub (rf q (1 + a))).r32
  let x := ((d k.1).sub (sx.mul (d k.2.2))).r32
  let y := ((d k.2.1).sub (sy.mul (d k.2.2))).r32
  let z := (sz.mul (d k.2.2)).r32
  if [p 0, p 1, p 2, d 0, d 1, d 2, x, y, z].all FV.finite then some (x, y, z) else none

/-- A hit: t, u, v. -/
structure TriHit where
  t : Word
  u : Word
  v : Word

/-- R394: the edge functions and the hit. -/
def triSolve (q : List PWord) (a b c : FV × FV × FV) : Option TriHit :=
  let edge := fun (p r : FV × FV × FV) => (p.1.mul r.2.1).sub (p.2.1.mul r.1)
  let U := edge c b
  let V := edge a c
  let W := edge b a
  let neg := [U, V, W].any (fun x => x.lt .zero)
  let pos := [U, V, W].any (fun x => FV.zero.lt x)
  let det := (U.add 0 V).add 0 W
  if (neg && pos) || det.isZero || (det.lt .zero && qCull (rw q 0).w) then none
  else
    let num := ((U.mul a.2.2).add 0 (V.mul b.2.2)).add 0 (W.mul c.2.2)
    let t := fdiv32 0 num det
    let u := fdiv32 0 V det
    let v := fdiv32 0 W det
    if (F t).finite && (F u).finite && (F v).finite && (rf q 7).le (F t) && (F t).lt (rf q 8) then some ⟨t, u, v⟩ else none

/-- R394: the triangle test. -/
def triTest (q : List PWord) (rec : List Byte) : Option TriHit :=
  let k := triAxes q
  let dir := fun (a : Nat) => rf q (4 + a)
  let sx := (dir k.1).div32 (dir k.2.2)
  let sy := (dir k.2.1).div32 (dir k.2.2)
  let sz := FV.one.div32 (dir k.2.2)
  let vert := fun (o : Nat) => triVertex q k sx sy sz (fun a => fAt rec (o + 4 * a))
  match vert 0, vert 12, vert 24 with
  | some a, some b, some c => triSolve q a b c
  | _, _, _ => none

/-- R390, R394: a triangle is opaque. -/
def triOpaque (w : Word) (rec : List Byte) : Bool :=
  if bit w 6 then true else if bit w 7 then false else bit (w32 (leNat ((rec.drop 0x28).take 4))) 0

/-- R390: what TRIT gives on a query read at issue: the words it writes and its result. -/
def tritStep (q : List PWord) (rec : List Byte) : List (Nat × Word) × Word :=
  let w := (rw q 0).w
  if qState w ≠ 1 then ([], 3)
  else match triTest q rec with
    | none => ([], 0)
    | some h =>
      let id := w32 (leNat ((rec.drop 0x24).take 4))
      let cand := [(12, h.t), (13, id), (14, h.u), (15, h.v)]
      if triOpaque w rec then (cand ++ commitWrites w h.t id h.u h.v, 1)
      else (cand ++ [(0, toState w (bit w 2) 2)], 2)

/-! ## The return of a test (R384, R390, R392 to R394) -/

/-- The bytes of a lane's record, from its parts; none where a part failed. -/
def Access.recBytes (x : Access) (l : Nat) : Option (List Byte) :=
  let ps := x.lanes.filter (fun m => m.lane % 32 = l)
  if ps.any (fun m => m.pois) then none else some (ps.flatMap (fun m => m.got))

/-- What a test's lane returns: its word and poison, and the record words that TRIT writes. -/
def Access.testLane (x : Access) (m : LaneAcc) : PWord × List (Nat × Word) :=
  match x.recBytes m.lane with
  | none => (.bad, [])
  | some bs =>
    let p9 := anyPois m.qrec (List.range 9)
    match x.op with
    | .box => (⟨boxWord m.qrec bs, p9⟩, [])
    | .beam => (⟨beamWord m.qrec bs, anyPois m.qrec (List.range 15)⟩, [])
    | _ => let r := tritStep m.qrec bs; (⟨r.2, p9⟩, r.1)

/-- The lanes of a test's access with their returned words in place. -/
def Access.tested (x : Access) : Access :=
  { x with lanes := (x.lanes.filter (fun m => m.lane < 32)).map (fun m =>
      let r := x.testLane m
      { m with got := leBytes 4 r.1.w.toNat, pois := r.1.pois }) }

/-- R384, R394: TRIT's record writes, while its thread lives. -/
def State.testWrites (s : State) (x : Access) : State :=
  match s.thr? x.uid with
  | none => s
  | some t => (x.lanes.filter (fun m => m.lane < 32)).foldl (fun s m =>
      let r := x.testLane m
      s.recWrite t m.lane m.qAt r.2 r.1.pois) s

/-- The data of a BOXT, TRIT or BEAMT returns. -/
def State.testReturn (s : State) (a : Nat) (x : Access) : State :=
  let s := s.testWrites x
  (s.setAcc a x.tested).returnData a x.tested

/-! ## HOMEP (R396) -/

/-- R396. -/
def execHomep (f : Fields) (s : State) : Out :=
  s.gfxInstr f { opc := 0xEF } (fun _ t => .ok s { v := some (t.as f), part4 := some (t.b0 f) })

/-! ## Coverage (R397) -/

/-- R397: the sample positions. -/
def samplePos : Nat → List (Nat × Nat)
  | 0 => [(128, 128)]
  | 1 => [(192, 192), (64, 64)]
  | 2 => [(96, 32), (224, 96), (32, 160), (160, 224)]
  | _ => [(144, 80), (112, 176), (208, 144), (80, 112), (48, 208), (16, 48), (176, 16), (240, 240)]

/-- R397: a sample lies inside edge e. -/
def edgeIn (q : List PWord) (X Y : Int) (e : Nat) : Bool :=
  let v := Sx (rw q (3 * e)).w * X + Sx (rw q (3 * e + 1)).w * Y + Sx (rw q (3 * e + 2)).w
  decide (0 < v) || (decide (v = 0) && bit (rw q 9).w e)

/-- R397: the coverage word. -/
def coverWord (lg : Nat) (q : List PWord) (b : Word) : Word :=
  let x := fld b 0 16 / 2 * 2
  let y := fld b 16 16 / 2 * 2
  w32 (((List.range 4).map (fun p =>
    (((samplePos lg).mapIdx (fun i d =>
      let X : Int := (256 * (x + p % 2) + d.1 : Nat)
      let Y : Int := (256 * (y + p / 2) + d.2 : Nat)
      if [0, 1, 2].all (edgeIn q X Y) then 2 ^ (8 * p + i) else 0)).foldl (· + ·) 0))).foldl (· + ·) 0)

/-- R397. -/
def execCover (f : Fields) (s : State) : Out :=
  s.gfxInstr f { opc := 0xE8, lf := true } (fun _ t =>
    let idx := t.as f
    let s := s.recOob t idx 10 false
    .ok s (.val ((List.range t.width).map (fun l =>
      let i := idx.getD l .zero
      let b := (t.bs f).getD l .zero
      if recOk i 10 then
        let q := s.recWords t l i 10
        ⟨coverWord (fld f.lit 0 2) q b.w, b.pois || q.any (fun w => w.pois)⟩
      else .bad))))

/-! ## Quad merging (R398) -/

/-- R398: the dot product of the normals. -/
def quadDot (a b : List PWord) : FV := [3, 4, 5].foldl (fun acc j => acc.add 0 ((rf a j).mul (rf b j))) .zero

/-- R398: the merge passes. -/
def quadPass (lit : Word) (a b : List PWord) : Bool :=
  let u := (rw a 0).w ||| (rw b 0).w
  let near := fun (j : Nat) => ((rf a j).sub (rf b j)).abs.le (.fin false 1 (-(fld lit 8 5 : Int)))
  (rw a 1).w == (rw b 1).w && (rw a 2).w == (rw b 2).w && (rw a 0).w &&& (rw b 0).w == 0
    && (List.range 4).all (fun p => fld u (8 * p) 8 != 0)
    && (FV.fin false (fld lit 0 8) (-8)).le (quadDot a b) && near 6 && near 7

/-- R398. -/
def execQmrg (f : Fields) (s : State) : Out :=
  s.gfxInstr f { opc := 0xE9, lf := true } (fun _ t =>
    let ia := t.as f
    let ib := t.bs f
    let s := s.recOobs t [(ia, 8, false), (ib, 8, false)]
    let out := (List.range t.width).map (fun l =>
      let i := ia.getD l .zero
      let j := ib.getD l .zero
      if recOk i 8 && recOk j 8 then
        let a := s.recWords t l i 8
        let b := s.recWords t l j 8
        let bad := (a ++ b).any (fun w => w.pois)
        if quadPass f.lit a b then ((⟨(rw a 0).w ||| (rw b 0).w, bad⟩ : PWord), !bad) else (⟨(rw a 0).w, bad⟩, false)
      else (PWord.bad, false))
    .ok s { v := some (out.map (fun o => o.1)), p := some (out.map (fun o => o.2)) })

end Sys2Proof.Machine
end

