-- ==== Sys2Proof/Machine/Screen.lean ====
section
/-! DEFINITION. Screen tiles: descriptors and binding (R400), tickets (R401), blending (R402 to R404), early
flush and reload (R405), resolve (R406). -/

namespace Sys2Proof.Machine

/-! ## Tables and pages (R399) -/

/-- Samples of a screen tile. -/
def sampleCount (lgS : Nat) : Nat := 4096 * 2 ^ lgS
/-- R399: the buffer pages. -/
def bufPages (lgS : Nat) : Nat := [2, 3, 6, 12].getD lgS 12

/-- A screen tile's name: fabric die, partition, descriptor address. -/
abbrev ScrKey := Nat × Nat × Int

def State.scrOf (s : State) (k : ScrKey) : Option ScrTile := tget s.scr k
def State.setScr (s : State) (k : ScrKey) (e : ScrTile) : State := { s with scr := tset s.scr k e }

/-- Pages that a partition holds on a die. -/
def State.tbUsed (s : State) (die p : Nat) : Nat :=
  ((s.scr.filter (fun e => e.1.1 = die ∧ e.1.2.1 = p)).map (fun e => e.2.pages + e.2.binPages)).foldl (· + ·) 0

/-- `gfx.tbfree`. -/
def State.tbFree (s : State) (die p : Nat) : Nat := tgetD (s.part p).quota die 0 - s.tbUsed die p

/-! ## The descriptor (R400) -/

/-- What the address of a descriptor meets. -/
inductive DescX
  | hold
  | miss (code : Nat) (ea : Int)
  | bad (reason : Nat)
  | ok (ea : Int) (pa : Nat)

/-- The descriptor of TSEQ or TBLND: R243, with a misaligned one malformed (R400). -/
def State.descAt (s : State) (t : Thread) (f : Fields) : DescX :=
  let b := t.b0 f
  let ea := eaOf (s.baseOf t (fld f.lit 0 3)) b.w 1
  if b.pois then .bad 0
  else if !inRange57 ea then .bad 1
  else if ea % 64 ≠ 0 then .bad 6
  else
    let p := t.part
    let use := fun (r : Xl) => match r with
      | .hold => DescX.hold
      | .ok pa _ => if s.switching pa then .hold
          else match s.place pa with | .lost => .bad 5 | .slice _ => .ok ea pa | _ => .bad 3
      | .ro => .bad 4
      | .cow => .miss 2 ea
      | .walk => .miss 1 ea
    match s.xlate p t.src.site ea true 0 with
    | .walk => if s.walkHeld p t.src.site ea then .hold else (match s.walk p t.src.site ea with
      | none => .miss 1 ea
      | some e => use (e.use ea true))
    | r => use r

/-- A descriptor's fields (R400). -/
structure ScrDesc where
  surface : Int
  pitch : Nat
  width : Nat
  height : Nat
  tx : Nat
  ty : Nat
  lgS : Nat
  f16 : Bool
  flush : Int
  clear : Sample
  st : Nat
  die : Nat
  ok : Bool

def scrDesc (bs : List Byte) : ScrDesc :=
  let q := fun (o n : Nat) => leNat ((bs.drop o).take n)
  { surface := (BitVec.ofNat 64 (q 0 8)).toInt, pitch := q 8 4, width := q 0xC 2, height := q 0xE 2, tx := q 0x10 2, ty := q 0x12 2,
    lgS := nfld (q 0x14 4) 0 2, f16 := nfld (q 0x14 4) 2 1 == 1, flush := (BitVec.ofNat 64 (q 0x18 8)).toInt,
    clear := ⟨w32 (q 0x20 4), (List.range 4).map (fun i => BitVec.ofNat 16 (q (0x28 + 2 * i) 2))⟩,
    st := nfld (q 0x38 4) 0 2, die := nfld (q 0x38 4) 2 3,
    ok := nfld (q 0x14 4) 3 29 == 0 && q 0x24 4 == 0 && nfld (q 0x38 4) 5 27 == 0 && q 0x18 8 % 4096 == 0 }

/-- Hardware writes one word of a descriptor at its virtual address. -/
def State.descWrite (s : State) (k : ScrKey) (off : Nat) (v : Nat) : State :=
  match s.hwXlate k.2.1 (.tile (64 * k.1)) (k.2.2 + off) true with
  | none => s
  | some pa => s.hwWrite pa (leBytes 4 v)

/-- R400: write the state word. -/
def State.descState (s : State) (k : ScrKey) (st : Nat) : State := s.descWrite k 0x38 (st + 4 * k.1)

/-- What binding gives. -/
inductive Bound
  | bad
  | full
  | ok (s : State) (d : ScrDesc) (e : ScrTile)

/-- R400: a descriptor of state 0 is bound to this die; a bound one must be in its table. -/
def State.bind (s : State) (t : Thread) (k : ScrKey) (pa : Nat) : Bound :=
  let d := scrDesc (rdN s.mem pa 64)
  if !d.ok || d.st == 3 then .bad
  else if d.st = 0 then
    if 512 ≤ (s.scr.filter (fun e => e.1.1 = k.1 ∧ e.1 ≠ k)).length then .full
    else
      let e : ScrTile := { lgS := d.lgS, flush := d.flush, clear := d.clear, issued := 0, expected := 0, late := 0,
                           resident := false, flushed := false, pages := 0, binPages := 0, samples := [], bin := [],
                           last := s.tick, region := t.region }
      .ok ((s.setScr k e).descState k 1) d e
  else match s.scrOf k with
    | none => .bad
    | some e => if d.die = k.1 then .ok s d e else .bad

/-! ## Early flush and reload (R405) -/

/-- The samples as the flush area's bytes code them. -/
def sampleCode (e : ScrTile) : List (List Nat) :=
  (List.range (sampleCount e.lgS)).map (fun i =>
    let x := tgetD e.samples i e.clear
    x.depth.toNat :: x.rgba.map (fun c => c.toNat))

/-- The 4 KiB pieces of a flush area: their addresses and the bytes that a flush writes there. -/
def flushPieces (e : ScrTile) : List (Int × List Byte) :=
  (List.range (sampleCount e.lgS * 12 / 4096)).map (fun i =>
    (e.flush + (4096 * i : Nat), (List.range 4096).map (fun j => Config.flushByte (sampleCode e) (4096 * i + j))))

/-- Flush one screen tile: its samples, counters and state 2 are written, its buffer pages are free. -/
def State.flushTile (s : State) (k : ScrKey) (e : ScrTile) : State :=
  let s := (flushPieces e).foldl (fun s p =>
    match s.hwXlate k.2.1 (.tile (64 * k.1)) p.1 true with
    | none => s
    | some pa => s.hwWrite pa p.2) s
  let s := ((s.descWrite k 0x30 e.issued.toNat).descWrite k 0x34 e.expected.toNat).descState k 2
  s.setScr k { e with resident := false, flushed := true, pages := 0 }

/-- A resolve of this screen tile is under way. -/
def State.resolving (s : State) (k : ScrKey) : Bool :=
  s.accs.any (fun x => x.2.isResolve && x.2.desc == k.2.2 && x.2.who.part == k.2.1 && dieOf x.2.who.ag.site == k.1)

/-- R405: the buffer that an early flush takes. -/
def State.flushVictim (s : State) (k : ScrKey) : Option (ScrKey × ScrTile) :=
  let es := s.scr.filter (fun e => e.1.1 = k.1 ∧ e.1.2.1 = k.2.1 ∧ e.1 ≠ k ∧ e.2.resident ∧ s.resolving e.1 = false)
  es.find? (fun e => es.all (fun g => decide (e.2.last ≤ g.2.last)))

/-- R307, R317: a flush is held: a piece of its area, or its descriptor. -/
def State.tileFlushHeld (s : State) (k : ScrKey) (e : ScrTile) : Bool :=
  (k.2.2 :: (flushPieces e).map (fun p => p.1)).any (s.hwHolds k.2.1 (.tile (64 * k.1)))

/-- R405: make n pages free; false where nothing is left to flush, or a flush is held. -/
def State.needPages (s : State) (k : ScrKey) (n : Nat) : Nat → State × Bool
  | 0 => (s, decide (n ≤ s.tbFree k.1 k.2.1))
  | fuel + 1 =>
    if n ≤ s.tbFree k.1 k.2.1 then (s, true)
    else match s.flushVictim k with
      | none => (s, false)
      | some v => if s.tileFlushHeld v.1 v.2 then (s, false) else (s.flushTile v.1 v.2).needPages k n fuel

/-- The threads that a screen tile's ticket or reload holds try again. -/
def State.wakeTickets (s : State) (k : ScrKey) : State :=
  (s.threads.filter (fun e => e.2.stat = .ticket k.2.2 ∧ e.2.part = k.2.1 ∧ dieOf e.2.src.site = k.1)).foldl (fun s e =>
    match e.2.slot with
    | some _ => (s.setThr e.1 { e.2 with stat := .ready }).wake e.2.src.site e.2.cellsHeld
    | none => (s.setThr e.1 { e.2 with stat := .run }).post (.issue e.2.src)) s

/-- R405: a flush area whose bytes are still those of the flush gives the samples back; else they are what
the area's bytes say, which no rule lays out (assumption 23). -/
def State.reloaded (s : State) (k : ScrKey) (e : ScrTile) : ScrTile :=
  let same := (flushPieces e).all (fun p =>
    match s.hwXlate k.2.1 (.tile (64 * k.1)) p.1 false with
    | none => false
    | some pa => s.served pa && rdN s.mem pa 4096 == p.2)
  let free := fun (i : Nat) =>
    let w := fun (j : Nat) => Config.word s.tick (8 * (5 * i + j) + 4)
    (i, (⟨w 0, (List.range 4).map (fun j => BitVec.ofNat 16 (w (j + 1)).toNat)⟩ : Sample))
  { e with resident := true, flushed := false, pages := bufPages e.lgS,
           samples := if same then e.samples else (List.range (sampleCount e.lgS)).map free }

/-- Acts on a = fabric die, v = descriptor address, c = partition. -/
def execScreenTileReload (s : State) : Out :=
  let k : ScrKey := (s.subj.a, s.subj.c, s.subj.v.toInt)
  match s.scrOf k with
  | none => .next (s.wakeTickets k)
  | some e =>
    if !e.flushed then .next (s.wakeTickets k)
    else if (flushPieces e).any (fun p => s.hwHolds k.2.1 (.tile (64 * k.1)) p.1) then .next (s.postEv .screenTileReload s.subj)
    else match s.needPages k (bufPages e.lgS) 512 with
      | (s, false) => .next (s.postEv .screenTileReload s.subj)
      | (s, true) => .next (((s.setScr k (s.reloaded k e)).descState k 1).wakeTickets k)

/-! ## Failures and misses -/

/-- The failure record of a TSEQ or TBLND that fails in every selected lane (R254, R400). -/
def State.descRecord (s : State) (t : Thread) (opc reason : Nat) : State :=
  match t.selLanes with
  | [] => s
  | l :: _ => if reason = 0 then s else s.raise (t.who opc) 0x0111 ((t.who opc).details reason [w32 l, maskOf t.selLanes])

/-- R253: the descriptor's page has no translation yet: a replayable record, and the thread waits; a reply
lets the instruction issue again. -/
def State.descMiss (s : State) (u : Nat) (t : Thread) (f : Fields) (opc code : Nat) (ea : Int) : Body :=
  let full := s.tqFull t.part
  let s := s.raise (t.who opc) code ((t.who opc).details 0 []) (some (.open_ u)) ea
  .ok (s.setThr u (t.waiting .unit none f opc)) { susp := some (if full then .record else .reply) }

/-- The access of a TSEQ, whose words are known as it issues. -/
def State.seqAccess (s : State) (u : Nat) (t : Thread) (f : Fields) (g : Nat → PWord) (fail : Option Nat) : State :=
  let x := t.access .tseq 0xEA f.lit none 0 0 (dstRegs f)
  s.issueAcc u (t.selLanes.foldl (fun x l =>
    match fail with
    | some r => x.addLane (LaneAcc.new l 0 4 [] [] 0) (some r)
    | none =>
      let w := g l
      { x with lanes := x.lanes ++ [{ LaneAcc.new l 0 4 [] [] 0 with st := .done, got := leBytes 4 w.w.toNat, pois := w.pois }] }) x)

def seqEff (t : Thread) (f : Fields) : Eff := { v := some (t.as f), load := true }

/-- A TSEQ whose selected lanes all fail. -/
def State.seqFail (s : State) (u : Nat) (t : Thread) (f : Fields) (reason : Nat) : State := s.seqAccess u t f (fun _ => .bad) (some reason)

/-! ## TSEQ (R401) -/

/-- R401: append one entry per selected lane. The append ends its cycle: of the appends that one cycle would take, the
order of the steps is the rule's order of the cells. -/
def State.seqAppend (s : State) (u : Nat) (t : Thread) (f : Fields) (k : ScrKey) (e : ScrTile) : Body :=
  let ls := t.selLanes
  let tick := fun (j : Nat) => e.issued + w32 j
  let need := ((List.range ls.length).filter (fun j => (tick j).toNat % 8192 = 0)).length
  match s.needPages k need 512 with
  | (s, false) => .hold s
  | (s, true) =>
    let bin := (ls.mapIdx (fun j l => (j, l))).foldl (fun b x => tset b (tick x.1).toNat ((t.as f).getD x.2 .zero).w) e.bin
    let s := s.setScr k { e with bin := bin, issued := tick ls.length, binPages := e.binPages + need }
    .ok (s.seqAccess u t f (fun l => ⟨tick (ls.idxOf l), ((t.as f).getD l .zero).pois⟩) none).endCycle (seqEff t f)

/-- R401: read one entry per selected lane. -/
def seqRead (e : ScrTile) (a : PWord) : PWord :=
  if !a.pois && decide (Zx a.w < Zx e.issued) then .ok (tgetD e.bin (Zx a.w) 0) else .bad

/-- R401. -/
def execTseq (f : Fields) (s : State) : Out :=
  s.gfxInstr f { opc := 0xEA, ctr := some .ld, counts := Thread.tileLane } (fun u t =>
    if t.selLanes.isEmpty then .ok (s.seqAccess u t f (fun _ => .bad) none) (seqEff t f)
    else match s.descAt t f with
      | .hold => .hold s
      | .miss code ea => s.descMiss u t f 0xEA code ea
      | .bad r => .ok (s.seqFail u t f r) (seqEff t f)
      | .ok ea pa =>
        let k : ScrKey := (dieOf t.src.site, t.part, ea)
        match s.bind t k pa with
        | .bad => .ok (s.seqFail u t f 6) (seqEff t f)
        | .full => .full
        | .ok s _ e =>
          if bit f.lit 3 then .ok (s.seqAccess u t f (fun l => seqRead e ((t.as f).getD l .zero)) none) (seqEff t f)
          else s.seqAppend u t f k e)

/-! ## Blending (R402 to R404) -/

/-- R403: the depth test. -/
def depthPass (test : Nat) (fd sd : Word) : Bool :=
  let a := F fd
  let b := F sd
  match test with
  | 0 => true
  | 1 => a.lt b
  | 2 => a.le b
  | 3 => b.lt a
  | 4 => b.le a
  | 5 => a.eq b
  | _ => false

/-- R403: one channel. -/
def blendChan (mode : Nat) (c alpha : FV) (d : BitVec 16) : BitVec 16 :=
  let x := fp16.val d.toNat
  BitVec.ofNat 16 (fp16.round 0 (match mode with
    | 0 => c
    | 1 => c.add 0 (x.mul (FV.one.sub alpha))
    | _ => c.add 0 x))

/-- R403: one sample. -/
def blendSample (lit : Word) (q : List PWord) (x : Sample) : Sample :=
  if depthPass (fld lit 5 3) (rw q 3).w x.depth then
    { depth := if bit lit 10 then (rw q 3).w else x.depth
      rgba := x.rgba.mapIdx (fun j d => blendChan (fld lit 8 2) (rf q (4 + j)) (rf q 7) d) }
  else x

/-- R403: a fragment blends the samples of its mask. -/
def blendFrag (lit : Word) (e : ScrTile) (q : List PWord) : ScrTile :=
  let w1 := (rw q 1).w
  let pix := fld w1 8 6 * 64 + fld w1 0 6
  let n := 2 ^ e.lgS
  { e with samples := ((List.range n).filter (fun i => bit (rw q 2).w i)).foldl (fun t i =>
      tset t (pix * n + i) (blendSample lit q (tgetD t (pix * n + i) e.clear))) e.samples }

/-- R404: records with a poisoned word, in selected lanes, write one "poison store" record. -/
def State.fragPoison (s : State) (t : Thread) (k : ScrKey) (fr : List (Nat × List PWord)) : State :=
  match fr.filter (fun x => x.2.any (fun w => w.pois)) with
  | [] => s
  | x :: xs => s.raise (t.who 0xEB) 0x0112 ((t.who 0xEB).poisonRecord (t.laneAgent x.1) 6 k.2.2 (maskOf ((x :: xs).map (fun y => y.1))))

/-- R402 to R404: a blend form whose ticket is the expected one, on a resident buffer. -/
def State.blend (s : State) (t : Thread) (f : Fields) (k : ScrKey) (e : ScrTile) (fr : List (Nat × List PWord)) (T : Word) : State :=
  let mine := fr.filter (fun x => (rw x.2 0).w = T)
  let form := fld f.lit 3 2
  let e := { e with late := e.late + w32 (fr.length - mine.length) }
  let e := if form = 2 then e
    else { (mine.filter (fun x => !x.2.any (fun w => w.pois))).foldl (fun e x => blendFrag f.lit e x.2) e with last := s.tick }
  let e := if form = 0 then e else { e with expected := e.expected + 1 }
  let s := (s.setScr k e).fragPoison t k fr
  if form = 0 then s else s.wakeTickets k

/-- The thread suspends until its screen tile lets it go on (R402, R405). -/
def State.ticketWait (s : State) (u : Nat) (k : ScrKey) : Body := .hold (s.suspend u (.ticket k.2.2))

/-- R405: a flushed screen tile reloads. -/
def State.startReload (s : State) (u : Nat) (k : ScrKey) : Body :=
  (s.postEv .screenTileReload { a := k.1, c := k.2.1, v := BitVec.ofInt 64 k.2.2 }).ticketWait u k

/-- R402: the forms that take fragments. -/
def State.blendForm (s : State) (u : Nat) (t : Thread) (f : Fields) (k : ScrKey) (e : ScrTile) : Body :=
  let idx := t.as f
  let s := s.recOob t idx 8 false
  let fr := (t.selLanes.filter (fun l => recOk (idx.getD l .zero) 8)).map (fun l => (l, s.recWords t l (idx.getD l .zero) 8))
  match fr with
  | [] => .ok s {}
  | (_, q) :: _ =>
    let T := (rw q 0).w
    let ahead := Sx (T - e.expected)
    if 0 < ahead then s.ticketWait u k
    else if ahead < 0 then .ok ((s.setScr k { e with late := e.late + w32 fr.length }).fragPoison t k fr) {}
    else if e.flushed then s.startReload u k
    else if e.resident || fld f.lit 3 2 == 2 then .ok (s.blend t f k e fr T) {}
    else match s.needPages k (bufPages e.lgS) 512 with
      | (s, false) => .hold s
      | (s, true) =>
        .ok (s.blend t f k { e with resident := true, pages := bufPages e.lgS, samples := [] } fr T) {}

/-! ## Resolve (R406) -/

/-- R406, R413: Sat to [0, 1], times 255, rounded to nearest even; a NaN gives 0. -/
def u8Of (v : FV) : Nat :=
  if v.isNan || v.lt .zero then 0
  else if FV.one.lt v then 255
  else ((v.mul (.fin false 255 0)).toInt 0).int.toNat

/-- R406: the mean of a channel over the samples of a pixel. -/
def pixelMean (e : ScrTile) (pix j : Nat) : FV :=
  let n := 2 ^ e.lgS
  let sum := (List.range n).foldl (fun a i =>
    a.add 0 (fp16.val ((tgetD e.samples (pix * n + i) e.clear).rgba.getD j 0).toNat)) (FV.fin true 0 0)
  sum.mul (.fin false 1 (-(e.lgS : Int)))

/-- R406: the bytes of a pixel. -/
def pixelBytes (f16 : Bool) (e : ScrTile) (pix : Nat) : List Byte :=
  (List.range 4).flatMap (fun j =>
    if f16 then leBytes 2 (fp16.round 0 (pixelMean e pix j)) else [BitVec.ofNat 8 (u8Of (pixelMean e pix j))])

/-- Cut bytes at lines. -/
def linePieces (ea : Int) (bs : List Byte) : Nat → List (Int × List Byte)
  | 0 => []
  | n + 1 =>
    if bs.isEmpty then []
    else let m := 128 - (ea % 128).toNat; (ea, bs.take m) :: linePieces (ea + m) (bs.drop m) n

/-- R406: the pieces that a resolve writes. -/
def resolvePieces (d : ScrDesc) (e : ScrTile) : List (Int × List Byte) :=
  let size := if d.f16 then 8 else 4
  (List.range 64).flatMap (fun py =>
    let y := 64 * d.ty + py
    let n := min 64 (d.width - 64 * d.tx)
    if d.height ≤ y ∨ n = 0 then []
    else linePieces (d.surface + (y * d.pitch + 64 * d.tx * size : Nat))
      ((List.range n).flatMap (fun px => pixelBytes d.f16 e (py * 64 + px))) 8)

/-- R406: the stores of a resolve. -/
def State.resolveStart (s : State) (u : Nat) (t : Thread) (f : Fields) (k : ScrKey) (d : ScrDesc) (e : ScrTile) : State :=
  let x := { t.access .st 0xEB f.lit none 0 0 [] with desc := k.2.2 }
  let x := ((resolvePieces d e).mapIdx (fun i p => (i, p))).foldl (fun x p =>
    x.addLane (LaneAcc.new p.1 p.2.1 p.2.2.length p.2.2 (fullMask p.2.2) 0) (laneFault false p.2.1 1)) x
  s.issueAcc u x

/-- R406: the stores have performed: counters and state 3, pages and entry free, `nst` falls. -/
def State.resolveEnd (s : State) (a : Nat) (x : Access) : State :=
  let k : ScrKey := (dieOf x.who.ag.site, x.who.part, x.desc)
  let s := match s.scrOf k with
    | none => s
    | some e =>
      let s := (((s.descWrite k 0x30 e.issued.toNat).descWrite k 0x34 e.expected.toNat).descWrite k 0x3C e.late.toNat).descState k 3
      { s with scr := tdel s.scr k }
  ((s.retire a x).wakeTickets k).settleAcc a

/-- R406: the resolve form. -/
def State.resolveForm (s : State) (u : Nat) (t : Thread) (f : Fields) (k : ScrKey) (d : ScrDesc) (e : ScrTile) : Body :=
  if e.expected ≠ e.issued || s.resolving k then .hold s
  else if e.flushed then s.startReload u k
  else .ok (s.resolveStart u t f k d e) {}

/-- R402, R406. -/
def execTblnd (f : Fields) (s : State) : Out :=
  let form := fld f.lit 3 2
  s.gfxInstr f { opc := 0xEB, a := form != 3, lf := form != 3, ctr := if form = 3 then some .st else none,
                 counts := Thread.tileLane, cyc := if form ≤ 1 then 4 else 1 } (fun u t =>
    if t.selLanes.isEmpty then .ok s {}
    else
      let fail := fun (r : Nat) => Body.ok (s.descRecord t 0xEB r) (.val (t.all .bad))
      match s.descAt t f with
      | .hold => .hold s
      | .miss code ea => s.descMiss u t f 0xEB code ea
      | .bad r => fail r
      | .ok ea pa =>
        let k : ScrKey := (dieOf t.src.site, t.part, ea)
        match s.bind t k pa with
        | .bad => fail 6
        | .full => .full
        | .ok s d e => if form = 3 then s.resolveForm u t f k d e else s.blendForm u t f k e)

end Sys2Proof.Machine
end

