-- ==== Sys2Proof/Machine/Control.lean ====
section
/-! DEFINITION. Control words: what each reads, who writes it, CWGET and CWSET (R377 to R379), the reads
that clear (R6) and the plain writes. -/

namespace Sys2Proof.Machine

/-! ## Where a control word lies -/

/-- A control word as an instruction or command names it: number, index, memory die, partition, half, and
whether the agent is a system agent or a root agent (R378). -/
structure CwAt where
  n : Nat
  i : Nat
  die : Nat
  part : Nat
  high : Bool
  sys : Bool
  root : Bool
  deriving DecidableEq, Repr

/-- R377: the word that a control literal names; `idx` is the register that an indexed form takes its
index from. -/
def cwAt (t : Thread) (lit idx : Word) : CwAt :=
  let sys := isSyrad t.src.site
  { n := fld lit 0 12, i := if bit lit 25 then fld idx 0 10 else fld lit 12 10, die := fld lit 22 2,
    part := if sys then fld lit 26 4 else t.part, high := bit lit 24, sys := sys, root := sys || t.region == 0 }

/-- The words that a partition holds, and the slice words that depend on it. -/
def CwAt.ofPart (c : CwAt) : Bool :=
  c.n == 0x010 || c.n == 0x011 || decide (0x400 ≤ c.n ∧ c.n ≤ 0x403) || c.n == 0x502 || decide (0x620 ≤ c.n ∧ c.n ≤ 0xA00)
    || decide (0xC00 ≤ c.n)

/-- The index is in range (R379). -/
def CwAt.inRange (c : CwAt) : Bool :=
  match cwRow c.n with
  | none => false
  | some r => decide (c.i < r.count)

/-- The word has 64 bits (R378). -/
def CwAt.wide (c : CwAt) : Bool :=
  match cwRow c.n with
  | none => false
  | some r => r.wide

/-- The words of the lantern port, which system agents alone read (R378). -/
def CwAt.lantern (c : CwAt) : Bool := decide (0xB00 ≤ c.n ∧ c.n ≤ 0xB04)

/-- The partition that holds the word is live. -/
def State.cwLive (s : State) (c : CwAt) : Bool := !c.ofPart || (tget s.parts c.part).isSome

/-- R379: a read is not refused. -/
def State.cwReads (s : State) (c : CwAt) : Bool := c.inRange && s.cwLive c && (c.sys || !c.lantern)

/-- R378: who writes a word: no one, the threads of the cell, root agents, system agents. -/
def cwWriter (n : Nat) : Nat :=
  if n = 0x002 then 1
  else if n ∈ [0x400, 0x401, 0x402, 0x403, 0x502, 0x900, 0x902, 0x904, 0x905, 0xA00] then 2
  else if n ∈ [0x010, 0x011, 0x600, 0x601, 0x602, 0x603, 0x610, 0x700, 0x701, 0x702, 0x703, 0x704, 0x705, 0x800, 0x801,
      0x802, 0x901, 0x906, 0x907, 0xB00, 0xB01, 0xB02, 0xB03, 0xB04, 0xC00, 0xC01, 0xD00, 0xD01] then 3
  else 0

/-- R378, R379: a write is not refused. -/
def State.cwWrites (s : State) (c : CwAt) : Bool :=
  c.inRange && s.cwLive c && (match cwWriter c.n with
    | 0 => false
    | 1 => true
    | 2 => c.root
    | _ => c.sys)

/-! ## Words of a cell, a thread, a strip, a column unit -/

/-- R124. -/
def Grant.word (g : Option Grant) (k : Nat) : Nat :=
  match g with
  | none => k
  | some g => g.count * 2 ^ 16 + g.width * 2 ^ 8 + k

/-- R213. -/
def Thread.count (t : Thread) : Nat := t.nmx * 2 ^ 24 + t.ncp * 2 ^ 16 + t.nst * 2 ^ 8 + t.nld

/-- R211. -/
def Cell.qfreeWord (c : Cell) : Nat := c.qfree 3 * 2 ^ 12 + c.qfree 2 * 2 ^ 8 + c.qfree 1 * 16 + c.qfree 0

/-- What lane l of a thread reads from a word that the lane's cell, the thread, the strip, the column unit or
the lane's die holds; none for every other word. -/
def State.cwLocal (s : State) (t : Thread) (l : Nat) (c : CwAt) : Option Nat :=
  let ag := t.laneAgent l
  match c.n with
  | 0x001 => some (tileid ag).toNat
  | 0x002 => some (tgetD (s.cell t.src).bases c.i 0).toNat
  | 0x100 => some (s.cell ag).slots.length
  | 0x101 => some (((t.loops.reverse[c.i]?).map (fun e => e.count)).getD 0)
  | 0x102 => some t.count
  | 0x200 => some (s.cell ag).issued.toNat
  | 0x201 => some (s.cell ag).passed.toNat
  | 0x202 => some (s.cell ag).qfreeWord
  | 0x300 => some (Grant.word (s.grant? t.src.site t.strip c.i) c.i)
  | 0x310 => some (match t.src.site with | .tile n => (tgetD s.colReq (unitOf n) 0).toNat | _ => 0)
  | 0x311 => some (match t.src.site with | .tile n => (tgetD s.colWait (unitOf n) 0).toNat | _ => 0)
  | 0xC02 => some (match t.src.site with | .tile n => s.tbFree (n / 64) c.part | _ => 0)
  | _ => none

/-! ## Words of a partition, a slice, a memory die, the module -/

/-- R361. -/
def Part.status (v : Part) : Nat :=
  (if v.halted then 2 ^ 31 else 0) + v.preempt.st * 2 ^ 28 + (if v.refused then 2 ^ 27 else 0)
    + (if v.halted && v.stopping.isEmpty then 2 ^ 26 else 0) + (if v.halted then v.stop1 % 256 * 2 ^ 16 else 0) + v.occupancy % 512

/-- R354: the domain that holds a region; zero for a region that is not live. -/
def Part.domWord (v : Part) (r : Nat) : Nat :=
  match tget v.regions r with
  | none => 0
  | some g =>
    let d := tgetD v.domains g.dom ⟨false, false, 0⟩
    (if d.fenced then 2 ^ 31 else 0) + (if d.policy then 2 ^ 30 else 0) + g.dom * 2 ^ 16 + d.faults

/-- R301: the slice is set in the current words of a domain of the partition. -/
def State.ownSlice (s : State) (p n : Nat) : Bool :=
  (setBits (s.part p).doms).any (fun k => (s.dom (n / 16) k).slices.getLsbD (n % 16))

/-- R301: the oldest waiting collapse of a slice. -/
def State.cstat (s : State) (n : Nat) : Nat :=
  let cs := s.coh.colls.filter (fun c => s.homeOr (c.line * 128) = n)
  match cs.find? (fun c => cs.all (fun d => decide (c.since ≤ d.since))) with
  | none => 0
  | some c => c.st * 2 ^ 30 + c.die * 2 ^ 28 + min (2 ^ 28 - 1) (s.cycle - c.since)

/-- The words of a partition. -/
def State.cwPart (s : State) (v : Part) (p n i : Nat) : Nat :=
  match n with
  | 0x010 => v.frmK * 2 ^ 27 + s.liveFrames p % 2 ^ 21
  | 0x011 => v.spillbase.toNat
  | 0x400 => v.lfOob.toNat
  | 0x401 => v.lfOobIdx.toNat
  | 0x402 => v.mxOob.toNat
  | 0x403 => v.mxOobAdr.toNat
  | 0x700 => v.root.toNat
  | 0x702 => if v.invst.isSome then 1 else 0
  | 0x703 => v.rcstat.toNat
  | 0x704 => v.cowbase.toNat
  | 0x705 => v.cowlimit.toNat
  | 0x800 => let q := tgetD v.queues i HostQ.reset; (if q.live then 256 else 0) + q.prio
  | 0x801 => let q := tgetD v.queues i HostQ.reset; q.accepted % 65536 * 2 ^ 16 + (64 - q.packets.length)
  | 0x802 => (tgetD v.queues i HostQ.reset).sib.toNat
  | 0x900 => v.status
  | 0x901 => v.tqBase.toNat
  | 0x902 => v.tqHead.toNat
  | 0x903 => v.tqTail.toNat
  | 0x905 => v.domWord i
  | 0x907 => v.srbase.toNat
  | 0x908 => v.ecc.toNat
  | 0x909 => v.lost.toNat
  | 0xA00 => v.bkpten.toNat
  | 0xC00 => v.ownbase.toNat
  | 0xC01 => v.owncnt.toNat
  | 0xD00 => v.expBase.toNat
  | 0xD01 => v.expSize.toNat
  | _ => 0

/-- The counters of a slice (R261, R262, R301). -/
def State.cwSlice (s : State) (p n i : Nat) : Nat :=
  let v := s.slice i
  let own := fun (x : Nat) => if s.ownSlice p i then x else 0
  match n with
  | 0x500 => v.gaps.toNat
  | 0x501 => (v.gapcyc + w32 (s.stallNow i)).toNat
  | 0x502 => if v.shareOk then 2 ^ 31 else 0
  | 0x620 => own v.rhit.toNat
  | 0x621 => own v.rfill.toNat
  | 0x622 => own v.coll.toNat
  | 0x623 => own v.raise.toNat
  | 0x624 => own v.lower.toNat
  | 0x625 => own (v.cwait + w32 (s.waitNow i)).toNat
  | 0x626 => own v.mcmrg.toNat
  | _ => own (s.cstat i)

/-- What a word of no cell or thread reads as; a WO word reads zero (R6). -/
def State.cwWord (s : State) (c : CwAt) : Nat :=
  match c.n with
  | 0x000 => 0xB0
  | 0x600 => (s.dom c.die c.i).base
  | 0x601 => (s.dom c.die c.i).limit
  | 0x602 => (s.dom c.die c.i).slices.toNat
  | 0x603 => (tgetD (s.dom c.die (c.i / 4)).hash (c.i % 4) 0).toNat
  | 0x610 => (if s.coh.busy then 2 ^ 31 else 0) + (if s.coh.refused then 2 ^ 30 else 0) + s.coh.ctlDoms.toNat
  | 0xB00 => s.lantern.ctl.toNat
  | 0xB01 => s.lantern.base.toNat
  | 0xB02 => s.lantern.wr.toNat
  | 0xB03 => (tgetD s.lantern.edges c.i 0).toNat
  | 0xB04 => (tgetD s.lantern.drops c.i 0).toNat
  | _ => if decide (0x500 ≤ c.n ∧ c.n ≤ 0x502) || decide (0x620 ≤ c.n ∧ c.n ≤ 0x627) then s.cwSlice c.part c.n c.i
         else s.cwPart (s.part c.part) c.part c.n c.i

/-- The half of a word that an instruction reads (R379). -/
def CwAt.half (c : CwAt) (x : Nat) : Word := w32 (if c.high then x / 2 ^ 32 else x)

/-- What lane l reads. -/
def State.cwRead (s : State) (t : Thread) (l : Nat) (c : CwAt) : Word := c.half ((s.cwLocal t l c).getD (s.cwWord c))

/-- The words whose read clears them (R6, R378). -/
def CwAt.rc (c : CwAt) : Bool := c.n == 0x908 || c.n == 0x909 || c.n == 0xB04

/-- Clear an RC word. -/
def State.cwClear (s : State) (n p i : Nat) : State :=
  match n with
  | 0x908 => s.modPart p (fun v => { v with ecc := 0 })
  | 0x909 => s.modPart p (fun v => { v with lost := 0 })
  | _ => { s with lantern := { s.lantern with drops := tset s.lantern.drops i 0 } }

/-! ## CWGET -/

/-- The end of a CWGET or CWSET that another agent's step completes; thread 0 is no thread. -/
def State.cwDone (s : State) (u : Nat) (e : Thread → Eff) : State :=
  match s.thr? u with
  | none => s
  | some t => s.complete u (e t)

/-- R379: an access to a word outside the cell holds the issue slot until it has taken effect. -/
def cwHold (s : State) (u : Nat) (t : Thread) (f : Fields) (opc : Nat) (i : Instr) (x : Subj) : Body :=
  .ok ((s.setThr u (t.waiting .unit none f opc)).postEv i x) { susp := some .column }

/-- R379. -/
def execCwget (f : Fields) (s : State) : Out :=
  s.instr f { opc := 0xF4, a := bit f.lit 25, b := false } (fun u t =>
    let idx := t.a0 f
    let c := cwAt t f.lit idx.w
    if t.selLanes.isEmpty then .ok s {}
    else if bit f.lit 25 && idx.pois then .ok s (.valP (t.all .bad) (allP t false))
    else if !s.cwReads c then .ok s (.valP (t.all .zero) (allP t false))
    else if c.rc then cwHold s u t f 0xF4 .rcRead { a := c.part, b := c.n, c := c.i, d := u }
    else .ok s (.valP ((List.range t.width).map (fun l => .ok (s.cwRead t l c))) (allP t true)))

/-- R6: the first lane that reads takes the count, which is then zero for the others.
Acts on a = partition, b = word, c = index, d = thread. -/
def execRcRead (s : State) : Out :=
  let x := s.subj
  let w : CwAt := ⟨x.b, x.c, 0, x.a, false, true, true⟩
  let v := w32 (s.cwWord w)
  .next ((s.cwClear x.b x.a x.c).cwDone x.d (fun t =>
    .valP ((List.range t.width).map (fun l => if t.selLanes.head? = some l then .ok v else .zero)) (allP t true)))

/-! ## Plain writes -/

/-- The staged words of a domain on a die (R293): the current ones until a write stages others. -/
def State.stagedDom (s : State) (die k : Nat) : L2Dom := tgetD s.coh.staged (16 * die + k) (s.dom die k)

def State.modStaged (s : State) (die k : Nat) (f : L2Dom → L2Dom) : State :=
  { s with coh := { s.coh with staged := tset s.coh.staged (16 * die + k) (f (s.stagedDom die k)) } }

/-- Bits [hi:lo] of a value in place; the rest zero (R7). -/
def keepBits (x hi lo : Nat) : Nat := nfld x lo (hi + 1 - lo) * 2 ^ lo

/-- R134, R190: clearing the valid bit clears both words. -/
def Part.clearOob (v : Part) (n x : Nat) : Part :=
  if nfld x 31 1 = 0 then v
  else if n = 0x400 then { v with lfOob := 0, lfOobIdx := 0 } else { v with mxOob := 0, mxOobAdr := 0 }

def Part.modQueue (v : Part) (i : Nat) (f : HostQ → HostQ) : Part :=
  { v with queues := tset v.queues i (f (tgetD v.queues i HostQ.reset)) }

/-- A plain write of a partition's word, its reserved and read-only bits left alone (R6, R7). DESIGN CHOICE
(assumption 37): mmu.root, flt.srbase and gfx.ownbase are aligned addresses of RW words whose low bits no rule
says read zero, so the word keeps and reads every bit written, and what uses it drops the low bits. -/
def Part.cwPut (v : Part) (n i x : Nat) : Part :=
  match n with
  | 0x010 => { v with frmK := nfld x 27 5 }
  | 0x011 => { v with spillbase := BitVec.ofNat 64 (keepBits x 63 16) }
  | 0x400 => v.clearOob n x
  | 0x402 => v.clearOob n x
  | 0x700 => { v with root := BitVec.ofNat 64 x }
  | 0x704 => { v with cowbase := BitVec.ofNat 64 (keepBits x 63 16) }
  | 0x705 => { v with cowlimit := BitVec.ofNat 64 (keepBits x 63 16) }
  | 0x800 => v.modQueue i (fun q => { q with live := nfld x 8 1 == 1, prio := nfld x 0 3 })
  | 0x802 => v.modQueue i (fun q => { q with sib := BitVec.ofNat 64 (keepBits x 63 6) })
  | 0x900 => if nfld x 27 1 = 1 then { v with refused := false } else v
  | 0x901 => { v with tqBase := BitVec.ofNat 64 x }
  | 0x902 => { v with tqHead := w32 x }
  | 0x904 => { v with refused := true }
  | 0x905 => match tget v.regions i with
    | none => v
    | some g => { v with domains := tmod v.domains g.dom (fun d => { d with policy := nfld x 30 1 == 1 }) }
  | 0x907 => { v with srbase := BitVec.ofNat 64 x }
  | 0xA00 => { v with bkpten := w32 x }
  | 0xC00 => { v with ownbase := BitVec.ofNat 64 x }
  | 0xC01 => { v with owncnt := w32 (keepBits x 16 0) }
  | 0xD00 => { v with expBase := BitVec.ofNat 64 x }
  | 0xD01 => { v with expSize := BitVec.ofNat 64 x }
  | _ => v

/-- A plain write of a word outside the cells (R6, R7, R293, R305, R376). DESIGN CHOICE (assumption 37): R378
lets system agents write lt.wr (0xB02) and no map gives it an access code; a write is accepted and changes
nothing, as for a word that the hardware alone moves. -/
def State.cwPut (s : State) (n p i die x : Nat) : State :=
  match n with
  | 0x600 => s.modStaged die i (fun d => { d with base := keepBits x 48 16 })
  | 0x601 => s.modStaged die i (fun d => { d with limit := keepBits x 48 16 })
  | 0x602 => s.modStaged die i (fun d => { d with slices := BitVec.ofNat 16 x })
  | 0x603 => s.modStaged die (i / 4) (fun d => { d with hash := tset d.hash (i % 4) (BitVec.ofNat 64 (keepBits x 48 7)) })
  | 0x610 => { s with coh := { s.coh with ctlDoms := BitVec.ofNat 16 x } }
  | 0xB00 => { s with lantern := { s.lantern with ctl := w32 (keepBits x 31 30 + keepBits x 4 0) } }
  | 0xB01 => { s with lantern := { s.lantern with base := BitVec.ofNat 64 x } }
  | 0xB03 => { s with lantern := { s.lantern with edges := tset s.lantern.edges i (w32 (keepBits x 31 29 + keepBits x 25 9)) } }
  | _ => s.modPart p (fun v => v.cwPut n i x)

/-- A plain write takes effect and ends its cycle (R8). Records held for room in a trap queue are looked at
again when its head moves (R357). -/
def State.cwPlain (s : State) (n p i die x : Nat) : State :=
  let s := (s.cwPut n p i die x).endCycle
  if n = 0x902 then ((s.part p).heldRecs).foldl (fun s h => s.postEv .trapRecordWrite { a := p, b := h.1 }) s else s

/-- A CWSET that has taken effect. -/
def cwsetEff (t : Thread) (w : Wait) : Eff := .valP (t.as w.fields) (allP t true)

/-- The writing thread goes on. -/
def State.cwSet (s : State) (u : Nat) : State :=
  s.cwDone u (fun t => match t.wait with | none => {} | some w => cwsetEff t w)

/-- Acts on a = partition, b = word, c = 1024 * memory die + index, d = thread, v = value. -/
def execControlWordWrite (s : State) : Out :=
  let x := s.subj
  .next ((s.cwPlain x.b x.a (x.c % 1024) (x.c / 1024) x.v.toNat).cwSet x.d)

/-- R262. Acts on a = partition, b = slice, d = thread, v = value. -/
def execGlShareWrite (s : State) : Out :=
  let x := s.subj
  .next ((s.glShare x.a x.b (w32 x.v.toNat)).endCycle.cwSet x.d)

/-! ## CWSET -/

/-- The event that performs a write, by the behaviour of its word (R262, R305, R314, R337, R359, R366). -/
def State.cwEvent (s : State) (n p i die x u : Nat) : Instr × Subj :=
  let v := BitVec.ofNat 64 x
  let plain : Instr × Subj := (.controlWordWrite, { a := p, b := n, c := 1024 * die + i, d := u, v := v })
  match n with
  | 0x502 => (.glShareWrite, { a := p, b := i, d := u, v := v })
  | 0x610 => if nfld x 17 1 = 1 then (.l2Switch, { a := x % 65536, d := u, v := v })
             else if nfld x 16 1 = 1 then (.l2Writeback, { a := x % 65536, d := u, v := v }) else plain
  | 0x701 => (.mmuInvalidate, { a := p, d := u, v := v })
  | 0x800 => if nfld x 8 1 = 0 && (tgetD (s.part p).queues i HostQ.reset).live then (.hostQueueDestroy, { a := p, b := i, d := u, v := v })
             else plain
  | 0x904 => match nfld x 8 2 with
    | 0 => (.replyRetry, { a := p, b := nfld x 0 8, d := u, v := v })
    | 1 => (.replyFail, { a := p, b := nfld x 0 8, d := u, v := v })
    | 2 => (.replyEndThread, { a := p, b := nfld x 0 8, d := u, v := v })
    | _ => plain
  | 0x906 => match nfld x 0 3 with
    | 1 => (.raiseHalt, { a := p, d := u })
    | 2 => (.releaseHalt, { a := p, d := u })
    | 3 => (.preemptRegion, { a := p, b := nfld x 10 10, d := u })
    | 4 => (.resumeRegion, { a := p, b := nfld x 10 10, d := u })
    | _ => plain
  | _ => plain

/-- The value that a write of a half or of a whole word gives (R379). -/
def State.cwValue (s : State) (t : Thread) (c : CwAt) (a : Word) : Nat :=
  if !c.high then a.toNat
  else
    let low := match t.staged with
      | some g => if g.word = c.n ∧ g.index = c.i ∧ g.die = c.die then g.low.toNat else ((s.cwLocal t 0 c).getD (s.cwWord c)) % 2 ^ 32
      | none => ((s.cwLocal t 0 c).getD (s.cwWord c)) % 2 ^ 32
    a.toNat * 2 ^ 32 + low

/-- A high half uses up the low half staged for its word. -/
def Thread.unstage (t : Thread) (c : CwAt) : Thread :=
  match t.staged with
  | some g => if g.word = c.n ∧ g.index = c.i ∧ g.die = c.die then { t with staged := none } else t
  | none => t

/-- R434: a Syrad cell's own matcher words, which have no number of R378. -/
def State.matcherForm (s : State) (f : Fields) : Bool := isSyrad s.cur.site && matcherLit 0xF5 f.lit

/-- R434: an engine's matcher takes a registration; events of its key that wait in another matcher come to it. -/
def State.register (s : State) (d : Nat) (r : Nat × Word) : State :=
  let mine := fun (e : Nat × Word) => e.1 == r.1
  let others := (List.range 4).filter (· ≠ d)
  let came := others.flatMap (fun e => ((s.matcher e).waiting ++ (s.matcher e).sources).filter mine)
  let s := others.foldl (fun s e => s.modMatcher e (fun m =>
    { m with waiting := m.waiting.filter (fun e => !mine e), sources := m.sources.filter (fun e => !mine e) })) s
  (s.modMatcher d (fun m => { m with regs := m.regs.filter (fun q => q.1 ≠ r.1) ++ [r], sources := m.sources ++ came })).postEv
    .eventMatch { a := d }

/-- R434: a write of a matcher word; one that finds no free entry registers nothing (assumption 19). -/
def State.matcherSet (s : State) (t : Thread) (c : CwAt) (a : Word) (r : List PWord) : Body :=
  let d := dieOf t.src.site - 12
  let m := s.matcher d
  match Config.matcherWord c.n c.i c.high a with
  | none => .ok s (.valP r (allP t true))
  | some k =>
    if 512 ≤ m.regs.length + m.waiting.length ∧ !m.regs.any (fun q => q.1 == k.1) then .ok s (.valP r (allP t false))
    else .ok (s.register d k) (.valP r (allP t true))

/-- R379, R434. -/
def execCwset (f : Fields) (s : State) : Out :=
  s.instr f { opc := 0xF5, b := bit f.lit 25, free := s.matcherForm f } (fun u t =>
    let a := t.a0 f
    let idx := t.b0 f
    let c := cwAt t f.lit idx.w
    let r := t.as f
    if t.selLanes.isEmpty then .ok s {}
    else if a.pois || (bit f.lit 25 && idx.pois) then .ok s (.valP (r.map (fun w => { w with pois := true })) (allP t false))
    else if s.matcherForm f then s.matcherSet t c a.w r
    else if !s.cwWrites c then .ok s (.valP r (allP t false))
    else if c.wide && !c.high then
      .ok (s.setThr u { t with staged := some ⟨c.n, c.i, c.die, a.w⟩ }) (.valP r (allP t true))
    else
      let x := s.cwValue t c a.w
      let t' := t.unstage c
      if c.n = 0x002 then
        let s := s.modCell t.src (fun k => { k with bases := tset k.bases c.i (BitVec.ofNat 64 x) })
        .ok (s.setThr u t') (.valP r (allP t true))
      else
        let e := s.cwEvent c.n c.part c.i c.die x u
        cwHold s u t' f 0xF5 e.1 e.2)

end Sys2Proof.Machine
end

