-- ==== Sys2Proof/Machine/Multicast.lean ====
section
/-! DEFINITION. LDMC and its service at the home slices (R257, R302 to R304, R420, R421). -/

namespace Sys2Proof.Machine

/-- R257: the tiles that a mask names. -/
def mcTiles (mask : Word) (die h : Nat) : List Nat :=
  ((List.range 32).filter (fun i => bit mask i)).map (fun i => die * 64 + (4 * h + i / 8) * 8 + i % 8)

/-- The lanes of an LDMC: one per line. -/
def mcLane (ea : Int) (i : Nat) : LaneAcc := .new i (ea + (128 * i : Nat)) 128 [] [] 0

/-- R243: the lines of an LDMC; a failing one fails the whole instruction (R257). -/
def Access.mcFill (x : Access) (bad : Bool) (ea : Int) (n : Nat) : Access :=
  match (List.range n).findSome? (fun i => laneFault bad (ea + (128 * i : Nat)) 128) with
  | some r => x.addLane (mcLane ea 0) (some r)
  | none => (List.range n).foldl (fun x i => x.addLane (mcLane ea i) none) x

/-- R257, R42: tiles outside the partition are not sent to. -/
def State.mcOutside (s : State) (t : Thread) (tiles : List Nat) : State :=
  (tiles.filter (fun n => !s.owns t.part (.tile n))).foldl (fun s n =>
    s.raise (t.who 0xA5) 0x0101 ((t.who 0xA5).details 0 [0, w32 n])) s

/-- R257. -/
def execLdmc (f : Fields) (s : State) : Out :=
  s.memInstr f { opc := 0xA5, ctr := some .ld, counts := Thread.anyLane } (fun u t =>
    let a := t.a0 f
    let b := t.b0 f
    let z := t.z0
    let bad := a.pois || b.pois || z.pois
    let tiles := if bad then [] else mcTiles b.w (fld z.w 29 3) (fld z.w 28 1)
    let mine := tiles.filter (fun n => s.owns t.part (.tile n))
    let n := fld z.w 22 6 + 1
    let op : AccOp := .ldmc b.w.toNat (fld z.w 29 3) (bit z.w 28) n (fld z.w 16 6) (fld z.w 0 16)
    let x := t.access op 0xA5 f.lit (some (mStream f.lit)) (mOrd f.lit) (mScope f.lit) []
    let x := x.mcFill bad (eaOf (s.baseOf t (mBase f.lit)) a.w 4) n
    let s' := if x.fails.isEmpty then s.mcOutside t tiles else s
    if t.selLanes.isEmpty then .ok s (.val (t.as f))
    else if x.fails.isEmpty && mine.isEmpty then .ok s' (.val (t.as f))
    else .ok ((s'.issueAcc u x).postEv .ldmcRequestArrival { a := s'.fresh })
      (.val (if bad then (t.as f).map (fun v => { v with pois := true }) else t.as f)))

/-! ## What is still to come -/

/-- A request still waits for something to reach a tile. -/
def State.mcOwes (s : State) (acc tile : Nat) : Bool :=
  s.coh.mc.any (fun e =>
    ((e.2.want.drop e.2.next).any (fun w => w.contains (acc, tile)))
      || e.2.late.any (fun l => l.want.contains (acc, tile))
      || e.2.replies.any (fun r => r.tile == tile && r.accs.contains acc))

/-- A home slice serves lines of this LDMC. -/
def State.mcServes (s : State) (acc : Nat) : Bool :=
  s.coh.mc.any (fun e => e.2.acc == acc || e.2.want.any (fun w => w.any (fun q => q.1 == acc))
    || e.2.late.any (fun l => l.want.any (fun q => q.1 == acc)) || e.2.replies.any (fun r => r.accs.contains acc))

/-- R257: every line of a request is in at these tiles: each adds the increment, unless the instruction has failed
meanwhile (R300); with no tile left the access has performed. -/
def State.mcLanded (s : State) (acc : Nat) (tiles : List Nat) : State :=
  match s.acc? acc with
  | none => s
  | some x =>
    match x.op with
    | .ldmc mask die h _ sem inc =>
      let s := (if x.fails.isEmpty then tiles else []).foldl (fun s n => s.addSem (.tile n) sem (w32 inc) x.who.inv) s
      if (mcTiles (w32 mask) die (if h then 1 else 0)).any (s.mcOwes acc) then s
      else (s.modAcc acc (fun x => { x with lanes := x.lanes.map (fun m => { m with st := .done }) })).settleAcc acc
    | _ => s

def State.setMc (s : State) (n : Nat) (v : McSvc) : State := { s with coh := { s.coh with mc := tset s.coh.mc n v } }

/-- A service with nothing left to do is gone. -/
def State.mcDrop (s : State) (n : Nat) : State :=
  match tget s.coh.mc n with
  | none => s
  | some v =>
    if v.arrived && decide (v.lines.length ≤ v.next) && v.windows.isEmpty && v.late.isEmpty && v.replies.isEmpty then
      { s with coh := { s.coh with mc := tdel s.coh.mc n } }
    else s

/-! ## The request -/

/-- The slice that serves a line of an LDMC; 64 for another module's. -/
def State.mcSlice (s : State) (m : LaneAcc) : Nat := if isAperture m.pa then 64 else s.homeOr m.pa

/-- Different numbers of a list, ascending. -/
def sortNats (l : List Nat) : List Nat := (sortBy (fun a b => decide (a ≤ b)) l).dedup

/-- A translated request leaves for each home slice of its lines. -/
def State.mcDepart (s : State) (a : Nat) (x : Access) (die scope : Nat) (tiles : List Nat) : State :=
  (sortNats (x.lanes.map s.mcSlice)).foldl (fun s sl =>
    let ls := sortNats ((x.lanes.filter (fun m => decide (s.mcSlice m = sl))).map (fun m => lineOf m.pa))
    let v : McSvc := { slice := sl, die := die, scope := scope, acc := a, arrived := false, order := 0, lines := ls,
                       want := ls.map (fun _ => tiles.map (fun n => (a, n))), next := 0, read := false, windows := [],
                       buf := [], late := [], replies := [] }
    (s.bump.setMc s.fresh v).postEv .ldmcRequestArrival { a := a, b := s.fresh, c := 1 }) s

/-- R257: the request goes once its lines are translated and ordered; a failing line fails it whole. -/
def State.mcStart (s : State) (a : Nat) (x : Access) (die scope : Nat) (tiles : List Nat) : State :=
  let again := s.postEv .ldmcRequestArrival { a := a }
  let out := fun (m : LaneAcc) => match s.place m.pa with | .lost => some 5 | .nowhere => some 3 | _ => none
  if x.lanes.any (fun m => m.st == .walk || m.st == .parked || m.st == .remote) then again
  else if x.fails ≠ [] then
    (s.modAcc a (fun x => { x with lanes := x.lanes.map (fun m => { m with st := .done }) })).settleAcc a
  else if x.lanes.any (fun m => m.st == .todo && (out m).isSome) then
    (x.lanes.foldl (fun s m => match out m with | none => s | some r => s.failLane a m.lane r) s).postEv .ldmcRequestArrival { a := a }
  else if !x.lanes.all (fun m => s.mayPerform x m) then again
  else s.mcDepart a x die scope tiles

/-- R421: how an earlier service takes a line: none, at its reply, or by a second copy. -/
def McSvc.takes (v : McSvc) (line : Nat) : Option (Nat × Bool) :=
  match v.lines.findIdx? (fun l => l == line) with
  | none => none
  | some i =>
    if v.next < i ∨ (v.next = i ∧ !v.read) then some (i, false)
    else if i ∉ v.windows then none
    else some (i, decide (i < v.next))

/-- R303: a request merges line `line` at an earlier service: its tiles join the reply, or receive second
copies where the first ones have left; a tile fills a line once, so a copy that is still to come serves every
request that names its tile. -/
def McSvc.join (v : McSvc) (i : Nat) (second : Bool) (pairs : List (Nat × Nat)) : McSvc :=
  let line := v.lines.getD i 0
  let old := v.want.getD i []
  if !second then { v with want := v.want.set i (old ++ pairs) }
  else
    let had := fun (n : Nat) => old.any (fun e => e.2 == n)
    let new := pairs.filter (fun e => !had e.2)
    let later := v.late.map (fun l => if l.line = line
      then { l with want := l.want ++ pairs.filter (fun e => l.want.any (fun w => w.2 == e.2)) } else l)
    let rs := v.replies.map (fun r => if r.line = line
      then { r with accs := r.accs ++ ((pairs.filter (fun e => e.2 == r.tile)).map (fun e => e.1)) } else r)
    let v := { v with want := v.want.set i (old ++ pairs), replies := rs, late := later }
    if new = [] then v
    else { v with late := insBy (fun a b => decide (a.line ≤ b.line)) ⟨line, new, tgetD v.buf i []⟩ v.late }

/-- R421: merge one line of a service into the earlier ones; whether it merged. -/
def State.mcMergeLine (s : State) (n : Nat) (v : McSvc) (line : Nat) (pairs : List (Nat × Nat)) : State × Bool :=
  let es := s.coh.mc.filter (fun e => e.1 ≠ n ∧ e.2.arrived ∧ e.2.slice = v.slice ∧ e.2.die = v.die ∧ e.2.scope = v.scope)
  match es.findSome? (fun e => (e.2.takes line).map (fun r => (e.1, e.2, r))) with
  | none => (s, false)
  | some (k, e, i, second) => ((s.setMc k (e.join i second pairs)).postEv .ldmcLineRead { a := k }, true)

/-- R303, R421: the request arrives at a slice and is taken line by line. -/
def State.mcArrive (s : State) (n : Nat) (v : McSvc) : State :=
  let pairs := v.want.headD []
  let merged := if v.slice = 64 then (s, []) else
    v.lines.foldl (fun (r : State × List Nat) l => let q := r.1.mcMergeLine n v l pairs; (q.1, if q.2 then r.2 ++ [l] else r.2)) (s, [])
  let fresh := v.lines.filter (fun l => l ∉ merged.2)
  let v' := { v with arrived := true, order := s.tick, lines := fresh, want := fresh.map (fun _ => pairs) }
  let s' := merged.1.setMc n v'
  let s' := if merged.2 = [] then s' else s'.modSlice v.slice (fun x => { x with mcmrg := x.mcmrg + 1 })
  let s' := if fresh = [] then s'.mcDrop n else s'.postEv .ldmcLineRead { a := n }
  s'.mcLanded v.acc ((pairs.map (fun e => e.2)).filter (fun t => s.mcOwes v.acc t && !s'.mcOwes v.acc t))

/-- Acts on a = access: it leaves; or, with c = 1, it arrives at the slice of service b. -/
def execLdmcRequestArrival (s : State) : Out :=
  let a := s.subj.a
  match s.acc? a with
  | none => .next s
  | some x =>
    match x.op with
    | .ldmc mask die h _ _ _ =>
      if x.retired then .next s
      else if s.subj.c = 1 then
        match tget s.coh.mc s.subj.b with
        | none => .next s
        | some v =>
          if v.slice ≠ 64 ∧ v.lines.any (fun l => s.switching (l * 128)) then .next (s.postEv .ldmcRequestArrival s.subj)
          else .next (s.mcArrive s.subj.b v)
      else
        let tiles := (mcTiles (w32 mask) die (if h then 1 else 0)).filter (fun n => s.owns x.who.part (.tile n))
        .next (s.mcStart a x die x.scope tiles)
    | _ => .next s

/-! ## The service -/

/-- The bytes of a line as its home reads it; none with an uncorrectable error, recorded (R362). -/
def State.mcBytes (s : State) (v : McSvc) (x : Access) (line : Nat) : State × List Byte :=
  if v.slice = 64 then
    (s, ((x.lanes.find? (fun m => m.pa / 128 = line)).map (fun m => m.got)).getD [])
  else if s.badAt (line * 128) 128 then
    let pa := firstErr s.memBad (line * 128) 128
    ((s.raise x.who 0x0117 (x.who.details 0 [w32 pa, w32 (pa / 2 ^ 32)])).noteFault v.acc, [])
  else (s, rdN s.mem (line * 128) 128)

/-- R302: read the next line, once no other request for a line of the die goes first (R326); its merge window opens. -/
def State.mcRead (s : State) (n : Nat) (v : McSvc) : State :=
  let line := v.lines.getD v.next 0
  let again := fun (s : State) => s.postEv .ldmcLineRead { a := n }
  match s.acc? v.acc with
  | none => s
  | some x =>
    match (if v.slice = 64 then some s
      else if (tget s.coh.lines line).isNone
          && s.hbmYields (memDie (line * 128)) (s.rank x.who.part x.who.region (12 + memDie (line * 128)) itemHbm, n, 0) then none
      else s.lineIn x.who.part x.who.region line) with
    | none => again s
    | some s =>
      let r := s.mcBytes v x line
      again (r.1.setMc n { v with read := true, windows := v.windows ++ [v.next], buf := tset v.buf v.next r.2 })

/-- R304: one copy for each tile of a reply's mask. -/
def mcReplies (line : Nat) (bytes : List Byte) (want : List (Nat × Nat)) : List McReply :=
  (sortNats (want.map (fun e => e.2))).map (fun t => ⟨t, line, bytes, ((want.filter (fun e => e.2 = t)).map (fun e => e.1)).dedup⟩)

/-- The replies leave. -/
def State.mcSend (s : State) (n : Nat) (v : McSvc) (rs : List McReply) : State :=
  rs.foldl (fun s r => s.postEv .ldmcReplyArrival { a := n, b := r.tile }) (s.setMc n { v with replies := v.replies ++ rs })

/-- R300: the memory die of a service is lost: what it has not sent yet fails every request that waits for it,
with reason 5. -/
def State.mcLost (s : State) (n : Nat) (v : McSvc) : State :=
  let accs := (((v.want.drop v.next).flatten ++ v.late.flatMap (fun l => l.want)).map (fun e => e.1)).dedup
  let s := s.setMc n { v with lines := v.lines.take v.next, want := v.want.take v.next, read := false, windows := [], buf := [], late := [] }
  let s := accs.foldl (fun s a => (s.modAcc a (fun x => { x with fails := x.fails ++ [(0, 5)] })).noteFault a) s
  (accs.foldl (fun s a => s.mcLanded a []) s).mcDrop n

/-- R302, R420, R421: the service reads a line, sends the reply of the line read, or sends second copies.
Acts on a = service. -/
def execLdmcLineRead (s : State) : Out :=
  let n := s.subj.a
  match tget s.coh.mc n with
  | none => .next s
  | some v =>
    if v.slice ≠ 64 ∧ s.coh.lost.contains (12 + v.slice / 16) then .next (s.mcLost n v)
    else if v.next < v.lines.length then
      if v.read then
        let rs := mcReplies (v.lines.getD v.next 0) (tgetD v.buf v.next []) (v.want.getD v.next [])
        let s := (s.mcSend n { v with read := false, next := v.next + 1 } rs).postEv .mergeWindowClose { a := n, b := v.next }
        .next (s.postEv .ldmcLineRead { a := n })
      else if s.mcTurn n v then .next (s.mcRead n v)
      else .next (s.postEv .ldmcLineRead { a := n })
    else match v.late with
      | [] => .next (s.mcDrop n)
      | l :: ls => .next ((s.mcSend n { v with late := ls } (mcReplies l.line l.bytes l.want)).postEv .ldmcLineRead { a := n })

/-- R252, R257: the line is in at a tile with the value that it was sent, as a class 0 load leaves it; the tiles whose
requests are then complete add. Where the tile itself has written or read the line at its home since the service read
it, that is kept, so that the tile never reads less than what it has read or written already (R273, R274, R280;
assumption 31). Acts on a = service, b = tile. -/
def execLdmcReplyArrival (s : State) : Out :=
  let n := s.subj.a
  let tile := s.subj.b
  match tget s.coh.mc n with
  | none => .next s
  | some v =>
    match v.replies.find? (fun r => r.tile = tile) with
    | none => .next s
    | some r =>
      if s.away (.tile tile) (((s.acc? v.acc).map (fun x => x.who.inv)).getD 0) then .next (s.postEv .ldmcReplyArrival s.subj)
      else
      let s := s.setMc n { v with replies := v.replies.erase r }
      let s := if r.bytes = [] then s.dropL1 (.tile tile) r.line else s.setL1 (.tile tile) r.line (v.newest r)
      let s := r.accs.foldl (fun s a => if s.mcOwes a tile then s else s.mcLanded a [tile]) s
      .next (s.mcDrop n)

/-- R302: a merge window closes. Acts on a = service, b = line index. -/
def execMergeWindowClose (s : State) : Out :=
  match tget s.coh.mc s.subj.a with
  | none => .next s
  | some v =>
    .next ((s.setMc s.subj.a { v with windows := v.windows.filter (· ≠ s.subj.b), buf := tdel v.buf s.subj.b }).mcDrop s.subj.a)

end Sys2Proof.Machine
end

