-- ==== Sys2Proof/Machine/Domains.lean ====
section
/-! DEFINITION. Interleave domains, links and dies: the ranged write-back (R306), the switch (R307, R308),
invalidation of translations (R314), heartbeats, lost dies and sleeping links (R300, R441). -/

namespace Sys2Proof.Machine

/-! ## Write-back (R305, R306) -/

/-- An address lies in the current range of a domain of a mask. -/
def State.inDoms (s : State) (mask : BitVec 16) (pa : Nat) : Bool :=
  match s.domainOf pa with
  | none => false
  | some k => mask.getLsbD k

/-- R305, R306: the start of a ranged write-back; no effect while another pass or a switch runs. -/
def State.l2Writeback (s : State) (mask : Nat) : State :=
  if s.coh.busy then s
  else
    let m := BitVec.ofNat 16 mask
    { s with coh := { s.coh with busy := true, ctlDoms := m, writeback := m } }.postEv .l2WritebackEnd

/-- Acts on a = domains, d = thread. -/
def execL2Writeback (s : State) : Out := .next ((s.l2Writeback s.subj.a).endCycle.cwSet s.subj.d)

/-- R306, R325: every dirty line of the domains is written, for the region that brought it in, and stays, clean. -/
def State.cleanDoms (s : State) (mask : BitVec 16) : State :=
  let s := (s.coh.lines.filter (fun e => e.2.dirty && s.inDoms mask (e.1 * 128))).foldl (fun s e =>
    s.charge e.2.owner.1 e.2.owner.2 (12 + memDie (e.1 * 128)) itemHbm 128) s
  { s with coh := { s.coh with lines := s.coh.lines.map (fun e =>
      if s.inDoms mask (e.1 * 128) then (e.1, { e.2 with dirty := false }) else e) } }

/-- R306. -/
def execL2WritebackEnd (s : State) : Out :=
  let s' := s.cleanDoms s.coh.writeback
  .next { s' with coh := { s'.coh with busy := false, writeback := 0 } }

/-! ## The switch (R307, R308) -/

/-- The words of a domain on a die after a switch of a mask. -/
def State.domAfter (s : State) (mask : BitVec 16) (die k : Nat) : L2Dom := if mask.getLsbD k then s.stagedDom die k else s.dom die k

/-- R293: the number of slices of a domain on a die is allowed, and a range has slices. -/
def L2Dom.ok (d : L2Dom) : Bool :=
  let n := (setBits d.slices).length
  (n == 0 || n == 1 || n == 2 || n == 4 || n == 8 || n == 16) && (decide (d.limit ≤ d.base) || n != 0)

/-- Two ranges of one die overlap. -/
def L2Dom.meets (d e : L2Dom) : Bool := decide (d.base < d.limit ∧ e.base < e.limit ∧ d.base < e.limit ∧ e.base < d.limit)

/-- R293, R308: the configuration that a switch would make current keeps the rules. -/
def State.switchOk (s : State) (mask : BitVec 16) : Bool :=
  (List.range 4).all (fun die =>
    let ds := (List.range 16).map (fun k => s.domAfter mask die k)
    (setBits mask).all (fun k => (s.domAfter mask die k).ok
      && (List.range 16).all (fun j => j == k || !(s.domAfter mask die k).meets (ds.getD j L2Dom.reset))))

/-- R308: the mask names the lowest domain of a partition with an open chain. -/
def State.chainsOn (s : State) (mask : BitVec 16) : Bool :=
  s.parts.any (fun e => (match e.2.lowDomain with | none => false | some k => mask.getLsbD k) && e.2.chains.any (fun c => c.2.isOpen))

/-- R307 step 1, R308: requests of the named ranges are held, or the switch is refused. -/
def State.l2Switch (s : State) (mask : Nat) : State :=
  if s.coh.busy then s
  else
    let m := BitVec.ofNat 16 mask
    if !s.switchOk m || s.chainsOn m then { s with coh := { s.coh with ctlDoms := m, refused := true } }
    else { s with coh := { s.coh with ctlDoms := m, refused := false, busy := true, switch := some ⟨m⟩ } }.postEv .l2SwitchCommit

/-- Acts on a = domains, d = thread. -/
def execL2Switch (s : State) : Out := .next ((s.l2Switch s.subj.a).endCycle.cwSet s.subj.d)

/-- R307 step 2: accepted requests of the held ranges have performed: their collapses are acknowledged,
their fills and multicast services have ended. -/
def State.drained (s : State) : Bool :=
  !s.coh.colls.any (fun c => s.switching (c.line * 128))
    && !s.coh.fills.any (fun k => s.switching (k.2.line * 128))
    && !s.coh.mc.any (fun e => e.2.arrived && e.2.slice != 64 && e.2.lines.any (fun l => s.switching (l * 128)))

/-- R307 step 3: the lines of the ranges leave their slices, dirty ones written back, their replicas collapse, one
collapse counted to each holder (R298, R301), and their regions are untracked. -/
def State.dropLines (s : State) : State :=
  let out := fun (l : Nat) => s.switching (l * 128)
  let s := (s.coh.lines.filter (fun e => out e.1)).foldl (fun s e => (s.hwCollapse e.1).dropLine e.1) s
  { s with coh := { s.coh with
      replicas := s.coh.replicas.filter (fun e => !out e.1.2)
      regs := s.coh.regs.filter (fun e => !((List.range 32).any (fun i => out (e.1.2 * 16384 + i * 512)))) } }

/-- R307 step 5: the lines of an LDMC request that has not arrived go to their new homes. -/
def State.rehome (s : State) (n : Nat) (v : McSvc) : State :=
  let homes := sortNats (v.lines.map (fun l => s.homeOr (l * 128)))
  let pairs := v.want.headD []
  let part := fun (h : Nat) =>
    let ls := v.lines.filter (fun l => s.homeOr (l * 128) = h)
    { v with slice := h, lines := ls, want := ls.map (fun _ => pairs) }
  match homes with
  | [] => s
  | h :: hs => hs.foldl (fun s h => (s.bump.setMc s.fresh (part h)).postEv .ldmcRequestArrival { a := v.acc, b := s.fresh, c := 1 })
      (s.setMc n (part h))

/-- R307 step 4: the staged words of the named domains become current on every memory die at once, among them a word
that software has staged since the switch began, unchecked (DESIGN CHOICE, assumption 50). -/
def State.commitDoms (s : State) (mask : BitVec 16) : State :=
  let keys := (List.range 64).filter (fun i => mask.getLsbD (i % 16))
  { s with coh := { s.coh with
      doms := keys.foldl (fun d i => tset d i (s.stagedDom (i / 16) (i % 16))) s.coh.doms
      staged := s.coh.staged.filter (fun e => !keys.contains e.1)
      switch := none, busy := false } }

/-- R307 step 5: the hardware's own held writes perform, oldest first, and what a queue operation waited for is
tested again. -/
def State.replayHw (s : State) : State :=
  let ws := s.coh.hwHeld
  let s := ws.foldl (fun s w => s.hwPerform w.1 w.2) { s with coh := { s.coh with hwHeld := [] } }
  s.parts.foldl (fun s e => s.retestQueues e.1) s

/-- R307 steps 2 to 5. -/
def execL2SwitchCommit (s : State) : Out :=
  match s.coh.switch with
  | none => .next s
  | some w =>
    if !s.drained then .next (s.postEv .l2SwitchCommit)
    else
      let moved := s.coh.mc.filter (fun e => !e.2.arrived && e.2.slice != 64)
      .next (moved.foldl (fun s e => s.rehome e.1 e.2) (s.dropLines.commitDoms w.doms).replayHw)

/-! ## Invalidation of translations (R314) -/

/-- The bits of the page that an invalidation's size field names. -/
def invalBits : Nat → Nat
  | 0 => 16
  | 1 => 21
  | _ => 30

/-- An invalidation of a size covers an address. -/
def invalHits (size : Nat) (page va : Int) : Bool := size == 3 || va57 va / 2 ^ invalBits size == va57 page / 2 ^ invalBits size

/-- An invalidation covers a TLB entry: their pages meet. -/
def TlbEnt.invalid (e : TlbEnt) (p size : Nat) (page : Int) : Bool :=
  e.part == p && (size == 3 ||
    (let b := max e.bits (invalBits size)
     e.page * 2 ^ e.bits / 2 ^ b == va57 page / 2 ^ b))

/-- A write of mmu.inval: with go set and no invalidation running, one starts. -/
def State.mmuInvalidate (s : State) (p x : Nat) : State :=
  match tget s.parts p with
  | none => s
  | some v =>
    if nfld x 0 1 = 0 ∨ v.invst.isSome then s
    else (s.setPart p { v with invst := some (nfld x 2 2, (BitVec.ofNat 64 (keepBits x 63 16)).toInt, []) }).postEv
      .mmuInvalidateComplete { a := p }

/-- Acts on a = partition, d = thread, v = value. -/
def execMmuInvalidate (s : State) : Out := .next ((s.mmuInvalidate s.subj.a s.subj.v.toNat).cwSet s.subj.d)

/-- An access has used a translation of an address that `hit` picks, and has not performed at `.pkg`: a lane of it
is on its way or owes collapses, the slices serve its lines (an LDMC), or it is an engine's, at another module. -/
def State.usesPage (s : State) (p : Nat) (hit : Int → Bool) (a : Nat) (x : Access) : Bool :=
  x.who.part == p && (x.uid == 0 && x.lanes.any (fun m => m.st != .done)
    || x.lanes.any (fun m => hit m.ea
      && (m.st == .remote || (m.st == .done && s.owingAt x.who.ag.site 3 m.acks) || (m.st == .todo && s.mcServes a))))

/-- The collapses that the copies, chains of command blocks and drains of a partition still wait for. -/
def State.enginesOwe (s : State) (p : Nat) : List Nat :=
  s.unacked (s.sites.flatMap (fun e => e.2.copies.flatMap (fun c => if c.2.who.part = p then c.2.owed else [])
        ++ e.2.chains.flatMap (fun c => if c.2.who.part = p then c.2.owed else []))
    ++ s.elems.flatMap (fun e => match e.2.running with | some m => if m.who.part = p then m.owed else [] | none => [])
    ++ (s.threads ++ s.biv.flatMap (fun b => b.2.threads)).flatMap (fun e => if e.2.part = p then e.2.cpOwed ++ e.2.mxOwed else []))

/-- The accesses that used a translation `hit` picks and have yet to perform at `.pkg`, and the collapses that
engines owe. -/
def State.pageUsers (s : State) (p : Nat) (hit : Int → Bool) : List Nat :=
  (s.accs.filter (fun e => s.usesPage p hit e.1 e.2)).map (fun e => e.1) ++ s.enginesOwe p

/-- One of the gathered accesses or collapses still has to perform at `.pkg`. -/
def State.pageUsed (s : State) (p : Nat) (hit : Int → Bool) (gate : List Nat) : Bool :=
  gate.any (fun a => (s.acc? a).any (s.usesPage p hit a)) || !(s.owing gate).isEmpty

/-- A lane of a thread's access holds a translation that it has not used. -/
def Access.rewalks (x : Access) (p : Nat) (hit : Int → Bool) (m : LaneAcc) : Bool :=
  let tex := match x.op with | .tex _ => true | _ => false
  x.who.part == p && decide (x.uid ≠ 0) && !tex && m.st == .todo && hit m.ea && m.got.isEmpty

/-- R246, R314, R317: a lane that has not performed gives its translation up and walks again, so that a load
after the thread's own parked store sees that store on its new page. -/
def State.rewalk (s : State) (p : Nat) (hit : Int → Bool) : State :=
  s.accs.foldl (fun s e => e.2.lanes.foldl (fun s m =>
    if e.2.rewalks p hit m && !s.mcServes e.1 then (s.modLane e.1 m.lane (fun m => { m with st := .walk })).postEv .pageWalk { a := e.1, b := m.lane }
    else s) s) s

/-- A copy chunk in flight writes to an address that `hit` picks. -/
def State.flightHits (s : State) (p : Nat) (hit : Int → Bool) : Bool :=
  s.sites.any (fun e => e.2.copies.any (fun c => c.2.who.part == p && c.2.flight.any (fun k =>
    k.writes.any (fun w => match w.1 with | .mem ea _ => hit ea | _ => false))))

/-- R314: the matching entries leave every TLB. -/
def State.dropTlb (s : State) (p size : Nat) (page : Int) : State :=
  let keep := fun (es : List TlbEnt) => es.filter (fun e => !e.invalid p size page)
  { s with coh := { s.coh with tlb1 := s.coh.tlb1.map (fun e => (e.1, keep e.2)), tlb2 := s.coh.tlb2.map (fun e => (e.1, keep e.2)) } }

/-- R232: some page of a queue's ring that `hit` picks is not mapped writable. -/
def State.ringLost (s : State) (p : Nat) (via : Site) (hit : Int → Bool) (q : QDesc) : Bool :=
  let ring := (BitVec.ofNat 64 q.ring).toInt
  (List.range (((ring % 4096).toNat + 4 * 2 ^ q.m + 4095) / 4096)).any (fun i =>
    let va := ring - ring % 4096 + (4096 * i : Nat)
    hit va && (s.hwXlate p via va true).isNone)

/-- R232, R233: the descriptor of a queue, or a page of its ring, is no longer mapped writable after an invalidation. -/
def State.queueLost (s : State) (hit : Int → Bool) (q : QueueId) : Bool :=
  (s.hwXlate q.part q.via q.desc true != some q.pa && (hit q.desc || s.queues.contains q))
    || s.ringLost q.part q.via hit (qdescAt s.mem q.pa)

/-- R232, R233: the live queues of a partition that an invalidation has unmapped die. -/
def State.killUnmapped (s : State) (p : Nat) (hit : Int → Bool) : State :=
  ((s.queues ++ s.unusedQueues s.mem).filter (fun q => q.part = p)).foldl (fun s q =>
    if s.queueLost hit q then s.killQueue q 3 else s) s

/-- R314: the entries leave first (c = 0); the bit clears once the accesses translated through them have
performed at `.pkg`. Acts on a = partition, c = phase. -/
def execMmuInvalidateComplete (s : State) : Out :=
  let p := s.subj.a
  match tget s.parts p with
  | none => .next s
  | some v =>
    match v.invst with
    | none => .next s
    | some (size, page, gate) =>
      let hit := invalHits size page
      if s.subj.c = 0 then
        .next ((((s.dropTlb p size page).rewalk p hit).setPart p { v with invst := some (size, page, s.pageUsers p hit) }).postEv
          .mmuInvalidateComplete { a := p, c := 1 })
      else if s.pageUsed p hit gate || s.flightHits p hit then .next (s.postEv .mmuInvalidateComplete s.subj)
      else .next ((s.setPart p { v with invst := none }).killUnmapped p hit)

/-! ## Heartbeats and lost dies (R300) -/

/-- Cycles of 1 µs. -/
def cyclesPerUs : Nat := 1100

/-- R300: a die's heartbeat, every microsecond. Acts on a = die, b = due cycle. -/
def execHeartbeat (s : State) : Out :=
  if s.cycle < s.subj.b then .next (s.postEv .heartbeat s.subj)
  else if s.coh.lost.contains s.subj.a then .next s
  else
    .next ({ s with coh := { s.coh with beats := tset s.coh.beats s.subj.a s.cycle } }.postEv .heartbeat
      { a := s.subj.a, b := s.subj.b + cyclesPerUs })

/-- R300: the regions of a partition that a lost die takes part in: every region where the partition has
memory on it, else those with tiles or elements there. -/
def State.regionsOn (s : State) (p die : Nat) : List Nat :=
  let v := s.part p
  let all := v.regions.map (fun e => e.1)
  if 12 ≤ die ∧ (tgetD v.mem (die - 12) (0, 0)).2 ≠ 0 then all
  else all.filter (fun r =>
    s.sites.any (fun e => e.2.part == some p && dieOf e.1 == die && isTile e.1 && e.2.img.isSome && e.2.region == r)
      || s.elems.any (fun e => 8 + e.1 / 96 == die && e.2.works p (fun q => q == r)))

/-- R300: a die is lost: directories and regions drop it, collapses owed to it count as acknowledged, the
domains of the regions on it are fenced. -/
def State.loseDie (s : State) (die : Nat) : State :=
  let s : State := { s with coh := { s.coh with lost := s.coh.lost ++ [die] } }
  let s :=
    if die < 12 then s
    else
      let h := die - 12
      let ids := (s.coh.colls.filter (fun c => c.die = h)).map (fun c => c.id)
      let s : State := { s with coh := { s.coh with
        lines := s.coh.lines.map (fun e => (e.1, { e.2 with holders := e.2.holders.filter (· ≠ h) }))
        replicas := s.coh.replicas.filter (fun e => e.1.1 ≠ h)
        fills := s.coh.fills.filter (fun e => e.2.die ≠ h)
        regs := s.coh.regs.map (fun e => if h ∈ e.2.holders
          then (e.1, { e.2 with holders := e.2.holders.filter (· ≠ h), degree := e.2.degree - 1 }) else e) } }
      s.acked ids
  let s := s.notify 0x5000 (w32 die)
  s.parts.foldl (fun s e => (s.regionsOn e.1 die).foldl (fun s r => s.fenceDomain e.1 r none) s) s

/-- R300: a die whose heartbeats have been missed for 50 µs is declared lost. Acts on a = die. -/
def execDieLost (s : State) : Out :=
  let die := s.subj.a
  if s.coh.lost.contains die then .next s
  else if s.cycle < tgetD s.coh.beats die 0 + 50 * cyclesPerUs then .next (s.postEv .dieLost { a := die })
  else .next (s.loseDie die)

/-! ## Sleeping links (R300) -/

/-- R300: a collapse waits more than 2 µs for its link. Acts on a = memory die, b = line, c = collapse. -/
def execWakeOverdue (s : State) : Out :=
  match s.coh.colls.find? (fun c => c.id = s.subj.c) with
  | none => .next s
  | some c =>
    if c.st ≠ 2 then .next s
    else if s.cycle < c.since + 2 * cyclesPerUs then .next (s.postEv .wakeOverdue s.subj)
    else .next { s with coh := { s.coh with colls := s.coh.colls.map (fun d => if d.id = c.id then { d with st := 3 } else d) } }

/-- A link wakes: the collapses that waited for it go. -/
def State.wakeLink (s : State) (a b : Nat) : State :=
  let k := (min a b, max a b)
  let onLink := fun (c : Coll) => (min (12 + memDie (c.line * 128)) (12 + c.die), max (12 + memDie (c.line * 128)) (12 + c.die)) = k
  { s with coh := { s.coh with asleep := s.coh.asleep.filter (· ≠ k),
                               colls := s.coh.colls.map (fun c => if onLink c then { c with st := 1 } else c) } }

/-- R300. Acts on a, b = the two dies. -/
def execLinkWake (s : State) : Out := .next (s.wakeLink s.subj.a s.subj.b)

end Sys2Proof.Machine
end

