-- ==== Sys2Proof/Machine/Image.lean ====
section
/-! DEFINITION. Images: their layout (R43, R50 to R53), the check in two passes (R46, R47), the load fault
record (R48), the pitch of a tile and of an element's control cell (R54, R131, R135, R177). -/

namespace Sys2Proof.Machine

/-! ## Layout -/

/-- n bytes of an image from offset o, as a number (R4). -/
def imgN (bs : List Byte) (o n : Nat) : Nat := leNat ((bs.drop o).take n)
def imgW (bs : List Byte) (o : Nat) : Word := w32 (imgN bs o 4)

def imgVersion (bs : List Byte) : Nat := imgN bs 8 4
def imgStages (bs : List Byte) : Nat := imgN bs 0xC 2
def imgTiles (bs : List Byte) : Nat := imgN bs 0xE 2
def imgTotal (bs : List Byte) : Nat := imgN bs 0x10 4
def imgTileOff (bs : List Byte) : Nat := imgN bs 0x18 8
def imgStageOff (bs : List Byte) : Nat := imgN bs 0x20 8
/-- Where stage n's entry lies (R51). -/
def imgEntry (bs : List Byte) (n : Nat) : Nat := imgStageOff bs + 16 * n
def imgBody (bs : List Byte) (n : Nat) : Nat := imgN bs (imgEntry bs n) 8
def imgBodyLen (bs : List Byte) (n : Nat) : Nat := imgN bs (imgEntry bs n + 8) 4
def imgInitial (bs : List Byte) (n : Nat) : Nat := imgN bs (imgEntry bs n + 12) 1
def imgGrow (bs : List Byte) (n : Nat) : Nat := imgN bs (imgEntry bs n + 13) 1
def imgShrink (bs : List Byte) (n : Nat) : Nat := imgN bs (imgEntry bs n + 14) 1
/-- The tile list (R43). -/
def imgTileList (bs : List Byte) : List Word := (List.range (imgTiles bs)).map (tileListEntry bs)

/-- An actor record (R52). -/
structure Rec where
  cell : Nat
  last : Nat
  header : Word
  instrs : List Word
  lits : List Word
  routes : List Word
  bases : List (Nat × DWord)
  deriving DecidableEq, Repr

/-- The words of a byte string. -/
def wordsOf (bs : List Byte) : Nat → List Word
  | 0 => []
  | n + 1 => imgW bs 0 :: wordsOf (bs.drop 4) n

/-- The base entries of a mask, two words each, in ascending order. -/
def takeBases : List Nat → List Word → List (Nat × DWord)
  | k :: ks, lo :: hi :: ws => (k, BitVec.ofNat 64 (hi.toNat * 2 ^ 32 + lo.toNat)) :: takeBases ks ws
  | _, _ => []

/-- R52, R53: the records of a body; the header word of the first malformed one. -/
def takeRecords : Nat → Option Nat → List Word → Except Word (List Rec)
  | _, _, [] => .ok []
  | 0, _, w :: _ => .error w
  | fuel + 1, prev, h :: ws =>
    let cell := fld h 26 6
    let n := fld h 18 8 + 1
    let m := fld h 11 7
    let mask := (List.range 8).filter (fun k => bit h (3 + k))
    let late := match prev with | none => false | some p => decide (cell ≤ p)
    if late || fld h 0 3 != 0 || decide (96 < m) || decide (ws.length < 2 * n + m + 2 * mask.length) then .error h
    else
      let r : Rec := { cell := cell, last := n - 1, header := h, instrs := ws.take n, lits := (ws.drop n).take n,
                       routes := (ws.drop (2 * n)).take m, bases := takeBases mask (ws.drop (2 * n + m)) }
      match takeRecords fuel (some cell) (ws.drop (2 * n + m + 2 * mask.length)) with
      | .ok rs => .ok (r :: rs)
      | .error w => .error w

/-- The records of stage n's body. -/
def imgRecords (bs : List Byte) (n : Nat) : Except Word (List Rec) :=
  takeRecords 65 none (wordsOf (bs.drop (imgBody bs n)) (imgBodyLen bs n / 4))

def imgRecs (bs : List Byte) (n : Nat) : List Rec :=
  match imgRecords bs n with
  | .ok rs => rs
  | .error _ => []

def recOf (bs : List Byte) (stage cell : Nat) : Option Rec := (imgRecs bs stage).find? (fun r => r.cell = cell)

/-! ## The check (R46, R47) -/

/-- A failure as R48 records it. -/
structure LoadBad where
  reason : Nat
  table : Nat
  stage : Word
  cell : Word
  slot : Word
  word : Word
  deriving DecidableEq, Repr

def noPlace : Word := 0xFFFFFFFF

/-- R48: the detail words. -/
def LoadBad.details (b : LoadBad) (version : Nat) : List Word :=
  [w32 (b.reason + b.table * 256), b.stage, b.cell, b.slot, w32 version, b.word]

/-- Two byte ranges overlap. -/
def rangesMeet (a b : Nat × Nat) : Bool := decide (0 < a.2 ∧ 0 < b.2 ∧ a.1 < b.1 + b.2 ∧ b.1 < a.1 + a.2)

/-- A range is 4-byte aligned and lies within the total length. -/
def inImage (bs : List Byte) (r : Nat × Nat) : Bool := decide (r.1 % 4 = 0 ∧ r.1 + r.2 ≤ imgTotal bs)

/-- R50: the offset of the first header word that breaks a rule. -/
def headerBad (bs : List Byte) : Option Nat :=
  let tl := (imgTileOff bs, 4 * imgTiles bs)
  let st := (imgStageOff bs, 16 * imgStages bs)
  let hd := (0, 64)
  if imgN bs 0 4 ≠ 0x4C564F31 then some 0
  else if imgN bs 4 4 ≠ 1 then some 4
  else if imgStages bs = 0 ∨ 128 < imgStages bs ∨ 128 < imgTiles bs then some 0xC
  else if imgTotal bs < 64 then some 0x10
  else if imgN bs 0x14 4 ≠ 0 then some 0x14
  else if (imgTiles bs = 0 ∧ imgTileOff bs ≠ 0) || (imgTiles bs ≠ 0 && (!inImage bs tl || rangesMeet tl hd)) then some 0x18
  else if !inImage bs st || rangesMeet st hd || rangesMeet st tl then some 0x20
  else (List.range 6).findSome? (fun i => if imgN bs (0x28 + 4 * i) 4 ≠ 0 then some (0x28 + 4 * i) else none)

/-- R43: a tile-list entry that breaks its layout. -/
def tileListBad (bs : List Byte) : Option LoadBad :=
  ((imgTileList bs).mapIdx (fun i w => (i, w))).findSome? (fun e =>
    if fld e.2 16 16 ≠ 0 ∨ imgStages bs ≤ tleStage e.2 then some ⟨10, 5, noPlace, w32 e.1, noPlace, e.2⟩ else none)

/-- What an image is for: tiles, element control cells (R177), the cells of a Syrad engine (R437). -/
inductive ImgFor
  | tile | handler | syrad
  deriving DecidableEq, Repr

/-- R51: a stage-table entry that breaks a rule of its own fields, by the offset of its word. -/
def stageEntryBad (bs : List Byte) (n : Nat) : Option Nat :=
  let e := imgEntry bs n
  let i := imgInitial bs n
  let g := imgGrow bs n
  if i = 0 ∨ 64 < i ∨ g = 0 ∨ 8 < g ∨ 7 < imgShrink bs n ∨ g ≤ imgShrink bs n ∨ imgN bs (e + 15) 1 ≠ 0 then some (e + 12)
  else none

/-- R53: a body that is misplaced, by the offset of the word of its stage's entry that places it. -/
def bodyPlaceBad (bs : List Byte) (n : Nat) : Option Nat :=
  let e := imgEntry bs n
  let b := (imgBody bs n, imgBodyLen bs n)
  let taken := [(0, 64), (imgTileOff bs, 4 * imgTiles bs), (imgStageOff bs, 16 * imgStages bs)]
    ++ (List.range n).map (fun m => (imgBody bs m, imgBodyLen bs m))
  if b.1 % 4 ≠ 0 ∨ imgTotal bs < b.1 then some e
  else if b.2 = 0 ∨ b.2 % 4 ≠ 0 ∨ imgTotal bs < b.1 + b.2 then some (e + 8)
  else if taken.any (rangesMeet b) then some e
  else none

/-- R47: a stage body by its placement, then its records by position. -/
def bodyBad (bs : List Byte) (n : Nat) : Option LoadBad :=
  match bodyPlaceBad bs n with
  | some o => some ⟨10, 4, w32 n, noPlace, noPlace, imgW bs o⟩
  | none =>
    match imgRecords bs n with
    | .ok _ => none
    | .error w => some ⟨10, 6, w32 n, w32 (fld w 26 6), noPlace, w⟩

/-- The first pass: reason 10 alone (R47). A handler image needs cell 0 of stage 0 (R177). -/
def structureBad (bs : List Byte) (use : ImgFor) : Option LoadBad :=
  match headerBad bs with
  | some o => some ⟨10, 4, noPlace, noPlace, noPlace, imgW bs o⟩
  | none =>
    match tileListBad bs with
    | some b => some b
    | none =>
      match (List.range (imgStages bs)).findSome? (fun n => (stageEntryBad bs n).map (fun o => (n, o))) with
      | some (n, o) => some ⟨10, 4, w32 n, noPlace, noPlace, imgW bs o⟩
      | none =>
        match (List.range (imgStages bs)).findSome? (bodyBad bs) with
        | some b => some b
        | none => if use = .handler ∧ (recOf bs 0 0).isNone then some ⟨10, 6, 0, 0, noPlace, 0⟩ else none

/-- Reason 8 for a stage, cell and IP that a route names. -/
def routeTo (bs : List Byte) (stage cell ip : Nat) : Bool :=
  decide (stage < imgStages bs) && (match recOf bs stage cell with
    | none => false
    | some r => decide (ip ≤ r.last))

/-- Reasons 7 and 8 (R46, R177) for a route of stage n. -/
def routeBad (bs : List Byte) (use : ImgFor) (n cell : Nat) (w : Word) : Option Nat :=
  let k := rtKind w
  let i := rtIdx w
  if 5 ≤ k ∨ (k = 0 ∧ i ≠ 0) then some 7
  else if use = .handler ∧ n = 0 ∧ cell = 0 ∧ k = 0 ∧ rtCell w ≠ 0 then some 8
  else
    let stage := if k = 0 then some n else if k = 3 then ((imgTileList bs)[i]?).map tleStage else some i
    match stage with
    | none => some 8
    | some st => if routeTo bs st (rtCell w) (rtIp w) then none else some 8

/-- Reasons 1 to 5 for the instruction word of slot i, of an actor with m routes. -/
def wordBad (m last i : Nat) (w lit : Word) : Option Nat :=
  match decodeWord w lit with
  | .error (.reservedOpcode _) => some 1
  | .error _ => some 2
  | .ok ins =>
    match ins.opcode?, ins.fields? with
    | some op, some f =>
      if (routeDsts f).any (fun d => decide (m ≤ d.2)) then some 3
      else if litUse op == .control && (f.selA == .lit || f.selB == .lit) then some 4
      else if (i == last && (f.tag == .next || f.tag == .yield)) || (f.tag == .call && (f.selB == .lit || f.selB == .lane || f.selB == .zero)) then some 5
      else none
    | _, _ => none


/-- Reason 6 for the literal word of slot i: reserved fields, a branch target or a LOOP's end slot out of
the actor's slots (R87), a partition field or a matcher word where no Syrad cell runs (R377, R434). -/
def litBad (use : ImgFor) (last i : Nat) (w lit : Word) : Bool :=
  match decodeWord w lit with
  | .error _ => false
  | .ok ins =>
    match ins.opcode?, ins.fields? with
    | some op, some f =>
      (!fieldsOk op f && !(use == .syrad && matcherLit op lit)) || ((op == 0x02 || op == 0x03 || op == 0x05) && decide (last < fld lit 0 8))
        || (op == 0x04 && (decide (fld lit 0 8 ≤ i) || decide (last < fld lit 0 8)))
        || (use != .syrad && (op == 0xF4 || op == 0xF5) && fld lit 26 4 != 0)
    | _, _ => false

/-- The failures of one record, in the order of R47. -/
def recordBad (bs : List Byte) (use : ImgFor) (n : Nat) (r : Rec) : Option LoadBad :=
  let st := w32 n
  let c := w32 r.cell
  match r.bases.find? (fun b => !inRange57 b.2.toInt) with
  | some b => some ⟨9, 3, st, c, w32 b.1, w32 b.2.toNat⟩
  | none =>
    match (r.routes.mapIdx (fun i w => (i, w))).findSome? (fun e => (routeBad bs use n r.cell e.2).map (fun q => (e, q))) with
    | some (e, q) => some ⟨q, 2, st, c, w32 e.1, e.2⟩
    | none =>
      (List.range (r.last + 1)).findSome? (fun i =>
        let w := r.instrs.getD i 0
        let l := r.lits.getD i 0
        match wordBad r.routes.length r.last i w l with
        | some q => some ⟨q, 0, st, c, w32 i, w⟩
        | none => if litBad use r.last i w l then some ⟨6, 1, st, c, w32 i, l⟩ else none)

/-- Reason 11 (R46): a listed tile outside the partition, or listed twice. -/
def tilesBad (bs : List Byte) (tiles : List Nat) : Option LoadBad :=
  (List.range (imgTiles bs)).findSome? (fun i =>
    let w := tileListEntry bs i
    let twice := (List.range i).any (fun j => tleTile (tileListEntry bs j) == tleTile w)
    if !tiles.contains (tleTile w) || twice then some ⟨11, 5, noPlace, w32 i, noPlace, w⟩ else none)

/-- R46, R47: the first failure of an image for a partition with these tiles. -/
def imageBad (bs : List Byte) (tiles : List Nat) (use : ImgFor) : Option LoadBad :=
  match structureBad bs use with
  | some b => some b
  | none =>
    match tilesBad bs tiles with
    | some b => some b
    | none => (List.range (imgStages bs)).findSome? (fun n => (imgRecs bs n).findSome? (recordBad bs use n))

/-! ## Reading an image -/

/-- The pieces of a range that lie within one 128-byte line. -/
def linesOf (ea : Int) (n : Nat) : List (Int × Nat) :=
  let o := (ea % 128).toNat
  (List.range ((o + n + 127) / 128)).map (fun i =>
    let lo := max (128 * i) o
    (ea - o + lo, min (128 * (i + 1)) (o + n) - lo))

/-- The bytes of a range of virtual memory; none where some of it cannot be read. `far` holds what another module
has sent of it. -/
def State.readVa (s : State) (p : Nat) (x : Site) (ea : Int) (n : Nat) (far : Int → Option (List Byte) := fun _ => none) :
    Option (List Byte) :=
  (linesOf ea n).foldr (fun q (r : Option (List Byte)) =>
    match r, s.hwXlate p x q.1 false with
    | some bs, some pa =>
      if isAperture pa then (far q.1).map (fun f => f ++ bs)
      else if s.badAt pa q.2 || (match s.place pa with | .slice _ => false | _ => true) then none
      else some (rdN s.mem pa q.2 ++ bs)
    | _, _ => none) (some [])

/-- R428: the pieces of a range of virtual memory that another module holds. -/
def State.farPieces (s : State) (p : Nat) (x : Site) (ea : Int) (n : Nat) : List (Int × Nat × Nat) :=
  (linesOf ea n).filterMap (fun q => (s.hwXlate p x q.1 false).bind (fun pa => if isAperture pa then some (q.1, pa, q.2) else none))

/-- The bytes that a far read of these pieces brought, by the address of each piece. -/
def farBytes : List (Int × Nat × Nat) → List Byte → Int → Option (List Byte)
  | [], _, _ => none
  | q :: qs, bs, ea => if q.1 = ea then some (bs.take q.2.2) else farBytes qs (bs.drop q.2.2) ea

/-- R307, R428: read a range of virtual memory, what lies in another module from there; what a switch holds waits. -/
def State.readRange (s : State) (w : Who) (ea : Int) (n : Nat) : Reading :=
  let p := w.part
  let x := w.ag.site
  let give := fun (s : State) (r : Option (List Byte)) => match r with
    | none => Reading.fail s
    | some bs => Reading.ok s bs
  if (linesOf ea n).any (fun q => s.hwHolds p x q.1) then .wait s
  else match s.farPieces p x ea n with
  | [] => give s (s.readVa p x ea n)
  | qs => match s.farRead w qs with
    | .ok s bs => give s (s.readVa p x ea n (farBytes qs bs))
    | r => r

/-! ## The pitch (R54) -/

/-- A cell's tables from its record; a cell without one holds no content (R53, R55). -/
def Rec.cellOf (r : Option Rec) : Cell :=
  match r with
  | none => Cell.reset
  | some r =>
    { Cell.reset with
      instr := r.instrs.mapIdx (fun i w => (i, w))
      lits := r.lits.mapIdx (fun i w => (i, w))
      routes := r.routes.mapIdx (fun i w => (i, w))
      nroutes := r.routes.length
      bases := r.bases
      last := some r.last }

/-- The cells of a tile or engine as its stage's records give them. -/
def recCells (rs : List Rec) (c : Nat) : Cell := Rec.cellOf (rs.find? (fun r => r.cell = c))

/-- R54, R418: a cell that holds the tables of another and nothing else. -/
def Cell.tables (c : Cell) : Cell :=
  { Cell.reset with instr := c.instr, lits := c.lits, routes := c.routes, nroutes := c.nroutes, bases := c.bases, last := c.last }

/-- The 64 cells of a tile or a Syrad engine take their tables. -/
def State.writeTables (s : State) (x : Site) (new : Nat → Cell) (f : Cell → Cell → Cell) : State :=
  (List.range 64).foldl (fun s c =>
    let ag : Agent := ⟨x, c⟩
    s.setCell ag (f (s.cell ag) (new c))) s

/-- R54 steps 1 to 3: a tile is reserved for a stage, its cells take their tables and are cleared; grants,
lane files, reductions and semaphores are reset (R131, R135, R136). -/
def State.pitchTile (s : State) (n : Nat) (k : ImgKey) (new : Nat → Cell) (stage region : Nat) (initial pinned : Bool) : State :=
  let x : Site := .tile n
  let v := s.site x
  let s := s.writeTables x new (fun old c => { c with issued := old.issued, passed := old.passed })
  let s := s.setSite x { v with img := some k, stage := stage, valid := false, pitching := true, striking := false,
                                initial := initial, pinned := pinned, region := region, granted := s.fresh, frames := [],
                                grants := [], sems := [], claims := [], colq := [], texq := [], err := false }
  (s.bump).postEv .pitchComplete { a := n }

/-- R54 step 4: image-valid is set and the dispatcher opens the entry. Acts on a = tile. -/
def execPitchComplete (s : State) : Out :=
  let x : Site := .tile s.subj.a
  if !(s.site x).pitching then .next s
  else .next (s.modSite x (fun v => { v with pitching := false, valid := true }))

/-- R177: the handler image in an element's control cell. -/
def State.pitchElem (s : State) (e : Nat) (bs : List Byte) : State :=
  (s.setCell ⟨.elem e, 0⟩ (Rec.cellOf (recOf bs 0 0))).modSite (.elem e) (fun v => { v with valid := true })

/-- A tile of the partition that holds no image. -/
def State.freeTile (s : State) (p n : Nat) : Bool :=
  let v := s.site (.tile n)
  v.part == some p && v.img.isNone && !v.pitching && !v.striking

/-- Tiles of a die in (column, row) order. -/
def dieTiles (die : Nat) : List Nat := (List.range 64).map (fun i => 64 * die + i)

/-- The tiles of a die that hold or are being given a stage of an image. -/
def State.stageTiles (s : State) (k : ImgKey) (die stage : Nat) : List Nat :=
  (dieTiles die).filter (fun n =>
    let v := s.site (.tile n)
    v.part == some k.part && v.img == some k && v.stage == stage)

end Sys2Proof.Machine
end

