-- ==== Sys2Proof/Machine/Fetch.lean ====
section
/-! DEFINITION. The fetch of an agent's instruction from its cell's tables (R31, R32, R81). -/

namespace Sys2Proof.Machine

/-- Whether the agent's engine has not stopped (R363). -/
def State.mayIssue (s : State) (t : Thread) : Bool := !s.stopped t.part (engOf t.src.site)

/-- R362, R366: the agent's tables carry an uncorrectable error at the slot that it is to issue: the stop
"table error" rises, and again each time. -/
def State.tableStop (s : State) (t : Thread) : Option State :=
  if (s.cell t.src).bad.contains t.ip then
    some (s.stopFault t.part t.region t.inv (s.invId t.inv) 0x0201 ((t.who 0).details 0 [w32 t.src.cell, w32 t.ip]))
  else none

/-- The instruction and literal words of the slot at a thread's IP (R32). -/
def Cell.slotWord (c : Cell) (ip : Nat) : Word × Word := (tgetD c.instr ip 0, tgetD c.lits ip 0)

/-- The eight bytes the decoder reads: the instruction word, then the literal, each little-endian. -/
def slotBytes (w l : Word) : List Byte := leBytes 4 w.toNat ++ leBytes 4 l.toNat

/-- After an instruction of an agent: its thread issues again while it runs. -/
def State.reissue (s : State) (ag : Agent) : State :=
  match (s.cell ag).run with
  | none => s
  | some u =>
    match s.thr? u with
    | none => s
    | some t => if t.stat = .run ∧ t.src = ag then s.post (.issue ag) else s

/-- The cell, thread and dispatcher entry that a word placed for `step` runs on: slot 0 of cell 0 of the
first tile, whose partition 0 owns it. -/
def State.placed (s : State) (w l : Word) : State :=
  let ag : Agent := ⟨.tile 0, 0⟩
  let z : Lane := ⟨.zero, .zero, .zero, .zero, .zero, false⟩
  let u := s.fresh
  let t : Thread :=
    { src := ag, part := 0, region := 0, inv := 0, lanes := [z], ip := 0, frame := 0, wave := 0, colour := 0, eod := 0,
      kind := .data, block := 0, loops := [], pblk := none, nld := 0, nst := 0, ncp := 0, nmx := 0, todHi := 0,
      cycHi := 0, stat := .run, slot := none, wait := none, pend := [], lfPend := [], staged := none, stgates := [],
      plan := ⟨[], none⟩, susp := 0, seq := 0, ending := false }
  let v := (tget s.parts 0).getD
    { Part.reset with tiles := [0], regions := [(0, rootRegion 1 1024 0 0)], domains := [(0, ⟨false, false, 0⟩)] }
  let s := { s with parts := tset s.parts 0 { v with halted := false, preempt := Preempt.reset } }
  let s := s.modCell ag (fun c =>
    { c with instr := tset c.instr 0 w, lits := tset c.lits 0 l, last := some (c.last.getD 0), run := some u })
  let s := s.modSite ag.site (fun v => { v with part := some 0, valid := true })
  { (s.setThr u t).bump with turn := some (.issue ag) }

end Sys2Proof.Machine
end

