-- ==== Sys2Proof/Machine/Tokens.lean ====
section
/-! DEFINITION. Tokens on their way and the choice of work: the three hops (R208, R209), delivery (R70 to R72,
R125), firing (R73, R75), gangs (R126, R127), reservations that could succeed (R207), the lantern's copies
(R374, R375); how time passes and which activity comes next. -/

namespace Sys2Proof.Machine

/-! ## Order of tokens (R209) -/

/-- Two tokens keep an order: one emitter, one target queue, control or not alike. -/
def Token.sameEdge (k m : Token) : Bool :=
  k.src == m.src && k.dst == m.dst && k.cell == m.cell && k.tag.port == m.tag.port
    && (k.tag.kind == .control) == (m.tag.kind == .control)

/-- No token of the list that must go before `k` stands before it. -/
def Token.first (k : Token) (ks : List Token) : Bool :=
  !((ks.takeWhile (fun m => decide (m.id ≠ k.id))).any (fun m => m.unres.isNone && m.sameEdge k))

/-- R38, R209: no token before `k` that still waits for a tile of its stage could reach `k`'s queue. -/
def State.clearAhead (s : State) (k : Token) (ks : List Token) : Bool :=
  !((ks.takeWhile (fun m => decide (m.id ≠ k.id))).any (fun m => match m.unres with
    | none => false
    | some (die, stage) => decide (die = dieOf k.dst) && isTile k.dst && (s.site k.dst).stage == stage && { m with dst := k.dst }.sameEdge k))

/-- The tokens of a buffer without one. -/
def without (ks : List Token) (id : Nat) : List Token := ks.filter (fun m => decide (m.id ≠ id))

/-! ## Egress and fabric -/

/-- R324: a task packet that would take the element count of its region or of an ancestor above its budget waits;
an element that a region already uses is no more. -/
def State.taskWaits (s : State) (k : Token) : Bool :=
  match k.dst with
  | .elem e =>
    let v := s.part k.part
    (v.path k.region).any (fun g => !s.elemUsed k.part (v.within g) e
      && decide (v.eff g itemElements < s.held k.part g itemElements + 1))
  | _ => false

/-- R348: a token crosses to another die. -/
def State.countSent (s : State) (k : Token) : State :=
  let a := dieOf k.src.site
  if a = dieOf k.dst then s
  else s.modLaunch k.inv (fun l => { l with sent := tset l.sent a (tgetD l.sent a 0 + 1) })

/-- R342: an open tile of the stage that a held token waits for. -/
def State.resolve (s : State) (k : Token) : Option Token :=
  match k.unres with
  | none => some k
  | some (die, stage) =>
    let ts := s.openTiles die (fun v => v.part == some k.part && v.stage == stage
      && (!isTile k.src.site || v.img == (s.site k.src.site).img))
    (choose ts (k.tag.frame.toNat * 2 ^ 16 + k.tag.wave.toNat)).map (fun n => { k with dst := .tile n, unres := none })

/-- R208, R209, R373: a token leaves egress; it waits while a kind-1 route has no open tile, its target is
swapped out, or an earlier token of its edge waits. Where one leaves, the tiles of the earlier ones are chosen.
Acts on site, a = token. -/
def execTokenEgressDepart (s : State) : Out :=
  let x := s.subj.site
  let v := s.site x
  match v.egress.find? (fun k => k.id = s.subj.a) with
  | none => .next s
  | some k =>
    let again : Out := .next (s.postEv .tokenEgressDepart { site := x, a := k.id })
    let ks := v.egress.map (fun m => (s.resolve m).getD m)
    if s.idleSite x then again
    else match s.resolve k with
      | none => again
      | some k' =>
        if s.away k'.dst k'.inv || !k'.first ks || !s.clearAhead k' ks || s.taskWaits k' then again
        else
          let s := { s.setSite x { v with egress := without ks k.id } with fabric := s.fabric ++ [k'] }
          .next ((s.countSent k').postEv .tokenIngressArrival { a := k.id })

/-- R208: room in the ingress buffer for a token that crosses the fabric. -/
def ingressRoom (v : SiteSt) (ctl : Bool) : Bool :=
  decide ((v.ingress.filter (fun k => !k.held)).length < (if ctl then 64 else 56))

/-- R341: an earlier initial token of the launch on this die is not yet delivered. -/
def State.entryWaits (s : State) (k : Token) : Bool :=
  let before := fun (m : Token) => m.initial && m.inv == k.inv && dieOf m.dst == dieOf k.dst && isTile m.dst && decide (m.id < k.id)
  k.initial && isTile k.dst && (s.fabric.any before || s.sites.any (fun e => e.2.ingress.any before))

/-- R208, R341, R373: a token on the fabric can enter its target's ingress: no earlier one of its edge or entry order
waits, there is room, and its work is not swapped out there. -/
def State.lands (s : State) (k : Token) : Bool :=
  k.first s.fabric && !s.entryWaits k && ingressRoom (s.site k.dst) (k.tag.kind == .control) && !s.away k.dst k.inv

/-- R208, R348. Acts on a = token. -/
def execTokenIngressArrival (s : State) : Out :=
  match s.fabric.find? (fun k => k.id = s.subj.a) with
  | none => .next s
  | some k =>
    let v := s.site k.dst
    if !s.lands k then
      .next (s.postEv .tokenIngressArrival { a := k.id })
    else
      let s := { s.setSite k.dst { v with ingress := v.ingress ++ [k] } with fabric := without s.fabric k.id }
      .next ((s.countRecv k).postEv .tokenDelivery { site := k.dst, a := k.id })

/-! ## The lantern's copies (R374, R375) -/

/-- R62: the 64 bits of a tag. -/
def Tag.bits (g : Tag) : Nat :=
  let kind := match g.kind with | .data => 0 | .scale => 1 | .config => 2 | .control => 3
  g.frame.toNat * 2 ^ 44 + g.ip.toNat * 2 ^ 36 + g.port.toNat * 2 ^ 34 + g.wave.toNat * 2 ^ 18 + g.colour.toNat * 2 ^ 13
    + (g.width - 1) % 32 * 2 ^ 8 + g.eod.toNat * 2 ^ 6 + kind * 16 + g.block.toNat

/-- R61: the lane-poison mask. -/
def poisMask (ds : List PWord) : Word := w32 ((ds.mapIdx (fun l d => if d.pois then 2 ^ l else 0)).foldl (· + ·) 0)

/-- R374: offer a record to a die's buffer; one beyond 256, or a fifth of one cycle, counts in `lt.drop`. -/
def State.offer (s : State) (die edge : Nat) (r : LtRec) : State :=
  let b := tgetD s.lantern.buf die []
  let c := tgetD s.lantern.taken die (0, 0)
  let taken := if c.1 = s.cycle then c.2 else 0
  if 256 ≤ b.length ∨ 4 ≤ taken then
    { s with lantern := { s.lantern with drops := tset s.lantern.drops edge (tgetD s.lantern.drops edge 0 + 1) } }
  else { s with lantern := { s.lantern with buf := tset s.lantern.buf die (b ++ [r])
                                            taken := tset s.lantern.taken die (s.cycle, taken + 1) } }.postEv .lanternDrain { a := die }

/-- R374, R376: the edges that watch a queue for tokens of a kind. -/
def State.watching (s : State) (tile cell port : Nat) (ctl : Bool) : List Nat :=
  if !bit s.lantern.ctl 31 then []
  else (List.range 16).filter (fun i =>
    let w := tgetD s.lantern.edges i 0
    bit w 31 && bit w (if ctl then 29 else 30) && fld w 17 9 == tile && fld w 11 6 == cell && fld w 9 2 == port)

/-- R375: a token record. -/
def State.tokenRecord (s : State) (edge tile : Nat) (k : Token) : LtRec :=
  let g := k.tag.bits
  ⟨[w32 (edge * 2 ^ 24 + tile * 64 + k.cell), w32 s.cycle, w32 (s.cycle / 2 ^ 32), w32 g, w32 (g / 2 ^ 32), poisMask k.data,
    (k.data.headD .zero).w, w32 k.tag.wave.toNat]⟩

/-- R374: copies of a token that reaches a queue, or a frame slot through it. -/
def State.lanternCopy (s : State) (k : Token) : State :=
  match k.dst with
  | .tile n => (s.watching n k.cell k.tag.port.toNat (k.tag.kind == .control)).foldl
      (fun s i => s.offer (n / 64) i (s.tokenRecord i n k)) s
  | _ => s

/-! ## Delivery (R70 to R72, R125) -/

/-- The work that a token's delivery stands for, at its target cell. -/
def Token.who (k : Token) : Who := ⟨⟨k.dst, k.cell⟩, k.part, k.region, k.inv, k.tag.frame, k.tag.wave, k.tag.ip.toNat, 0, k.cell⟩

/-- R125, R130: a wide token needs a grant of its colour and width. -/
def State.colourOk (s : State) (k : Token) : Bool :=
  decide (k.tag.width ≤ 1) || (!isElem k.dst && decide (k.tag.colour.toNat % k.tag.width = 0)
    && (match s.grant? k.dst (k.cell / 32) k.tag.colour.toNat with
        | none => false
        | some g => g.width == k.tag.width))

/-- R353: no work of a fenced domain goes on. -/
def State.domainFenced (s : State) (p r : Nat) : Bool :=
  match tget (s.part p).domains ((s.part p).domOf r) with
  | none => false
  | some d => d.fenced

/-- The slot that a token holds in its queue is returned. -/
def State.giveBack (s : State) (k : Token) : State := s.unreserve (.queue ⟨k.dst, k.cell⟩ k.tag.port.toNat)

/-- R70: the words and poison bits of a token in a frame slot (R129). -/
def Frame.take (w : Frame) (f : Nat) (k : Token) : Frame :=
  let n := 2 ^ w.cls
  let ws := (List.range n).map (fun l => if l < k.tag.width then k.data.getD l .zero else w.word f l)
  { (({ w with slots := tset w.slots f ws }).mark f) with toks := if 2 ≤ f then tset w.toks f k else w.toks }

/-- R70, R73: with both slots of a pair present, the pair waits at the cell of the later token. -/
def State.pairUp (s : State) (k : Token) (w : Frame) (f : Nat) : State :=
  let g := if f % 2 = 0 then f + 1 else f - 1
  match tget w.toks g with
  | none => s
  | some m =>
    let q : Pair := { lower := if f % 2 = 0 then k else m, upper := if f % 2 = 0 then m else k, upperLast := f % 2 == 1,
                      frame := k.tag.frame.toNat, slot := f / 2 * 2, at_ := s.tick }
    let ag : Agent := ⟨k.dst, k.cell⟩
    (s.modCell ag (fun c => { c with pairs := c.pairs ++ [q] })).postEv .workSelection { ag := ag }

/-- R70 to R72: a token whose route frame slot is 1 or more. -/
def State.toFrame (s : State) (k : Token) : State :=
  let f := k.fslot
  let w := k.who
  if frameHome k.dst k.tag.frame ≠ some k.dst then s.raise w 0x0102 (w.details 0 [w32 f])
  else match s.frame? k.dst k.tag.frame with
    | none => s.raise w 0x0103 (w.details 0 [w32 f])
    | some fr =>
      match (if 2 ≤ f then tget fr.toks f else none) with
      | some m => s.raise w 0x0104 (w.details 0 [w32 f, w32 m.tag.wave.toNat])
      | none =>
        let s := s.lanternCopy k
        let s := s.touchFrame k.dst k.tag.frame
        let fr := ({ fr with spilled := false }).take f k
        let s := s.setFrame k.dst k.tag.frame fr
        if f = 1 then s.retest k.dst else s.pairUp k fr f

/-- A token that holds its slot goes where it is bound. -/
def State.deliver (s : State) (k : Token) : State :=
  let ag : Agent := ⟨k.dst, k.cell⟩
  let s := s.giveBack k
  if s.domainFenced k.part k.region then s
  else if !s.colourOk k then
    s.raise k.who 0x0107 (k.who.details 0 [w32 k.tag.colour.toNat, w32 k.tag.width])
  else if k.fslot = 0 then
    let s := s.lanternCopy k
    (s.modCell ag (fun c => { c with queues := tset c.queues k.tag.port.toNat (c.queue k.tag.port.toNat ++ [{ k with at_ := s.cycle }]) })).postEv
      .workSelection { ag := ag }
  else (s.toFrame k).postEv .workSelection { ag := ag }

/-- R208: a token leaves ingress once its queue has a slot of its kind. Acts on site, a = token. -/
def execTokenDelivery (s : State) : Out :=
  let x := s.subj.site
  let v := s.site x
  match v.ingress.find? (fun k => k.id = s.subj.a) with
  | none => .next s
  | some k =>
    let again : Out := .next (s.postEv .tokenDelivery { site := x, a := k.id })
    if s.idleSite x || v.pitching || !k.first v.ingress then again
    else
      let ctl := k.tag.kind == .control
      match (if k.held then some s else s.reserve (.queue ⟨x, k.cell⟩ k.tag.port.toNat) ctl) with
      | none => again
      | some s => .next ((s.modSite x (fun v => { v with ingress := without v.ingress k.id })).deliver k)

/-! ## Firing (R73) -/

/-- The register of a port. -/
def portReg (p : BitVec 2) : Reg :=
  match p.toNat with
  | 0 => .a | 1 => .b | 2 => .c | _ => .d

def Lane.fresh : Lane := ⟨.zero, .zero, .zero, .zero, .zero, false⟩

/-- R73, R101: the thread that a token starts, with its lanes. -/
def startThread (ag : Agent) (k : Token) (lanes : List Lane) : Thread :=
  { src := ag, part := k.part, region := k.region, inv := k.inv, lanes := lanes, ip := k.tag.ip.toNat, frame := k.tag.frame,
    wave := k.tag.wave, colour := k.tag.colour, eod := k.tag.eod, kind := k.tag.kind, block := k.tag.block, loops := [],
    pblk := none, nld := 0, nst := 0, ncp := 0, nmx := 0, todHi := 0, cycHi := 0, stat := .run, slot := none, wait := none,
    pend := [], lfPend := [], staged := none, stgates := [], plan := ⟨[], none⟩, susp := 0, seq := 0, ending := false }

/-- R73: a one-input firing. -/
def oneInput (ag : Agent) (k : Token) : Thread :=
  startThread ag k ((List.range k.tag.width).map (fun l => Lane.fresh.setReg (portReg k.tag.port) (k.data.getD l .zero)))

/-- R73: a pair firing from the words of the frame's slots. -/
def pairInput (ag : Agent) (q : Pair) (w : Frame) : Thread :=
  let k := if q.upperLast then q.upper else q.lower
  startThread ag k ((List.range k.tag.width).map (fun l =>
    (Lane.fresh.setReg (portReg q.lower.tag.port) (w.word q.slot l)).setReg (portReg q.upper.tag.port) (w.word (q.slot + 1) l)))

/-! ## Reservations that could succeed (R75, R207) -/

/-- The instruction at a thread's IP: its opcode and fields. -/
def State.instrAt (s : State) (t : Thread) : Option (Nat × Fields) :=
  if s.pastEnd t then none
  else
    let w := (s.cell t.src).slotWord t.ip
    match decode (slotBytes w.1 w.2) with
    | .error _ => none
    | .ok (i, _) =>
      match i.opcode?, i.fields? with
      | some n, some f => some (n, f)
      | _, _ => none

/-- R206, R207: every slot that the instruction at the thread's IP needs could be reserved. -/
def State.couldReserve (s : State) (t : Thread) : Bool :=
  match s.instrAt t with
  | none => true
  | some (opc, f) =>
    let mute := decide (0x90 ≤ opc ∧ opc < 0x96) && t.eod == 0
    if mute then true
    else
      let p := s.planFor (if opc = 0xCB then { t with kind := .control } else t) f (s.contWord t f) none
      let late := p.ents.filter (fun d => d.tgt == .late)
      let task := if opc = 0xC6 && bit f.lit 10 then [(Resv.egress t.src.site false, false)] else []
      match s.reserveAll (((p.ents.filter (fun d => d.tgt != .late)).flatMap (fun d => d.resv)) ++ task) with
      | none => false
      | some s' => late.all (fun d => d.resv.any (fun r => (s'.reserve r.1 r.2).isSome))

/-- R207: a thread suspended on its reservations becomes ready once they could succeed. Acts on a = thread. -/
def execReservationReady (s : State) : Out :=
  let u := s.subj.a
  match s.thr? u with
  | none => .next s
  | some t =>
    if t.stat ≠ .reserve then .next s
    else if s.idleSite t.src.site || !s.couldReserve t then .next (s.postEv .reservationReady { a := u })
    else match t.slot with
      | some _ => .next ((s.setThr u { t with stat := .ready }).wake t.src.site [t.src.cell])
      | none => .next ((s.setThr u { t with stat := .run }).post (.issue t.src))

/-! ## The choice of work (R75, R126) -/

/-- R70, R98, R99: the operands of a completed pair still stand in their frame. -/
def State.pairThere (s : State) (ag : Agent) (q : Pair) : Bool :=
  match s.frame? ag.site (BitVec.ofNat 20 q.frame) with
  | none => false
  | some w => decide (tget w.toks q.slot = some q.lower ∧ tget w.toks (q.slot + 1) = some q.upper)

/-- R202: a data and a scale token with unequal block tags do not fire: both are dropped. -/
def Pair.misTagged (q : Pair) : Bool :=
  let a := q.lower.tag
  let b := q.upper.tag
  ((a.kind == .data && b.kind == .scale) || (a.kind == .scale && b.kind == .data)) && a.block != b.block

/-- The token that completed a pair. -/
def Pair.last (q : Pair) : Token := if q.upperLast then q.upper else q.lower

/-- The candidates of a cell in the order of R75, each with the thread it would run; a pair whose block tags differ
is none (R202). -/
def State.candidates (s : State) (ag : Agent) : List (Cand × Thread) :=
  let c := s.cell ag
  let ready := s.threads.filter (fun e => e.2.stat == .ready && e.2.src == ag)
  let oldest := ready.find? (fun e => ready.all (fun g => decide (e.2.susp ≤ g.2.susp)))
  let pairs := (c.pairs.filter (fun q => s.pairThere ag q && !q.misTagged)).filterMap (fun q =>
    match s.frame? ag.site (BitVec.ofNat 20 q.frame) with
    | none => none
    | some w => some (Cand.pair q.slot q.frame q.last.id, pairInput ag q w))
  let heads := (List.range 4).filterMap (fun p => ((c.queue p).head?).map (fun k => (p, k)))
  let byAge := sortBy (fun (g h : Nat × Token) => decide (g.2.at_ ≤ h.2.at_)) heads
  let asCand := fun (h : Nat × Token) => (Cand.head h.1 h.2.id, oneInput ag h.2)
  (oldest.toList.map (fun e => (Cand.thread e.1, e.2))) ++ pairs
    ++ (byAge.filter (fun h => h.2.tag.kind == .control)).map asCand
    ++ (byAge.filter (fun h => h.2.tag.kind != .control)).map asCand

/-- R75, R325: a candidate may run now: a firing needs its reservations, and its region its tile-cycles. -/
def State.mayRun (s : State) (c : Cand × Thread) : Bool :=
  match c.1 with
  | .thread _ => true
  | _ => s.couldReserve c.2
      && !(isTile c.2.src.site && s.spent c.2.part c.2.region (dieOf c.2.src.site) itemTileCycles)

/-- The cells of a thread start it, or go on with it. -/
def State.occupy (s : State) (u : Nat) (t : Thread) : State :=
  let s := s.modCells t.src.site t.cellsHeld (fun c => { c with run := some u, slots := c.slots.filter (fun e => e.2 ≠ u) })
  (s.setThr u { t with stat := .run, slot := none }).post (.issue t.src)

/-- R73, R126: a candidate runs: a queue head leaves its queue, a pair its frame slots. -/
def State.startCand (s : State) (ag : Agent) (c : Cand) (t : Thread) : State :=
  match c with
  | .thread u => s.occupy u t
  | .head p _ =>
    let s := s.modCell ag (fun c => { c with queues := tset c.queues p ((c.queue p).drop 1) })
    (s.bump).occupy s.fresh t
  | .pair slot fr _ =>
    let g : BitVec 20 := BitVec.ofNat 20 fr
    let s := s.touchFrame ag.site g
    let s := match s.frame? ag.site g with
      | none => s
      | some w => s.setFrame ag.site g ((w.clear slot).clear (slot + 1))
    let s := s.modCell ag (fun c => { c with pairs := c.pairs.filter (fun q => !(q.slot == slot && q.frame == fr)) })
    (s.bump).occupy s.fresh t

/-- R202, R203: the "scale pairing" fault. The record names the tags, the frame and the slot of the instruction in the
words of R203, and the two frame slots in words 6 and 7; the scale token's tag is the found one, the data token's the
expected one (assumption 33). -/
def State.dropPair (s : State) (ag : Agent) (q : Pair) : State :=
  let g : BitVec 20 := BitVec.ofNat 20 q.frame
  let s := match s.frame? ag.site g with
    | none => s
    | some w => s.setFrame ag.site g ((w.clear q.slot).clear (q.slot + 1))
  let s := s.modCell ag (fun c => { c with pairs := c.pairs.filter (fun r => !(r.slot == q.slot && r.frame == q.frame)) })
  let k := q.last
  let sc := if q.lower.tag.kind = .scale then q.lower else q.upper
  let dt := if q.lower.tag.kind = .scale then q.upper else q.lower
  s.raise k.who 0x010B (k.who.details203 0 (w32 (sc.tag.block.toNat * 2 ^ 8 + dt.tag.block.toNat)) ++ [w32 q.slot, w32 (q.slot + 1)])

/-- R75, R103: the cells that a candidate of an idle cell, which could not reserve its queue slots, would run on. -/
def State.blockedCells (s : State) : List Agent :=
  s.cells.flatMap (fun e =>
    if e.2.run.isSome || s.idleSite e.1.site then []
    else (s.candidates e.1).flatMap (fun c => match c.1 with
      | .thread _ => []
      | _ => if s.couldReserve c.2 then [] else c.2.cellsHeld.map (fun n => ⟨e.1.site, n⟩)))

/-- R103: n cycles count in `cell.passed` of every idle cell with a candidate that could not reserve. -/
def State.countPassed (s : State) (n : Nat) : State :=
  let bs := s.blockedCells
  if bs.isEmpty then s
  else { s with cells := s.cells.map (fun e =>
    if e.2.run.isNone && bs.contains e.1 then (e.1, { e.2 with passed := e.2.passed + w32 n }) else e) }

/-- A cell that a gang candidate has claimed takes no work of its own (R126). -/
def State.claimed (s : State) (ag : Agent) : Bool := (s.site ag.site).claims.any (fun c => c.cells.contains ag.cell)

/-- R75, R126: an idle cell takes its next work; a gang candidate first claims its cells. Acts on ag. -/
def execWorkSelection (s : State) : Out :=
  let ag := s.subj.ag
  let c := s.cell ag
  if c.run.isSome || s.claimed ag then .next s
  else if s.idleSite ag.site then .next (if (s.candidates ag).isEmpty && c.pairs.isEmpty then s else s.postEv .workSelection { ag := ag })
  else if c.pairs.any (fun q => !s.pairThere ag q) then
    .next ((s.setCell ag { c with pairs := c.pairs.filter (s.pairThere ag) }).postEv .workSelection { ag := ag })
  else match c.pairs.find? (fun q => q.misTagged) with
    | some q => .next ((s.dropPair ag q).postEv .workSelection { ag := ag })
    | none =>
      let cs := s.candidates ag
      match cs.find? s.mayRun with
      | none =>
        .next (if cs.isEmpty then s else s.postEv .workSelection { ag := ag })
      | some (k, t) =>
        if t.width ≤ 1 then .next ((s.startCand ag k t).postEv .workSelection { ag := ag })
        else .next (s.postEv .gangClaim { ag := ag })

/-- R126: the first gang candidate of a cell claims its cells. Acts on ag. -/
def execGangClaim (s : State) : Out :=
  let ag := s.subj.ag
  if (s.cell ag).run.isSome || s.claimed ag then .next s
  else match (s.candidates ag).find? s.mayRun with
    | none => .next (s.postEv .workSelection { ag := ag })
    | some (k, t) =>
      if t.width ≤ 1 then .next (s.postEv .workSelection { ag := ag })
      else
        let cl : Claim := ⟨ag, t.cellsHeld, k⟩
        .next ((s.modSite ag.site (fun v => { v with claims := v.claims ++ [cl] })).postEv .gangFire { ag := ag })

/-- A claim's turn has come: no earlier claim names one of its cells, and each of them is free. -/
def State.claimHolds (s : State) (cl : Claim) : Bool :=
  let before := (s.site cl.ag.site).claims.takeWhile (fun c => decide (c.ag ≠ cl.ag))
  cl.cells.all (fun n => (s.cell ⟨cl.ag.site, n⟩).run.isNone && !before.any (fun c => c.cells.contains n))

def State.dropClaim (s : State) (cl : Claim) : State :=
  (s.modSite cl.ag.site (fun v => { v with claims := v.claims.filter (fun c => decide (c.ag ≠ cl.ag)) })).wake cl.ag.site cl.cells

/-- The candidate that a claim is for, while it still is one. -/
def State.claimant (s : State) (ag : Agent) (c : Cand) : Option (Cand × Thread) :=
  match c with
  | .thread u => (s.thr? u).bind (fun t => if t.stat = .ready ∧ t.src = ag then some (c, t) else none)
  | _ => (s.candidates ag).find? (fun d => d.1 = c)

/-- R126: a gang fires once every claimed cell holds and its reservations succeed; where they cannot, it
releases its claims. Acts on ag. -/
def execGangFire (s : State) : Out :=
  let ag := s.subj.ag
  match (s.site ag.site).claims.find? (fun c => c.ag = ag) with
  | none => .next s
  | some cl =>
    match s.claimant ag cl.cand with
    | none => .next (s.dropClaim cl)
    | some c =>
      if s.idleSite ag.site || !s.claimHolds cl then .next (s.postEv .gangFire { ag := ag })
      else if !s.mayRun c then .next (s.dropClaim cl)
      else
        let s := s.modSite ag.site (fun v => { v with claims := v.claims.filter (fun c => decide (c.ag ≠ ag)) })
        .next (s.startCand ag c.1 c.2)

/-! ## Time and the next activity -/

/-- A step passes a free number of cycles (assumption 3). -/
def State.passTime (s : State) : State :=
  let n := Config.elapsed s.tick
  { (s.countPassed (s.uncounted + n)).pass n with tick := s.tick + 1, uncounted := 0 }

/-- The activity that comes next, with the state in which it is no longer pending. -/
def State.nextAct (s : State) : Option (Act × State) :=
  match s.turn with
  | some a => some (a, { s.passTime with turn := none })
  | none =>
    let n := s.agenda.length
    let i := Config.pick s.tick 0 % n
    match s.agenda[i]? with
    | none => none
    | some a => some (a, { s.passTime with agenda := s.agenda.eraseIdx i })

end Sys2Proof.Machine
end

