-- ==== Sys2Proof/Machine/Place.lean ====
section
/-! DEFINITION. Placement: grants and strikes of tiles (R56, R57), the controller's samples (R344) and PLACE
(R343). -/

namespace Sys2Proof.Machine

/-! ## Grants (R344) -/

/-- A tile's column and row. -/
def colRow (n : Nat) : Nat × Nat := (n % 64 / 8, n % 8)

/-- Column plus row distance of two tiles of a die. -/
def tileDist (a b : Nat) : Nat :=
  let x := colRow a
  let y := colRow b
  (x.1 - y.1) + (y.1 - x.1) + ((x.2 - y.2) + (y.2 - x.2))

/-- The distance of a tile to the nearest of a list. -/
def nearestDist (ts : List Nat) (n : Nat) : Nat := ts.foldl (fun m k => min m (tileDist k n)) 64

/-- R43, R417: an image of the partition pins a stage to the tile; placement does not grant it. -/
def State.listed (s : State) (p n : Nat) : Bool :=
  s.images.any (fun m => m.key.part == p && (imgTileList m.bytes).any (fun w => tleTile w == n))

/-- R344: the free tile that a grant takes: nearest to a tile of the stage, then lower column, lower row. -/
def State.grantChoice (s : State) (k : ImgKey) (die stage : Nat) : Option Nat :=
  let ts := s.stageTiles k die stage
  let free := (dieTiles die).filter (fun n => s.freeTile k.part n && !s.listed k.part n)
  free.find? (fun n => free.all (fun m => decide (nearestDist ts n ≤ nearestDist ts m)))

/-- The region that a stage's tiles on a die count against (R323). -/
def State.stageRegion (s : State) (k : ImgKey) (die stage : Nat) : Nat :=
  ((s.stageTiles k die stage).head?.map (fun n => (s.site (.tile n)).region)).getD 0

/-- R54, R418: the tile of a stage from which a tile is pitched: the nearest, then lower column, lower row. -/
def State.neighbour (s : State) (k : ImgKey) (die stage n : Nat) : Option Nat :=
  let ts := s.stageTiles k die stage
  ts.find? (fun a => ts.all (fun b => decide (tileDist a n ≤ tileDist b n)))

/-- R344, R57: a grant, pitched from a neighbour's tables as they stand (R54, R418); none without a neighbour, a tile
or the budget, or once the image's strike is asked for. -/
def State.grantTile (s : State) (k : ImgKey) (die stage : Nat) : Option State :=
  let r := s.stageRegion k die stage
  match s.image? k, s.grantChoice k die stage with
  | some m, some n =>
    if m.strike || !s.fits k.part r itemTiles 1 then none
    else (s.neighbour k die stage n).map (fun b => s.pitchTile n k (fun c => (s.cell ⟨.tile b, c⟩).tables) stage r false false)
  | _, _ => none

/-! ## Strikes (R56, R57) -/

/-- R56 step 1: the dispatcher closes a tile's entry. -/
def State.beginStrike (s : State) (n : Nat) : State :=
  (s.modSite (.tile n) (fun v => { v with striking := true, struckAt := s.fresh })).postEv .strikeComplete { a := n }

/-- R344: the tile that a placement strike takes: the most recently granted one that is neither initial,
pinned, being pitched nor being struck. -/
def State.strikeChoice (s : State) (k : ImgKey) (die stage : Nat) : Option Nat :=
  let ts := (s.stageTiles k die stage).filter (fun n =>
    let v := s.site (.tile n)
    !v.initial && !v.pinned && !v.pitching && !v.striking)
  ts.find? (fun n => ts.all (fun m => decide ((s.site (.tile m)).granted ≤ (s.site (.tile n)).granted)))

/-- R56 step 2: a cell's queues and thread slots are empty. -/
def Cell.isEmpty (c : Cell) : Bool := c.queues.all (fun q => q.2.isEmpty) && c.slots.isEmpty && c.run.isNone && c.pairs.isEmpty

/-- R56 step 2: no token routed to the tile before step 1 is still on its way, its cells are empty and it homes no
live frame. -/
def State.tileEmpty (s : State) (n : Nat) : Bool :=
  let x : Site := .tile n
  let v := s.site x
  let due := fun (k : Token) => k.dst == x && k.unres.isNone && decide (k.id < v.struckAt)
  !v.ingress.any due && v.frames.isEmpty && !s.fabric.any due && !s.sites.any (fun e => e.2.egress.any due)
    && (List.range 64).all (fun c => (s.cell ⟨x, c⟩).isEmpty)

/-- A tile without image, back in its region's pool. -/
def SiteSt.pooled (v : SiteSt) : SiteSt :=
  { v with img := none, stage := 0, valid := false, pitching := false, striking := false, initial := false, pinned := false,
           grants := [], claims := [], err := false }

/-- R56 step 3, R131, R136: the tables, grants and reduction elements of a tile are cleared. Its lane-file banks stay as
they are until the pitch that zeroes them, before which no instruction reads them (DESIGN CHOICE, assumption 50). -/
def State.clearTile (s : State) (n : Nat) : State :=
  (s.writeTables (.tile n) (fun _ => Cell.reset) (fun old c => { c with issued := old.issued, passed := old.passed, bank := old.bank })).modSite (.tile n) SiteSt.pooled

/-- Acts on a = tile. -/
def execStrikeComplete (s : State) : Out :=
  let n := s.subj.a
  if !(s.site (.tile n)).striking then .next s
  else if (s.site (.tile n)).pitching || !s.tileEmpty n then .next (s.postEv .strikeComplete { a := n })
  else .next (s.clearTile n)

/-- The header fields of a packet (R332). -/
def pktN (bs : List Byte) (o n : Nat) : Nat := leNat ((bs.drop o).take n)
def pktKey (p : Nat) (bs : List Byte) : ImgKey := ⟨p, BitVec.ofNat 64 (pktN bs 0x10 8), w32 (pktN bs 0x18 4)⟩

/-- R57: a launch of the image is queued or has not retired. -/
def State.imageUsed (s : State) (k : ImgKey) : Bool :=
  s.launches.any (fun e => e.2.part == k.part && decide (e.2.st ≠ .done) && pktKey k.part e.2.hdr == k)
    || (s.part k.part).queues.any (fun q => q.2.packets.any (fun b => pktN b.bytes 0 1 == 1 && pktKey k.part b.bytes == k))

/-- The tiles that hold an image. -/
def State.imageTiles (s : State) (k : ImgKey) : List Nat :=
  s.sites.filterMap (fun e => match e.1 with
    | .tile n => if e.2.img = some k then some n else none
    | _ => none)

/-- Change an image of the store. -/
def State.modImage (s : State) (k : ImgKey) (f : Image → Image) : State :=
  { s with images := s.images.map (fun m => if m.key = k then f m else m) }

/-- R57: an image whose strike is asked for is struck from all its tiles once no launch uses it; with its
last tile it leaves the store. One that a queued launch has still to bring waits for that launch.
Acts on a = partition, b = version, v = name. -/
def execImageStrike (s : State) : Out :=
  let k : ImgKey := ⟨s.subj.a, s.subj.v, w32 s.subj.b⟩
  let again := fun (s : State) => s.postEv .imageStrike s.subj
  match s.image? k with
  | none => .next (if s.imageUsed k then again s else s)
  | some m =>
    if s.imageUsed k && !m.begun then .next (again s)
    else
      match s.imageTiles k with
      | [] => .next { s with images := s.images.filter (fun i => decide (i.key ≠ k)),
                             places := s.places.filter (fun e => decide (e.1.1 ≠ k)) }
      | ts => .next (again ((ts.filter (fun n => !(s.site (.tile n)).striking && !(s.site (.tile n)).pitching)).foldl State.beginStrike
                (s.modImage k (fun m => { m with begun := true }))))

/-- R57: the request to strike an image, while it is pending. -/
def strikeAct (k : ImgKey) : Act := .ev .imageStrike { a := k.part, b := k.version.toNat, v := k.name }

/-- R57: the strike of an image is asked for; growth of its stages stops. -/
def State.askStrike (s : State) (k : ImgKey) : State :=
  let s := s.modImage k (fun m => { m with strike := true })
  if s.agenda.contains (strikeAct k) then s else s.post (strikeAct k)

/-- An image whose strike has begun: its tiles are being struck with it (R57). -/
def State.strikeBegun (s : State) (k : ImgKey) : Bool := (s.image? k).any (fun m => m.begun)

/-! ## The controller's samples (R344) -/

/-- R344: a stage's depth on a die: the longest input queue of its tiles. -/
def State.depth (s : State) (k : ImgKey) (die stage : Nat) : Nat :=
  (s.stageTiles k die stage).foldl (fun m n => (List.range 64).foldl (fun m c => (List.range 4).foldl (fun m p =>
    max m ((s.cell ⟨.tile n, c⟩).queue p).length) m) m) 0

def State.placeOf (s : State) (k : ImgKey) (die stage : Nat) : Place := tgetD s.places (k, die, stage) ⟨0, 0, false⟩
def State.setPlace (s : State) (k : ImgKey) (die stage : Nat) (v : Place) : State := { s with places := tset s.places (k, die, stage) v }

/-- What a sample asks for. -/
structure PlaceReq where
  key : ImgKey
  stage : Nat
  grow : Bool
  prio : Nat
  depth : Nat

/-- R344: one stage's sample: its runs, and the request they lead to. -/
def State.sampleStage (s : State) (k : ImgKey) (m : Image) (die stage : Nat) : State × List PlaceReq :=
  let v := s.placeOf k die stage
  if v.frozen then (s, [])
  else
    let d := s.depth k die stage
    let g := if imgGrow m.bytes stage ≤ d then v.grow + 1 else 0
    let h := if d < imgShrink m.bytes stage then v.shrink + 1 else 0
    let prio := match tget (s.part k.part).regions (s.stageRegion k die stage) with | none => 0 | some r => r.prio
    if 4 ≤ g then (s.setPlace k die stage ⟨0, 0, false⟩, [⟨k, stage, true, prio, d⟩])
    else if 16 ≤ h then (s.setPlace k die stage ⟨0, 0, false⟩, [⟨k, stage, false, prio, d⟩])
    else (s.setPlace k die stage ⟨g, h, false⟩, [])

/-- R344: the order in which a sample's requests are served. -/
def PlaceReq.le (a b : PlaceReq) : Bool :=
  decide (b.prio < a.prio) || (a.prio == b.prio && (decide (b.depth < a.depth) || (a.depth == b.depth && decide (a.stage ≤ b.stage))))

def State.serveReq (s : State) (die : Nat) (q : PlaceReq) : State :=
  if q.grow then (s.grantTile q.key die q.stage).getD s
  else match s.strikeChoice q.key die q.stage with
    | none => s
    | some n => s.beginStrike n

/-- R344, R367: a sample of a die, every 2 µs. Acts on a = die, b = due cycle. -/
def execPlacementSample (s : State) : Out :=
  let die := s.subj.a
  if s.cycle < s.subj.b then .next (s.postEv .placementSample s.subj)
  else
    let live := s.images.filter (fun m => !(s.part m.key.part).halted)
    let jobs := live.flatMap (fun m => ((List.range (imgStages m.bytes)).filter (fun st => !(s.stageTiles m.key die st).isEmpty)).map
      (fun st => (m, st)))
    let r := jobs.foldl (fun r j => let q := r.1.sampleStage j.1.key j.1 die j.2; (q.1, r.2 ++ q.2)) (s, ([] : List PlaceReq))
    let s := (sortBy PlaceReq.le r.2).foldl (fun s q => s.serveReq die q) r.1
    .next (s.postEv .placementSample { a := die, b := s.subj.b + 2200 })

/-! ## PLACE (R343) -/

/-- The number of a stage's tiles on a die; a tile being struck no longer counts. -/
def State.stageCount (s : State) (k : ImgKey) (die stage : Nat) : Nat :=
  ((s.stageTiles k die stage).filter (fun n => !(s.site (.tile n)).striking)).length

/-- R343: the state after a form and whether its action began. -/
def State.placeForm (s : State) (k : ImgKey) (die stage form : Nat) (a : Word) : State × Bool :=
  match form with
  | 0 => (s, true)
  | 1 => match s.grantTile k die stage with
    | none => (s, false)
    | some s' => (s', true)
  | 2 => match s.strikeChoice k die stage with
    | none => (s, false)
    | some n => (s.beginStrike n, true)
  | _ => (s.setPlace k die stage { s.placeOf k die stage with frozen := bit a 0 }, true)

/-- R327, R343. -/
def execPlace (f : Fields) (s : State) : Out :=
  s.instr f { opc := 0xF9, b := false } (fun _ t =>
    let a := t.a0 f
    let stage := fld f.lit 0 7
    if a.pois then .ok s (.valP (t.all .bad) (allP t false))
    else if t.selLanes.isEmpty then .ok s {}
    else match (if isTile t.src.site then (s.site t.src.site).img else none) with
      | none => .ok s (.valP (t.all .zero) (allP t false))
      | some k =>
        let die := dieOf t.src.site
        match s.image? k with
        | none => .ok s (.valP (t.all .zero) (allP t false))
        | some m =>
          if imgStages m.bytes ≤ stage then .ok s (.valP (t.all .zero) (allP t false))
          else
            let r := s.placeForm k die stage (fld f.lit 7 2) a.w
            .ok r.1 (.valP (t.all (.ok (w32 (r.1.stageCount k die stage)))) (allP t r.2)))

end Sys2Proof.Machine
end

