-- ==== Sys2Proof/Machine/System.lean ====
section
/-! DEFINITION. The region instructions RGNE, RGNX and LNCH (R327 to R331), the range commit (R315 to R319),
FLTX and MARK (R380, R381). -/

namespace Sys2Proof.Machine

/-! ## RGNE (R322, R329) -/

/-- Item i of a region control block (R322). -/
def rcbItem (bs : List Byte) (i : Nat) : Nat :=
  if i < 4 then pktN bs (0x08 + 4 * i) 4
  else if i < 9 then pktN bs (0x18 + 8 * (i - 4)) 8
  else if i < 14 then pktN bs (0x40 + 8 * (i - 9)) 8
  else pktN bs (0x68 + 4 * (i - 14)) 4

/-- R322: a block keeps its rules. -/
def rcbOk (bs : List Byte) : Bool :=
  let h := pktN bs 0 4
  nfld h 0 1 == 1 && nfld h 5 11 == 0 && nfld (pktN bs 4 4) 10 22 == 0 && decide (rcbItem bs 15 < 65536)
    && (List.range 16).all (fun i => pktN bs (0x70 + i) 1 == 0)

/-- The region that a block describes. -/
def rcbRegion (bs : List Byte) (new dom : Nat) (closed : Bool) : Region :=
  let h := pktN bs 0 4
  { parent := nfld (pktN bs 4 4) 0 10, prio := nfld h 1 3, own := nfld h 4 1 == 1, inherit_ := BitVec.ofNat 16 (nfld h 16 16),
    items := (List.range 16).map (rcbItem bs), closed := closed, closer := none,
    dom := if nfld h 4 1 = 1 then new else dom, used := [], ran := 0 }

/-- R329: the floors of a region's children, summed: the floors they set themselves. -/
def Part.floorSum (v : Part) (parent i : Nat) : Nat :=
  ((v.regions.filter (fun e => e.1 != 0 && e.2.parent == parent && !e.2.inherit_.getLsbD i)).map (fun e => e.2.items.getD i 0)).foldl (· + ·) 0

/-- R329: every item fits its parent. -/
def Part.rcbFits (v : Part) (g : Region) : Bool :=
  (List.range 14).all (fun i => g.inherit_.getLsbD i ||
    (decide (g.items.getD i 0 ≤ v.eff g.parent i)
      && (decide (i < 9) || decide (v.floorSum g.parent i + g.items.getD i 0 ≤ v.eff g.parent i))))

/-- The lowest free region number (R328). -/
def Part.freeRegion (v : Part) : Option Nat := (List.range 1024).find? (fun r => (tget v.regions r).isNone)

/-- R329: the new region and its number, or the reason of a failure, where a number is free. -/
def Part.newRegion (v : Part) (issuer new : Nat) (bs : Option (List Byte)) : Except Nat Region :=
  match bs with
  | none => .error 1
  | some bs =>
    if !rcbOk bs then .error 1
    else
      let pr := nfld (pktN bs 4 4) 0 10
      match tget v.regions pr with
      | none => .error 2
      | some pg =>
        if !v.within issuer pr then .error 2
        else
          let g := rcbRegion bs new pg.dom pg.closed
          if v.rcbFits g then .ok g else .error 3

/-- R354: a new domain's fields. -/
def Part.addRegion (v : Part) (new : Nat) (g : Region) : Part :=
  { v with regions := tset v.regions new g
           domains := if g.own then tset v.domains new ⟨false, false, 0⟩ else v.domains }

/-- R328, R329. -/
def execRgne (f : Fields) (s : State) : Out :=
  s.instr f { opc := 0xF6, b := false } (fun _ t =>
    let a := t.a0 f
    let fail := Eff.valP (t.all .zero) (allP t false)
    if a.pois then .ok s (.valP (t.all .bad) (allP t false))
    else if t.selLanes.isEmpty then .ok s {}
    else if !isTile t.src.site then .ok s fail
    else
      let v := s.part t.part
      let ea := eaOf (s.baseOf t (fld f.lit 0 3)) a.w 1
      match v.freeRegion with
      | none => .ok s fail
      | some new =>
        let make := fun (s : State) (bs : Option (List Byte)) => match v.newRegion t.region new bs with
          | .error r => Body.ok (s.raise (t.who 0xF6) 0x0115 ((t.who 0xF6).details r [])) fail
          | .ok g => .ok (s.modPart t.part (fun v => v.addRegion new g)) (.valP (t.all (.ok (w32 new))) (allP t true))
        if ea % 64 ≠ 0 then make s none
        else match s.readRange (t.who 0xF6) ea 128 with
          | .wait s => .hold s
          | .fail s => make s none
          | .ok s bs => make s (some bs))

/-! ## RGNX (R330) -/

/-- Regions of a subtree. -/
def Part.subtree (v : Part) (r : Nat) : List Nat := (v.regions.map (fun e => e.1)).filter (fun x => v.within r x)

/-- An invocation of the subtree has not retired. -/
def State.subtreeBusy (s : State) (p r : Nat) : Bool :=
  s.launches.any (fun e => e.2.part == p && decide (e.2.st ≠ .done) && (s.part p).within r e.2.region)

/-- R330: the numbers of a closed subtree are freed; its tiles and images count against the parent. -/
def State.freeSubtree (s : State) (p r : Nat) : State :=
  let v := s.part p
  let out := v.subtree r
  let up := match tget v.regions r with | none => 0 | some g => g.parent
  let move := fun (q x : Nat) => if q = p ∧ out.contains x then up else x
  { s.setPart p { v with regions := v.regions.filter (fun e => !out.contains e.1)
                         domains := v.domains.filter (fun e => !out.contains e.1) } with
    sites := s.sites.map (fun e => (e.1, match e.2.part with
      | none => e.2
      | some q => { e.2 with region := move q e.2.region }))
    images := s.images.map (fun m => { m with region := move m.key.part m.region }) }

/-- R330: free a closed region whose last invocation has retired, and add 1 to its semaphore. -/
def State.releaseRegion (s : State) (p r : Nat) : State :=
  match tget (s.part p).regions r with
  | none => s
  | some g =>
    match g.closer with
    | none => s
    | some (x, n) => if s.subtreeBusy p r then s else (s.freeSubtree p r).queueSem x n 1 false [] 3 0

/-- R330: look at every closed region of a partition, the deepest first: a subtree closed by its own RGNX ends before
the one that holds it. -/
def State.releaseRegions (s : State) (p : Nat) : State :=
  let v := s.part p
  (sortBy (fun a b => decide ((v.path b).length ≤ (v.path a).length)) (v.regions.map (fun e => e.1))).foldl (fun s r => s.releaseRegion p r) s

/-- R330: close a region and its descendants. -/
def Part.close (v : Part) (r : Nat) (closer : Site × Nat) : Part :=
  let out := v.subtree r
  { v with regions := v.regions.map (fun e =>
      if out.contains e.1 then (e.1, { e.2 with closed := true, closer := if e.1 = r then some closer else e.2.closer }) else e) }

/-- R330. -/
def execRgnx (f : Fields) (s : State) : Out :=
  s.instr f { opc := 0xF7, b := false } (fun _ t =>
    let a := t.a0 f
    let r := fld a.w 0 10
    let fail := Eff.valP (t.all .zero) (allP t false)
    if a.pois then .ok s (.valP (t.all .bad) (allP t false))
    else if t.selLanes.isEmpty then .ok s {}
    else if !isTile t.src.site then .ok s fail
    else
      let v := s.part t.part
      match tget v.regions r with
      | none => .ok s fail
      | some g =>
        if !v.within t.region r then .ok s fail
        else if g.closed then .ok s (.valP (t.all (.ok (Config.word s.tick 0))) (allP t false))
        else
          let s := if bit f.lit 0 then s.fenceDomain t.part r (some t.inv) else s
          let s := s.modPart t.part (fun v => v.close r (t.src.site, fld f.lit 1 6))
          .ok (s.releaseRegion t.part r) (.valP (t.all a) (allP t true)))

/-! ## LNCH (R331, R335) -/

/-- R335: the invocation id of a queue's accepted count. -/
def invocationId (q c : Nat) : Word := w32 (q * 2 ^ 29 + (c - 1) % (2 ^ 29 - 1) + 1)

/-- R331, R337: a packet enters a live queue with a free slot; none otherwise. The accepted count it carries. -/
def State.enqueue (s : State) (p q : Nat) (issuer : Option Nat) (bs : List Byte) : Option (State × Nat) :=
  let h := tgetD (s.part p).queues q HostQ.reset
  if !h.live || decide (64 ≤ h.packets.length) then none
  else
    let c := h.accepted + 1
    some ((s.modPart p (fun v => v.modQueue q (fun h => { h with accepted := c, packets := h.packets ++ [⟨c, issuer, bs⟩] }))).postEv
      .launchCheck { a := p }, c)

/-- R331: the bytes of a packet in memory: its header and as many entries as a packet can hold. -/
def State.readPacket (s : State) (w : Who) (ea : Int) : Reading :=
  match s.readRange w ea 64 with
  | .ok s h =>
    (match s.readRange w (ea + 64) (16 * min (pktN h 0x28 4) 252) with
    | .ok s es => .ok s (h ++ es)
    | r => r)
  | r => r

/-- R331: the offer is a release at `.pkg`, so every earlier access of the thread has performed there first (R270). -/
def execLnch (f : Fields) (s : State) : Out :=
  s.instr f { opc := 0xF8, b := false } (fun u t =>
    let a := t.a0 f
    let fail := Eff.valP (t.all .zero) (allP t false)
    if a.pois then .ok s (.valP (t.all .bad) (allP t false))
    else if t.selLanes.isEmpty then .ok s {}
    else if !isTile t.src.site then .ok s fail
    else if !s.allDone u 3 then .hold s
    else
      let q := fld f.lit 3 3
      match s.readPacket (t.who 0xF8) (eaOf (s.baseOf t (fld f.lit 0 3)) a.w 1) with
      | .wait s => .hold s
      | .fail s => .ok s fail
      | .ok s bs =>
        match s.enqueue t.part q (some t.region) bs with
        | none => .ok s fail
        | some (s', c) => .ok s' (.valP (t.all (.ok (invocationId q c))) (allP t true)))

/-! ## The range commit (R315 to R319) -/

/-- The counts of a commit that has ended (R319). -/
def rcWord (old : Word) (failed : Bool) (reason entry : Nat) : Word :=
  w32 (2 ^ 31 + (if failed then 2 ^ 30 else 0) + reason * 2 ^ 16 + entry * 2 ^ 8 + (fld old 0 8 + 1) % 256)

/-- R316 to R318. -/
def execRcmit (f : Fields) (s : State) : Out :=
  s.instr f { opc := 0xFA, b := false } (fun _ t =>
    let a := t.a0 f
    let x := t.src.site
    let w := t.who 0xFA
    let fail := Eff.valP (t.all a) (allP t false)
    if t.selLanes.isEmpty then .ok s {}
    else if isElem x then .ok (s.raise w 0x0114 (w.details 1 [])) fail
    else if a.pois then .ok s fail
    else match tget s.parts t.part with
      | none => .ok s fail
      | some v =>
        if v.commit.isSome then .ok s fail
        else
          let c : Commit := ⟨eaOf (s.baseOf t (fld f.lit 0 3)) a.w 1, x, fld f.lit 3 6, w, none, []⟩
          .ok ((s.setPart t.part { v with commit := some c }).postEv .rangeTableRead { a := t.part }) (.valP (t.all a) (allP t true)))

/-- One 64-bit field of a table as a signed address. -/
def tblAddr (bs : List Byte) (o : Nat) : Int := (BitVec.ofNat 64 (pktN bs o 8)).toInt

/-- R315: entry i of a table: none ignored, or the register it fills; an error where it breaks a rule. -/
def State.rangeEntry (s : State) (p : Nat) (bs : List Byte) (i : Nat) : Except Unit (Option RangeReg) :=
  let e := (bs.drop (32 * i)).take 32
  let at_ := pktN e 0x18 4
  if nfld at_ 0 1 = 0 then .ok none
  else
    let vb := tblAddr e 0
    let vl := tblAddr e 8
    let pb := pktN e 0x10 8
    if vb % 65536 = 0 ∧ inRange57 vb ∧ vl % 65536 = 0 ∧ vb < vl ∧ vl ≤ 2 ^ 56 ∧ pb % 65536 = 0 ∧ s.inMem p pb (vl - vb).toNat
        ∧ nfld at_ 2 3 ≤ 4 ∧ nfld at_ 5 27 = 0 ∧ pktN e 0x1C 4 = 0 then
      .ok (some ⟨vb, vl, pb, nfld at_ 1 1 == 1, nfld at_ 2 3⟩)
    else .error ()

/-- R315: the registers of a table, or the first entry that breaks a rule. -/
def State.rangeSet (s : State) (p : Nat) (bs : List Byte) : List Nat → Except Nat (Tbl Nat RangeReg)
  | [] => .ok []
  | i :: is =>
    match s.rangeEntry p bs i with
    | .error _ => .error i
    | .ok r =>
      match s.rangeSet p bs is with
      | .error j => .error j
      | .ok rs => .ok (match r with | none => rs | some q => (i, q) :: rs)

/-- R317 step 6: a commit ends; its semaphore is raised. -/
def State.endCommit (s : State) (p : Nat) (c : Commit) (failed : Bool) (reason entry : Nat) : State :=
  (s.modPart p (fun v => { v with commit := none, rcstat := rcWord v.rcstat failed reason entry })).queueSem c.site c.sem 1 false [] 3 c.who.inv

/-- R318: a commit is abandoned. -/
def State.failCommit (s : State) (p : Nat) (c : Commit) (reason entry : Nat) : State :=
  (s.raise c.who 0x0114 (c.who.details reason [w32 entry])).endCommit p c true reason entry

/-- R315: a range register of the current set holds the address. -/
def Part.inRanges (v : Part) (ea : Int) : Bool := (v.rangeFor ea).isSome

/-- R317 steps 1 to 3: the table is read and checked, and the new set staged; step 4 gathers the accesses
that the old set translated. Acts on a = partition. -/
def execRangeTableRead (s : State) : Out :=
  let p := s.subj.a
  match (s.part p).commit with
  | none => .next s
  | some c =>
    if c.staged.isSome then .next s
    else if s.idleSite c.site || s.away c.site c.who.inv then .next (s.postEv .rangeTableRead { a := p })
    else match (if c.table % 1024 = 0 then s.readRange c.who c.table 1024 else .fail s) with
      | .wait s => .next (s.postEv .rangeTableRead { a := p })
      | .fail s => .next (s.failCommit p c 2 0)
      | .ok s bs =>
        match s.rangeSet p bs (List.range 32) with
        | .error i => .next (s.failCommit p c 3 i)
        | .ok rs =>
          let hit := (s.part p).inRanges
          .next (((s.modPart p (fun v => { v with commit := some { c with staged := some rs, gate := s.pageUsers p hit } })).rewalk p hit).postEv
            .rangeCommitSwitch { a := p })

/-- R317 steps 4 to 6. Acts on a = partition. -/
def execRangeCommitSwitch (s : State) : Out :=
  let p := s.subj.a
  match (s.part p).commit with
  | none => .next s
  | some c =>
    match c.staged with
    | none => .next s
    | some rs =>
      if s.pageUsed p (s.part p).inRanges c.gate || s.flightHits p (s.part p).inRanges || !s.coh.hwHeld.isEmpty then .next (s.postEv .rangeCommitSwitch { a := p })
      else .next ((s.modPart p (fun v => { v with ranges := rs })).endCommit p c false 0 0)

/-- R318: a pre-emption before the switch abandons a commit of a site that stops; it starts again from step 1
on resume. -/
def State.dropCommit (s : State) (p : Nat) (stops : Site → Bool) : State :=
  s.modPart p (fun v => match v.commit with
    | none => v
    | some c => if stops c.site then { v with commit := some { c with staged := none, gate := [] } } else v)

/-! ## FLTX and MARK (R380, R381) -/

/-- R380: a lane's result: A, poisoned by A, B or B's low bit. -/
def fltxLane (a b : PWord) : PWord := { a with pois := a.pois || b.pois || bit b.w 0 }

/-- R380: the selected lanes that B's low bit poisoned. -/
def fltxMask (t : Thread) (f : Fields) : Word := maskOf (t.selLanes.filter (fun l => bit ((t.bs f).getD l .zero).w 0))

/-- R380. -/
def execFltx (f : Fields) (s : State) : Out :=
  s.instr f { opc := 0xFB } (fun _ t =>
    let w := t.who 0xFB
    let r := Eff.val (List.zipWith fltxLane (t.as f) (t.bs f))
    if t.selLanes.isEmpty then .ok s r
    else
      let d := w.details 0 [w32 (fld f.lit 0 16), (t.a0 f).w, (t.b0 f).w, fltxMask t f]
      let s := s.raise w 0x0118 d
      if bit f.lit 17 && t.region == 0 then .ok (s.raise w 0x0203 d) r
      else if bit f.lit 17 || bit f.lit 16 then .ok (s.fenceDomain t.part t.region (some t.inv)) r
      else .ok s r)

/-- R375: a mark record: the position of the lane-0 cell, the thread's tag with the MARK's slot. -/
def State.markRecord (s : State) (t : Thread) (a : PWord) (as : List PWord) (code : Nat) : LtRec :=
  let g : Tag := { frame := t.frame, ip := BitVec.ofNat 8 t.ip, port := 0, wave := t.wave, colour := t.colour, width := t.width,
                   eod := t.eod, kind := t.kind, block := t.block }
  ⟨[w32 (2 ^ 28 + (tileid (t.laneAgent 0)).toNat % 2 ^ 15), w32 s.cycle, w32 (s.cycle / 2 ^ 32), w32 g.bits, w32 (g.bits / 2 ^ 32),
    poisMask as, a.w, w32 (t.wave.toNat + code * 2 ^ 16)]⟩

/-- R381: MARK offers a record while marks are taken; a refused one counts in `lt.drop.16`. -/
def execMark (f : Fields) (s : State) : Out :=
  s.instr f { opc := 0xFC, b := false } (fun _ t =>
    let r := Eff.val (t.as f)
    if bit s.lantern.ctl 31 && bit s.lantern.ctl 30 && !t.selLanes.isEmpty then
      .ok (s.offer (dieOf t.src.site) 16 (s.markRecord t (t.a0 f) (t.as f) (fld f.lit 0 16))) r
    else .ok s r)

end Sys2Proof.Machine
end

