-- ==== Sys2Proof/Machine/Launch.lean ====
section
/-! DEFINITION. The trailhead: host queues and packets (R332, R333, R337), the states of a launch (R334, R336,
R340, R341), completion (R348, R349), periods (R325). -/

namespace Sys2Proof.Machine

/-! ## Packets (R332) -/

/-- The token entries of a packet. -/
def pktEntries (bs : List Byte) : List Entry :=
  (List.range (pktN bs 0x28 4)).map (fun i =>
    let o := 64 + 16 * i
    ⟨w32 (pktN bs o 4), w32 (pktN bs (o + 4) 4), w32 (pktN bs (o + 8) 4), w32 (pktN bs (o + 12) 4)⟩)

def Entry.stage (e : Entry) : Nat := fld e.w0 0 7
def Entry.cell (e : Entry) : Nat := fld e.w0 7 6
def Entry.ip (e : Entry) : Nat := fld e.w0 13 8
def Entry.port (e : Entry) : Nat := fld e.w0 21 2
def Entry.kind (e : Entry) : Nat := fld e.w0 23 2
def Entry.isTask (e : Entry) : Bool := bit e.w0 31
def Entry.wave (e : Entry) : BitVec 16 := BitVec.ofNat 16 (fld e.w1 0 16)
def Entry.use (e : Entry) : Nat := fld e.w1 16 16
/-- R334: the element that a task entry names. -/
def Entry.elem (e : Entry) : Nat := 96 * fld e.key 7 2 + fld e.key 0 7

/-- The dies of a packet's mask. -/
def pktDies (bs : List Byte) : List Nat := (List.range 8).filter (fun d => nfld (pktN bs 0x1C 4) d 1 == 1)
def pktSeed (bs : List Byte) : Nat := nfld (pktN bs 0x1C 4) 16 16
def pktRegion (bs : List Byte) : Nat := nfld (pktN bs 4 4) 0 10
def pktWait (bs : List Byte) : Nat := pktN bs 0x2C 4

def noEntry : Nat := 0xFFFFFFFF

/-- The first entry that `bad` picks. -/
def firstBad (bs : List Byte) (bad : Entry → Bool) : Option Nat :=
  ((pktEntries bs).mapIdx (fun i e => (i, e))).findSome? (fun q => if bad q.2 then some q.1 else none)

/-- R334: a task entry of reason 7. -/
def State.taskBad (s : State) (p : Nat) (e : Entry) : Bool :=
  e.isTask && (fld e.w0 0 13 != 0 || fld e.w0 21 4 != 0 || fld e.key 9 23 != 0 || decide (96 ≤ fld e.key 0 7)
    || !s.owns p (.elem e.elem))

/-- Reason 2: the kind or a reserved field. -/
def kindBad (bs : List Byte) : Option Nat :=
  let k := pktN bs 0 4
  if (k ≠ 1 ∧ k ≠ 2) ∨ nfld (pktN bs 0x1C 4) 9 7 ≠ 0 ∨ pktN bs 0x3C 4 ≠ 0 then some noEntry
  else if 252 < pktN bs 0x28 4 then none
  else firstBad bs (fun e => fld e.w0 25 6 != 0)

/-- Reason 3: the number of entries, or the length. -/
def lengthBad (bs : List Byte) : Bool :=
  let n := pktN bs 0x28 4
  decide (bs.length < 64 + 16 * n ∨ 64 + 16 * n + 240 ≤ bs.length)
    || (if pktN bs 0 4 = 2 then n != 0 else decide (n = 0 ∨ 252 < n))

/-- Reason 4: the region is not live, is closed or fenced, or is no region of the issuer (R331). -/
def State.regionBad (s : State) (p r : Nat) (issuer : Option Nat) : Bool :=
  match tget (s.part p).regions r with
  | none => true
  | some g => g.closed || s.domainFenced p r || (match issuer with
    | none => false
    | some i => !(s.part p).within i r)

/-- Reason 5: the die mask. -/
def State.maskBad (s : State) (p : Nat) (bs : List Byte) : Bool :=
  ((pktDies bs).isEmpty && (pktEntries bs).any (fun e => !e.isTask))
    || (pktDies bs).any (fun d => s.coh.lost.contains d || !(s.part p).tiles.any (fun n => n / 64 == d))

/-- R432: the start time, treated as 0 until the module has locked. -/
def State.startOf (s : State) (bs : List Byte) : Nat := if s.io.locked then pktN bs 0x20 8 else 0

/-- The reasons judged in Check, lowest first, with the entry that is bad (R333). -/
def State.checkBad (s : State) (p : Nat) (issuer : Option Nat) (bs : List Byte) : Option (Nat × Nat) :=
  match kindBad bs with
  | some i => some (2, i)
  | none =>
    if lengthBad bs then some (3, noEntry)
    else if s.regionBad p (pktRegion bs) issuer then some (4, noEntry)
    else if s.maskBad p bs then some (5, noEntry)
    else if s.tod + 10 ^ 10 < s.startOf bs then some (6, noEntry)
    else (firstBad bs (fun e => if e.isTask then s.taskBad p e else e.use == 0)).map (fun i => (7, i))

/-- R333: the handler packet of a rejection. -/
def State.rejectPacket (s : State) (p q c reason idx : Nat) (word0 : Word) : State :=
  s.queuePush p (tgetD (s.part p).queues q HostQ.reset).sib.toInt [w32 (0xF1000000 + reason), invocationId q c, word0, w32 idx]

/-! ## Launches -/

def State.launch? (s : State) (l : Nat) : Option Launch := tget s.launches l

/-- A launch goes to a state. -/
def State.launchTo (s : State) (l : Nat) (st : LaunchSt) : State := s.modLaunch l (fun v => { v with st := st })

/-- R349: the notices of a launch that has ended with a status. -/
def State.notices (s : State) (v : Launch) (status : Nat) : State :=
  let s := s.queuePush v.part (BitVec.ofNat 64 (pktN v.hdr 0x30 8)).toInt [w32 (0xC0000000 + status), v.id, w32 v.dones, w32 v.faults]
  let c := pktN v.hdr 0x38 4
  let x : Site := .tile (nfld c 6 9)
  if nfld c 15 1 = 1 ∧ s.owns v.part x then s.queueSem x (nfld c 0 6) 1 false [] 4 0 else s

/-- R353: the fence of a domain clears once its last invocation has retired. -/
def State.clearFence (s : State) (p r : Nat) : State :=
  let v := s.part p
  let o := v.domOf r
  if s.launches.any (fun e => e.2.part == p && decide (e.2.st ≠ .done) && v.domOf e.2.region == o) then s
  else s.modPart p (fun v => { v with domains := tmod v.domains o (fun d => { d with fenced := false }) })

/-- A launch leaves the trailhead: its closed region or fence may end with it (R330, R353). -/
def State.launchGone (s : State) (l : Nat) (v : Launch) : State :=
  ((((s.launchTo l .done).clearFence v.part v.region).releaseRegions v.part)).postEv .launchCheck { a := v.part }

/-- R333: an accepted launch is rejected in a later state. -/
def State.rejectLaunch (s : State) (l : Nat) (v : Launch) (reason idx : Nat) : State :=
  (s.rejectPacket v.part v.queue v.accepted reason idx (w32 (pktN v.hdr 0 4))).launchGone l v

/-- R336: what a failed launch pitched goes again, on each die where no other launch uses the image; with none that
uses it, what it copied goes too. -/
def State.returnImage (s : State) (l : Nat) (v : Launch) : State :=
  let k := pktKey v.part v.hdr
  let others := s.launches.filter (fun e => e.1 != l && e.2.part == v.part && decide (e.2.st ≠ .done) && pktKey v.part e.2.hdr == k)
  let mine := (v.pitched.map (fun e => (e, s.site (.tile e.1)))).filter (fun e =>
    e.2.img == some k && e.2.granted == e.1.2 && !e.2.striking && !others.any (fun o => (pktDies o.2.hdr).contains (e.1.1 / 64)))
  let s := mine.foldl (fun s e => s.beginStrike e.1.1) s
  if v.kib = 0 || !others.isEmpty then s else s.askStrike k

/-- R336, R349: a launch fails with a status. -/
def State.failLaunch (s : State) (l : Nat) (v : Launch) (status : Nat) : State :=
  let s := (s.modLaunch l (fun v => { v with status := status })).returnImage l v
  match s.launch? l with
  | none => s
  | some v => (s.notices v status).launchGone l v

/-- R353: a launch whose domain is fenced before it runs. -/
def State.fencedLaunch (s : State) (v : Launch) : Bool := s.domainFenced v.part v.region && decide (v.st ≠ .run)

/-- Number of a waiting state. -/
def LaunchSt.num : LaunchSt → Nat
  | .check => 0 | .image => 1 | .place => 2 | .arm => 3 | .run => 4 | .retire => 5 | .done => 6

/-- R336: a launch waits for a budget: its wait T begins if it has not, and the step is tried again; a T of 0 fails
it at once (R332). -/
def State.launchWaits (s : State) (l : Nat) (v : Launch) (i : Instr) : State :=
  let x : Act := .ev .launchWaitExpiry { a := l, b := v.st.num }
  if pktWait v.hdr = 0 then s.failLaunch l v 2
  else
  let s := if s.agenda.contains x then s else (s.modLaunch l (fun u => { u with since := s.work v.part })).post x
  s.postEv i { a := l }

/-! ## Check (R333, R337) -/

/-- A launch of the queue waits in Image, Place or Arm (R337). -/
def State.queueHeld (s : State) (p q : Nat) : Bool :=
  s.launches.any (fun e => e.2.part == p && e.2.queue == q && (match e.2.st with
    | .check => true | .image => true | .place => true | .arm => true | _ => false))

/-- R337: the queue to serve: the highest priority, then round-robin after the one served last. -/
def State.nextQueue (s : State) (p : Nat) : Option Nat :=
  let v := s.part p
  let q := fun (i : Nat) => tgetD v.queues i HostQ.reset
  let order := (List.range 8).map (fun i => (v.lastQueue + 1 + i) % 8)
  let ready := order.filter (fun i => !(q i).packets.isEmpty && !s.queueHeld p i)
  ready.find? (fun i => ready.all (fun j => decide ((q j).prio ≤ (q i).prio)))

/-- An accepted packet as a launch. -/
def newLaunch (p q : Nat) (m : QPacket) : Launch :=
  { part := p, queue := q, id := invocationId q m.count, accepted := m.count, region := pktRegion m.bytes, hdr := m.bytes.take 64,
    entries := pktEntries m.bytes, st := .image, since := 0, status := 0, kib := 0, armed := [], ready := false, started := [],
    dones := 0, faults := 0, sent := [], recv := [], passed := none, owners := [], owed := [], fenced := false, issuer := m.issuer }

/-- Acts on a = partition. -/
def execLaunchCheck (s : State) : Out :=
  let p := s.subj.a
  match s.nextQueue p with
  | none => .next s
  | some q =>
    match (tgetD (s.part p).queues q HostQ.reset).packets with
    | [] => .next s
    | m :: rest =>
      let s := s.modPart p (fun v => { v.modQueue q (fun h => { h with packets := rest }) with lastQueue := q })
      let again := fun (s : State) => Host.Outcome.next (s.postEv .launchCheck { a := p })
      match s.checkBad p m.issuer m.bytes with
      | some (r, i) => again (s.rejectPacket p q m.count r i (w32 (pktN m.bytes 0 4)))
      | none =>
        if pktN m.bytes 0 4 = 2 then again (s.askStrike (pktKey p m.bytes))
        else
          let l := s.fresh
          let s := { s with launches := tset s.launches l (newLaunch p q m) }.bump
          again (s.postEv .launchImage { a := l })

/-! ## Image (R333, R336, R340) -/

/-- R43, R340: a stage has an instance on a die: it is not pinned elsewhere. -/
def stageOn (bs : List Byte) (stage die : Nat) : Bool :=
  let pins := (imgTileList bs).filter (fun w => tleStage w == stage)
  pins.isEmpty || pins.any (fun w => tleTile w / 64 == die)

/-- The parts of reason 7 that need the image, for one entry. -/
def entryBad (bs : List Byte) (dies : List Nat) (e : Entry) : Bool :=
  !e.isTask && (!routeTo bs e.stage e.cell e.ip || !dies.any (stageOn bs e.stage))

def imageJudge (bs : List Byte) (v : Launch) : Option Nat :=
  (v.entries.mapIdx (fun i e => (i, e))).findSome? (fun q => if entryBad bs (pktDies v.hdr) q.2 then some q.1 else none)

/-- R46, R48, R336: the image is rejected. -/
def State.loadFails (s : State) (l : Nat) (v : Launch) (b : LoadBad) (version : Nat) : State :=
  let w : Who := ⟨⟨.tile 0, 0⟩, v.part, v.region, l, 0, 0, 0, 0, 0⟩
  let s := s.raise w 0x0100 (b.details version)
  match s.launch? l with
  | none => s
  | some v => s.failLaunch l v 1

/-- What the Image state finds. -/
inductive ImgRes
  | waitStrike
  | waitStore
  | unreadable
  | bad (b : LoadBad) (version : Nat)
  | entry (i : Nat)
  | resident
  | copied (m : Image)
  | waitFar

/-- R333, R336: judge the entries, then go on. -/
def imgDone (v : Launch) (bs : List Byte) (r : ImgRes) : ImgRes :=
  match imageJudge bs v with
  | some i => .entry i
  | none => r

/-- The trailhead's reads for a launch. -/
def Launch.reader (v : Launch) (l : Nat) : Who := ⟨⟨.syrad 0, 0⟩, v.part, v.region, l, 0, 0, 0, 0, 0⟩

/-- R49, R333, R336: the image of a launch: resident, or read and checked. -/
def State.imageStep (s : State) (l : Nat) (v : Launch) : State × ImgRes :=
  let k := pktKey v.part v.hdr
  match s.image? k with
  | some m => (s, if s.strikeBegun k then .waitStrike else imgDone v m.bytes .resident)
  | none =>
    let va := (BitVec.ofNat 64 (pktN v.hdr 8 8)).toInt
    match s.readRange (v.reader l) va 64 with
    | .wait s => (s, .waitFar)
    | .fail s => (s, .unreadable)
    | .ok s h =>
      match headerBad h with
      | some o => (s, .bad ⟨10, 4, noPlace, noPlace, noPlace, imgW h o⟩ (imgVersion h))
      | none =>
        let kib := (imgTotal h + 1023) / 1024
        if !s.fits v.part v.region itemStore kib then (s, .waitStore)
        else match s.readRange (v.reader l) va (imgTotal h) with
          | .wait s => (s, .waitFar)
          | .fail s => (s, .unreadable)
          | .ok s bs =>
            (s, match imageBad bs (s.part v.part).tiles .tile with
              | some b => .bad b (imgVersion bs)
              | none => imgDone v bs (.copied ⟨k, bs, kib, s.agenda.contains (strikeAct k), v.region, false⟩))

/-- Acts on a = launch. -/
def execLaunchImage (s : State) : Out :=
  let l := s.subj.a
  match s.launch? l with
  | none => .next s
  | some v =>
    if v.st ≠ .image then .next s
    else if s.fencedLaunch v then .next (s.rejectLaunch l v 4 noEntry)
    else
      let go := fun (s : State) => Host.Outcome.next ((s.launchTo l .place).postEv .launchPlace { a := l })
      let r := s.imageStep l v
      let s := r.1
      match r.2 with
      | .waitFar => .next (s.postEv .launchImage { a := l })
      | .waitStrike => .next (s.postEv .launchImage { a := l })
      | .waitStore => .next (s.launchWaits l v .launchImage)
      | .unreadable => .next (s.rejectLaunch l v 8 noEntry)
      | .bad b ver => .next (s.loadFails l v b ver)
      | .entry i => .next (s.rejectLaunch l v 7 i)
      | .resident => go s
      | .copied m => go ({ s with images := s.images ++ [m] }.modLaunch l (fun v => { v with kib := m.kib }))

/-! ## Place (R336, R417) -/

/-- The tiles that a stage of an image is to take on a die, none where they are not to be had. -/
def State.stageWants (s : State) (k : ImgKey) (bs : List Byte) (stage die : Nat) : Option (List Nat × Bool) :=
  let pins := (imgTileList bs).filter (fun w => tleStage w == stage)
  if pins.isEmpty then
    let free := (dieTiles die).filter (s.freeTile k.part)
    if free.length < imgInitial bs stage then none else some (free.take (imgInitial bs stage), false)
  else
    let ts := (pins.map tleTile).filter (fun n => n / 64 == die)
    if ts.all (s.freeTile k.part) then some (ts, true) else none

/-- R336: pitch the stages of a die that are not resident, or whose tiles are all being struck, in order, as far as tiles and budget go; false
where a stage has to wait. -/
def State.placeStages (s : State) (k : ImgKey) (bs : List Byte) (region die : Nat) : List Nat → State × Bool
  | [] => (s, true)
  | st :: sts =>
    if !stageOn bs st die || (s.stageTiles k die st).any (fun n => !(s.site (.tile n)).striking) then s.placeStages k bs region die sts
    else match s.stageWants k bs st die with
      | none => (s, false)
      | some (ts, pin) =>
        if !s.fits k.part region itemTiles ts.length then (s, false)
        else (ts.foldl (fun s n => s.pitchTile n k (recCells (imgRecs bs st)) st region true pin) s).placeStages k bs region die sts

/-- R336: the Place state of a launch on every die of its mask. -/
def State.placeStep (s : State) (v : Launch) (m : Image) : State × Bool :=
  (pktDies v.hdr).foldl (fun r d =>
    let q := r.1.placeStages m.key m.bytes v.region d (List.range (imgStages m.bytes))
    (q.1, r.2 && q.2)) (s, true)

/-- The tiles of an image that were granted from number n on, with their numbers. -/
def State.grantedFrom (s : State) (k : ImgKey) (n : Nat) : List (Nat × Nat) :=
  ((s.imageTiles k).map (fun i => (i, (s.site (.tile i)).granted))).filter (fun e => decide (n ≤ e.2))

/-- R345: regions of the partition whose quantum timers run while a launch of region `r` waits in Place. -/
def State.quantumRegions (s : State) (p r : Nat) : List Nat :=
  let v := s.part p
  let prio : Nat → Nat := fun x => match tget v.regions x with | none => 0 | some g => g.prio
  (v.regions.filter (fun e => e.1 != r && v.eff e.1 itemQuantum != 0 && decide (e.2.prio ≤ prio r)
    && s.launches.any (fun l => l.2.part == p && l.2.region == e.1 && decide (l.2.st = .run)))).map (fun e => e.1)

/-- R345: start the timers that a waiting launch makes run. -/
def State.startQuanta (s : State) (p r : Nat) : State :=
  (s.quantumRegions p r).foldl (fun s x =>
    if s.agenda.any (fun a => match a with | .ev .quantumExpiry y => y.a == p && y.b == x | _ => false) then s
    else s.postEv .quantumExpiry { a := p, b := x, c := s.work p }) s

/-- Acts on a = launch. -/
def execLaunchPlace (s : State) : Out :=
  let l := s.subj.a
  match s.launch? l with
  | none => .next s
  | some v =>
    if v.st ≠ .place then .next s
    else if s.fencedLaunch v then .next ((s.returnImage l v).rejectLaunch l v 4 noEntry)
    else match s.image? (pktKey v.part v.hdr) with
      | none => .next (s.rejectLaunch l v 8 noEntry)
      | some m =>
        let r := s.placeStep v m
        let new := r.1.grantedFrom m.key s.fresh
        let v := { v with pitched := v.pitched ++ new }
        let b := if new.isEmpty then r.1 else r.1.modLaunch l (fun w => { w with pitched := v.pitched })
        if !r.2 then .next ((b.launchWaits l v .launchPlace).startQuanta v.part v.region)
        else if (b.imageTiles m.key).any (fun n => (b.site (.tile n)).pitching) then .next (b.postEv .launchPlace { a := l })
        else .next ((b.launchTo l .arm).postEv .launchArm { a := l })

/-! ## Arm (R334, R336, R340, R341) -/

/-- R340. -/
def score (key : Word) (seed d : Nat) : Nat := mix64 (key.toNat * 2 ^ 32 + seed * 2 ^ 8 + d)

/-- R340: the die of an entry: the largest score among the dies with an instance of its stage, the lower die
among equals. -/
def entryDie (bs : List Byte) (dies : List Nat) (seed : Nat) (e : Entry) : Option Nat :=
  let ds := dies.filter (stageOn bs e.stage)
  ds.find? (fun d => ds.all (fun x => decide (score e.key seed x < score e.key seed d ∨ (score e.key seed x = score e.key seed d ∧ d ≤ x))))

def kindOf : Nat → TokKind
  | 0 => .data | 1 => .scale | 2 => .config | _ => .control

/-- The initial token of an entry at its agent (R332). -/
def Entry.token (e : Entry) (l : Nat) (v : Launch) (ag : Agent) (frame : BitVec 20) (port kind : Nat) : Token :=
  { id := 0, tag := { frame := frame, ip := BitVec.ofNat 8 e.ip, port := BitVec.ofNat 2 port, wave := e.wave, colour := 0, width := 1,
                      eod := 0, kind := kindOf kind, block := 0 },
    data := [.ok e.payload], dst := ag.site, cell := ag.cell, fslot := 0, src := ag, part := v.part, region := v.region, inv := l,
    held := false, unres := none, at_ := 0, initial := true }

/-- R334, R341: one entry is armed on its die: a task packet for its element, or a token with a frame at the
instance tile; none where no tile is open or no frame can be had. -/
def State.armEntry (s : State) (l : Nat) (v : Launch) (m : Image) (e : Entry) : Option (State × Nat × Token) :=
  if e.isTask then some (s, 8 + e.elem / 96, e.token l v ⟨.elem e.elem, 0⟩ 0 0 0)
  else match entryDie m.bytes (pktDies v.hdr) (pktSeed v.hdr) e with
    | none => none
    | some d =>
      match choose (s.openTiles d (fun x => x.img == some m.key && x.stage == e.stage)) (e.key.toNat * 2 ^ 16 + e.wave.toNat) with
      | none => none
      | some n =>
        match s.allocFrame (.tile n) 0 e.use v.part v.region l with
        | none => none
        | some (s', f) => some (s', d, e.token l v ⟨.tile n, e.cell⟩ f e.port e.kind)

/-- The entries armed in order, per die. -/
def State.armAll (s : State) (l : Nat) (v : Launch) (m : Image) : List Entry → Tbl Nat (List Token) → Option (State × Tbl Nat (List Token))
  | [], t => some (s, t)
  | e :: es, t =>
    match s.armEntry l v m e with
    | none => none
    | some (s', d, k) => (s'.bump).armAll l v m es (tset t d (tgetD t d [] ++ [{ k with id := s'.fresh }]))

/-- R395: the owner table that a launch reads; an entry that cannot be read is not valid. -/
def State.readOwners (s : State) (p : Nat) (far : Int → Option (List Byte) := fun _ => none) : List Word :=
  let v := s.part p
  (List.range v.owncnt.toNat).map (fun i =>
    match s.readVa p (.syrad 0) (v.ownbase.toInt / 4 * 4 + (4 * i : Nat)) 4 far with
    | none => 0
    | some bs => w32 (leNat bs))

/-- R428: the entries of the owner table that another module holds. -/
def State.farOwners (s : State) (p : Nat) : List (Int × Nat × Nat) :=
  let v := s.part p
  (List.range v.owncnt.toNat).flatMap (fun i => s.farPieces p (.syrad 0) (v.ownbase.toInt / 4 * 4 + (4 * i : Nat)) 4)

/-- R307, R317: an entry of the owner table is held. -/
def State.ownersHeld (s : State) (p : Nat) : Bool :=
  let v := s.part p
  (List.range v.owncnt.toNat).any (fun i => s.hwHolds p (.syrad 0) (v.ownbase.toInt / 4 * 4 + (4 * i : Nat)))

/-- R336: a launch holds for its start, ready on every die of its share. -/
def State.armed (s : State) (l : Nat) (t : Tbl Nat (List Token)) (owners : List Word) : State :=
  t.foldl (fun s e => s.postEv .launchStart { a := l, b := e.1 })
    (s.modLaunch l (fun v => { v with armed := t, ready := true, owners := owners }))

/-- Acts on a = launch. -/
def execLaunchArm (s : State) : Out :=
  let l := s.subj.a
  match s.launch? l with
  | none => .next s
  | some v =>
    if v.st ≠ .arm ∨ v.ready then .next s
    else if s.ownersHeld v.part then .next (s.postEv .launchArm { a := l })
    else if s.fencedLaunch v then .next ((s.returnImage l v).rejectLaunch l v 4 noEntry)
    else match s.image? (pktKey v.part v.hdr) with
      | none => .next (s.rejectLaunch l v 8 noEntry)
      | some m =>
        let go := fun (s' : State) (owners : List Word) => match s'.armAll l v m v.entries [] with
          | none => Host.Outcome.next (s.launchWaits l v .launchArm)
          | some (s', t) => .next (s'.armed l t owners)
        match s.farOwners v.part with
        | [] => go s (s.readOwners v.part)
        | qs => match s.farRead (v.reader l) qs with
          | .wait s => .next (s.postEv .launchArm { a := l })
          | .fail s' => go s' (s.readOwners v.part)
          | .ok s' bs => go s' (s.readOwners v.part (farBytes qs bs))

/-! ## Start (R334, R341) -/

/-- The frames of a launch are freed (R336). -/
def State.freeFrames (s : State) (l : Nat) : State :=
  let out := fun (v : SiteSt) => { v with frames := v.frames.filter (fun f => f.2.inv != l) }
  { s with sites := s.sites.map (fun e => (e.1, out e.2))
           biv := s.biv.map (fun e => (e.1, { e.2 with site := out e.2.site })) }

/-- A token reaches its target as over the fabric of its die. -/
def State.startTok (s : State) (k : Token) : State := { s with fabric := s.fabric ++ [k] }.postEv .tokenIngressArrival { a := k.id }

/-- R324, R334: tokens start in order; a task packet waits while its element would take the region above its
budget, and holds the later ones for that element; a token for a tile whose work is swapped out waits for the resume, and
the later ones for tiles with it (R341, R373). -/
def State.startToks (s : State) (ks : List Token) : State × List Token :=
  let waits := fun (r : State × List Token) (k : Token) => r.2.any (fun m => m.dst == k.dst) || r.1.taskWaits k
    || (isTile k.dst && (r.1.away k.dst k.inv || r.2.any (fun m => isTile m.dst)))
  ks.foldl (fun r k => if waits r k then (r.1, r.2 ++ [k]) else (r.1.startTok k, r.2)) (s, [])

/-- R324, R341: a die's tokens are delivered in entry order; a task packet waits while its element would take
the region above its budget. Acts on a = launch, b = die. -/
def execLaunchStart (s : State) : Out :=
  let l := s.subj.a
  match s.launch? l with
  | none => .next s
  | some v =>
    if !v.ready || !(v.st == .arm || v.st == .run) then .next s
    else if s.fencedLaunch v then .next (((s.freeFrames l).returnImage l v).rejectLaunch l v 4 noEntry)
    else if s.tod < s.startOf v.hdr then .next (s.postEv .launchStart s.subj)
    else
      let d := s.subj.b
      let r := s.startToks (tgetD v.armed d [])
      let s := r.1.modLaunch l (fun v => { v with
        st := .run, armed := if r.2.isEmpty then tdel v.armed d else tset v.armed d r.2
        started := if v.started.contains d then v.started else v.started ++ [d] })
      let s := if r.2.isEmpty then s else s.postEv .launchStart { a := l, b := d }
      .next (s.postEv .launchCheck { a := v.part })

/-! ## The wait T (R336) -/

/-- A launch still waits for a budget in its state. -/
def State.launchBlocked (s : State) (l : Nat) (v : Launch) : Bool :=
  match v.st with
  | .image => (match (s.imageStep l v).2 with | .waitStore => true | _ => false)
  | .place => (match s.image? (pktKey v.part v.hdr) with | none => false | some m => !(s.placeStep v m).2)
  | .arm => !v.ready && (match s.image? (pktKey v.part v.hdr) with | none => false | some m => (s.armAll l v m v.entries []).isNone)
  | _ => false

/-- Acts on a = launch, b = the state whose wait it is. -/
def execLaunchWaitExpiry (s : State) : Out :=
  let l := s.subj.a
  match s.launch? l with
  | none => .next s
  | some v =>
    let T := pktWait v.hdr
    if v.st.num ≠ s.subj.b ∨ T = 0xFFFFFFFF ∨ !s.launchBlocked l v then .next s
    else if s.work v.part < v.since + T * cyclesPerUs then .next (s.postEv .launchWaitExpiry s.subj)
    else .next (s.failLaunch l v 2)

/-! ## Completion (R348) -/

/-- R348: the invocation's own work still counts somewhere. -/
def State.liveWork (s : State) (l : Nat) : Bool :=
  let tok := fun (k : Token) => k.inv == l
  s.fabric.any tok
    || s.sites.any (fun e => e.2.egress.any tok || e.2.ingress.any tok || e.2.frames.any (fun f => f.2.toks.any (fun k => tok k.2))
        || e.2.copies.any (fun c => c.2.who.inv == l) || e.2.chains.any (fun c => c.2.who.inv == l))
    || s.cells.any (fun c => c.2.queues.any (fun q => q.2.any tok))
    || s.threads.any (fun t => t.2.inv == l) || s.accs.any (fun a => a.2.who.inv == l)
    || s.elems.any (fun e => (e.2.queue ++ e.2.running.toList).any (fun m => m.who.inv == l))
    || s.semOps.any (fun o => o.2.inv == l) || s.closes.any (fun c => c.2.who.inv == l) || s.biv.any (fun b => b.2.invs.contains l)

/-- R348: ΣS and ΣV. -/
def Launch.sums (v : Launch) : Nat × Nat := ((v.sent.map (fun e => e.2)).foldl (· + ·) 0, (v.recv.map (fun e => e.2)).foldl (· + ·) 0)

/-- R348: a polling round for one invocation. -/
def State.pollOne (s : State) (l : Nat) (v : Launch) : State :=
  if v.st ≠ .run then s
  else
    let q := v.sums
    if s.liveWork l || !v.armed.isEmpty || q.1 != q.2 then s.modLaunch l (fun v => { v with passed := none })
    else if v.passed = some q.1 then
      ((s.modLaunch l (fun v => { v with owed := s.coh.colls.map (fun c => c.id) })).launchTo l .retire).postEv .invocationRetire { a := l }
    else s.modLaunch l (fun v => { v with passed := some q.1 })

/-- R348: every 2 µs. Acts on b = due cycle. -/
def execCompletionPoll (s : State) : Out :=
  if s.cycle < s.subj.b then .next (s.postEv .completionPoll s.subj)
  else .next ((s.launches.foldl (fun s e => s.pollOne e.1 e.2) s).postEv .completionPoll { b := s.subj.b + 2 * cyclesPerUs })

/-! ## Retirement (R349) -/

/-- R349: every write of the invocation has performed at `.sys` before the notices. Acts on a = launch. -/
def execInvocationRetire (s : State) : Out :=
  let l := s.subj.a
  match s.launch? l with
  | none => .next s
  | some v =>
    if v.st ≠ .retire then .next s
    else if !(s.owing v.owed).isEmpty then .next (s.postEv .invocationRetire { a := l })
    else
      let status := if v.fenced then 3 else 0
      let s := (s.freeFrames l).modLaunch l (fun v => { v with status := status })
      let s := (s.notices v status).notify (0x2000 + v.part) v.id
      let s := if nfld (pktN v.hdr 0x1C 4) 8 1 = 1 then s.askStrike (pktKey v.part v.hdr) else s
      .next (s.launchGone l v)

/-! ## Host queues (R337) -/

/-- R333, R337: a partly fetched packet of a destroyed queue is dropped, with its handler packet. -/
def State.dropPartial (s : State) (m : Packet) : State :=
  let w0 := match tget m.flits 0 with | some bs => w32 (pktN bs 0 4) | none => Config.word s.tick 2
  s.rejectPacket m.part m.queue ((tgetD (s.part m.part).queues m.queue HostQ.reset).accepted + 1) 1 noEntry w0

/-- R337: writing live := 0 destroys a queue. Acts on a = partition, b = queue, d = thread, v = value. -/
def execHostQueueDestroy (s : State) : Out :=
  let p := s.subj.a
  let q := s.subj.b
  let mine := fun (m : Packet) => m.part == p && m.queue == q
  let gone := s.io.packets.filter mine
  let s := s.modPart p (fun v => v.cwPut 0x800 q s.subj.v.toNat)
  let s : State := { s with io := { s.io with packets := s.io.packets.filter (fun m => !mine m) } }
  .next ((gone.foldl State.dropPartial s).endCycle.cwSet s.subj.d)

/-! ## Periods (R325) -/

/-- R325: a period begins; the counts of every region restart, but for what the new period has already counted.
Acts on b = due time of day. -/
def execPeriodBoundary (s : State) : Out :=
  if s.tod < s.subj.b then .next (s.postEv .periodBoundary s.subj)
  else
    let s : State := { s with parts := s.parts.map (fun e => (e.1, e.2.inPeriod s.period)) }
    .next (s.postEv .periodBoundary { b := (s.tod / 50000 + 1) * 50000 })

end Sys2Proof.Machine
end

