-- ==== Sys2Proof/Machine/Matrix.lean ====
section
/-! DEFINITION. Group 0xD and the matrix elements: alignment (R178 to R180), accumulator entries (R181 to R183),
the queue (R185 to R189), each instruction as it runs (R190 to R201), its faults (R203). -/

namespace Sys2Proof.Machine

/-! ## Alignment (R178, R179) -/

def isIntFmt (fmt : Nat) : Bool := decide (fmt ≤ 1)

/-- Element bits of a format code of R192. -/
def mxBits (fmt : Nat) : Nat := if fmt = 1 then 4 else if fmt = 4 then 16 else 8

/-- The floating format of a code of R192. -/
def mxFmt (fmt : Nat) : Fmt := if fmt = 2 then e4m3 else if fmt = 3 then e5m2 else bf16

/-- Elements packed little-endian, low nibble first (R147). -/
def unpackElems (fmt : Nat) (bs : List Byte) : List Nat :=
  match fmt with
  | 1 => bs.flatMap (fun b => [b.toNat % 16, b.toNat / 16])
  | 4 => (List.range (bs.length / 2)).map (fun i => (bs.getD (2 * i) 0).toNat + 256 * (bs.getD (2 * i + 1) 0).toNat)
  | _ => bs.map (fun b => b.toNat)

/-- RoundNearestEven of m × 2^e. -/
def rneShift (neg : Bool) (m : Nat) (e : Int) : Int :=
  let q : Nat := if 0 ≤ e then m * 2 ^ e.toNat else roundQ 0 neg m (2 ^ (-e).toNat)
  if neg then -(q : Int) else q

/-- R178: the windows, the exponent and the bad mark of a block of 32 elements. -/
def alignBlock (fmt : Nat) (xs : List Nat) : List Int × Int × Bool :=
  if isIntFmt fmt then (xs.map (fun x => sxN (mxBits fmt) x), 13, false)
  else
    let vs := xs.map (mxFmt fmt).val
    let bad := vs.any (fun v => match v with | .fin _ _ _ => false | _ => true)
    let exps := vs.filterMap (fun v => match v with
      | .fin _ m e => if m = 0 then none else some ((Nat.log2 m : Int) + e)
      | _ => none)
    match exps with
    | [] => (xs.map (fun _ => 0), 0, bad)
    | x :: r =>
      let E := r.foldl max x
      (vs.map (fun v => match v with | .fin s m e => rneShift s m (e + 13 - E) | _ => 0), E, bad)

/-- A column of a weight block that was never loaded (R193). -/
def WCol.zero : WCol := ⟨List.replicate 32 0, 13, false⟩

def Elem.block (e : Elem) (b : Nat) : WBlock := tgetD e.blocks b ⟨0, []⟩
def WBlock.col (w : WBlock) (n : Nat) : WCol := tgetD w.cols n WCol.zero

/-- R179: the exact product of two blocks. -/
def dotBlock (xs ys : List Int) : Int := (List.zipWith (· * ·) xs ys).foldl (· + ·) 0

/-! ## Accumulator entries (R181 to R183) -/

def bitLen (n : Nat) : Nat := if n = 0 then 0 else Nat.log2 n + 1

/-- An entry that MZERO leaves in a row of this base. -/
def AccEnt.zero (beta : Int) : AccEnt := ⟨0, 0, 0, false, beta, 0, 0, false⟩

def Elem.ent (e : Elem) (i n : Nat) : AccEnt := tgetD e.acc (i * 128 + n) (.zero (tgetD e.pins i 0))
def Elem.setEnt (e : Elem) (i n : Nat) (a : AccEnt) : Elem := { e with acc := tset e.acc (i * 128 + n) a }

def AccEnt.tri (a : AccEnt) : Tri := ⟨a.c0, a.c1, a.c2⟩
def AccEnt.setTri (a : AccEnt) (t : Tri) : AccEnt := { a with c0 := t.c0, c1 := t.c1, c2 := t.c2 }

/-- S(T) × 2^β. -/
def AccEnt.sum (a : AccEnt) : FV := let n := a.tri.int; .fin (decide (n < 0)) n.natAbs a.beta

/-- R182. -/
def AccEnt.fold (a : AccEnt) : AccEnt :=
  { a.setTri Tri.zero with f := rnd32 0 ((F a.f).add 0 (F (rnd32 0 a.sum))), u := 0, folded := true }

/-- R182: a fresh start. -/
def AccEnt.start (a : AccEnt) (P eP : Int) : AccEnt := { a.setTri (Tri.ofInt P) with beta := eP, u := P.natAbs }

/-- R183: add to an entry of a pinned row; whether its bound would exceed the fold limit. -/
def AccEnt.addPinned (a : AccEnt) (lam : Nat) (P eP : Int) : AccEnt × Bool :=
  let q := if eP < a.beta then rneShift (decide (P < 0)) P.natAbs (eP - a.beta) else P
  let s := (eP - a.beta).toNat
  if q = 0 then (a, false)
  else
    let u := a.u + q.natAbs * 2 ^ s
    if lam < bitLen u then ({ a with pois := true }, true)
    else ({ a.setTri (a.tri.add ((Tri.ofInt q).mul (Tri.ofInt (2 ^ s)))) with u := u }, false)

/-- R182: add a block to an entry; whether the "residue range" fault is due. -/
def AccEnt.addBlock (a : AccEnt) (lam : Nat) (pinned : Bool) (P eP : Int) (integer : Bool) : AccEnt × Bool :=
  if P = 0 then (a, false)
  else if pinned then a.addPinned lam P eP
  else if a.u = 0 then (a.start P eP, false)
  else
    let s := (eP - a.beta).toNat
    let d := (a.beta - eP).toNat
    let u := a.u * 2 ^ d + P.natAbs * 2 ^ s
    if lam < bitLen u then
      (if integer then ({ a with pois := true }, true) else (a.fold.start P eP, false))
    else
      let t := (a.tri.mul (Tri.ofInt (2 ^ d))).add ((Tri.ofInt P).mul (Tri.ofInt (2 ^ s)))
      ({ a.setTri t with beta := if a.beta ≤ eP then a.beta else eP, u := u }, false)

/-- R180: the entry's fold register takes the canonical NaN. -/
def AccEnt.spoil (a : AccEnt) : AccEnt := { a with f := canonNaN }

/-- R195: one block pair at one entry. -/
def Elem.addAt (e : Elem) (i n : Nat) (bad : Bool) (P eP : Int) (integer : Bool) : Elem × Bool :=
  let a := e.ent i n
  let a := if bad then a.spoil else a
  let r := if bad then (a, false) else a.addBlock e.lam (tget e.pins i).isSome P eP integer
  if r.1 = e.ent i n then (e, r.2) else (e.setEnt i n r.1, r.2)

/-- R195: one A block of row i against a weight block, in every column; the columns that overflow. -/
def Elem.addRowBlock (e : Elem) (i fmt b : Nat) (xs : List Nat) : Elem × List Nat :=
  let a := alignBlock fmt xs
  let w := e.block b
  (List.range 128).foldl (fun (r : Elem × List Nat) n =>
    let c := w.col n
    let q := r.1.addAt i n (a.2.2 || c.bad) (dotBlock a.1 c.w) (a.2.1 + c.eb - 26 + tgetD e.g (b * 128 + n) 0) (isIntFmt fmt)
    (q.1, if q.2 then r.2 ++ [n] else r.2)) (e, [])

/-- R200: a weight of the lookup store. -/
def Elem.lutWeight (e : Elem) (k n : Nat) : Int :=
  let bitOf := fun (p : List Byte) => if (p.getD (64 * (k / 4) + n / 2) 0).getLsbD (4 * (n % 2) + k % 4) then (1 : Int) else -1
  if e.lutTwo then 2 * bitOf e.lut1 + bitOf e.lut0 else bitOf e.lut0

/-- R200: one row of MLUT: 16 blocks of 32 activations. -/
def Elem.addLutRow (e : Elem) (i : Nat) (xs : List Int) : Elem × List Nat :=
  (List.range 16).foldl (fun (r : Elem × List Nat) b =>
    (List.range 128).foldl (fun (r : Elem × List Nat) n =>
      let P := ((List.range 32).map (fun j => xs.getD (32 * b + j) 0 * e.lutWeight (32 * b + j) n)).foldl (· + ·) 0
      let q := r.1.addAt i n false P 0 true
      (q.1, if q.2 then r.2 ++ [n] else r.2)) r) (e, [])

/-! ## The stage (R190) -/

def stageSize : Nat := 2097152

/-- Bytes that the array reads: zero above the stage. -/
def Elem.read (e : Elem) (o n : Nat) : List Byte := (List.range n).map (fun i => if o + i < stageSize then tgetD e.stage (o + i) 0 else 0)

/-- R190: the first read above the stage is recorded for the partition. -/
def State.noteOob (s : State) (w : Who) (reads : List (Nat × Nat)) : State :=
  match reads.find? (fun r => decide (0 < r.2 ∧ stageSize < r.1 + r.2)) with
  | none => s
  | some r => s.modPart w.part (fun v => if bit v.mxOob 31 then v else
      { v with mxOob := w32 (2 ^ 31 + w.ip % 256 * 2 ^ 16 + w.opc % 256 * 2 ^ 8), mxOobAdr := w32 (max r.1 stageSize) })

/-! ## Issue (R185, R189) -/

/-- What an instruction of the group uses. -/
structure MxUse where
  a : Bool := true
  b : Bool := true
  rows : Bool := true

def mxUse (op : Nat) (lit : Word) : MxUse :=
  let kind := fld lit 9 2
  match op with
  | 0xD0 => { rows := false, b := decide (fld lit 0 3 < 5) }
  | 0xD6 => { a := false }
  | 0xD9 => { a := false }
  | 0xD7 => { a := kind != 3, b := kind == 0 || kind == 3, rows := kind == 0 || kind == 3 }
  | 0xD8 => { a := kind != 1, b := decide (kind ≤ 1), rows := decide (kind ≤ 1) }
  | _ => {}

/-- R192: the row count. -/
def mxRows (op : Nat) (lit b : Word) : Nat := if op = 0xD7 ∧ fld lit 9 2 = 3 then fld b 8 10 else fld b 0 10

/-- R192: limits of A. -/
def mxLimit (op : Nat) (lit a : Word) : Bool :=
  if op ≠ 0xD8 then true
  else match fld lit 9 2 with
    | 0 => decide (-512 ≤ Sx a ∧ Sx a ≤ 511)
    | 2 => decide (34 ≤ Zx a ∧ Zx a ≤ 46)
    | _ => true

/-- The v of an instruction that queues nothing. -/
def mxBad (t : Thread) (f : Fields) : Eff := .val ((t.as f).map (fun x => { x with pois := true }))

/-- R189, R203: a "matrix operand" fault at issue. -/
def State.mxRefuse (s : State) (t : Thread) (f : Fields) (op reason : Nat) : Body :=
  .ok (s.raise (t.who op) 0x0109 ((t.who op).details203 reason 0)) (mxBad t f)

/-- A queued instruction. -/
def newMx (op : Nat) (lit a b : Word) (u : Nat) (w : Who) (id : Nat) (gate : List Nat) : MxInstr :=
  { op := op, lit := lit, a := a, b := b, uid := u, who := w, id := id, gate := gate, row := 0, done := false, drain := none,
    parked := none, owed := [], sent := [], sup := 0, supEa := none, ranged := false }

/-- R185: waiting and running instructions of an element. -/
def Elem.busy (e : Elem) : Nat := e.queue.length + e.running.toList.length

/-- R189: the checks of issue, then `k` on the control cell's element. -/
def State.mxChecked (s : State) (t : Thread) (f : Fields) (op : Nat) (k : Nat → Body) : Body :=
  let use := mxUse op f.lit
  let a := t.a0 f
  let b := t.b0 f
  match t.src.site with
  | .elem e =>
    if (use.a && a.pois) || (use.b && b.pois) then .ok s (mxBad t f)
    else if t.selLanes.isEmpty then .ok s {}
    else if use.rows && (mxRows op f.lit b.w == 0 || decide (512 < fld f.lit 0 9 + mxRows op f.lit b.w)) then s.mxRefuse t f op 2
    else if !mxLimit op f.lit a.w then s.mxRefuse t f op 6
    else k e
  | _ => if t.selLanes.isEmpty then .ok s {} else s.mxRefuse t f op 1

/-- R189, R212: the thread's instruction is queued, so that it counts in `nmx`. -/
def Thread.queuesMx (t : Thread) (f : Fields) (op : Nat) : Bool :=
  let use := mxUse op f.lit
  let a := t.a0 f
  let b := t.b0 f
  isElem t.src.site && !((use.a && a.pois) || (use.b && b.pois)) && !t.selLanes.isEmpty
    && !(use.rows && (mxRows op f.lit b.w == 0 || decide (512 < fld f.lit 0 9 + mxRows op f.lit b.w))) && mxLimit op f.lit a.w

/-- R185: queue an instruction of the group. -/
def State.mxInstr (s : State) (f : Fields) (op : Nat) : Out :=
  s.instr f { opc := op, b := (mxUse op f.lit).b, ctr := some .mx, counts := fun t => t.queuesMx f op } (fun u t =>
    s.mxChecked t f op (fun e =>
      if 16 ≤ (s.elem e).busy then .hold s
      else
        let m := newMx op f.lit (t.a0 f).w (t.b0 f).w u (t.who op) s.fresh (s.cmdGate u)
        let v := s.elem e
        let s := (s.bump.setElem e { v with queue := v.queue ++ [m] }).modThr u (fun t => t.addCtr .mx)
        .ok (s.postEv .matrixQueueStart { a := e }) (.val (t.as f))))

/-- R192, R194. -/
def execMload (f : Fields) (s : State) : Out := s.mxInstr f 0xD0
/-- R192, R195. -/
def execMma (f : Fields) (s : State) : Out := s.mxInstr f 0xD1
/-- R192, R195, R196. -/
def execMmas (f : Fields) (s : State) : Out := s.mxInstr f 0xD2
/-- R192, R200. -/
def execMlut (f : Fields) (s : State) : Out := s.mxInstr f 0xD3
/-- R192, R199. -/
def execMunf (f : Fields) (s : State) : Out := s.mxInstr f 0xD4
/-- R192, R197. -/
def execMdrn (f : Fields) (s : State) : Out := s.mxInstr f 0xD5
/-- R192, R201. -/
def execMzero (f : Fields) (s : State) : Out := s.mxInstr f 0xD6
/-- R192, R198. -/
def execMscl (f : Fields) (s : State) : Out := s.mxInstr f 0xD7
/-- R192, R201. -/
def execMfold (f : Fields) (s : State) : Out := s.mxInstr f 0xD9

/-- R201: the state word of an entry. -/
def Elem.stateWord (e : Elem) (i n : Nat) : Word :=
  let a := e.ent i n
  let one := fun (c : Bool) (k : Nat) => if c then 2 ^ k else 0
  w32 (one a.pois 31 + one (a.f == canonNaN) 30 + one (tget e.pins i).isSome 29 + one a.folded 28 + one (a.u == 0) 27
    + bitLen a.u % 64 * 2 ^ 16 + (a.beta % 1024).toNat)

/-- R185, R201: the read form holds until the queue is empty; the other forms are queued. -/
def execMbnd (f : Fields) (s : State) : Out :=
  if fld f.lit 9 2 ≠ 3 then s.mxInstr f 0xD8
  else s.instr f { opc := 0xD8, b := false, cyc := 4 } (fun _ t =>
    s.mxChecked t f 0xD8 (fun e =>
      if (s.elem e).busy ≠ 0 then .hold s
      else .ok s (.val (t.all (.ok ((s.elem e).stateWord (fld f.lit 0 9) (fld (t.a0 f).w 0 7)))))))

/-! ## A running instruction -/

def State.setRun (s : State) (e : Nat) (m : MxInstr) : State := let v := s.elem e; s.setElem e { v with running := some m }

def MxInstr.r (m : MxInstr) : Nat := fld m.lit 0 9
def MxInstr.nr (m : MxInstr) : Nat := if (mxUse m.op m.lit).rows then mxRows m.op m.lit m.b else 0

/-- The instruction has nothing left to do. -/
def State.mxDone (s : State) (e : Nat) (m : MxInstr) : State := (s.setRun e { m with done := true }).postEv .matrixInstructionFinish { a := e }

/-- Its next unit is still to run. -/
def State.mxMore (s : State) (e : Nat) (m : MxInstr) : State := (s.setRun e m).postEv .matrixQueueStart { a := e }

/-- R288: a record of an instruction of the group marks the fence entries that cover it. -/
def State.mxRaise (s : State) (e : Nat) (m : MxInstr) (code : Nat) (details : List Word) : State :=
  (s.raise m.who code details).modFences (.elem e) (fun n => if n.matrix.contains m.id then { n with faulted := true } else n)

/-- R191: a check that fails as it runs poisons its rows; a "matrix operand" fault. -/
def State.mxFail (s : State) (e : Nat) (m : MxInstr) (reason : Nat) : State :=
  let s := s.setElem e ((s.elem e).poisonRows m.rows.1 m.rows.2)
  (s.mxRaise e m 0x0109 (m.who.details203 reason 0)).mxDone e { m with faulted := true }

/-- R203: the "residue range" fault, once per instruction. -/
def State.mxRange (s : State) (e : Nat) (m : MxInstr) (ofl : List (Nat × List Nat)) : State × Bool :=
  if m.ranged then (s, true)
  else match ofl.find? (fun r => decide (r.2 ≠ [])) with
    | none => (s, false)
    | some (i, ns) =>
      (s.mxRaise e m 0x010A (m.who.details203 0 (w32 (i * 2 ^ 16 + ns.foldl min (ns.headD 0)))), true)

/-- R187: cycles that an instruction takes; a drain's groups are counted once its descriptor is read. -/
def MxInstr.cycles (m : MxInstr) : Nat :=
  let fmt := fld m.lit 0 3
  match m.op with
  | 0xD0 => 40 + (if 5 ≤ fmt then 64 else (fld m.lit 6 3 + 1) * (if fmt = 1 then 8 else if fmt = 4 then 32 else 16))
  | 0xD5 => 40
  | 0xD6 => (m.nr + 7) / 8 + 4
  | 0xD9 => (m.nr + 7) / 8 + 4
  | 0xD7 => (match fld m.lit 9 2 with | 0 => (4 * m.nr + 255) / 256 + 4 | 1 => 6 | 2 => 8 | _ => 4)
  | 0xD8 => 4
  | _ => m.nr + 40

/-! ### MLOAD (R194) -/

/-- One K-block of a dense panel. -/
def Elem.loadBlock (e : Elem) (fmt A B f b : Nat) : Elem :=
  let rows := (List.range 32).map (fun k => unpackElems fmt (e.read (A + B * (32 * (b - f) + k)) (128 * mxBits fmt / 8)))
  let cols := (List.range 128).map (fun n =>
    let a := alignBlock fmt (rows.map (fun r => r.getD n 0))
    (n, WCol.mk a.1 a.2.1 a.2.2))
  { e with blocks := tset e.blocks b ⟨fmt, cols⟩ }

/-- The store in dense form (R194). -/
def Elem.dense (e : Elem) : Elem := if e.lookup then { e with lookup := false, blocks := [], lut1 := [], lut0 := [] } else e

/-- Bytes of a K-block row panel that block b reads. -/
def loadReads (fmt A B f b : Nat) : List (Nat × Nat) := (List.range 32).map (fun k => (A + B * (32 * (b - f) + k), 128 * mxBits fmt / 8))

def State.runMload (s : State) (e : Nat) (m : MxInstr) : State :=
  let v := s.elem e
  let fmt := fld m.lit 0 3
  let A := m.a.toNat
  if fmt = 5 then
    ((s.setElem e { v with lookup := true, lutTwo := false, blocks := [], lut1 := [], lut0 := v.read A 8192 }).noteOob m.who [(A, 8192)]).mxDone e m
  else if fmt = 6 then
    ((s.setElem e { v with lookup := true, lutTwo := true, blocks := [], lut1 := v.read A 8192, lut0 := v.read (A + 8192) 8192 }).noteOob
      m.who [(A, 16384)]).mxDone e m
  else
    let f := fld m.lit 3 3
    let b := f + m.row
    let s := (s.setElem e (v.dense.loadBlock fmt A m.b.toNat f b)).noteOob m.who (loadReads fmt A m.b.toNat f b)
    if m.row < fld m.lit 6 3 then s.mxMore e { m with row := m.row + 1 } else s.mxDone e m

/-! ### MMA, MMAS, MUNF, MLUT (R195, R196, R199, R200) -/

/-- What a row's operand gives: blocks with their weight block, or a malformed line. -/
inductive RowForm
  | blocks (bs : List (List Nat × Nat))
  | malformed

def blocksOf (xs : List Nat) (h : Nat) : List (List Nat × Nat) := (List.range 4).map (fun j => ((xs.drop (32 * j)).take 32, 4 * h + j))

/-- R196: one MMAS line. -/
def mmasRow (fmt : Nat) (bs : List Byte) : RowForm :=
  let kept := if fmt = 4 then 48 else 96
  let at_ := fun (i : Nat) => (bs.getD i 0).toNat
  let pos := fun (i : Nat) => at_ (i / 4) / 4 ^ (i % 4) % 4
  let G := at_ 24
  let vals := unpackElems fmt (bs.drop 32)
  let ok := (fmt != 4 || (List.range 12).all (fun i => at_ (12 + i) == 0)) && decide (G ≤ kept / 2) && at_ 25 == fmt
    && (List.range 6).all (fun i => at_ (26 + i) == 0) && (List.range G).all (fun g => decide (pos (2 * g) < pos (2 * g + 1)))
  if !ok then .malformed
  else .blocks ((List.range (kept / 16)).map (fun j => ((List.range 32).map (fun d =>
    let g := 8 * j + d / 4
    if g < G then (if pos (2 * g) = d % 4 then vals.getD (2 * g) 0 else if pos (2 * g + 1) = d % 4 then vals.getD (2 * g + 1) 0 else 0)
    else 0), j)))

/-- R199: the unfolding descriptor. -/
structure Unf where
  off : Nat
  H : Nat
  Wd : Nat
  C : Nat
  OW : Nat
  KH : Nat
  KW : Nat
  sh : Nat
  sw : Nat
  dh : Nat
  dw : Nat
  ph : Nat
  pw : Nat
  o0 : Nat
  k0 : Nat

/-- R199: its fields, none where it is malformed. -/
def unfDesc (bs : List Byte) : Option Unf :=
  let w := fun (i : Nat) => leNat ((bs.drop (4 * i)).take 4)
  let q := w 3
  let u : Unf := { off := nfld (w 0) 0 21, H := nfld (w 1) 0 16, Wd := nfld (w 1) 16 16, C := nfld (w 2) 0 16, OW := nfld (w 2) 16 16,
                   KH := nfld q 0 4 + 1, KW := nfld q 4 4 + 1, sh := nfld q 8 4 + 1, sw := nfld q 12 4 + 1, dh := nfld q 16 4 + 1,
                   dw := nfld q 20 4 + 1, ph := nfld q 24 4, pw := nfld q 28 4, o0 := w 4, k0 := w 5 }
  if nfld (w 0) 21 11 = 0 ∧ u.H ≠ 0 ∧ u.Wd ≠ 0 ∧ u.C ≠ 0 ∧ u.OW ≠ 0 ∧ u.k0 % 32 = 0 ∧ w 6 = 0 ∧ w 7 = 0 then some u else none

/-- R199: the index in the tensor of element j of the row `d` rows below r; none for padding. -/
def Unf.index (u : Unf) (d j : Nat) : Option Nat :=
  let o := u.o0 + d
  let k := u.k0 + j
  let c := k % u.C
  let t := k / u.C
  let ky := t / u.KW
  let iy : Int := (o / u.OW * u.sh : Nat) - u.ph + (ky * u.dh : Nat)
  let ix : Int := (o % u.OW * u.sw : Nat) - u.pw + (t % u.KW * u.dw : Nat)
  if u.KH ≤ ky ∨ iy < 0 ∨ u.H ≤ iy ∨ ix < 0 ∨ u.Wd ≤ ix then none
  else some ((iy.toNat * u.Wd + ix.toNat) * u.C + c)

/-- R199: a tensor element's place in the stage: offset and bytes. -/
def Unf.place (u : Unf) (fmt i : Nat) : Nat × Nat := if fmt = 4 then (u.off + 2 * i, 2) else if fmt = 1 then (u.off + i / 2, 1) else (u.off + i, 1)

/-- R199: a row's 128 elements. -/
def Elem.unfRow (e : Elem) (u : Unf) (fmt d : Nat) : List Nat :=
  (List.range 128).map (fun j =>
    match u.index d j with
    | none => 0
    | some i =>
      let p := u.place fmt i
      let n := leNat (e.read p.1 p.2)
      if fmt = 1 then n / 16 ^ (i % 2) % 16 else n)

/-- R195: bytes of a row's operand. -/
def rowBytes (op fmt : Nat) : Nat := if op = 0xD2 then 128 else if op = 0xD3 then 512 else 128 * mxBits fmt / 8

/-- The A format of an instruction. -/
def MxInstr.fmt (m : MxInstr) : Nat := if m.op = 0xD3 then 0 else fld m.lit 9 3

/-- The weight blocks that an instruction uses. -/
def MxInstr.weights (m : MxInstr) : List Nat :=
  if m.op = 0xD2 then List.range (if m.fmt = 4 then 3 else 6)
  else (List.range 4).map (fun j => 4 * fld m.lit 12 1 + j)

/-- R193: the forms match. -/
def Elem.formOk (e : Elem) (m : MxInstr) : Bool :=
  if m.op = 0xD3 then e.lookup
  else !e.lookup && m.weights.all (fun b => isIntFmt (e.block b).fmt == isIntFmt m.fmt)

/-- The operand of a row `d` rows below r, and what the array reads for it. -/
def Elem.formRow (e : Elem) (m : MxInstr) (u : Option Unf) (d : Nat) : RowForm × List (Nat × Nat) :=
  let o := m.a.toNat + 16 * fld m.b 16 16 * d
  let n := rowBytes m.op m.fmt
  match m.op, u with
  | 0xD4, some u =>
    (.blocks (blocksOf (e.unfRow u m.fmt d) (fld m.lit 12 1)),
     (List.range 128).filterMap (fun j => (u.index d j).map (u.place m.fmt)))
  | 0xD2, _ => (mmasRow m.fmt (e.read o n), [(o, n)])
  | _, _ => (.blocks (blocksOf (unpackElems m.fmt (e.read o n)) (fld m.lit 12 1)), [(o, n)])

/-- R195: one row of a multiplying instruction: the columns that overflow, the reads. -/
def Elem.runRow (e : Elem) (m : MxInstr) (u : Option Unf) (d : Nat) : Elem × List Nat × List (Nat × Nat) :=
  let i := m.r + d
  if m.op = 0xD3 then
    let o := m.a.toNat + 16 * fld m.b 16 16 * d
    let r := e.addLutRow i ((e.read o 512).map (fun b => b.toInt))
    (r.1, r.2, [(o, 512)])
  else
    match e.formRow m u d with
    | (.malformed, rd) => (e.poisonRows i 1, [], rd)
    | (.blocks bs, rd) =>
      let r := bs.foldl (fun (r : Elem × List Nat) b => let q := r.1.addRowBlock i m.fmt b.2 b.1; (q.1, r.2 ++ q.2)) (e, [])
      (r.1, r.2, rd)

/-- R188: the rows of the next chunk of up to 128. -/
def MxInstr.chunk (m : MxInstr) (k : Nat) : List Nat := (List.range (min k (m.nr - m.row))).map (fun i => m.row + i)

def State.runRows (s : State) (e : Nat) (m : MxInstr) (u : Option Unf) : State :=
  let rows := m.chunk 128
  let r := rows.foldl (fun (r : Elem × List (Nat × List Nat) × List (Nat × Nat)) d =>
    let q := r.1.runRow m u d
    (q.1, r.2.1 ++ [(m.r + d, q.2.1)], r.2.2 ++ q.2.2)) (s.elem e, [], [])
  let s := (s.setElem e r.1).noteOob m.who r.2.2
  let q := s.mxRange e m r.2.1
  let m := { m with row := m.row + rows.length, ranged := q.2 }
  if m.row < m.nr then q.1.mxMore e m else q.1.mxDone e m

/-- R190: a descriptor lies where it must. -/
def descPlace (a : Nat) : Bool := a % 32 == 0 && decide (a + 32 ≤ stageSize)

def State.runMultiply (s : State) (e : Nat) (m : MxInstr) : State :=
  let v := s.elem e
  if m.op = 0xD4 ∧ !descPlace m.a.toNat then s.mxFail e m 3
  else
    let u := if m.op = 0xD4 then unfDesc (v.read m.a.toNat 32) else none
    if m.op = 0xD4 ∧ u.isNone then s.mxFail e m 4
    else if !v.formOk m then s.mxFail e m 5
    else s.runRows e m u

/-! ### MDRN (R197) -/

/-- R197: the drain descriptor, none where it is malformed. Bit 7 of word 4 stands in no row of the table, so either value
is accepted and means nothing (DESIGN CHOICE, assumption 50). -/
def drainDesc (bs : List Byte) : Option Drain :=
  let w := fun (i : Nat) => leNat ((bs.drop (4 * i)).take 4)
  let d := w 0 + w 1 * 2 ^ 32
  let c := nfld (w 4) 8 7 + 1
  if nfld d 56 8 = 0 ∨ nfld d 56 8 = 255 then
    if nfld (w 3) 8 24 = 0 ∧ nfld (w 3) 4 3 ≤ 4 ∧ nfld (w 4) 15 17 = 0 ∧ nfld (w 4) 0 7 + c ≤ 128 ∧ w 5 = 0 ∧ w 6 = 0 ∧ w 7 = 0 then
      some { dest := BitVec.ofNat 64 d, stride := sxN 32 (w 2), out := nfld (w 3) 0 2, mode := nfld (w 3) 2 2, rel := nfld (w 3) 4 3,
             clear := nfld (w 3) 7 1 == 1, c0 := nfld (w 4) 0 7, cols := c }
    else none
  else none

def Drain.bytes (d : Drain) : Nat := if d.out = 1 then 2 else if d.out = 3 then 8 else 4

/-- R197: the output word of an entry, none where it is poisoned. -/
def Elem.output (e : Elem) (d : Drain) (i n : Nat) : Option (List Byte) :=
  let a := e.ent i n
  let x := (F a.f).add d.mode a.sum
  let one : Word := 0x3F800000
  let scaled := (x.mul (F (tgetD e.rs i one))).mul (F (tgetD e.cs n one))
  let k := d.bytes
  if a.pois then none
  else match d.out with
    | 0 => some (leBytes k (rnd32 d.mode scaled).toNat)
    | 1 => some (leBytes k (bf16.round d.mode scaled))
    | 2 => some (leBytes k (match x with
        | .nan => (0 : Word)
        | .inf s => if s then 0x80000000 else 0x7FFFFFFF
        | v => sat32 (v.toInt d.mode).int).toNat)
    | _ => if a.folded || a.f != 0 then none else some (leBytes k (a.tri.store false))

/-- R197: the outputs of a group of rows: address, bytes. -/
def Elem.outputs (e : Elem) (m : MxInstr) (d : Drain) (rows : List Nat) : List (Int × Option (List Byte)) :=
  rows.flatMap (fun (k : Nat) => (List.range d.cols).map (fun c =>
    (d.dest.toInt + (k : Int) * d.stride + (c * d.bytes : Nat), e.output d (m.r + k) (d.c0 + c))))

/-- An output cut where it crosses a line. -/
def pieces (ea : Int) (bs : List Byte) : List (Int × List Byte) :=
  let room := 128 - (ea % 128).toNat
  if bs.length ≤ room then [(ea, bs)] else [(ea, bs.take room), (ea + room, bs.drop room)]

/-- The physical places of a drain's pieces, or what the first that has none meets. -/
def State.drainPlaces (s : State) (p e : Nat) (k : Nat) : List (Int × List Byte) → Except (EngX × Int) (List (ElemDst × List Byte))
  | [] => .ok []
  | (ea, bs) :: r =>
    match s.engXlate p (.elem e) ea true k with
    | .ok pa _ =>
      (match s.drainPlaces p e (k + 1) r with
       | .ok q => .ok ((.mem ea pa, bs) :: q)
       | .error x => .error x)
    | x => .error (x, ea)

/-- R187: cycles of the groups of a drain of nr rows. -/
def Drain.cycles (d : Drain) (nr : Nat) : Nat := (nr + 31) / 32 * ((32 * d.cols * d.bytes + 255) / 256)

/-- R197, R255: a drain has nothing left to write: the record of the outputs that it suppressed, also where a
failed translation ends it. -/
def State.drainEnd (s : State) (e : Nat) (m : MxInstr) : State :=
  (if m.sup = 0 then s else s.mxRaise e m 0x0112 (m.who.poisonRecord m.who.ag 3 (m.supEa.getD 0) (w32 m.sup))).mxDone e { m with faulted := m.faulted || m.sup ≠ 0 }

/-- R197, R221: a drain's translation fails outright. -/
def State.drainFail (s : State) (e : Nat) (m : MxInstr) (ea : Int) : State :=
  (s.mxRaise e m 0x010D (m.who.details 0 ([0, w32 (m.row / 32)] ++ addrWords ea))).drainEnd e { m with faulted := true }

/-- R188: the writes of one group of 32 rows. -/
def State.drainGroup (s : State) (e : Nat) (m : MxInstr) (d : Drain) : State :=
  let rows := m.chunk 32
  let outs := (s.elem e).outputs m d rows
  let good := (outs.filterMap (fun o => o.2.map (fun b => (o.1, b)))).flatMap (fun o => pieces o.1 o.2)
  let bad := outs.filter (fun o => o.2.isNone)
  let p := m.who.part
  match s.drainPlaces p e 0 good with
  | .error (.miss, ea) => (s.setRun e { m with parked := some (pageOf ea, 1) }).parkEngine (.elem e) m.who 1 ea []
  | .error (.cow, ea) => (s.setRun e { m with parked := some (pageOf ea, 2) }).parkEngine (.elem e) m.who 2 ea []
  | .error (.fail, ea) => s.drainFail e m ea
  | .error _ => s.mxMore e m
  | .ok ws =>
    let r := s.chunkWrites (.elem e) m.who ws
    if r.2.1 ≠ [] then (s.mxMore e m).wantLast (.elem e) p m.who.region (writeLines r.2.1)
    else
      let s := r.1
      let v := s.elem e
      let s := if d.clear then s.setElem e { v with acc := v.acc.filter (fun a => !rows.contains (a.1 / 128 - m.r) || decide (a.1 / 128 < m.r)) } else s
      let m := { m with row := m.row + rows.length, owed := m.owed ++ r.2.2.1, sent := m.sent ++ r.2.2.2, sup := m.sup + bad.length,
                        supEa := (match m.supEa with | some a => some a | none => (bad.head?).map (fun o => o.1)) }
      if m.row < m.nr then s.mxMore e m else s.drainEnd e m

def State.runMdrn (s : State) (e : Nat) (m : MxInstr) : State :=
  match m.drain with
  | some d => s.drainGroup e m d
  | none =>
    if !descPlace m.a.toNat then s.mxFail e m 3
    else match drainDesc ((s.elem e).read m.a.toNat 32) with
      | none => s.mxFail e m 4
      | some d =>
        (s.charge m.who.part m.who.region (dieOf (.elem e)) itemElemCycles (d.cycles m.nr)).drainGroup e { m with drain := some d } d

/-! ### MSCL, MBND, MZERO, MFOLD (R198, R201) -/

def wordAt (bs : List Byte) (i : Nat) : Word := w32 (leNat ((bs.drop (4 * i)).take 4))

/-- `p` of the issuing thread in every lane. -/
def State.setP (s : State) (u : Nat) (c : Bool) : State :=
  s.modThr u (fun t => { t with lanes := t.lanes.map (fun x => { x with p := c }) })

/-- R198: the band form. -/
def State.runBand (s : State) (e : Nat) (m : MxInstr) : State :=
  let v := s.elem e
  let want := fld m.b 0 8
  match v.side with
  | [] => (s.setP m.uid false).mxDone e m
  | (q, w) :: r =>
    if q.toNat = want then
      let rs := (List.range m.nr).foldl (fun t i => tset t (m.r + i) w) v.rs
      ((s.setElem e { v with rs := rs, side := r }).setP m.uid true).mxDone e m
    else
      let s := (s.setElem e (v.poisonRows m.r m.nr)).setP m.uid false
      (s.mxRaise e m 0x010B (m.who.details203 0 (w32 (q.toNat * 256 + want)))).mxDone e { m with faulted := true }

def State.runMscl (s : State) (e : Nat) (m : MxInstr) : State :=
  let v := s.elem e
  let A := m.a.toNat
  match fld m.lit 9 2 with
  | 0 =>
    let bs := v.read A (4 * m.nr)
    let rs := (List.range m.nr).foldl (fun t i => tset t (m.r + i) (wordAt bs i)) v.rs
    ((s.setElem e { v with rs := rs }).noteOob m.who [(A, 4 * m.nr)]).mxDone e m
  | 1 =>
    let bs := v.read A 512
    let cs := (List.range 128).foldl (fun t i => tset t i (wordAt bs i)) v.cs
    ((s.setElem e { v with cs := cs }).noteOob m.who [(A, 512)]).mxDone e m
  | 2 =>
    let g := (v.read A 1024).mapIdx (fun i b => (i, b.toInt))
    ((s.setElem e { v with g := g }).noteOob m.who [(A, 1024)]).mxDone e m
  | _ => s.runBand e m

/-- The rows of an instruction. -/
def MxInstr.span (m : MxInstr) : List Nat := (List.range m.nr).map (fun i => m.r + i)

/-- Every entry of a row changed, listed or not. -/
def Elem.modRow (e : Elem) (i : Nat) (f : AccEnt → AccEnt) : Elem := (List.range 128).foldl (fun v n => v.setEnt i n (f (v.ent i n))) e

/-- R201: MZERO of one row. -/
def Elem.zeroRow (e : Elem) (i : Nat) : Elem := { e with acc := e.acc.filter (fun a => decide (a.1 / 128 ≠ i)) }

/-- R201: MFOLD of one row. -/
def Elem.foldRow (e : Elem) (i : Nat) : Elem :=
  if (tget e.pins i).isSome then e
  else { e with acc := e.acc.map (fun a => if a.1 / 128 = i ∧ a.2.u ≠ 0 then (a.1, a.2.fold) else a) }

/-- R201: pin one row. -/
def Elem.pinRow (e : Elem) (i : Nat) (b : Int) : Elem :=
  { e with pins := tset e.pins i b,
           acc := e.acc.map (fun a => if a.1 / 128 = i then (a.1, { (if a.2.u ≠ 0 then a.2.fold else a.2) with beta := b }) else a) }

/-- R201: free one row; the bases of its entries stay. -/
def Elem.freeRow (e : Elem) (i : Nat) : Elem := if (tget e.pins i).isNone then e else { e.modRow i id with pins := tdel e.pins i }

def State.runMbnd (s : State) (e : Nat) (m : MxInstr) : State :=
  let v := s.elem e
  let v := match fld m.lit 9 2 with
    | 0 => m.span.foldl (fun v i => v.pinRow i (Sx m.a)) v
    | 1 => m.span.foldl (fun v i => v.freeRow i) v
    | _ => { v with lam := m.a.toNat }
  (s.setElem e v).mxDone e m

/-- R195 to R201: the next unit of the running instruction. -/
def State.runMx (s : State) (e : Nat) (m : MxInstr) : State :=
  match m.op with
  | 0xD0 => s.runMload e m
  | 0xD5 => s.runMdrn e m
  | 0xD6 => (s.setElem e (m.span.foldl (fun v i => v.zeroRow i) (s.elem e))).mxDone e m
  | 0xD7 => s.runMscl e m
  | 0xD8 => s.runMbnd e m
  | 0xD9 => (s.setElem e (m.span.foldl (fun v i => v.foldRow i) (s.elem e))).mxDone e m
  | _ => s.runMultiply e m

/-- R363, R370: the element's array does not act. -/
def State.arrayIdle (s : State) (e p : Nat) : Bool := (s.site (.elem e)).swapped || s.stopped p (engOf (.elem e))

/-- R185, R325: the next queued instruction may start. -/
def State.mxMayStart (s : State) (e : Nat) (m : MxInstr) : Bool :=
  s.gateOpen m.gate && !s.spent m.who.part m.who.region (dieOf (.elem e)) itemElemCycles

/-- R185, R188: the element takes up its next instruction, or runs the next unit of the one it runs.
Acts on a = element. -/
def execMatrixQueueStart (s : State) : Out :=
  let e := s.subj.a
  let v := s.elem e
  let again := s.postEv .matrixQueueStart { a := e }
  match v.running with
  | some m =>
    if m.done || m.parked.isSome then .next s
    else if s.arrayIdle e m.who.part then .next again
    else .next (s.runMx e m)
  | none =>
    match v.queue with
    | [] => .next s
    | m :: q =>
      if s.arrayIdle e m.who.part || !s.mxMayStart e m then .next again
      else
        let s := s.charge m.who.part m.who.region (dieOf (.elem e)) itemElemCycles m.cycles
        .next (s.setElem e { v with queue := q, running := some m } |>.postEv .matrixQueueStart { a := e })

/-- R185, R197, R277: the instruction finishes, a drain once its release has performed; `nmx` falls.
A write that another module refused is a failed translation of the drain (R428; assumption 29).
Acts on a = element. -/
def execMatrixInstructionFinish (s : State) : Out :=
  let e := s.subj.a
  let v := s.elem e
  match v.running with
  | none => .next s
  | some m =>
    if !m.done then .next s
    else
      let rel := max 1 (m.drain.elim 0 (fun d => d.rel))
      if m.refused.isSome then .next (s.drainFail e { m with refused := none, sup := 0 } (m.refused.getD 0))
      else if m.sent.any (fun a => !s.performed a 4) || s.owingAt (.elem e) rel m.owed then
        .next (s.postEv .matrixInstructionFinish { a := e })
      else
        let s := s.setElem e { v with running := none }
        let s := s.modFences (.elem e) (fun n => if n.matrix.contains m.id then { n with owed := n.owed ++ m.owed } else n)
        let s := s.modThr m.uid (fun t => { t with mxOwed := s.unacked (t.mxOwed ++ m.owed) })
        .next (((s.fall m.uid .mx).retest (.elem e)).postEv .matrixQueueStart { a := e })

end Sys2Proof.Machine
end

