-- ==== Sys2Proof/Machine/Replies.lean ====
section
/-! DEFINITION. Records that wait for a reply: held records (R357), replies and their effects (R359, R360), the
control cores' answers to misses and copy-on-write pages (R312, R313, R455). -/

namespace Sys2Proof.Machine

/-! ## Held records (R357) -/

/-- A thread whose record is now written waits for its reply where it can (R358). -/
def State.recordWritten (s : State) (u : Nat) : State :=
  match s.thr? u with
  | none => s
  | some t => if t.stat = .record then s.suspend u .reply else s

/-- R357: a held record is written once the occupancy is below 248, and its agent goes on.
Acts on a = partition, b = held record. -/
def execTrapRecordWrite (s : State) : Out :=
  let p := s.subj.a
  let n := s.subj.b
  let s := s.flushHeld p
  match tget (s.part p).heldRecs n with
  | none => .next s
  | some h =>
    if !h.written then .next (s.postEv .trapRecordWrite { a := p, b := n })
    else
      let s := s.modPart p (fun v => { v with heldRecs := tdel v.heldRecs n })
      .next (match h.for_ with
        | .loop u => s.recordWritten u
        | .trap u => s.recordWritten u
        | .open_ u => s.recordWritten u
        | _ => s)

/-! ## Effects of a reply (R359) -/

/-- A thread ends at once, or at its next boundary while it runs. -/
def State.killThread (s : State) (u : Nat) : State :=
  match s.thr? u with
  | none => s
  | some t => if t.stat = .run ∨ t.stat = .column then s.setThr u { t with ending := true } else s.endThread u

/-- A thread that waited for a reply issues its instruction again. -/
def State.runAgain (s : State) (u : Nat) : State :=
  match s.thr? u with
  | none => s
  | some t =>
    let s := s.unreserveAll (t.plan.ents.flatMap (fun e => e.resv))
    let t := { t with wait := none, plan := ⟨[], none⟩ }
    match t.slot with
    | some _ => (s.setThr u { t with stat := .ready }).wake t.src.site [t.src.cell]
    | none => (s.setThr u { t with stat := .run }).post (.issue t.src)

/-- A lane is parked on a page's record of a code (R253). A refused guyline access waits for its own. -/
def State.laneOn (s : State) (p page die code : Nat) (ok : Who → Bool) (x : Access) (m : LaneAcc) : Bool :=
  m.st == .parked && x.who.part == p && dieOf x.who.ag.site == die && ok x.who && pageOf m.ea == page
    && (match x.chain with | none => true | some r => r.active)
    && (if code = 2 then x.op.writes else !(x.op.writes && s.pageRecorded p page die 2))

/-- R359: lanes parked on a page walk again, or fail. Those of a stopped site are withdrawn: they issue again
at its resume (R251). -/
def State.replyLanes (s : State) (p page die code : Nat) (fail : Bool) (ok : Who → Bool) : State :=
  (s.accs.flatMap (fun e => (e.2.lanes.filter (s.laneOn p page die code ok e.2)).map (fun m => (e.1, m.lane)))).foldl (fun s k =>
    if fail then s.failLane k.1 k.2 (if code = 1 then 3 else 4)
    else if ((s.acc? k.1).map (fun x => s.idleSite x.who.ag.site)).getD true then s
    else (s.modLane k.1 k.2 (fun m => { m with st := .walk })).postEv .pageWalk { a := k.1, b := k.2 }) s

/-- The address at which a parked copy stands, with its chunk index. -/
def State.copyAt (s : State) (x : Site) (c : Copy) : Nat × Int :=
  match c.parsed with
  | none => (0xFFFFFFFF, c.desc)
  | some d =>
    let es := (List.range (min d.per (d.total - c.next))).map (fun i => c.next + i)
    (c.next / d.per, match s.chunkPlaces c.who.part x d es with | .park _ ea => ea | .fail ea => ea | _ => 0)

/-- R221, R359: a parked copy goes on, or ends with its fault. -/
def State.replyCopy (s : State) (x : Site) (n : Nat) (c : Copy) (fail : Bool) : State :=
  let c := { c with parked := none }
  if fail then
    let a := s.copyAt x c
    s.copyFault x n c 0x010D (copyAddr n c a.1 a.2)
  else (s.setCopy x n c).postEv (if c.parsed.isNone then .copyDescriptorRead else .copyChunk) { site := x, a := n }

/-- R226, R359: a parked chain goes on, or stops with its fault. -/
def State.replyChain (s : State) (x : Site) (n : Nat) (c : CbChain) (fail : Bool) : State :=
  let c := { c with parked := none }
  if fail then
    s.cbFault x n c (match c.fetch, c.window with
      | some l, _ => l.toInt
      | none, b :: _ => if c.skipping then linkVa b.next else b.va
      | none, [] => 0)
  else
    let s := s.setCb x n c
    let s := if c.testing.isSome then s.postEv .testBlockRetest { site := x, a := n } else s.callHead x n c
    if c.fetch.isSome then s.postEv .commandBlockFetch { site := x, a := n } else s

/-- R359: a parked drain goes on, or ends with a "copy address" fault. -/
def State.replyDrain (s : State) (e : Nat) (m : MxInstr) (fail : Bool) (page : Nat) : State :=
  let m := { m with parked := none }
  if fail then
    s.drainFail e m (sxN 57 (page * 2 ^ 16))
  else (s.setRun e m).postEv .matrixQueueStart { a := e }

/-- R359: everything of a die that a page's record holds. -/
def State.replyPage (s : State) (p page die code : Nat) (fail : Bool) (ok : Who → Bool) : State :=
  let on := fun (x : Site) (w : Who) (k : Option (Nat × Nat)) => dieOf x == die && ok w && w.part == p && k == some (page, code)
  let s := s.replyLanes p page die code fail ok
  let s := s.sites.foldl (fun s e =>
    let s := (e.2.copies.filter (fun c => on e.1 c.2.who c.2.parked)).foldl (fun s c => s.replyCopy e.1 c.1 c.2 fail) s
    (e.2.chains.filter (fun c => on e.1 c.2.who c.2.parked)).foldl (fun s c => s.replyChain e.1 c.1 c.2 fail) s) s
  s.elems.foldl (fun s e =>
    match e.2.running with
    | none => s
    | some m => if on (.elem e.1) m.who m.parked then s.replyDrain e.1 m fail page else s) s

/-- R262, R359: a parked guyline access is sent again, dropped with its fault, or dropped with its thread. -/
def State.replyGuyline (s : State) (a action : Nat) : State :=
  match s.acc? a with
  | none => s
  | some x =>
    match x.chain with
    | none => s
    | some r =>
      if action = 0 then
        (s.modAcc a (fun x => { x with lanes := x.lanes.map (fun m => { m with st := .walk }) })).postEv .chainAccessArrival { a := a }
      else if action = 1 then
        let n := match s.chainOf x.who.part r.handle with | none => 0 | some c => c.2.held.length
        s.dropChainAcc a x r n 4
      else (s.endChainAcc a).killThread x.uid

/-- R264, R359: the save area of a CHNOPN is walked again, or the instruction fails. -/
def State.replyOpen (s : State) (u : Nat) (t : Thread) (f : Fields) (fail : Bool) : State :=
  let w := t.who 0xA7
  if fail then (s.raise w 0x0111 (w.details 3 [0, 1])).complete u (openFail t)
  else match s.tryOpen t f with
    | (s', some e) => s'.complete u e
    | (_, none) =>
      let ea := eaOf (s.baseOf t (fld f.lit 0 3)) (t.a0 f).w 4096
      s.raise w 0x0001 (w.details 0 []) (some (.open_ u)) ea

/-- R254, R359: a TSEQ or TBLND whose descriptor missed issues again, or fails in every selected lane. -/
def State.replyDesc (s : State) (u : Nat) (t : Thread) (w : Wait) (code : Nat) (fail : Bool) : State :=
  if !fail then (s.modCells t.src.site t.cellsHeld (fun c => { c with issued := c.issued - 1 })).runAgain u
  else
    let s := s.descRecord t w.opc (if code = 1 then 3 else 4)
    if w.opc = 0xEA then (s.setThr u (t.badTargets (dstRegs w.fields))).complete u (seqEff t w.fields)
    else s.complete u (.val (t.all .bad))

/-- A record of a thread's instruction is answered (R93, R359). -/
def State.replyThread (s : State) (u : Nat) (r : RecFor) (code action : Nat) : State :=
  match s.thr? u with
  | none => s
  | some t =>
    match r, t.wait with
    | .loop _, _ => if action = 0 then s.runAgain u else s.endThread u
    | .trap _, _ => if action = 0 then s.complete u {} else s.endThread u
    | .open_ _, some w => if w.opc = 0xA7 then s.replyOpen u t w.fields (action ≠ 0) else s.replyDesc u t w code (action ≠ 0)
    | _, _ => s

/-- The thread that a record's agent runs. -/
def RecFor.uid? : RecFor → Option Nat
  | .loop u => some u
  | .trap u => some u
  | .open_ u => some u
  | _ => none

/-- R359: the effect of a reply on the work that `ok` picks. -/
def State.replyEffect (s : State) (p : Nat) (r : RecFor) (code action : Nat) (ok : Who → Bool) : State :=
  match r with
  | .page page die => s.replyPage p page die code (action ≠ 0) ok
  | .guyline a =>
    match s.acc? a with
    | none => s
    | some x => if ok x.who then s.replyGuyline a action else s
  | r =>
    match r.uid? with
    | none => s
    | some u =>
      match s.thr? u with
      | none => s
      | some t => if ok (t.who 0) then s.replyThread u r code action else s

/-- Word 3 bit 8 of the record in memory is cleared (R360); the other bits of that byte are zero (R355), which is what a
trap queue in another module is sent. -/
def State.clearAwait (s : State) (p entry : Nat) : State :=
  let a := ((s.part p).tqBase.toNat + 64 * entry) % 2 ^ 51 + 13
  s.hwWrite a [if isAperture a then 0 else rdB s.hwMem a &&& 0xFE]

/-- R360: an accepted reply; its effect on agents that are swapped out is kept. -/
def State.acceptReply (s : State) (p entry : Nat) (m : RecMeta) (action : Nat) : State :=
  let out := s.biv.any (fun b => b.2.site.part == some p) || s.sites.any (fun e => e.2.swapped && e.2.part == some p)
  let s := s.modPart p (fun v => { v with
    recs := tset v.recs entry { m with answered := true }
    kept := if out then v.kept ++ [⟨m.for_, m.code, action⟩] else v.kept })
  (s.clearAwait p entry).replyEffect p m.for_ m.code action (fun w => !s.away w.ag.site w.inv)

/-- R359, R360: a write of flt.reply. -/
def State.reply (s : State) (p action x : Nat) : State :=
  let refuse := s.modPart p (fun v => { v with refused := true })
  match tget (s.part p).recs (nfld x 0 8) with
  | none => refuse
  | some m =>
    if m.answered ∨ m.seq.toNat % 65536 ≠ nfld x 16 16 then refuse else s.acceptReply p (nfld x 0 8) m action

/-- Acts on a = partition, b = entry, d = thread, v = value. -/
def execReplyRetry (s : State) : Out := .next ((s.reply s.subj.a 0 s.subj.v.toNat).cwSet s.subj.d)
/-- Acts on a = partition, b = entry, d = thread, v = value. -/
def execReplyFail (s : State) : Out := .next ((s.reply s.subj.a 1 s.subj.v.toNat).cwSet s.subj.d)
/-- Acts on a = partition, b = entry, d = thread, v = value. -/
def execReplyEndThread (s : State) : Out := .next ((s.reply s.subj.a 2 s.subj.v.toNat).cwSet s.subj.d)

/-! ## The control cores' answers (R312, R313, R455) -/

/-- The record of a code that a control core serves, while it awaits its reply. -/
def State.openRec (s : State) (p entry code : Nat) : Option RecMeta :=
  match tget (s.part p).recs entry with
  | none => none
  | some m => if m.code = code ∧ !m.answered then some m else none

/-- R312: walk again, reply retry where there is a valid leaf, else fail. Acts on a = partition, b = entry. -/
def execTranslationMissService (s : State) : Out :=
  let p := s.subj.a
  match s.openRec p s.subj.b 1 with
  | none => .next s
  | some m =>
    if s.hwHolds p (.syrad 0) m.va then .next (s.postEv .translationMissService { a := p, b := s.subj.b })
    else .next (s.acceptReply p s.subj.b m (if (s.walk p (.syrad 0) m.va).isSome then 0 else 1))

/-- The physical address of the level 0 entry that maps an address; none where the walk ends elsewhere. -/
def State.leafAddr (s : State) (va : Nat) : Nat → Nat → Option Nat
  | level, table =>
    let ix := levelIndex level
    let at_ := table + 8 * nfld va ix.1 ix.2
    let e := (s.rdD at_).toNat
    match level with
    | 0 => some at_
    | n + 1 => if nfld e 0 2 = 1 then s.leafAddr va n (pteAddr e) else none

/-- R313 steps 1 and 2, R455: the page copied to the pool's next page, errors with it, and the leaf written;
none where the pool is empty, or where no home slice of the module serves the old page (R300, R428; assumption 29). -/
def State.cowCopy (s : State) (p : Nat) (m : RecMeta) (e : TlbEnt) : Option State :=
  let v := s.part p
  let new := v.cowbase.toNat
  match s.leafAddr (va57 m.va) 4 (v.root.toNat / 4096 * 4096) with
  | none => none
  | some at_ =>
    if v.cowlimit.toNat ≤ new ∨ !s.inMem p new 65536 ∨ !s.served e.pa then none
    else
      let bad := (s.memBad.filter (fun a => decide (e.pa ≤ a ∧ a < e.pa + 65536))).map (fun a => a - e.pa + new)
      let s := s.hwWrite new (rdN s.mem e.pa 65536)
      let s : State := { s with memBad := sortBy (fun a b => decide (a ≤ b)) (s.memBad ++ bad) }
      let pte := new / 256 * 256 + e.repl * 32 + 11
      let s := s.hwWrite at_ (leBytes 8 pte)
      some (s.modPart p (fun v => { v with cowbase := v.cowbase + 65536 }))

/-- R313: the control core serves a copy-on-write record: it copies the page and writes the leaf (c = 0),
invalidates the old entry (c = 1), and replies once that is complete (c = 2).
Acts on a = partition, b = entry, c = phase. -/
def execCopyOnWriteService (s : State) : Out :=
  let p := s.subj.a
  let entry := s.subj.b
  let go := fun (s : State) (k : Nat) => Host.Outcome.next (s.postEv .copyOnWriteService { a := p, b := entry, c := k })
  match s.openRec p entry 2 with
  | none => .next s
  | some m =>
    match s.subj.c with
    | 0 =>
      if s.hwHolds p (.syrad 0) m.va || s.switching (s.part p).cowbase.toNat then go s 0
      else match s.walk p (.syrad 0) m.va with
      | none => .next (s.acceptReply p entry m 0)
      | some e =>
        if !e.cow then .next (s.acceptReply p entry m 0)
        else match s.cowCopy p m e with
          | none => .next (s.acceptReply p entry m 1)
          | some s => go s 1
    | 1 =>
      if (s.part p).invst.isSome then go s 1
      else go (s.mmuInvalidate p ((BitVec.ofInt 64 m.va).toNat / 65536 * 65536 + 1)) 2
    | _ => if (s.part p).invst.isSome then go s 2 else .next (s.acceptReply p entry m 0)

end Sys2Proof.Machine
end

