-- ==== Sys2Proof/Machine/Texture.lean ====
section
/-! DEFINITION. Texture units (R408 to R414): descriptors and the layout of levels, the level of detail, the
footprint, filtering, TXS, TXL and TXG; the return of the data of every load (R249, R384). -/

namespace Sys2Proof.Machine

/-! ## Descriptors and layout (R409, R410) -/

structure TexDesc where
  base : Int
  w : Nat
  h : Nat
  levels : Nat
  fmt : Nat
  modeU : Nat
  modeV : Nat
  ok : Bool

def texDesc (bs : List Byte) : TexDesc :=
  let q := fun (o n : Nat) => leNat ((bs.drop o).take n)
  let c := q 0xC 4
  { base := (BitVec.ofNat 64 (q 0 8)).toInt, w := q 8 2 + 1, h := q 0xA 2 + 1, levels := nfld c 0 4 + 1, fmt := nfld c 4 4,
    modeU := nfld c 8 2, modeV := nfld c 10 2,
    ok := q 0 8 % 4096 == 0 && decide (nfld c 4 4 ≤ 10) && nfld c 8 2 != 3 && nfld c 10 2 != 3 && nfld c 12 20 == 0
      && (bs.drop 0x10).all (fun b => b == 0) }

/-- R409: bytes of a texel. -/
def texBytes (fmt : Nat) : Nat := [1, 2, 4, 2, 4, 8, 4, 16, 16, 32, 16].getD fmt 1

def isLatent (fmt : Nat) : Bool := decide (8 ≤ fmt)

/-- R410: the sizes of a level. -/
def TexDesc.lw (d : TexDesc) (m : Nat) : Nat := max 1 (d.w / 2 ^ m)
def TexDesc.lh (d : TexDesc) (m : Nat) : Nat := max 1 (d.h / 2 ^ m)

def TexDesc.ax (d : TexDesc) : Nat := (Nat.log2 (64 / texBytes d.fmt) + 1) / 2
def TexDesc.ay (d : TexDesc) : Nat := Nat.log2 (64 / texBytes d.fmt) / 2
def ceilDiv (a b : Nat) : Nat := (a + b - 1) / b
/-- R410: blocks across a level. -/
def TexDesc.across (d : TexDesc) (m : Nat) : Nat := ceilDiv (d.lw m) (8 * 2 ^ d.ax)

/-- R410: bits of x and y interleaved. -/
def morton (x y : Nat) : Nat :=
  (List.range 16).foldl (fun a i => a + x / 2 ^ i % 2 * 4 ^ i + 2 * (y / 2 ^ i % 2 * 4 ^ i)) 0

/-- R410: LevelBase(m) − base. -/
def TexDesc.levelOff (d : TexDesc) : Nat → Nat
  | 0 => 0
  | m + 1 => d.levelOff m + 4096 * (d.across m * ceilDiv (d.lh m) (8 * 2 ^ d.ay))

/-- R410: the address of a texel. -/
def TexDesc.addr (d : TexDesc) (m x y : Nat) : Int :=
  let b := texBytes d.fmt
  let block := y / (8 * 2 ^ d.ay) * d.across m + x / (8 * 2 ^ d.ax)
  let micro := morton (x / 8 % 2 ^ d.ax) (y / 8 % 2 ^ d.ay)
  d.base + (d.levelOff m + 4096 * block + 64 * b * micro + b * morton (x % 8) (y % 8) : Nat)

/-- R409: a channel of a texel. -/
def texChan (fmt : Nat) (bs : List Byte) (c : Nat) : FV :=
  let at_ := fun (n : Nat) => leNat ((bs.drop (n * c)).take n)
  let lacks := fun (n : Nat) (v : FV) => if c < n then v else if c = 3 then FV.one else .zero
  let unorm := fp32.val (fp32.roundRat 0 false (at_ 1) 255 0)
  match fmt with
  | 0 => lacks 1 unorm
  | 1 => lacks 2 unorm
  | 2 => lacks 4 unorm
  | 3 => lacks 1 (fp16.val (at_ 2))
  | 4 => lacks 2 (fp16.val (at_ 2))
  | 5 => lacks 4 (fp16.val (at_ 2))
  | 6 => lacks 1 (fp32.val (at_ 4))
  | 7 => lacks 4 (fp32.val (at_ 4))
  | 8 => e4m3.val (at_ 1)
  | 9 => bf16.val (at_ 2)
  | _ => if c < 8 then bf16.val (at_ 2) else .zero

/-! ## The level of detail (R411) -/

/-- A finite value as a rational. -/
def FV.rat : FV → Option Rat
  | .fin s m e =>
    let a : Rat := if 0 ≤ e then ((m * 2 ^ e.toNat : Nat) : Rat) else mkRat m (2 ^ (-e).toNat)
    some (if s then -a else a)
  | _ => none

/-- Rounded to nearest even. -/
def rne (x : Rat) : Int :=
  let f := x.floor
  let r := x - f
  if r < 1 / 2 then f else if 1 / 2 < r then f + 1 else if f % 2 = 0 then f else f + 1

/-- An enclosure of 128 log2 q for q > 0: equal ends where q is a power of two. -/
def log128 (q : Rat) : Rat × Rat :=
  let n := q.num.natAbs
  let d := q.den
  let k0 : Int := (Nat.log2 n : Int) - Nat.log2 d
  let sh := fun (k : Int) => if 0 ≤ k then (n, d * 2 ^ k.toNat) else (n * 2 ^ (-k).toNat, d)
  let k := if (sh k0).1 < (sh k0).2 then k0 - 1 else k0
  let a := sh k
  if a.1 = a.2 then ((128 * k : Int), (128 * k : Int))
  else
    let f := ((Iv.rat (a.1 - a.2) (a.1 + a.2) 0).artanh.mulN 2).div ivLn2
    let of := fun (x : Nat) => ((128 * k : Int) : Rat) + mkRat (128 * x) ivOne
    (of f.lo, of f.hi)

/-- 256 λ within [0, 256 (levels − 1)]. -/
def lamClamp (levels : Nat) (x : Int) : Nat := (min (max x 0) (256 * (levels - 1) : Nat)).toNat

/-- λ of a word alone (R411, explicit). -/
def lamWord (levels free : Nat) (w : FV) : Nat :=
  match w with
  | .nan => free % (256 * (levels - 1) + 1)
  | .inf s => if s then 0 else 256 * (levels - 1)
  | v => lamClamp levels (rne (256 * (v.rat.getD 0)))

/-- `q ^ 256 > 2 ^ n`, for q > 0. -/
def powAbove (q : Rat) (n : Int) : Bool :=
  decide (q.den ^ 256 * 2 ^ n.toNat < q.num.natAbs ^ 256 * 2 ^ (-n).toNat)

/-- The integer next to 128 log2 q + 256 b, which lies by lo + ½: exact where 512 b is an integer (and q no power of
two), else either (assumption 8). -/
def logTie (q b : Rat) (lo : Int) (free : Nat) : Int :=
  let up := if (512 * b).den = 1 then powAbove q (2 * lo + 1 - (512 * b).num) else free % 2 == 1
  if up then lo + 1 else lo

/-- R411: 256 λ for λ = ½ log2 q + word 2. -/
def lamLog (levels free : Nat) (q : Rat) (w : FV) : Nat :=
  match w.rat with
  | none => if q = 0 ∧ w = .inf false then free % (256 * (levels - 1) + 1) else lamWord levels free w
  | some b =>
    if q = 0 then 0
    else
      let r := log128 q
      let lo := rne (r.1 + 256 * b)
      let hi := rne (r.2 + 256 * b)
      lamClamp levels (if lo = hi then lo else logTie q b lo free)

/-- What R411 finds: 256 λ, the number of probes, the major derivative. -/
structure Lod where
  lam : Nat
  n : Nat
  du : FV
  dv : FV

/-- R411: the probes of anisotropic filtering: the least N with N ρmin ≥ ρmax, at most the maximum. -/
def anisoN (maxN : Nat) (qmax qmin : Rat) : Nat :=
  if qmin = 0 then maxN
  else (((List.range maxN).map (fun i => i + 1)).find? (fun i => decide (qmax ≤ ((i * i : Nat) : Rat) * qmin))).getD maxN

/-- R411 with derivatives. An infinite one gives the top level and the greatest N, and its probes name no coordinate;
one that is no number, and two infinite axes, leave open what they enter (assumption 7). -/
def lodDeriv (d : TexDesc) (aniso : Bool) (maxN free : Nat) (bias ux vx uy vy : FV) : Lod :=
  match ux.rat, vx.rat, uy.rat, vy.rat with
  | some ax, some bx, some ay, some by' =>
    let sq := fun (a b : Rat) => (a * d.w) * (a * d.w) + (b * d.h) * (b * d.h)
    let qx := sq ax bx
    let qy := sq ay by'
    let n := if aniso then anisoN maxN (max qx qy) (min qx qy) else 1
    ⟨lamLog d.levels free (max qx qy / ((n * n : Nat) : Rat)) bias, n, if qy ≤ qx then ux else uy, if qy ≤ qx then vx else vy⟩
  | _, _, _, _ =>
    let open_ := free % (256 * (d.levels - 1) + 1)
    let openN := if aniso then free / 2 ^ 32 % maxN + 1 else 1
    if [ux, vx, uy, vy].any FV.isNan then ⟨open_, openN, .inf false, .inf false⟩
    else
      let lam := match bias with
        | .nan => open_
        | .inf true => open_
        | _ => 256 * (d.levels - 1)
      let wild := fun (a b : FV) => !(a.finite && b.finite)
      if wild ux vx && wild uy vy then ⟨lam, openN, .inf false, .inf false⟩
      else if wild ux vx then ⟨lam, if aniso then maxN else 1, ux, vx⟩
      else ⟨lam, if aniso then maxN else 1, uy, vy⟩

/-- R411: the level of a lane's record, whose words after the seventh are u and v of its quad's first three
lanes. -/
def lodOf (d : TexDesc) (lit : Word) (free : Nat) (q : List PWord) : Lod :=
  let aniso := fld lit 3 2 == 3
  let maxN := fld lit 5 4 + 1
  let plain : Lod := ⟨lamWord d.levels free (rf q 2), 1, .zero, .zero⟩
  match fld lit 9 2 with
  | 0 => if q.length < 13 then plain
    else lodDeriv d aniso maxN free (rf q 2) ((rf q 9).sub (rf q 7)) ((rf q 10).sub (rf q 8)) ((rf q 11).sub (rf q 7)) ((rf q 12).sub (rf q 8))
  | 1 => plain
  | _ => lodDeriv d aniso maxN free (rf q 2) (rf q 3) (rf q 4) (rf q 5) (rf q 6)

/-- The record words that R411 and R412 read. -/
def lodReads (lit : Word) (q : List PWord) : List Nat :=
  match fld lit 9 2 with
  | 0 => if q.length < 13 then [0, 1, 2] else [0, 1, 2] ++ (List.range 6).map (fun j => 7 + j)
  | 1 => [0, 1, 2]
  | _ => List.range 7

/-! ## Footprints (R412) -/

/-- R412: an integer texel coordinate by mode. -/
def wrapTexel (mode w : Nat) (i : Int) : Nat :=
  match mode with
  | 0 => (i % w).toNat
  | 1 => (min (max i 0) ((w : Int) - 1)).toNat
  | _ => let m := (i % (2 * w : Nat)).toNat; if m < w then m else 2 * w - 1 - m

/-- R412: Floor(s) and the weight fraction in 1/256 of a coordinate at a level. An infinite one names no
texel and no weight (assumption 7). -/
def texCoord (u : FV) (off : Rat) (w : Nat) (point : Bool) (free : Int) : Int × Nat :=
  match u with
  | .nan => (0, 0)
  | .inf _ => (free % 65536, (free / 65536 % 257).toNat)
  | v =>
    let s := (v.rat.getD 0 + off) * w - (if point then 0 else 1 / 2)
    (s.floor, (rne (256 * (s - s.floor))).toNat)

/-- A texel of a footprint with its weight. -/
structure Tap where
  wt : Nat
  m : Nat
  x : Nat
  y : Nat
  deriving DecidableEq, Repr

/-- R412: a coordinate moved by c times a derivative; an infinite derivative makes it infinite. -/
def moved (u : FV) (c : Rat) (du : FV) : FV × Rat :=
  match du with
  | .nan => (.inf false, 0)
  | .inf s => (.inf s, 0)
  | v => (u, c * v.rat.getD 0)

/-- R412: the four texels of a bilinear footprint, in the order of R414, with weights in 1/65,536. -/
def bilinear (d : TexDesc) (m : Nat) (u v : FV × Rat) (scale free : Nat) : List Tap :=
  let a := texCoord u.1 u.2 (d.lw m) false (free : Int)
  let b := texCoord v.1 v.2 (d.lh m) false (free / 2 ^ 32 : Nat)
  let x := fun (i : Int) => wrapTexel d.modeU (d.lw m) i
  let y := fun (i : Int) => wrapTexel d.modeV (d.lh m) i
  [⟨scale * (256 - a.2) * (256 - b.2), m, x a.1, y b.1⟩, ⟨scale * a.2 * (256 - b.2), m, x (a.1 + 1), y b.1⟩,
   ⟨scale * (256 - a.2) * b.2, m, x a.1, y (b.1 + 1)⟩, ⟨scale * a.2 * b.2, m, x (a.1 + 1), y (b.1 + 1)⟩]

/-- R412: one trilinear probe, with weights in 1/2^24. -/
def trilinear (d : TexDesc) (lam : Nat) (u v : FV × Rat) (free : Nat) : List Tap :=
  let m := lam / 256
  bilinear d m u v (256 - lam % 256) free ++ bilinear d (min (m + 1) (d.levels - 1)) u v (lam % 256) (free / 2 ^ 64)

/-- R411: the level of point and bilinear filtering. -/
def nearLevel (lam : Nat) : Nat := (lam + 128) / 256

/-- R412: the texels of a TXS or TXL lane and the divisor of their weights. -/
def taps (d : TexDesc) (lit : Word) (free : Nat) (q : List PWord) : List Tap × Nat :=
  let l := lodOf d lit (free / 2 ^ 128) q
  let u := (rf q 0, (0 : Rat))
  let v := (rf q 1, (0 : Rat))
  match fld lit 3 2 with
  | 0 =>
    let m := nearLevel l.lam
    let a := texCoord (rf q 0) 0 (d.lw m) true (free : Int)
    let b := texCoord (rf q 1) 0 (d.lh m) true (free / 2 ^ 32 : Nat)
    ([⟨1, m, wrapTexel d.modeU (d.lw m) a.1, wrapTexel d.modeV (d.lh m) b.1⟩], 1)
  | 1 => (bilinear d (nearLevel l.lam) u v 1 free, 2 ^ 16)
  | 2 => (trilinear d l.lam u v free, 2 ^ 24)
  | _ =>
    ((List.range l.n).flatMap (fun (k : Nat) =>
      let c : Rat := mkRat (2 * k + 1 - l.n : Int) (2 * l.n)
      trilinear d l.lam (moved (rf q 0) c l.du) (moved (rf q 1) c l.dv) (if k = 0 then free else free / 2 ^ (64 + 128 * k))),
      l.n * 2 ^ 24)

/-- R414: the four texels of a gather. -/
def gatherTaps (d : TexDesc) (lit : Word) (free : Nat) (q : List PWord) : List Tap :=
  bilinear d (nearLevel (lodOf d lit (free / 2 ^ 128) q).lam) (rf q 0, 0) (rf q 1, 0) 1 free

/-- The texels that a lane of an access reads. -/
def texTaps (op : TexOp) (d : TexDesc) (lit : Word) (free : Nat) (q : List PWord) : List Tap :=
  match op with
  | .txg => gatherTaps d lit free q
  | _ => (taps d lit free q).1

/-- R412: the exact weighted sum of a channel, rounded once to FP32. -/
def filterChan (d : TexDesc) (ts : List (Tap × List Byte)) (den c : Nat) : FV :=
  let sum := ts.foldl (fun (a : FV) t => a.add 0 ((FV.ofInt t.1.wt).mul (texChan d.fmt t.2 c))) (FV.fin true 0 0)
  match sum with
  | .fin s m e => fp32.val (fp32.roundRat 0 s m den e)
  | v => v

def f16Of (v : FV) : Nat := fp16.round 0 v

/-- R413: the returned word of TXS. -/
def txsWord (d : TexDesc) (lit : Word) (ts : List (Tap × List Byte)) (den : Nat) : Word :=
  let ch := filterChan d ts den
  match fld lit 11 2 with
  | 0 => w32 (((List.range 4).map (fun j => u8Of (ch j) * 256 ^ j)).foldl (· + ·) 0)
  | 1 => w32 (f16Of (ch 0) + f16Of (ch 1) * 2 ^ 16)
  | 2 => w32 (f16Of (ch 2) + f16Of (ch 3) * 2 ^ 16)
  | _ => rnd32 0 (ch (fld lit 13 2))

/-- R414: the returned word of TXG. -/
def txgWord (d : TexDesc) (lit : Word) (ts : List (Tap × List Byte)) : Word :=
  let v := fun (i : Nat) => texChan d.fmt ((ts.map (fun t => t.2)).getD i []) (fld lit 11 2)
  if bit lit 13 then
    let h := if bit lit 14 then 2 else 0
    w32 (f16Of (v h) + f16Of (v (h + 1)) * 2 ^ 16)
  else w32 (((List.range 4).map (fun i => u8Of (v i) * 256 ^ i)).foldl (· + ·) 0)

/-- R414: the eight words of TXL. -/
def txlWords (d : TexDesc) (ts : List (Tap × List Byte)) (den : Nat) : List Word :=
  let b := fun (c : Nat) => bf16.round 0 (filterChan d ts den c)
  (List.range 8).map (fun j => if d.fmt = 10 ∧ 4 ≤ j then 0 else w32 (b (2 * j) + b (2 * j + 1) * 2 ^ 16))

/-! ## Issue (R408) -/

/-- R18: the unit of a tile. -/
def texUnit (x : Site) : Nat := match x with | .tile n => n / 2 | _ => 0

/-- Words u, v of the first three lanes of a complete quad, read from every lane (R411). -/
def State.quadWords (s : State) (t : Thread) (f : Fields) (l : Nat) : List PWord :=
  let k := l / 4 * 4
  if t.width < k + 4 then []
  else [k, k + 1, k + 2].flatMap (fun j =>
    let i := (t.as f).getD j .zero
    if recOk i 7 then (s.recWords t j i 7).take 2 else [.bad, .bad])

/-- One lane of a texture request. -/
def State.texLane (s : State) (t : Thread) (f : Fields) (op : TexOp) (ea : Int) (x : Access) (l : Nat) : Access :=
  let i := (t.as f).getD l .zero
  let z := t.zs.getD l .zero
  let b := t.b0 f
  let new := LaneAcc.new l ea 4 [] [] z.w
  if i.pois || b.pois || (op = .txl && z.pois) then x.addLane new (some 0)
  else if !recOk i 7 || (op = .txl && !recOk z 8) then { x with lanes := x.lanes ++ [{ new with st := .done, pois := true }] }
  else match laneFault false ea 64 with
    | some r => x.addLane new (some r)
    | none => x.addLane { new with st := .todo, qrec := s.recWords t l i 7 ++ s.quadWords t f l } none

/-- R384, R408: TXS, TXL or TXG as it issues: a request in its tile's queue. -/
def State.texIssue (s : State) (u : Nat) (t : Thread) (f : Fields) (opc : Nat) (op : TexOp) : State :=
  let s := s.recOobs t ((t.as f, 7, false) :: (if op = .txl then [(t.zs, 8, true)] else []))
  let ea := eaOf (s.baseOf t (fld f.lit 0 3)) (t.b0 f).w 1
  let x := { t.access (.tex op) opc f.lit none 0 0 (dstRegs f) with desc := ea }
  let x := t.selLanes.foldl (fun x l => s.texLane t f op ea x l) x
  let a := s.fresh
  let s := s.issueAcc u x
  if x.lanes.all (fun m => m.st == .done) then s
  else
    let s := s.modSite t.src.site (fun v => { v with texq := v.texq ++ [a] })
    let s := if op = .txl then s.modThr u (fun t => { t with lfPend := t.lfPend ++ [a] }) else s
    s.postEv .textureRequestAccept { a := texUnit t.src.site }

/-- R408: the requests of a tile that have not had their reply. -/
def State.texHeld (s : State) (x : Site) : Nat :=
  (s.accs.filter (fun e => (match e.2.op with | .tex _ => true | _ => false) && e.2.who.ag.site == x
    && e.2.lanes.any (fun m => m.st != .done))).length

/-- R408: a tile keeps four requests until their replies; the fifth holds at issue. -/
def State.texInstr (s : State) (f : Fields) (opc : Nat) (op : TexOp) : Out :=
  s.gfxInstr f { opc := opc, lf := true, ctr := some .ld, counts := Thread.tileLane } (fun u t =>
    if 4 ≤ s.texHeld t.src.site then .hold s
    else .ok (s.texIssue u t f opc op) { v := some (t.as f), load := true })

/-- R413. -/
def execTxs (f : Fields) (s : State) : Out := s.texInstr f 0xEC .txs
/-- R414. -/
def execTxl (f : Fields) (s : State) : Out := s.texInstr f 0xED .txl
/-- R414. -/
def execTxg (f : Fields) (s : State) : Out := s.texInstr f 0xEE .txg

/-- R325, R408: the oldest request of a tile, unless its region's budget is spent or the tile has stopped. -/
def State.texReady (s : State) (n : Nat) : Option (Nat × Access) :=
  match (s.site (.tile n)).texq.head? with
  | none => none
  | some a =>
    match s.acc? a with
    | none => none
    | some x =>
      if s.spent x.who.part x.who.region (n / 64) itemTexture || s.idleSite (.tile n) then none else some (a, x)

/-- R326, R408: the unit takes a request: that of the tile whose region ranks higher, and at equal rank it alternates
between its two tiles. -/
def State.texAccept (s : State) (unit : Nat) : State :=
  let last := tgetD s.texLast unit (2 * unit + 1)
  let other := if last = 2 * unit then 2 * unit + 1 else 2 * unit
  let again := fun (s : State) => if ((s.site (.tile (2 * unit))).texq ++ (s.site (.tile (2 * unit + 1))).texq).isEmpty then s
    else s.postEv .textureRequestAccept { a := unit }
  let ready := [other, last].filterMap (fun n => (s.texReady n).map (fun r => (n, r)))
  let rk := fun (e : Nat × Nat × Access) => s.rank e.2.2.who.part e.2.2.who.region (e.1 / 64) itemTexture
  match ready.find? (fun e => ready.all (fun g => decide (rk g ≤ rk e))) with
  | none => again s
  | some (n, a, x) =>
    let s := s.modSite (.tile n) (fun v => { v with texq := v.texq.drop 1 })
    let s := s.charge x.who.part x.who.region (n / 64) itemTexture 1
    (({ s with texLast := tset s.texLast unit n }.postEv .textureReply { a := a }).postEv .textureRequestAccept { a := unit })

/-- Acts on a = texture unit. A unit without requests waits for the next. -/
def execTextureRequestAccept (s : State) : Out :=
  let u := s.subj.a
  if ((s.site (.tile (2 * u))).texq ++ (s.site (.tile (2 * u + 1))).texq).isEmpty then .next s else .next (s.texAccept u)

/-! ## Replies -/

/-- What the addresses of a lane meet. -/
inductive TexX
  | hold
  | park (code : Nat) (ea : Int)
  | fail (reason : Nat)
  /-- each address with its physical one and its page's replication attribute -/
  | ok (pas : List (Int × Nat × Nat))

/-- Translate a list of addresses; the first that has none decides. -/
def State.texXlate (s : State) (x : Access) : List Int → TexX
  | [] => .ok []
  | ea :: es =>
    match s.engXlate x.who.part x.who.ag.site ea false es.length with
    | .hold => .hold
    | .miss => .park 1 ea
    | .cow => .park 2 ea
    | .fail => .fail (if inRange57 ea then 3 else 1)
    | .ok pa repl =>
      match s.texXlate x es with
      | .ok r => .ok ((ea, pa, repl) :: r)
      | r => r

/-- The line of a unit's cache that an access may use; one from another module always. -/
def State.texLine (s : State) (x : Access) (pa : Nat) : Option (List Byte) :=
  match tget s.tex (texUnit x.who.ag.site, x.who.inv, lineOf pa) with
  | none => none
  | some bs => if isAperture pa || Config.held s.tick (8 * lineOf pa + 3) then some bs else none

/-- R408, R269: the bytes at an address, through the unit's cache. -/
def State.texRead (s : State) (x : Access) (pa n : Nat) : List Byte :=
  match s.texLine x pa with
  | some bs => (bs.drop (pa % 128)).take n
  | none => s.engRead x.who.ag.site 0 pa n

/-- R362: the address of the first word under an error among the bytes that an access reads, none where the unit's cache
serves them or they are sound. -/
def State.texErr (s : State) (x : Access) (pa n : Nat) : Option Nat :=
  if isAperture pa || (s.texLine x pa).isSome || !s.engBad x.who.ag.site 0 pa n then none
  else some (firstErr (s.engErrs x.who.ag.site 0 pa) pa n)

/-- The unit's cache takes the lines of a list of addresses, but none with an error in it. -/
def State.texFill (s : State) (x : Access) (pas : List Nat) : State :=
  pas.foldl (fun s pa =>
    if (s.texLine x pa).isSome || s.engBad x.who.ag.site 0 (lineOf pa * 128) 128 then s
    else { s with tex := tset s.tex (texUnit x.who.ag.site, x.who.inv, lineOf pa) (s.engRead x.who.ag.site 0 (lineOf pa * 128) 128) }) s

/-- The lines of another module that the unit's cache lacks. -/
def State.texFar (s : State) (x : Access) (pas : List Nat) : List Nat :=
  (pas.filter (fun pa => isAperture pa && (s.texLine x pa).isNone)).map (fun pa => lineOf pa * 128)

/-- R428: fetch lines of another module; false while they are on their way. The far access stands in the first
lane's `qAt`. -/
def State.texFetch (s : State) (a : Nat) (x : Access) (far : List Nat) : State × Bool :=
  let h := (x.lanes.head?).elim 0 (fun m => m.qAt)
  match (if h = 0 then none else s.acc? h) with
  | none =>
    if far.isEmpty then (s, true)
    else
      let k := s.fresh
      let ls := far.mapIdx (fun i (pa : Nat) => { LaneAcc.new i pa 128 [] [] 0 with pa := pa, st := .todo })
      let s := s.bump.modAcc a (fun x => { x with lanes := match x.lanes with | [] => [] | m :: r => { m with qAt := k } :: r })
      (s.sendEngine k (engineAccess (.ld false) x.who ls), false)
  | some y =>
    if !y.lanes.all (fun m => m.st == .done) then (s, false)
    else
      let s : State := { s with accs := tdel s.accs h }
      let s := s.modAcc a (fun x => { x with lanes := match x.lanes with | [] => [] | m :: r => { m with qAt := 0 } :: r })
      let s := y.lanes.foldl (fun s m =>
        { s with tex := tset s.tex (texUnit x.who.ag.site, x.who.inv, lineOf m.pa) (if m.pois then [] else m.got) }) s
      (s, true)

/-- A line of another module that could not be read stands empty until its request has failed. -/
def State.texLost (s : State) (x : Access) (pa : Nat) : Bool := isAperture pa && s.texLine x pa == some []

def State.texForget (s : State) : State := { s with tex := s.tex.filter (fun e => e.2 ≠ []) }

/-- A lane's result: the returned word with its poison, and the lane-file words of TXL. -/
def texResult (op : TexOp) (d : TexDesc) (x : Access) (m : LaneAcc) (ts : List (Tap × List Byte)) (den : Nat) : PWord × List Word :=
  let bad := anyPois m.qrec (lodReads x.lit m.qrec)
  match op with
  | .txs => (⟨txsWord d x.lit ts den, bad⟩, [])
  | .txg => (⟨txgWord d x.lit ts, bad⟩, [])
  | .txl => (⟨1, bad⟩, txlWords d ts den)

/-- The free bits of a lane (assumption 7): 64 for the coordinates at one level, 64 at the next, 32 for the
level of detail, 32 for the number of probes, 128 for the coordinates of each further probe. -/
def texFree (s : State) (l : Nat) : Nat :=
  ((List.range 66).map (fun j => (Config.word s.tick (8 * (66 * l + j) + 3)).toNat * 2 ^ (32 * j))).foldl (· + ·) 0

/-- One lane's result is written: to the lane file, and in its place for the load targets. -/
def State.texLaneDone (s : State) (a : Nat) (op : TexOp) (d : TexDesc) (x : Access) (free : Nat) (m : LaneAcc) (pas : List (Int × Nat × Nat)) : State :=
  let tp := texTaps op d x.lit free m.qrec
  let bs := tp.map (fun t =>
    let ea := d.addr t.m t.x t.y
    (t, match pas.find? (fun p => decide (p.1 = ea)) with
      | none => []
      | some p => s.texRead x p.2.1 (texBytes d.fmt)))
  let r := texResult op d x m bs (taps d x.lit free m.qrec).2
  let s := match s.thr? x.uid with
    | none => s
    | some t => s.recWrite t m.lane (Zx m.z) (r.2.mapIdx (fun j w => (j, w))) r.1.pois
  s.modLane a m.lane (fun m => { m with st := .done, got := leBytes 4 r.1.w.toNat, pois := r.1.pois })

/-- Lanes that meet something keep it: parked with their page's record, or failed. -/
def State.texMeet (s : State) (a : Nat) (l : Nat) : TexX → State
  | .park code ea => (s.modLane a l (fun m => { m with ea := ea })).parkLane a l code
  | .fail r => s.failLane a l r
  | _ => s

/-- The lanes of a texture access that are still to be served. -/
def Access.texTodo (x : Access) : List LaneAcc := x.lanes.filter (fun m => m.st == .todo)

/-- R409 to R414: with the descriptor's bytes at hand, every lane's texels. -/
def State.texLanes (s : State) (a : Nat) (op : TexOp) (x : Access) (d : TexDesc) : State :=
  let free := texFree s
  let need := x.texTodo.map (fun m => (m, s.texXlate x ((texTaps op d x.lit (free m.lane) m.qrec).map (fun t => d.addr t.m t.x t.y))))
  let again := fun (s : State) => s.postEv .textureReply { a := a }
  if need.any (fun e => match e.2 with | .hold => true | _ => false) then again s
  else
    let s := need.foldl (fun s e => s.texMeet a e.1.lane e.2) s
    match s.acc? a with
    | none => s
    | some y =>
      if y.lanes.any (fun m => m.st == .parked || m.st == .walk) then s
      else
        let oks := need.filterMap (fun e => match e.2 with | .ok p => some (e.1, p) | _ => none)
        let pas := oks.flatMap (fun e => e.2.map (fun p => p.2))
        let r := s.texFetch a y (s.texFar y (pas.map (fun p => p.1)))
        if !r.2 then again r.1
        else match r.1.engTouchAll x.who.part x.who.region x.who.ag.site 0 a (pas.filter (fun p => !isAperture p.1)) with
          | none => (again r.1).wantLast x.who.ag.site x.who.part x.who.region (wantLines pas)
          | some s =>
            let bad := oks.filterMap (fun e => (e.2.findSome? (fun p => s.texErr x p.2.1 (texBytes d.fmt))).map (fun pa => (e.1, pa)))
            let lost := oks.filter (fun e => e.2.any (fun p => s.texLost x p.2.1))
            let good := oks.filter (fun e => !bad.any (fun b => b.1.lane == e.1.lane) && !lost.any (fun b => b.1.lane == e.1.lane))
            let s := lost.foldl (fun s e => s.failLane a e.1.lane 3) s
            let s := bad.foldl (fun s e => s.readError a e.1.lane x e.2) s
            let s := s.texFill x ((pas.map (fun p => p.1)).filter (fun pa => !isAperture pa))
            let s := (good.foldl (fun s e => s.texLaneDone a op d x (free e.1.lane) e.1 e.2) s).texForget
            match s.acc? a with
            | none => s
            | some y => if s.returns a y then s.returnData a y else s

/-- R409: read the descriptor, then serve the lanes. -/
def State.texReply (s : State) (a : Nat) (op : TexOp) (x : Access) : State :=
  let todo := x.texTodo
  let all := fun (s : State) (r : Nat) => todo.foldl (fun s m => s.failLane a m.lane r) s
  match todo, s.texXlate x [x.desc] with
  | [], _ => s
  | _, .hold => s.postEv .textureReply { a := a }
  | m :: _, .park code ea => s.texMeet a m.lane (.park code ea)
  | _, .fail r => all s r
  | _, .ok pas =>
    match pas with
    | [] => s
    | p :: _ =>
      let r := s.texFetch a x (s.texFar x [p.2.1])
      if !r.2 then r.1.postEv .textureReply { a := a }
      else
        let s := r.1
        if s.texLost x p.2.1 then all s.texForget 3
        else match s.texErr x p.2.1 64 with
        | some pa => todo.foldl (fun s m => s.readError a m.lane ((s.acc? a).getD x) pa) s
        | none =>
          let d := texDesc (s.texRead x p.2.1 64)
          if !d.ok || (op == .txl && !isLatent d.fmt) then all s 6
          else s.texLanes a op ((s.acc? a).getD x) d

/-- Acts on a = access. -/
def execTextureReply (s : State) : Out :=
  let a := s.subj.a
  match s.acc? a with
  | none => .next s
  | some x =>
    match x.op with
    | .tex op =>
      if x.retired || x.lanes.any (fun m => m.st == .parked || m.st == .walk) then .next s
      else if s.idleSite x.who.ag.site && (s.thr? x.uid).isNone then .next (s.postEv .textureReply { a := a })
      else .next (s.texReply a op x)
    | _ => .next s

/-! ## The return of data (R249, R384) -/

/-- R249, R250, R384: the data of an access returns. An engine's own access is read by the engine. -/
def State.loadReturn (s : State) (a : Nat) : State :=
  match s.acc? a with
  | none => s
  | some x =>
    if x.uid = 0 || x.retired then s
    else if x.isResolve then s.resolveEnd a x
    else if !s.returns a x then s.postEv .loadDataReturn { a := a }
    else match x.op with
      | .box => s.testReturn a x
      | .tri => s.testReturn a x
      | .beam => s.testReturn a x
      | _ => s.returnData a x

/-- Acts on a = access. -/
def execLoadDataReturn (s : State) : Out := .next (s.loadReturn s.subj.a)

end Sys2Proof.Machine
end

