-- ==== Sys2Proof/Machine/Halt.lean ====
section
/-! DEFINITION. The halt line (R363 to R368), stop records (R365), pre-emption, swap-out and resume (R369 to
R373), quantum expiry (R345), memory errors (R362), the lantern's ring (R374). -/

namespace Sys2Proof.Machine

/-! ## Engine slots (R365) -/

/-- The fabric tiles that a texture or column slot serves. -/
def slotTiles (slot : Nat) : List Nat :=
  if 896 ≤ slot ∧ slot < 1152 then [2 * (slot - 896), 2 * (slot - 896) + 1]
  else if 1152 ≤ slot ∧ slot < 1216 then (List.range 8).map (fun r => 8 * (slot - 1152) + r)
  else []

/-- The slots of the slices of a partition's domains. -/
def State.sliceSlots (s : State) (p : Nat) : List Nat :=
  ((List.range 64).filter (s.ownSlice p)).map (fun n => 1216 + n)

/-- The engine slots of some tiles and elements, in slot order, with the slices of the partition. -/
def State.slotsOf (s : State) (p : Nat) (tiles elems : List Nat) : List Nat :=
  (List.range 2176).filter (fun k =>
    if k < 512 then tiles.contains k
    else if k < 896 then elems.contains (k - 512)
    else if k < 1216 then (slotTiles k).any tiles.contains
    else if k < 1280 then (s.sliceSlots p).contains k
    else if k < 1792 then tiles.contains (k - 1280)
    else elems.contains (k - 1792))

/-- The site of a tile's or element's slot. -/
def slotSite (slot : Nat) : Site :=
  if slot < 512 then .tile slot
  else if slot < 896 then .elem (slot - 512)
  else if slot < 1792 then .tile (slot - 1280)
  else .elem (slot - 1792)

/-! ## When an engine may stop (R251, R364) -/

/-- R251: an access that cannot go on before a reply: a lane is parked, or it comes behind such an access. -/
def State.stuckStep (s : State) (stuck : List (Nat × Access)) (e : Nat × Access) : List (Nat × Access) :=
  let x := e.2
  let mine := stuck.filter (fun y => y.2.uid == x.uid && decide (y.2.seq < x.seq))
  if x.lanes.any (fun m => m.st == .parked)
      || x.gates.any (fun g => g.1.any (fun a => stuck.any (fun y => y.1 == a)))
      || mine.any (fun y => x.lanes.any (fun m => m.st != .done && !s.after x m y.2)) then stuck ++ [e]
  else stuck

/-- The accesses of a site that are stuck. -/
def State.stuck (s : State) (x : Site) : List Nat :=
  (((s.accs.filter (fun e => e.2.who.ag.site == x)).foldl s.stuckStep [])).map (fun e => e.1)

/-- R262: an access lies in a guyline buffer. -/
def State.buffered (s : State) (a : Nat) (x : Access) : Bool :=
  match x.chain with
  | none => false
  | some r => match s.chainOf x.who.part r.handle with
    | none => false
    | some c => c.2.held.contains a

/-- R251, R364: every access of the site is back, has performed, is withdrawn or is in a guyline buffer. -/
def State.accsQuiet (s : State) (x : Site) : Bool :=
  let st := s.stuck x
  s.accs.all (fun e => e.2.who.ag.site != x || e.2.retired || st.contains e.1 || s.buffered e.1 e.2
    || (s.site x).texq.contains e.1)

/-- R377: a thread of the site waits for a control word. -/
def State.cwPending (s : State) (x : Site) : Bool :=
  s.threads.any (fun e => e.2.src.site == x && e.2.stat == .column && (match e.2.wait with
    | none => false
    | some w => w.opc == 0xF4 || w.opc == 0xF5))

/-- The slots that must stop before a tile's cells: its texture and column units. -/
def unitSlots (x : Site) : List Nat :=
  match x with
  | .tile n => [896 + n / 2, 1152 + n / 8]
  | _ => []

/-- R265: no access of the partition to a guyline chain is still on its way to its home. -/
def State.chainsQuiet (s : State) (p : Nat) (stops : Site → Bool) : Bool :=
  s.accs.all (fun e => e.2.who.part != p || !stops e.2.who.ag.site || (match e.2.chain with
    | none => true
    | some r => r.arrived || (s.stuck e.2.who.ag.site).contains e.1))

/-- The pieces of a chain's save area (R265). -/
def Chain.savePieces (c : Chain) : List (Int × Nat) := linesOf c.save 16384

/-- R307, R317: the save area of a chain that a slice homes is held. -/
def State.saveAreaHeld (s : State) (p slice : Nat) : Bool :=
  (s.part p).chains.any (fun c => c.2.isOpen && c.2.home == slice && c.2.savePieces.any (fun q => s.hwHolds p (.syrad 0) q.1))

/-- R364: an engine has reached its stop unit; a slice only after every cell, whose accesses it takes in (R265). -/
def State.engineReady (s : State) (p slot : Nat) (todo : List Nat) (stops : Site → Bool) : Bool :=
  if slot < 896 then
    let x := slotSite slot
    s.accsQuiet x && !s.cwPending x && !(unitSlots x).any todo.contains
  else if slot < 1152 then
    s.accs.all (fun e => e.2.who.part != p || !(slotTiles slot).any (fun n => e.2.who.ag.site == .tile n) || e.2.retired
      || (match e.2.op with | .tex _ => false | _ => true) || (s.site e.2.who.ag.site).texq.contains e.1
      || e.2.lanes.any (fun m => m.st == .parked))
  else if slot < 1216 then true
  else if slot < 1280 then !todo.any (fun k => decide (k < 896)) && s.chainsQuiet p stops && !s.saveAreaHeld p (slot - 1216)
  else (s.site (slotSite slot)).copies.all (fun c => c.2.flight.isEmpty && c.2.fetching.isNone)

/-! ## Stopping an engine -/

/-- R171: a thread that waits for the column unit stands at its instruction again, which then counts in
`cell.issued` as it issues again and not before; the tile-cycles of its first issue stay charged (assumption 49). -/
def State.withdrawColumn (s : State) (u : Nat) : State :=
  match s.thr? u with
  | none => s
  | some t =>
    if t.stat ≠ .column then s
    else
      let s := s.unreserveAll (t.plan.ents.flatMap (fun e => e.resv))
      let s := s.modSite t.src.site (fun v => { v with colq := v.colq.filter (fun q => q.uid ≠ u) })
      let s := s.modCells t.src.site t.cellsHeld (fun c => { c with issued := c.issued - 1 })
      (s.setThr u { t with stat := .run, wait := none, plan := ⟨[], none⟩ }).post (.issue t.src)

/-- R171: withdraw every column request of some tiles. -/
def State.withdrawTiles (s : State) (ts : List Nat) : State :=
  (ts.flatMap (fun n => (s.site (.tile n)).colq)).foldl (fun s q => s.withdrawColumn q.uid) s

/-- The bytes of a chain's save area (R265, assumption 23). -/
def Chain.saveBytes (c : Chain) (h : Word) : List Byte :=
  let k := [h.toNat, c.w.toNat, (c.s.map (fun o => o + 1)).getD 0, c.l, c.share, c.held.length]
  (List.range 16384).map (Config.saveByte k)

/-- R265: a chain's state is written to its save area; nothing more is released. -/
def State.saveChain (s : State) (p n : Nat) (c : Chain) : State :=
  let bs := c.saveBytes (chainHandle n c.gen)
  let s := c.savePieces.foldl (fun s q =>
    match s.hwXlate p (.syrad 0) q.1 true with
    | none => s
    | some pa => s.hwWrite pa ((bs.drop (q.1 - c.save).toNat).take q.2)) s
  s.setChain p n { c with saved := true }

/-- R265: the chains of a partition that a slice homes are saved. -/
def State.saveChains (s : State) (p slice : Nat) : State :=
  ((s.part p).chains.filter (fun c => c.2.isOpen && c.2.home == slice)).foldl (fun s c => s.saveChain p c.1 c.2) s

/-- R265: the chains of a partition are restored. -/
def State.restoreChains (s : State) (p : Nat) : State :=
  s.modPart p (fun v => { v with chains := v.chains.map (fun c => (c.1, { c.2 with saved := false })) })

/-- What an engine does as it stops. -/
def State.stopEngine (s : State) (p slot : Nat) : State :=
  if slot < 512 then s.withdrawTiles [slot]
  else if 1152 ≤ slot ∧ slot < 1216 then s.withdrawTiles ((slotTiles slot).filter (fun n => (s.site (.tile n)).part == some p
      && ((s.part p).halted || (s.part p).preempt.tiles.contains n)))
  else if 1216 ≤ slot ∧ slot < 1280 then s.saveChains p (slot - 1216)
  else s

/-! ## Stop records (R365) -/

/-- The kind of a slot. -/
def slotKind (slot : Nat) : Nat :=
  if slot < 512 then 0 else if slot < 896 then 1 else if slot < 1152 then 2 else if slot < 1216 then 3
  else if slot < 1280 then 4 else if slot < 1792 then 5 else 6

/-- The requests of the partition that a texture or column unit has not accepted. -/
def State.withdrawn (s : State) (p slot : Nat) : Nat :=
  ((slotTiles slot).map (fun n =>
    let v := s.site (.tile n)
    if v.part ≠ some p then 0
    else if slot < 1152 then v.texq.length else (v.colq.filter (fun q => !q.accepted)).length)).foldl (· + ·) 0

/-- Words 6 to 23: what an engine held as it stopped. -/
def State.stopWords (s : State) (p slot : Nat) : List Word :=
  match slotKind slot with
  | 0 =>
    let c := fun (i : Nat) => s.cell ⟨.tile slot, i⟩
    let on := fun (i : Nat) => (c i).run.isSome
    let ip := fun (i : Nat) => match (c i).run.bind s.thr? with | none => 0xFF | some t => t.ip % 256
    let mask := fun (b : Nat) => w32 ((List.range 32).foldl (fun m i => if on (b + i) then m + 2 ^ i else m) 0)
    [mask 0, mask 32] ++ (List.range 16).map (fun i => w32 (ip (4 * i) + 2 ^ 8 * ip (4 * i + 1) + 2 ^ 16 * ip (4 * i + 2) + 2 ^ 24 * ip (4 * i + 3)))
  | 1 =>
    let e := s.elem (slot - 512)
    [w32 e.queue.length, match e.running with | none => 0 | some m => w32 (m.op % 256 + m.row % 1024 * 2 ^ 8)]
  | 2 => [w32 (s.withdrawn p slot)]
  | 3 => [w32 (s.withdrawn p slot)]
  | 4 =>
    let n := slot - 1216
    let held := ((s.part p).chains.filter (fun c => c.2.isOpen && c.2.home == n)).map (fun c => c.2.held.length)
    [w32 (held.foldl (· + ·) 0), w32 (s.coh.colls.filter (fun c => s.homeOr (c.line * 128) == n)).length]
  | _ => let v := s.site (slotSite slot); [w32 v.copies.length, w32 v.chains.length]

/-- Work is withdrawn as a slot stops. -/
def State.withdraws (s : State) (p slot : Nat) : Bool :=
  if slot < 896 then !(s.stuck (slotSite slot)).isEmpty || !(s.site (slotSite slot)).colq.isEmpty
  else if slot < 1216 then s.withdrawn p slot != 0 else false

/-- R362, R365: an uncorrectable error was found in the state of a slot's engine: R362 names such state of tiles,
elements and slices. -/
def State.slotErr (s : State) (slot : Nat) : Bool :=
  if slot < 896 then (s.site (slotSite slot)).err else decide (1216 ≤ slot ∧ slot < 1280) && (s.slice (slot - 1216)).err

/-- R365: the 32 words of a stop record. -/
def State.stopRecord (s : State) (p slot : Nat) : List Word :=
  let v := s.part p
  ([w32 (p * 2 ^ 28 + slotKind slot * 2 ^ 24 + slot), w32 (v.stop1 + v.stop2 * 2 ^ 16), w32 (s.cycle - v.haltAt),
    w32 ((if s.withdraws p slot then 1 else 0) + (if s.slotErr slot then 2 else 0)), w32 s.tod, w32 (s.tod / 2 ^ 32)] ++ s.stopWords p slot ++ List.replicate 32 0).take 32

/-! ## The halt line (R363, R366 to R368) -/

/-- R363: the halt line rises: every engine of the partition goes to its stop. A further stop fault stands as
the second stop. Acts on a = partition, b = code (0 for a raise). -/
def execHaltLineRaise (s : State) : Out :=
  let p := s.subj.a
  match tget s.parts p with
  | none => .next s
  | some v =>
    if v.halted then
      .next (if s.subj.b ≠ 0 ∧ v.stop2 = 0 then s.setPart p { v with stop2 := s.subj.b } else s)
    else
      let slots := s.slotsOf p v.tiles v.elems
      let s := s.setPart p { v with halted := true, haltAt := s.cycle, stop1 := s.subj.b, stopping := slots }
      .next (slots.foldl (fun s k => s.postEv .engineStop { a := p, b := k }) s)

/-- R366: the raise command. Acts on a = partition, d = thread. -/
def execRaiseHalt (s : State) : Out :=
  .next ((s.postEv .haltLineRaise { a := s.subj.a }).cwSet s.subj.d)

/-- R428: the host's stop flit raises the line with "host stop". The record names no agent, so its detail words are zero
(assumption 50). -/
def State.hostStop (s : State) (p : Nat) : State :=
  if (tget s.parts p).isNone then s else s.stopFault p 0 0 0xFFFFFFFF 0x0204 []

/-- R364, R365: an engine stops: for a pre-emption it acknowledges (c = 1); under the halt line it writes its
stop record (c = 0). Acts on a = partition, b = slot, c. -/
def execEngineStop (s : State) : Out :=
  let p := s.subj.a
  let k := s.subj.b
  let v := s.part p
  let again : Out := .next (s.postEv .engineStop s.subj)
  if s.subj.c = 0 then
    if !v.halted || !v.stopping.contains k then .next s
    else if !s.engineReady p k v.stopping (fun x => (s.site x).part == some p) then again
    else
      let ws := s.stopRecord p k
      let s := s.stopEngine p k
      let s := s.hwWrite ((v.srbase.toNat / 4096 * 4096 + 128 * k) % 2 ^ 51) (wordsBytes ws)
      .next (s.modPart p (fun v => { v with stopping := v.stopping.filter (· ≠ k) }))
  else
    let q := v.preempt
    if !q.toStop.contains k then .next s
    else if v.halted || !s.engineReady p k q.toStop (fun x => q.covers (engOf x)) then again
    else
      let s := (s.stopEngine p k).modPart p (fun v => { v with preempt := { v.preempt with toStop := v.preempt.toStop.filter (· ≠ k) } })
      .next (if (s.part p).preempt.toStop.isEmpty then s.postEv .preemptionComplete { a := p } else s)

/-- R251, R366, R372 step 4: accesses that were withdrawn while parked issue again. -/
def State.reissueParked (s : State) (mine : Who → Bool) : State :=
  let ks := s.accs.flatMap (fun e =>
    if mine e.2.who && (match e.2.chain with | none => true | some r => r.active) then
      (e.2.lanes.filter (fun m => m.st == .parked)).map (fun m => (e.1, m.lane)) else [])
  ks.foldl (fun s k => (s.modLane k.1 k.2 (fun m => { m with st := .walk })).postEv .pageWalk { a := k.1, b := k.2 }) s

/-- R366, R367: the release takes effect once every stop record is written. Acts on a = partition, d = thread. -/
def execReleaseHalt (s : State) : Out :=
  let p := s.subj.a
  let v := s.part p
  if !v.halted || !v.stopping.isEmpty then .next (s.cwSet s.subj.d)
  else
    let s := s.modPart p (fun v => { v with halted := false, frozen := v.frozen + (s.cycle - v.haltAt), stop1 := 0, stop2 := 0 })
    let s := if v.preempt.st = 0 then s.restoreChains p else s
    .next ((s.reissueParked (fun w => w.part == p && !s.idleSite w.ag.site)).cwSet s.subj.d)

/-! ## Pre-emption (R369 to R371) -/

/-- The running invocations of some regions. -/
def State.runningOf (s : State) (p : Nat) (rs : List Nat) : Tbl Nat Launch :=
  s.launches.filter (fun e => e.2.part == p && decide (e.2.st = .run) && rs.contains e.2.region)

/-- R369: a tile runs one of these invocations. -/
def State.tileRuns (s : State) (p n : Nat) (ls : Tbl Nat Launch) : Bool :=
  match (s.site (.tile n)).img with
  | none => false
  | some k => ls.any (fun e => pktKey p e.2.hdr == k && (pktDies e.2.hdr).contains (n / 64))

/-- R369: an element has work of these invocations. -/
def State.elemRuns (s : State) (e : Nat) (ls : Tbl Nat Launch) : Bool :=
  let mine := fun (i : Nat) => ls.any (fun l => l.1 == i)
  ((s.elem e).queue ++ (s.elem e).running.toList).any (fun m => mine m.who.inv)
    || s.threads.any (fun t => t.2.src.site == .elem e && mine t.2.inv)
    || (s.site (.elem e)).copies.any (fun c => mine c.2.who.inv) || (s.site (.elem e)).chains.any (fun c => mine c.2.who.inv)

/-- R369: a request to pre-empt some regions: refused while the partition is halted, another pre-emption runs
or a bivouac slot is occupied. -/
def State.preempt (s : State) (p : Nat) (rs : List Nat) (byQuantum : Bool) : State :=
  let v := s.part p
  let ls := s.runningOf p rs
  let tiles := v.tiles.filter (fun n => s.tileRuns p n ls)
  let elems := v.elems.filter (fun e => s.elemRuns e ls)
  if v.halted || v.preempt.st != 0 || tiles.any (fun n => (tget s.biv n).isSome) || (tiles.isEmpty && elems.isEmpty) then s
  else
    let slots := s.slotsOf p tiles elems
    let s := s.setPart p { v with preempt := ⟨1, rs, tiles, elems, slots, byQuantum⟩ }
    slots.foldl (fun s k => s.postEv .engineStop { a := p, b := k, c := 1 }) s

/-- R366. Acts on a = partition, b = region, d = thread. -/
def execPreemptRegion (s : State) : Out :=
  .next ((s.preempt s.subj.a ((s.part s.subj.a).subtree s.subj.b) false).cwSet s.subj.d)

/-- R407: every resident buffer of the pre-empted regions is flushed. -/
def State.flushRegions (s : State) (p : Nat) (rs : List Nat) : State :=
  (s.scr.filter (fun e => e.1.2.1 == p && e.2.resident && rs.contains e.2.region)).foldl (fun s e => s.flushTile e.1 e.2) s

/-- R370 step 2, R318, R407. Acts on a = partition. -/
def execPreemptionComplete (s : State) : Out :=
  let p := s.subj.a
  let v := s.part p
  if v.preempt.st ≠ 1 ∨ !v.preempt.toStop.isEmpty then .next s
  else if v.halted then .next (s.postEv .preemptionComplete { a := p })
  else
    let s := (s.flushRegions p v.preempt.regions).dropCommit p (fun x => v.preempt.covers (engOf x))
    .next ((s.modPart p (fun v => { v with preempt := { v.preempt with st := 2 } })).postEv .swapOutComplete { a := p })

/-- What an event acts on is a site's engine. -/
def onSite : Instr → Bool
  | .copyDescriptorRead | .copyChunk | .copyComplete | .commandBlockFetch | .linkBlock | .copyBlock | .semaphoreBlock
  | .testBlock | .testBlockRetest | .testBlockTimeout | .loopBlock | .callBlock | .returnBlock | .fetchFenceBlock | .chainEnd
  | .tokenDelivery | .tokenEgressDepart => true
  | _ => false

/-- What an event acts on is a cell. -/
def onCell : Instr → Bool
  | .workSelection | .gangClaim | .gangFire => true
  | _ => false

/-- What an event acts on is a thread. -/
def onThread : Instr → Bool
  | .waitTest | .waitExpiry | .reservationReady | .columnReply => true
  | _ => false

/-- A pending activity belongs to a tile and its threads. -/
def actOf (x : Site) (us : List Nat) : Act → Bool
  | .issue ag => ag.site == x
  | .ev i y => (onSite i && y.site == x) || (onCell i && y.ag.site == x) || (onThread i && us.contains y.a)

/-- R86, R373: a time that does not run while a context is swapped: what is left of it. -/
def leftOf (now : Nat) (d : Option Nat) : Option Nat := d.map (fun x => x - now)
def fromLeft (now : Nat) (d : Option Nat) : Option Nat := d.map (fun x => x + now)

def Thread.retime (t : Thread) (f : Option Nat → Option Nat) : Thread :=
  { t with wait := t.wait.map (fun w => { w with deadline := f w.deadline }) }
def SiteSt.retime (v : SiteSt) (f : Option Nat → Option Nat) : SiteSt :=
  { v with chains := v.chains.map (fun c => (c.1, { c.2 with testing := c.2.testing.map f })) }

/-- The launches whose work a tile's context may hold. -/
def State.tileInvs (s : State) (p n : Nat) : List Nat :=
  match (s.site (.tile n)).img with
  | none => []
  | some k => (s.launches.filter (fun e => e.2.part == p && (e.2.st == .arm || e.2.st == .run || e.2.st == .retire)
      && pktKey p e.2.hdr == k)).map (fun e => e.1)

/-- R370 steps 3 and 4, R371: a tile's context goes to its bivouac slot; its tables, colours and lane files
are cleared and the tile is free. -/
def State.swapTile (s : State) (p n : Nat) : State :=
  let x : Site := .tile n
  let now := s.work p
  let ths := s.threads.filter (fun e => e.2.src.site == x)
  let us := ths.map (fun e => e.1)
  let v := s.site x
  let b : Biv := { site := v.retime (leftOf now)
                   cells := (List.range 64).map (fun c => (c, s.cell ⟨x, c⟩))
                   threads := ths.map (fun e => (e.1, e.2.retime (leftOf now)))
                   invs := s.tileInvs p n
                   acts := s.agenda.filter (actOf x us) }
  let clear : SiteSt := { SiteSt.reset with part := v.part, copyGens := v.copyGens, chainGens := v.chainGens }
  let s : State := { s with biv := tset s.biv n b
                            threads := s.threads.filter (fun e => e.2.src.site != x)
                            agenda := s.agenda.filter (fun a => !actOf x us a) }
  (s.writeTables (.tile n) (fun _ => Cell.reset) (fun old _ => { Cell.reset with issued := old.issued, passed := old.passed })).setSite x clear

/-- R371: an element keeps its state in place. -/
def State.holdElem (s : State) (p e : Nat) (f : Option Nat → Option Nat) (out : Bool) : State :=
  let x : Site := .elem e
  let s := s.modSite x (fun v => { v.retime f with swapped := out })
  { s with threads := s.threads.map (fun t => if t.2.src.site = x ∧ t.2.part = p then (t.1, t.2.retime f) else t) }

/-- R370: the contexts are in their slots. Tokens for the tiles that are on the fabric land first, as far as ingress
takes them: a stopped tile delivers none, and what it has no room for waits until the resume (R373).
Acts on a = partition. -/
def execSwapOutComplete (s : State) : Out :=
  let p := s.subj.a
  let q := (s.part p).preempt
  if q.st ≠ 2 then .next s
  else if s.fabric.any (fun k => q.tiles.any (fun n => k.dst == .tile n) && s.lands k) then .next (s.postEv .swapOutComplete { a := p })
  else
    let now := s.work p
    let s := q.tiles.foldl (fun s n => s.swapTile p n) s
    let s := q.elems.foldl (fun s e => s.holdElem p e (leftOf now) true) s
    let s := s.modPart p (fun v => { v with preempt := { v.preempt with st := 3 } })
    .next (if q.byQuantum then s.postEv .resume { a := p } else s)

/-! ## Resume (R372, R373) -/

/-- R345: a launch of another region, of equal or higher priority than the pre-empted ones, waits in Place and could be
placed as the tiles and its budget stand: it is served before the pre-empted work resumes. -/
def State.placeWaits (s : State) (p : Nat) (rs : List Nat) : Bool :=
  let v := s.part p
  let prio : Nat → Nat := fun x => match tget v.regions x with | none => 0 | some g => g.prio
  let top := (rs.map prio).foldl max 0
  s.launches.any (fun e => e.2.part == p && decide (e.2.st = .place) && !rs.contains e.2.region && decide (top ≤ prio e.2.region)
    && (match s.image? (pktKey p e.2.hdr) with | none => false | some m => (s.placeStep e.2 m).2))

/-- R366, R372: the resume command. Where a target tile is not free the resume stays pending until it is (DESIGN CHOICE,
assumption 50). Acts on a = partition, b = region, d = thread. -/
def execResumeRegion (s : State) : Out :=
  let p := s.subj.a
  let q := (s.part p).preempt
  let s' := if q.st = 3 ∧ q.regions.contains s.subj.b then
      (s.modPart p (fun v => { v with preempt := { v.preempt with byQuantum := false } })).postEv .resume { a := p }
    else s
  .next (s'.cwSet s.subj.d)

/-- R372 steps 1 and 2: the tables pitched again from the image store, the entry closed; the rest of the
context from its slot. -/
def State.swapIn (s : State) (n : Nat) : State :=
  match tget s.biv n with
  | none => s
  | some b =>
    let x : Site := .tile n
    let bs := match b.site.img with | none => [] | some k => match s.image? k with | none => [] | some m => m.bytes
    let s := s.writeTables (.tile n) (recCells (imgRecs bs b.site.stage)) (fun old c => { c with issued := old.issued, passed := old.passed })
    let s := b.cells.foldl (fun s e =>
      let c := s.cell ⟨x, e.1⟩
      s.setCell ⟨x, e.1⟩ { e.2 with instr := c.instr, lits := c.lits, routes := c.routes, nroutes := c.nroutes, bases := c.bases, last := c.last,
                                    bad := [], issued := c.issued, passed := c.passed }) s
    s.setSite x { b.site with valid := false }

/-- R362: the stop "context error" of a context that is to be swapped in. -/
def State.contextError (s : State) (n : Nat) : State :=
  match (tget s.biv n).bind (fun b => b.site.part.map (fun p => (b, p))) with
  | none => s
  | some (b, p) => s.stopFault p b.site.region 0 0xFFFFFFFF 0x0202 [0, tileid ⟨.tile n, 0⟩]

/-- R362, R372: resume begins once every target tile is free, pending until then (assumption 50); a context with an uncorrectable error stops it, and
again each time. Acts on a = partition. -/
def execResume (s : State) : Out :=
  let p := s.subj.a
  let v := s.part p
  let q := v.preempt
  if q.st ≠ 3 then .next s
  else if v.halted || !q.tiles.all (s.freeTile p) || (q.byQuantum && s.placeWaits p q.regions) then .next (s.postEv .resume { a := p })
  else if q.tiles.any (fun n => (tget s.biv n).any (fun b => b.bad)) then
    .next (((q.tiles.filter (fun n => (tget s.biv n).any (fun b => b.bad))).foldl State.contextError s).postEv .resume { a := p })
  else
    let s := q.tiles.foldl State.swapIn s
    .next ((s.modPart p (fun v => { v with preempt := { v.preempt with st := 4 } })).postEv .swapInComplete { a := p })

/-- A restored thread: what it waited for is looked at again. -/
def State.reviveThread (s : State) (p u : Nat) : State :=
  match s.thr? u with
  | none => s
  | some t =>
    if t.ending && t.stat != .run then s.endThread u
    else match t.stat with
    | .wait => s.postEv .waitTest { a := u }
    | .record => if (s.part p).heldRecs.any (fun h => h.2.for_.uid? == some u) then s else s.suspend u .reply
    | .ticket d => s.wakeTickets (dieOf t.src.site, t.part, d)
    | _ => s

/-- R372 step 5: one tile's threads and what was still to happen there. -/
def State.reviveTile (s : State) (p n now : Nat) : State :=
  match tget s.biv n with
  | none => s
  | some b =>
    let x : Site := .tile n
    let s : State := { s with threads := s.threads ++ b.threads.map (fun e => (e.1, e.2.retime (fromLeft now)))
                              biv := tdel s.biv n
                              agenda := s.agenda ++ b.acts }
    let s := s.modSite x (fun v => { v.retime (fromLeft now) with valid := true })
    let s := s.postEv .textureRequestAccept { a := n / 2 }
    let s := b.threads.foldl (fun s e => s.reviveThread p e.1) s
    (s.retestChains x).wake x (List.range 64)

/-- R360, R373: the replies that were kept take effect. -/
def State.applyKept (s : State) (p : Nat) (mine : Who → Bool) : State :=
  let ks := (s.part p).kept
  ks.foldl (fun s k => s.replyEffect p k.for_ k.code k.action mine) (s.modPart p (fun v => { v with kept := [] }))

/-- R372 steps 3 to 5: the chains are restored, kept replies act, withdrawn accesses issue first, every engine
goes on and the entries open. Acts on a = partition. -/
def execSwapInComplete (s : State) : Out :=
  let p := s.subj.a
  let v := s.part p
  let q := v.preempt
  if q.st ≠ 4 then .next s
  else if v.halted then .next (s.postEv .swapInComplete { a := p })
  else
    let now := s.work p
    let invs := q.tiles.map (fun n => (n, match tget s.biv n with | none => [] | some b => b.invs))
    let mine := fun (w : Who) => match w.ag.site with
      | .tile n => invs.any (fun e => e.1 == n && e.2.contains w.inv)
      | .elem e => q.elems.contains e
      | .syrad _ => false
    let s := s.restoreChains p
    let s := q.tiles.foldl (fun s n => s.reviveTile p n now) s
    let s := q.elems.foldl (fun s e => s.holdElem p e (fromLeft now) false) s
    let s := s.modPart p (fun v => { v with preempt := Preempt.reset })
    let s := (s.applyKept p mine).reissueParked mine
    .next (if v.commit.isSome then s.postEv .rangeTableRead { a := p } else s)

/-! ## Quantum (R345) -/

/-- R345: a region's timer runs while it has running invocations and a launch of another region, of equal or
higher priority, waits in Place, and not while they are pre-empted; a completion of the same cycle is declared
first; at expiry its invocations are pre-empted. Acts on a = partition, b = region,
c = work clock of the last look. -/
def execQuantumExpiry (s : State) : Out :=
  let p := s.subj.a
  let r := s.subj.b
  let v := s.part p
  let now := s.work p
  match tget v.regions r with
  | none => .next s
  | some g =>
    let runs := !(s.runningOf p [r]).isEmpty && !(v.preempt.st != 0 && v.preempt.regions.contains r)
      && s.launches.any (fun e => e.2.part == p && e.2.region != r && decide (e.2.st = .place)
        && (match tget v.regions e.2.region with | none => false | some h => decide (g.prio ≤ h.prio)))
    if !runs then .next s
    else if s.agenda.any (fun a => match a with | .ev .completionPoll y => decide (y.b ≤ s.cycle) | _ => false) then
      .next (s.postEv .quantumExpiry s.subj)
    else
      let ran := g.ran + (now - s.subj.c)
      let out := decide (v.eff r itemQuantum * cyclesPerUs ≤ ran)
      let s := s.setPart p { v with regions := tset v.regions r { g with ran := if out then 0 else ran } }
      let s := if out then s.preempt p [r] true else s
      .next (s.postEv .quantumExpiry { a := p, b := r, c := now })

/-! ## Memory errors (R362) -/

/-- One word of a lane is poisoned: register 0 to 3, or `v`. -/
def Lane.poison (x : Lane) (w : Nat) : Lane :=
  match w with
  | 0 => { x with a := { x.a with pois := true } }
  | 1 => { x with b := { x.b with pois := true } }
  | 2 => { x with c := { x.c with pois := true } }
  | 3 => { x with d := { x.d with pois := true } }
  | 4 => { x with v := { x.v with pois := true } }
  | _ => x

/-- Poison one element of a list. -/
def poisonAt (l : Nat) (ws : List PWord) : List PWord := ws.mapIdx (fun i w => if i = l then { w with pois := true } else w)

/-- The bytes of the word at an address. -/
def wordAddrs (pa : Nat) : List Nat := (List.range 4).map (fun i => pa / 4 * 4 + i)

/-- The word of memory that an uncorrectable error at an address spoils, in its slice where the line is there. -/
def State.spoil (s : State) (pa : Nat) : State :=
  let s := if (tget s.coh.lines (lineOf pa)).isSome then s.modSlice (s.homeOr pa) (fun v => { v with err := true }) else s
  { s with memBad := sortBy (fun a b => decide (a ≤ b)) (s.memBad.filter (fun a => a / 4 != pa / 4) ++ wordAddrs pa) }

/-- An uncorrectable error in the state of an agent's engine. -/
def State.markErr (s : State) (x : Site) : State := s.modSite x (fun v => { v with err := true })

/-- The stop "table error": the record names the cell and the slot. -/
def State.tableError (s : State) (ag : Agent) (slot : Nat) : State :=
  let s := (s.markErr ag.site).modCell ag (fun c => { c with bad := slot :: c.bad.filter (· ≠ slot) })
  match (s.site ag.site).part with
  | none => s
  | some p => s.stopFault p (s.site ag.site).region 0 0xFFFFFFFF 0x0201 [0, tileid ag, 0, 0, w32 ag.cell, w32 slot]

/-- R362: an uncorrectable error, by where it lies. Acts on err. -/
def execMemoryError (s : State) : Out :=
  match s.subj.err with
  | .memory pa => .next (s.spoil pa)
  | .table ag slot => .next (s.tableError ag slot)
  | .frame n i slot lane =>
    .next ((s.markErr (.tile n)).modSite (.tile n) (fun v => { v with frames := tmod v.frames i (fun w =>
      { w with slots := tmod w.slots slot (poisonAt lane) }) }))
  | .laneFile ag i =>
    .next ((s.markErr ag.site).modCell ag (fun c => { c with bank := tset c.bank i { tgetD c.bank i .zero with pois := true } }))
  | .queue ag port lane =>
    .next ((s.markErr ag.site).modCell ag (fun c => { c with queues := tmod c.queues port (fun q =>
      match q with
      | [] => []
      | k :: ks => { k with data := poisonAt lane k.data } :: ks) }))
  | .threadSlot u lane w =>
    let s := match s.thr? u with | none => s | some t => s.markErr t.src.site
    .next (s.modThr u (fun t => { t with lanes := t.lanes.mapIdx (fun l x => if l = lane then x.poison w else x) }))
  | .bivouac n => .next { s with biv := tmod s.biv n (fun b => { b with bad := true }) }
  | .l1 n pa =>
    let s := s.markErr (.tile n)
    .next { s with coh := { s.coh with l1Bad := s.coh.l1Bad ++ (wordAddrs pa).map (fun a => (.tile n, a)) } }
  | .replica d pa =>
    .next { s with coh := { s.coh with replicas := tmod s.coh.replicas (d, lineOf pa) (fun r => { r with bad := r.bad ++ wordAddrs pa }) } }

/-- R362: a corrected error counts. Acts on a = partition. -/
def execEccCorrection (s : State) : Out := .next (s.modPart s.subj.a (fun v => { v with ecc := v.ecc + 1 }))

/-! ## The lantern's ring (R374, R376) -/

/-- R376: the bytes of the ring. -/
def Lantern.ring (l : Lantern) : Nat := 2 ^ min 30 (max 16 (fld l.ctl 0 5))

/-- R374: the oldest record of a die's buffer goes to the ring. Acts on a = die. -/
def execLanternDrain (s : State) : Out :=
  let die := s.subj.a
  match tgetD s.lantern.buf die [] with
  | [] => .next s
  | r :: rs =>
    let o := s.lantern.wr.toNat % s.lantern.ring
    let s := s.hwWrite ((s.lantern.base.toNat / s.lantern.ring * s.lantern.ring + o) % 2 ^ 51) (wordsBytes r.words)
    .next { s with lantern := { s.lantern with buf := tset s.lantern.buf die rs, wr := w32 ((o + 32) % s.lantern.ring) } }

end Sys2Proof.Machine
end

