-- ==== Sys2Proof/Machine/Module.lean ====
section
/-! DEFINITION. The module and its host: flits (R426 to R429), remote accesses (R428), partitions made and
destroyed (R430, R431), time (R432), the Syrad engine (R434, R436), boot and life cycle (R437 to R441). -/

namespace Sys2Proof.Machine

/-! ## Flits (R426, R427) -/

def State.flit? (s : State) (n : Nat) : Option Flit := (tget s.io.flits n).map Flit.fit
/-- A flit is consumed. -/
def State.dropFlit (s : State) (n : Nat) : State := { s with io := { s.io with flits := tdel s.io.flits n } }

/-- The answer to a flit goes back to its source. -/
def State.answer (s : State) (f : Flit) (kind : Nat) (word : Word) (payload : List Byte) : State :=
  s.sendFlit { kind := kind, part := f.part, dst := f.src, src := s.io.node, word := word, arg := 0, payload := payload, port := 0 }

/-- An acknowledgement: tag, status, returned words (R427). -/
def State.ack (s : State) (f : Flit) (tag status : Nat) (payload : List Byte) : State :=
  s.answer f 6 (w32 (tag % 256 + status * 256)) payload

/-- R426: a flit is discarded; the receiving port's error count rises. -/
def State.discardFlit (s : State) (n : Nat) (f : Flit) : State :=
  let s := s.dropFlit n
  { s with io := { s.io with errs := tset s.io.errs f.port (tgetD s.io.errs f.port 0 + 1) } }

/-- What a management command starts. -/
def managementEvent (c : Nat) : Option Instr :=
  match c with
  | 1 => some .managementQueueRead
  | 2 => some .identity
  | 3 => some .attest
  | 4 => some .imageLoad
  | 5 => some .partitionCreate
  | 6 => some .managementWrite
  | 7 => some .partitionDestroy
  | _ => if c = Config.lifeCommand then some .lifeCycleChange else none

/-- What a flit for this module starts. -/
def Flit.event (f : Flit) : Option Instr :=
  match f.kind with
  | 0 => some .commandFlit
  | 1 => managementEvent (fld f.word 0 8)
  | 2 => some .readFlit
  | 3 => some .readReplyFlit
  | 4 => some .writeFlit
  | 5 => some .atomicFlit
  | 6 => some .acknowledgementFlit
  | 7 => some .timeFlit
  | _ => some .stopFlit

/-- R438: a management command that a module in recovery answers. -/
def Flit.inRecovery (f : Flit) : Bool := f.kind == 1 && decide (2 ≤ fld f.word 0 8 ∧ fld f.word 0 8 ≤ 4)

/-- R434: a management flit is an event of the Syrad engine. -/
def State.notifyFlit (s : State) (n : Nat) (f : Flit) : State :=
  if f.kind = 1 then
    let s := s.notify (0x3000 + fld f.word 0 8) (w32 n)
    if fld f.word 0 8 = Config.lifeCommand then s.notify 0x6000 (w32 (fld f.word 0 8)) else s
  else s

/-- R426: a flit that stands before another of the same source and destination at the ports and has not been
taken yet goes first. -/
def State.flitWaits (s : State) (n : Nat) (f : Flit) : Bool :=
  (s.io.flits.takeWhile (fun e => decide (e.1 ≠ n))).any (fun e =>
    e.2.src == f.src && e.2.dst == f.dst && s.agenda.contains (.ev .flitForwarding { a := e.1 }))

/-- R426, R438: a flit at a port is for this module, goes on through the port of its node, or is discarded;
what it starts here is the next step, so that the flits of one source act in send order. Acts on a = flit. -/
def execFlitForwarding (s : State) : Out :=
  let n := s.subj.a
  match s.flit? n with
  | none => .next s
  | some f =>
    if s.flitWaits n f then .next (s.postEv .flitForwarding { a := n }) else
    let known := f.dst == s.io.node || (tget s.io.ports f.dst).isSome
    if 9 ≤ f.kind || !known then .next (s.discardFlit n f)
    else if s.io.recovery && !(f.dst == s.io.node && f.inRecovery) then .next (s.discardFlit n f)
    else if !s.io.booted && !s.io.recovery then .next (s.dropFlit n)
    else if f.dst ≠ s.io.node then .next ((s.dropFlit n).sendFlit f)
    else
      let s := s.notifyFlit n f
      match f.event with
      | none => .next (s.dropFlit n)
      | some i => .next { s with turn := some (.ev i { a := n }) }

/-- Take the flit that an event acts on. -/
def State.withFlit (s : State) (k : State → Flit → State) : Out :=
  match s.flit? s.subj.a with
  | none => .next s
  | some f => .next (k (s.dropFlit s.subj.a) f)

/-! ## Command flits (R429) -/

def Packet.bytes (m : Packet) (n : Nat) : List Byte := (List.range n).flatMap (fun i => tgetD m.flits i [])

/-- R429, R337: a flit joins its packet; the last one enters the packet into its queue, or is answered with
status 2 where the queue is full or not live; what comes before the last one for a queue that is not live is discarded. -/
def State.commandFlit (s : State) (f : Flit) : State :=
  let q := fld f.word 0 3
  let tag := fld f.word 3 8
  let i := fld f.word 11 5
  let same := fun (m : Packet) => m.part == f.part && m.src == f.src && m.tag == tag
  let old := s.io.packets.find? same
  let base : Packet := match old with
    | some m => if i = 0 ∨ (tget m.flits i).isSome ∨ m.queue ≠ q then ⟨f.part, f.src, q, tag, []⟩ else m
    | none => ⟨f.part, f.src, q, tag, []⟩
  let m : Packet := { base with flits := tset base.flits i f.payload }
  let s : State := { s with io := { s.io with packets := s.io.packets.filter (fun x => !same x) } }
  let live := (tgetD (s.part f.part).queues q HostQ.reset).live
  let whole := (List.range (i + 1)).all (fun j => (tget m.flits j).isSome)
  if !bit f.word 16 then (if live then { s with io := { s.io with packets := s.io.packets ++ [m] } } else s)
  else if !whole && live then s
  else match (if (tget s.parts f.part).isSome && whole then s.enqueue f.part q none (m.bytes (i + 1)) else none) with
    | none => s.ack f tag 2 []
    | some r => r.1.ack f tag 0 []

/-- Acts on a = flit. -/
def execCommandFlit (s : State) : Out := s.withFlit State.commandFlit

/-! ## Serving another module's accesses (R428) -/

/-- R428: the address of an offset in a partition's export window; none where it is refused. -/
def State.exported (s : State) (p off n : Nat) : Option Nat :=
  match tget s.parts p with
  | none => none
  | some v =>
    let pa := v.expBase.toNat + off
    if v.expSize.toNat < off + n then none
    else match s.place pa with
      | .slice _ => some pa
      | _ => none

/-- Acts on a = flit. -/
def execReadFlit (s : State) : Out :=
  match s.flit? s.subj.a with
  | none => .next s
  | some f =>
    let tag := fld f.word 0 8
    match s.exported f.part f.arg.toNat 128 with
    | none => .next ((s.dropFlit s.subj.a).answer f 3 (w32 (tag + 256)) (List.replicate 128 0))
    | some pa =>
      if s.switching pa then .next (s.postEv .readFlit s.subj)
      else if s.badAt pa 128 then .next ((s.dropFlit s.subj.a).answer f 3 (w32 (tag + 256)) (List.replicate 128 0))
      else .next ((s.dropFlit s.subj.a).answer f 3 (w32 tag) (rdN s.mem pa 128))

/-- The byte mask of a write flit (R427). -/
def flitMask (bs : List Byte) : List Bool := (List.range 128).map (fun i => (bs.getD (128 + i / 8) 0).getLsbD (i % 8))

/-- A write or an atomic of another module has been written at its home: it is acknowledged once every collapse of
its line that had been sent by then is (R268). b = 1 + the line, c = the bound of their numbers. -/
def State.remoteDone (s : State) (i : Instr) (f : Flit) (payload : List Byte) : Out :=
  if s.coh.colls.any (fun c => c.line == s.subj.b - 1 && decide (c.id < s.subj.c)) then .next (s.postEv i s.subj)
  else .next ((s.dropFlit s.subj.a).ack f (fld f.word 0 8) 0 payload)

/-- The flit is kept with its answer until it is acknowledged. -/
def State.remoteWait (s : State) (i : Instr) (n : Nat) (f : Flit) (line : Nat) : Out :=
  .next ({ s with io := { s.io with flits := tset s.io.flits n f } }.postEv i { a := n, b := 1 + line, c := s.fresh })

/-- R428. Acts on a = flit, b, c = the line and the bound of a write that is done. -/
def execWriteFlit (s : State) : Out :=
  match s.flit? s.subj.a with
  | none => .next s
  | some f =>
    if s.subj.b ≠ 0 then s.remoteDone .writeFlit f []
    else match s.exported f.part (f.arg.toNat / 128 * 128) 128 with
      | none => .next ((s.dropFlit s.subj.a).ack f (fld f.word 0 8) 1 [])
      | some pa =>
        if s.switching pa then .next (s.postEv .writeFlit s.subj)
        else
          (s.writeHome none pa (f.payload.take 128) (flitMask f.payload)).1.remoteWait .writeFlit s.subj.a f (lineOf pa)

/-- R244, R258: the atomic of an opcode and its operation field. -/
def atKindOf (op x : Nat) : Option AtKind :=
  match op with
  | 0xB0 => some .add
  | 0xB1 => some (.min (x == 1))
  | 0xB2 => some (.max (x == 1))
  | 0xB3 => some .and
  | 0xB4 => some .or
  | 0xB5 => some .xor
  | 0xB6 => some .xchg
  | 0xB7 => some .cas
  | 0xB8 => some (.fadd x)
  | 0xB9 => some .tri
  | _ => none

/-- R428: an atomic performs here as R258 and R259 state; the answer carries the old value.
Acts on a = flit, b, c = the line and the bound of one that is done. -/
def execAtomicFlit (s : State) : Out :=
  match s.flit? s.subj.a with
  | none => .next s
  | some f =>
    if s.subj.b ≠ 0 then s.remoteDone .atomicFlit f f.payload
    else
      let refuse : Out := .next ((s.dropFlit s.subj.a).ack f (fld f.word 0 8) 1 [])
      match atKindOf (fld f.word 8 8) (fld f.word 16 4) with
      | none => refuse
      | some k =>
        let n := if k = .tri then 8 else 4
        match s.exported f.part f.arg.toNat n with
        | none => refuse
        | some pa =>
          if pa % n ≠ 0 ∨ s.badAt pa n then refuse
          else if s.switching pa then .next (s.postEv .atomicFlit s.subj)
          else
            let old := rdN s.mem pa n
            let new := leBytes n (k.apply (leNat old) (leNat (f.payload.take n)) (leNat ((f.payload.drop 8).take 4)))
            (s.writeHome none pa new (fullMask new)).1.remoteWait .atomicFlit s.subj.a { f with payload := old } (lineOf pa)

/-! ## Answers from another module (R428) -/

/-- The lane of a request tag, which is free again. -/
def State.takeTag (s : State) (g : Nat) : Option (State × Nat × Nat) :=
  (tget s.io.remote g).map (fun k => ({ s with io := { s.io with remote := tdel s.io.remote g } }, k.1, k.2))

/-- R325, R427: the payload bytes of the flit that answers a lane: the 128 of a read reply, or the words that an
acknowledgement returns. -/
def answerBytes (x : Access) (m : LaneAcc) (refused : Bool) : Nat :=
  match x.op with
  | .atomic _ => if refused then 0 else m.size
  | .st => 0
  | .stm => 0
  | _ => 128

/-- R428: a lane's data or refusal is back at a port, and its payload counts there (R325). The lines of an LDMC wait
for its service. -/
def State.remoteBack (s : State) (port g : Nat) (refused : Bool) (take : Access → LaneAcc → List Byte) : State :=
  match s.takeTag g with
  | none => s
  | some (s, a, l) =>
    match s.acc? a with
    | none => s
    | some x =>
      match x.lane? l with
      | none => s
      | some m =>
        let s := s.charge x.who.part x.who.region (12 + port / 4) itemReltin (answerBytes x m refused)
        if m.st ≠ .remote then s
        else if refused then s.failLane a l 3
        else if x.op.isLdmc then s.modLane a l (fun m => { m with st := .todo, got := take x m })
        else s.finishLane a l (take x m) false []

/-- Acts on a = flit. -/
def execReadReplyFlit (s : State) : Out :=
  s.withFlit (fun s f => s.remoteBack f.port (fld f.word 0 8) (bit f.word 8) (fun _ m => (f.payload.drop (m.pa % 128)).take m.size))

/-- Acts on a = flit. -/
def execAcknowledgementFlit (s : State) : Out :=
  s.withFlit (fun s f => s.remoteBack f.port (fld f.word 0 8) (fld f.word 8 3 != 0) (fun x m =>
    match x.op with | .atomic _ => f.payload.take m.size | _ => []))

/-- R428, R363. Acts on a = flit. -/
def execStopFlit (s : State) : Out := s.withFlit (fun s f => s.hostStop f.part)

/-! ## Time (R432) -/

/-- R432: a sync message of the grandmaster on the lowest-numbered port that receives any sets the time; the
period that runs is again the one of the new time. Acts on a = flit. -/
def execTimeFlit (s : State) : Out :=
  s.withFlit (fun s f =>
    let best := match s.io.grandmaster with | none => true | some q => decide (f.port ≤ q)
    if !Config.isSync f.word f.payload || !best then s
    else
      let t := Config.disciplined f.payload s.tod
      let due := (t / 50000 + 1) * 50000
      { s with tod := t, io := { s.io with locked := true, grandmaster := some f.port },
               agenda := s.agenda.map (fun a => match a with | .ev .periodBoundary x => .ev .periodBoundary { x with b := due } | a => a) })

/-! ## Management (R429 to R431, R438, R439) -/

/-- R431, R440: a host's command, while the module is in production. -/
def State.hostOk (s : State) (f : Flit) : Bool := decide (s.io.life = .production) && Config.isHost f.src

def Flit.command (f : Flit) : Nat := fld f.word 0 8

/-- R429, R338: the two words of the queue that the argument names. Acts on a = flit. -/
def execManagementQueueRead (s : State) : Out :=
  s.withFlit (fun s f =>
    match tget s.parts f.part with
    | none => s.ack f f.command 1 []
    | some v =>
      let q := f.arg.toNat % 8
      s.ack f f.command 0 (leBytes 4 (s.cwPart v f.part 0x800 q) ++ leBytes 4 (s.cwPart v f.part 0x801 q)))

/-- R438. Acts on a = flit. -/
def execIdentity (s : State) : Out :=
  s.withFlit (fun s f => if s.io.identity then s.ack f f.command 0 Config.identity else s.ack f f.command 1 [])

def LifeCycle.code : LifeCycle → Nat
  | .manufacturing => 0 | .provisioned => 1 | .production => 2 | .returned => 3 | .decommissioned => 4

/-- R439: the record that is signed. -/
def State.attestRecord (s : State) (nonce : List Byte) : List Byte :=
  Config.digest s.io.flash ++ [BitVec.ofNat 8 s.io.life.code] ++ leBytes 4 0xB0 ++ nonce.take 64

/-- R439: the signature in as many acknowledgements as it takes. Acts on a = flit. -/
def execAttest (s : State) : Out :=
  s.withFlit (fun s f =>
    if !s.io.identity then s.ack f f.command 1 []
    else
      let sig := Config.signature (Config.digest (s.attestRecord f.payload))
      (List.range ((sig.length + 239) / 240)).foldl (fun s i => s.ack f f.command 0 ((sig.drop (240 * i)).take 240)) s)

/-- R437: the module as a reset leaves it, with what a reset keeps: the boot flash, the life-cycle state, the
identity key and what stands at the ports. -/
def State.restart (s : State) (flash : List Byte) (life : LifeCycle) (identity : Bool) : State :=
  { State.reset with
    tick := s.tick, fresh := s.fresh,
    io := { Io.reset with node := s.io.node, ports := s.io.ports, out := s.io.out, flash := flash, life := life, identity := identity } }

/-- R438: a firmware image that verifies is written to the flash and the module resets. Acts on a = flit. -/
def execImageLoad (s : State) : Out :=
  s.withFlit (fun s f =>
    let img := Config.firmwareOf f.payload
    if Config.signatureOk (Config.digest img) then (s.ack f f.command 0 []).restart img s.io.life s.io.identity
    else s.ack f f.command 1 [])

/-! ## A partition is made (R430) -/

/-- The bytes of a creation record's field. -/
def rec8 (bs : List Byte) (o : Nat) : Nat := pktN bs o 8

/-- R430: the tiles of a record. -/
def recTiles (bs : List Byte) : List Nat :=
  (List.range 512).filter (fun n => nfld (rec8 bs (0x08 + 8 * (n / 64))) (n % 64) 1 == 1)

/-- R430: the elements of a record. -/
def recElems (bs : List Byte) : List Nat :=
  (List.range 384).filter (fun e => nfld (pktN bs (0x48 + 12 * (e / 96)) 12) (e % 96) 1 == 1)

def recDoms (bs : List Byte) : BitVec 16 := BitVec.ofNat 16 (pktN bs 4 2)

/-- R430: the memory ranges: base and size per memory die. -/
def recMem (bs : List Byte) : Tbl Nat (Nat × Nat) :=
  (List.range 4).map (fun d => (d, (rec8 bs (0x78 + 16 * d), rec8 bs (0x80 + 16 * d))))

def recQuota (bs : List Byte) (die : Nat) : Nat := pktN bs (0xD8 + 2 * die) 2
def recSlices (bs : List Byte) (die : Nat) : BitVec 16 := BitVec.ofNat 16 (pktN bs (0xE8 + 2 * die) 2)

/-- A range lies in a record's memory. -/
def inRec (bs : List Byte) (pa n : Nat) : Bool :=
  let r := tgetD (recMem bs) (memDie pa) (0, 0)
  decide (r.1 ≤ pa % 2 ^ 49 ∧ pa % 2 ^ 49 + n ≤ r.1 + r.2 ∧ pa < 2 ^ 51)

/-- R20, R25: a memory die has four stacks of 48 GiB. -/
def dieMemory : Nat := 4 * 48 * 2 ^ 30

/-- R430: a record's fields keep their own rules. A memory range lies in the die's stacks (R20), and the
page-table root is a 4 KiB-aligned physical address (R310). -/
def creationOk (bs : List Byte) : Bool :=
  let eb := rec8 bs 0xB8
  let es := rec8 bs 0xC0
  let h := rec8 bs 0xC8
  decide (pktN bs 0 4 < 16) && recDoms bs != 0 && decide (pktN bs 6 2 = 0)
    && (recMem bs).all (fun r => decide (r.2.1 % 65536 = 0 ∧ r.2.2 % 65536 = 0 ∧ r.2.1 + r.2.2 ≤ dieMemory))
    && decide (eb % 65536 = 0 ∧ es % 65536 = 0 ∧ 288 * 1024 ≤ es ∧ es ≤ 2 ^ 33) && inRec bs eb es
    && (h == 0 || inRec bs h 64) && decide (rec8 bs 0xD0 % 4096 = 0 ∧ rec8 bs 0xD0 < 2 ^ 51)
    && (List.range 8).all (fun d => decide (recQuota bs d ≤ 1024))
    && (List.range 4).all (fun d =>
      let n := (setBits (recSlices bs d)).length
      (n == 0 || n == 1 || n == 2 || n == 4 || n == 8 || n == 16) && (n != 0 || (tgetD (recMem bs) d (0, 0)).2 == 0))

/-- A slice belongs to a domain of a live partition. -/
def State.sliceTaken (s : State) (n : Nat) : Bool := s.parts.any (fun e => s.ownSlice e.1 n)

/-- R430: nothing that a record asks for is held by another partition. -/
def State.recFree (s : State) (bs : List Byte) : Bool :=
  (tget s.parts (pktN bs 0 4)).isNone
    && s.parts.all (fun e => (e.2.doms &&& recDoms bs) == 0 && !(recTiles bs).any e.2.tiles.contains && !(recElems bs).any e.2.elems.contains
      && (recMem bs).all (fun r =>
        let o := tgetD e.2.mem r.1 (0, 0)
        !decide (0 < r.2.2 ∧ 0 < o.2 ∧ r.2.1 < o.1 + o.2 ∧ o.1 < r.2.1 + r.2.2)))
    && (List.range 4).all (fun d => (setBits (recSlices bs d)).all (fun b => !s.sliceTaken (16 * d + b)))
    && (List.range 8).all (fun d => decide (recQuota bs d + ((s.parts.map (fun e => tgetD e.2.quota d 0)).foldl (· + ·) 0) ≤ 1024))

/-- R430 step 2: the words of the lowest named domain on a die. -/
def recDom (bs : List Byte) (die : Nat) : L2Dom :=
  let r := tgetD (recMem bs) die (0, 0)
  { base := r.1, limit := r.1 + r.2, slices := recSlices bs die,
    hash := (List.range 4).map (fun j => (j, BitVec.ofNat 64 (0x880 * 2 ^ j))) }

/-- R430 steps 3 and 4. -/
def recPart (bs : List Byte) (arg : Nat) : Part :=
  let tiles := recTiles bs
  let elems := recElems bs
  let k := nfld arg 0 5
  let kk := if 10 ≤ k ∧ k ≤ 20 then k else 10
  { Part.reset with
    tiles := tiles, elems := elems, doms := recDoms bs, mem := recMem bs, frmK := k,
    spillbase := BitVec.ofNat 64 (keepBits arg 63 16), regions := [(0, rootRegion tiles.length (2 ^ kk) elems.length Config.storeKib)],
    domains := [(0, ⟨false, false, 0⟩)], root := BitVec.ofNat 64 (rec8 bs 0xD0),
    tqBase := BitVec.ofNat 64 (rec8 bs 0xB8), srbase := BitVec.ofNat 64 (rec8 bs 0xB8 + 16384),
    expBase := BitVec.ofNat 64 (rec8 bs 0xB8), expSize := BitVec.ofNat 64 (rec8 bs 0xC0),
    quota := (List.range 8).map (fun d => (d, recQuota bs d)) }

/-- The sites of tiles and elements. -/
def sitesOf (tiles elems : List Nat) : List Site := tiles.map Site.tile ++ elems.map Site.elem

/-- R430 step 1: the state of some sites is zero, and they belong to a partition or to none. -/
def State.zeroSites (s : State) (xs : List Site) (p : Option Nat) : State :=
  let gone := fun (x : Site) => xs.contains x
  { s with
    cells := s.cells.filter (fun e => !gone e.1.site)
    sites := xs.foldl (fun t x => tset t x { SiteSt.reset with part := p }) s.sites
    elems := s.elems.filter (fun e => !gone (.elem e.1))
    biv := s.biv.filter (fun e => !gone (.tile e.1))
    coh := { s.coh with l1 := s.coh.l1.filter (fun e => !gone e.1.1), l1Bad := s.coh.l1Bad.filter (fun e => !gone e.1), tlb1 := s.coh.tlb1.filter (fun e => !gone e.1) } }

/-- R430 step 1: the words of a slice's counters are zero. -/
def State.zeroSlices (s : State) (ns : List Nat) : State :=
  { s with coh := { s.coh with slices := s.coh.slices.filter (fun e => !ns.contains e.1) } }

/-- The words of some domains on every memory die, with none staged. -/
def State.setDoms (s : State) (doms : BitVec 16) (f : Nat → Nat → L2Dom) : State :=
  let keys := (List.range 64).filter (fun i => doms.getLsbD (i % 16))
  { s with coh := { s.coh with
      doms := keys.foldl (fun t i => tset t i (f (i / 16) (i % 16))) s.coh.doms
      staged := s.coh.staged.filter (fun e => !keys.contains e.1) } }

/-- R430 step 5: the handler image, or the reason of R46 that it fails for. -/
def State.handlerOf (s : State) (bs : List Byte) : Except Nat (List Byte) :=
  let h := rec8 bs 0xC8
  if h = 0 then .ok []
  else
    let head := rdN s.mem h 64
    match headerBad head with
    | some _ => .error 10
    | none =>
      if !inRec bs h (imgTotal head) then .error 10
      else
        let img := rdN s.mem h (imgTotal head)
        match imageBad img (recTiles bs) .handler with
        | some b => .error b.reason
        | none => .ok img

def State.powerOf (s : State) (die : Nat) : IslandPower := tgetD s.io.power die .running

/-- R441: a link sleeps while both of its ends are idle. -/
def State.linkPower (s : State) (a b : Nat) : State :=
  if a = b then s
  else if s.powerOf a = .idle ∧ s.powerOf b = .idle then
    (if s.linkAsleep a b then s else { s with coh := { s.coh with asleep := s.coh.asleep ++ [(min a b, max a b)] } })
  else if s.linkAsleep a b then s.wakeLink a b else s

/-- R441: an island takes a power state, and its die's links follow. -/
def State.setPower (s : State) (die : Nat) (q : IslandPower) : State :=
  let s : State := { s with io := { s.io with power := tset s.io.power die q } }
  (List.range 16).foldl (fun s b => s.linkPower die b) s

/-- The dies on which a creation record asks for a tile, an element or memory. -/
def recDies (bs : List Byte) : List Nat :=
  (List.range 16).filter (fun d => (recTiles bs).any (fun n => n / 64 == d) || (recElems bs).any (fun e => 8 + e / 96 == d)
    || (decide (12 ≤ d) && (tgetD (recMem bs) (d - 12) (0, 0)).2 != 0))

/-- R441: a die is woken before it is given to a partition. -/
def State.wakeDies (s : State) (ds : List Nat) : State :=
  (ds.filter (fun d => s.powerOf d ≠ .running)).foldl (fun s d => s.setPower d .running) s

/-- R430 steps 1 to 5, on dies that run (R441). -/
def State.create (s : State) (bs : List Byte) (arg : Nat) (img : List Byte) : State :=
  let p := pktN bs 0 4
  let low := ((List.range 16).find? (fun k => (recDoms bs).getLsbD k)).getD 0
  let s := s.wakeDies (recDies bs)
  let s := s.zeroSites (sitesOf (recTiles bs) (recElems bs)) (some p)
  let s := s.zeroSlices ((List.range 64).filter (fun n => (recSlices bs (n / 16)).getLsbD (n % 16)))
  let s := s.setDoms (recDoms bs) (fun die k => if k = low then recDom bs die else L2Dom.reset)
  let s := s.setPart p { recPart bs arg with handler := img }
  if img.isEmpty then s else (recElems bs).foldl (fun s e => s.pitchElem e img) s

/-- R430, R431. Acts on a = flit. -/
def execPartitionCreate (s : State) : Out :=
  s.withFlit (fun s f =>
    let bs := f.payload
    if !s.hostOk f || !creationOk bs || !s.recFree bs then s.ack f f.command 1 []
    else match s.handlerOf bs with
      | .error r => s.ack f f.command 1 (leBytes 4 r)
      | .ok img => (s.create bs f.arg.toNat img).ack f f.command 0 [])

/-! ## A control word is written (R431) -/

/-- The word that a payload or a service names, for a system agent. -/
def sysCw (p : Nat) (w : Word) : CwAt :=
  { n := fld w 0 12, i := fld w 12 10, die := fld w 22 2, part := p, high := false, sys := true, root := true }

/-- R431, R436, R379: a system agent's write of a whole word; it comes about as the next step. None where no
system agent may write the word. -/
def State.sysWrite (s : State) (c : CwAt) (v : DWord) : Option State :=
  if !s.cwWrites c || cwWriter c.n = 1 || (tget s.parts c.part).isNone then none
  else
    let x := if c.wide then v.toNat else v.toNat % 2 ^ 32
    let e := s.cwEvent c.n c.part c.i c.die x 0
    some { s with turn := some (.ev e.1 e.2) }

/-- R431. Acts on a = flit. -/
def execManagementWrite (s : State) : Out :=
  s.withFlit (fun s f =>
    let c := sysCw (pktN f.payload 0 1 % 16) (w32 (pktN f.payload 4 4))
    match (if s.hostOk f then s.sysWrite c (BitVec.ofNat 64 (pktN f.payload 8 8)) else none) with
    | none => s.ack f f.command 1 []
    | some s => s.ack f f.command 0 [])

/-! ## A partition is destroyed (R431) -/

/-- R431: the memory ranges are zero, and nothing of them stands in a cache or is on its way to one. -/
def State.wipeMem (s : State) (v : Part) : State :=
  let ids := (s.coh.colls.filter (fun c => v.owns (c.line * 128))).map (fun c => c.id)
  { s with
    mem := s.mem.filter (fun e => !v.owns e.1)
    memBad := s.memBad.filter (fun a => !v.owns a)
    coh := { s.coh with
      lines := s.coh.lines.filter (fun e => !v.owns (e.1 * 128))
      replicas := s.coh.replicas.filter (fun e => !v.owns (e.1.2 * 128))
      fills := s.coh.fills.filter (fun e => !v.owns (e.2.line * 128))
      hwHeld := s.coh.hwHeld.filter (fun w => !v.owns w.1)
      colls := s.coh.colls.filter (fun c => !ids.contains c.id)
      regs := s.coh.regs.filter (fun e => !v.owns (e.1.2 * 2 ^ 21)) } }

/-- R431: every piece of a partition's work is gone, without notices. -/
def State.endWork (s : State) (p : Nat) : State :=
  let tok := fun (k : Token) => k.part != p
  let gone := (s.accs.filter (fun e => e.2.who.part == p)).map (fun e => e.1)
  { s with
    threads := s.threads.filter (fun e => e.2.part != p)
    fabric := s.fabric.filter tok
    accs := s.accs.filter (fun e => e.2.who.part != p)
    queues := s.queues.filter (fun e => e.part != p)
    semOps := s.semOps.filter (fun e => !s.owns p e.2.site)
    pqOps := s.pqOps.filter (fun e => e.2.part != p)
    closes := s.closes.filter (fun e => e.2.part != p)
    launches := s.launches.filter (fun e => e.2.part != p)
    images := s.images.filter (fun m => m.key.part != p)
    places := s.places.filter (fun e => e.1.1.part != p)
    scr := s.scr.filter (fun e => e.1.2.1 != p)
    coh := { s.coh with
      mc := s.coh.mc.filter (fun e => !gone.contains e.2.acc)
      tlb2 := s.coh.tlb2.map (fun e => (e.1, e.2.filter (fun t => t.part != p))) }
    io := { s.io with packets := s.io.packets.filter (fun m => m.part != p) } }

/-- The events that act on a partition, on a place of a site, on a cell, on a tile, on an element. -/
def partitionEvents : List Instr :=
  [.chainCloseComplete, .rcRead, .controlWordWrite, .glShareWrite, .mmuInvalidate, .mmuInvalidateComplete, .haltLineRaise,
   .raiseHalt, .engineStop, .releaseHalt, .preemptRegion, .preemptionComplete, .swapOutComplete, .resumeRegion, .resume,
   .swapInComplete, .quantumExpiry, .eccCorrection, .launchCheck, .hostQueueDestroy, .imageStrike, .trapRecordWrite, .replyRetry,
   .replyFail, .replyEndThread, .translationMissService, .copyOnWriteService, .rangeTableRead, .rangeCommitSwitch]
def siteEvents : List Instr :=
  [.commandBlockFetch, .linkBlock, .copyBlock, .semaphoreBlock, .testBlock, .testBlockRetest, .testBlockTimeout, .loopBlock,
   .callBlock, .returnBlock, .fetchFenceBlock, .chainEnd, .copyDescriptorRead, .copyChunk, .copyComplete, .tokenEgressDepart,
   .tokenDelivery]
def cellEvents : List Instr := [.workSelection, .gangClaim, .gangFire]
def tileEvents : List Instr := [.pitchComplete, .strikeComplete]
def elementEvents : List Instr := [.matrixQueueStart, .matrixInstructionFinish]

/-- R431: what was still to happen to a partition or on its sites, which are here named by their owner. -/
def State.actOf (s : State) (p : Nat) : Act → Bool
  | .issue ag => s.owns p ag.site
  | .ev i x =>
    (partitionEvents.contains i && x.a == p) || (siteEvents.contains i && s.owns p x.site)
      || (cellEvents.contains i && s.owns p x.ag.site) || (tileEvents.contains i && s.owns p (.tile x.a))
      || (elementEvents.contains i && s.owns p (.elem x.a)) || (i == .screenTileReload && x.c == p)

/-- R431: the halt line rises and every invocation ends: nothing more happens for the partition. It is wiped
and freed. -/
def State.destroy (s : State) (p : Nat) : State :=
  match tget s.parts p with
  | none => s
  | some v =>
    let ns := (List.range 64).filter (s.ownSlice p)
    let s := ({ s with agenda := s.agenda.filter (fun a => !s.actOf p a) } : State).endWork p
    let s := (s.zeroSites (sitesOf v.tiles v.elems) none).zeroSlices ns
    let s := (s.wipeMem v).setDoms v.doms (fun _ _ => L2Dom.reset)
    { s with parts := tdel s.parts p }

/-- R431. Acts on a = flit. -/
def execPartitionDestroy (s : State) : Out :=
  s.withFlit (fun s f =>
    let p := pktN f.payload 0 1 % 16
    if !s.hostOk f || (tget s.parts p).isNone then s.ack f f.command 1 []
    else (s.destroy p).ack f f.command 0 [])

/-! ## Boot and life cycle (R437, R440) -/

/-- What runs on its own from the boot on: heartbeats and their watch (R300), region windows (R298), completion
rounds (R348), placement samples (R344) and periods (R325). -/
def bootActs : List Act :=
  (List.range 16).map (fun d => .ev .heartbeat { a := d, b := 0 })
    ++ (List.range 16).map (fun d => .ev .dieLost { a := d })
    ++ (List.range 4).map (fun d => .ev .regionWindow { a := d, b := 65536 })
    ++ (List.range 8).map (fun d => .ev .placementSample { a := d, b := 2 * cyclesPerUs })
    ++ [.ev .completionPoll { b := 2 * cyclesPerUs }, .ev .periodBoundary { b := 50000 }]

/-- R426, R20, R26: the nodes that the firmware names one of the sixteen ports for. -/
def bootPorts : Tbl Nat Nat :=
  (List.range 1024).filterMap (fun n => (Config.portOf n).bind (fun q => if q < 16 then some (n, q) else none))

/-- R437 step 4: the graph of a Syrad engine, which R46 checks as it does any image. -/
def graphOk (flash : List Byte) (d : Nat) : Bool := (imageBad (Config.firmwareGraph flash d) [] .syrad).isNone

/-- R437 step 4: the control cores pitch the firmware graph into the engine's 64 cells. -/
def State.pitchSyrad (s : State) (flash : List Byte) (d : Nat) : State :=
  (s.writeTables (.syrad d) (recCells (imgRecs (Config.firmwareGraph flash d) 0)) (fun _ c => c)).modSite (.syrad d) (fun v => { v with valid := true })

/-- R437, R438: the boot: everything is wiped; the self-test of every die, the firmware's signature and the
check of its graphs decide between the firmware and recovery. A die that fails its test is held off. -/
def execPowerOnReset (s : State) : Out :=
  let flash := s.io.flash
  let s := { s.restart flash s.io.life s.io.identity with agenda := [] }
  let bad := (List.range 16).filter (fun d => !Config.selfTestOk d)
  let ok := bad.isEmpty && Config.signatureOk (Config.digest flash) && (List.range 4).all (graphOk flash)
  let io := { s.io with node := Config.moduleNode % 1024, ports := bootPorts, power := bad.map (fun d => (d, IslandPower.off)) }
  if ok then
    let ms := (List.range 4).map (fun d => (d, { Matcher.reset with service := some (sysPart, Config.serviceDesc d) }))
    .next ((List.range 4).foldl (fun s d => s.pitchSyrad flash d) { s with io := { io with booted := true, matchers := ms }, agenda := bootActs })
  else .next { s with io := { io with recovery := true } }

/-- R440: the state after another. -/
def LifeCycle.next : LifeCycle → Option LifeCycle
  | .manufacturing => some .provisioned
  | .provisioned => some .production
  | .production => some .returned
  | .returned => some .decommissioned
  | .decommissioned => none

/-- R440: a command to the next state that its signer or owner made. -/
def lifeOk (nxt : LifeCycle) (bs : List Byte) : Bool := if nxt = .production then Config.ownerOk bs else Config.signatureOk bs

/-- R440, R439: an accepted change destroys all partitions, wipes and resets; provisioning makes the identity
key, decommissioning destroys it. Acts on a = flit. -/
def execLifeCycleChange (s : State) : Out :=
  s.withFlit (fun s f =>
    match s.io.life.next with
    | none => s.ack f f.command 1 []
    | some nxt =>
      if pktN f.payload 0 1 ≠ nxt.code || !lifeOk nxt f.payload then s.ack f f.command 1 []
      else (s.ack f f.command 0 []).restart s.io.flash nxt
        (decide (nxt = .provisioned) || (s.io.identity && decide (nxt ≠ .decommissioned))))

/-! ## The Syrad engine (R434, R436) -/

/-- R434: the control token of an event, by its registration's route. -/
def eventToken (d id : Nat) (rt payload : Word) : Token :=
  { id := id, tag := { frame := 0, ip := BitVec.ofNat 8 (rtIp rt), port := BitVec.ofNat 2 (rtPort rt), wave := 0, colour := 0, width := 1,
                       eod := 0, kind := .control, block := 0 },
    data := [.ok payload], dst := .syrad d, cell := rtCell rt, fslot := rtFslot rt, src := ⟨.syrad d, rtCell rt⟩, part := sysPart,
    region := 0, inv := 0, held := false, unres := none, at_ := 0 }

/-- R434: events that their sources held enter the matcher while it has room. -/
def Matcher.refill (m : Matcher) : Matcher :=
  let n := 512 - (m.regs.length + m.waiting.length)
  { m with waiting := m.waiting ++ m.sources.take n, sources := m.sources.drop n }

/-- R434: the oldest waiting event that has a registration is delivered. Acts on a = memory die 0-3. -/
def execEventMatch (s : State) : Out :=
  let d := s.subj.a
  let s := s.modMatcher d Matcher.refill
  let m := s.matcher d
  let found := m.waiting.find? (fun e => m.regs.any (fun r => r.1 == e.1))
  match found.bind (fun e => (m.regs.find? (fun r => r.1 == e.1)).map (fun r => (e, r.2))) with
  | none => .next s
  | some (e, rt) =>
    let k := eventToken d s.fresh rt e.2
    let s := s.modMatcher d (fun m => { m with waiting := m.waiting.erase e })
    .next (((s.bump.startTok k)).postEv .eventMatch { a := d })

/-- R434: timer events of one key coalesce into one. -/
def Matcher.coalesce (m : Matcher) (key : Nat) (payload : Word) : Option Matcher :=
  if m.waiting.any (fun e => e.1 == key) then
    some { m with waiting := m.waiting.map (fun e => if e.1 = key then (key, payload) else e) }
  else if m.sources.any (fun e => e.1 == key) then
    some { m with sources := m.sources.map (fun e => if e.1 = key then (key, payload) else e) }
  else none

/-- R434: a timer expires. Acts on a = memory die 0-3, b = timer. -/
def execSyradTimer (s : State) : Out :=
  let d := s.subj.a
  let t := s.subj.b
  let c := (tgetD (s.matcher d).timers t (0, 0)).2 + 1
  let s := s.modMatcher d (fun m => { m with timers := tset m.timers t ((tgetD m.timers t (0, 0)).1, c) })
  let m := s.matcher d
  let key := 0x4000 + t
  let full := decide (512 ≤ m.regs.length + m.waiting.length)
  match m.coalesce key (w32 c) with
  | some m' => .next (s.modMatcher d (fun _ => m'))
  | none =>
    .next ((s.modMatcher d (fun m => if full then { m with sources := m.sources ++ [(key, w32 c)] }
      else { m with waiting := m.waiting ++ [(key, w32 c)] })).postEv .eventMatch { a := d })

/-- R436: a control core takes a request from its memory die's service queue, writes the word, answers on the
sibling and goes on to the queue's next entry. The words of the answer are not given (assumption 7). Acts on a = memory die 0-3. -/
def execControlCoreService (s : State) : Out :=
  match (s.matcher s.subj.a).service with
  | none => .next s
  | some (p, desc) =>
    if s.pkgQueueHeld p (.syrad s.subj.a) desc 1 then .next (s.postEv .controlCoreService { a := s.subj.a })
    else match s.qPop p (.syrad s.subj.a) desc 1 with
    | .done s (w :: _) =>
      let s := s.wakeService p (.syrad s.subj.a) desc
      let q := Config.serviceOf w
      let s := (s.sysWrite (sysCw q.1 q.2.1) q.2.2).getD s
      let sib := match s.qdesc? p (.syrad s.subj.a) desc with | none => 0 | some r => r.2.sib
      .next (s.queuePush p (BitVec.ofNat 64 sib).toInt ((List.range 4).map (fun i => Config.word s.tick (8 * i + 1)))
        none (.syrad s.subj.a))
    | _ => .next s

/-! ## Power (R441) -/

/-- A partition holds a tile or an element of a die, or memory on it. -/
def State.dieUsed (s : State) (die : Nat) : Bool :=
  s.parts.any (fun e => e.2.tiles.any (fun n => n / 64 == die) || e.2.elems.any (fun x => 8 + x / 96 == die)
    || (decide (12 ≤ die) && (tgetD e.2.mem (die - 12) (0, 0)).2 != 0))

/-- R441: firmware sets the power of an island; one of a die that serves a partition keeps running.
Acts on a = island, power. -/
def execIslandPower (s : State) : Out :=
  let die := s.subj.a
  if s.subj.power ≠ .running ∧ s.dieUsed die then .next s
  else .next (s.setPower die s.subj.power)

end Sys2Proof.Machine
end

