-- ==== Sys2Proof/Machine/Waits.lean ====
section
/-! DEFINITION. Waits that go on: the test of a wait and its expiry (R85, R86, R95). -/

namespace Sys2Proof.Machine

/-- What a test of a wait finds. -/
inductive WaitRes
  | stay
  | won (s : State) (e : Eff)
  /-- over at once with `p` clear: the queue has died (R233) -/
  | lost (e : Eff)

/-- A queue test. -/
def WaitRes.ofQueue (won : List Word → Eff) (lost : Eff) : QRes → WaitRes
  | .dead => .lost lost
  | .wait => .stay
  | .done s ws => .won s (won ws)

/-- R85: test what a thread waits for. -/
def State.testWait (s : State) (u : Nat) (t : Thread) (w : Wait) : WaitRes :=
  let of := fun (o : Option (State × Eff)) => match o with
    | none => WaitRes.stay
    | some r => .won r.1 r.2
  match w.kind with
  | .counters ld st cp mx => if t.countsOk ld st cp mx then .won s {} else .stay
  | .sem k b => if Zx b ≤ Zx (s.sem t.src.site k) ∧ s.semFirst t.src.site k t.susp u then .won s {} else .stay
  | .rdzv k b => if s.semFirst t.src.site k t.susp u then of (s.takeRdzv t k b) else .stay
  | .time b => if s.timeReached b then .won s (.val (t.all ⟨w32 s.tod, (t.b0 w.fields).pois⟩)) else .stay
  | .mailbox => of (s.takeMail t)
  | .fence n => of (s.fenceEnd t n)
  | .push d ws ctl => .ofQueue (fun _ => .val (t.as w.fields)) (.val (t.as w.fields)) (s.qPush t.part t.src.site d ws ctl)
  | .pop d => .ofQueue (fun ws => .val (t.popped ws)) (.val (t.all .zero)) (s.qPop t.part t.src.site d t.selLanes.length)
  | .killed push => .lost (.val (if push then t.as w.fields else t.all .zero))
  | .unit => .stay

/-- The result of a wait that expires (R85, R94, R235, R239, R241, R289). -/
def State.expired (s : State) (t : Thread) (w : Wait) : Eff :=
  match w.kind with
  | .time _ => .val (t.all ⟨w32 s.tod, (t.b0 w.fields).pois⟩)
  | .push _ _ _ => .val (t.as w.fields)
  | .counters _ _ _ _ => {}
  | .sem _ _ => {}
  | _ => .val (t.all .zero)

/-- The end of a wait with `p` alike in every lane: set by a success, clear otherwise (R85), unless the wait's
own rule gives it, as R289 does for a faulted set. -/
def State.endWait (s : State) (u : Nat) (t : Thread) (e : Eff) (ok : Bool) : State :=
  s.complete u { e with p := some (e.p.getD (allP t ok)) }

/-- R229: the semaphore satisfies a wait; where it has not ended, older suspensions are tested before it. -/
def State.behind (s : State) (t : Thread) (w : Wait) : Bool :=
  match w.kind with
  | .sem k b => decide (Zx b ≤ Zx (s.sem t.src.site k))
  | .rdzv k b => decide (Zx b ≤ Zx (s.sem t.src.site k))
  | _ => false

/-- R85: test a wait; a wait for the time of day, and one behind older ones at its semaphore (R229), tests itself
again. -/
def State.waitTest (s : State) (u : Nat) : State :=
  match s.thr? u with
  | none => s
  | some t =>
    match t.wait with
    | none => s
    | some w =>
      if t.stat ≠ .wait then s
      else if s.idleSite t.src.site then s.postEv .waitTest { a := u }
      else match s.testWait u t w with
        | .won s' e => s'.endWait u t e true
        | .lost e => s.endWait u t e false
        | .stay => match w.kind with
          | .time _ => s.postEv .waitTest { a := u }
          | _ => if s.behind t w then s.postEv .waitTest { a := u } else s

/-- Acts on a = thread. -/
def execWaitTest (s : State) : Out := .next (s.waitTest s.subj.a)

/-- R85, R86: a wait expires once its cycles have passed; a test that holds then is a success. -/
def State.waitExpiry (s : State) (u : Nat) : State :=
  match s.thr? u with
  | none => s
  | some t =>
    match t.wait with
    | none => s
    | some w =>
      match w.deadline with
      | none => s
      | some d =>
        if t.stat ≠ .wait then s
        else if s.idleSite t.src.site || decide (s.work t.part < d) then s.postEv .waitExpiry { a := u }
        else match s.testWait u t w with
          | .won s' e => s'.endWait u t e true
          | .lost e => s.endWait u t e false
          | .stay => if s.behind t w then s.postEv .waitExpiry { a := u } else s.endWait u t (s.expired t w) false

/-- Acts on a = thread. -/
def execWaitExpiry (s : State) : Out := .next (s.waitExpiry s.subj.a)

end Sys2Proof.Machine
end

