-- ==== Sys2Proof/Machine/Dispatch.lean ====
section
/-! DEFINITION. One arm per instruction: its meaning, by name. -/

namespace Sys2Proof.Machine

def exec (i : Instr) (s : State) : Host.Outcome State Fault Refusal :=
  match i with
  | .nop f => Sys2Proof.Machine.execNop f s
  | .mov f => Sys2Proof.Machine.execMov f s
  | .jmp f => Sys2Proof.Machine.execJmp f s
  | .brp f => Sys2Proof.Machine.execBrp f s
  | .loop f => Sys2Proof.Machine.execLoop f s
  | .lexit f => Sys2Proof.Machine.execLexit f s
  | .pblk f => Sys2Proof.Machine.execPblk f s
  | .waitc f => Sys2Proof.Machine.execWaitc f s
  | .waits f => Sys2Proof.Machine.execWaits f s
  | .steer f => Sys2Proof.Machine.execSteer f s
  | .wavea f => Sys2Proof.Machine.execWavea f s
  | .time f => Sys2Proof.Machine.execTime f s
  | .trap f => Sys2Proof.Machine.execTrap f s
  | .bkpt f => Sys2Proof.Machine.execBkpt f s
  | .gate f => Sys2Proof.Machine.execGate f s
  | .ptest f => Sys2Proof.Machine.execPtest f s
  | .add f => Sys2Proof.Machine.execAdd f s
  | .sub f => Sys2Proof.Machine.execSub f s
  | .addss f => Sys2Proof.Machine.execAddss f s
  | .addzs f => Sys2Proof.Machine.execAddzs f s
  | .subss f => Sys2Proof.Machine.execSubss f s
  | .subzs f => Sys2Proof.Machine.execSubzs f s
  | .neg f => Sys2Proof.Machine.execNeg f s
  | .abs f => Sys2Proof.Machine.execAbs f s
  | .and f => Sys2Proof.Machine.execAnd f s
  | .or f => Sys2Proof.Machine.execOr f s
  | .xor f => Sys2Proof.Machine.execXor f s
  | .andn f => Sys2Proof.Machine.execAndn f s
  | .lea f => Sys2Proof.Machine.execLea f s
  | .mul f => Sys2Proof.Machine.execMul f s
  | .mulh f => Sys2Proof.Machine.execMulh f s
  | .mulhz f => Sys2Proof.Machine.execMulhz f s
  | .shl f => Sys2Proof.Machine.execShl f s
  | .shr f => Sys2Proof.Machine.execShr f s
  | .sar f => Sys2Proof.Machine.execSar f s
  | .rotl f => Sys2Proof.Machine.execRotl f s
  | .clz f => Sys2Proof.Machine.execClz f s
  | .popc f => Sys2Proof.Machine.execPopc f s
  | .brev f => Sys2Proof.Machine.execBrev f s
  | .bfx f => Sys2Proof.Machine.execBfx f s
  | .bfi f => Sys2Proof.Machine.execBfi f s
  | .div f => Sys2Proof.Machine.execDiv f s
  | .divz f => Sys2Proof.Machine.execDivz f s
  | .rem f => Sys2Proof.Machine.execRem f s
  | .dot4 f => Sys2Proof.Machine.execDot4 f s
  | .dot4z f => Sys2Proof.Machine.execDot4z f s
  | .dot8 f => Sys2Proof.Machine.execDot8 f s
  | .bytep f => Sys2Proof.Machine.execBytep f s
  | .cmpeq f => Sys2Proof.Machine.execCmpeq f s
  | .cmpne f => Sys2Proof.Machine.execCmpne f s
  | .cmplt f => Sys2Proof.Machine.execCmplt f s
  | .cmple f => Sys2Proof.Machine.execCmple f s
  | .cmpltz f => Sys2Proof.Machine.execCmpltz f s
  | .cmplez f => Sys2Proof.Machine.execCmplez f s
  | .min f => Sys2Proof.Machine.execMin f s
  | .max f => Sys2Proof.Machine.execMax f s
  | .minz f => Sys2Proof.Machine.execMinz f s
  | .maxz f => Sys2Proof.Machine.execMaxz f s
  | .sel f => Sys2Proof.Machine.execSel f s
  | .clamp f => Sys2Proof.Machine.execClamp f s
  | .fcmpeq f => Sys2Proof.Machine.execFcmpeq f s
  | .fcmplt f => Sys2Proof.Machine.execFcmplt f s
  | .fcmple f => Sys2Proof.Machine.execFcmple f s
  | .fcmpun f => Sys2Proof.Machine.execFcmpun f s
  | .fadd f => Sys2Proof.Machine.execFadd f s
  | .fsub f => Sys2Proof.Machine.execFsub f s
  | .fmul f => Sys2Proof.Machine.execFmul f s
  | .fma f => Sys2Proof.Machine.execFma f s
  | .fms f => Sys2Proof.Machine.execFms f s
  | .fnma f => Sys2Proof.Machine.execFnma f s
  | .fmin f => Sys2Proof.Machine.execFmin f s
  | .fmax f => Sys2Proof.Machine.execFmax f s
  | .fabs f => Sys2Proof.Machine.execFabs f s
  | .fneg f => Sys2Proof.Machine.execFneg f s
  | .fcpys f => Sys2Proof.Machine.execFcpys f s
  | .frint f => Sys2Proof.Machine.execFrint f s
  | .fscale f => Sys2Proof.Machine.execFscale f s
  | .fclass f => Sys2Proof.Machine.execFclass f s
  | .fdiv f => Sys2Proof.Machine.execFdiv f s
  | .ffract f => Sys2Proof.Machine.execFfract f s
  | .hadd f => Sys2Proof.Machine.execHadd f s
  | .hsub f => Sys2Proof.Machine.execHsub f s
  | .hmul f => Sys2Proof.Machine.execHmul f s
  | .hfma f => Sys2Proof.Machine.execHfma f s
  | .hmin f => Sys2Proof.Machine.execHmin f s
  | .hmax f => Sys2Proof.Machine.execHmax f s
  | .hdot f => Sys2Proof.Machine.execHdot f s
  | .hneg f => Sys2Proof.Machine.execHneg f s
  | .cvt f => Sys2Proof.Machine.execCvt f s
  | .cvtq8 f => Sys2Proof.Machine.execCvtq8 f s
  | .cvte8 f => Sys2Proof.Machine.execCvte8 f s
  | .bscal f => Sys2Proof.Machine.execBscal f s
  | .renc f => Sys2Proof.Machine.execRenc f s
  | .rdec f => Sys2Proof.Machine.execRdec f s
  | .radd f => Sys2Proof.Machine.execRadd f s
  | .rmul f => Sys2Proof.Machine.execRmul f s
  | .rchk f => Sys2Proof.Machine.execRchk f s
  | .xrcp f => Sys2Proof.Machine.execXrcp f s
  | .xsqrt f => Sys2Proof.Machine.execXsqrt f s
  | .xrsq f => Sys2Proof.Machine.execXrsq f s
  | .xexp2 f => Sys2Proof.Machine.execXexp2 f s
  | .xlog2 f => Sys2Proof.Machine.execXlog2 f s
  | .xsin f => Sys2Proof.Machine.execXsin f s
  | .xcos f => Sys2Proof.Machine.execXcos f s
  | .xtanh f => Sys2Proof.Machine.execXtanh f s
  | .xsigm f => Sys2Proof.Machine.execXsigm f s
  | .xerf f => Sys2Proof.Machine.execXerf f s
  | .ctxa f => Sys2Proof.Machine.execCtxa f s
  | .ctxf f => Sys2Proof.Machine.execCtxf f s
  | .pack f => Sys2Proof.Machine.execPack f s
  | .unpack f => Sys2Proof.Machine.execUnpack f s
  | .lane f => Sys2Proof.Machine.execLane f s
  | .bcast f => Sys2Proof.Machine.execBcast f s
  | .perm f => Sys2Proof.Machine.execPerm f s
  | .shfl f => Sys2Proof.Machine.execShfl f s
  | .vote f => Sys2Proof.Machine.execVote f s
  | .lfld f => Sys2Proof.Machine.execLfld f s
  | .lfst f => Sys2Proof.Machine.execLfst f s
  | .lfldx f => Sys2Proof.Machine.execLfldx f s
  | .lfstx f => Sys2Proof.Machine.execLfstx f s
  | .cmpct f => Sys2Proof.Machine.execCmpct f s
  | .redadd f => Sys2Proof.Machine.execRedadd f s
  | .redmax f => Sys2Proof.Machine.execRedmax f s
  | .redmin f => Sys2Proof.Machine.execRedmin f s
  | .redor f => Sys2Proof.Machine.execRedor f s
  | .redfadd f => Sys2Proof.Machine.execRedfadd f s
  | .redfmax f => Sys2Proof.Machine.execRedfmax f s
  | .scanadd f => Sys2Proof.Machine.execScanadd f s
  | .scanxadd f => Sys2Proof.Machine.execScanxadd f s
  | .scanfadd f => Sys2Proof.Machine.execScanfadd f s
  | .eod f => Sys2Proof.Machine.execEod f s
  | .ld f => Sys2Proof.Machine.execLd f s
  | .st f => Sys2Proof.Machine.execSt f s
  | .ldc f => Sys2Proof.Machine.execLdc f s
  | .stc f => Sys2Proof.Machine.execStc f s
  | .prf f => Sys2Proof.Machine.execPrf f s
  | .ldmc f => Sys2Proof.Machine.execLdmc f s
  | .stbar f => Sys2Proof.Machine.execStbar f s
  | .chnopn f => Sys2Proof.Machine.execChnopn f s
  | .chncls f => Sys2Proof.Machine.execChncls f s
  | .stm f => Sys2Proof.Machine.execStm f s
  | .aadd f => Sys2Proof.Machine.execAadd f s
  | .amin f => Sys2Proof.Machine.execAmin f s
  | .amax f => Sys2Proof.Machine.execAmax f s
  | .aand f => Sys2Proof.Machine.execAand f s
  | .aor f => Sys2Proof.Machine.execAor f s
  | .axor f => Sys2Proof.Machine.execAxor f s
  | .axchg f => Sys2Proof.Machine.execAxchg f s
  | .acas f => Sys2Proof.Machine.execAcas f s
  | .afadd f => Sys2Proof.Machine.execAfadd f s
  | .atri f => Sys2Proof.Machine.execAtri f s
  | .fence f => Sys2Proof.Machine.execFence f s
  | .fwait f => Sys2Proof.Machine.execFwait f s
  | .copy f => Sys2Proof.Machine.execCopy f s
  | .cblk f => Sys2Proof.Machine.execCblk f s
  | .cpcnl f => Sys2Proof.Machine.execCpcnl f s
  | .semi f => Sys2Proof.Machine.execSemi f s
  | .semset f => Sys2Proof.Machine.execSemset f s
  | .semrd f => Sys2Proof.Machine.execSemrd f s
  | .fork f => Sys2Proof.Machine.execFork f s
  | .rdzv f => Sys2Proof.Machine.execRdzv f s
  | .qpush f => Sys2Proof.Machine.execQpush f s
  | .qpop f => Sys2Proof.Machine.execQpop f s
  | .qfree f => Sys2Proof.Machine.execQfree f s
  | .edgef f => Sys2Proof.Machine.execEdgef f s
  | .mload f => Sys2Proof.Machine.execMload f s
  | .mma f => Sys2Proof.Machine.execMma f s
  | .mmas f => Sys2Proof.Machine.execMmas f s
  | .mlut f => Sys2Proof.Machine.execMlut f s
  | .munf f => Sys2Proof.Machine.execMunf f s
  | .mdrn f => Sys2Proof.Machine.execMdrn f s
  | .mzero f => Sys2Proof.Machine.execMzero f s
  | .mscl f => Sys2Proof.Machine.execMscl f s
  | .mbnd f => Sys2Proof.Machine.execMbnd f s
  | .mfold f => Sys2Proof.Machine.execMfold f s
  | .rqinit f => Sys2Proof.Machine.execRqinit f s
  | .rqpro f => Sys2Proof.Machine.execRqpro f s
  | .rqcom f => Sys2Proof.Machine.execRqcom f s
  | .rqabt f => Sys2Proof.Machine.execRqabt f s
  | .rqget f => Sys2Proof.Machine.execRqget f s
  | .boxt f => Sys2Proof.Machine.execBoxt f s
  | .trit f => Sys2Proof.Machine.execTrit f s
  | .beamt f => Sys2Proof.Machine.execBeamt f s
  | .cover f => Sys2Proof.Machine.execCover f s
  | .qmrg f => Sys2Proof.Machine.execQmrg f s
  | .tseq f => Sys2Proof.Machine.execTseq f s
  | .tblnd f => Sys2Proof.Machine.execTblnd f s
  | .txs f => Sys2Proof.Machine.execTxs f s
  | .txl f => Sys2Proof.Machine.execTxl f s
  | .txg f => Sys2Proof.Machine.execTxg f s
  | .homep f => Sys2Proof.Machine.execHomep f s
  | .falloc f => Sys2Proof.Machine.execFalloc f s
  | .ffree f => Sys2Proof.Machine.execFfree f s
  | .frd f => Sys2Proof.Machine.execFrd f s
  | .fwr f => Sys2Proof.Machine.execFwr f s
  | .cwget f => Sys2Proof.Machine.execCwget f s
  | .cwset f => Sys2Proof.Machine.execCwset f s
  | .rgne f => Sys2Proof.Machine.execRgne f s
  | .rgnx f => Sys2Proof.Machine.execRgnx f s
  | .lnch f => Sys2Proof.Machine.execLnch f s
  | .place f => Sys2Proof.Machine.execPlace f s
  | .rcmit f => Sys2Proof.Machine.execRcmit f s
  | .fltx f => Sys2Proof.Machine.execFltx f s
  | .mark f => Sys2Proof.Machine.execMark f s
  | .tokenEgressDepart => Sys2Proof.Machine.execTokenEgressDepart s
  | .tokenIngressArrival => Sys2Proof.Machine.execTokenIngressArrival s
  | .tokenDelivery => Sys2Proof.Machine.execTokenDelivery s
  | .workSelection => Sys2Proof.Machine.execWorkSelection s
  | .gangClaim => Sys2Proof.Machine.execGangClaim s
  | .gangFire => Sys2Proof.Machine.execGangFire s
  | .waitTest => Sys2Proof.Machine.execWaitTest s
  | .waitExpiry => Sys2Proof.Machine.execWaitExpiry s
  | .reservationReady => Sys2Proof.Machine.execReservationReady s
  | .loadDataReturn => Sys2Proof.Machine.execLoadDataReturn s
  | .sliceRead => Sys2Proof.Machine.execSliceRead s
  | .writePerform => Sys2Proof.Machine.execWritePerform s
  | .atomicPerform => Sys2Proof.Machine.execAtomicPerform s
  | .replicaRead => Sys2Proof.Machine.execReplicaRead s
  | .replicaFill => Sys2Proof.Machine.execReplicaFill s
  | .collapse => Sys2Proof.Machine.execCollapse s
  | .collapseAcknowledge => Sys2Proof.Machine.execCollapseAcknowledge s
  | .replicaEvict => Sys2Proof.Machine.execReplicaEvict s
  | .pageWalk => Sys2Proof.Machine.execPageWalk s
  | .translationMissService => Sys2Proof.Machine.execTranslationMissService s
  | .copyOnWriteService => Sys2Proof.Machine.execCopyOnWriteService s
  | .ldmcRequestArrival => Sys2Proof.Machine.execLdmcRequestArrival s
  | .ldmcLineRead => Sys2Proof.Machine.execLdmcLineRead s
  | .ldmcReplyArrival => Sys2Proof.Machine.execLdmcReplyArrival s
  | .mergeWindowClose => Sys2Proof.Machine.execMergeWindowClose s
  | .chainAccessArrival => Sys2Proof.Machine.execChainAccessArrival s
  | .guylineOverflow => Sys2Proof.Machine.execGuylineOverflow s
  | .chainCloseArrival => Sys2Proof.Machine.execChainCloseArrival s
  | .chainCloseComplete => Sys2Proof.Machine.execChainCloseComplete s
  | .packageQueueOperation => Sys2Proof.Machine.execPackageQueueOperation s
  | .copyDescriptorRead => Sys2Proof.Machine.execCopyDescriptorRead s
  | .copyChunk => Sys2Proof.Machine.execCopyChunk s
  | .copyComplete => Sys2Proof.Machine.execCopyComplete s
  | .remoteSemaphoreAdd => Sys2Proof.Machine.execRemoteSemaphoreAdd s
  | .commandBlockFetch => Sys2Proof.Machine.execCommandBlockFetch s
  | .linkBlock => Sys2Proof.Machine.execLinkBlock s
  | .copyBlock => Sys2Proof.Machine.execCopyBlock s
  | .semaphoreBlock => Sys2Proof.Machine.execSemaphoreBlock s
  | .testBlock => Sys2Proof.Machine.execTestBlock s
  | .testBlockRetest => Sys2Proof.Machine.execTestBlockRetest s
  | .testBlockTimeout => Sys2Proof.Machine.execTestBlockTimeout s
  | .loopBlock => Sys2Proof.Machine.execLoopBlock s
  | .callBlock => Sys2Proof.Machine.execCallBlock s
  | .returnBlock => Sys2Proof.Machine.execReturnBlock s
  | .fetchFenceBlock => Sys2Proof.Machine.execFetchFenceBlock s
  | .chainEnd => Sys2Proof.Machine.execChainEnd s
  | .matrixQueueStart => Sys2Proof.Machine.execMatrixQueueStart s
  | .matrixInstructionFinish => Sys2Proof.Machine.execMatrixInstructionFinish s
  | .columnRequestAccept => Sys2Proof.Machine.execColumnRequestAccept s
  | .columnReply => Sys2Proof.Machine.execColumnReply s
  | .textureRequestAccept => Sys2Proof.Machine.execTextureRequestAccept s
  | .textureReply => Sys2Proof.Machine.execTextureReply s
  | .screenTileReload => Sys2Proof.Machine.execScreenTileReload s
  | .commandFlit => Sys2Proof.Machine.execCommandFlit s
  | .launchCheck => Sys2Proof.Machine.execLaunchCheck s
  | .launchImage => Sys2Proof.Machine.execLaunchImage s
  | .launchPlace => Sys2Proof.Machine.execLaunchPlace s
  | .pitchComplete => Sys2Proof.Machine.execPitchComplete s
  | .launchArm => Sys2Proof.Machine.execLaunchArm s
  | .launchStart => Sys2Proof.Machine.execLaunchStart s
  | .launchWaitExpiry => Sys2Proof.Machine.execLaunchWaitExpiry s
  | .completionPoll => Sys2Proof.Machine.execCompletionPoll s
  | .invocationRetire => Sys2Proof.Machine.execInvocationRetire s
  | .imageStrike => Sys2Proof.Machine.execImageStrike s
  | .placementSample => Sys2Proof.Machine.execPlacementSample s
  | .strikeComplete => Sys2Proof.Machine.execStrikeComplete s
  | .periodBoundary => Sys2Proof.Machine.execPeriodBoundary s
  | .quantumExpiry => Sys2Proof.Machine.execQuantumExpiry s
  | .regionWindow => Sys2Proof.Machine.execRegionWindow s
  | .heartbeat => Sys2Proof.Machine.execHeartbeat s
  | .dieLost => Sys2Proof.Machine.execDieLost s
  | .wakeOverdue => Sys2Proof.Machine.execWakeOverdue s
  | .linkWake => Sys2Proof.Machine.execLinkWake s
  | .trapRecordWrite => Sys2Proof.Machine.execTrapRecordWrite s
  | .replyRetry => Sys2Proof.Machine.execReplyRetry s
  | .replyFail => Sys2Proof.Machine.execReplyFail s
  | .replyEndThread => Sys2Proof.Machine.execReplyEndThread s
  | .raiseHalt => Sys2Proof.Machine.execRaiseHalt s
  | .releaseHalt => Sys2Proof.Machine.execReleaseHalt s
  | .preemptRegion => Sys2Proof.Machine.execPreemptRegion s
  | .resumeRegion => Sys2Proof.Machine.execResumeRegion s
  | .haltLineRaise => Sys2Proof.Machine.execHaltLineRaise s
  | .engineStop => Sys2Proof.Machine.execEngineStop s
  | .preemptionComplete => Sys2Proof.Machine.execPreemptionComplete s
  | .swapOutComplete => Sys2Proof.Machine.execSwapOutComplete s
  | .resume => Sys2Proof.Machine.execResume s
  | .memoryError => Sys2Proof.Machine.execMemoryError s
  | .eccCorrection => Sys2Proof.Machine.execEccCorrection s
  | .lanternDrain => Sys2Proof.Machine.execLanternDrain s
  | .l2Writeback => Sys2Proof.Machine.execL2Writeback s
  | .l2WritebackEnd => Sys2Proof.Machine.execL2WritebackEnd s
  | .l2Switch => Sys2Proof.Machine.execL2Switch s
  | .l2SwitchCommit => Sys2Proof.Machine.execL2SwitchCommit s
  | .mmuInvalidate => Sys2Proof.Machine.execMmuInvalidate s
  | .mmuInvalidateComplete => Sys2Proof.Machine.execMmuInvalidateComplete s
  | .glShareWrite => Sys2Proof.Machine.execGlShareWrite s
  | .hostQueueDestroy => Sys2Proof.Machine.execHostQueueDestroy s
  | .rcRead => Sys2Proof.Machine.execRcRead s
  | .controlWordWrite => Sys2Proof.Machine.execControlWordWrite s
  | .rangeCommitSwitch => Sys2Proof.Machine.execRangeCommitSwitch s
  | .readFlit => Sys2Proof.Machine.execReadFlit s
  | .readReplyFlit => Sys2Proof.Machine.execReadReplyFlit s
  | .writeFlit => Sys2Proof.Machine.execWriteFlit s
  | .atomicFlit => Sys2Proof.Machine.execAtomicFlit s
  | .acknowledgementFlit => Sys2Proof.Machine.execAcknowledgementFlit s
  | .timeFlit => Sys2Proof.Machine.execTimeFlit s
  | .stopFlit => Sys2Proof.Machine.execStopFlit s
  | .managementQueueRead => Sys2Proof.Machine.execManagementQueueRead s
  | .identity => Sys2Proof.Machine.execIdentity s
  | .attest => Sys2Proof.Machine.execAttest s
  | .imageLoad => Sys2Proof.Machine.execImageLoad s
  | .partitionCreate => Sys2Proof.Machine.execPartitionCreate s
  | .managementWrite => Sys2Proof.Machine.execManagementWrite s
  | .partitionDestroy => Sys2Proof.Machine.execPartitionDestroy s
  | .lifeCycleChange => Sys2Proof.Machine.execLifeCycleChange s
  | .powerOnReset => Sys2Proof.Machine.execPowerOnReset s
  | .eventMatch => Sys2Proof.Machine.execEventMatch s
  | .syradTimer => Sys2Proof.Machine.execSyradTimer s
  | .controlCoreService => Sys2Proof.Machine.execControlCoreService s
  | .islandPower => Sys2Proof.Machine.execIslandPower s
  | .flitForwarding => Sys2Proof.Machine.execFlitForwarding s
  | .swapInComplete => Sys2Proof.Machine.execSwapInComplete s
  | .rangeTableRead => Sys2Proof.Machine.execRangeTableRead s

end Sys2Proof.Machine
end

