-- ==== Sys2Proof/Machine/Step.lean ====
section
/-! DEFINITION. One step: the next activity of the module is an agent's instruction, fetched and decoded
from its cell's tables, or an event. Each is one whole row of the opcode table. -/

namespace Sys2Proof.Machine

/-- Run the instruction at the IP of the thread that an agent runs; a stopped agent waits. -/
def State.stepIssue (s : State) (ag : Agent) : Host.Outcome State Fault Refusal :=
  match (s.cell ag).run with
  | none => .next s
  | some u =>
    match s.thr? u with
    | none => .next s
    | some t =>
      if !s.mayIssue t then .next (s.post (.issue ag))
      else if t.ending || s.pastEnd t then .next (s.endThread u)
      else match s.tableStop t with
      | some s' => .next (s'.post (.issue ag))
      | none =>
        let w := (s.cell ag).slotWord t.ip
        match decode (slotBytes w.1 w.2) with
        | .error _ => .refused (.reservedWord w.1)
        | .ok (i, _) =>
          match exec i { s with cur := ag } with
          | .next s' => .next (s'.reissue ag)
          | .fault r => .fault r
          | .refused r => .refused r

/-- One step of the module. -/
def step (s : State) : Host.Outcome State Fault Refusal :=
  match s.nextAct with
  | none => .fault .idle
  | some (.issue ag, s') => s'.stepIssue ag
  | some (.ev i x, s') => exec i { s' with subj := x }

/-- The state with an instruction placed where `step` fetches next (log 5). -/
def State.withFetchWord (s : State) (_nbits w : Nat) : State :=
  s.placed (BitVec.ofNat 32 w) (BitVec.ofNat 32 (w / 2 ^ 32))

end Sys2Proof.Machine
end

