-- ==== Sys2Proof/Safety.lean ====
section
/-! DEFINITION. The terms the claims use: when an agent issues an instruction, when the slots of its
tokens are there, what it leaves of its thread, and which parts of the state a step keeps. -/

namespace Sys2Proof.Machine

/-! ## What is kept -/

/-- The parts of the state that a frame speaks of. -/
inductive Comp
  | mem | memBad | clock | threads | tables | queues | banks | reds | fences | passed | sems | frames | grants
  | engines | placed | elems | fabric | accs | pkgQueues | semOps | parts | launches | images | places | biv
  | scr | tex | column | coh | lantern | io
  deriving DecidableEq, Repr

/-- A partition's words, apart from the activity its regions count and the period of that count (R325). -/
def Part.bare (v : Part) : Part :=
  { v with period := 0, regions := v.regions.map (fun e => (e.1, { e.2 with used := [] })) }

/-- Two states agree on a part of the state, as thread u's own work may leave it: other threads, and fence
entries of other threads. -/
def Same (c : Comp) (u : Nat) (s s' : State) : Prop :=
  match c with
  | .mem => s'.mem = s.mem
  | .memBad => s'.memBad = s.memBad
  | .clock => s'.cycle = s.cycle ∧ s'.tod = s.tod
  | .threads => ∀ w, w ≠ u → s'.thr? w = s.thr? w
  | .tables => ∀ a, (s'.cell a).instr = (s.cell a).instr ∧ (s'.cell a).lits = (s.cell a).lits
      ∧ (s'.cell a).routes = (s.cell a).routes ∧ (s'.cell a).bases = (s.cell a).bases ∧ (s'.cell a).last = (s.cell a).last
  | .queues => ∀ a, (s'.cell a).queues = (s.cell a).queues ∧ (s'.cell a).pairs = (s.cell a).pairs
  | .banks => ∀ a, (s'.cell a).bank = (s.cell a).bank
  | .reds => ∀ a, (s'.cell a).red = (s.cell a).red
  | .fences => ∀ a n e, tget (s.cell a).fences n = some e → e.owner ≠ some u → tget (s'.cell a).fences n = some e
  | .passed => ∀ a, (s'.cell a).passed = (s.cell a).passed
  | .sems => ∀ x, (s'.site x).sems = (s.site x).sems
  | .frames => ∀ x, (s'.site x).frames = (s.site x).frames
  | .grants => ∀ x, (s'.site x).grants = (s.site x).grants
  | .engines => ∀ x, (s'.site x).copies = (s.site x).copies ∧ (s'.site x).copyGens = (s.site x).copyGens
      ∧ (s'.site x).chains = (s.site x).chains ∧ (s'.site x).chainGens = (s.site x).chainGens
  | .placed => ∀ x, (s'.site x).part = (s.site x).part ∧ (s'.site x).img = (s.site x).img
      ∧ (s'.site x).stage = (s.site x).stage ∧ (s'.site x).valid = (s.site x).valid
  | .elems => s'.elems = s.elems
  | .fabric => s'.fabric = s.fabric
  | .accs => s'.accs = s.accs
  | .pkgQueues => s'.queues = s.queues ∧ s'.pqOps = s.pqOps
  | .semOps => s'.semOps = s.semOps ∧ s'.closes = s.closes
  | .parts => ∀ p, (s'.part p).bare = (s.part p).bare
  | .launches => s'.launches = s.launches
  | .images => s'.images = s.images
  | .places => s'.places = s.places
  | .biv => s'.biv = s.biv
  | .scr => s'.scr = s.scr
  | .tex => s'.tex = s.tex
  | .column => s'.colReq = s.colReq ∧ s'.colWait = s.colWait ∧ s'.colLast = s.colLast ∧ s'.texLast = s.texLast
  | .coh => s'.coh = s.coh
  | .lantern => s'.lantern = s.lantern
  | .io => s'.io = s.io

/-- Every part of the state but those of `ex` is as before. -/
structure Keeps (ex : List Comp) (u : Nat) (s s' : State) : Prop where
  same : ∀ c, c ∉ ex → Same c u s s'

/-! ## An instruction of a thread -/

/-- The agent whose turn it is runs thread u, whose instruction with fields f has a legal literal and nothing
to hold for (R39, R76, R212, R249). -/
structure Issues (s : State) (u : Nat) (t : Thread) (f : Fields) (m : Form) : Prop where
  runs : s.curUid = some u
  thr : s.thr? u = some t
  legal : fieldsOk m.opc f = true
  going : t.ending = false
  free : t.blocked f m = false

/-- What an instruction emits: from the thread as its own effect leaves it, with the continuation word read
before that (R12, R78, R206). -/
def State.emits (s b : State) (t k : Thread) (f : Fields) (e : Eff) : Plan :=
  let k' := k.commit f e
  if e.mute then ⟨[], none⟩
  else b.planFor (if e.ctl then { k' with kind := .control } else k') f (s.contWord t f)
    (some (e.scene ((k'.lanes.map (fun x => x.v)).headD .zero)))

/-- A target that the token can leave for. -/
def Tgt.open : Tgt → Bool
  | .site _ => true
  | .hold _ _ => true
  | _ => false

/-- Every route destination has its target, and the slots of all of them are free (R42, R80, R206, R346). -/
structure Room (s b : State) (t k : Thread) (f : Fields) (e : Eff) : Prop where
  good : (s.emits b t k f e).bad = none
  targets : ∀ d ∈ (s.emits b t k f e).ents, d.tgt.open = true
  slots : (b.reserveAll ((s.emits b t k f e).ents.flatMap (fun d => d.resv))).isSome

/-- R79: `done` counts in its launch and lowers its frame's use count. -/
def doneComps (f : Fields) : List Comp := if f.tag = .done then [.frames, .launches] else []

/-- The predicate block after an instruction (R83). -/
def Thread.nextPblk (k : Thread) (e : Eff) : Option Pblk :=
  match e.pblk with
  | some b => some b
  | none => k.pblk.bind Pblk.step

/-- The end of an instruction that completes: b is the state and k the thread as its own effect leaves them,
e what it does to its lanes (R79, R81, R83). A continuing thread stands at its next IP with its new lanes and
is otherwise k; any other thread is gone; everything else is as in b. -/
structure Completes (b s' : State) (u : Nat) (k : Thread) (f : Fields) (e : Eff) : Prop where
  keeps : Keeps (doneComps f) u b s'
  goesOn : continues f.tag = true → b.pastEnd (k.advance e.jump) = false →
    ∃ st sl su, s'.thr? u = some { (k.commit f e).advance e.jump with
      pblk := k.nextPblk e, wait := none, plan := ⟨[], none⟩, stat := st, slot := sl, susp := su }
  ends : continues f.tag = false ∨ b.pastEnd (k.advance e.jump) = true → s'.thr? u = none

/-- Instruction i, run by thread u in state s, has the effect b and k and then completes. -/
def Performs (i : Instr) (s : State) (u : Nat) (f : Fields) (b : State) (k : Thread) (e : Eff) : Prop :=
  ∃ s', exec i s = .next s' ∧ Completes b s' u k f e

/-- The instruction has not ended: b is the state and k the thread as it left them, and the thread stays as k
with status st, in its cell or in a thread slot, until what it waits for comes (R85, R95, R358). -/
structure Suspends (b s' : State) (u : Nat) (k : Thread) (st : TStat) : Prop where
  keeps : Keeps [] u b s'
  stays : ∃ pl sl su, s'.thr? u = some { k with plan := pl, stat := st, slot := sl, susp := su }

/-- The slots of an instruction that waits are there: a route whose partition is not yet known holds both that
it could need (R206). -/
def RoomLate (s b : State) (t k : Thread) (f : Fields) : Prop :=
  (b.reserveAll ((b.planFor k f (s.contWord t f) none).ents.flatMap (fun d => d.resv))).isSome

/-- Instruction i, run by thread u in state s, has the effect b and k and then waits with status st. -/
def Parks (i : Instr) (s : State) (u : Nat) (b : State) (k : Thread) (st : TStat) : Prop :=
  ∃ s', exec i s = .next s' ∧ Suspends b s' u k st

/-- Thread u waits in an instruction whose tokens can all leave (R85, R170, R206, R358). -/
structure Waiting (s : State) (u : Nat) (t : Thread) (w : Wait) (st : TStat) : Prop where
  thr : s.thr? u = some t
  wait : t.wait = some w
  stat : t.stat = st
  going : t.ending = false
  good : t.plan.bad = none
  targets : ∀ d ∈ t.plan.ents, d.tgt.open = true

/-- An event ends the instruction that thread u waits in, with effect e and nothing else changed from b. -/
def Ends (i : Instr) (s b : State) (u : Nat) (k : Thread) (f : Fields) (e : Eff) : Prop :=
  ∃ s', exec i s = .next s' ∧ Completes b s' u k f e

/-- A whole family of instructions that act on their own thread alone: with its slots there, the instruction
completes with effect `eff` and nothing else changes. -/
def ActsAs (mk : Fields → Instr) (m : Fields → Form) (eff : Thread → Fields → Eff) : Prop :=
  ∀ (s : State) (u : Nat) (t : Thread) (f : Fields), Issues s u t f (m f) → Room s s t t f (eff t f) →
    Performs (mk f) s u f s t (eff t f)

/-! ## Lanewise results (R77, R105) -/

/-- Operand values of one lane. -/
def Thread.aW (t : Thread) (f : Fields) (l : Nat) : PWord := (t.as f).getD l .zero
def Thread.bW (t : Thread) (f : Fields) (l : Nat) : PWord := (t.bs f).getD l .zero
def Thread.zW (t : Thread) (l : Nat) : PWord := t.zs.getD l .zero

/-- A result of A alone: poisoned where A is. -/
def lanes1 (g : Fields → Word → Word) (t : Thread) (f : Fields) : Eff :=
  .val ((List.range t.width).map (fun l => ⟨g f (t.aW f l).w, (t.aW f l).pois⟩))

/-- A result of A and B: poisoned where either is. -/
def lanes2 (g : Fields → Word → Word → Word) (t : Thread) (f : Fields) : Eff :=
  .val ((List.range t.width).map (fun l => ⟨g f (t.aW f l).w (t.bW f l).w, (t.aW f l).pois || (t.bW f l).pois⟩))

/-- A result of A, B and z: poisoned where any is. -/
def lanes3 (g : Fields → Word → Word → Word → Word) (t : Thread) (f : Fields) : Eff :=
  .val ((List.range t.width).map (fun l =>
    ⟨g f (t.aW f l).w (t.bW f l).w (t.zW l).w, (t.aW f l).pois || (t.bW f l).pois || (t.zW l).pois⟩))

end Sys2Proof.Machine
end

