-- ==== Sys2Proof/Certificates/Slice0/Obligations.lean ====
section
/-! DEFINITION. The statements for the provers. -/


open Sys2Proof Sys2Proof.Machine

/-! ## The machine: reset, memory, words, steps, lanes, tokens -/

/-- R437: at reset memory reads zero, nothing is pitched, no partition, thread or launch exists, and the boot is what the
first step does. The registers that R437 gives no value are the model's choice (log 4) and are not stated here. -/
def Obligations.ResetState : Prop :=
  let r := State.reset
  Memory.wf r.mem = true ∧ (∀ a, rdB r.mem a = 0) ∧ r.memBad = [] ∧ r.threads = [] ∧ r.parts = [] ∧ r.launches = [] ∧ r.images = []
  ∧ r.fabric = [] ∧ r.accs = [] ∧ (∀ x, (r.site x).img = none ∧ (r.site x).valid = false ∧ (r.site x).frames = [] ∧ (r.site x).part = none)
  ∧ (∀ ag, (r.cell ag).run = none ∧ (r.cell ag).last = none ∧ (r.cell ag).queues = []) ∧ r.cycle = 0 ∧ r.tod = 0
  ∧ ∃ s', step r = .next s' ∧ s'.mem = [] ∧ s'.parts = [] ∧ s'.threads = [] ∧ s'.cycle = 0 ∧ (s'.io.booted = true ∨ s'.io.recovery = true)

/-- R4, R267: memory is its bytes. A byte reads as last written and no other byte changes; the canonical form is kept by
every write; two memories in that form that read alike are equal. -/
def Obligations.MemoryReadsBack : Prop :=
  ∀ m : List Host.Cell, Memory.wf m = true →
    (∀ a b, Memory.wf (wrB m a b) = true ∧ ∀ x, rdB (wrB m a b) x = if x = a then b else rdB m x)
    ∧ (∀ a bs, Memory.wf (wrN m a bs) = true ∧ rdN (wrN m a bs) a bs.length = bs
        ∧ ∀ x, x < a ∨ a + bs.length ≤ x → rdB (wrN m a bs) x = rdB m x)
    ∧ (∀ a bs ks, bs.length = ks.length → Memory.wf (wrMasked m a bs ks) = true
        ∧ (∀ i, i < bs.length → rdB (wrMasked m a bs ks) (a + i) = if ks.getD i false then bs.getD i 0 else rdB m (a + i))
        ∧ ∀ x, x < a ∨ a + bs.length ≤ x → rdB (wrMasked m a bs ks) x = rdB m x)
    ∧ (∀ m', Memory.wf m' = true → (∀ a, rdB m a = rdB m' a) → m = m')

/-- R35 to R38, R44, R109: words written out from the encoding, one per opcode group with every tag action among them,
decode to the instruction that they stand for; a reserved opcode and a reserved destination are rejected. -/
def Obligations.DecodeWords : Prop :=
  (∀ e ∈ ([
      (0x021FFFFF, 5, .jmp ⟨.next, .zero, .zero, .none, .none, 5⟩),
      (0x1011307F, 7, .add ⟨.next, .a, .lit, .reg .a, .none, 7⟩),
      (0x20F3B265, 0, .shl ⟨.done, .b, .lane, .v, .p, 0⟩),
      (0x30C4C05F, 0, .cmpeq ⟨.ifp, .c, .d, .route 0, .route 95, 0⟩),
      (0x400A3063, 0, .fadd ⟨.keep, .v, .a, .reg .a, .reg .d, 0⟩),
      (0x502070FF, 0, .hadd ⟨.wavePlus, .a, .b, .reg .b, .none, 0⟩),
      (0x6031F27F, 0, .cvt ⟨.wave0, .a, .zero, .v, .none, 0⟩),
      (0x704040FF, 0, .xrcp ⟨.call, .a, .b, .route 1, .none, 0⟩),
      (0x8551F27F, 0, .bcast ⟨.ret, .a, .zero, .v, .none, 0⟩),
      (0x9061F27F, 0, .redadd ⟨.setcol, .a, .zero, .v, .none, 0⟩),
      (0xA070717F, 1, .ld ⟨.eod1, .a, .b, .reg .c, .none, 1⟩),
      (0xB080B07F, 2, .aadd ⟨.eod2, .a, .c, .reg .a, .none, 2⟩),
      (0xC391FFFF, 3, .semi ⟨.eod3, .a, .zero, .none, .none, 3⟩),
      (0xD1A07FFF, 4, .mma ⟨.pois, .a, .b, .none, .none, 4⟩),
      (0xEFB1F27F, 0, .homep ⟨.drop, .a, .zero, .v, .none, 0⟩),
      (0xF0E1F27F, 0, .falloc ⟨.yield, .a, .zero, .v, .none, 0⟩),
      (0xFCD1FFFF, 9, .mark ⟨.ifnp, .a, .zero, .none, .none, 9⟩)] : List (Nat × Nat × Instr)),
    decode (leBytes 4 e.1 ++ leBytes 4 e.2.1) = .ok (e.2.2, []))
  ∧ decode (leBytes 8 0x581FFFFF) = .error (.reservedOpcode 0x58)
  ∧ decode (leBytes 8 0x101FF37F) = .error (.reservedDestination 0x66)

/-- R35 to R38, R44, R109: decoding and encoding agree. For every instruction with any operands the decoder reads the
instruction back from its words, whatever follows; and a pair of words that decodes is the encoding of what it decodes
to, so no bit is dropped. A word decodes unless its opcode or a destination is reserved. -/
def Obligations.DecodeEncode : Prop :=
  (∀ (i : Instr) (w l : Word) (rest : List Byte), encode i = some (w, l) →
    decode (leBytes 4 w.toNat ++ leBytes 4 l.toNat ++ rest) = .ok (i, rest))
  ∧ (∀ (w l : Word) (i : Instr), decodeWord w l = .ok i → encode i = some (w, l))
  ∧ (∀ (w l : Word), (∃ i, decodeWord w l = .ok i) ↔ (ctorOf (fld w 28 4) (fld w 24 4)).isSome = true
      ∧ (fld w 7 7 < 102 ∨ fld w 7 7 = 127) ∧ (fld w 0 7 < 102 ∨ fld w 0 7 = 127))

/-- R31, R32, R81: a step runs what comes next: an event on its subject; or, for an agent, the instruction decoded from the
two words at its thread's slot, after which the agent issues again while its thread runs. A thread past its actor's
last slot ends. What was chosen leaves the agenda and time goes on.
That one row is one step, in an order that nothing fixes, is the model's choice (log 1, 2, 3); `withFetchWord` is log 5. -/
def Obligations.StepRunsDecoded : Prop :=
  (∀ (s s1 : State) (i : Instr) (x : Subj), s.nextAct = some (.ev i x, s1) → step s = exec i { s1 with subj := x })
  ∧ (∀ (s s1 : State) (ag : Agent) (u : Nat) (t : Thread) (i : Instr) (rest : List Byte), s.nextAct = some (.issue ag, s1) →
    (s1.cell ag).run = some u → s1.thr? u = some t → s1.mayIssue t = true →
    (t.ending = true ∨ s1.pastEnd t = true → step s = .next (s1.endThread u))
    ∧ (t.ending = false → s1.pastEnd t = false → (s1.cell t.src).bad.contains t.ip = false →
      decode (leBytes 4 (tgetD (s1.cell ag).instr t.ip 0).toNat ++ leBytes 4 (tgetD (s1.cell ag).lits t.ip 0).toNat) = .ok (i, rest) →
      (∀ s', exec i { s1 with cur := ag } = .next s' → step s = .next (s'.reissue ag))
      ∧ (∀ r, exec i { s1 with cur := ag } = .refused r → step s = .refused r)))
  ∧ (∀ (s : State) (a : Act), s.turn = some a → ∃ s1, s.nextAct = some (a, s1) ∧ s1.turn = none ∧ s1.agenda = s.agenda ∧ s1.mem = s.mem)
  ∧ (∀ (s : State), s.turn = none → s.agenda ≠ [] → ∃ n a s1, s.agenda[n]? = some a ∧ s.nextAct = some (a, s1) ∧ s1.agenda = s.agenda.eraseIdx n
      ∧ s1.mem = s.mem ∧ s1.tick = s.tick + 1 ∧ s.cycle ≤ s1.cycle)
  ∧ (∀ (s : State) (n w : Nat), ∃ s1, (s.withFetchWord n w).nextAct = some (.issue ⟨.tile 0, 0⟩, s1)
      ∧ (s1.cell ⟨.tile 0, 0⟩).slotWord 0 = (BitVec.ofNat 32 w, BitVec.ofNat 32 (w / 2 ^ 32)) ∧ s1.mem = s.mem)

/-- R31, R48, R76: nothing stops the machine but what no pitched image holds. Every event goes on from every state; every
instruction goes on wherever its agent runs a thread and its literal and selects hold nothing reserved (R434: a Syrad
cell's matcher words, which have no number, are not), and is refused by the reserved literal's name otherwise; a step
faults only with nothing left to happen and refuses only a reserved word or literal.
Both stops are the model's choice: the fault with nothing left to happen is log 15 and the refusals of a reserved word
and a reserved literal, which R48 keeps out of every pitched image, are log 18. -/
def Obligations.StepGoesOn : Prop :=
  (∀ (i : Instr) (s : State), i.opcode? = none → ∃ s', exec i s = .next s')
  ∧ (∀ (i : Instr) (op : Nat) (f : Fields) (s : State) (u : Nat) (t : Thread), i.opcode? = some op → i.fields? = some f →
      s.curUid = some u → s.thr? u = some t →
      let runs := fieldsOk op f || (isSyrad s.cur.site && matcherLit op f.lit)
      (runs = true → ∃ s', exec i s = .next s') ∧ (runs = false → exec i s = .refused (.reservedLiteral op)))
  ∧ (∀ (s : State) (r : Fault), step s = .fault r → r = .idle ∧ s.turn = none ∧ s.agenda = [])
  ∧ (∀ (s : State) (r : Refusal), step s = .refused r → (∃ w, r = .reservedWord w) ∨ ∃ op, r = .reservedLiteral op)

/-- R76, R83, R105: results go to lanes. Under a predicate block only the lanes whose latched condition matches the mask
bit of the instruction's place take part; a lane that does not keeps everything. One that does takes the result in
`v` and in its register destinations and, where `p` is a destination, bit 0 of an unpoisoned result.
R83: an instruction that selects no lane changes nothing of the gang: each of these only goes on, with the empty
effect, and an access without a lane leaves the state as it is. That it changes nothing of the machine either is the
model's choice where R83 names the lanes alone (log 46). -/
def Obligations.ResultsCommitPerLane : Prop :=
  (
  ∀ (t : Thread) (f : Fields) (e : Eff),
    ({ t.commit f e with lanes := t.lanes } = t ∧ (t.commit f e).lanes.length = t.lanes.length)
    ∧ (∀ l, t.selected l = true ↔ ∀ b, t.pblk = some b → b.cond.getD l false = b.mask.getLsbD b.j)
    ∧ (∀ b, t.pblk = some b → b.step = if b.j + 1 < b.n then some { b with j := b.j + 1 } else none)
    ∧ (∀ l x, t.lanes[l]? = some x →
      (t.selected l = false → (t.commit f e).lanes[l]? = some x)
      ∧ (∀ rs, t.selected l = true → e.v = some rs → e.regs = true → e.load = false → e.p = none →
        ∃ y, (t.commit f e).lanes[l]? = some y ∧
          let r := rs.getD l x.v
          let q := fun (g : Reg) (old : PWord) => if f.dst1 = .reg g ∨ f.dst2 = .reg g then r else old
          y.v = r ∧ y.a = q .a x.a ∧ y.b = q .b x.b ∧ y.c = q .c x.c ∧ y.d = q .d x.d
          ∧ y.p = if f.dst1 = .p ∨ f.dst2 = .p then r.w.getLsbD 0 && !r.pois else x.p)
      ∧ (∀ ps, t.selected l = true → e.v = none → e.p = some ps → (t.commit f e).lanes[l]? = some { x with p := ps.getD l x.p })))
  ∧ (
  ∀ (s : State) (u : Nat) (t : Thread) (f : Fields), t.selLanes = [] →
    let goesOn := fun (p : Instr × Form) => Issues s u t f p.2 → Room s s t t f {} → Performs p.1 s u f s t {}
    (∀ p ∈ [(Instr.bkpt f, ({ opc := 0x0D } : Form)), (.wavea f, { opc := 0x0A, b := false }), (.time f, { opc := 0x0B, b := false }),
      (.ctxa f, { opc := 0x80, b := false, cyc := 4 }), (.ctxf f, { opc := 0x81, b := false, cyc := 4 }),
      (.pack f, { opc := 0x82, cyc := 4 }), (.unpack f, { opc := 0x83, b := false, cyc := 4 }),
      (.stbar f, { opc := 0xA6, a := false, b := false }), (.chnopn f, { opc := 0xA7, b := false }), (.chncls f, { opc := 0xA8 }),
      (.fence f, { opc := 0xBA, a := false, b := false }), (.copy f, { opc := 0xC0, b := false, ctr := some .cp, counts := fun t => !(t.a0 f).pois && !t.selLanes.isEmpty }),
      (.cblk f, { opc := 0xC1, b := false, ctr := some .cp, counts := fun t => !(t.a0 f).pois && !t.selLanes.isEmpty }), (.cpcnl f, { opc := 0xC2, b := false }),
      (.semi f, { opc := 0xC3, b := bit f.lit 6 }), (.semset f, { opc := 0xC4, b := false }),
      (.semrd f, { opc := 0xC5, a := false, b := false }),
      (.fork f, { opc := 0xC6, b := bit f.lit 10, ctr := if bit f.lit 6 then some .cp else none, counts := (·.forks f) }),
      (.qfree f, { opc := 0xCA, a := false, b := false }), (.falloc f, { opc := 0xF0 }), (.ffree f, { opc := 0xF1, b := false }),
      (.cwget f, { opc := 0xF4, a := bit f.lit 25, b := false }), (.cwset f, { opc := 0xF5, b := bit f.lit 25 }),
      (.rgne f, { opc := 0xF6, b := false }), (.rgnx f, { opc := 0xF7, b := false }), (.lnch f, { opc := 0xF8, b := false }),
      (.place f, { opc := 0xF9, b := false }), (.rcmit f, { opc := 0xFA, b := false }), (.fltx f, { opc := 0xFB }),
      (.mark f, { opc := 0xFC, b := false })], goesOn p)
    ∧ ((t.b0 f).pois = false → 
      goesOn (.ldc f, { opc := 0xA2, ctr := some .ld, counts := fun t => !(t.b0 f).pois && t.anyLane })
      ∧ goesOn (.stc f, { opc := 0xA3, ctr := some .st, counts := fun t => !(t.b0 f).pois && t.anyLane }))
    ∧ (∀ x : Access, x.lanes = [] → x.isResolve = false → s.issueAcc u x = s))

/-- R206, R207, R212, R249: an instruction that names a register still awaiting an access, as a destination or as an
operand that it uses, holds, changing nothing (z is `v`, which R248 leaves to the result: no access makes it wait); so
does one that would take an outstanding counter to 256. One whose slots cannot be reserved is suspended at its own slot
with no part of its effect done, and looks again when slots come free. -/
def Obligations.HoldsAndFullSlots : Prop :=
  (∀ (i : Instr) (op : Nat) (f : Fields) (s : State) (u : Nat) (t : Thread), i.opcode? = some op → i.fields? = some f →
    s.curUid = some u → s.thr? u = some t → t.ending = false → fieldsOk op f = true →
    let usesA := op ∉ [0x00, 0x02, 0x03, 0x05, 0x06, 0x84, 0x99, 0xA6, 0xBA, 0xC5, 0xCA] ∧ (op = 0x88 → bit f.lit 3 = true)
      ∧ (op = 0xF4 → bit f.lit 25 = true) ∧ (op = 0xEB → fld f.lit 3 2 ≠ 3)
    let oneSource := [0x00, 0x01, 0x02, 0x03, 0x04, 0x05, 0x06, 0x07, 0x09, 0x0A, 0x0B, 0x0F, 0x16, 0x17, 0x24, 0x25, 0x26, 0x48, 0x49,
      0x4B, 0x4D, 0x4F, 0x57, 0x60, 0x63, 0x64, 0x68, 0x70, 0x71, 0x72, 0x73, 0x74, 0x75, 0x76, 0x77, 0x78, 0x79, 0x80, 0x81, 0x83,
      0x84, 0x88, 0x89, 0x8D, 0x90, 0x91, 0x92, 0x93, 0x94, 0x95, 0x96, 0x97, 0x98, 0x99, 0xA0, 0xA4, 0xA6, 0xA7, 0xBA, 0xC0, 0xC1,
      0xC2, 0xC4, 0xC5, 0xC9, 0xCA, 0xCB, 0xE0, 0xE1, 0xE2, 0xE3, 0xE4, 0xF1, 0xF2, 0xF4, 0xF6, 0xF7, 0xF8, 0xF9, 0xFA, 0xFC]
    let usesB := op ∉ oneSource ∧ (op = 0x0E → bit f.lit 0 = false) ∧ (op = 0xC3 → bit f.lit 6 = true)
      ∧ (op = 0xC6 → bit f.lit 10 = true) ∧ (op = 0xF5 → bit f.lit 25 = true)
      ∧ (0xD0 ≤ op ∧ op ≤ 0xDF → (mxUse op f.lit).b = true ∧ (op = 0xD8 → fld f.lit 9 2 ≠ 3))
    (∀ r ∈ dstRegs f, ∀ a, (r, a) ∈ t.pend → exec i s = .next s)
    ∧ (usesA → ∀ r a, selReg f.selA = some r → (r, a) ∈ t.pend → exec i s = .next s)
    ∧ (usesB ∨ f.tag = .call → ∀ r a, selReg f.selB = some r → (r, a) ∈ t.pend → exec i s = .next s)
    ∧ (t.selLanes ≠ [] →
      (op ∈ [0xA0, 0xA5] ∨ op ∈ [0xE5, 0xE6, 0xE7, 0xEA, 0xEC, 0xED, 0xEE] ∧ isTile t.src.site = true ∨ op = 0xA2 ∧ (t.b0 f).pois = false →
        255 ≤ t.nld → exec i s = .next s)
      ∧ (op ∈ [0xA1, 0xA9, 0xB0, 0xB1, 0xB2, 0xB3, 0xB4, 0xB5, 0xB6, 0xB7, 0xB8, 0xB9] ∨ op = 0xA3 ∧ (t.b0 f).pois = false
          ∨ op = 0xEB ∧ fld f.lit 3 2 = 3 ∧ isTile t.src.site = true →
        255 ≤ t.nst → exec i s = .next s)
      ∧ (op ∈ [0xC0, 0xC1] ∧ (t.a0 f).pois = false
          ∨ op = 0xC6 ∧ bit f.lit 6 = true ∧ (t.a0 f).pois = false ∧ (bit f.lit 10 = true → (t.b0 f).pois = false ∧ t.z0.pois = false) →
        255 ≤ t.ncp → exec i s = .next s))
    ∧ (0xD0 ≤ op → op ≤ 0xDF → (op = 0xD8 → fld f.lit 9 2 ≠ 3) → t.queuesMx f op = true → 255 ≤ t.nmx → exec i s = .next s))
  ∧ (∀ (s b : State) (u : Nat) (t k : Thread) (f : Fields) (m : Form) (e : Eff), s.thr? u = some t → b.thr? u = some k → e.susp = none →
    (b.reserveAll ((s.emits b t k f e).ents.flatMap (fun d => d.resv))).isNone = true →
    ∃ st sl su, (s.issue u f m b e).thr? u = some { t with stat := st, slot := sl, susp := su } ∧ st = .reserve
      ∧ Keeps [] u s (s.issue u f m b e) ∧ Act.ev .reservationReady { a := u } ∈ (s.issue u f m b e).agenda)
  ∧ (∀ (s : State) (ag : Agent) (port : Nat) (ctl : Bool), (s.reserve (.queue ag port) ctl).isSome = true
      ↔ (if ctl then 1 else 3) ≤ 8 - (((s.cell ag).queue port).length + tgetD (s.cell ag).qresv port 0))
  ∧ (∀ (s : State) (x : Site) (c ctl : Bool), (s.reserve (.egress x c) ctl).isSome = true
      ↔ (s.site x).egress.length + (s.site x).egResv < (if ctl then 64 else 56))

/-- R40 to R42, R78, R79, R346: what an instruction emits. MOV to a route of its own tile puts its operand, lane by lane,
on the way to the route's cell, slot and port, with the thread's frame, wave, colour and kind in the tag; a route to
another tile goes through egress; a destination without a payload returns its slot; one whose target failed raises its
fault instead. -/
def Obligations.TokensEmitted : Prop :=
  (∀ (s : State) (u : Nat) (t : Thread) (f : Fields) (n : Fin 96), Issues s u t f { opc := 0x01, b := false } →
    f.tag = .keep → f.dst1 = .route n → f.dst2 = .none → t.pblk = none →
    let rt := tgetD (s.cell t.src).routes n.val 0
    let port := fld rt 27 2
    fld rt 29 3 = 0 → (if t.kind = .control then 1 else 3) ≤ (s.cell ⟨t.src.site, fld rt 13 6⟩).qfree port →
    ∃ s' k, exec (.mov f) s = .next s' ∧ (s'.site t.src.site).ingress = (s.site t.src.site).ingress ++ [k] ∧ s'.thr? u = none
      ∧ k.data = t.as f ∧ k.dst = t.src.site ∧ k.cell = fld rt 13 6 ∧ k.fslot = fld rt 7 6 ∧ k.held = true ∧ k.part = t.part
      ∧ k.tag.frame = t.frame ∧ k.tag.ip.toNat = fld rt 19 8 ∧ k.tag.port.toNat = port ∧ k.tag.wave = t.wave ∧ k.tag.colour = t.colour
      ∧ k.tag.width = t.width ∧ k.tag.kind = t.kind ∧ k.tag.eod = 0 ∧ k.tag.block = t.block
      ∧ Act.ev .tokenDelivery { site := t.src.site, a := k.id } ∈ s'.agenda)
  ∧ (∀ (s : State) (t : Thread) (f : Fields) (opc : Nat) (e : Eff) (d : PlanEnt) (x : Site) (r : Resv × Bool) (vs : List PWord),
    d.tgt = .site x → x ≠ t.src.site → d.resv = [r] → payload t f e d.dest = some vs → f.tag ≠ .setcol →
    ∃ k, ((s.emitOne t f opc e d).site t.src.site).egress = (s.site t.src.site).egress ++ [k] ∧ k.data = vs ∧ k.dst = x ∧ k.cell = d.cell
      ∧ k.fslot = d.fslot ∧ k.src = t.src ∧ { k.tag with eod := 0 } = { d.tag with eod := 0 } ∧ k.unres = none
      ∧ Act.ev .tokenEgressDepart { site := t.src.site, a := k.id } ∈ (s.emitOne t f opc e d).agenda)
  ∧ (∀ (s : State) (t : Thread) (f : Fields) (opc : Nat) (e : Eff) (d : PlanEnt), payload t f e d.dest = none →
    s.emitOne t f opc e d = d.resv.foldl (fun s r => s.unreserve r.1) s)
  ∧ (∀ (s : State) (t : Thread) (f : Fields) (opc n : Nat) (e : Eff) (d : PlanEnt) (vs : List PWord), payload t f e d.dest = some vs →
    f.tag ≠ .setcol → d.tgt = .fail n → s.emitOne t f opc e d
      = (d.resv.foldl (fun s r => s.unreserve r.1) s).raise (t.who opc) 0x0101 ((t.who opc).details 0 [w32 d.code, w32 n]))
  ∧ (∀ (t : Thread) (f : Fields) (e : Eff) (dest : Nat), e.steer = none →
    let vs := t.lanes.map (fun x => x.v)
    let some_ := fun (b : Bool) => ∃ x ∈ t.lanes, x.p = b
    (f.tag = .next ∨ f.tag = .keep ∨ f.tag = .yield ∨ f.tag = .done → payload t f e dest = some vs)
    ∧ (f.tag = .pois → payload t f e dest = some (vs.map (fun w => ⟨w.w, true⟩)))
    ∧ (f.tag = .ifp → (¬some_ true → payload t f e dest = none)
        ∧ (some_ true → payload t f e dest = some (t.lanes.map (fun x => if x.p then x.v else .zero))))
    ∧ (f.tag = .ifnp → (¬some_ false → payload t f e dest = none)
        ∧ (some_ false → payload t f e dest = some (t.lanes.map (fun x => if x.p then .zero else x.v)))))

/-! ## Groups 0x1 to 0x6: results per lane -/

/-- R110, with the shared effect of R105 and R106: for each of the sixteen integer instructions, a thread
whose instruction issues with its slots there completes, each selected lane's result is the table's, and
nothing but the thread, its slots and its tokens changes.
R112: shifts, rotation and counts. CLZ is stated by the value it leaves: below 2^(32 - n) and, where n is
below 32, not below half of that.
R113, R114, R116: bit fields, division rounding toward zero with its two special cases, and byte
permutation: four result bytes, each the byte its nibble names or that byte's sign.
R115: the packed dot products: exact, narrowed once. -/
def Obligations.IntegerInstructionResults : Prop :=
  (
  ActsAs .add (fun _ => { opc := 0x10 }) (lanes2 fun _ x y => wrap32 ((Zx x : Int) + Zx y))
  ∧ ActsAs .sub (fun _ => { opc := 0x11 }) (lanes2 fun _ x y => wrap32 ((Zx x : Int) - Zx y))
  ∧ ActsAs .addss (fun _ => { opc := 0x12 }) (lanes2 fun _ x y => sat32 (Sx x + Sx y))
  ∧ ActsAs .addzs (fun _ => { opc := 0x13 }) (lanes2 fun _ x y => satZ32 ((Zx x : Int) + Zx y))
  ∧ ActsAs .subss (fun _ => { opc := 0x14 }) (lanes2 fun _ x y => sat32 (Sx x - Sx y))
  ∧ ActsAs .subzs (fun _ => { opc := 0x15 }) (lanes2 fun _ x y => satZ32 ((Zx x : Int) - Zx y))
  ∧ ActsAs .neg (fun _ => { opc := 0x16, b := false }) (lanes1 fun _ x => wrap32 (-Sx x))
  ∧ ActsAs .abs (fun _ => { opc := 0x17, b := false }) (lanes1 fun _ x => wrap32 (|Sx x|))
  ∧ ActsAs .and (fun _ => { opc := 0x18 }) (lanes2 fun _ x y => x &&& y)
  ∧ ActsAs .or (fun _ => { opc := 0x19 }) (lanes2 fun _ x y => x ||| y)
  ∧ ActsAs .xor (fun _ => { opc := 0x1A }) (lanes2 fun _ x y => x ^^^ y)
  ∧ ActsAs .andn (fun _ => { opc := 0x1B }) (lanes2 fun _ x y => x &&& ~~~y)
  ∧ ActsAs .lea (fun _ => { opc := 0x1C }) (lanes3 fun _ x y z => wrap32 ((Zx z : Int) + Zx x * 2 ^ (Zx y % 32)))
  ∧ ActsAs .mul (fun _ => { opc := 0x1D }) (lanes2 fun _ x y => wrap32 ((Zx x : Int) * Zx y))
  ∧ ActsAs .mulh (fun _ => { opc := 0x1E }) (lanes2 fun _ x y => wrap32 (Sx x * Sx y / 2 ^ 32))
  ∧ ActsAs .mulhz (fun _ => { opc := 0x1F }) (lanes2 fun _ x y => wrap32 ((Zx x : Int) * Zx y / 2 ^ 32)))
  ∧ (
  ActsAs .shl (fun _ => { opc := 0x20 }) (lanes2 fun _ x y => if Zx y < 32 then w32 (Zx x * 2 ^ Zx y) else 0)
  ∧ ActsAs .shr (fun _ => { opc := 0x21 }) (lanes2 fun _ x y => if Zx y < 32 then w32 (Zx x / 2 ^ Zx y) else 0)
  ∧ ActsAs .sar (fun _ => { opc := 0x22 }) (lanes2 fun _ x y => wrap32 (Sx x / 2 ^ min (Zx y) 31))
  ∧ ActsAs .rotl (fun _ => { opc := 0x23 })
      (lanes2 fun _ x y => w32 (Zx x * 2 ^ (Zx y % 32) % 2 ^ 32 + Zx x / 2 ^ (32 - Zx y % 32)))
  ∧ ActsAs .clz (fun _ => { opc := 0x24, b := false }) (lanes1 fun _ x => fnClz x)
  ∧ (∀ x, Zx (fnClz x) ≤ 32 ∧ Zx x < 2 ^ (32 - Zx (fnClz x)) ∧ (Zx (fnClz x) < 32 → 2 ^ (31 - Zx (fnClz x)) ≤ Zx x))
  ∧ ActsAs .popc (fun _ => { opc := 0x25, b := false }) (lanes1 fun _ x => w32 ((List.range 32).countP (fun i => x.getLsbD i)))
  ∧ ActsAs .brev (fun _ => { opc := 0x26, b := false }) (lanes1 fun _ x => fnBrev x)
  ∧ (∀ x i, i < 32 → (fnBrev x).getLsbD i = x.getLsbD (31 - i)))
  ∧ (
  ActsAs .bfx (fun _ => { opc := 0x27 }) (lanes2 fun _ x y =>
      let pos := Zx y % 32
      let len := min (Zx y / 32 % 64) (32 - pos)
      let v := Zx x / 2 ^ pos % 2 ^ len
      if y.getLsbD 11 ∧ 0 < len ∧ 2 ^ (len - 1) ≤ v then wrap32 ((v : Int) - 2 ^ len) else wrap32 v)
  ∧ ActsAs .bfi (fun _ => { opc := 0x28 }) (lanes3 fun _ x y z =>
      let pos := Zx y % 32
      let len := min (Zx y / 32 % 64) (32 - pos)
      (z &&& ~~~(w32 ((2 ^ len - 1) * 2 ^ pos))) ||| w32 (Zx x % 2 ^ len * 2 ^ pos))
  ∧ ActsAs .div (fun _ => { opc := 0x29, cyc := 12 }) (lanes2 fun _ x y =>
      if y = 0 then 0xFFFFFFFF else if x = 0x80000000 ∧ y = 0xFFFFFFFF then 0x80000000 else wrap32 ((Sx x).tdiv (Sx y)))
  ∧ ActsAs .divz (fun _ => { opc := 0x2A, cyc := 12 }) (lanes2 fun _ x y => if y = 0 then 0xFFFFFFFF else w32 (Zx x / Zx y))
  ∧ ActsAs .rem (fun _ => { opc := 0x2B, cyc := 12 }) (lanes2 fun _ x y =>
      if y = 0 then x else if x = 0x80000000 ∧ y = 0xFFFFFFFF then 0 else wrap32 (Sx x - Sx y * (Sx x).tdiv (Sx y)))
  ∧ ActsAs .bytep (fun _ => { opc := 0x2F }) (lanes3 fun _ x y z => fnBytep x y z)
  ∧ (∀ x y z i, i < 4 →
      let n := Zx y / 16 ^ i % 16
      let src := if n % 8 < 4 then Zx x / 256 ^ (n % 8) % 256 else Zx z / 256 ^ (n % 8 - 4) % 256
      Zx (fnBytep x y z) / 256 ^ i % 256 = if n < 8 then src else if 128 ≤ src then 255 else 0))
  ∧ (
  let sb := fun (x : Word) (i : Nat) => (((x.toNat / 256 ^ i % 256 + 128) % 256 : Nat) : Int) - 128
  let zb := fun (x : Word) (i : Nat) => ((x.toNat / 256 ^ i % 256 : Nat) : Int)
  let nb := fun (x : Word) (i : Nat) => (((x.toNat / 16 ^ i % 16 + 8) % 16 : Nat) : Int) - 8
  ActsAs .dot4 (fun _ => { opc := 0x2C }) (lanes3 fun _ x y z =>
      sat32 (Sx z + sb x 0 * sb y 0 + sb x 1 * sb y 1 + sb x 2 * sb y 2 + sb x 3 * sb y 3))
  ∧ ActsAs .dot4z (fun _ => { opc := 0x2D }) (lanes3 fun _ x y z =>
      satZ32 ((Zx z : Int) + zb x 0 * zb y 0 + zb x 1 * zb y 1 + zb x 2 * zb y 2 + zb x 3 * zb y 3))
  ∧ ActsAs .dot8 (fun _ => { opc := 0x2E }) (lanes3 fun _ x y z =>
      sat32 (Sx z + nb x 0 * nb y 0 + nb x 1 * nb y 1 + nb x 2 * nb y 2 + nb x 3 * nb y 3
        + nb x 4 * nb y 4 + nb x 5 * nb y 5 + nb x 6 * nb y 6 + nb x 7 * nb y 7)))

/-- R117, R118: integer comparison and selection. SEL is poisoned by the operand it selects alone.
R119: the FP32 comparisons, from the exact values of R148; a NaN compares false, and unordered. -/
def Obligations.CompareAndSelectResults : Prop :=
  (
  ActsAs .cmpeq (fun _ => { opc := 0x30 }) (lanes2 fun _ x y => if x = y then 1 else 0)
  ∧ ActsAs .cmpne (fun _ => { opc := 0x31 }) (lanes2 fun _ x y => if x = y then 0 else 1)
  ∧ ActsAs .cmplt (fun _ => { opc := 0x32 }) (lanes2 fun _ x y => if Sx x < Sx y then 1 else 0)
  ∧ ActsAs .cmple (fun _ => { opc := 0x33 }) (lanes2 fun _ x y => if Sx x ≤ Sx y then 1 else 0)
  ∧ ActsAs .cmpltz (fun _ => { opc := 0x34 }) (lanes2 fun _ x y => if Zx x < Zx y then 1 else 0)
  ∧ ActsAs .cmplez (fun _ => { opc := 0x35 }) (lanes2 fun _ x y => if Zx x ≤ Zx y then 1 else 0)
  ∧ ActsAs .min (fun _ => { opc := 0x36 }) (lanes2 fun _ x y => if Sx x ≤ Sx y then x else y)
  ∧ ActsAs .max (fun _ => { opc := 0x37 }) (lanes2 fun _ x y => if Sx x ≥ Sx y then x else y)
  ∧ ActsAs .minz (fun _ => { opc := 0x38 }) (lanes2 fun _ x y => if Zx x ≤ Zx y then x else y)
  ∧ ActsAs .maxz (fun _ => { opc := 0x39 }) (lanes2 fun _ x y => if Zx x ≥ Zx y then x else y)
  ∧ ActsAs .sel (fun _ => { opc := 0x3A }) (fun t f =>
      .val ((List.range t.width).map (fun l => if (t.lanes.map (fun x => x.p)).getD l false then t.aW f l else t.bW f l)))
  ∧ ActsAs .clamp (fun _ => { opc := 0x3B }) (lanes3 fun _ x y z => wrap32 (min (max (Sx z) (Sx x)) (Sx y))))
  ∧ (
  let nan := fun (x : Word) => decide (0x7F800000 < x.toNat % 2 ^ 31)
  let key := fun (x : Word) => if x.toNat < 2 ^ 31 then (x.toNat : Int) else -((x.toNat : Int) - 2 ^ 31)
  ActsAs .fcmpeq (fun _ => { opc := 0x3C }) (lanes2 fun _ x y => if nan x = false ∧ nan y = false ∧ key x = key y then 1 else 0)
  ∧ ActsAs .fcmplt (fun _ => { opc := 0x3D }) (lanes2 fun _ x y => if nan x = false ∧ nan y = false ∧ key x < key y then 1 else 0)
  ∧ ActsAs .fcmple (fun _ => { opc := 0x3E }) (lanes2 fun _ x y => if nan x = false ∧ nan y = false ∧ key x ≤ key y then 1 else 0)
  ∧ ActsAs .fcmpun (fun _ => { opc := 0x3F }) (lanes2 fun _ x y => if nan x || nan y then 1 else 0))

/-! ## Groups 0x4 to 0x6: numbers -/

/-- R154, R155: the FP32 instructions, each rounded once from the exact value of its operands; FDIV from the exact
quotient, with its invalid and infinite cases; FABS, FNEG and FCPYS by their bits; FCLASS by its one bit.
R157: the packed instructions, each half on its own in the literal's format; HDOT one sum, rounded once.
R159 to R162: the conversions: CVT of one element, of each of its four kinds with and without saturation; CVTQ8 into a
byte of z with its three overflow choices, CVTE8 of one byte, BSCAL by its exponent. R150: RoundInt in its four modes.
That CVTE8 of a zero byte takes the sign of the product is the model's choice (log 47), and so is an FFRACT that FP32
does not hold (log 7). -/
def Obligations.FloatInstructionResults : Prop :=
  (
  let md := fun (f : Fields) => if f.selA = .lit ∨ f.selB = .lit then 0 else f.lit.toNat % 4
  let nan := fun (x : Word) => decide (0x7F800000 < x.toNat % 2 ^ 31)
  ActsAs .fadd (fun _ => { opc := 0x40 }) (lanes2 fun f x y => rnd32 (md f) ((F x).add (md f) (F y)))
  ∧ ActsAs .fsub (fun _ => { opc := 0x41 }) (lanes2 fun f x y => rnd32 (md f) ((F x).add (md f) (F y).neg))
  ∧ ActsAs .fmul (fun _ => { opc := 0x42 }) (lanes2 fun f x y => rnd32 (md f) ((F x).mul (F y)))
  ∧ ActsAs .fma (fun _ => { opc := 0x43 }) (lanes3 fun f x y z => rnd32 (md f) (((F x).mul (F y)).add (md f) (F z)))
  ∧ ActsAs .fms (fun _ => { opc := 0x44 }) (lanes3 fun f x y z => rnd32 (md f) (((F x).mul (F y)).add (md f) (F z).neg))
  ∧ ActsAs .fnma (fun _ => { opc := 0x45 }) (lanes3 fun f x y z => rnd32 (md f) ((F z).add (md f) ((F x).mul (F y)).neg))
  ∧ ActsAs .fmin (fun _ => { opc := 0x46 }) (lanes2 fun _ x y =>
      if nan x || nan y then 0x7FC00000
      else if (F x).lt (F y) then x else if (F y).lt (F x) then y else if x.msb then x else y)
  ∧ ActsAs .fmax (fun _ => { opc := 0x47 }) (lanes2 fun _ x y =>
      if nan x || nan y then 0x7FC00000
      else if (F x).lt (F y) then y else if (F y).lt (F x) then x else if x.msb then y else x)
  ∧ ActsAs .fabs (fun _ => { opc := 0x48, b := false }) (lanes1 fun _ x => if nan x then 0x7FC00000 else x &&& 0x7FFFFFFF)
  ∧ ActsAs .fneg (fun _ => { opc := 0x49, b := false }) (lanes1 fun _ x => if nan x then 0x7FC00000 else x ^^^ 0x80000000)
  ∧ ActsAs .fcpys (fun _ => { opc := 0x4A }) (lanes2 fun _ x y =>
      if nan x then 0x7FC00000 else (x &&& 0x7FFFFFFF) ||| (y &&& 0x80000000))
  ∧ ActsAs .frint (fun _ => { opc := 0x4B, b := false }) (lanes1 fun f x => rnd32 0 ((F x).toInt (md f)))
  ∧ ActsAs .fscale (fun _ => { opc := 0x4C }) (lanes2 fun f x y =>
      match F x with
      | .fin s n e => if n = 0 then x else rnd32 (md f) (.fin s n (e + Sx y))
      | v => rnd32 0 v)
  ∧ ActsAs .fclass (fun _ => { opc := 0x4D, b := false }) (lanes1 fun _ x =>
      let m := x.toNat % 2 ^ 31
      let k := if m = 0x7F800000 then (if x.msb then 0 else 7)
        else if 0x7FC00000 ≤ m then 9 else if 0x7F800000 < m then 8
        else if m = 0 then (if x.msb then 3 else 4)
        else if m < 2 ^ 23 then (if x.msb then 2 else 5) else (if x.msb then 1 else 6)
      w32 (2 ^ k))
  ∧ ActsAs .fdiv (fun _ => { opc := 0x4E, cyc := 14 }) (lanes2 fun f x y => fdiv32 (md f) (F x) (F y))
  ∧ ActsAs .ffract (fun _ => { opc := 0x4F, b := false }) (lanes1 fun f x => fnFfract (md f) x)
  ∧ (∀ m x s n e, F x = .fin s n e →
      ∃ r k g, (F x).add 0 ((F x).toInt m).neg = .fin r k g ∧
        (k = 0 → fnFfract m x = x &&& 0x80000000)
        ∧ (∀ y, k ≠ 0 → rnd32 2 (.fin r k g) = y → rnd32 3 (.fin r k g) = y → fnFfract m x = y))
  ∧ (∀ m x, (∀ s n e, F x ≠ .fin s n e) → fnFfract m x = 0x7FC00000)
  ∧ (∀ (m : Nat) (x y : FV), (x = .nan ∨ y = .nan → fdiv32 m x y = 0x7FC00000)
      ∧ (∀ s r, x = .inf s → y = .inf r → fdiv32 m x y = 0x7FC00000)
      ∧ (∀ s r n g, x = .inf s → y = .fin r n g → fdiv32 m x y = if s = r then 0x7F800000 else 0xFF800000)
      ∧ (∀ s n e r, x = .fin s n e → y = .inf r → fdiv32 m x y = if s = r then 0 else 0x80000000)
      ∧ ∀ s n e r k g, x = .fin s n e → y = .fin r k g →
        (k = 0 → n = 0 → fdiv32 m x y = 0x7FC00000)
        ∧ (k = 0 → n ≠ 0 → fdiv32 m x y = if s = r then 0x7F800000 else 0xFF800000)
        -- RoundFP of the exact quotient n / k × 2^(e - g)
        ∧ (k ≠ 0 → fdiv32 m x y = w32 (fp32.roundRat m (s != r) n k (e - g))))
  ∧ (∀ (neg : Bool) (n d : Nat), 0 < d →
      let q := n / d
      roundQ 1 neg n d = q
      ∧ roundQ 2 neg n d = (if n % d = 0 ∨ neg = true then q else q + 1)
      ∧ roundQ 3 neg n d = (if n % d = 0 ∨ neg = false then q else q + 1)
      ∧ roundQ 0 neg n d = (if 2 * (n % d) < d ∨ 2 * (n % d) = d ∧ q % 2 = 0 then q else q + 1)))
  ∧ (
  let fm := fun (f : Fields) => if f.lit.getLsbD 2 then fp16 else bf16
  let md := fun (f : Fields) => f.lit.toNat % 4
  let lo := fun (x : Word) => x.toNat % 2 ^ 16
  let hi := fun (x : Word) => x.toNat / 2 ^ 16
  let two := fun (f : Fields) (g : FV → FV → FV → FV) (x y z : Word) =>
    w32 ((fm f).round (md f) (g ((fm f).val (lo x)) ((fm f).val (lo y)) ((fm f).val (lo z)))
      + 2 ^ 16 * (fm f).round (md f) (g ((fm f).val (hi x)) ((fm f).val (hi y)) ((fm f).val (hi z))))
  let pat := fun (f : Fields) (g : Fmt → Nat → Nat → Nat) (x y : Word) =>
    w32 (g (fm f) (lo x) (lo y) + 2 ^ 16 * g (fm f) (hi x) (hi y))
  ActsAs .hadd (fun _ => { opc := 0x50 }) (lanes2 fun f x y => two f (fun a b _ => a.add (md f) b) x y 0)
  ∧ ActsAs .hsub (fun _ => { opc := 0x51 }) (lanes2 fun f x y => two f (fun a b _ => a.add (md f) b.neg) x y 0)
  ∧ ActsAs .hmul (fun _ => { opc := 0x52 }) (lanes2 fun f x y => two f (fun a b _ => a.mul b) x y 0)
  ∧ ActsAs .hfma (fun _ => { opc := 0x53 }) (lanes3 fun f x y z => two f (fun a b c => (a.mul b).add (md f) c) x y z)
  ∧ ActsAs .hmin (fun _ => { opc := 0x54 }) (lanes2 fun f x y => pat f Fmt.minP x y)
  ∧ ActsAs .hmax (fun _ => { opc := 0x55 }) (lanes2 fun f x y => pat f Fmt.maxV x y)
  ∧ ActsAs .hdot (fun _ => { opc := 0x56 }) (lanes3 fun f x y z =>
      let v := fun (w : Word) (h : Word → Nat) => (fm f).val (h w)
      rnd32 (md f) (((F z).add (md f) ((v x lo).mul (v y lo))).add (md f) ((v x hi).mul (v y hi))))
  ∧ ActsAs .hneg (fun _ => { opc := 0x57, b := false }) (lanes1 fun f x =>
      pat f (fun g a _ => if (g.val a).isNan then g.nan else (a + 2 ^ 15) % 2 ^ 16) x 0))
  ∧ (
  ActsAs .cvt (fun _ => { opc := 0x60, b := false }) (lanes1 fun f x =>
      let src := f.lit.toNat % 16
      wrap32 (cvtElem src (f.lit.toNat / 16 % 16) (f.lit.toNat / 256 % 4) (f.lit.getLsbD 10)
        (Zx x / 2 ^ (cvtWidth src * (f.lit.toNat / 2048 % 8)))))
  ∧ (let ints : List (Nat × Nat × Bool) := [(0, 32, true), (1, 32, false), (2, 16, true), (3, 16, false), (4, 8, true), (5, 8, false), (6, 4, true)]
     let floats : List (Nat × Fmt) := [(7, fp32), (8, bf16), (9, fp16), (10, e4m3), (11, e5m2)]
     -- the low w bits as a signed or unsigned integer, and the range of such integers
     let int := fun (w : Nat) (signed : Bool) (x : Nat) =>
       if signed ∧ 2 ^ (w - 1) ≤ x % 2 ^ w then ((x % 2 ^ w : Nat) : Int) - 2 ^ w else ((x % 2 ^ w : Nat) : Int)
     let least := fun (w : Nat) (signed : Bool) => if signed then -(2 ^ (w - 1) : Int) else 0
     let most := fun (w : Nat) (signed : Bool) => if signed then (2 ^ (w - 1) : Int) - 1 else (2 ^ w : Int) - 1
     let clamp := fun (q : Nat × Nat × Bool) (n : Int) => min (max n (least q.2.1 q.2.2)) (most q.2.1 q.2.2)
     let value := fun (n : Int) => FV.fin (decide (n < 0)) n.natAbs 0
     -- a value rounded into a format: R150's overflow without saturation, the largest finite value with it
     let into := fun (g : Fmt) (m : Nat) (sat : Bool) (v : FV) =>
       match v with
       | .inf s => if sat ∧ g = e4m3 then g.signed s g.maxP else g.round m v
       | .fin s n e =>
         let c := clampExp n e
         if sat ∧ g.maxP < g.roundMag m s c.1 1 c.2 then g.signed s g.maxP else g.round m v
       | .nan => g.nan
     ∀ (m x : Nat) (sat : Bool),
      (∀ p ∈ ints, ∀ q ∈ ints, let n := int p.2.1 p.2.2 x
        cvtElem p.1 q.1 m sat x = if sat then clamp q n else int q.2.1 q.2.2 (n % (2 ^ q.2.1 : Int)).toNat)
      ∧ (∀ p ∈ ints, ∀ h ∈ floats, cvtElem p.1 h.1 m sat x = into h.2 m sat (value (int p.2.1 p.2.2 x)))
      ∧ (∀ g ∈ floats, ∀ h ∈ floats, cvtElem g.1 h.1 m sat x = into h.2 m sat (g.2.val (x % 2 ^ g.2.w)))
      ∧ (∀ g ∈ floats, ∀ q ∈ ints, ∀ v, v = g.2.val (x % 2 ^ g.2.w) →
        (v = .nan → cvtElem g.1 q.1 m sat x = 0)
        ∧ (∀ s, v = .inf s → cvtElem g.1 q.1 m sat x = if s then least q.2.1 q.2.2 else most q.2.1 q.2.2)
        ∧ (∀ s n e, v = .fin s n e →
          let a : Nat := if 0 ≤ e then n * 2 ^ e.toNat else roundQ m s n (2 ^ (-e).toNat)
          cvtElem g.1 q.1 m sat x = clamp q (if s then -(a : Int) else a))))
  ∧ ActsAs .cvtq8 (fun _ => { opc := 0x61 }) (fun t f =>
      let g := if f.lit.getLsbD 0 then e5m2 else e4m3
      let m := f.lit.toNat / 8 % 4
      let ovf := f.lit.toNat / 2 % 4
      let k := f.lit.toNat / 32 % 4
      .val ((List.range t.width).map (fun l =>
        let x := t.aW f l
        let y := t.bW f l
        let z := t.zW l
        let q := (F x.w).mul (F y.w)
        let put := fun (b : Nat) => (z.w &&& ~~~(w32 (255 * 256 ^ k))) ||| w32 (b * 256 ^ k)
        let bad : Bool := match q with
          | .nan => true
          | .inf _ => true
          | .fin s n e => let c := clampExp n e; decide (g.maxP < g.roundMag m s c.1 1 c.2)
        if bad ∧ ovf = 2 then ⟨put 0, true⟩
        else
          ⟨put (match q with
            | .nan => g.nan
            | .inf s => if ovf = 0 then g.signed s g.maxP else g.round m q
            | .fin s _ _ => if bad ∧ ovf = 0 then g.signed s g.maxP else g.round m q), x.pois || y.pois || z.pois⟩)))
  ∧ ActsAs .cvte8 (fun _ => { opc := 0x62 }) (lanes2 fun f x y =>
      let g := if f.lit.getLsbD 0 then e5m2 else e4m3
      rnd32 (f.lit.toNat / 8 % 4) ((g.val (Zx x / 256 ^ (f.lit.toNat / 2 % 4) % 256)).mul (F y)))
  ∧ ActsAs .bscal (fun _ => { opc := 0x63, b := false }) (lanes1 fun f x =>
      match F x with
      | .fin _ m e =>
        if m = 0 then 0x3F800000 else
        let k := min (max ((if f.lit.getLsbD 0 then 15 else 8) - (e + (Nat.log2 m : Int)) - (f.lit.toNat / 2 % 4 : Nat)) (-126)) 127
        rnd32 0 (.fin false 1 (if f.lit.getLsbD 3 then -k else k))
      | _ => 0x7FC00000))

/-- R150, R148: rounding moves no value that a format holds: every pattern of a finite value or an infinity of
FP32 is its own rounding, in every mode, and E4M3 and E5M2 widen to FP32 exactly. -/
def Obligations.RoundingKeepsFormatValues : Prop :=
  (∀ (mode : Nat) (x : Word), (F x).isNan = false → rnd32 mode (F x) = x)
  ∧ (∀ g ∈ [e4m3, e5m2], ∀ (mode : Nat) (p : Nat), mode < 4 → p < 2 ^ g.w → (g.val p).isNan = false →
      let y := rnd32 mode (g.val p)
      (F y).eq (g.val p) = true ∧ (F y).sgn = (g.val p).sgn)

/-- R167 to R169: the residue instructions on channel words: RENC's exact scaling modulo the channel's modulus,
RADD and RMUL on a common channel, RCHK, and RDEC's four output forms.
R163, R166: a triple stands for its integer: reconstruction gives back every number of the signed range, and
sums and products of triples are those of the numbers, exact modulo M. -/
def Obligations.ResidueInstructionResults : Prop :=
  (
  let md := fun (k : Nat) => if k = 0 then 65536 else if k = 1 then 65535 else 65537
  let ok := fun (x : Word) => decide (Zx x / 2 ^ 30 ≤ 2 ∧ Zx x / 2 ^ 17 % 2 ^ 13 = 0 ∧ Zx x % 2 ^ 17 < md (Zx x / 2 ^ 30))
  let ch := fun (x : Word) => Zx x / 2 ^ 30
  let rs := fun (x : Word) => Zx x % 2 ^ 17
  let on := fun (g : Nat → Nat → Nat) (t : Thread) (f : Fields) => Eff.val ((List.range t.width).map (fun l =>
    let x := t.aW f l
    let y := t.bW f l
    if ok x.w && ok y.w && ch x.w == ch y.w then
      ⟨w32 (ch x.w * 2 ^ 30 + g (rs x.w) (rs y.w) % md (ch x.w)), x.pois || y.pois⟩ else ⟨0, true⟩))
  ActsAs .renc (fun _ => { opc := 0x64, b := false }) (fun t f => .val ((List.range t.width).map (fun l =>
      let x := t.aW f l
      let k := f.lit.toNat % 4
      let sh := f.lit.toNat / 16 % 64
      let put := fun (n : Int) => w32 (k * 2 ^ 30 + ((n * 2 ^ sh) % (md k : Int)).toNat)
      match f.lit.toNat / 4 % 4 with
      | 0 => ⟨put (Sx x.w), x.pois⟩
      | 1 => ⟨put (Zx x.w), x.pois⟩
      | 2 => if k = 0 then ⟨put ((Zx x.w % 2 ^ 16 : Nat)), x.pois⟩
             else if Zx x.w / 2 ^ 16 = 65535 then ⟨0, true⟩ else ⟨put ((Zx x.w / 2 ^ 16 : Nat)), x.pois⟩
      | _ => if 2 ^ 17 ≤ Zx x.w ∨ 65536 < Zx x.w then ⟨0, true⟩ else ⟨put (Zx x.w), x.pois⟩)))
  ∧ ActsAs .radd (fun _ => { opc := 0x66 }) (on (· + ·))
  ∧ ActsAs .rmul (fun _ => { opc := 0x67 }) (on (· * ·))
  ∧ ActsAs .rchk (fun _ => { opc := 0x68, b := false }) (lanes1 fun _ x => if ok x then 1 else 0)
  ∧ ActsAs .rdec (fun _ => { opc := 0x65, cyc := 2 }) (fun t f => .val ((List.range t.width).map (fun l =>
      let x := t.aW f l
      let y := t.bW f l
      let z := t.zW l
      if ok x.w && ok y.w && ok z.w && ch x.w == 0 && ch y.w == 1 && ch z.w == 2 then
        let n := crtDecode (rs x.w) (rs y.w) (rs z.w)
        ⟨match f.lit.toNat % 4 with
          | 0 => wrap32 n
          | 1 => wrap32 (n / 2 ^ 32)
          | 2 => sat32 n
          | _ => rnd32 (f.lit.toNat / 16 % 4)
              (.fin (decide (n < 0)) n.natAbs ((((f.lit.toNat / 256 % 256 + 128) % 256 : Nat) : Int) - 128)),
          x.pois || y.pois || z.pois⟩
      else ⟨0, true⟩))))
  ∧ (
  (∀ n : Int, -140737488322560 ≤ n → n ≤ 140737488322559 → (Tri.ofInt n).int = n)
  ∧ (∀ m n : Int, (Tri.ofInt m).add (Tri.ofInt n) = Tri.ofInt (m + n))
  ∧ (∀ m n : Int, (Tri.ofInt m).mul (Tri.ofInt n) = Tri.ofInt (m * n))
  ∧ (∀ m n : Int, Tri.ofInt m = Tri.ofInt n ↔ (281474976645120 : Int) ∣ m - n))

/-! ## Group 0x0: control and waits -/

/-- R88, R89, R84, R83: the instructions that act on their thread alone. A branch goes to its target as a taken
branch; PBLK latches a condition per lane; STEER's result is A, which its two destinations share out by `p`.
R81, R83: what a thread that goes on does next. A taken branch makes its target the next IP and pops the entries whose
range does not hold it, no count changing; else IP + 1 is next, unless it passes the top entry's end slot: then that
entry counts down and, with a count left, sends the thread to its start slot, or is popped and the next entry is looked
at. A PBLK starts its own block; any other instruction steps the block it stands in, and the last one ends it.
R90, R91, R88: LOOP branches past its end slot for a count of 0 (a poisoned one poisons `v` too), pushes an
entry else, and with three entries raises the replayable "loop stack" fault: the record is written, its
reply awaited, and neither the IP nor the stack changes. LEXIT pops and branches where its condition holds.
R88, R92: WAVEA returns the old wave and takes the new one; TIME returns the half its selector names and
latches the other half on selectors 0 and 2; a poisoned A poisons the result and latches nothing. -/
def Obligations.FlowInstructionResults : Prop :=
  (
  ActsAs .nop (fun _ => { opc := 0x00, a := false, b := false }) (fun _ _ => {})
  ∧ ActsAs .mov (fun _ => { opc := 0x01, b := false }) (fun t f => .val ((List.range t.width).map (t.aW f)))
  ∧ ActsAs .jmp (fun _ => { opc := 0x02, a := false, b := false }) (fun _ f => { jump := some (fld f.lit 0 8) })
  ∧ ActsAs .brp (fun _ => { opc := 0x03, a := false, b := false }) (fun t f =>
      let ps := (t.lanes.zipIdx.filter (fun x => t.selected x.2)).map (fun x => x.1.p)
      let taken := match fld f.lit 8 2 with
        | 0 => ps.any id
        | 1 => !ps.isEmpty && ps.all id
        | _ => !ps.any id
      { jump := if taken then some (fld f.lit 0 8) else none })
  ∧ ActsAs .pblk (fun _ => { opc := 0x06, a := false, b := false }) (fun t f =>
      { pblk := some { cond := t.lanes.map (fun x => x.p != bit f.lit 0),
                       n := fld f.lit 1 3 + 1, mask := BitVec.ofNat 8 (fld f.lit 8 8), j := 0 } })
  ∧ ActsAs .steer (fun _ => { opc := 0x09, b := false }) (fun t f =>
      { v := some ((List.range t.width).map (t.aW f)), steer := some (t.lanes.map (fun x => x.p)) })
  ∧ ActsAs .ptest (fun _ => { opc := 0x0F, b := false }) (fun t f =>
      { v := some ((List.range t.width).map (fun l => if (t.aW f l).pois then .zero else t.aW f l)),
        p := some ((List.range t.width).map (fun l => (t.aW f l).pois)) }))
  ∧ (∀ (t : Thread),
      (∀ j, { t.advance j with ip := t.ip, loops := t.loops } = t)
      ∧ (∀ g, (t.advance (some g)).ip = g ∧ (t.advance (some g)).loops = t.loops.filter (fun e => decide (e.start ≤ g ∧ g ≤ e.fin)))
      ∧ (t.loops = [] → (t.advance none).ip = t.ip + 1 ∧ (t.advance none).loops = [])
      ∧ (∀ e es, t.loops = e :: es →
        (t.ip + 1 ≤ e.fin → (t.advance none).ip = t.ip + 1 ∧ (t.advance none).loops = t.loops)
        ∧ (e.fin < t.ip + 1 → 1 < e.count →
            (t.advance none).ip = e.start ∧ (t.advance none).loops = { e with count := e.count - 1 } :: es)
        ∧ (e.fin < t.ip + 1 → e.count ≤ 1 → t.advance none = ({ t with loops := es } : Thread).advance none))
      ∧ ∀ e : Eff, (∀ b, e.pblk = some b → t.nextPblk e = some b)
        ∧ (e.pblk = none → t.pblk = none → t.nextPblk e = none)
        ∧ (∀ b, e.pblk = none → t.pblk = some b →
            t.nextPblk e = if b.j + 1 < b.n then some { b with j := b.j + 1 } else none))
  ∧ (
  (∀ (s : State) (u : Nat) (t : Thread) (f : Fields), Issues s u t f { opc := 0x04, b := false } →
    let n := if (t.a0 f).pois then 0 else (t.a0 f).w.toNat
    let fin := fld f.lit 0 8
    (n = 0 →
      let e : Eff := { v := if (t.a0 f).pois then some (t.zs.map (fun z => { z with pois := true })) else none,
                       regs := false, jump := some (fin + 1) }
      Room s s t t f e → Performs (.loop f) s u f s t e)
    ∧ (0 < n → t.loops.length < 3 →
      let k : Thread := { t with loops := ⟨t.ip + 1, fin, n⟩ :: t.loops }
      Room s (s.setThr u k) t k f {} → Performs (.loop f) s u f (s.setThr u k) k {})
    ∧ (0 < n → 3 ≤ t.loops.length → ∀ v, tget s.parts t.part = some v → v.occupancy < 248 →
      (∀ h ∈ v.heldRecs, h.2.written = true) → ∃ s' k, exec (.loop f) s = .next s' ∧ s'.thr? u = some k ∧ k.stat = .reply ∧ k.ip = t.ip ∧ k.loops = t.loops
        ∧ k.lanes = t.lanes ∧ (s'.part t.part).tqTail = v.tqTail + 1
        ∧ tget (s'.part t.part).recs (v.tqTail.toNat % 256) = some ⟨v.seq, .loop u, 0x0004, 0, false⟩))
  ∧ (∀ (s : State) (u : Nat) (t : Thread) (f : Fields), Issues s u t f { opc := 0x05, a := false, b := false } →
    (t.cond (fld f.lit 8 2) = true →
      let k : Thread := { t with loops := t.loops.drop (fld f.lit 10 2) }
      let e : Eff := { jump := some (fld f.lit 0 8) }
      Room s (s.setThr u k) t k f e → Performs (.lexit f) s u f (s.setThr u k) k e)
    ∧ (t.cond (fld f.lit 8 2) = false → Room s s t t f {} → Performs (.lexit f) s u f s t {})))
  ∧ (
  (∀ (s : State) (u : Nat) (t : Thread) (f : Fields), Issues s u t f { opc := 0x0A, b := false } →
    let e : Eff := .val (List.replicate t.width ⟨w32 t.wave.toNat, (t.a0 f).pois⟩)
    let k : Thread := { t with wave := BitVec.ofNat 16 (fld (t.a0 f).w 0 16) }
    ((t.a0 f).pois = true → Room s s t t f e → Performs (.wavea f) s u f s t e)
    ∧ ((t.a0 f).pois = false → t.selLanes ≠ [] → Room s (s.setThr u k) t k f e → Performs (.wavea f) s u f (s.setThr u k) k e))
  ∧ (∀ (s : State) (u : Nat) (t : Thread) (f : Fields), Issues s u t f { opc := 0x0B, b := false } →
    let sel := fld (t.a0 f).w 0 2
    let w : Word := if sel = 0 then w32 s.tod else if sel = 1 then t.todHi else if sel = 2 then w32 s.cycle else t.cycHi
    let e : Eff := .val (List.replicate t.width ⟨w, false⟩)
    let k : Thread := { t with
      todHi := if sel = 0 then w32 (s.tod / 2 ^ 32) else t.todHi
      cycHi := if sel = 2 then w32 (s.cycle / 2 ^ 32) else t.cycHi }
    let bad : Eff := .val (List.replicate t.width ⟨0, true⟩)
    ((t.a0 f).pois = true → Room s s t t f bad → Performs (.time f) s u f s t bad)
    ∧ ((t.a0 f).pois = false → t.selLanes ≠ [] → sel % 2 = 0 → Room s (s.setThr u k) t k f e →
        Performs (.time f) s u f (s.setThr u k) k e)
    ∧ ((t.a0 f).pois = false → t.selLanes ≠ [] → sel % 2 = 1 → Room s s t t f e → Performs (.time f) s u f s t e)))

/-- R93: a TRAP whose condition holds, and a BKPT whose bit of `dbg.bkpten` is set: the record with the code,
lane 0 of A and B and their poison is taken as RecordQueued says, and the thread waits for the reply, or, while
the trap queue is full, for the record. Otherwise they act as NOP. -/
def Obligations.TrapAndBreakpointEntry : Prop :=
  ∀ (s : State) (u : Nat) (t : Thread) (f : Fields),
    let enters := fun (i : Instr) (opc code num : Nat) =>
      let a := t.a0 f
      let b := t.b0 f
      let k : Thread := { t with wait := some ⟨.unit, none, f, opc⟩ }
      let r := (s.raise (t.who opc) code
        [w32 (opc * 256 + t.ip % 256 * 65536), tileid t.src, w32 (t.frame.toNat * 4096), w32 t.wave.toNat,
         w32 num, a.w, b.w, w32 ((if a.pois then 1 else 0) + if b.pois then 2 else 0)] (some (.trap u))).setThr u k
      RoomLate s r t k f → Parks i s u r k (if s.tqFull t.part then .record else .reply)
    (Issues s u t f { opc := 0x0C } →
      (t.cond (fld f.lit 8 2) = true → enters (.trap f) 0x0C 0x0010 (fld f.lit 0 8))
      ∧ (t.cond (fld f.lit 8 2) = false → Room s s t t f {} → Performs (.trap f) s u f s t {}))
    ∧ (Issues s u t f { opc := 0x0D } → t.selLanes ≠ [] →
      ((s.part t.part).bkpten.getLsbD (fld f.lit 0 5) = true → enters (.bkpt f) 0x0D 0x0011 (fld f.lit 0 5))
      ∧ ((s.part t.part).bkpten.getLsbD (fld f.lit 0 5) = false → Room s s t t f {} → Performs (.bkpt f) s u f s t {}))

/-- R85, R86, R88, R94: the waits of the group. One whose condition holds at issue completes with `p` set; one
whose condition fails with a timeout of 0, or a poisoned one, completes with `p` clear; any other suspends,
waiting with its deadline. The mailbox form takes the word and clears its presence.
R85, R86, R95, R94, R229, R235, R239, R241, R289: a wait that holds when it is tested ends its instruction with `p` set
(a faulted fence set, and a queue that has died, with `p` clear); one whose cycles have passed ends it with `p` clear,
unless a test then holds; one that neither holds nor has expired stays, and looks again where the time of day or an
older wait on its semaphore is what it waits for.
The model's choice: the instruction ends in the step of the test or of the expiry, and a poisoned B of GATE is waited
for and poisons the result (log 47); the mailbox form on a frame that cannot be used raises its fault at once (log 26);
a WAITS behind ready waits looks again, and a test that holds at the expiry is a success (log 28); a queue's descriptor
that breaks its table is not live (log 22). -/
def Obligations.WaitInstructionResults : Prop :=
  (
  ∀ (s : State) (u : Nat) (t : Thread) (f : Fields),
    let T := t.a0 f
    let P := fun (b : Bool) => some (List.replicate t.width b)
    let dl := if T.w = 0xFFFFFFFF then none else some (s.work t.part + T.w.toNat)
    -- waiting as thread k in state b, and a deadline makes its expiry come about
    let waits := fun (i : Instr) (b : State) (opc : Nat) (kind : WaitKind) =>
      let k := t.waiting kind dl f opc
      let b1 := b.setThr u k
      let b2 := if dl.isSome then b1.postEv .waitExpiry { a := u } else b1
      RoomLate s b2 t k f → Parks i s u b2 k .wait
    (Issues s u t f { opc := 0x07, b := false } →
      let ok := t.nld ≤ fld f.lit 0 8 ∧ t.nst ≤ fld f.lit 8 8 ∧ t.ncp ≤ fld f.lit 16 8 ∧ t.nmx ≤ fld f.lit 24 8
      (ok → Room s s t t f { p := P true } → Performs (.waitc f) s u f s t { p := P true })
      ∧ (¬ok → T.pois = true ∨ T.w = 0 → Room s s t t f { p := P false } → Performs (.waitc f) s u f s t { p := P false })
      ∧ (¬ok → T.pois = false → T.w ≠ 0 → waits (.waitc f) s 0x07
          (.counters (fld f.lit 0 8) (fld f.lit 8 8) (fld f.lit 16 8) (fld f.lit 24 8))))
    ∧ (Issues s u t f { opc := 0x08 } → isElem t.src.site = false →
      let n := fld f.lit 0 6
      let B := t.b0 f
      (B.pois = true → Room s s t t f { p := P false } → Performs (.waits f) s u f s t { p := P false })
      ∧ (B.pois = false → s.semReady t.src.site n = [] →
        (B.w.toNat ≤ (s.sem t.src.site n).toNat → Room s s t t f { p := P true } → Performs (.waits f) s u f s t { p := P true })
        ∧ ((s.sem t.src.site n).toNat < B.w.toNat → T.pois = true ∨ T.w = 0 → Room s s t t f { p := P false } →
            Performs (.waits f) s u f s t { p := P false })
        ∧ ((s.sem t.src.site n).toNat < B.w.toNat → T.pois = false → T.w ≠ 0 → waits (.waits f) s 0x08 (.sem n B.w))))
    ∧ (Issues s u t f { opc := 0x08 } → isElem t.src.site = true →
      let r := s.raise (t.who 0x08) 0x010F ((t.who 0x08).details 0 [w32 (fld f.lit 0 6)])
      let e : Eff := { v := some (t.zs.map (fun z => { z with pois := true })), p := P false }
      ∀ k, r.thr? u = some k → k.ending = false → Room s r t k f e → Performs (.waits f) s u f r k e)
    ∧ (Issues s u t f { opc := 0x0E } → bit f.lit 0 = false →
      let ok := 0 ≤ (w32 s.tod - (t.b0 f).w).toInt
      let e := fun (b : Bool) => ({ v := some (List.replicate t.width ⟨w32 s.tod, (t.b0 f).pois⟩), p := P b } : Eff)
      let k := t.waiting (.time (t.b0 f).w) dl f 0x0E
      let b1 := s.setThr u k
      let b2 := (if dl.isSome then b1.postEv .waitExpiry { a := u } else b1).postEv .waitTest { a := u }
      (ok → Room s s t t f (e true) → Performs (.gate f) s u f s t (e true))
      ∧ (¬ok → T.pois = true ∨ T.w = 0 → Room s s t t f (e false) → Performs (.gate f) s u f s t (e false))
      ∧ (¬ok → T.pois = false → T.w ≠ 0 → RoomLate s b2 t k f → Parks (.gate f) s u b2 k .wait))
    ∧ (Issues s u t f { opc := 0x0E, b := false } → bit f.lit 0 = true →
      (∀ w, s.frameFor t t.frame = .ok w →
        let r := s.touchFrame t.src.site t.frame
        let b := r.setFrame t.src.site t.frame
          { w with spilled := false, present := w.present.filter (fun j => j ≠ 1), toks := tdel w.toks 1 }
        let e : Eff := { v := some ((List.range t.width).map (w.word 1)), p := P true }
        let none : Eff := { v := some (List.replicate t.width .zero), p := P false }
        (1 ∈ w.present → Room s b t t f e → Performs (.gate f) s u f b t e)
        ∧ (1 ∉ w.present → T.pois = true ∨ T.w = 0 → Room s r t t f none → Performs (.gate f) s u f r t none)
        ∧ (1 ∉ w.present → T.pois = false → T.w ≠ 0 → waits (.gate f) r 0x0E .mailbox))
      ∧ (∀ c, s.frameFor t t.frame = .error c →
        let r := s.raise (t.who 0x0E) c ((t.who 0x0E).details 0 [])
        let e : Eff := { v := some (List.replicate t.width ⟨0, true⟩), p := P false }
        ∀ k, r.thr? u = some k → k.ending = false → Room s r t k f e → Performs (.gate f) s u f r k e)))
  ∧ (
  ∀ (s : State) (t : Thread) (w : Wait), Waiting s s.subj.a t w .wait → s.idleSite t.src.site = false →
    let u := s.subj.a
    let P := fun (b : Bool) => some (List.replicate t.width b)
    let late := fun (d : Nat) => w.deadline = some d ∧ d ≤ s.work t.part
    let all := fun (y : PWord) => some (List.replicate t.width y)
    -- the wait is over, at its test and at a test of its expiry
    let done := fun (b : State) (e : Eff) => Ends .waitTest s b u t w.fields e ∧ ∀ d, late d → Ends .waitExpiry s b u t w.fields e
    -- it goes on at its test, and its expiry ends it
    let stays := fun (e : Eff) => exec .waitTest s = .next s ∧ ∀ d, late d → Ends .waitExpiry s s u t w.fields e
    -- the counters, a semaphore, a rendezvous
    (∀ ld st cp mx, w.kind = .counters ld st cp mx →
      (t.nld ≤ ld ∧ t.nst ≤ st ∧ t.ncp ≤ cp ∧ t.nmx ≤ mx → done s { p := P true })
      ∧ (¬(t.nld ≤ ld ∧ t.nst ≤ st ∧ t.ncp ≤ cp ∧ t.nmx ≤ mx) → stays { p := P false }))
    ∧ (∀ k b, w.kind = .sem k b →
      (b.toNat ≤ (s.sem t.src.site k).toNat → s.semFirst t.src.site k t.susp u = true → done s { p := P true })
      ∧ ((s.sem t.src.site k).toNat < b.toNat → stays { p := P false }))
    ∧ (∀ k b, w.kind = .rdzv k b →
      let x := t.src.site
      (b.toNat ≤ (s.sem x k).toNat → s.semFirst x k t.susp u = true →
        done (s.setSem x k (s.sem x k - b)) { v := all ⟨s.sem x k, false⟩, p := P true })
      ∧ ((s.sem x k).toNat < b.toNat → stays { v := all .zero, p := P false }))
    -- one that its semaphore satisfies looks again behind the older ones
    ∧ (∀ k b, w.kind = .sem k b ∨ w.kind = .rdzv k b → b.toNat ≤ (s.sem t.src.site k).toNat →
      s.semFirst t.src.site k t.susp u = false → exec .waitTest s = .next (s.postEv .waitTest { a := u })
        ∧ ∀ d, late d → exec .waitExpiry s = .next (s.postEv .waitExpiry { a := u }))
    -- the time of day, a mailbox, a fence entry
    ∧ (∀ b, w.kind = .time b →
      let e := fun (p : Bool) => ({ v := all ⟨w32 s.tod, (t.b0 w.fields).pois⟩, p := P p } : Eff)
      (0 ≤ (w32 s.tod - b).toInt → done s (e true))
      ∧ ((w32 s.tod - b).toInt < 0 → exec .waitTest s = .next (s.postEv .waitTest { a := u })
        ∧ ∀ d, late d → Ends .waitExpiry s s u t w.fields (e false)))
    ∧ (w.kind = .mailbox → ∀ g, s.frameFor t t.frame = .ok g →
      (1 ∈ g.present →
        done ((s.touchFrame t.src.site t.frame).setFrame t.src.site t.frame
            { g with spilled := false, present := g.present.filter (fun j => j ≠ 1), toks := tdel g.toks 1 })
          { v := some ((List.range t.width).map (g.word 1)), p := P true })
      ∧ (1 ∉ g.present → stays { v := all .zero, p := P false }))
    ∧ (∀ n g, w.kind = .fence n → tget (s.cell t.src).fences n = some g →
      (s.fenceDone t.src.site g = true →
        done (s.setCell t.src { s.cell t.src with fences := tset (s.cell t.src).fences n { g with owner := none } })
          (if g.faulted then { v := all ⟨3, false⟩, p := P false } else { v := all ⟨1, false⟩, p := P true }))
      ∧ (s.fenceDone t.src.site g = false → stays { v := all .zero, p := P false }))
    -- a package queue, by the descriptor's words at pa
    ∧ (∀ desc pa, s.hwXlate t.part t.src.site desc true = some pa → s.served pa = true →
      let q := qdescAt s.mem pa
      let live := q.ok = true ∧ q.state = 1
      let ring := fun (i n : Nat) (as : List Nat) => as.length = n ∧ (∀ a ∈ as, s.served a = true) ∧
        ∀ j, j < n → s.hwXlate t.part t.src.site ((BitVec.ofNat 64 q.ring).toInt + ((4 * ((i + j) % 2 ^ q.m) : Nat) : Int)) true = as[j]?
      let known := s.knowQueue ⟨t.part, queueVia t.part t.src.site, desc, pa⟩
      (∀ ws ctl, w.kind = .push desc ws ctl → ws ≠ [] → s.pkgQueueHeld t.part t.src.site desc ws.length = false →
        let n := ws.length
        let need := n + if ctl then 0 else 2
        let e := fun (p : Bool) => ({ v := some (t.as w.fields), p := P p } : Eff)
        (¬live → done s (e false))
        ∧ (live → q.free < need → stays (e false))
        ∧ (live → need ≤ q.free → ∀ as, ring q.tail n as →
          done (((((as.zip ws).foldl (fun s e => s.hwWrite e.1 (leBytes 4 e.2.toNat)) known).hwWrite (pa + 0x14)
            (leBytes 4 (q.tail + n))).retestQueues t.part).wakeService t.part t.src.site desc) (e true)))
      ∧ (w.kind = .pop desc → t.selLanes ≠ [] → s.pkgQueueHeld t.part t.src.site desc t.selLanes.length = false →
        let n := t.selLanes.length
        let none : Eff := { v := all .zero, p := P false }
        (¬live → done s none)
        ∧ (live → q.used < n → stays none)
        ∧ (live → n ≤ q.used → ∀ as, ring q.head n as →
          done ((known.hwWrite (pa + 0x10) (leBytes 4 (q.head + n))).retestQueues t.part)
            { p := P true, v := some ((List.range t.width).map (fun l =>
              ⟨(as.map s.rdW).getD (t.selLanes.takeWhile (· ≠ l)).length 0, false⟩)) })))
    ∧ (∀ push, w.kind = .killed push → done s { v := if push then some (t.as w.fields) else all .zero, p := P false })
    ∧ (∀ d, w.deadline = some d → s.work t.part < d → exec .waitExpiry s = .next (s.postEv .waitExpiry { a := u }))
    ∧ (w.deadline = none → exec .waitExpiry s = .next s))

/-! ## Frames -/

/-- R96, R97, R64: FALLOC allocates the lowest free local index whose place overlaps no resident frame, else the
lowest free one, as a fresh frame of the class and use count its operands give, and returns its number with
`p` set; it fails with 0 and `p` clear for an operand outside its range, on an element, and where the frame
cannot be allocated.
R98: FFREE of an allocated frame of the partition frees it and returns A; of any other frame it changes
nothing but to raise "frame free"; a poisoned A frees nothing and poisons the result.
R99, R96: FRD returns the words of a slot, zero at or above the frame's width, and clears its presence where
asked; FWR writes B of the selected lanes below the frame's width, nothing else of the frame but the presence bit
where asked; a poisoned, foreign or free frame reads and writes nothing, poisons `v` and raises a fault.
The model's choice: that FFREE of another partition's frame raises "frame free" and that a poisoned frame number of FRD
or FWR raises "frame home" (log 26), and that FFREE of a frame whose tile's context lies in bivouac raises "frame free"
(log 47). -/
def Obligations.FrameInstructionResults : Prop :=
  (
  (∀ (s : State) (u : Nat) (t : Thread) (f : Fields), Issues s u t f { opc := 0xF0 } →
    let a := t.a0 f
    let b := t.b0 f
    let width := if b.w = 0 then t.width else b.w.toNat
    let fail : Eff := { v := some (List.replicate t.width .zero), p := some (List.replicate t.width false) }
    (a.pois = true ∨ b.pois = true ∨ isElem t.src.site = true ∨ a.w = 0 ∨ 65535 < a.w.toNat ∨ width ∉ [1, 2, 4, 8, 16, 32] →
      Room s s t t f fail → Performs (.falloc f) s u f s t fail)
    ∧ (a.pois = false → b.pois = false → isElem t.src.site = false → a.w ≠ 0 → a.w.toNat ≤ 65535 → t.selLanes ≠ [] → ∀ c, width = 2 ^ c → c < 6 →
      (s.allocFrame t.src.site c a.w.toNat t.part t.region t.inv = none → Room s s t t f fail → Performs (.falloc f) s u f s t fail)
      ∧ (∀ s1 g, s.allocFrame t.src.site c a.w.toNat t.part t.region t.inv = some (s1, g) →
        let e : Eff := { v := some (List.replicate t.width ⟨w32 (g.toNat * 4096), false⟩), p := some (List.replicate t.width true) }
        Room s s1 t t f e → Performs (.falloc f) s u f s1 t e)))
  ∧ (∀ (s s1 : State) (n c use p rg inv : Nat) (g : BitVec 20), n < 512 → s.allocFrame (.tile n) c use p rg inv = some (s1, g) →
      let v := s.site (.tile n)
      let apart := fun (i : Nat) => ∀ e ∈ v.frames, e.2.spilled = false →
        placesMeet ((e.1 * 2 ^ e.2.cls) % 1024, 2 ^ e.2.cls) ((i * 2 ^ c) % 1024, 2 ^ c) = false
      ∃ i, i < 2048 ∧ g.toNat = n * 2048 + i ∧ tget v.frames i = none
        ∧ tget (s1.site (.tile n)).frames i = some ⟨c, use, false, [], [], [], p, rg, inv⟩
        ∧ (∀ j, j ≠ i → (tget (s1.site (.tile n)).frames j).map (fun w => (w.cls, w.use, w.slots, w.present, w.part))
            = (tget v.frames j).map (fun w => (w.cls, w.use, w.slots, w.present, w.part)))
        ∧ (apart i → ∀ j, j < i → tget v.frames j = none → ¬apart j)
        ∧ (¬apart i → ∀ j, j < 2048 → tget v.frames j = none → i ≤ j ∧ ¬apart j)))
  ∧ (
  ∀ (s : State) (u : Nat) (t : Thread) (f : Fields), Issues s u t f { opc := 0xF1, b := false } →
    let g := BitVec.ofNat 20 (fld (t.a0 f).w 12 20)
    let home := match t.src.site with | .syrad n => Site.syrad n | _ => .tile (g.toNat / 2 ^ 11)
    let i := g.toNat % 2 ^ 11
    let e : Eff := .val ((List.range t.width).map (t.aW f))
    let bad : Eff := .val ((List.range t.width).map (fun l => ⟨(t.aW f l).w, true⟩))
    let r := s.raise (t.who 0xF1) 0x0106 ((t.who 0xF1).details 0 [w32 (g.toNat * 4096)])
    ((t.a0 f).pois = true → Room s s t t f bad → Performs (.ffree f) s u f s t bad)
    ∧ ((t.a0 f).pois = false → t.selLanes ≠ [] → (∃ w, tget (s.site home).frames i = some w ∧ w.part = t.part) →
        let b := s.modSite home (fun v => { v with frames := tdel v.frames i })
        Room s b t t f e → Performs (.ffree f) s u f b t e)
    ∧ ((t.a0 f).pois = false → t.selLanes ≠ [] → (∀ w, tget (s.site home).frames i = some w → w.part ≠ t.part) →
        ∀ k, r.thr? u = some k → k.ending = false → Room s r t k f e → Performs (.ffree f) s u f r k e))
  ∧ (
  (∀ (s : State) (u : Nat) (t : Thread) (f : Fields),
    let g := if bit f.lit 7 then BitVec.ofNat 20 (fld (t.a0 f).w 12 20) else t.frame
    let k := fld f.lit 0 6
    let r := s.touchFrame t.src.site g
    let bad : Eff := .val (List.replicate t.width ⟨0, true⟩)
    let stops := fun (i : Instr) (opc : Nat) =>
      t.selLanes ≠ [] → ∀ c, (bit f.lit 7 = true ∧ (t.a0 f).pois = true ∧ c = 0x0102)
          ∨ ((bit f.lit 7 = true → (t.a0 f).pois = false) ∧ s.frameFor t g = .error c) →
        let x := s.raise (t.who opc) c ((t.who opc).details 0 [])
        ∀ k', x.thr? u = some k' → k'.ending = false → Room s x t k' f bad → Performs i s u f x k' bad
    (Issues s u t f { opc := 0xF2, b := false } →
      (∀ w, (bit f.lit 7 = true → (t.a0 f).pois = false) → s.frameFor t g = .ok w →
        let e : Eff := .val ((List.range t.width).map (fun l => if l < 2 ^ w.cls then (tgetD w.slots k []).getD l .zero else .zero))
        (bit f.lit 6 = false ∨ t.selLanes = [] → Room s r t t f e → Performs (.frd f) s u f r t e)
        ∧ (bit f.lit 6 = true → t.selLanes ≠ [] →
          let b := r.setFrame t.src.site g
            { w with spilled := false, present := w.present.filter (fun j => j ≠ k), toks := tdel w.toks k }
          Room s b t t f e → Performs (.frd f) s u f b t e))
      ∧ stops (.frd f) 0xF2)
    ∧ (Issues s u t f { opc := 0xF3 } →
      (∀ w, (bit f.lit 7 = true → (t.a0 f).pois = false) → s.frameFor t g = .ok w →
        let e : Eff := .val ((List.range t.width).map (t.bW f))
        let w' := t.selLanes.foldl (fun w l => w.setWord k l (t.bW f l)) { w with spilled := false }
        (bit f.lit 6 = false ∨ t.selLanes = [] →
          let b := r.setFrame t.src.site g w'
          Room s b t t f e → Performs (.fwr f) s u f b t e)
        ∧ (bit f.lit 6 = true → t.selLanes ≠ [] →
          let b := (r.setFrame t.src.site g { w' with present := if k ∈ w'.present then w'.present else w'.present ++ [k] }).retest t.src.site
          Room s b t t f e → Performs (.fwr f) s u f b t e))
      ∧ stops (.fwr f) 0xF3))
  ∧ (∀ (w : Frame) (k : Nat) (ls : List Nat) (x : Nat → PWord),
      let w' := ls.foldl (fun w l => w.setWord k l (x l)) w
      (w'.cls = w.cls ∧ w'.use = w.use ∧ w'.present = w.present ∧ w'.toks = w.toks)
      ∧ ∀ j l, w'.word j l = if j = k ∧ l ∈ ls ∧ l < 2 ^ w.cls then x l else w.word j l))

/-! ## Group 0x7: the column units -/

/-- R170, R171: on a tile with room in its request queue, its column unit not stopped, a group 0x7 instruction queues its request and waits in
its cell; on an element or Syrad cell it completes with its function's value in every lane.
R170: the unit takes the next request by row after the row it served last, the oldest of its tile first; the
accepted request counts, and its wait; its reply then ends the instruction with the function's value per lane.
The model's choice: `col.xreq` rises as the unit accepts (log 49), and a unit that has served none goes on from row 7,
so serves row 0 first (log 4). -/
def Obligations.ColumnInstructionResults : Prop :=
  (
  ∀ x ∈ [(Instr.xrcp, 0x70), (.xsqrt, 0x71), (.xrsq, 0x72), (.xexp2, 0x73), (.xlog2, 0x74), (.xsin, 0x75), (.xcos, 0x76),
      (.xtanh, 0x77), (.xsigm, 0x78), (.xerf, 0x79)],
    ∀ (s : State) (u : Nat) (t : Thread) (f : Fields), Issues s u t f { opc := x.2, b := false } →
      (isTile t.src.site = false →
        let e : Eff := .val ((List.range t.width).map (fun l => ⟨columnFn x.2 (t.aW f l).w, (t.aW f l).pois⟩))
        Room s s t t f e → Performs (x.1 f) s u f s t e)
      ∧ (∀ n, t.src.site = .tile n →
        let v := s.site (.tile n)
        let k : Thread := { t with wait := some ⟨.unit, none, f, x.2⟩ }
        let b := ((s.setSite (.tile n) { v with colq := v.colq ++ [⟨u, false, s.cycle⟩] }).setThr u k).postEv
          .columnRequestAccept { a := n / 8 }
        (s.unitStopped t.part n = false → v.colq.countP (fun q => !q.accepted) < 4 → RoomLate s b t k f → Parks (x.1 f) s u b k .column)
        ∧ (s.unitStopped t.part n = true ∨ 4 ≤ v.colq.countP (fun q => !q.accepted) → exec (x.1 f) s = .next s)))
  ∧ (
  (∀ (s : State) (n : Nat) (q : ColReq), s.nextColumn s.subj.a = some (n, q) →
    let c := s.subj.a
    let last := tgetD s.colLast c 7
    (∃ i, i < 8 ∧ n = c * 8 + (last + 1 + i) % 8 ∧ ∀ j, j < i →
      let x := Site.tile (c * 8 + (last + 1 + j) % 8)
      (∀ r ∈ (s.site x).colq, r.accepted = true) ∨ s.stopped ((s.site x).part.getD 0) (engOf x) = true
        ∨ s.unitStopped ((s.site x).part.getD 0) (c * 8 + (last + 1 + j) % 8) = true)
    ∧ (s.site (.tile n)).colq.find? (fun r => !r.accepted) = some q
    ∧ ∃ s', exec .columnRequestAccept s = .next s'
      ∧ tgetD s'.colReq c 0 = tgetD s.colReq c 0 + 1
      ∧ tgetD s'.colWait c 0 = tgetD s.colWait c 0 + w32 (s.cycle - q.at_)
      ∧ tgetD s'.colLast c 7 = n % 8
      ∧ (s'.site (.tile n)).colq = (s.site (.tile n)).colq.map (fun r => if r.uid = q.uid then { r with accepted := true } else r)
      ∧ s'.agenda = s.agenda ++ [.ev .columnReply { a := q.uid }] ∧ s'.threads = s.threads ∧ s'.mem = s.mem)
  ∧ (∀ (s : State) (t : Thread) (w : Wait), Waiting s s.subj.a t w .column →
    (∃ q ∈ (s.site t.src.site).colq, q.uid = s.subj.a ∧ q.accepted = true) →
    let b := s.modSite t.src.site (fun v => { v with colq := v.colq.filter (fun q => q.uid ≠ s.subj.a) })
    Ends .columnReply s b s.subj.a t w.fields
      (.val ((List.range t.width).map (fun l => ⟨columnFn w.opc (t.aW w.fields l).w, (t.aW w.fields l).pois⟩)))))

/-- R172: the special values of the ten functions, on -inf, -0, +0, +inf and a NaN; every NaN result is the
canonical one; XRCP is the rounded reciprocal. -/
def Obligations.ColumnFunctionSpecialValues : Prop :=
  (∀ r ∈ [(0x70, 0x80000000, 0xFF800000, 0x7F800000, 0x00000000), (0x71, 0x7FC00000, 0x80000000, 0x00000000, 0x7F800000),
      (0x72, 0x7FC00000, 0xFF800000, 0x7F800000, 0x00000000), (0x73, 0x00000000, 0x3F800000, 0x3F800000, 0x7F800000),
      (0x74, 0x7FC00000, 0xFF800000, 0xFF800000, 0x7F800000), (0x75, 0x7FC00000, 0x80000000, 0x00000000, 0x7FC00000),
      (0x76, 0x7FC00000, 0x3F800000, 0x3F800000, 0x7FC00000), (0x77, 0xBF800000, 0x80000000, 0x00000000, 0x3F800000),
      (0x78, 0x00000000, 0x3F000000, 0x3F000000, 0x3F800000), (0x79, 0xBF800000, 0x80000000, 0x00000000, 0x3F800000)],
    columnFn r.1 0xFF800000 = r.2.1 ∧ columnFn r.1 0x80000000 = r.2.2.1 ∧ columnFn r.1 0 = r.2.2.2.1
      ∧ columnFn r.1 0x7F800000 = r.2.2.2.2)
  ∧ (∀ op x, 0x70 ≤ op → op ≤ 0x79 → (F x).isNan = true → columnFn op x = 0x7FC00000)
  ∧ (∀ x s m e, F x = .fin s m e → m ≠ 0 → columnFn 0x70 x = w32 (fp32.roundRat 0 s 1 m (-e)))

/-! ## Group 0x8: colours, the permute network, the lane file -/

/-- R122, R130: CTXA tries the requested width and then the smaller ones down to 2; the first width whose block
at the requester's position is free, or is a grant of that width with a count below 65,535, is granted, its count
one higher; with none it answers width 1 of its own position.
R142: CTXF lowers a grant's count and frees it at one; PACK joins two neighbouring grants of one width, their
counts added; UNPACK splits a grant into halves, of which halves of width 1 hold none. Each leaves the
grants as they were, with `p` clear, where it fails, and on a poisoned operand. -/
def Obligations.ColourInstructionResults : Prop :=
  (
  (∀ (s : State) (u : Nat) (t : Thread) (f : Fields), Issues s u t f { opc := 0x80, b := false, cyc := 4 } →
    let a := t.a0 f
    let q := (t.laneAgent 0).cell % 32
    let v := s.site t.src.site
    let want := if a.w = 0 then 1 else min a.w.toNat 32
    let out := fun (k w : Nat) => ({ v := some (List.replicate t.width ⟨w32 (w * 256 + k), false⟩),
                                     p := some (List.replicate t.width true) } : Eff)
    let bad : Eff := { v := some (List.replicate t.width ⟨0, true⟩), p := some (List.replicate t.width false) }
    (a.pois = true → Room s s t t f bad → Performs (.ctxa f) s u f s t bad)
    ∧ (a.pois = false → t.selLanes ≠ [] → isElem t.src.site = true ∨ ctxaGo v.grants t.strip q (Nat.log2 want) = none →
        Room s s t t f (out q 1) → Performs (.ctxa f) s u f s t (out q 1))
    ∧ (a.pois = false → t.selLanes ≠ [] → isElem t.src.site = false → ∀ k w gs,
        ctxaGo v.grants t.strip q (Nat.log2 want) = some (k, w, gs) →
        let b := s.setSite t.src.site { v with grants := gs }
        Room s b t t f (out k w) → Performs (.ctxa f) s u f b t (out k w)))
  ∧ (∀ (gs : Tbl Nat Grant) (strip q n : Nat),
      let key := fun (j : Nat) => 32 * strip + q / 2 ^ j * 2 ^ j
      let free := fun (j : Nat) => match tget gs (key j) with
        | some g => decide (g.width = 2 ^ j ∧ g.count < 65535)
        | none => !blockTaken gs strip (q / 2 ^ j * 2 ^ j) (2 ^ j)
      (ctxaGo gs strip q n = none ↔ ∀ j, 1 ≤ j → j ≤ n → free j = false)
      ∧ (∀ k w gs', ctxaGo gs strip q n = some (k, w, gs') → ∃ j, 1 ≤ j ∧ j ≤ n ∧ w = 2 ^ j ∧ k = q / 2 ^ j * 2 ^ j
          ∧ free j = true ∧ (∀ i, j < i → i ≤ n → free i = false)
          ∧ gs' = tset gs (key j) ⟨w, match tget gs (key j) with | some g => g.count + 1 | none => 1⟩)))
  ∧ (
  ∀ (s : State) (u : Nat) (t : Thread) (f : Fields),
    let a := t.a0 f
    let b := t.b0 f
    let v := s.site t.src.site
    let k := fld a.w 0 5
    let key := 32 * t.strip + k
    let out := fun (w : PWord) (p : Bool) => ({ v := some (List.replicate t.width w), p := some (List.replicate t.width p) } : Eff)
    let asA := out a
    let put := fun (gs : Tbl Nat Grant) => s.setSite t.src.site { v with grants := gs }
    let does := fun (i : Instr) (b : State) (e : Eff) => Room s b t t f e → Performs i s u f b t e
    (Issues s u t f { opc := 0x81, b := false, cyc := 4 } →
      (a.pois = true → does (.ctxf f) s (out ⟨0, true⟩ false))
      ∧ (a.pois = false → t.selLanes ≠ [] →
        (tget v.grants key = none → does (.ctxf f) s (asA false))
        ∧ (∀ g, tget v.grants key = some g → g.count ≤ 1 → does (.ctxf f) (put (tdel v.grants key)) (asA true))
        ∧ (∀ g, tget v.grants key = some g → 1 < g.count →
            does (.ctxf f) (put (tset v.grants key ⟨g.width, g.count - 1⟩)) (asA true))))
    ∧ (Issues s u t f { opc := 0x82, cyc := 4 } →
      (a.pois = true ∨ b.pois = true → does (.pack f) s (out ⟨0, true⟩ false))
      ∧ (a.pois = false → b.pois = false → t.selLanes ≠ [] →
        let k2 := fld b.w 0 5
        let g1 := tgetD v.grants key ⟨1, 1⟩
        let g2 := tgetD v.grants (32 * t.strip + k2) ⟨1, 1⟩
        let joins := isElem t.src.site = false ∧ g2.width = g1.width ∧ k % (2 * g1.width) = 0 ∧ k2 = k + g1.width
          ∧ (g1.width = 1 → blockTaken v.grants t.strip k 2 = false) ∧ g1.count + g2.count ≤ 65535
        (joins → does (.pack f) (put (tset (tdel v.grants (32 * t.strip + k2)) key ⟨2 * g1.width, g1.count + g2.count⟩))
            (out ⟨w32 (2 * g1.width * 256 + k), false⟩ true))
        ∧ (¬joins → does (.pack f) s (out .zero false))))
    ∧ (Issues s u t f { opc := 0x83, b := false, cyc := 4 } →
      (a.pois = true → does (.unpack f) s (out ⟨0, true⟩ false))
      ∧ (a.pois = false → t.selLanes ≠ [] →
        (tget v.grants key = none → does (.unpack f) s (out .zero false))
        ∧ (∀ g, tget v.grants key = some g →
          let h := g.width / 2
          let gs := if h ≤ 1 then tdel v.grants key else tset (tset v.grants key ⟨h, g.count⟩) (key + h) ⟨h, g.count⟩
          does (.unpack f) (put gs) (out ⟨w32 (h * 256 + k), false⟩ true)))))

/-- R142 to R145: the permute network reads every lane of the gang as it stood before. A source outside the gang
reads as zero for BCAST and PERM and as the lane's own A for SHFL; VOTE counts the conditions of the selected
lanes; CMPCT moves the lanes with `p` set to the lowest lanes, zeros above them.
R133, R134: the lane file. A load of a word in range returns it with its poison, one out of range zero; a
store in range writes the selected lanes' own banks and nothing else; a poisoned index loads poison and stores
nothing; the first access out of range of the partition is recorded, later ones leave the record. -/
def Obligations.PermuteAndLaneFileResults : Prop :=
  (
  ActsAs .lane (fun _ => { opc := 0x84, a := false, b := false, cyc := 2 }) (fun t _ =>
      .val ((List.range t.width).map (fun l => ⟨w32 (t.colour.toNat * 2 ^ 16 + (t.width - 1) * 2 ^ 11 + l * 2 ^ 6 + (t.laneAgent l).cell), false⟩)))
  ∧ ActsAs .bcast (fun _ => { opc := 0x85, cyc := 2 }) (fun t f =>
      let b := t.b0 f
      let r := if b.w.toNat < t.width then t.aW f b.w.toNat else .zero
      .val (List.replicate t.width ⟨r.w, r.pois || b.pois⟩))
  ∧ ActsAs .perm (fun _ => { opc := 0x86, cyc := 2 }) (fun t f =>
      .val ((List.range t.width).map (fun l =>
        let b := t.bW f l
        let r := if b.w.toNat < t.width then t.aW f b.w.toNat else .zero
        ⟨r.w, r.pois || b.pois⟩)))
  ∧ ActsAs .shfl (fun _ => { opc := 0x87, cyc := 2 }) (fun t f =>
      let b := t.b0 f
      let d := fld b.w 0 5
      .val ((List.range t.width).map (fun l =>
        let r := if b.pois then t.aW f l else match fld b.w 5 2 with
          | 0 => if Nat.xor l d < t.width then t.aW f (Nat.xor l d) else t.aW f l
          | 1 => if d ≤ l then t.aW f (l - d) else t.aW f l
          | 2 => if l + d < t.width then t.aW f (l + d) else t.aW f l
          | _ => t.aW f ((l + d) % t.width)
        ⟨r.w, r.pois || b.pois || (t.bW f l).pois⟩)))
  ∧ ActsAs .vote (fun f => { opc := 0x88, a := bit f.lit 3, b := false, cyc := 2 }) (fun t f =>
      let cond := fun (l : Nat) =>
        if bit f.lit 3 then (t.aW f l).w.getLsbD 0 && !(t.aW f l).pois else (t.lanes.map (fun x => x.p)).getD l false
      let yes := t.selLanes.filter cond
      let r : Word := match fld f.lit 0 3 with
        | 0 => w32 ((t.selLanes.map (fun l => if cond l then 2 ^ l else 0)).foldl (· + ·) 0)
        | 1 => if yes = [] then 0 else 1
        | 2 => if t.selLanes ≠ [] ∧ yes = t.selLanes then 1 else 0
        | 3 => if yes = [] then 1 else 0
        | _ => w32 yes.length
      .val (List.replicate t.width ⟨r, bit f.lit 3 && t.selLanes.any (fun l => (t.aW f l).pois)⟩))
  ∧ ActsAs .cmpct (fun _ => { opc := 0x8D, b := false, cyc := 2 }) (fun t f =>
      let live := (List.range t.width).filter (fun l => (t.lanes.map (fun x => x.p)).getD l false)
      .val ((List.range t.width).map (fun j => (live.map (t.aW f)).getD j .zero))))
  ∧ (
  (∀ (s : State) (u : Nat) (t : Thread) (f : Fields),
    let one := fun (_ : Nat) => ((t.a0 f).w.toNat, (t.a0 f).pois)
    let sum := fun (l : Nat) => ((t.aW f l).w.toNat + (t.bW f l).w.toNat, (t.aW f l).pois || (t.bW f l).pois)
    let own := fun (l : Nat) => ((t.aW f l).w.toNat, (t.aW f l).pois)
    let inside := fun (idx : Nat → Nat × Bool) (l : Nat) => decide ((idx l).1 < 1024) && !isElem t.src.site
    let recd := fun (idx : Nat → Nat × Bool) (write : Bool) =>
      match t.selLanes.find? (fun l => !(idx l).2 && !inside idx l) with
      | none => s
      | some l => s.lfOobRecord t l (idx l).1 write
    let load := fun (i : Instr) (idx : Nat → Nat × Bool) =>
      let e : Eff := .val ((List.range t.width).map (fun l =>
        if (idx l).2 then ⟨0, true⟩ else if inside idx l then tgetD (s.cell (t.laneAgent l)).bank (idx l).1 .zero else .zero))
      Room s (recd idx false) t t f e → Performs i s u f (recd idx false) t e
    let store := fun (i : Instr) (idx : Nat → Nat × Bool) =>
      let b := t.selLanes.foldl (fun s l =>
        if !(idx l).2 && inside idx l then s.setLf (t.laneAgent l) (idx l).1 (t.bW f l) else s) (recd idx true)
      let e : Eff := .val ((List.range t.width).map (fun l => ⟨(t.bW f l).w, (t.bW f l).pois || (idx l).2⟩))
      Room s b t t f e → Performs i s u f b t e
    (Issues s u t f { opc := 0x89, b := false, lf := true } → load (.lfld f) one)
    ∧ (Issues s u t f { opc := 0x8A, lf := true } → store (.lfst f) one)
    ∧ (Issues s u t f { opc := 0x8B, lf := true } → load (.lfldx f) sum)
    ∧ (Issues s u t f { opc := 0x8C, lf := true } → store (.lfstx f) own))
  ∧ (∀ (s : State) (a b : Agent) (i j : Nat) (w : PWord),
      tgetD ((s.setLf a i w).cell b).bank j .zero = (if b = a ∧ j = i then w else tgetD (s.cell b).bank j .zero)
      ∧ (s.setLf a i w).mem = s.mem ∧ (s.setLf a i w).threads = s.threads ∧ (s.setLf a i w).sites = s.sites)
  ∧ (∀ (s : State) (t : Thread) (l i : Nat) (write : Bool) (v : Part), tget s.parts t.part = some v →
      let w := (s.lfOobRecord t l i write).part t.part
      (v.lfOob.getLsbD 31 = true → w = v)
      ∧ (v.lfOob.getLsbD 31 = false → w.lfOob.getLsbD 31 = true ∧ w.lfOob.getLsbD 30 = write
          ∧ fld w.lfOob 24 6 = t.src.cell % 64 ∧ fld w.lfOob 16 8 = t.ip % 256 ∧ w.lfOobIdx = w32 i)))

/-! ## Group 0x9: reductions and scans -/

/-- R136, R138, R139: each reduction and scan combines the selected lanes' A into partial k mod 4 of their cells, k
being that of the lane 0 element, then writes k + 1 and the opcode in every lane cell. Below opcode 96 it emits
nothing without a marker and the fold with one; a scan's result is the fold after the push, of SCANXADD the fold
before it, poisoned where one after it is; a marker resets the elements.
R139: a reduction that finds its lane 0 element in use by another opcode resets the elements, raises the
contained fault and then acts as the first of its own.
R140: EOD folds the partials of the opcode its elements hold, or returns zero where they hold none, marks its
tokens with its level, one lower after a reduction, and resets the elements.
R138: an empty partial is the opcode's identity, each opcode combines as its row says, and the fold combines the
first two partials, the last two, and then both results; it is poisoned where a partial is. -/
def Obligations.ReductionInstructionResults : Prop :=
  (
  (∀ x ∈ [(Instr.redadd, 0x90), (.redmax, 0x91), (.redmin, 0x92), (.redor, 0x93), (.redfadd, 0x94), (.redfmax, 0x95),
      (.scanadd, 0x96), (.scanxadd, 0x97), (.scanfadd, 0x98)],
    ∀ (s : State) (u : Nat) (t : Thread) (f : Fields), Issues s u t f { opc := x.2, b := false } →
      let op := x.2
      let r0 := s.red (t.laneAgent 0)
      (∀ o, r0.op = some o → o ≠ op → r0.k = 0) →
      let pushed := t.selLanes.foldl (fun s l => s.modCell (t.laneAgent l) (fun c => { c with red := c.red.push r0.k op (t.aW f l) })) s
      let counted := pushed.modReds t (fun e => { e with k := (r0.k + 1) % 2 ^ 32, op := some op })
      let cleared := counted.modReds t (fun _ => Red.reset)
      let lv := t.eod.toNat
      let fold := fun (s : State) (l : Nat) => (s.red (t.laneAgent l)).fold op
      let folds := some ((List.range t.width).map (fold pushed))
      let scans := if op = 0x97 then some ((List.range t.width).map (fun l => ⟨(fold s l).w, (fold pushed l).pois⟩)) else folds
      let does := fun (b : State) (e : Eff) => Room s b t t f e → Performs (x.1 f) s u f b t e
      (op < 0x96 → lv = 0 → does counted { mute := true })
      ∧ (op < 0x96 → 0 < lv → does cleared { v := folds, eod := lv - 1 })
      ∧ (0x96 ≤ op → lv = 0 → does counted { v := scans, eod := 0 })
      ∧ (0x96 ≤ op → 0 < lv → does cleared { v := scans, eod := lv }))
  ∧ (∀ (e : Red) (k op : Nat) (x : PWord), e.parts.length = 4 →
      (∀ j, (e.push k op x).part op j = if j = k % 4 then ⟨redComb op (e.part op j).w x.w, (e.part op j).pois || x.pois⟩ else e.part op j)
      ∧ (e.push k op x).k = e.k ∧ (e.push k op x).op = e.op)
  ∧ (∀ (u x : Word),
      redComb 0x90 u x = wrap32 ((Zx u : Int) + Zx x) ∧ redComb 0x91 u x = wrap32 (max (Sx u) (Sx x))
      ∧ redComb 0x92 u x = wrap32 (min (Sx u) (Sx x)) ∧ redComb 0x93 u x = u ||| x
      ∧ redComb 0x94 u x = rnd32 0 ((F u).add 0 (F x))
      ∧ (let nan := fun (x : Word) => decide (0x7F800000 < x.toNat % 2 ^ 31)
         redComb 0x95 u x = if nan u || nan x then 0x7FC00000
           else if (F u).lt (F x) then x else if (F x).lt (F u) then u else if u.msb then x else u)
      ∧ redComb 0x96 u x = wrap32 ((Zx u : Int) + Zx x)
      ∧ redComb 0x97 u x = wrap32 ((Zx u : Int) + Zx x) ∧ redComb 0x98 u x = rnd32 0 ((F u).add 0 (F x)))
  ∧ (∀ (e : Red) (op j : Nat),
      (∀ r ∈ [(0x90, 0), (0x91, 0x80000000), (0x92, 0x7FFFFFFF), (0x93, 0), (0x94, 0x80000000), (0x95, 0xFF800000), (0x96, 0),
          (0x97, 0), (0x98, 0x80000000)], e.parts[j]? = some none → e.part r.1 j = ⟨w32 r.2, false⟩)
      ∧ (∀ w, e.parts[j]? = some (some w) → e.part op j = w)
      ∧ (let c := redComb op
         let P := fun (j : Nat) => (e.part op j).w
         (e.fold op).w = c (c (P 0) (P 1)) (c (P 2) (P 3)))
      ∧ ((e.fold op).pois = true ↔ ∃ j, j < 4 ∧ (e.part op j).pois = true)))
  ∧ (
  ∀ x ∈ [(Instr.redadd, 0x90), (.redmax, 0x91), (.redmin, 0x92), (.redor, 0x93), (.redfadd, 0x94), (.redfmax, 0x95),
      (.scanadd, 0x96), (.scanxadd, 0x97), (.scanfadd, 0x98)],
    ∀ (s : State) (u : Nat) (t : Thread) (f : Fields), Issues s u t f { opc := x.2, b := false } → ∀ o,
      (s.red (t.laneAgent 0)).op = some o → o ≠ x.2 → (s.red (t.laneAgent 0)).k ≠ 0 → t.eod = 0 → x.2 < 0x96 →
      let r := (s.modReds t (fun _ => Red.reset)).raise (t.who x.2) 0x0108 ((t.who x.2).details 0 [w32 o, w32 x.2])
      let pushed := t.selLanes.foldl (fun s l => s.modCell (t.laneAgent l) (fun c => { c with red := c.red.push 0 x.2 (t.aW f l) })) r
      let b := pushed.modReds t (fun e => { e with k := 1, op := some x.2 })
      ∀ k, b.thr? u = some k → k.ending = false → Room s b t k f { mute := true } → Performs (x.1 f) s u f b k { mute := true })
  ∧ (
  ∀ (s : State) (u : Nat) (t : Thread) (f : Fields), Issues s u t f { opc := 0x99, a := false, b := false } →
    let b := s.modReds t (fun _ => Red.reset)
    let lv := fld f.lit 0 2
    ((s.red (t.laneAgent 0)).op = none →
      let e : Eff := { v := some (List.replicate t.width .zero), eod := lv - 1 }
      Room s b t t f e → Performs (.eod f) s u f b t e)
    ∧ (∀ op, (s.red (t.laneAgent 0)).op = some op →
      let e : Eff := { v := some ((List.range t.width).map (fun l => (s.red (t.laneAgent l)).fold op)),
                       eod := if op < 0x96 then lv - 1 else lv }
      Room s b t t f e → Performs (.eod f) s u f b t e))

/-! ## Groups 0xA and 0xB: memory -/

/-- R243, R254: the lanes of a memory instruction: each selected lane's address is the base plus its signed A
times the size; a poisoned operand, an address outside the 57-bit range and a misaligned one decide the lane at
once, with reasons 0, 1 and 2; no other lane is touched. R256: a prefetch ignores those lanes. -/
def Obligations.AccessLaneAddressesAndChecks : Prop :=
  ∀ (x : Access) (t : Thread) (f : Fields) (base : Int) (n : Nat) (usesB usesZ : Bool)
    (g : Nat → Int → PWord → PWord → LaneAcc × Bool),
    let ea := fun (l : Nat) => base + (t.aW f l).w.toInt * n
    let lane := fun (l : Nat) => g l (ea l) (t.bW f l) (t.zW l)
    let pois := fun (l : Nat) => (t.aW f l).pois || (usesB && (t.bW f l).pois) || (usesZ && (t.zW l).pois) || (lane l).2
    let bad : Nat → Option Nat := fun l =>
      if pois l then some 0 else if ea l < -(2 ^ 56) ∨ 2 ^ 56 ≤ ea l then some 1 else if ea l % n ≠ 0 then some 2 else none
    let y := x.fill t f base n usesB usesZ g
    (x.op ≠ .prf → y.lanes = x.lanes ++ t.selLanes.map (fun l =>
          if bad l = none then (lane l).1 else { (lane l).1 with st := .done, pois := true })
      ∧ y.fails = x.fails ++ t.selLanes.filterMap (fun l => (bad l).map (fun r => ((lane l).1.lane, r))))
    ∧ (x.op = .prf → y.lanes = x.lanes ++ (t.selLanes.filter (fun l => bad l = none)).map (fun l => (lane l).1) ∧ y.fails = x.fails)
    ∧ (∀ l, l ∉ t.selLanes → ∀ m ∈ y.lanes, m ∈ x.lanes ∨ ∃ k ∈ t.selLanes, m.lane = (lane k).1.lane)

/-- R243 to R256: an access whose lane translates to a home slice is on its way: it is listed under a fresh number,
its thread's counter is one higher, but for a store at `.gang`, and its load targets are pending, and the lane's arrival is
what comes next.
R256, R248, R258, R259: the loads, stores, prefetch and atomics issue their access as R243 builds it and
complete: a load and an atomic leave A or B in `v` and their targets to the returning data; a store's result is
B. R77: what is B is poisoned where an operand is. An access of sequential order waits for the thread's earlier one. -/
def Obligations.MemoryInstructionResults : Prop :=
  (
  ∀ (s : State) (u : Nat) (t : Thread) (x : Access) (m : LaneAcc) (pa repl n : Nat), s.thr? u = some t →
    x.lanes = [m] → m.st = .walk → x.fails = [] → x.op.isLdmc = false →
    -- a store at `.gang` has performed as it issues (R268)
    let gang := x.plainStore && x.scope == 0
    (gang = true → t.stat ≠ .wait) →
    let s1 := ((s.bump).modThr u (fun t =>
      let t := match x.op.counter with | none => t | some c => t.addCtr c
      { t with seq := t.seq + 1, pend := t.pend ++ x.targets.map (fun r => (r, s.fresh)) })).setAcc s.fresh { x with uid := u }
    s1.xlate x.who.part x.who.ag.site m.ea x.op.writes (64 * s.fresh + m.lane) = .ok pa repl → s1.place pa = .slice n →
    let b := s.issueAcc u x
    (∃ y, b.acc? s.fresh = some y ∧ y.uid = u ∧ y.op = x.op ∧ y.lanes = [{ m with pa := pa, repl := repl, st := .todo }])
    ∧ b.agenda = s.agenda ++ [.ev x.event { a := s.fresh, b := m.lane }]
    ∧ (∃ k, b.thr? u = some k ∧ k.seq = t.seq + 1 ∧ k.pend = t.pend ++ x.targets.map (fun r => (r, s.fresh))
        ∧ k.lanes = t.lanes ∧ k.ip = t.ip ∧ k.ending = t.ending
        ∧ (x.op.counter = some .ld → k.nld = t.nld + 1 ∧ k.nst = t.nst)
        ∧ (x.op.counter = some .st → k.nst = (if gang then t.nst else t.nst + 1) ∧ k.nld = t.nld))
    ∧ b.mem = s.mem ∧ b.sites = s.sites ∧ b.cells = s.cells ∧ b.parts = s.parts ∧ (∀ w, w ≠ u → b.thr? w = s.thr? w))
  ∧ (
  ∀ (s : State) (u : Nat) (t : Thread) (f : Fields),
    let n := if fld f.lit 5 3 ≤ 1 then 1 else if fld f.lit 5 3 ≤ 3 then 2 else if fld f.lit 5 3 = 4 then 4 else 8
    let A := some ((List.range t.width).map (t.aW f))
    let B := some ((List.range t.width).map (fun l => ⟨(t.bW f l).w, (t.aW f l).pois || (t.bW f l).pois⟩))
    let Bz := some ((List.range t.width).map (fun l => ⟨(t.bW f l).w, (t.aW f l).pois || (t.bW f l).pois || (t.zW l).pois⟩))
    let regs := (match f.dst1 with | .reg r => [r] | _ => []) ++ (match f.dst2 with | .reg r => [r] | _ => [])
    let acc := fun (opc : Nat) (op : AccOp) (n : Nat) (usesB usesZ : Bool) (targets : List Reg)
        (g : Nat → Int → PWord → PWord → LaneAcc × Bool) =>
      s.issueAcc u (({ t.access op opc f.lit (some (fld f.lit 3 2)) (fld f.lit 8 3) (fld f.lit 11 3) targets with
        noalloc := fld f.lit 14 2 == 1 } : Access).fill t f (tgetD (s.cell t.src).bases (fld f.lit 0 3) 0).toInt n usesB usesZ g)
    let read := fun (n : Nat) (l : Nat) (ea : Int) (_ _ : PWord) => (LaneAcc.new l ea n [] [] 0, false)
    let write := fun (n : Nat) (l : Nat) (ea : Int) (b z : PWord) => (LaneAcc.new l ea n (leBytes n b.w.toNat) (List.replicate n true) z.w, false)
    let does := fun (i : Instr) (b : State) (e : Eff) =>
      (s.scHeld u (fld f.lit 8 3) = true → exec i s = .next s)
      ∧ (s.scHeld u (fld f.lit 8 3) = false → ∀ k, b.thr? u = some k → k.ending = false → Room s b t k f e → Performs i s u f b k e)
    (Issues s u t f { opc := 0xA0, b := false, ctr := some .ld, counts := Thread.anyLane } →
      does (.ld f) (acc 0xA0 (.ld (fld f.lit 5 3 == 1 || fld f.lit 5 3 == 3)) n false false regs (read n)) { v := A, load := true })
    ∧ (Issues s u t f { opc := 0xA1, ctr := some .st, counts := Thread.anyLane } →
      does (.st f) (acc 0xA1 .st n true false [] (fun l ea b _ =>
        (LaneAcc.new l ea n (leBytes n b.w.toNat) (List.replicate n true) 0, false))) { v := B })
    ∧ (Issues s u t f { opc := 0xA9, ctr := some .st, counts := Thread.anyLane } →
      does (.stm f) (acc 0xA9 .stm 4 true true [] (fun l ea b z =>
        (LaneAcc.new l ea 4 (leBytes 4 b.w.toNat) ((List.range 4).map (fun j => z.w.getLsbD j)) 0, false))) { v := Bz })
    ∧ (Issues s u t f { opc := 0xA4, b := false } →
      let b := acc 0xA4 .prf 4 false false [] (read 4)
      ∀ k, b.thr? u = some k → k.ending = false → Room s b t k f { v := A } → Performs (.prf f) s u f b k { v := A })
    ∧ (∀ x ∈ [(Instr.aadd, 0xB0, AtKind.add, false), (.amin, 0xB1, .min (fld f.lit 16 4 % 2 == 1), false),
          (.amax, 0xB2, .max (fld f.lit 16 4 % 2 == 1), false), (.aand, 0xB3, .and, false), (.aor, 0xB4, .or, false),
          (.axor, 0xB5, .xor, false), (.axchg, 0xB6, .xchg, false), (.acas, 0xB7, .cas, true),
          (.afadd, 0xB8, .fadd (fld f.lit 16 4 % 4), false)],
      Issues s u t f { opc := x.2.1, ctr := some .st, counts := Thread.anyLane } →
      does (x.1 f) (acc x.2.1 (.atomic x.2.2.1) 4 true x.2.2.2 regs (write 4)) { v := if x.2.2.2 then Bz else B, load := true })
    ∧ (Issues s u t f { opc := 0xB9, ctr := some .st, counts := Thread.anyLane } →
      does (.atri f) (acc 0xB9 (.atomic .tri) 8 true true [] (fun l ea b z =>
        (LaneAcc.new l ea 8 (leBytes 8 (b.w.toNat + z.w.toNat * 2 ^ 32)) (List.replicate 8 true) z.w,
         (tri64 (b.w.toNat + z.w.toNat * 2 ^ 32)).2))) { v := Bz }))

/-- R258, R259: what each atomic leaves at its address, from the old word, B and z. -/
def Obligations.AtomicOperations : Prop :=
  (∀ x y z : Word,
    let o := x.toNat
    let b := y.toNat
    AtKind.add.apply o b z.toNat = (o + b) % 2 ^ 32
    ∧ (AtKind.min true).apply o b z.toNat = min o b ∧ (AtKind.max true).apply o b z.toNat = max o b
    ∧ w32 ((AtKind.min false).apply o b z.toNat) = wrap32 (min x.toInt y.toInt)
    ∧ w32 ((AtKind.max false).apply o b z.toNat) = wrap32 (max x.toInt y.toInt)
    ∧ AtKind.and.apply o b z.toNat = (x &&& y).toNat ∧ AtKind.or.apply o b z.toNat = (x ||| y).toNat
    ∧ AtKind.xor.apply o b z.toNat = (x ^^^ y).toNat ∧ AtKind.xchg.apply o b z.toNat = b
    ∧ AtKind.cas.apply o b z.toNat = (if x = z then b else o)
    ∧ ∀ m, (AtKind.fadd m).apply o b z.toNat = (rnd32 m ((F x).add m (F y))).toNat)
  ∧ (∀ m n : Int, ∀ z, AtKind.tri.apply ((Tri.ofInt m).store false) ((Tri.ofInt n).store false) z = (Tri.ofInt (m + n)).store false)
  ∧ (∀ m n : Int, ∀ z, AtKind.tri.apply ((Tri.ofInt m).store true) ((Tri.ofInt n).store false) z = (Tri.ofInt m).store true)

/-- R247: STBAR makes later accesses of the held streams wait for the earlier unperformed ones of the awaited
streams at its scope; with nothing to wait for it only drops what has performed. Its result is `v`.
R285 to R289: FENCE takes the lowest free entry of its cell's table, with the accesses it covers and a new
generation, and returns its word with `p` set, or 0 with `p` clear where the table is full. FWAIT of an entry
whose accesses have performed frees it, returning 1 with `p` set, or 3 with `p` clear where one of them faulted;
of any other word it returns 0 with `p` clear; else it waits. -/
def Obligations.BarrierAndFenceResults : Prop :=
  (
  ∀ (s : State) (u : Nat) (t : Thread) (f : Fields), Issues s u t f { opc := 0xA6, a := false, b := false } → t.selLanes ≠ [] →
    let scope := fld f.lit 8 3
    let accs := (s.accs.filter (fun e => e.2.uid == u && e.2.op != .prf
      && (match e.2.stream with | none => false | some j => f.lit.getLsbD (4 + j) && decide (j < 4)) && !s.accDone e.2 scope)).map (fun e => e.1)
    let live := t.stgates.filter (fun g => g.accs.any (fun a => !s.performed a g.scope))
    let gates := if fld f.lit 0 4 = 0 ∨ accs = [] then live else live ++ [⟨BitVec.ofNat 4 (fld f.lit 0 4), accs, scope⟩]
    let k : Thread := { t with stgates := gates }
    let e : Eff := .val ((List.range t.width).map t.zW)
    Room s (s.setThr u k) t k f e → Performs (.stbar f) s u f (s.setThr u k) k e)
  ∧ (
  ∀ (s : State) (u : Nat) (t : Thread) (f : Fields),
    let c := s.cell t.src
    let out := fun (w : PWord) (p : Bool) => ({ v := some (List.replicate t.width w), p := some (List.replicate t.width p) } : Eff)
    (Issues s u t f { opc := 0xBA, a := false, b := false } → t.selLanes ≠ [] →
      ((∀ n, n < 16 → ∃ e, tget c.fences n = some e ∧ e.owner ≠ none) → Room s s t t f (out .zero false) →
        Performs (.fence f) s u f s t (out .zero false))
      ∧ (∀ n, n < 16 → (tgetD c.fences n FenceEnt.reset).owner = none →
          (∀ j, j < n → (tgetD c.fences j FenceEnt.reset).owner ≠ none) →
        let g := (tgetD c.fences n FenceEnt.reset).gen + 1
        let b := s.setCell t.src { c with fences := tset c.fences n { s.fenceSet u t f.lit with gen := g } }
        let e := out ⟨w32 (t.src.cell * 2 ^ 16 + g.toNat * 2 ^ 4 + n), false⟩ true
        Room s b t t f e → Performs (.fence f) s u f b t e))
    ∧ (Issues s u t f { opc := 0xBB } →
      let a := t.a0 f
      let T := t.b0 f
      let n := fld a.w 0 4
      let named := ∃ e, tget c.fences n = some e ∧ e.owner = some u ∧ a.w ≠ 0 ∧ a.w = w32 (t.src.cell * 2 ^ 16 + e.gen.toNat * 2 ^ 4 + n)
      (a.pois = true → Room s s t t f (out ⟨0, true⟩ false) → Performs (.fwait f) s u f s t (out ⟨0, true⟩ false))
      ∧ (a.pois = false → ¬named → Room s s t t f (out .zero false) → Performs (.fwait f) s u f s t (out .zero false))
      ∧ (∀ e, a.pois = false → a.w ≠ 0 → tget c.fences n = some e → e.owner = some u →
          a.w = w32 (t.src.cell * 2 ^ 16 + e.gen.toNat * 2 ^ 4 + n) →
        (s.fenceDone t.src.site e = true →
          let b := s.setCell t.src { c with fences := tset c.fences n { e with owner := none } }
          let r := if e.faulted then out ⟨3, false⟩ false else out ⟨1, false⟩ true
          Room s b t t f r → Performs (.fwait f) s u f b t r)
        ∧ (s.fenceDone t.src.site e = false → T.pois = true ∨ T.w = 0 → Room s s t t f (out .zero false) →
            Performs (.fwait f) s u f s t (out .zero false))
        ∧ (s.fenceDone t.src.site e = false → T.pois = false → T.w ≠ 0 →
          let dl := if T.w = 0xFFFFFFFF then none else some (s.work t.part + T.w.toNat)
          let k := t.waiting (.fence n) dl f 0xBB
          let b1 := s.setThr u k
          let b := if dl.isSome then b1.postEv .waitExpiry { a := u } else b1
          RoomLate s b t k f → Parks (.fwait f) s u b k .wait))))

/-! ## Events of accesses, replicas, walks -/

/-- R252, R291, R294, R298, R301: a read lane performs at its home slice, or at its nearest die's replica: the lane
takes the bytes of memory, or of the replica, and nothing is written. A replica's hit counts as a read of its region
from that die and as a hit of the slice that keeps it.
R268, R296, R258: a store lane, and an atomic lane with no lower lane of its line left, perform at the home
slice: memory takes the masked bytes, or the atomic's result on the old ones, and no other byte changes; every
replica of the line is sent a collapse, and the line holds none. -/
def Obligations.AccessesPerform : Prop :=
  (
  ∀ (s : State) (x : Access) (m : LaneAcc), s.acc? s.subj.a = some x → x.lane? s.subj.b = some m → m.st = .todo →
    s.mayPerform x m = true → x.op.counter = some .ld → x.retired = false → x.fails = [] →
    let a := s.subj.a
    let reads := fun (s' : State) (bs : List Byte) =>
      (∃ y, s'.acc? a = some y ∧ y.lane? s.subj.b = some { m with st := .done, got := bs, pois := false, acks := [] }) ∧ s'.mem = s.mem
    ((∃ n, s.place m.pa = .slice n) → s.l1Hit x m.pa = none → (tget s.coh.lines (lineOf m.pa)).isSome = true →
      s.badAt m.pa m.size = false → x.replicable = false →
      ∃ s', exec .sliceRead s = .next s' ∧ reads s' (rdN s.mem m.pa m.size))
    ∧ (x.replicable = true → nearest (dieOf x.who.ag.site) ≠ memDie m.pa → (∃ n, s.place m.pa = .slice n) →
      ∀ r, tget s.coh.replicas (nearest (dieOf x.who.ag.site), lineOf m.pa) = some r →
      (∀ b ∈ r.bad, b < m.pa ∨ m.pa + m.size ≤ b) →
      (∀ c ∈ s.coh.colls, c.die = nearest (dieOf x.who.ag.site) → c.line ≠ lineOf m.pa) →
      ∀ g, tget s.coh.regs (memDie m.pa, regionOf m.pa) = some g →
      let near := nearest (dieOf x.who.ag.site)
      let n := s.replicaSlice near (lineOf m.pa)
      ∃ s' h, exec .replicaRead s = .next s' ∧ reads s' ((r.bytes.drop (m.pa % 128)).take m.size)
        ∧ tget s'.coh.regs (memDie m.pa, regionOf m.pa) = some h ∧ tgetD h.reads near 0 = tgetD g.reads near 0 + 1
        ∧ (∀ d, d ≠ near → tgetD h.reads d 0 = tgetD g.reads d 0) ∧ h.degree = g.degree ∧ h.holders = g.holders
        ∧ (s'.slice n).rhit = (s.slice n).rhit + 1))
  ∧ (
  ∀ (s : State) (x : Access) (m : LaneAcc), s.acc? s.subj.a = some x → x.lane? s.subj.b = some m → m.st = .todo →
    s.mayPerform x m = true → (∃ n, s.place m.pa = .slice n) → ∀ ln, tget s.coh.lines (lineOf m.pa) = some ln →
    s.queuesIn s.mem (lineOf m.pa) = [] → x.fails = [] →
    (∀ o ∈ x.lanes, x.op.isAtomic = true → o.lane < m.lane → o.placed = true → lineOf o.pa = lineOf m.pa → o.st = .done) ∧
    let sends := fun (s' : State) =>
      (∃ l', tget s'.coh.lines (lineOf m.pa) = some l' ∧ l'.holders = [] ∧ l'.dirty = true)
      ∧ ∀ h ∈ ln.holders, ∃ c ∈ s'.coh.colls, c.die = h ∧ c.line = lineOf m.pa ∧ c.arrived = false
    ((x.op = .st ∨ x.op = .stm) →
      ∃ s', exec .writePerform s = .next s' ∧ s'.mem = wrMasked s.mem m.pa m.bytes m.mask ∧ sends s')
    ∧ (∀ k, x.op = .atomic k → s.badAt m.pa m.size = false →
      let old := rdN s.mem m.pa m.size
      let new := leBytes m.size (k.apply (leNat old) (leNat m.bytes) m.z.toNat)
      ∃ s' y, exec .atomicPerform s = .next s' ∧ s'.mem = wrMasked s.mem m.pa new (new.map (fun _ => true)) ∧ sends s'
        ∧ (x.retired = false → s'.acc? s.subj.a = some y ∧ ∃ o, y.lane? s.subj.b = some o ∧ o.st = .done ∧ o.got = old)))

/-- R294 to R300: a fill waits for the earlier fills of its line to its holder, and then becomes the replica there, or is
dropped after a crossing collapse; a collapse takes its holder's replica, crosses the earlier fills of its line there
and is acknowledged; an acknowledged collapse is owed no longer; an evicted replica leaves the line's holders, unless
another fill is on its way there; none of them changes memory.
R298: a region window that has not ended waits; one that has ended steps every tracked region of its die, and the next
window is 65,536 cycles long. An unpinned region with more candidates than its degree and at least 8 reads to each
collapse takes the candidate non-holder with the most reads, on a tie the lower die; one with fewer than 2 reads to each
collapse loses the holder with the fewest, on a tie the higher die, where every replica of the region collapses; any
other keeps its degree; every region's counts return to zero. -/
def Obligations.ReplicaEvents : Prop :=
  (
  ∀ (s : State),
    (∀ k, tget s.coh.fills s.subj.a = some k →
      let waits := ∃ e ∈ s.coh.fills, e.1 < s.subj.a ∧ e.2.die = k.die ∧ e.2.line = k.line
      (waits → exec .replicaFill s = .next (s.postEv .replicaFill { a := s.subj.a }))
      ∧ (¬waits → ∃ s', exec .replicaFill s = .next s' ∧ s'.mem = s.mem ∧ tget s'.coh.fills s.subj.a = none
        ∧ (k.discard = false → tget s'.coh.replicas (k.die, k.line) = some ⟨s.subj.a, k.bytes, k.bad⟩)
        ∧ (k.discard = true → s'.coh.replicas = s.coh.replicas)))
    ∧ (∀ c ∈ s.coh.colls, c.id = s.subj.c → s.linkAsleep (12 + memDie (s.subj.b * 128)) (12 + s.subj.a) = false →
      ∃ s', exec .collapse s = .next s' ∧ s'.mem = s.mem
        ∧ (∀ d ∈ s'.coh.colls, d.id = s.subj.c → d.arrived = true)
        ∧ tget s'.coh.replicas (s.subj.a, s.subj.b) = none
        ∧ (∀ n k, tget s.coh.fills n = some k → tget s'.coh.fills n = some
            { k with discard := k.discard || decide (k.die = s.subj.a ∧ k.line = s.subj.b ∧ n < s.subj.c) })
        ∧ s'.agenda = s.agenda ++ [.ev .collapseAcknowledge { a := s.subj.a, b := s.subj.b, c := s.subj.c }])
    ∧ (∃ s', exec .collapseAcknowledge s = .next s' ∧ ∀ d ∈ s'.coh.colls, d.id ≠ s.subj.c)
    ∧ (∀ r, tget s.coh.replicas (s.subj.a, s.subj.b) = some r →
      ∃ s', exec .replicaEvict s = .next s' ∧ s'.mem = s.mem ∧ tget s'.coh.replicas (s.subj.a, s.subj.b) = none
        ∧ ∀ ln, tget s.coh.lines s.subj.b = some ln →
            let flies := ∃ e ∈ s.coh.fills, e.2.die = s.subj.a ∧ e.2.line = s.subj.b ∧ e.2.discard = false
            (flies → tget s'.coh.lines s.subj.b = some ln)
            ∧ (¬flies → tget s'.coh.lines s.subj.b = some { ln with holders := ln.holders.filter (fun d => d ≠ s.subj.a) })))
  ∧ (
  ∀ (s : State),
    (s.cycle < s.subj.b → exec .regionWindow s = .next (s.postEv .regionWindow s.subj))
    ∧ (s.subj.b ≤ s.cycle → ∃ s', exec .regionWindow s = .next s' ∧ s'.mem = s.mem
        ∧ Act.ev .regionWindow { a := s.subj.a, b := s.subj.b + 65536 } ∈ s'.agenda
        ∧ (∀ rg r, tget s'.coh.regs (s.subj.a, rg) = some r → r.reads = [] ∧ r.colls = 0)
        ∧ ∀ rg r, tget s.coh.regs (s.subj.a, rg) = some r → (s.coh.regs.map (fun e => e.1)).Nodup →
          let n := fun (d : Nat) => tgetD r.reads d 0
          let all := (r.reads.map (fun e => e.2)).foldl (· + ·) 0
          let cands := (s.candDies s.subj.a rg).filter (fun d => 64 ≤ n d)
          let becomes := fun (degree : Nat) (holders : List Nat) =>
            tget s'.coh.regs (s.subj.a, rg) = some { r with degree := degree, holders := holders, reads := [], colls := 0 }
          let raises := r.pinned = false ∧ r.degree < cands.length ∧ 8 * r.colls ≤ all
          let lowers := r.pinned = false ∧ ¬raises ∧ 0 < r.degree ∧ all < 2 * r.colls
          (raises → ∀ d ∈ cands, d ∉ r.holders → (∀ e ∈ cands, e ∉ r.holders → n e ≤ n d ∧ (e < d → n e < n d)) →
            becomes (r.degree + 1) (r.holders ++ [d]))
          ∧ (lowers → ∀ d ∈ r.holders, d < 4 → (∀ e ∈ r.holders, e < 4 → n d ≤ n e ∧ (d < e → n d < n e)) →
            becomes (r.degree - 1) (r.holders.filter (fun e => e ≠ d))
            ∧ ∀ l ∈ s.coh.lines, memDie (l.1 * 128) = s.subj.a → regionOf (l.1 * 128) = rg → d ∈ l.2.holders →
              ∃ c ∈ s'.coh.colls, c.die = d ∧ c.line = l.1)
          ∧ (¬raises → ¬lowers → becomes r.degree r.holders))
    ∧ ∀ die rg d, d ∈ s.candDies die rg ↔ d < 4 ∧ d ≠ die ∧ ∃ k ∈ s.regDoms die rg, (s.dom d k).slices ≠ 0)

/-- R312, R309, R310: a walk that ends at a leaf that allows the access enters the leaf in the first-level TLB of its
agent and the second-level TLB of its die and sends the lane to its address; a walk that meets an entry that is not valid parks the lane, and the
replayable "translation miss" record of its page is taken unless one is awaited.
R249, R250, R256: the data of a load returns: each of its lanes' targets take the bytes, sign-extended for a signed
size, or zero poisoned where the lane failed; the registers and the counter are released. -/
def Obligations.WalksAndReturns : Prop :=
  (
  ∀ (s : State) (x : Access) (m : LaneAcc), s.acc? s.subj.a = some x → x.lane? s.subj.b = some m → m.st = .walk →
    s.xlate x.who.part x.who.ag.site m.ea x.op.writes (64 * s.subj.a + s.subj.b) = .walk →
    s.walkHeld x.who.part x.who.ag.site m.ea = false →
    (∀ e pa repl n, s.walk x.who.part x.who.ag.site m.ea = some e → e.use m.ea x.op.writes = .ok pa repl →
      s.place pa = .slice n → x.op.isLdmc = false →
      ∃ s' y, exec .pageWalk s = .next s' ∧ s'.mem = s.mem
        ∧ s'.acc? s.subj.a = some y ∧ y.lane? s.subj.b = some { m with pa := pa, repl := repl, st := .todo }
        ∧ (isTile x.who.ag.site = true ∨ isElem x.who.ag.site = true → (tgetD s'.coh.tlb1 x.who.ag.site []).head? = some e)
        ∧ (tgetD s'.coh.tlb2 (dieOf x.who.ag.site) []).head? = some e
        ∧ s'.agenda = s.agenda ++ [.ev x.event { a := s.subj.a, b := s.subj.b }])
    ∧ (s.walk x.who.part x.who.ag.site m.ea = none → x.op ≠ .prf → x.who.part ≠ 16 →
      let s1 := s.modLane s.subj.a s.subj.b (fun m => { m with st := .parked })
      (s.pageRecorded x.who.part (pageOf m.ea) (dieOf x.who.ag.site) 1 = true → exec .pageWalk s = .next s1)
      ∧ (s.pageRecorded x.who.part (pageOf m.ea) (dieOf x.who.ag.site) 1 = false →
          exec .pageWalk s = .next (s1.raise x.who 0x0001 (x.who.details 0 [])
            (some (.page (pageOf m.ea) (dieOf x.who.ag.site))) m.ea))))
  ∧ (
  ∀ (s : State) (x : Access) (t : Thread) (sg : Bool), s.acc? s.subj.a = some x → s.thr? x.uid = some t → x.uid ≠ 0 →
    x.op = .ld sg → x.retired = false → x.isResolve = false → s.returns s.subj.a x = true → x.fails = [] →
    ∃ s' k, exec .loadDataReturn s = .next s' ∧ s'.thr? x.uid = some k ∧ s'.mem = s.mem
      ∧ k.nld = t.nld - 1 ∧ k.nst = t.nst ∧ k.ip = t.ip ∧ k.pend = t.pend.filter (fun e => e.2 ≠ s.subj.a)
      ∧ k.lanes.length = t.lanes.length
      ∧ ∀ (l : Nat) (y : Lane), t.lanes[l]? = some y →
          (x.lane? l = none → k.lanes[l]? = some y)
          ∧ ∀ m, x.lane? l = some m →
              let n : Nat := leNat m.got
              let w : PWord := if m.pois then ⟨0, true⟩
                else ⟨if sg && decide (2 ^ (8 * m.got.length - 1) ≤ n) then wrap32 ((n : Int) - (2 ^ (8 * m.got.length) : Nat)) else w32 n, false⟩
              k.lanes[l]? = some (x.targets.foldl (fun y r => y.setReg r w) y))

/-! ## Multicast loads and guyline chains -/

/-- R257: LDMC names tiles by its mask, die and half, and lines by its count from A's address; with a tile of the
partition among them and every line in range and aligned it issues one access of all its lines, whose request
then leaves; with none it does nothing further. R77, R243: a poisoned operand poisons its result, and its access fails.
R302 to R304, R420, R421: a request that no earlier one serves waits to be read; its slice reads its next line as
memory holds it; the read line leaves for every tile that wants it, and its merge window will close; the line is
then in that tile's first-level cache as it was sent; a closed window's buffer is gone. That the tile keeps there what it
has itself written or read of the line since the slice read it is the model's choice (log 31). -/
def Obligations.MulticastLoads : Prop :=
  (
  ∀ (s : State) (u : Nat) (t : Thread) (f : Fields), Issues s u t f { opc := 0xA5, ctr := some .ld, counts := Thread.anyLane } →
    t.selLanes ≠ [] → s.scHeld u (fld f.lit 8 3) = false →
    let z := t.z0.w
    let tiles := ((List.range 32).filter (fun i => (t.b0 f).w.getLsbD i)).map (fun i =>
      fld z 29 3 * 64 + (4 * fld z 28 1 + i / 8) * 8 + i % 8)
    let n := fld z 22 6 + 1
    let ea := (tgetD (s.cell t.src).bases (fld f.lit 0 3) 0).toInt + (t.a0 f).w.toInt * 4
    let op : AccOp := .ldmc (t.b0 f).w.toNat (fld z 29 3) (bit z 28) n (fld z 16 6) (fld z 0 16)
    let none : Access := t.access op 0xA5 f.lit (some (fld f.lit 3 2)) (fld f.lit 8 3) (fld f.lit 11 3) []
    let x : Access := { none with
                        lanes := (List.range n).map (fun i => LaneAcc.new i (ea + (128 * i : Nat)) 128 [] [] 0) }
    let e : Eff := .val ((List.range t.width).map (t.aW f))
    ((t.a0 f).pois = true ∨ (t.b0 f).pois = true ∨ t.z0.pois = true →
      let b := (s.issueAcc u (none.mcFill true ea n)).postEv .ldmcRequestArrival { a := s.fresh }
      let e : Eff := .val ((List.range t.width).map (fun l => ⟨(t.aW f l).w, true⟩))
      ∀ k, b.thr? u = some k → k.ending = false → Room s b t k f e → Performs (.ldmc f) s u f b k e)
    ∧ ((t.a0 f).pois = false → (t.b0 f).pois = false → t.z0.pois = false →
    (∀ d ∈ tiles, s.owns t.part (.tile d) = true) → ea % 128 = 0 → -(2 ^ 56) ≤ ea → ea + (128 * n : Nat) ≤ 2 ^ 56 →
    (tiles = [] → Room s s t t f e → Performs (.ldmc f) s u f s t e)
    ∧ (tiles ≠ [] →
      let b := (s.issueAcc u x).postEv .ldmcRequestArrival { a := s.fresh }
      ∀ k, b.thr? u = some k → k.ending = false → Room s b t k f e → Performs (.ldmc f) s u f b k e)))
  ∧ (
  ∀ (s : State),
    (∀ x mask die h n sem inc v, s.acc? s.subj.a = some x → x.op = .ldmc mask die h n sem inc → x.retired = false →
      s.subj.c = 1 → tget s.coh.mc s.subj.b = some v → (∀ e ∈ s.coh.mc, e.1 = s.subj.b) → v.lines ≠ [] → v.slice ≠ 64 →
      s.coh.switch = none → s.acc? v.acc = none →
      ∃ s', exec .ldmcRequestArrival s = .next s' ∧ s'.mem = s.mem
        ∧ tget s'.coh.mc s.subj.b = some { v with arrived := true, order := s.tick, want := v.lines.map (fun _ => v.want.headD []) }
        ∧ s'.agenda = s.agenda ++ [.ev .ldmcLineRead { a := s.subj.b }])
    ∧ (∀ v x, tget s.coh.mc s.subj.a = some v → v.next < v.lines.length → v.slice = 64 ∨ (12 + v.slice / 16) ∉ s.coh.lost →
      let line := v.lines.getD v.next 0
      (v.read = false → s.mcTurn s.subj.a v = true → s.acc? v.acc = some x → v.slice ≠ 64 → (tget s.coh.lines line).isSome = true →
        s.badAt (line * 128) 128 = false →
        ∃ s', exec .ldmcLineRead s = .next s' ∧ s'.mem = s.mem
          ∧ tget s'.coh.mc s.subj.a = some { v with
              read := true, windows := v.windows ++ [v.next], buf := tset v.buf v.next (rdN s.mem (line * 128) 128) }
          ∧ s'.agenda = s.agenda ++ [.ev .ldmcLineRead { a := s.subj.a }])
      ∧ (v.read = true → ∃ s', exec .ldmcLineRead s = .next s' ∧ s'.mem = s.mem
          ∧ (∃ v', tget s'.coh.mc s.subj.a = some v' ∧ v'.next = v.next + 1 ∧ v'.read = false
              ∧ ∀ w ∈ v.want.getD v.next [], ∃ r ∈ v'.replies, r.tile = w.2 ∧ r.line = line ∧ r.bytes = tgetD v.buf v.next []
                  ∧ w.1 ∈ r.accs)
          ∧ (∀ w ∈ v.want.getD v.next [], Act.ev .ldmcReplyArrival { a := s.subj.a, b := w.2 } ∈ s'.agenda)
          ∧ Act.ev .mergeWindowClose { a := s.subj.a, b := v.next } ∈ s'.agenda))
    ∧ (∀ v r, tget s.coh.mc s.subj.a = some v → v.replies.find? (fun r => r.tile = s.subj.b) = some r →
        (∀ inv, s.away (.tile s.subj.b) inv = false) → r.bytes ≠ [] → (∀ a ∈ r.accs, s.acc? a = none) →
        ∃ s', exec .ldmcReplyArrival s = .next s' ∧ s'.mem = s.mem
          ∧ let newer := v.own.filter (fun o => o.1 = r.tile ∧ lineOf o.2.1 = r.line)
            tget s'.coh.l1 (.tile s.subj.b, r.line)
              = some (newer.foldl (fun bs o => patch bs (o.2.1 % 128) o.2.2.1 o.2.2.2) r.bytes))
    ∧ (∀ v, tget s.coh.mc s.subj.a = some v → v.next < v.lines.length →
        ∃ s', exec .mergeWindowClose s = .next s' ∧ tget s'.coh.mc s.subj.a =
          some { v with windows := v.windows.filter (fun i => i ≠ s.subj.b), buf := tdel v.buf s.subj.b }))

/-- R261, R256: LDC and STC send one access of all their lanes, with its wave, own, predecessor and successor
numbers, to its chain's home; a poisoned handle sends none and poisons the result, and of LDC its load targets too, with
zero. R264, R260: CHNOPN takes the lowest chain number that is not open, at the home its handle gives, and returns the
handle with `p` set; with the home's shares spent it fails. CHNCLS of an open chain that is not closing sends its
close with its last access and semaphore; any other handle, and one of a chain that a close has reached or is on its way
to, raises the "chain" fault with reason 2, and so does a poisoned operand, which poisons the result. That the own,
predecessor and successor bytes of a close's record are zero is the model's choice (log 50). -/
def Obligations.ChainInstructionResults : Prop :=
  (
  ∀ (s : State) (u : Nat) (t : Thread) (f : Fields),
    let h := t.b0 f
    let regs := (match f.dst1 with | .reg r => [r] | _ => []) ++ (match f.dst2 with | .reg r => [r] | _ => [])
    let ref : ChainRef := { handle := h.w, own := fld f.lit 0 8, pred := fld f.lit 8 8, succ := fld f.lit 16 8,
                            arrived := false, released := false, active := false }
    let ea := fun (l : Nat) => (tgetD (s.cell t.src).bases (fld f.lit 24 3) 0).toInt + (t.aW f l).w.toInt * 4
    (Issues s u t f { opc := 0xA2, ctr := some .ld, counts := fun t => !(t.b0 f).pois && t.anyLane } → h.pois = false → t.selLanes ≠ [] →
      let x : Access := { t.access (.ld false) 0xA2 f.lit none 0 0 regs with
        uid := u, chain := some ref,
        lanes := t.selLanes.map (fun l => { LaneAcc.new l (ea l) 4 [] [] 0 with pois := (t.aW f l).pois }) }
      let k : Thread := { t with nld := t.nld + 1, seq := t.seq + 1, pend := t.pend ++ regs.map (fun r => (r, s.fresh)) }
      let b := (((s.bump).setThr u k).setAcc s.fresh x).postEv .chainAccessArrival { a := s.fresh }
      let e : Eff := { v := some ((List.range t.width).map (t.aW f)), load := true }
      Room s b t k f e → Performs (.ldc f) s u f b k e)
    ∧ (Issues s u t f { opc := 0xA3, ctr := some .st, counts := fun t => !(t.b0 f).pois && t.anyLane } → h.pois = false → t.selLanes ≠ [] →
      let x : Access := { t.access .st 0xA3 f.lit none 0 0 [] with
        uid := u, chain := some ref,
        lanes := t.selLanes.map (fun l => { LaneAcc.new l (ea l) 4 (leBytes 4 (t.zW l).w.toNat) [true, true, true, true] 0 with
          pois := (t.aW f l).pois || (t.zW l).pois }) }
      let k : Thread := { t with nst := t.nst + 1, seq := t.seq + 1 }
      let b := (((s.bump).setThr u k).setAcc s.fresh x).postEv .chainAccessArrival { a := s.fresh }
      let e : Eff := .val ((List.range t.width).map t.zW)
      Room s b t k f e → Performs (.stc f) s u f b k e)
    ∧ (Issues s u t f { opc := 0xA2, ctr := some .ld, counts := fun t => !(t.b0 f).pois && t.anyLane } → h.pois = true →
      let k : Thread := { t with lanes := t.lanes.mapIdx (fun l x =>
        if t.selected l then regs.foldl (fun x r => x.setReg r ⟨0, true⟩) x else x) }
      let e : Eff := { v := some ((List.range t.width).map (fun l => ⟨(t.aW f l).w, true⟩)), load := true }
      Room s (s.setThr u k) t k f e → Performs (.ldc f) s u f (s.setThr u k) k e)
    ∧ (Issues s u t f { opc := 0xA3, ctr := some .st, counts := fun t => !(t.b0 f).pois && t.anyLane } → h.pois = true →
      let e : Eff := .val ((List.range t.width).map (fun l => ⟨(t.zW l).w, true⟩))
      Room s s t t f e → Performs (.stc f) s u f s t e))
  ∧ (
  ∀ (s : State) (u : Nat) (t : Thread) (f : Fields), t.selLanes ≠ [] →
    (Issues s u t f { opc := 0xA7, b := false } →
      let fail : Eff := { v := some (List.replicate t.width .zero), p := some (List.replicate t.width false) }
      let ea := (tgetD (s.cell t.src).bases (fld f.lit 0 3) 0).toInt + (t.a0 f).w.toInt * 4096
      let share := fld f.lit 6 7
      ((t.a0 f).pois = true → Room s s t t f fail → Performs (.chnopn f) s u f s t fail)
      ∧ ((t.a0 f).pois = false → s.saveHeld t f = false → s.saveCheck t ea = .ok → ∀ v n home, tget s.parts t.part = some v → n < 256 →
          (tgetD v.chains n Chain.reset).isOpen = false → (∀ j, j < n → (tgetD v.chains j Chain.reset).isOpen = true) →
          let c := tgetD v.chains n Chain.reset
          let h := w32 (c.gen.toNat * 2 ^ 8 + n)
          s.chainHome t.part h = some home →
          (512 < s.sharesOn home + share → Room s s t t f fail → Performs (.chnopn f) s u f s t fail)
          ∧ (s.sharesOn home + share ≤ 512 →
            let c' : Chain := { c with
                                       isOpen := true, scope := fld f.lit 3 3, share := share, save := ea, w := t.wave - 1, s := none,
                                       l := 254, held := [], released := [], home := home, closing := none, saved := false,
                                       stall := 0, who := none }
            let b := s.setPart t.part { v with chains := tset v.chains n c' }
            let e : Eff := { v := some (List.replicate t.width ⟨h, false⟩), p := some (List.replicate t.width true) }
            Room s b t t f e → Performs (.chnopn f) s u f b t e)))
    ∧ (Issues s u t f { opc := 0xA8 } →
      let a := t.a0 f
      let b := t.b0 f
      let z := t.z0
      let e : Eff := .val ((List.range t.width).map (t.aW f))
      let poisoned := a.pois = true ∨ b.pois = true ∨ bit f.lit 6 = true ∧ z.pois = true
      -- the "chain" fault with reason 2, with n entries held
      let refused := fun (n : Nat) (e : Eff) =>
        let ref : ChainRef := { handle := a.w, own := 0, pred := 0, succ := 0, arrived := false, released := false, active := false }
        let r := s.raise (t.who 0xA8) 0x0113 (chainDetails (t.who 0xA8) ref n 2)
        ∀ k, r.thr? u = some k → k.ending = false → Room s r t k f e → Performs (.chncls f) s u f r k e
      (s.chainOf t.part a.w = none → ¬poisoned → refused 0 e)
      ∧ (∀ n c, s.chainOf t.part a.w = some (n, c) → s.closing t.part a.w c = true → ¬poisoned → refused c.held.length e)
      ∧ (poisoned →
        let bad : Eff := .val ((List.range t.width).map (fun l => ⟨(t.aW f l).w, true⟩))
        (s.chainOf t.part a.w = none → refused 0 bad) ∧ ∀ n c, s.chainOf t.part a.w = some (n, c) → refused c.held.length bad)
      ∧ (∀ n c, ¬poisoned → s.chainOf t.part a.w = some (n, c) → s.closing t.part a.w c = false →
        let dest := if bit f.lit 6 then (Site.tile (fld z.w 0 9), s.owns t.part (.tile (fld z.w 0 9))) else (t.src.site, !isElem t.src.site)
        let m : CloseMsg := { part := t.part, handle := a.w, wave := BitVec.ofNat 16 (fld b.w 8 16), own := fld b.w 0 8,
                              site := dest.1, sem := fld f.lit 0 6, ok := dest.2, who := t.who 0xA8 }
        let s1 := ({ s with closes := tset s.closes s.fresh m }.bump).postEv .chainCloseArrival { a := s.fresh }
        Room s s1 t t f e → Performs (.chncls f) s u f s1 t e)))

/-- R261 to R264: an access that may follow the chain's last one is released and becomes it; one that may not is held
while the share has room, and is refused else, its refusal parking it with a replayable record; a repeated one is
dropped; a close that finds its last access performed frees the chain under the next generation. -/
def Obligations.ChainsAtTheHome : Prop :=
  ∀ (s : State),
    (∀ x r n c, s.acc? s.subj.a = some x → x.chain = some r → r.active = false → r.released = false → r.arrived = false →
      s.chainEarlier x r = false → s.chainOf x.who.part r.handle = some (n, c) → c.saved = false →
      let follows := (r.pred = 254 ∧ c.l = 254 ∧ x.who.wave = c.w + 1) ∨ (r.pred = 255 ∧ c.w = x.who.wave ∧ c.l = r.own)
        ∨ (r.pred ≠ 254 ∧ r.pred ≠ 255 ∧ c.w = x.who.wave ∧ c.s = some r.pred)
      let dup := (c.w = x.who.wave ∧ c.s = some r.own) ∨ ∃ b y q, b ∈ c.held ∧ s.acc? b = some y ∧ y.who.wave = x.who.wave
        ∧ y.chain = some q ∧ q.own = r.own
      (¬dup → follows → c.held = [] →
        ∃ s' c' y, exec .chainAccessArrival s = .next s' ∧ tget (s'.part x.who.part).chains n = some c'
          ∧ c'.w = x.who.wave ∧ c'.s = some r.own ∧ c'.l = r.succ ∧ c'.released = c.released ++ [s.subj.a] ∧ c'.held = []
          ∧ s'.acc? s.subj.a = some y ∧ y.scope = c.scope ∧ y.chain = some { r with arrived := true, released := true })
      ∧ (¬dup → ¬follows → c.held.length < c.share →
        ∃ s' c', exec .chainAccessArrival s = .next s' ∧ tget (s'.part x.who.part).chains n = some c'
          ∧ c'.held = c.held ++ [s.subj.a] ∧ c'.w = c.w ∧ c'.s = c.s ∧ c'.l = c.l)
      ∧ (¬dup → ¬follows → c.share ≤ c.held.length →
        ∃ s', exec .chainAccessArrival s = .next s' ∧ Act.ev .guylineOverflow { a := s.subj.a } ∈ s'.agenda ∧ s'.parts = s.parts)
      ∧ (dup → exec .chainAccessArrival s = .next (s.dropChainAcc s.subj.a x r c.held.length 1)))
    ∧ (∀ x r n c, s.acc? s.subj.a = some x → x.chain = some r → s.chainOf x.who.part r.handle = some (n, c) →
      exec .guylineOverflow s = .next ((s.modAcc s.subj.a (fun x => { x with lanes := x.lanes.map (fun m => { m with st := .parked }) })).raise
        x.who 0x0003 [w32 (r.own + r.pred * 2 ^ 8 + r.succ * 2 ^ 16 + (x.who.opc % 256) * 2 ^ 24), r.handle, tileid x.who.ag,
          w32 (x.who.ip % 256), w32 (x.who.frame.toNat * 4096), w32 (x.who.wave.toNat + c.held.length * 2 ^ 16)]
        (some (.guyline s.subj.a))))
    ∧ (∀ m n c, tget s.closes s.subj.a = some m → s.chainOf m.part m.handle = some (n, c) → c.saved = false →
      ∃ s' c', exec .chainCloseArrival s = .next s' ∧ tget s'.closes s.subj.a = none
        ∧ tget (s'.part m.part).chains n = some c' ∧ c'.closing = some (m.wave, m.own, m.site, m.sem, m.ok) ∧ c'.w = c.w ∧ c'.held = c.held
        ∧ s'.agenda = s.agenda ++ [.ev .chainCloseComplete { a := m.part, b := n }])
    ∧ (∀ c w own x sem ok, tget (s.part s.subj.a).chains s.subj.b = some c → c.closing = some (w, own, x, sem, ok) →
      (c.saved = true ∨ ¬(c.w = w ∧ c.s = some own ∧ ∀ a ∈ c.released, s.performed a c.scope = true) →
        exec .chainCloseComplete s = .next (s.postEv .chainCloseComplete { a := s.subj.a, b := s.subj.b }))
      ∧ (c.saved = false → c.w = w → c.s = some own → (∀ a ∈ c.released, s.performed a c.scope = true) → c.held = [] → ok = true →
        ∃ s' c', exec .chainCloseComplete s = .next s' ∧ tget (s'.part s.subj.a).chains s.subj.b = some c'
          ∧ c'.isOpen = false ∧ c'.gen = c.gen + 1 ∧ c'.share = 0
          ∧ (∃ o, tget s'.semOps s.fresh = some o ∧ o.site = x ∧ o.sem = sem ∧ o.val = 1 ∧ o.set = false)))

/-! ## Group 0xC: semaphores, package queues, copies, chains -/

/-- R229, R230, R231, R235: SEMI adds to its own tile's semaphore at once, or sends the addition behind the accesses
that it releases; SEMSET sets; SEMRD reads; RDZV takes its count where the semaphore has it, and waits or expires
else; the local forms on an element poison `v` and raise the "semaphore" fault.
R232, R239, R240, R241, R235: on a live queue whose descriptor is aligned and mapped, a QPUSH with room pushes the
selected lanes' words in ascending order and raises the tail, a QPOP with entries enough pops them and raises the
head, one whose test fails waits, or fails at once with a timeout of 0 or a poisoned one, and QFREE reports the free
entries or kills the queue; a QPUSH with a poisoned lane pushes nothing and records "poison store", and fails; a queue
that is not live, or not mapped, fails, and a misaligned descriptor, or more entries than the queue could ever take,
raises the "queue operand" fault as well.
R229, R231, R233, R239: a semaphore operation takes effect once what it releases has performed; a push of the hardware
enters a live queue with room as one step, or is lost.
The model's choice: a live queue is listed from its first operation on, one whose m or ring breaks the table is not live,
and neither is one in the Reltin aperture (log 22); a SEMSET or SEMRD holds behind ready waits of its semaphore and a
QPUSH at its issue for what it releases (log 28); a firmware cell reaches every tile (log 48). -/
def Obligations.SemaphoreAndQueueResults : Prop :=
  (
  (∀ (s : State) (x : Site) (k j : Nat) (v : Word), (s.setSem x k v).sem x j = if j = k then v else s.sem x j)
  ∧ ∀ (s : State) (u : Nat) (t : Thread) (f : Fields),
    let k := fld f.lit 0 6
    let x := t.src.site
    let A := t.a0 f
    let B := t.b0 f
    let all := fun (w : PWord) => List.replicate t.width w
    let P := fun (b : Bool) => some (List.replicate t.width b)
    let faults := fun (i : Instr) (opc : Nat) (e : Eff) =>
      let b := s.raise (t.who opc) 0x010F ((t.who opc).details 0 [w32 k])
      ∀ k', b.thr? u = some k' → k'.ending = false → Room s b t k' f e → Performs i s u f b k' e
    (Issues s u t f { opc := 0xC3, b := bit f.lit 6 } → t.selLanes ≠ [] → A.pois = false →
      let e : Eff := .val (all A)
      let rel := fld f.lit 7 3
      let y : Site := if bit f.lit 6 then .tile (fld B.w 0 9) else x
      ((if bit f.lit 6 then B.pois = false ∧ s.reaches t.part y = true else isElem x = false) →
        let b := if rel = 0 ∨ 4 < rel then
            (if x = y ∧ s.semReady y k = [] then s.setSem y k (s.sem y k + A.w) else s.queueSem y k A.w false [] 0 t.inv)
          else s.queueSem y k A.w false (s.relCover u) rel t.inv u t.seq
        Room s b t t f e → Performs (.semi f) s u f b t e)
      ∧ (∀ p y, s.reaches p y = true ↔ s.owns p y = true ∨ p = sysPart ∧ isTile y = true)
      ∧ (bit f.lit 6 = true → B.pois = false → s.reaches t.part (.tile (fld B.w 0 9)) = false →
        let b := s.raise (t.who 0xC3) 0x010F ((t.who 0xC3).details 0 [w32 k, w32 (fld B.w 0 9)])
        ∀ k', b.thr? u = some k' → k'.ending = false → Room s b t k' f e → Performs (.semi f) s u f b k' e))
    ∧ (Issues s u t f { opc := 0xC4, b := false } → isElem x = false →
      (A.pois = false → t.selLanes ≠ [] → s.semReady x k = [] → Room s (s.setSem x k A.w) t t f (.val (all A)) →
        Performs (.semset f) s u f (s.setSem x k A.w) t (.val (all A)))
      ∧ (A.pois = true → t.selLanes ≠ [] → Room s s t t f (.val (all .bad)) → Performs (.semset f) s u f s t (.val (all .bad))))
    ∧ (Issues s u t f { opc := 0xC5, a := false, b := false } → isElem x = false → t.selLanes ≠ [] → s.semReady x k = [] →
      let e : Eff := .val (all ⟨s.sem x k, false⟩)
      Room s s t t f e → Performs (.semrd f) s u f s t e)
    ∧ (isElem x = true → t.selLanes ≠ [] →
      (Issues s u t f { opc := 0xC3, b := false } → bit f.lit 6 = false → faults (.semi f) 0xC3 (.val (all .bad)))
      ∧ (Issues s u t f { opc := 0xC4, b := false } → faults (.semset f) 0xC4 (.val (all .bad)))
      ∧ (Issues s u t f { opc := 0xC5, a := false, b := false } → faults (.semrd f) 0xC5 (.val (all .bad)))
      ∧ (Issues s u t f { opc := 0xC7 } → faults (.rdzv f) 0xC7 { v := some (all .bad), p := P false }))
    ∧ (Issues s u t f { opc := 0xC7 } → isElem x = false →
      let zero : Eff := { v := some (all .zero), p := P false }
      (B.pois = true → Room s s t t f zero → Performs (.rdzv f) s u f s t zero)
      ∧ (B.pois = false → s.semReady x k = [] → B.w.toNat ≤ (s.sem x k).toNat →
        let b := s.setSem x k (s.sem x k - B.w)
        let e : Eff := { v := some (all ⟨s.sem x k, false⟩), p := P true }
        Room s b t t f e → Performs (.rdzv f) s u f b t e)
      ∧ (B.pois = false → s.semReady x k = [] → (s.sem x k).toNat < B.w.toNat → A.pois = true ∨ A.w = 0 →
        Room s s t t f zero → Performs (.rdzv f) s u f s t zero)
      ∧ (B.pois = false → s.semReady x k = [] → (s.sem x k).toNat < B.w.toNat → A.pois = false → A.w ≠ 0 →
        let dl := if A.w = 0xFFFFFFFF then none else some (s.work t.part + A.w.toNat)
        let k' := t.waiting (.rdzv k B.w) dl f 0xC7
        let b := if dl.isSome then (s.setThr u k').postEv .waitExpiry { a := u } else s.setThr u k'
        RoomLate s b t k' f → Parks (.rdzv f) s u b k' .wait)))
  ∧ (
  ∀ (s : State) (u : Nat) (t : Thread) (f : Fields), t.selLanes ≠ [] →
    let desc : Int := (tgetD (s.cell t.src).bases (fld f.lit 0 3) 0).toInt + ((fld f.lit 6 26 * 64 : Nat) : Int)
    let n := t.selLanes.length
    let ws := t.selLanes.map (fun l => (t.aW f l).w)
    let P := fun (b : Bool) => some (List.replicate t.width b)
    let fail : Eff := { v := some (List.replicate t.width .zero), p := P false }
    let ea := fun (q : QDesc) (i : Nat) => (BitVec.ofNat 64 q.ring).toInt + ((4 * (i % 2 ^ q.m) : Nat) : Int)
    let id := fun (pa : Nat) => (⟨t.part, queueVia t.part t.src.site, desc, pa⟩ : QueueId)
    let known := fun (pa : Nat) => if s.queues.contains (id pa) then s else { s with queues := s.queues ++ [id pa] }
    -- the entries stand at the addresses as, from count i on
    let ring := fun (q : QDesc) (i : Nat) (as : List Nat) => as.length = n ∧ (∀ a ∈ as, s.served a = true) ∧
      ∀ j, j < n → s.hwXlate t.part t.src.site (ea q (i + j)) true = as[j]?
    let faults := fun (i : Instr) (opc : Nat) =>
      let d := BitVec.ofInt 64 desc
      let b := s.raise (t.who opc) 0x0110 ((t.who opc).details 0 [w32 d.toNat, w32 (d.toNat / 2 ^ 32)])
      ∀ k, b.thr? u = some k → k.ending = false → Room s b t k f fail → Performs i s u f b k fail
    let fails := fun (i : Instr) => Room s s t t f fail → Performs i s u f s t fail
    let lost := s.hwXlate t.part t.src.site desc true = none ∨ ∃ pa, s.hwXlate t.part t.src.site desc true = some pa ∧ s.served pa = false
    (Issues s u t f { opc := 0xC8 } →
      (desc % 64 = 0 → s.pkgQueueHeld t.part t.src.site desc n = true → exec (.qpush f) s = .next s)
      ∧ (desc % 64 = 0 → s.pkgQueueHeld t.part t.src.site desc n = false → lost → fails (.qpush f))
      ∧ (∀ pa, desc % 64 = 0 → s.pkgQueueHeld t.part t.src.site desc n = false → s.hwXlate t.part t.src.site desc true = some pa → s.served pa = true →
        let q := qdescAt s.mem pa
        (q.ok = false ∨ q.state ≠ 1 → fails (.qpush f)) ∧
        (q.ok = true → q.state = 1 →
        let need := n + if bit f.lit 4 then 0 else 2
        (2 ^ q.m < need → faults (.qpush f) 0xC8)
        ∧ (∀ l ls, need ≤ 2 ^ q.m → t.selLanes.filter (fun l => (t.aW f l).pois) = l :: ls →
          let b := s.raise (t.who 0xC8) 0x0112 ((t.who 0xC8).poisonRecord (t.laneAgent l) 4
            (ea q (q.tail + (t.selLanes.takeWhile (· ≠ l)).length)) (maskOf (l :: ls)))
          ∀ k, b.thr? u = some k → k.ending = false → Room s b t k f fail → Performs (.qpush f) s u f b k fail)
        ∧ (need ≤ 2 ^ q.m → (∀ l ∈ t.selLanes, (t.aW f l).pois = false) → bit f.lit 3 = true → s.allDone u 3 = false →
          exec (.qpush f) s = .next s)
        ∧ (need ≤ 2 ^ q.m → (∀ l ∈ t.selLanes, (t.aW f l).pois = false) → (bit f.lit 3 = true → s.allDone u 3 = true) →
        (q.free < need → (t.b0 f).pois = true ∨ (t.b0 f).w = 0 →
          let e : Eff := { v := some (t.as f), p := P false }
          Room s s t t f e → Performs (.qpush f) s u f s t e)
        ∧ (need ≤ q.free → ∀ as, ring q q.tail as →
          let b := ((((as.zip ws).foldl (fun s e => s.hwWrite e.1 (leBytes 4 e.2.toNat)) (known pa)).hwWrite (pa + 0x14)
            (leBytes 4 (q.tail + n))).retestQueues t.part).wakeService t.part t.src.site desc
          let e : Eff := { v := some (t.as f), p := P true }
          Room s b t t f e → Performs (.qpush f) s u f b t e)
        ∧ (q.free < need → (t.b0 f).pois = false → (t.b0 f).w ≠ 0 →
          let dl := if (t.b0 f).w = 0xFFFFFFFF then none else some (s.work t.part + (t.b0 f).w.toNat)
          let k := t.waiting (.push desc ws (bit f.lit 4)) dl f 0xC8
          let b := if dl.isSome then (s.setThr u k).postEv .waitExpiry { a := u } else s.setThr u k
          RoomLate s b t k f → Parks (.qpush f) s u b k .wait))))
      ∧ (desc % 64 ≠ 0 → faults (.qpush f) 0xC8))
    ∧ (Issues s u t f { opc := 0xC9, b := false } → desc % 64 ≠ 0 → faults (.qpop f) 0xC9)
    ∧ (Issues s u t f { opc := 0xC9, b := false } → desc % 64 = 0 → s.pkgQueueHeld t.part t.src.site desc n = true → exec (.qpop f) s = .next s)
    ∧ (Issues s u t f { opc := 0xC9, b := false } → desc % 64 = 0 → s.pkgQueueHeld t.part t.src.site desc n = false → lost → fails (.qpop f))
    ∧ (Issues s u t f { opc := 0xC9, b := false } → ∀ pa, desc % 64 = 0 → s.pkgQueueHeld t.part t.src.site desc n = false →
      s.hwXlate t.part t.src.site desc true = some pa → s.served pa = true →
      let q := qdescAt s.mem pa
      (q.ok = true → q.state = 1 → 2 ^ q.m < n + 2 → faults (.qpop f) 0xC9)
      ∧ (q.ok = true → q.state = 1 → n + 2 ≤ 2 ^ q.m → q.used < n → (t.a0 f).pois = true ∨ (t.a0 f).w = 0 → fails (.qpop f))
      ∧ (q.ok = true → q.state = 1 → n + 2 ≤ 2 ^ q.m → n ≤ q.used → ∀ as, ring q q.head as →
        let b := ((known pa).hwWrite (pa + 0x10) (leBytes 4 (q.head + n))).retestQueues t.part
        let e : Eff := { p := P true, v := some ((List.range t.width).map (fun l =>
          ⟨(as.map s.rdW).getD (t.selLanes.takeWhile (· ≠ l)).length 0, false⟩)) }
        Room s b t t f e → Performs (.qpop f) s u f b t e)
      ∧ (q.ok = true → q.state = 1 → n + 2 ≤ 2 ^ q.m → q.used < n → (t.a0 f).pois = false → (t.a0 f).w ≠ 0 →
        let dl := if (t.a0 f).w = 0xFFFFFFFF then none else some (s.work t.part + (t.a0 f).w.toNat)
        let k := t.waiting (.pop desc) dl f 0xC9
        let b := if dl.isSome then (s.setThr u k).postEv .waitExpiry { a := u } else s.setThr u k
        RoomLate s b t k f → Parks (.qpop f) s u b k .wait)
      ∧ (q.ok = false ∨ q.state ≠ 1 → fails (.qpop f)))
    ∧ (Issues s u t f { opc := 0xCA, a := false, b := false } →
      (desc % 64 ≠ 0 → faults (.qfree f) 0xCA)
      ∧ (desc % 64 = 0 → s.pkgQueueHeld t.part t.src.site desc 0 = false → lost → fails (.qfree f)))
    ∧ (Issues s u t f { opc := 0xCA, a := false, b := false } → ∀ pa, desc % 64 = 0 →
      s.pkgQueueHeld t.part t.src.site desc 0 = false → s.hwXlate t.part t.src.site desc true = some pa → s.served pa = true →
      let q := qdescAt s.mem pa
      let live := q.ok && decide (q.state = 1)
      (bit f.lit 4 = false →
        let b := if live then known pa else s
        let e : Eff := { v := some (List.replicate t.width ⟨w32 (2 ^ q.m - q.used - 2), false⟩), p := P live }
        Room s b t t f e → Performs (.qfree f) s u f b t e)
      ∧ (bit f.lit 4 = true →
        let b := if live then s.killQueue (id pa) 1 else s
        let e : Eff := { v := some (List.replicate t.width .zero), p := P live }
        ∀ k, b.thr? u = some k → k.ending = false → Room s b t k f e → Performs (.qfree f) s u f b k e)))
  ∧ (
  (∀ (s : State) (o : SemOp), tget s.semOps s.subj.a = some o → s.away o.site o.inv = false →
    (o.gate.any (fun a => !s.performed a o.scope) = true →
      exec .remoteSemaphoreAdd s = .next (s.postEv .remoteSemaphoreAdd { a := s.subj.a }))
    ∧ ((∀ a ∈ o.gate, s.performed a o.scope = true) → s.owingAt o.site o.scope o.owed = false → s.semReady o.site o.sem = [] →
      (∀ e ∈ s.semOps, o.uid ≠ 0 → o.scope ≠ 0 → e.2.uid = o.uid → e.2.scope ≠ 0 → s.subj.a ≤ e.1) →
      ∃ s', exec .remoteSemaphoreAdd s = .next s' ∧ tget s'.semOps s.subj.a = none ∧ s'.mem = s.mem
        ∧ s'.sem o.site o.sem = (if o.set then o.val else s.sem o.site o.sem + o.val)
        ∧ ∀ x k, (x, k) ≠ (o.site, o.sem) → s'.sem x k = s.sem x k))
  ∧ (∀ (s : State) (o : PqOp) (pa : Nat) (as : List Nat), tget s.pqOps s.subj.a = some o → o.words ≠ [] →
    s.pkgQueueHeld o.part o.via o.desc o.words.length = false →
    s.hwXlate o.part o.via o.desc true = some pa →
    let q := qdescAt s.mem pa
    let s1 : State := { s with pqOps := tdel s.pqOps s.subj.a }
    let n := o.words.length
    let id : QueueId := ⟨o.part, queueVia o.part o.via, o.desc, pa⟩
    let known := if s1.queues.contains id then s1 else { s1 with queues := s1.queues ++ [id] }
    q.ok = true → q.state = 1 → n ≤ q.free → as.length = n →
    s.served pa = true → (∀ a ∈ as, s.served a = true) →
    (∀ j, j < n → s.hwXlate o.part o.via ((BitVec.ofNat 64 q.ring).toInt + ((4 * ((q.tail + j) % 2 ^ q.m) : Nat) : Int)) true = as[j]?) →
    exec .packageQueueOperation s = .next (((((as.zip o.words).foldl (fun s e => s.hwWrite e.1 (leBytes 4 e.2.toNat)) known).hwWrite
      (pa + 0x14) (leBytes 4 (q.tail + n))).retestQueues o.part).wakeService o.part o.via o.desc)))

/-- R210, R235: EDGEF's result is A, and its tokens are of control kind.
R222, R224, R235 to R238: COPY takes the lowest free copy slot, CBLK and a chaining FORK the lowest free chain slot,
and each returns the handle of that slot and its generation and counts in `ncp`; a FORK's task packet leaves
through an egress slot for an element of the partition.
R236: CPCNL cancels the copy, or the chain with every copy that it started, that its handle names, and sets `p`; of a
chain that a fault has stopped it cancels the copies still running; with nothing to cancel it changes nothing and clears
`p`. That a chain takes the lowest free chain slot is the model's choice (log 50). -/
def Obligations.EngineInstructionResults : Prop :=
  (
  ActsAs .edgef (fun _ => { opc := 0xCB, b := false }) (fun t f => { v := some ((List.range t.width).map (t.aW f)), ctl := true })
  ∧ ∀ (s b : State) (t k : Thread) (f : Fields) (e : Eff), e.ctl = true → e.mute = false →
      s.emits b t k f e = b.planFor { k.commit f e with kind := .control } f (s.contWord t f)
        (some (e.scene (((k.commit f e).lanes.map (fun x => x.v)).headD .zero))))
  ∧ (
  ∀ (s : State) (u : Nat) (t : Thread) (f : Fields), t.selLanes ≠ [] →
    let A := t.a0 f
    let B := t.b0 f
    let x := t.src.site
    let v := s.site x
    let k : Thread := { t with ncp := t.ncp + 1 }
    let all := fun (w : PWord) => List.replicate t.width w
    let addr := fun (o : Nat) => (tgetD (s.cell t.src).bases (fld f.lit o 3) 0).toInt + (A.w.toNat : Int)
    let counts := fun (t : Thread) => !(t.a0 f).pois && !t.selLanes.isEmpty
    (Issues s u t f { opc := 0xC0, b := false, ctr := some .cp, counts := counts } → A.pois = false →
      ∀ n, n < 1024 → tget v.copies n = none → (∀ j, j < n → (tget v.copies j).isSome = true) →
      let g := tgetD v.copyGens n 0
      let c := newCopy (addr 0) (.thread u) (t.who 0xC0) g (s.cmdGate u) s.fresh
      let b := (((s.bump).setSite x { v with copies := tset v.copies n c }).postEv .copyDescriptorRead { site := x, a := n }).setThr u k
      let e : Eff := .val (all ⟨w32 (n * 2 ^ 16 + g.toNat), false⟩)
      Room s b t k f e → Performs (.copy f) s u f b k e)
    ∧ (∀ n, n < 16 → tget v.chains n = none → (∀ j, j < n → (tget v.chains j).isSome = true) →
      let g := tgetD v.chainGens n 0
      let h : PWord := ⟨w32 (2 ^ 30 + n * 2 ^ 16 + g.toNat), false⟩
      -- the chain of opcode opc at address a, with its rendezvous
      let starts := fun (opc : Nat) (a : Int) (rdz : Option Nat) =>
        let c : CbChain := { fetch := some (BitVec.ofInt 64 a), window := [], stack := [], who := t.who opc, uid := u, gen := g,
                             gate := s.cmdGate u, copies := [], owed := [], fork := rdz, testing := none, retest := 0,
                             stopped := false, parked := none, ended := false }
        ((s.setSite x { v with chains := tset v.chains n c }).postEv .commandBlockFetch { site := x, a := n }).setThr u k
      (Issues s u t f { opc := 0xC1, b := false, ctr := some .cp, counts := counts } → A.pois = false →
        let b := starts 0xC1 (addr 0) none
        Room s b t k f (.val (all h)) → Performs (.cblk f) s u f b k (.val (all h)))
      ∧ (bit f.lit 6 = true → bit f.lit 10 = false → Issues s u t f { opc := 0xC6, b := false, ctr := some .cp, counts := (·.forks f) } → A.pois = false →
        let b := starts 0xC6 (addr 7) (some (fld f.lit 0 6))
        Room s b t k f (.val (all h)) → Performs (.fork f) s u f b k (.val (all h)))
      ∧ (bit f.lit 6 = true → bit f.lit 10 = true → Issues s u t f { opc := 0xC6, ctr := some .cp, counts := (·.forks f) } → A.pois = false →
        B.pois = false → t.z0.pois = false → ∀ b, (starts 0xC6 (addr 7) (some (fld f.lit 0 6))).sendTask t B.w t.z0 = some b →
        ∀ k', b.thr? u = some k' → k'.ending = false → Room s b t k' f (.val (all h)) →
        Performs (.fork f) s u f b k' (.val (all h))))
    ∧ (bit f.lit 6 = false → bit f.lit 10 = true → Issues s u t f { opc := 0xC6 } → B.pois = false → t.z0.pois = false →
      ∀ b, s.sendTask t B.w t.z0 = some b → ∀ k', b.thr? u = some k' → k'.ending = false → Room s b t k' f (.val (all A)) →
      Performs (.fork f) s u f b k' (.val (all A)))
    ∧ (let n := 96 * fld B.w 23 2 + fld B.w 16 7
      fld B.w 16 7 < 96 → s.owns t.part (.elem n) = true → ∀ s1, s.reserve (.egress x false) false = some s1 →
      let q : Token := { id := s.fresh, data := [t.z0], dst := .elem n, cell := 0, fslot := 0, src := t.src, part := t.part,
                         region := t.region, inv := t.inv, held := false, unres := none, at_ := 0,
                         tag := { frame := t.frame, ip := BitVec.ofNat 8 (fld B.w 8 8), port := 0, wave := t.wave, colour := 0,
                                  width := 1, eod := 0, kind := .data, block := 0 } }
      s.sendTask t B.w t.z0 = some (((s1.bump).modSite x (fun v => { v with
        egress := v.egress ++ [q], egResv := v.egResv - 1 })).postEv .tokenEgressDepart { site := x, a := s.fresh })))
  ∧ (
  (∀ (s : State) (x : Site) (n : Nat) (c : CbChain), tget (s.site x).chains n = some c →
    let s' := s.cancelChain x n
    (∃ c', tget (s'.site x).chains n = some c' ∧ c'.stopped = true ∧ c'.copies = c.copies ∧ c'.uid = c.uid)
    ∧ ∀ k ∈ c.copies, ∀ y, tget (s'.site x).copies k = some y → y.cancelled = true)
  ∧ ∀ (s : State) (u : Nat) (t : Thread) (f : Fields), Issues s u t f { opc := 0xC2, b := false } → t.selLanes ≠ [] →
    (t.a0 f).pois = false →
    let h := (t.a0 f).w
    let x := t.src.site
    let n := fld h 16 10
    let e := fun (b : Bool) =>
      ({ v := some (List.replicate t.width (t.a0 f)), p := some (List.replicate t.width b) } : Eff)
    (fld h 30 2 = 0 →
      (∀ c, tget (s.site x).copies n = some c → h = w32 (n * 2 ^ 16 + c.gen.toNat) → c.cancelled = false → c.failed = false →
        let b := (s.setSite x { s.site x with copies := tset (s.site x).copies n { c with cancelled := true } }).postEv .copyComplete
          { site := x, a := n }
        Room s b t t f (e true) → Performs (.cpcnl f) s u f b t (e true))
      ∧ (tget (s.site x).copies n = none → Room s s t t f (e false) → Performs (.cpcnl f) s u f s t (e false)))
    ∧ (fld h 30 2 ≠ 0 →
      (∀ c, tget (s.site x).chains n = some c → h = w32 (2 ^ 30 + n * 2 ^ 16 + c.gen.toNat) →
        let runs := ∃ k ∈ c.copies, ∃ y, tget (s.site x).copies k = some y ∧ y.cancelled = false ∧ y.failed = false
        let b := s.cancelChain x n
        (c.stopped = false ∨ runs → Room s b t t f (e true) → Performs (.cpcnl f) s u f b t (e true))
        ∧ (c.stopped = true → ¬runs → Room s s t t f (e false) → Performs (.cpcnl f) s u f s t (e false)))
      ∧ (tget (s.site x).chains n = none → Room s s t t f (e false) → Performs (.cpcnl f) s u f s t (e false))))

/-! ## Group 0xD: the matrix elements -/

/-- R185, R189, R192: on an element's control cell a group 0xD instruction with its operands in their limits joins the
element's matrix queue, counts in `nmx` and gives A; a bad row range or value, or any other agent, queues nothing and
raises the "matrix operand" fault with `v` poisoned; MBND's read form waits for the empty queue and gives the state
word of its entry. -/
def Obligations.MatrixInstructionResults : Prop :=
  ∀ (s : State) (u : Nat) (t : Thread) (f : Fields), t.selLanes ≠ [] →
    let A := t.a0 f
    let B := t.b0 f
    let r := fld f.lit 0 9
    let kind := fld f.lit 9 2
    let low := fld B.w 0 10
    -- opcode, instruction, whether it uses A and B, its row count where it uses rows, the limits of A
    let ops : List (Nat × (Fields → Instr) × Bool × Bool × Option Nat × Bool) :=
      [(0xD0, .mload, true, decide (fld f.lit 0 3 < 5), none, true), (0xD1, .mma, true, true, some low, true),
       (0xD2, .mmas, true, true, some low, true), (0xD3, .mlut, true, true, some low, true),
       (0xD4, .munf, true, true, some low, true), (0xD5, .mdrn, true, true, some low, true),
       (0xD6, .mzero, false, true, some low, true),
       (0xD7, .mscl, kind != 3, kind == 0 || kind == 3,
         (if kind = 0 then some low else if kind = 3 then some (fld B.w 8 10) else none), true),
       (0xD9, .mfold, false, true, some low, true)]
      ++ (if kind = 3 then [] else
        [(0xD8, .mbnd, kind != 1, decide (kind ≤ 1), (if kind ≤ 1 then some low else none),
          if kind = 0 then decide (-512 ≤ A.w.toInt ∧ A.w.toInt ≤ 511) else if kind = 2 then decide (34 ≤ A.w.toNat ∧ A.w.toNat ≤ 46)
          else true)])
    let bad : Eff := .val ((List.range t.width).map (fun l => ⟨(t.aW f l).w, true⟩))
    (∀ o ∈ ops,
      let opc := o.1
      let mk := o.2.1
      let usesA := o.2.2.1
      let usesB := o.2.2.2.1
      let nr := o.2.2.2.2.1
      Issues s u t f { opc := opc, b := usesB, ctr := some .mx, counts := fun t => t.queuesMx f opc } →
      (usesA = true → A.pois = false) → (usesB = true → B.pois = false) →
      let refuses := fun (reason : Nat) =>
        let w := t.who opc
        let b := s.raise w 0x0109 [w32 reason, tileid t.src, w32 (t.ip % 256 + (opc % 256) * 256), w32 (t.frame.toNat * 4096),
          w32 t.wave.toNat, 0]
        ∀ k, b.thr? u = some k → k.ending = false → Room s b t k f bad → Performs (mk f) s u f b k bad
      (∀ e, t.src.site = .elem e →
        ((∀ n, nr = some n → n ≠ 0 ∧ r + n ≤ 512) → o.2.2.2.2.2 = true →
          (s.elem e).queue.length + (s.elem e).running.toList.length < 16 →
          let m := newMx opc f.lit A.w B.w u (t.who opc) s.fresh (s.cmdGate u)
          let k : Thread := { t with nmx := t.nmx + 1 }
          let b := (((s.bump).setElem e { s.elem e with queue := (s.elem e).queue ++ [m] }).setThr u k).postEv .matrixQueueStart { a := e }
          let res : Eff := .val ((List.range t.width).map (t.aW f))
          Room s b t k f res → Performs (mk f) s u f b k res)
        ∧ (∀ n, nr = some n → (n = 0 ∨ 512 < r + n) → refuses 2)
        ∧ ((∀ n, nr = some n → n ≠ 0 ∧ r + n ≤ 512) → o.2.2.2.2.2 = false → refuses 6))
      ∧ ((∀ e, t.src.site ≠ .elem e) → refuses 1))
    ∧ (kind = 3 → Issues s u t f { opc := 0xD8, b := false, cyc := 4 } → A.pois = false → ∀ e, t.src.site = .elem e →
      (s.elem e).queue = [] → (s.elem e).running = none →
      let y := (s.elem e).ent r (fld A.w 0 7)
      let one := fun (c : Bool) (k : Nat) => if c then 2 ^ k else 0
      let w := w32 (one y.pois 31 + one (y.f == 0x7FC00000) 30 + one (tget (s.elem e).pins r).isSome 29 + one y.folded 28
        + one (y.u == 0) 27 + (if y.u = 0 then 0 else Nat.log2 y.u + 1) % 64 * 2 ^ 16 + (y.beta % 1024).toNat)
      let res : Eff := .val (List.replicate t.width ⟨w, false⟩)
      Room s s t t f res → Performs (.mbnd f) s u f s t res)

/-- R181 to R183: with U within 46 bits and at least |S(T)|, adding a block to an entry that is not poisoned keeps
U at least |S(T)|, and where it neither folds nor rounds nor overflows the entry's value gains exactly
P × 2^eP; a fold rounds the triple's value to FP32, adds it to F with one more rounding, and starts the entry anew with
the block; a pinned row keeps its base. -/
def Obligations.AccumulatorAddsExactly : Prop :=
  ∀ (a : AccEnt) (lam : Nat) (P eP : Int), lam ≤ 46 → P.natAbs ≤ 2 ^ 33 → a.tri.int.natAbs ≤ a.u → a.u < 2 ^ 46 →
    a.c0 < 65536 → a.c1 < 65535 → a.c2 < 65537 →
    let n := a.addBlock lam false P eP false
    let p := a.addBlock lam true P eP false
    n.1.tri.int.natAbs ≤ n.1.u
    ∧ (P ≠ 0 → a.u ≠ 0 →
      let s := (eP - a.beta).toNat
      let d := (a.beta - eP).toNat
      let u := a.u * 2 ^ d + P.natAbs * 2 ^ s
      (u < 2 ^ lam → n.2 = false ∧ n.1.u = u ∧ n.1.beta = min a.beta eP ∧ n.1.f = a.f
        ∧ n.1.tri.int = a.tri.int * 2 ^ d + P * 2 ^ s)
      ∧ (2 ^ lam ≤ u → n.2 = false ∧ n.1.folded = true ∧ n.1.beta = eP ∧ n.1.tri.int = P ∧ n.1.u = P.natAbs
        ∧ n.1.f = rnd32 0 ((F a.f).add 0 (F (rnd32 0 (.fin (decide (a.tri.int < 0)) a.tri.int.natAbs a.beta)))))
      ∧ (2 ^ lam ≤ u → a.addBlock lam false P eP true = ({ a with pois := true }, true)))
    ∧ p.1.beta = a.beta ∧ p.1.f = a.f ∧ p.1.tri.int.natAbs ≤ p.1.u
    ∧ (a.beta ≤ eP → a.u + P.natAbs * 2 ^ (eP - a.beta).toNat < 2 ^ lam →
        p.1.tri.int = a.tri.int + P * 2 ^ (eP - a.beta).toNat)

/-- R185, R188, R201, R194, R198: an element that runs nothing takes up its queue's first instruction once that may
start; the running one does its next unit (MZERO clears its rows, MSCL's column form and MBND's limit form write
their values), and one that has nothing left leaves the element and lowers `nmx`. -/
def Obligations.MatrixEvents : Prop :=
  ∀ (s : State),
    let e := s.subj.a
    let v := s.elem e
    (∀ m q, v.running = none → v.queue = m :: q → s.arrayIdle e m.who.part = false → s.mxMayStart e m = true →
      ∃ s', exec .matrixQueueStart s = .next s' ∧ s'.elem e = { v with queue := q, running := some m } ∧ s'.mem = s.mem
        ∧ s'.threads = s.threads ∧ s'.agenda = s.agenda ++ [.ev .matrixQueueStart { a := e }])
    ∧ (∀ m, v.running = some m → m.done = false → m.parked = none → s.arrayIdle e m.who.part = false →
      let off : MxInstr := { m with done := true }
      let ends := fun (s' : State) (v' : Elem) => s'.elem e = { v' with running := some off } ∧ s'.mem = s.mem
        ∧ s'.threads = s.threads ∧ s'.agenda = s.agenda ++ [.ev .matrixInstructionFinish { a := e }]
      (m.op = 0xD6 → ∃ s' v', exec .matrixQueueStart s = .next s' ∧ ends s' v' ∧ v'.pins = v.pins
        ∧ ∀ i n, n < 128 → v'.ent i n = if fld m.lit 0 9 ≤ i ∧ i < fld m.lit 0 9 + fld m.b 0 10
            then ⟨0, 0, 0, false, tgetD v.pins i 0, 0, 0, false⟩ else v.ent i n)
      ∧ (m.op = 0xD7 → fld m.lit 9 2 = 1 → ∃ (s' : State) (v' : Elem), exec .matrixQueueStart s = .next s'
        ∧ s'.elem e = { v' with running := some off } ∧ v'.acc = v.acc ∧ v'.rs = v.rs ∧ s'.mem = s.mem
        ∧ ∀ n, n < 128 → tget v'.cs n = some (w32 (leNat (((v.read m.a.toNat 512).drop (4 * n)).take 4))))
      ∧ (m.op = 0xD8 → fld m.lit 9 2 = 2 → ∃ s', exec .matrixQueueStart s = .next s' ∧ ends s' { v with lam := m.a.toNat }))
    ∧ (∀ m t, v.running = some m → m.done = true → m.refused = none → m.sent = [] → s.owingAt (.elem e) (max 1 (m.drain.elim 0 (fun d => d.rel))) m.owed = false →
      s.thr? m.uid = some t →
      ∃ s' k, exec .matrixInstructionFinish s = .next s' ∧ s'.elem e = { v with running := none } ∧ s'.mem = s.mem
        ∧ s'.thr? m.uid = some k ∧ k.nmx = t.nmx - 1 ∧ k.nld = t.nld ∧ k.nst = t.nst ∧ k.ncp = t.ncp ∧ k.lanes = t.lanes)

/-! ## Group 0xE: queries, tests, coverage, screen tiles, textures -/

/-- R383, R388, R389, R390: RQINIT, RQPRO, RQCOM, RQABT and RQGET on a fabric tile. In each selected lane whose record of
16 words lies in its bank, the state machine's words are written, poisoned where a word read is, and the lane's
result and `p` are as the table says; a lane with a poisoned index or a record beyond its bank touches nothing and
gives zero, poisoned.
R384, R390, R392, R394: BOXT, TRIT and BEAMT send one access that reads each selected lane's node or triangle, and
keep A until it returns. The word of a box test names the boxes hit and orders them by entry; a triangle hit
writes the candidate, and commits it where the triangle is opaque.
The model's choice (log 34): a poisoned index or a record beyond the bank clears `p`, `p` is taken from the value bits, and
BOXT and TRIT read their memory in every state of the query. -/
def Obligations.RayInstructionResults : Prop :=
  (
  ∀ (s : State) (u : Nat) (t : Thread) (f : Fields), isTile t.src.site = true →
    let s1 := s.recOob t (t.as f) 16 false
    let ix := fun (l : Nat) => (t.aW f l).w.toNat
    let ok := fun (l : Nat) => !(t.aW f l).pois && decide (ix l + 16 ≤ 1024)
    let q := fun (l j : Nat) => s1.lfWord (t.laneAgent l) (ix l + j)
    let st := fun (l : Nat) => fld (q l 0).w 0 2
    let word := fun (flags : Nat) (hit : Bool) (state : Nat) => w32 (flags * 16 + (if hit then 4 else 0) + state)
    -- the word with another state, its flags and hit kept
    let next := fun (l : Nat) (state : Nat) => word (fld (q l 0).w 4 4) (bit (q l 0).w 2) state
    -- lane l writes ws, reads the record words rs, gives r and p
    let acts := fun (i : Instr) (ws : Nat → List (Nat × Word)) (rs : Nat → List Nat) (r : Nat → Word) (p : Nat → Option Bool) =>
      let pois := fun (l : Nat) => (rs l).any (fun j => (q l j).pois)
      let b := t.selLanes.foldl (fun s l => if ok l then s.recWrite t l (ix l) (ws l) (pois l) else s) s1
      let old := fun (l : Nat) => (t.lanes.map (fun x => x.p)).getD l false
      let e : Eff :=
        { v := some ((List.range t.width).map (fun l => if ok l then ⟨r l, pois l⟩ else ⟨0, true⟩))
          p := some ((List.range t.width).map (fun l => if ok l then (p l).getD (old l) else if (p l).isSome then false else old l)) }
      Room s b t t f e → Performs i s u f b t e
    let F := fun (l j : Nat) => F (q l j).w
    let valid := fun (l : Nat) =>
      [1, 2, 3, 4, 5, 6].all (fun j => (F l j).finite) && !(F l 7).isNan && !(F l 8).isNan
        && !([4, 5, 6].all (fun j => (F l j).isZero)) && FV.zero.le (F l 7) && (F l 7).le (F l 8)
    (Issues s u t f { opc := 0xE0, b := false, lf := true } →
      let w := fun (l : Nat) => word (fld f.lit 0 4) false (if valid l then 1 else 3)
      acts (.rqinit f) (fun l => [(0, w l)]) (fun _ => [1, 2, 3, 4, 5, 6, 7, 8]) w (fun _ => none))
    ∧ (Issues s u t f { opc := 0xE1, b := false, lf := true } →
      let nx := fun (l : Nat) => if st l = 1 ∨ st l = 2 then 1 else st l
      acts (.rqpro f) (fun l => [(0, next l (nx l))]) (fun _ => [0]) (fun l => next l (nx l))
        (fun l => some (decide (st l = 1 ∨ st l = 2))))
    ∧ (Issues s u t f { opc := 0xE2, b := false, lf := true } →
      let done := fun (l : Nat) => word (fld (q l 0).w 4 4) true (if bit (q l 0).w 4 then 3 else 1)
      acts (.rqcom f)
        (fun l => if st l = 2 then [(0, done l), (8, (q l 12).w), (9, (q l 13).w), (10, (q l 14).w), (11, (q l 15).w)]
          else [(0, next l (st l))])
        (fun l => if st l = 2 then [0, 12, 13, 14, 15] else [0])
        (fun l => if st l = 2 then done l else next l (st l)) (fun l => some (decide (st l = 2))))
    ∧ (Issues s u t f { opc := 0xE3, b := false, lf := true } →
      acts (.rqabt f) (fun l => [(0, next l 3)]) (fun _ => [0]) (fun l => next l 3) (fun _ => some true))
    ∧ (Issues s u t f { opc := 0xE4, b := false, lf := true } →
      let j := [0, 8, 9, 10, 11, 12, 13, 14, 15, 7].getD (fld f.lit 0 4) 0
      acts (.rqget f) (fun _ => []) (fun _ => [j]) (fun l => (q l j).w) (fun _ => none)))
  ∧ (
  (∀ (s : State) (u : Nat) (t : Thread) (f : Fields), isTile t.src.site = true →
    let s1 := s.recOob t (t.as f) 16 false
    let ea := fun (l : Nat) => (tgetD (s.cell t.src).bases (fld f.lit 0 3) 0).toInt + (t.bW f l).w.toInt
    let q := fun (l : Nat) => (List.range 16).map (fun j => s1.lfWord (t.laneAgent l) ((t.aW f l).w.toNat + j))
    let reads := fun (i : Instr) (opc : Nat) (op : AccOp) (size align : Nat) =>
      (∀ l ∈ t.selLanes, (t.aW f l).pois = false ∧ (t.bW f l).pois = false ∧ (t.aW f l).w.toNat + 16 ≤ 1024 ∧ ea l % align = 0
        ∧ -(2 ^ 56) ≤ ea l ∧ ea l < 2 ^ 56) →
      let x : Access := { t.access op opc f.lit (some (fld f.lit 3 2)) 0 1 (dstRegs f) with
                          lanes := t.selLanes.flatMap (fun l => recParts l (ea l) size (q l) (t.aW f l).w.toNat) }
      let b := s1.issueAcc u x
      let e : Eff := { v := some ((List.range t.width).map (t.aW f)), load := true }
      ∀ b' k, (if op = .tri ∧ (b.acc? s.fresh).isSome then b' = b.modThr u (fun k => { k with lfPend := k.lfPend ++ [s.fresh] }) else b' = b) →
        b'.thr? u = some k → k.ending = false → Room s b' t k f e → Performs i s u f b' k e
    (Issues s u t f { opc := 0xE5, lf := true, ctr := some .ld, counts := Thread.tileLane } → reads (.boxt f) 0xE5 .box 128 128)
    ∧ (Issues s u t f { opc := 0xE6, lf := true, ctr := some .ld, counts := Thread.tileLane } → reads (.trit f) 0xE6 .tri 48 16)
    ∧ (Issues s u t f { opc := 0xE7, lf := true, ctr := some .ld, counts := Thread.tileLane } → reads (.beamt f) 0xE7 .beam 128 128))
  ∧ (∀ (q : List PWord) (node : List Byte),
      let w := boxWord q node
      let nth := fun (j : Nat) => fld w (4 + 2 * j) 2
      (∀ i, i < 4 → w.getLsbD i = (boxHit q node i).isSome) ∧ (∀ i, 12 ≤ i → w.getLsbD i = false)
      ∧ (∀ i, i < 4 → ∃ j, j < 4 ∧ nth j = i)
      ∧ (qState (rw q 0).w = 0 ∨ qState (rw q 0).w = 3 → w = w32 (0 + 1 * 2 ^ 6 + 2 * 2 ^ 8 + 3 * 2 ^ 10)))
  ∧ (∀ (q : List PWord) (rec : List Byte),
      let w := (rw q 0).w
      let id := w32 (leNat ((rec.drop 0x24).take 4))
      let opaq := if bit w 6 then true else if bit w 7 then false else bit (w32 (leNat ((rec.drop 0x28).take 4))) 0
      (qState w ≠ 1 → tritStep q rec = ([], 3))
      ∧ (qState w = 1 → triTest q rec = none → tritStep q rec = ([], 0))
      ∧ (∀ h, qState w = 1 → triTest q rec = some h → opaq = false →
          tritStep q rec = ([(12, h.t), (13, id), (14, h.u), (15, h.v), (0, w32 (fld w 4 4 * 16 + (if bit w 2 then 4 else 0) + 2))], 2))
      ∧ (∀ h, qState w = 1 → triTest q rec = some h → opaq = true →
          tritStep q rec = ([(12, h.t), (13, id), (14, h.u), (15, h.v),
            (0, w32 (fld w 4 4 * 16 + 4 + (if bit w 4 then 3 else 1))), (8, h.t), (9, id), (10, h.u), (11, h.v)], 1))))

/-- R382, R396, R397, R398: HOMEP gives A, and lane 0 of B to its kind-4 destinations; COVER sets the bit of each sample
inside its three edges; QMRG merges two quads that agree. Away from a fabric tile each changes nothing and gives
zero, poisoned, with `p` clear.
R400 to R403, R405: on a tile whose screen-tile descriptor is bound, TSEQ append gives the selected lanes the next
tickets, enters A in the bin and counts them; TSEQ read returns an issued entry; a TBLND whose ticket is the
expected one blends its fragments into the resident buffer and, in the ending forms, expects the next; one whose
ticket is past is counted late; R404: records with a poisoned word are recorded. A flushed buffer reloads what its flush area holds.
The model's choice: a TSEQ of a poisoned word takes a ticket that is poisoned, and a TBLND takes its ticket from its
lowest readable lane and leaves `v` and `p` (log 36); a poisoned QMRG clears `p` (log 34). -/
def Obligations.CoverageAndScreenTileResults : Prop :=
  (
  ∀ (s : State) (u : Nat) (t : Thread) (f : Fields),
    (isTile t.src.site = true →
      (Issues s u t f { opc := 0xEF } →
        let e : Eff := { v := some ((List.range t.width).map (t.aW f)), part4 := some (t.b0 f) }
        Room s s t t f e → Performs (.homep f) s u f s t e)
      ∧ (Issues s u t f { opc := 0xE8, lf := true } →
        let b := s.recOob t (t.as f) 10 false
        let q := fun (l j : Nat) => b.lfWord (t.laneAgent l) ((t.aW f l).w.toNat + j)
        let n := 2 ^ fld f.lit 0 2
        -- sample i of pixel p of the quad at lane l's B lies inside edge k
        let inside := fun (l p i k : Nat) =>
          let pos := ((samplePos (fld f.lit 0 2)).getD i (0, 0))
          let X : Int := 256 * (fld (t.bW f l).w 0 16 / 2 * 2 + p % 2) + pos.1
          let Y : Int := 256 * (fld (t.bW f l).w 16 16 / 2 * 2 + p / 2) + pos.2
          let E := (q l (3 * k)).w.toInt * X + (q l (3 * k + 1)).w.toInt * Y + (q l (3 * k + 2)).w.toInt
          decide (0 < E) || (decide (E = 0) && (q l 9).w.getLsbD k)
        ∃ r : List PWord, (Room s b t t f (.val r) → Performs (.cover f) s u f b t (.val r)) ∧ r.length = t.width
          ∧ ∀ (l : Nat) (w : PWord), r[l]? = some w →
            if !(t.aW f l).pois && decide ((t.aW f l).w.toNat + 10 ≤ 1024) then
              w.pois = ((t.bW f l).pois || (List.range 10).any (fun j => (q l j).pois))
              ∧ ∀ p i, p < 4 → i < 8 → w.w.getLsbD (8 * p + i) = (decide (i < n) && [0, 1, 2].all (inside l p i))
            else w = ⟨0, true⟩)
      ∧ (Issues s u t f { opc := 0xE9, lf := true } →
        let b := s.recOobs t [(t.as f, 8, false), (t.bs f, 8, false)]
        let qa := fun (l : Nat) => (List.range 8).map (fun j => b.lfWord (t.laneAgent l) ((t.aW f l).w.toNat + j))
        let qb := fun (l : Nat) => (List.range 8).map (fun j => b.lfWord (t.laneAgent l) ((t.bW f l).w.toNat + j))
        let ok := fun (w : PWord) => !w.pois && decide (w.w.toNat + 8 ≤ 1024)
        let both := fun (l : Nat) => ok (t.aW f l) && ok (t.bW f l)
        let bad := fun (l : Nat) => ((qa l) ++ (qb l)).any (fun w => w.pois)
        let cov := fun (q : List PWord) => (q.getD 0 .zero).w
        let e : Eff :=
          { v := some ((List.range t.width).map (fun l => if both l then
              ⟨if quadPass f.lit (qa l) (qb l) then cov (qa l) ||| cov (qb l) else cov (qa l), bad l⟩ else ⟨0, true⟩))
            p := some ((List.range t.width).map (fun l => both l && quadPass f.lit (qa l) (qb l) && !bad l)) }
        Room s b t t f e → Performs (.qmrg f) s u f b t e))
    ∧ (isTile t.src.site = false →
      let e : Eff := { v := some (List.replicate t.width ⟨0, true⟩), p := some (List.replicate t.width false) }
      let form := fld f.lit 3 2
      ∀ o ∈ [(Instr.homep f, ({ opc := 0xEF } : Form)), (.cover f, { opc := 0xE8, lf := true }), (.qmrg f, { opc := 0xE9, lf := true }),
        (.rqinit f, { opc := 0xE0, b := false, lf := true }), (.rqpro f, { opc := 0xE1, b := false, lf := true }),
        (.rqcom f, { opc := 0xE2, b := false, lf := true }), (.rqabt f, { opc := 0xE3, b := false, lf := true }),
        (.rqget f, { opc := 0xE4, b := false, lf := true }), (.boxt f, { opc := 0xE5, lf := true, ctr := some .ld, counts := Thread.tileLane }),
        (.trit f, { opc := 0xE6, lf := true, ctr := some .ld, counts := Thread.tileLane }), (.beamt f, { opc := 0xE7, lf := true, ctr := some .ld, counts := Thread.tileLane }),
        (.tseq f, { opc := 0xEA, ctr := some .ld, counts := Thread.tileLane }),
        (.tblnd f, { opc := 0xEB, a := form != 3, lf := form != 3, ctr := if form = 3 then some .st else none,
                     counts := Thread.tileLane, cyc := if form ≤ 1 then 4 else 1 }),
        (.txs f, { opc := 0xEC, lf := true, ctr := some .ld, counts := Thread.tileLane }), (.txl f, { opc := 0xED, lf := true, ctr := some .ld, counts := Thread.tileLane }),
        (.txg f, { opc := 0xEE, lf := true, ctr := some .ld, counts := Thread.tileLane })],
        Issues s u t f o.2 → Room s s t t f e → Performs o.1 s u f s t e))
  ∧ (
  (∀ (s : State) (u : Nat) (t : Thread) (f : Fields), isTile t.src.site = true → t.selLanes ≠ [] →
    ∀ ea pa d e, s.descAt t f = .ok ea pa → s.bind t (dieOf t.src.site, t.part, ea) pa = .ok s d e →
    let key : ScrKey := (dieOf t.src.site, t.part, ea)
    let load : Eff := { v := some (t.as f), load := true }
    (Issues s u t f { opc := 0xEA, ctr := some .ld, counts := Thread.tileLane } → bit f.lit 3 = false →
      -- no new bin page is due
      (∀ j, j < t.selLanes.length → (e.issued + w32 j).toNat % 8192 ≠ 0) →
      let bin := (t.selLanes.mapIdx (fun j l => (j, l))).foldl (fun b x => tset b (e.issued + w32 x.1).toNat (t.aW f x.2).w) e.bin
      let s1 := s.setScr key { e with bin := bin, issued := e.issued + w32 t.selLanes.length }
      let b := (s1.seqAccess u t f (fun l => ⟨e.issued + w32 (t.selLanes.idxOf l), (t.aW f l).pois⟩) none).endCycle
      ∀ k, b.thr? u = some k → k.ending = false → Room s b t k f load → Performs (.tseq f) s u f b k load)
    ∧ (Issues s u t f { opc := 0xEA, ctr := some .ld, counts := Thread.tileLane } → bit f.lit 3 = true →
      let b := s.seqAccess u t f (fun l => if !(t.aW f l).pois && decide ((t.aW f l).w.toNat < e.issued.toNat)
        then ⟨tgetD e.bin (t.aW f l).w.toNat 0, false⟩ else ⟨0, true⟩) none
      ∀ k, b.thr? u = some k → k.ending = false → Room s b t k f load → Performs (.tseq f) s u f b k load)
    ∧ (∀ form, form = fld f.lit 3 2 → form ≤ 2 →
      Issues s u t f { opc := 0xEB, a := true, lf := true, ctr := none, cyc := if form ≤ 1 then 4 else 1 } →
      let s1 := s.recOob t (t.as f) 8 false
      let good := t.selLanes.filter (fun l => !(t.aW f l).pois && decide ((t.aW f l).w.toNat + 8 ≤ 1024))
      let q := fun (l : Nat) => (List.range 8).map (fun j => s1.lfWord (t.laneAgent l) ((t.aW f l).w.toNat + j))
      ∀ l0, good.head? = some l0 →
      let T := ((q l0).getD 0 .zero).w
      (T = e.expected → e.flushed = false → e.resident = true → (∀ l ∈ good, ∀ w ∈ q l, w.pois = false) →
        let mine := good.filter (fun l => decide (((q l).getD 0 .zero).w = T))
        let late := e.late + w32 (good.length - mine.length)
        let e1 : ScrTile := { e with late := late }
        let e2 : ScrTile := if form = 2 then e1 else { mine.foldl (fun e l => blendFrag f.lit e (q l)) e1 with last := s.tick }
        let e3 : ScrTile := if form = 0 then e2 else { e2 with expected := e.expected + 1 }
        let b := if form = 0 then s1.setScr key e3 else (s1.setScr key e3).wakeTickets key
        Room s b t t f {} → b.thr? u = some t → Performs (.tblnd f) s u f b t {})
      ∧ ((T - e.expected).toInt < 0 →
        let b := (s1.setScr key { e with late := e.late + w32 good.length }).fragPoison t key (good.map (fun l => (l, q l)))
        ∀ k, b.thr? u = some k → k.ending = false → Room s b t k f {} → Performs (.tblnd f) s u f b k {})))
  ∧ (∀ (s : State) (e : ScrTile),
      let key : ScrKey := (s.subj.a, s.subj.c, s.subj.v.toInt)
      s.scrOf key = some e → e.flushed = true → bufPages e.lgS ≤ s.tbFree key.1 key.2.1 →
      (∀ p ∈ flushPieces e, s.hwHolds key.2.1 (.tile (64 * key.1)) p.1 = false ∧ ∃ pa, s.hwXlate key.2.1 (.tile (64 * key.1)) p.1 false = some pa ∧ rdN s.mem pa 4096 = p.2) →
      ∃ s', exec .screenTileReload s = .next s'
        ∧ s'.scrOf key = some { e with resident := true, flushed := false, pages := bufPages e.lgS }))

/-- R384, R408: TXS, TXL and TXG queue one request of the selected lanes' sample records at the tile's texture unit,
and keep A until its reply, a fifth of a tile holding; the unit takes the oldest request, of its two tiles in turn,
and its reply follows. R409 to R414: a reply whose descriptor is well-formed, with it and its texels translated to
readable lines and no line cached, gives every lane the word that its filter makes of its texels' bytes, poisoned
with the record words that it reads, and releases the registers and the counter; TXL's words go to the lane file. A
reply that finds its request's descriptor malformed fails every lane.
R410: the sizes of a level, its blocks, and the offset of a texel in Morton order. R411: λ by each mode, rounded to the
nearest 1/256 and clamped, where its logarithm is of a power of two; the anisotropic N and major derivative. R412: the
texels and weights of each filter, and a channel's exact weighted sum rounded once. R413, R414: the returned words.
That a unit first serves its even tile (assumption 4), and the quad lane, the texels of weight zero and the probes of an
explicit level (assumption 35), are the model's choice. -/
def Obligations.TextureResults : Prop :=
  (∀ (s : State) (u : Nat) (t : Thread) (f : Fields), isTile t.src.site = true → 4 ≤ s.texHeld t.src.site →
    ∀ o ∈ [(Instr.txs f, 0xEC), (.txl f, 0xED), (.txg f, 0xEE)],
    Issues s u t f { opc := o.2, lf := true, ctr := some .ld, counts := Thread.tileLane } → exec o.1 s = .next s)
  ∧ (∀ (s : State) (u : Nat) (t : Thread) (f : Fields), isTile t.src.site = true → s.texHeld t.src.site < 4 →
    t.selLanes ≠ [] → (t.b0 f).pois = false →
    let ea := (tgetD (s.cell t.src).bases (fld f.lit 0 3) 0).toInt + (t.b0 f).w.toInt
    (∀ l ∈ t.selLanes, (t.aW f l).pois = false ∧ (t.aW f l).w.toNat + 7 ≤ 1024) → ea % 64 = 0 → -(2 ^ 56) ≤ ea → ea < 2 ^ 56 →
    let q := fun (l : Nat) => (List.range 7).map (fun j => s.lfWord (t.laneAgent l) ((t.aW f l).w.toNat + j))
    let sends := fun (i : Instr) (opc : Nat) (op : TexOp) =>
      let x : Access := { t.access (.tex op) opc f.lit none 0 0 (dstRegs f) with
        desc := ea
        lanes := t.selLanes.map (fun l => { LaneAcc.new l ea 4 [] [] (t.zW l).w with
          st := .todo, qrec := q l ++ s.quadWords t f l }) }
      let b1 := (s.issueAcc u x).modSite t.src.site (fun v => { v with texq := v.texq ++ [s.fresh] })
      let b2 := if op = .txl then b1.modThr u (fun t => { t with lfPend := t.lfPend ++ [s.fresh] }) else b1
      let b := b2.postEv .textureRequestAccept { a := texUnit t.src.site }
      let e : Eff := { v := some ((List.range t.width).map (t.aW f)), load := true }
      ∀ k, b.thr? u = some k → k.ending = false → Room s b t k f e → Performs i s u f b k e
    let tex := fun (opc : Nat) => ({ opc := opc, lf := true, ctr := some .ld, counts := Thread.tileLane } : Form)
    (Issues s u t f (tex 0xEC) → sends (.txs f) 0xEC .txs)
    ∧ (Issues s u t f (tex 0xED) →
        (∀ l ∈ t.selLanes, (t.zW l).pois = false ∧ (t.zW l).w.toNat + 8 ≤ 1024) → sends (.txl f) 0xED .txl)
    ∧ (Issues s u t f (tex 0xEE) → sends (.txg f) 0xEE .txg))
  ∧ (∀ (s : State), 
      let m := s.subj.a
      let last := tgetD s.texLast m (2 * m + 1)
      let n := if last = 2 * m then 2 * m + 1 else 2 * m
      ∀ a q x, (s.site (.tile n)).texq = a :: q → s.acc? a = some x → s.spent x.who.part x.who.region (n / 64) itemTexture = false →
      s.idleSite (.tile n) = false →
      -- the other tile's oldest request ranks no higher (R326)
      (∀ b y, (s.site (.tile last)).texq.head? = some b → s.acc? b = some y → s.spent y.who.part y.who.region (last / 64) itemTexture = false →
        s.idleSite (.tile last) = false →
        s.rank y.who.part y.who.region (last / 64) itemTexture ≤ s.rank x.who.part x.who.region (n / 64) itemTexture) →
      ∃ s', exec .textureRequestAccept s = .next s' ∧ (s'.site (.tile n)).texq = q ∧ tget s'.texLast m = some n ∧ s'.mem = s.mem
        ∧ s'.acc? a = some x ∧ Act.ev .textureReply { a := a } ∈ s'.agenda)
  ∧ (∀ (s : State) (x : Access) (t : Thread) (op : TexOp) (pa repl : Nat) (at_ : Int → Nat), s.acc? s.subj.a = some x →
      s.subj.a ≠ 0 → x.op = .tex op → x.retired = false → x.fails = [] → x.lanes ≠ [] → (x.lanes.map (fun m => m.lane)).Nodup →
      (∀ m ∈ x.lanes, m.st = .todo ∧ m.qAt = 0 ∧ m.acks = [] ∧ m.lane < t.width) → s.thr? x.uid = some t →
      s.tex = [] → s.memBad = [] → s.coh.replicas = [] → (∀ e ∈ s.coh.fills, e.2.acc ≠ s.subj.a) →
      s.engXlate x.who.part x.who.ag.site x.desc false 0 = .ok pa repl → isAperture pa = false →
      let d := texDesc (rdN s.mem pa 64)
      let tp := fun (m : LaneAcc) => texTaps op d x.lit (texFree s m.lane) m.qrec
      d.ok = true → (op = .txl → 8 ≤ d.fmt) →
      (∀ m ∈ x.lanes, ∀ i k, (tp m)[i]? = some k →
        let a := at_ (d.addr k.m k.x k.y)
        (∃ r, s.engXlate x.who.part x.who.ag.site (d.addr k.m k.x k.y) false ((tp m).length - 1 - i) = .ok a r
          -- its home is the nearest die, or no die holds replicas of its region
          ∧ (memDie a = nearest (dieOf x.who.ag.site) ∨ r = 0 ∧ ∀ g, tget s.coh.regs (memDie a, regionOf a) = some g → g.holders = []))
        ∧ isAperture a = false ∧ (tget s.coh.lines (lineOf a)).isSome = true ∧ a % 128 + texBytes d.fmt ≤ 128) →
      let got := fun (m : LaneAcc) => texResult op d x m
        ((tp m).map (fun k => (k, rdN s.mem (at_ (d.addr k.m k.x k.y)) (texBytes d.fmt)))) (taps d x.lit (texFree s m.lane) m.qrec).2
      ∃ s' k, exec .textureReply s = .next s' ∧ s'.mem = s.mem ∧ s'.thr? x.uid = some k
        ∧ k.nld = t.nld - 1 ∧ k.nst = t.nst ∧ k.ip = t.ip ∧ k.pend = t.pend.filter (fun e => e.2 ≠ s.subj.a)
        ∧ k.lfPend = t.lfPend.filter (fun a => a ≠ s.subj.a)
        ∧ (∀ (l : Nat) (y : Lane), t.lanes[l]? = some y →
          (x.lane? l = none → k.lanes[l]? = some y)
          ∧ ∀ m, x.lane? l = some m → k.lanes[l]? = some (x.targets.foldl (fun y r => y.setReg r (got m).1) y))
        ∧ ∀ m ∈ x.lanes, op = .txl → ∀ j, j < 8 →
            s'.lfWord (t.laneAgent m.lane) (m.z.toNat + j) = ⟨(got m).2.getD j 0, (got m).1.pois⟩)
  ∧ (∀ (s : State) (x : Access) (op : TexOp) (m : LaneAcc) (pa repl : Nat), s.acc? s.subj.a = some x → x.op = .tex op →
      x.retired = false → x.lanes = [m] → m.st = .todo → m.qAt = 0 → s.idleSite x.who.ag.site = false →
      s.engXlate x.who.part x.who.ag.site x.desc false 0 = .ok pa repl → isAperture pa = false → s.badAt pa 64 = false →
      tget s.tex (texUnit x.who.ag.site, x.who.inv, lineOf pa) = none →
      let d := texDesc (s.engRead x.who.ag.site 0 pa 64)
      (d.ok = false ∨ (op = .txl ∧ d.fmt < 8)) → exec .textureReply s = .next (s.failLane s.subj.a m.lane 6))
  -- the layout (R409, R410)
  ∧ (∀ (d : TexDesc), d.fmt ≤ 10 →
      let b := texBytes d.fmt
      let n := Nat.log2 (4096 / (64 * b))
      let wb := 8 * 2 ^ ((n + 1) / 2)
      let hb := 8 * 2 ^ (n / 2)
      let ceil := fun (p q : Nat) => (p + q - 1) / q
      b = [1, 2, 4, 2, 4, 8, 4, 16, 16, 32, 16].getD d.fmt 0
      ∧ (∀ m, d.lw m = max 1 (d.w / 2 ^ m) ∧ d.lh m = max 1 (d.h / 2 ^ m))
      ∧ d.levelOff 0 = 0 ∧ (∀ m, d.levelOff (m + 1) = d.levelOff m + 4096 * (ceil (d.lw m) wb * ceil (d.lh m) hb))
      ∧ (∀ x y, morton x y < 2 ^ 32 ∧ ∀ i, i < 16 → (morton x y).testBit (2 * i) = x.testBit i ∧ (morton x y).testBit (2 * i + 1) = y.testBit i)
      ∧ ∀ m x y, d.addr m x y = d.base + ((d.levelOff m + 4096 * (y / hb * ceil (d.lw m) wb + x / wb)
          + 64 * b * morton (x / 8 % 2 ^ ((n + 1) / 2)) (y / 8 % 2 ^ (n / 2)) + b * morton (x % 8) (y % 8) : Nat) : Int))
  -- the level of detail (R411), in 1/256; `free` are the free bits of operands that name no value
  ∧ (let near := fun (k : Int) (x : Rat) => |x - k| ≤ 1 / 2 ∧ (|x - k| = 1 / 2 → k % 2 = 0)
     (∀ s m e, (FV.fin s m e).rat = some ((if s then -1 else 1) * (m : Rat) * (2 : Rat) ^ e))
     ∧ (∀ (levels free : Nat) (w : FV) (q : Rat), 0 < levels →
      let clamp := fun (k : Int) => (min (max k 0) ((256 * (levels - 1) : Nat) : Int)).toNat
      lamWord levels free (.inf true) = 0 ∧ lamWord levels free (.inf false) = 256 * (levels - 1)
      ∧ (w.rat = some q → (∃ k, near k (256 * q) ∧ lamWord levels free w = clamp k) ∧ lamLog levels free 0 w = 0
        -- ρ² = 2^j
        ∧ ∀ j : Int, ∃ k, near k (128 * j + 256 * q) ∧ lamLog levels free ((2 : Rat) ^ j) w = clamp k))
     ∧ (∀ (d : TexDesc) (aniso : Bool) (most free : Nat) (bias ux vx uy vy : FV) (a b c e : Rat), 0 < most →
      ux.rat = some a → vx.rat = some b → uy.rat = some c → vy.rat = some e →
      let qx := (a * d.w) ^ 2 + (b * d.h) ^ 2
      let qy := (c * d.w) ^ 2 + (e * d.h) ^ 2
      let hi := max qx qy
      let lo := min qx qy
      let l := lodDeriv d aniso most free bias ux vx uy vy
      l.lam = lamLog d.levels free (hi / ((l.n * l.n : Nat) : Rat)) bias ∧ (l.du, l.dv) = (if qy ≤ qx then (ux, vx) else (uy, vy))
      ∧ (aniso = false → l.n = 1) ∧ (aniso = true → lo = 0 → l.n = most)
      ∧ (aniso = true → lo ≠ 0 → 1 ≤ l.n ∧ l.n ≤ most ∧ (l.n < most → hi ≤ ((l.n * l.n : Nat) : Rat) * lo)
          ∧ ∀ i : Nat, 1 ≤ i → i < l.n → ((i * i : Nat) : Rat) * lo < hi))
     ∧ (∀ (d : TexDesc) (lit : Word) (free : Nat) (q : List PWord),
      let deriv := lodDeriv d (fld lit 3 2 == 3) (fld lit 5 4 + 1) free (rf q 2)
      let l := lodOf d lit free q
      (fld lit 9 2 = 1 ∨ (fld lit 9 2 = 0 ∧ q.length < 13) → l.lam = lamWord d.levels free (rf q 2) ∧ l.n = 1)
      ∧ (fld lit 9 2 = 2 → l = deriv (rf q 3) (rf q 4) (rf q 5) (rf q 6))
      ∧ (fld lit 9 2 = 0 → 13 ≤ q.length → l = deriv ((rf q 9).sub (rf q 7)) ((rf q 10).sub (rf q 8)) ((rf q 11).sub (rf q 7)) ((rf q 12).sub (rf q 8))))
     ∧ (∀ (s : State) (t : Thread) (f : Fields) (l : Nat),
      let k := l / 4 * 4
      (t.width < k + 4 → s.quadWords t f l = [])
      ∧ (k + 4 ≤ t.width → (∀ j, k ≤ j → j < k + 3 → (t.aW f j).pois = false ∧ (t.aW f j).w.toNat + 7 ≤ 1024) →
        s.quadWords t f l = [k, k + 1, k + 2].flatMap (fun j => [0, 1].map (fun i => s.lfWord (t.laneAgent j) ((t.aW f j).w.toNat + i)))))
     -- texels and weights (R412)
     ∧ (∀ (u : FV) (r off : Rat) (w : Nat) (point : Bool) (free : Int), u.rat = some r →
      let s := (r + off) * w - (if point then 0 else 1 / 2)
      let p := texCoord u off w point free
      (p.1 : Rat) ≤ s ∧ s < p.1 + 1 ∧ near (p.2 : Int) (256 * (s - p.1)))
     ∧ (∀ off w point free, texCoord .nan off w point free = (0, 0))
     ∧ (∀ (w : Nat) (i : Int), 0 < w → wrapTexel 0 w i < w ∧ (wrapTexel 0 w i : Int) = i % w
        ∧ (wrapTexel 1 w i : Int) = min (max i 0) ((w : Int) - 1)
        ∧ wrapTexel 2 w i < w ∧ ((i - wrapTexel 2 w i) % (2 * w) = 0 ∨ (i + wrapTexel 2 w i + 1) % (2 * w) = 0))
     ∧ (∀ (d : TexDesc) (m : Nat) (u v : FV × Rat) (scale free : Nat), u.1.finite = true → v.1.finite = true →
      let a := texCoord u.1 u.2 (d.lw m) false 0
      let b := texCoord v.1 v.2 (d.lh m) false 0
      let at_ := fun (wt : Nat) (i j : Int) => (⟨scale * wt, m, wrapTexel d.modeU (d.lw m) (a.1 + i), wrapTexel d.modeV (d.lh m) (b.1 + j)⟩ : Tap)
      bilinear d m u v scale free = [at_ ((256 - a.2) * (256 - b.2)) 0 0, at_ (a.2 * (256 - b.2)) 1 0, at_ ((256 - a.2) * b.2) 0 1, at_ (a.2 * b.2) 1 1])
     ∧ (∀ (d : TexDesc) (lit : Word) (free : Nat) (q : List PWord), (rf q 0).finite = true → (rf q 1).finite = true →
      let l := lodOf d lit (free / 2 ^ 128) q
      let m := (l.lam + 128) / 256
      let bil := fun (m : Nat) (u v : FV × Rat) (k : Nat) => bilinear d m u v k 0
      let tri := fun (u v : FV × Rat) => bil (l.lam / 256) u v (256 - l.lam % 256) ++ bil (min (l.lam / 256 + 1) (d.levels - 1)) u v (l.lam % 256)
      let u : FV × Rat := (rf q 0, 0)
      let v : FV × Rat := (rf q 1, 0)
      (fld lit 3 2 = 0 → taps d lit free q = ([⟨1, m, wrapTexel d.modeU (d.lw m) (texCoord u.1 0 (d.lw m) true 0).1,
          wrapTexel d.modeV (d.lh m) (texCoord v.1 0 (d.lh m) true 0).1⟩], 1))
      ∧ (fld lit 3 2 = 1 → taps d lit free q = (bil m u v 1, 2 ^ 16))
      ∧ (fld lit 3 2 = 2 → taps d lit free q = (tri u v, 2 ^ 24))
      ∧ (∀ du dv : Rat, fld lit 3 2 = 3 → l.du.rat = some du → l.dv.rat = some dv →
        let c := fun (k : Nat) => ((2 * k + 1 : Nat) : Rat) / ((2 * l.n : Nat) : Rat) - 1 / 2
        taps d lit free q = ((List.range l.n).flatMap (fun k => tri (rf q 0, c k * du) (rf q 1, c k * dv)), l.n * 2 ^ 24))
      ∧ (∀ op, texTaps op d lit free q = if op = .txg then bil m u v 1 else (taps d lit free q).1))
     ∧ (∀ (d : TexDesc) (ts : List (Tap × List Byte)) (den c : Nat), 0 < den → (∀ t ∈ ts, (texChan d.fmt t.2 c).finite = true) →
      ∃ s n e, filterChan d ts den c = fp32.val (fp32.roundRat 0 s n den e)
        ∧ (FV.fin s n e).rat = some ((ts.map (fun t => (t.1.wt : Rat) * ((texChan d.fmt t.2 c).rat.getD 0))).foldl (· + ·) 0))
     -- the returned words (R413, R414)
     ∧ (∀ (v : FV), (v.isNan = true → u8Of v = 0) ∧ u8Of (.inf true) = 0 ∧ u8Of (.inf false) = 255
        ∧ ∀ r, v.rat = some r → near (u8Of v : Int) (255 * min (max r 0) 1))
     ∧ (∀ (d : TexDesc) (lit : Word) (ts : List (Tap × List Byte)) (den : Nat),
      let ch := filterChan d ts den
      let half := fun (v : FV) => fp16.round 0 v
      let tx := fun (i : Nat) => texChan d.fmt ((ts.map (fun t => t.2)).getD i []) (fld lit 11 2)
      let h := if bit lit 14 then 2 else 0
      let eight := fun (v : Nat → FV) => w32 (u8Of (v 0) + 2 ^ 8 * u8Of (v 1) + 2 ^ 16 * u8Of (v 2) + 2 ^ 24 * u8Of (v 3))
      (fld lit 11 2 = 0 → txsWord d lit ts den = eight ch)
      ∧ (fld lit 11 2 = 1 → txsWord d lit ts den = w32 (half (ch 0) + 2 ^ 16 * half (ch 1)))
      ∧ (fld lit 11 2 = 2 → txsWord d lit ts den = w32 (half (ch 2) + 2 ^ 16 * half (ch 3)))
      ∧ (fld lit 11 2 = 3 → txsWord d lit ts den = w32 (fp32.round 0 (ch (fld lit 13 2))))
      ∧ txgWord d lit ts = (if bit lit 13 then w32 (half (tx h) + 2 ^ 16 * half (tx (h + 1))) else eight tx)
      ∧ txlWords d ts den = (List.range 8).map (fun j => if d.fmt = 10 ∧ 4 ≤ j then 0
          else w32 (bf16.round 0 (ch (2 * j)) + 2 ^ 16 * bf16.round 0 (ch (2 * j + 1))))
      ∧ ∀ (op : TexOp) (x : Access) (m : LaneAcc), x.lit = lit →
        let reads := [0, 1, 2] ++ (if fld lit 9 2 = 1 then [] else if fld lit 9 2 = 0 then (if m.qrec.length < 13 then [] else [7, 8, 9, 10, 11, 12])
          else [3, 4, 5, 6])
        let bad := reads.any (fun j => (rw m.qrec j).pois)
        texResult op d x m ts den = match op with
          | .txs => (⟨txsWord d lit ts den, bad⟩, [])
          | .txg => (⟨txgWord d lit ts, bad⟩, [])
          | .txl => (⟨1, bad⟩, txlWords d ts den)))

/-! ## Group 0xF: control words, regions, launches, marks -/

/-- R6, R377, R378, R379: CWGET of a word that the agent may read gives each lane its half of the word with `p` set, at
once, or, for a word that its read clears, after the read; of any other word it gives zero with `p` clear. The
named words hold what their tables say.
R6, R7, R378, R379: CWSET of a word that the agent may not write clears `p`; the low half of a 64-bit word is staged;
a base register is written at once; any other word's write holds the thread until it has taken effect. R434: a Syrad
cell's write of a matcher word registers its key for the cell it gives where an entry is free (which words those are
is the model's free choice, log 9; a full matcher registers nothing, log 19). A plain
write keeps a word's writable bits and leaves its reserved ones zero. That a word which its read clears goes to the lowest
lane alone, that words 0x700, 0x907 and 0xC00 keep every bit, what a high half without a low one writes and that a write
ends its cycle are the model's choice (log 37). -/
def Obligations.ControlWordResults : Prop :=
  (
  (∀ (s : State) (u : Nat) (t : Thread) (f : Fields), Issues s u t f { opc := 0xF4, a := bit f.lit 25, b := false } →
    t.selLanes ≠ [] → (bit f.lit 25 = true → (t.a0 f).pois = false) →
    let c : CwAt :=
      { n := fld f.lit 0 12, i := if bit f.lit 25 then fld (t.a0 f).w 0 10 else fld f.lit 12 10, die := fld f.lit 22 2,
        part := if isSyrad t.src.site then fld f.lit 26 4 else t.part, high := bit f.lit 24, sys := isSyrad t.src.site,
        root := isSyrad t.src.site || t.region == 0 }
    let clears := c.n = 0x908 ∨ c.n = 0x909 ∨ c.n = 0xB04
    (s.cwReads c = true → ¬clears →
      let e : Eff :=
        { v := some ((List.range t.width).map (fun l =>
            let x := (s.cwLocal t l c).getD (s.cwWord c)
            ⟨w32 (if c.high then x / 2 ^ 32 else x), false⟩))
          p := some (List.replicate t.width true) }
      Room s s t t f e → Performs (.cwget f) s u f s t e)
    ∧ (s.cwReads c = true → clears →
      let k := t.waiting .unit none f 0xF4
      let b := (s.setThr u k).postEv .rcRead { a := c.part, b := c.n, c := c.i, d := u }
      RoomLate s b t k f → Parks (.cwget f) s u b k .column)
    ∧ (s.cwReads c = false →
      let e : Eff := { v := some (List.replicate t.width .zero), p := some (List.replicate t.width false) }
      Room s s t t f e → Performs (.cwget f) s u f s t e))
  ∧ (∀ (s : State) (t : Thread) (w : Wait), Waiting s s.subj.d t w .column →
      let c : CwAt := ⟨s.subj.b, s.subj.c, 0, s.subj.a, false, true, true⟩
      let b := s.cwClear s.subj.b s.subj.a s.subj.c
      Ends .rcRead s b s.subj.d t w.fields
        { v := some ((List.range t.width).map (fun l => if t.selLanes.head? = some l then ⟨w32 (s.cwWord c), false⟩ else .zero))
          p := some (List.replicate t.width true) })
  ∧ (∀ (s : State) (t : Thread) (l : Nat) (c : CwAt),
      let ag := t.laneAgent l
      let word := fun (n : Nat) => s.cwLocal t l { c with n := n }
      word 0x001 = some (tileid ag).toNat ∧ word 0x002 = some (tgetD (s.cell t.src).bases c.i 0).toNat
      ∧ word 0x102 = some (t.nmx * 2 ^ 24 + t.ncp * 2 ^ 16 + t.nst * 2 ^ 8 + t.nld) ∧ word 0x200 = some (s.cell ag).issued.toNat
      ∧ word 0x202 = some ((s.cell ag).qfree 3 * 2 ^ 12 + (s.cell ag).qfree 2 * 2 ^ 8 + (s.cell ag).qfree 1 * 2 ^ 4 + (s.cell ag).qfree 0))
  ∧ (∀ (s : State) (p n i : Nat) (v : Part), tget s.parts p = some v → (n = 0x908 ∨ n = 0x909) →
      (s.cwClear n p i).cwWord ⟨n, i, 0, p, false, true, true⟩ = 0))
  ∧ (
  (∀ (s : State) (u : Nat) (t : Thread) (f : Fields), Issues s u t f { opc := 0xF5, b := bit f.lit 25 } →
    t.selLanes ≠ [] → (t.a0 f).pois = false → (bit f.lit 25 = true → (t.b0 f).pois = false) →
    let c := cwAt t f.lit (t.b0 f).w
    s.matcherForm f = false →
    let e := fun (p : Bool) => ({ v := some (t.as f), p := some (List.replicate t.width p) } : Eff)
    let k1 : Thread := { t with staged := some ⟨c.n, c.i, c.die, (t.a0 f).w⟩ }
    (s.cwWrites c = false → Room s s t t f (e false) → Performs (.cwset f) s u f s t (e false))
    ∧ (s.cwWrites c = true → c.wide = true → c.high = false →
      Room s (s.setThr u k1) t k1 f (e true) → Performs (.cwset f) s u f (s.setThr u k1) k1 (e true))
    ∧ (s.cwWrites c = true → (c.wide = false ∨ c.high = true) → c.n = 0x002 →
      let k : Thread := t.unstage c
      let b := (s.setCell t.src { s.cell t.src with bases := tset (s.cell t.src).bases c.i (BitVec.ofNat 64 (s.cwValue t c (t.a0 f).w)) }).setThr u k
      Room s b t k f (e true) → Performs (.cwset f) s u f b k (e true))
    ∧ (s.cwWrites c = true → (c.wide = false ∨ c.high = true) → c.n ≠ 0x002 →
      let ev := s.cwEvent c.n c.part c.i c.die (s.cwValue t c (t.a0 f).w) u
      let k := (t.unstage c).waiting .unit none f 0xF5
      let b := (s.setThr u k).postEv ev.1 ev.2
      RoomLate s b t k f → Parks (.cwset f) s u b k .column)
    ∧ (∀ low, c.high = true → t.staged = some ⟨c.n, c.i, c.die, low⟩ →
      s.cwValue t c (t.a0 f).w = (t.a0 f).w.toNat * 2 ^ 32 + low.toNat ∧ (t.unstage c).staged = none))
  ∧ (∀ (s : State) (u : Nat) (t : Thread) (f : Fields), s.curUid = some u → s.thr? u = some t → t.ending = false →
    t.blocked f { opc := 0xF5, b := bit f.lit 25 } = false → s.matcherForm f = true →
    t.selLanes ≠ [] → (t.a0 f).pois = false → (bit f.lit 25 = true → (t.b0 f).pois = false) →
    let c := cwAt t f.lit (t.b0 f).w
    let d := dieOf t.src.site - 12
    let m := s.matcher d
    let e := fun (p : Bool) => ({ v := some (t.as f), p := some (List.replicate t.width p) } : Eff)
    (Config.matcherWord c.n c.i c.high (t.a0 f).w = none → Room s s t t f (e true) → Performs (.cwset f) s u f s t (e true))
    ∧ (∀ k, Config.matcherWord c.n c.i c.high (t.a0 f).w = some k →
      let full := 512 ≤ m.regs.length + m.waiting.length ∧ ∀ q ∈ m.regs, q.1 ≠ k.1
      (full → Room s s t t f (e false) → Performs (.cwset f) s u f s t (e false))
      ∧ (¬full → Room s (s.register d k) t t f (e true) → Performs (.cwset f) s u f (s.register d k) t (e true)
        ∧ k ∈ ((s.register d k).matcher d).regs)))
  ∧ (∀ (s : State) (t : Thread) (w : Wait), Waiting s s.subj.d t w .column →
      let x := s.subj
      let e : Eff := { v := some (t.as w.fields), p := some (List.replicate t.width true) }
      Ends .controlWordWrite s (s.cwPlain x.b x.a (x.c % 1024) (x.c / 1024) x.v.toNat) x.d t w.fields e
      ∧ Ends .glShareWrite s (s.glShare x.a x.b (w32 x.v.toNat)).endCycle x.d t w.fields e)
  ∧ (∀ (s : State) (v : Part) (p i x : Nat), x < 2 ^ 64 →
      (∀ r ∈ [(0x011, 16, 48), (0x700, 0, 64), (0x704, 16, 48), (0x705, 16, 48), (0x901, 0, 64), (0x902, 0, 32), (0x907, 0, 64),
          (0xA00, 0, 32), (0xC00, 0, 64), (0xC01, 0, 17), (0xD00, 0, 64), (0xD01, 0, 64)],
        s.cwPart (v.cwPut r.1 i x) p r.1 i = nfld x r.2.1 r.2.2 * 2 ^ r.2.1)
      ∧ (∀ n, n ∉ [0x010, 0x011, 0x400, 0x402, 0x700, 0x704, 0x705, 0x800, 0x802, 0x900, 0x901, 0x902, 0x904, 0x905, 0x907, 0xA00, 0xC00,
          0xC01, 0xD00, 0xD01] → v.cwPut n i x = v)
      ∧ (nfld x 31 1 = 1 → (v.cwPut 0x400 i x).lfOob = 0 ∧ (v.cwPut 0x400 i x).lfOobIdx = 0
          ∧ (v.cwPut 0x402 i x).mxOob = 0 ∧ (v.cwPut 0x402 i x).mxOobAdr = 0)))

/-- R316, R328 to R331, R335, R343: on a fabric tile RGNE makes the lowest free region from a block that fits its parent,
RGNX closes a region with its descendants, LNCH enters a packet in a live queue with a free slot and gives its
invocation id, PLACE acts on a stage of its tile's image and gives its tile count; RCMIT starts the commit of a
range table where none runs; R318: on an element it raises "range commit". R331: LNCH holds while an earlier access of
its thread is outstanding.
R380, R381: FLTX gives A, poisoned by B and by B's low bit, and takes the fault of its code, then fences its domain or,
for root work, stops the partition where its literal says so; MARK gives A and offers its record to the lantern
port while marks are taken. That LNCH holds at its issue (log 28) and that RGNE reads its block at issue, with the reason of
a misaligned or unreadable one (log 39), are the model's choice. -/
def Obligations.RegionFaultAndMarkResults : Prop :=
  (
  ∀ (s : State) (u : Nat) (t : Thread) (f : Fields) (v : Part), tget s.parts t.part = some v → t.selLanes ≠ [] →
    (t.a0 f).pois = false →
    let A := (t.a0 f).w
    let ea := (tgetD (s.cell t.src).bases (fld f.lit 0 3) 0).toInt + A.toInt
    let P := fun (b : Bool) => some (List.replicate t.width b)
    let all := fun (w : PWord) => some (List.replicate t.width w)
    let fail : Eff := { v := all .zero, p := P false }
    (isTile t.src.site = true →
      (Issues s u t f { opc := 0xF6, b := false } → ∀ n, n < 1024 → tget v.regions n = none →
        (∀ j, j < n → (tget v.regions j).isSome = true) →
        (∀ s1 bs g, ea % 64 = 0 → s.readRange (t.who 0xF6) ea 128 = .ok s1 bs → v.newRegion t.region n (some bs) = .ok g →
          let b := s1.modPart t.part (fun v => v.addRegion n g)
          let e : Eff := { v := all ⟨w32 n, false⟩, p := P true }
          b.thr? u = some t → Room s b t t f e → Performs (.rgne f) s u f b t e)
        ∧ (∀ s1 block r, (ea % 64 ≠ 0 ∧ s1 = s ∧ block = none
              ∨ ea % 64 = 0 ∧ (s.readRange (t.who 0xF6) ea 128 = .fail s1 ∧ block = none
                ∨ ∃ bs, s.readRange (t.who 0xF6) ea 128 = .ok s1 bs ∧ block = some bs)) →
          v.newRegion t.region n block = .error r →
          let b := s1.raise (t.who 0xF6) 0x0115 ((t.who 0xF6).details r [])
          ∀ k, b.thr? u = some k → k.ending = false → Room s b t k f fail → Performs (.rgne f) s u f b k fail)
        ∧ (∀ s1, ea % 64 = 0 → s.readRange (t.who 0xF6) ea 128 = .wait s1 → exec (.rgne f) s = .next s1))
      ∧ (Issues s u t f { opc := 0xF7, b := false } → ∀ g, tget v.regions (fld A 0 10) = some g → v.within t.region (fld A 0 10) = true →
        g.closed = false → bit f.lit 0 = false →
        let b := (s.setPart t.part (v.close (fld A 0 10) (t.src.site, fld f.lit 1 6))).releaseRegion t.part (fld A 0 10)
        let e : Eff := { v := all (t.a0 f), p := P true }
        Room s b t t f e → Performs (.rgnx f) s u f b t e)
      ∧ (Issues s u t f { opc := 0xF7, b := false } →
        tget v.regions (fld A 0 10) = none ∨ v.within t.region (fld A 0 10) = false →
        Room s s t t f fail → Performs (.rgnx f) s u f s t fail)
      ∧ (Issues s u t f { opc := 0xF8, b := false } → s.allDone u 3 = false → exec (.lnch f) s = .next s)
      ∧ (Issues s u t f { opc := 0xF8, b := false } → s.allDone u 3 = true →
        ∀ s1 bs v, s.readPacket (t.who 0xF8) ea = .ok s1 bs → tget s1.parts t.part = some v → s1.thr? u = some t →
        let n := fld f.lit 3 3
        let q := tgetD v.queues n HostQ.reset
        (q.live = true → q.packets.length < 64 →
          let c := q.accepted + 1
          let b := (s1.setPart t.part { v with queues := tset v.queues n { q with
            accepted := c, packets := q.packets ++ [⟨c, some t.region, bs⟩] } }).postEv .launchCheck { a := t.part }
          let e : Eff := { v := all ⟨w32 (n * 2 ^ 29 + (c - 1) % (2 ^ 29 - 1) + 1), false⟩, p := P true }
          Room s b t t f e → Performs (.lnch f) s u f b t e)
        ∧ (q.live = false ∨ 64 ≤ q.packets.length → Room s s1 t t f fail → Performs (.lnch f) s u f s1 t fail))
      ∧ (Issues s u t f { opc := 0xF9, b := false } → ∀ key m, (s.site t.src.site).img = some key → s.image? key = some m →
        fld f.lit 0 7 < imgStages m.bytes →
        let die := dieOf t.src.site
        let stage := fld f.lit 0 7
        let ends := fun (b : State) (began : Bool) =>
          let e : Eff := { v := all ⟨w32 (b.stageCount key die stage), false⟩, p := P began }
          Room s b t t f e → b.thr? u = some t → Performs (.place f) s u f b t e
        (fld f.lit 7 2 = 0 → ends s true)
        ∧ (fld f.lit 7 2 = 1 → ∀ b, s.grantTile key die stage = some b → ends b true)
        ∧ (fld f.lit 7 2 = 2 → ∀ n, s.strikeChoice key die stage = some n → ends (s.beginStrike n) true)
        ∧ (fld f.lit 7 2 = 3 → ends (s.setPlace key die stage { s.placeOf key die stage with frozen := bit A 0 }) true)))
    ∧ (Issues s u t f { opc := 0xFA, b := false } → isElem t.src.site = false →
      let e := fun (p : Bool) => ({ v := all (t.a0 f), p := P p } : Eff)
      let c : Commit := { table := ea, site := t.src.site, sem := fld f.lit 3 6, who := t.who 0xFA, staged := none, gate := [] }
      let b := (s.setPart t.part { v with commit := some c }).postEv .rangeTableRead { a := t.part }
      (v.commit = none → Room s b t t f (e true) → Performs (.rcmit f) s u f b t (e true))
      ∧ (v.commit ≠ none → Room s s t t f (e false) → Performs (.rcmit f) s u f s t (e false))))
  ∧ (
  ∀ (s : State) (u : Nat) (t : Thread) (f : Fields), t.selLanes ≠ [] →
    (Issues s u t f { opc := 0xFA, b := false } →
      let e : Eff := { v := some (List.replicate t.width (t.a0 f)), p := some (List.replicate t.width false) }
      (isElem t.src.site = false → (t.a0 f).pois = true → Room s s t t f e → Performs (.rcmit f) s u f s t e)
      ∧ (isElem t.src.site = true →
        let b := s.raise (t.who 0xFA) 0x0114 ((t.who 0xFA).details 1 [])
        ∀ k, b.thr? u = some k → k.ending = false → Room s b t k f e → Performs (.rcmit f) s u f b k e))
    ∧ (Issues s u t f { opc := 0xFB } →
      let e : Eff := .val ((List.range t.width).map (fun l =>
        ⟨(t.aW f l).w, (t.aW f l).pois || (t.bW f l).pois || (t.bW f l).w.getLsbD 0⟩))
      let mask := maskOf (t.selLanes.filter (fun l => (t.bW f l).w.getLsbD 0))
      let d := (t.who 0xFB).details 0 [w32 (fld f.lit 0 16), (t.a0 f).w, (t.b0 f).w, mask]
      let r := s.raise (t.who 0xFB) 0x0118 d
      let b := if bit f.lit 17 && t.region == 0 then r.raise (t.who 0xFB) 0x0203 d
        else if bit f.lit 17 || bit f.lit 16 then r.fenceDomain t.part t.region (some t.inv) else r
      ∀ k, b.thr? u = some k → k.ending = false → Room s b t k f e → Performs (.fltx f) s u f b k e)
    ∧ (Issues s u t f { opc := 0xFC, b := false } →
      let e : Eff := .val ((List.range t.width).map (t.aW f))
      (bit s.lantern.ctl 31 = true → bit s.lantern.ctl 30 = true →
        let b := s.offer (dieOf t.src.site) 16 (s.markRecord t (t.a0 f) (t.as f) (fld f.lit 0 16))
        b.thr? u = some t → Room s b t t f e → Performs (.mark f) s u f b t e)
      ∧ (bit s.lantern.ctl 31 = false ∨ bit s.lantern.ctl 30 = false → Room s s t t f e → Performs (.mark f) s u f s t e)))

/-! ## Events of tokens and cells -/

/-- R206, R208, R209, R70, R73: a token that nothing of its edge precedes leaves its tile's egress for the fabric, then
enters its target's ingress where that has room, then joins its queue, or is written into its frame, where a second
operand makes a pair; each hop that is not free, or whose tile's work is swapped out (R373), tries again and the token is
in one place at a time. -/
def Obligations.TokenTransport : Prop :=
  ∀ (s : State) (k : Token), k.id = s.subj.a →
    -- egress
    ((s.site s.subj.site).egress.find? (fun m => m.id = s.subj.a) = some k → k.unres = none → s.idleSite s.subj.site = false →
      s.away k.dst k.inv = false → s.taskWaits k = false →
      -- the tiles of the tokens before it chosen where they are open
      let ks := (s.site s.subj.site).egress.map (fun m => (s.resolve m).getD m)
      k.first ks = true → s.clearAhead k ks = true →
      ∃ s', exec .tokenEgressDepart s = .next s'
        ∧ (s'.site s.subj.site).egress = (s.site s.subj.site).egress.filter (fun m => m.id ≠ k.id)
        ∧ s'.fabric = s.fabric ++ [k] ∧ s'.mem = s.mem ∧ s'.cells = s.cells
        ∧ s'.agenda = s.agenda ++ [.ev .tokenIngressArrival { a := k.id }])
    ∧ ((s.site s.subj.site).egress.find? (fun m => m.id = s.subj.a) = some k → s.away k.dst k.inv = true → k.unres = none →
      exec .tokenEgressDepart s = .next (s.postEv .tokenEgressDepart { site := s.subj.site, a := k.id }))
    -- ingress
    ∧ (s.fabric.find? (fun m => m.id = s.subj.a) = some k → k.first s.fabric = true → s.entryWaits k = false →
      s.away k.dst k.inv = false → ((s.site k.dst).ingress.filter (fun m => !m.held)).length < (if k.tag.kind = .control then 64 else 56) →
      ∃ s', exec .tokenIngressArrival s = .next s' ∧ (s'.site k.dst).ingress = (s.site k.dst).ingress ++ [k]
        ∧ s'.fabric = s.fabric.filter (fun m => m.id ≠ k.id) ∧ s'.mem = s.mem ∧ s'.cells = s.cells
        ∧ s'.agenda = s.agenda ++ [.ev .tokenDelivery { site := k.dst, a := k.id }])
    ∧ (s.fabric.find? (fun m => m.id = s.subj.a) = some k →
      k.first s.fabric = false ∨ s.entryWaits k = true ∨ s.away k.dst k.inv = true
        ∨ (if k.tag.kind = .control then 64 else 56) ≤ ((s.site k.dst).ingress.filter (fun m => !m.held)).length →
      exec .tokenIngressArrival s = .next (s.postEv .tokenIngressArrival { a := k.id }))
    -- delivery
    ∧ ((s.site s.subj.site).ingress.find? (fun m => m.id = s.subj.a) = some k → k.dst = s.subj.site → k.held = false →
      s.idleSite s.subj.site = false → (s.site s.subj.site).pitching = false → k.first (s.site s.subj.site).ingress = true →
      let ag : Agent := ⟨k.dst, k.cell⟩
      let port := k.tag.port.toNat
      ((s.cell ag).qfree port < (if k.tag.kind = .control then 1 else 3) →
        exec .tokenDelivery s = .next (s.postEv .tokenDelivery { site := s.subj.site, a := k.id }))
      ∧ ((if k.tag.kind = .control then 1 else 3) ≤ (s.cell ag).qfree port → s.domainFenced k.part k.region = false →
        s.colourOk k = true → k.fslot = 0 → bit s.lantern.ctl 31 = false →
        ∃ s', exec .tokenDelivery s = .next s' ∧ (s'.cell ag).queue port = (s.cell ag).queue port ++ [{ k with at_ := s.cycle }]
          ∧ tgetD (s'.cell ag).qresv port 0 = tgetD (s.cell ag).qresv port 0
          ∧ (s'.site s.subj.site).ingress = (s.site s.subj.site).ingress.filter (fun m => m.id ≠ k.id) ∧ s'.mem = s.mem
          ∧ Act.ev .workSelection { ag := ag } ∈ s'.agenda))
    ∧ (∀ (w : Frame) (f : Nat), f = k.fslot → 2 ≤ f → frameHome k.dst k.tag.frame = some k.dst → s.frame? k.dst k.tag.frame = some w →
      tget w.toks f = none → bit s.lantern.ctl 31 = false → ∀ m, tget w.toks (if f % 2 = 0 then f + 1 else f - 1) = some m →
      ∃ s' w', s.toFrame k = s' ∧ s'.frame? k.dst k.tag.frame = some w' ∧ tget w'.toks f = some k
        ∧ (∀ j, j ≠ f → tget w'.slots j = tget w.slots j) ∧ (∀ l, l < k.tag.width → l < 2 ^ w.cls → w'.word f l = k.data.getD l .zero)
        ∧ ∃ q ∈ (s'.cell ⟨k.dst, k.cell⟩).pairs, q.lower = (if f % 2 = 0 then k else m) ∧ q.upper = (if f % 2 = 0 then m else k)
            ∧ q.slot = f / 2 * 2 ∧ q.frame = k.tag.frame.toNat)

/-- R75, R126, R207: an idle cell runs its first candidate that may run: a queue head of width 1 leaves its queue and
starts a thread with its word in its port's register; a wider one claims its cells and fires once they hold, and
lets them go where it is no candidate any more. A
thread suspended on its slots goes on once they could be had. That the fired thread's `v` is zero is the model's choice
(assumption 17). -/
def Obligations.WorkAndGangs : Prop :=
  (∀ (s : State) (c : Cand × Thread),
    let ag := s.subj.ag
    (s.cell ag).run = none → s.claimed ag = false → s.idleSite ag.site = false → (∀ q ∈ (s.cell ag).pairs, s.pairThere ag q = true ∧ q.misTagged = false) →
    (s.candidates ag).find? s.mayRun = some c →
    (c.2.width ≤ 1 → exec .workSelection s = .next ((s.startCand ag c.1 c.2).postEv .workSelection { ag := ag }))
    ∧ (1 < c.2.width → exec .workSelection s = .next (s.postEv .gangClaim { ag := ag })
        ∧ ∃ s', exec .gangClaim s = .next s'
          ∧ (s'.site ag.site).claims = (s.site ag.site).claims ++ [{ ag := ag, cells := c.2.cellsHeld, cand := c.1 }]
          ∧ s'.cells = s.cells ∧ s'.threads = s.threads ∧ Act.ev .gangFire { ag := ag } ∈ s'.agenda))
  ∧ (∀ (s : State) (cl : Claim) (c : Cand × Thread),
    let ag := s.subj.ag
    (s.site ag.site).claims.find? (fun x => x.ag = ag) = some cl → s.claimant ag cl.cand = some c →
    s.idleSite ag.site = false → s.claimHolds cl = true → s.mayRun c = true →
    exec .gangFire s = .next ((s.setSite ag.site { s.site ag.site with
      claims := (s.site ag.site).claims.filter (fun x => x.ag ≠ ag) }).startCand ag c.1 c.2))
  ∧ (∀ (s : State) (cl : Claim), (s.site s.subj.ag.site).claims.find? (fun x => x.ag = s.subj.ag) = some cl →
    s.claimant s.subj.ag cl.cand = none → exec .gangFire s = .next (s.dropClaim cl))
  ∧ (∀ (s : State) (ag : Agent) (p : Nat) (k : Token) (q : List Token), p < 4 → (s.cell ag).queue p = k :: q → k.tag.width = 1 →
    k.tag.port.toNat = p →
    let s' := s.startCand ag (.head p k.id) (oneInput ag k)
    (s'.cell ag).queue p = q ∧ (s'.cell ag).run = some s.fresh
    ∧ (∃ t, s'.thr? s.fresh = some t ∧ t.stat = .run ∧ t.src = ag ∧ t.ip = k.tag.ip.toNat ∧ t.frame = k.tag.frame ∧ t.wave = k.tag.wave
        ∧ t.width = 1 ∧ t.nld = 0 ∧ t.nst = 0 ∧ t.loops = [] ∧ t.lanes = [(⟨.zero, .zero, .zero, .zero, .zero, false⟩ : Lane).setReg
            (match p with | 0 => .a | 1 => .b | 2 => .c | _ => .d) (k.data.getD 0 .zero)])
    ∧ Act.issue ag ∈ s'.agenda)
  ∧ (∀ (s : State) (t : Thread), s.thr? s.subj.a = some t → t.stat = .reserve → s.idleSite t.src.site = false →
    (s.couldReserve t = false → exec .reservationReady s = .next (s.postEv .reservationReady { a := s.subj.a }))
    ∧ (s.couldReserve t = true → t.slot = none →
        exec .reservationReady s = .next ((s.setThr s.subj.a { t with stat := .run }).post (.issue t.src)))
    ∧ (∀ n, s.couldReserve t = true → t.slot = some n →
        exec .reservationReady s = .next ((s.setThr s.subj.a { t with stat := .ready }).postEv .workSelection { ag := t.src })))

/-! ## Events of copy engines and command chains -/

/-- R218 to R221: a copy reads its descriptor once what it follows has performed; its next chunk reads its sources and goes
into flight; a chunk in flight writes, to memory or to the stage; a copy whose writes have performed leaves its
slot, its issuer's count falls and its semaphore rises; one that broke a rule starts nothing. That a chunk reads in one
step and writes in a later one is the model's choice (assumption 10). -/
def Obligations.CopyEvents : Prop :=
  ∀ (s : State) (c : Copy),
    let x := s.subj.site
    let n := s.subj.a
    s.copy? x n = some c →
    (c.cancelled = false → c.failed = false → c.parked = none → c.parsed = none → s.copyIdle x c.who.part = false →
      (s.gateOpen c.gate = false → exec .copyDescriptorRead s = .next (s.postEv .copyDescriptorRead { site := x, a := n }))
      ∧ (s.gateOpen c.gate = true → c.desc % 128 ≠ 0 → exec .copyDescriptorRead s = .next (s.copyFault x n c 0x010C []))
      ∧ (∀ pa r, s.gateOpen c.gate = true → c.desc % 128 = 0 → s.engXlate c.who.part x c.desc false 0 = .ok pa r →
        isAperture pa = false → s.engLine x c.who.part c.who.region (lineOf pa) = some s → s.badAt pa 128 = false →
        let d := copyFields (rdN s.mem pa 128)
        exec .copyDescriptorRead s = .next (if d.2 && s.copyOk c.who.part x d.1 then
            (s.setCopy x n { c with parsed := some d.1 }).postEv .copyChunk { site := x, a := n }
          else s.copyFault x n c 0x010C [])))
    -- a chunk of zero fill to memory starts
    ∧ (∀ d (pa : Nat → Nat) (rep : Nat → Nat), s.subj.b = 0 → c.cancelled = false → c.failed = false → c.parked = none → c.parsed = some d →
      s.copyIdle x c.who.part = false → c.next < d.total → c.fetching = none → d.srcKind = 2 → d.dstKind = 0 →
      let m := min d.per (d.total - c.next)
      let ea := fun (i : Nat) => d.dst.toInt + (elemOffs d.dims (c.next + i)).2
      (∀ i, i < m → s.engXlate c.who.part x (ea i) true (2 * (c.next + i) + 1) = .ok (pa i) (rep i)) →
      ∃ s' c', exec .copyChunk s = .next s' ∧ s'.copy? x n = some c' ∧ s'.mem = s.mem ∧ c'.next = c.next + m ∧ c'.suppressed = c.suppressed
        ∧ c'.flight = c.flight ++ [{ idx := c.next / d.per, writes := (List.range m).map (fun i =>
            (.mem (ea i) (pa i), leBytes d.dBytes 0)), fill := s.fresh }])
    -- a chunk in flight writes, once the fills of its reads are written
    ∧ (∀ k, s.subj.b = 1 → c.flight.find? (fun k => k.idx = s.subj.c) = some k → k.fill ≠ 0 → (∃ e ∈ s.coh.fills, e.2.acc = k.fill) →
      exec .copyChunk s = .next (s.postEv .copyChunk { site := x, a := n, b := 1, c := k.idx }))
    ∧ (∀ k ea pa bs r ln, s.subj.b = 1 → c.flight.find? (fun k => k.idx = s.subj.c) = some k → k.writes = [(.mem ea pa, bs)] →
      (k.fill = 0 ∨ ∀ e ∈ s.coh.fills, e.2.acc ≠ k.fill) →
      isAperture pa = false → s.engPlace pa 0 = .ok pa r → tget s.coh.lines (lineOf pa) = some ln →
      s.queuesIn s.mem (lineOf pa) = [] →
      ∃ s' c', exec .copyChunk s = .next s' ∧ s'.mem = wrMasked s.mem pa bs (bs.map (fun _ => true)) ∧ s'.copy? x n = some c'
        ∧ c'.flight = c.flight.filter (fun j => j.idx ≠ k.idx) ∧ c'.next = c.next
        ∧ Act.ev .copyComplete { site := x, a := n } ∈ s'.agenda)
    -- completion
    ∧ (∀ d u t, c.flight = [] → c.cancelled = false → c.failed = false → c.parsed = some d → d.total ≤ c.next → c.sent = [] → c.refused = none →
      c.issuer = .thread u → s.thr? u = some t → c.suppressed = 0 → d.remote = false → s.semReady x d.sem = [] ∨ d.inc = 0 →
      (s.owingAt x (max 1 d.rel) c.owed = true → exec .copyComplete s = .next (s.postEv .copyComplete { site := x, a := n }))
      ∧ (s.owingAt x (max 1 d.rel) c.owed = false →
        ∃ s' k, exec .copyComplete s = .next s' ∧ s'.copy? x n = none ∧ tget (s'.site x).copyGens n = some (c.gen + 1) ∧ s'.mem = s.mem
          ∧ s'.thr? u = some k ∧ k.ncp = t.ncp - 1 ∧ k.nld = t.nld ∧ k.nst = t.nst ∧ k.nmx = t.nmx ∧ k.lanes = t.lanes
          ∧ (∀ j, s'.sem x j = if j = d.sem then s.sem x j + w32 d.inc else s.sem x j)))

/-- R224 to R228: a chain fetches its next block at its aligned link; each kind of block at the head of the window runs as
its table says and the chain goes on at its link, 0 ending it; a waiting test goes on when it holds and takes its
alternate link after its time, unless it then holds; a skipping one takes the link of the block that it skips, and one
whose skip is held fetches that block alone again (the model's choice, assumption 29); a chain that has ended and whose copies have completed leaves its slot, lowers `ncp`
and raises the rendezvous of its FORK. -/
def Obligations.CommandBlockEvents : Prop :=
  ∀ (s : State) (c : CbChain),
    let x := s.subj.site
    let n := s.subj.a
    s.cb? x n = some c → c.stopped = false → c.parked = none → s.copyIdle x c.who.part = false →
    -- the chain goes on at a link with an empty window
    let go := fun (s : State) (c : CbChain) (link : Nat) =>
      if link = 0 then (s.setCb x n { c with window := [], fetch := none, ended := true, testing := none, skipping := false }).postEv .chainEnd { site := x, a := n }
      else (s.setCb x n { c with window := [], fetch := some (BitVec.ofNat 64 link), testing := none, skipping := false }).postEv
        .commandBlockFetch { site := x, a := n }
    -- block b of kind `kind` is next to run
    let head := fun (b : Block) (kind : Nat) => (∃ w, c.window = b :: w) ∧ c.ended = false ∧ c.testing = none
      ∧ s.blockOk c.who.part x b = true ∧ b.kind = kind ∧ (b.waits = true → c.copies = []) ∧ (kind ≤ 2 → c.complete = true)
    let last := fun (b : Block) => c.window = [b] ∧ c.fetch = none
    (∀ l, s.subj.b = 0 → c.ended = false → s.gateOpen c.gate = true → c.window = [] → c.fetch = some l →
      (l.toNat % 64 ≠ 0 → exec .commandBlockFetch s = .next (s.cbFault x n c l.toInt))
      ∧ (∀ pa r s1, l.toNat % 64 = 0 → s.engXlate c.who.part x l.toInt false 0 = .ok pa r → isAperture pa = false →
        s.engTouch c.who.part c.who.region x 4 0 pa r = some s1 → s1.badAt pa 64 = false → s1.cb? x n = some c →
        ∃ s' c', exec .commandBlockFetch s = .next s' ∧ s'.cb? x n = some c' ∧ c'.window = [⟨l.toInt, s1.engRead x 4 pa 64⟩]
          ∧ c'.stack = c.stack ∧ c'.copies = c.copies))
    ∧ (∀ b, head b 0 → last b → exec .linkBlock s = .next (go s c 0))
    ∧ (∀ b k s1 h, head b 1 → last b → s.startCopy x (BitVec.ofNat 64 (b.q 0x18 8)).toInt (.chain n) c.who [] = some (s1, k, h) →
      exec .copyBlock s = .next (go s1 { c with copies := c.copies ++ [k] } 0))
    ∧ (∀ b, head b 2 → last b →
      let w := b.q 0x18 4
      let y := if nfld w 15 1 = 1 then Site.tile (nfld w 6 9) else x
      let v := w32 (b.q 0x1C 4)
      s.away y c.who.inv = false → s.semReady y (nfld w 0 6) = [] → nfld w 18 3 = 0 →
      exec .semaphoreBlock s = .next (go (if nfld w 16 2 = 1 then s.setSem y (nfld w 0 6) v else s.setSem y (nfld w 0 6) (s.sem y (nfld w 0 6) + v)) c 0))
    ∧ (∀ b, (head b 3 ∨ ((∃ w, c.window = b :: w) ∧ c.testing.isSome = true)) → nfld (b.q 0x18 4) 0 1 = 0 →
      let v := s.sem x (nfld (b.q 0x18 4) 6 6) &&& w32 (b.q 0x28 4)
      let k := w32 (b.q 0x2C 4)
      let holds := match nfld (b.q 0x18 4) 1 3 with
        | 0 => decide (k.toNat ≤ v.toNat)
        | 1 => v == k
        | 2 => v != k
        | _ => decide (v.toNat < k.toNat)
      (head b 3 → c.skipping = false → holds = true → exec .testBlock s = .next (go s c b.next))
      ∧ (head b 3 → c.skipping = false → holds = false → nfld (b.q 0x18 4) 4 2 = 0 → exec .testBlock s = .next (go s c b.alt))
      ∧ (c.testing.isSome = true → holds = true → exec .testBlockRetest s = .next (go s c b.next))
      ∧ (c.testing.isSome = true → holds = false → exec .testBlockRetest s = .next s)
      ∧ (∀ d, c.testing = some (some d) → d ≤ s.work c.who.part → exec .testBlockTimeout s = .next (go s c (if holds then b.next else b.alt))))
    -- a skipped block, whose own link the chain takes: a test false at first, or one whose skip was held
    ∧ (∀ b pa r s1, head b 3 → c.skipping = true → b.next ≠ 0 → s.engXlate c.who.part x (BitVec.ofNat 64 b.next).toInt false 0 = .ok pa r →
      isAperture pa = false → s.engTouch c.who.part c.who.region x 4 0 pa r = some s1 → s1.badAt pa 64 = false → s1.cb? x n = some c →
      s.setCb x n c = s → let l := (Block.mk 0 (s1.engRead x 4 pa 64)).next
      l % 64 = 0 → exec .testBlock s = .next (go s1 c l))
    ∧ (∀ b, head b 4 →
      (b.q 0x18 4 = 0 → exec .loopBlock s = .next (go s c b.next))
      ∧ (b.q 0x18 4 ≠ 0 → c.stack.length < 4 → exec .loopBlock s = .next (go s
          { c with stack := .loop (BitVec.ofNat 64 b.next) (BitVec.ofNat 64 b.body) (b.q 0x18 4) :: c.stack } b.body))
      ∧ (b.q 0x18 4 ≠ 0 → 4 ≤ c.stack.length → exec .loopBlock s = .next (s.cbFault x n c b.va)))
    ∧ (∀ b pa r s1, head b 5 → c.stack.length < 4 → s.engXlate c.who.part x (BitVec.ofNat 64 b.body).toInt false 0 = .ok pa r →
      isAperture pa = false → s.engTouch c.who.part c.who.region x 4 0 pa r = some s1 → s1.badAt pa 8 = false →
      let l := leNat (s1.engRead x 4 pa 8)
      l % 64 = 0 → exec .callBlock s = .next (go s1 { c with stack := .call (BitVec.ofNat 64 b.next) :: c.stack } l))
    ∧ (∀ b, head b 6 →
      (c.stack = [] → exec .returnBlock s = .next (s.cbFault x n c b.va))
      ∧ (∀ l r, c.stack = .call l :: r → exec .returnBlock s = .next (go s { c with stack := r } l.toNat))
      ∧ (∀ l body k r, c.stack = .loop l body k :: r → 1 < k →
          exec .returnBlock s = .next (go s { c with stack := .loop l body (k - 1) :: r } body.toNat))
      ∧ (∀ l body k r, c.stack = .loop l body k :: r → k ≤ 1 → exec .returnBlock s = .next (go s { c with stack := r } l.toNat)))
    ∧ (∀ b, head b 7 → c.copies = [] → exec .fetchFenceBlock s = .next (go s c b.next))
    ∧ (∀ t, c.ended = true → c.copies = [] → s.thr? c.uid = some t → isElem x = false → (∀ j, c.fork = some j → s.semReady x j = []) →
      ∃ s' k, exec .chainEnd s = .next s' ∧ s'.cb? x n = none ∧ tget (s'.site x).chainGens n = some (c.gen + 1) ∧ s'.mem = s.mem
        ∧ s'.thr? c.uid = some k ∧ k.ncp = t.ncp - 1 ∧ k.lanes = t.lanes
        ∧ ∀ j, s'.sem x j = if c.fork = some j then s.sem x j + 1 else s.sem x j)

/-! ## Launches, host queues, completion -/

/-- R332, R333, R336, R340, R341, R429, R54: a packet that its flits bring enters its queue; Check takes the next queue's
packet, rejects it with the lowest reason that holds, asks for its strike, or makes it a launch; Image takes the
resident image or reads and checks it; Place ends once every stage has its tiles, their pitches done; Arm gives every
entry its token; at its start each die's tokens set out in entry order. A packet's acceptance with its exact length and the
rejection of a fenced launch in Image (assumption 40), the acknowledgement (43) and the judged header (38) are the model's
choice. -/
def Obligations.LaunchStates : Prop :=
  -- the last flit of a packet
  (∀ (s : State) (f : Flit), s.flit? s.subj.a = some f →
    let q := fld f.word 0 3
    let tag := fld f.word 3 8
    let i := fld f.word 11 5
    let s1 := s.dropFlit s.subj.a
    let same := fun (m : Packet) => m.part == f.part && m.src == f.src && m.tag == tag
    let s2 : State := { s1 with io := { s1.io with packets := s1.io.packets.filter (fun m => !same m) } }
    ∀ v, tget s.parts f.part = some v →
      let h := tgetD v.queues q HostQ.reset
      let c := h.accepted + 1
      (∀ bs, bit f.word 16 = true →
        ((i = 0 ∧ bs = f.payload)
          ∨ (i = 1 ∧ ∃ m b0, s1.io.packets.find? same = some m ∧ m.queue = q ∧ m.flits = [(0, b0)] ∧ bs = b0 ++ f.payload)) →
        (h.live = true → h.packets.length < 64 → exec .commandFlit s = .next (((s2.setPart f.part
            { v with queues := tset v.queues q { h with accepted := c, packets := h.packets ++ [⟨c, none, bs⟩] } }).postEv
              .launchCheck { a := f.part }).ack f tag 0 []))
        ∧ (h.live = false ∨ 64 ≤ h.packets.length → exec .commandFlit s = .next (s2.ack f tag 2 [])))
      ∧ (bit f.word 16 = true → i ≠ 0 → s1.io.packets.find? same = none → exec .commandFlit s = .next (if h.live then s2 else s2.ack f tag 2 []))
      ∧ (bit f.word 16 = false → h.live = false → exec .commandFlit s = .next s2)
      ∧ (bit f.word 16 = false → h.live = true → i = 0 →
        exec .commandFlit s = .next { s2 with io := { s2.io with packets := s2.io.packets ++ [⟨f.part, f.src, q, tag, [(0, f.payload)]⟩] } }))
  -- Check
  ∧ (∀ (s : State) (q : Nat) (m : QPacket) (rest : List QPacket) (v : Part),
    let p := s.subj.a
    let h := tgetD v.queues q HostQ.reset
    tget s.parts p = some v → s.nextQueue p = some q → h.packets = m :: rest →
    let s1 := s.setPart p { v with queues := tset v.queues q { h with packets := rest }, lastQueue := q }
    (∀ r i, s1.checkBad p m.issuer m.bytes = some (r, i) → exec .launchCheck s = .next ((s1.queuePush p h.sib.toInt
        [w32 (0xF1000000 + r), invocationId q m.count, w32 (leNat (m.bytes.take 4)), w32 i]).postEv .launchCheck { a := p }))
    ∧ (s1.checkBad p m.issuer m.bytes = none →
      (leNat (m.bytes.take 4) = 2 → exec .launchCheck s = .next ((s1.askStrike (pktKey p m.bytes)).postEv .launchCheck { a := p }))
      ∧ (leNat (m.bytes.take 4) ≠ 2 → ∃ s' k, exec .launchCheck s = .next s' ∧ s'.launch? s.fresh = some k ∧ k.st = .image ∧ k.part = p
          ∧ k.queue = q ∧ k.id = invocationId q m.count ∧ k.region = pktRegion m.bytes ∧ k.hdr = m.bytes.take 64
          ∧ k.entries = pktEntries m.bytes ∧ k.dones = 0 ∧ Act.ev .launchImage { a := s.fresh } ∈ s'.agenda ∧ s'.mem = s.mem)))
  -- Image
  ∧ (∀ (s : State) (v : Launch),
    let l := s.subj.a
    let k := pktKey v.part v.hdr
    let va := (BitVec.ofNat 64 (pktN v.hdr 8 8)).toInt
    s.launch? l = some v → v.st = .image →
    (s.fencedLaunch v = true → exec .launchImage s = .next (s.rejectLaunch l v 4 noEntry))
    ∧ (∀ m, s.fencedLaunch v = false → s.image? k = some m → s.strikeBegun k = false →
      (imageJudge m.bytes v = none → exec .launchImage s = .next ((s.launchTo l .place).postEv .launchPlace { a := l }))
      ∧ (∀ i, imageJudge m.bytes v = some i → exec .launchImage s = .next (s.rejectLaunch l v 7 i)))
    ∧ (∀ b, s.fencedLaunch v = false → s.image? k = none →
      (s.readRange (v.reader l) va 64 = .wait b → exec .launchImage s = .next (b.postEv .launchImage { a := l }))
      ∧ (s.readRange (v.reader l) va 64 = .fail b → exec .launchImage s = .next (b.rejectLaunch l v 8 noEntry)))
    ∧ (∀ b hd c bs, s.fencedLaunch v = false → s.image? k = none → s.readRange (v.reader l) va 64 = .ok b hd → headerBad hd = none →
      let kib := (imgTotal hd + 1023) / 1024
      (b.fits v.part v.region itemStore kib = false → exec .launchImage s = .next (b.launchWaits l v .launchImage))
      ∧ (b.fits v.part v.region itemStore kib = true → b.readRange (v.reader l) va (imgTotal hd) = .ok c bs →
        (∀ e, imageBad bs (c.part v.part).tiles .tile = some e → exec .launchImage s = .next (c.loadFails l v e (imgVersion bs)))
        ∧ (imageBad bs (c.part v.part).tiles .tile = none → imageJudge bs v = none → c.launch? l = some v →
          ∃ s' w, exec .launchImage s = .next s' ∧ s'.images = c.images ++ [⟨k, bs, kib, c.agenda.contains (strikeAct k), v.region, false⟩]
            ∧ s'.launch? l = some w ∧ w.st = .place ∧ w.kib = kib ∧ w.id = v.id ∧ s'.mem = c.mem))))
  -- Place, and a pitch's end
  ∧ (∀ (s : State) (v : Launch) (m : Image),
    let l := s.subj.a
    s.launch? l = some v → v.st = .place → s.fencedLaunch v = false → s.image? (pktKey v.part v.hdr) = some m →
    let r := s.placeStep v m
    let new := r.1.grantedFrom m.key s.fresh
    let w := { v with pitched := v.pitched ++ new }
    let b := if new = [] then r.1 else r.1.modLaunch l (fun u => { u with pitched := w.pitched })
    (r.2 = false → exec .launchPlace s = .next ((b.launchWaits l w .launchPlace).startQuanta v.part v.region))
    ∧ (r.2 = true → (∃ n ∈ b.imageTiles m.key, (b.site (.tile n)).pitching = true) →
        exec .launchPlace s = .next (b.postEv .launchPlace { a := l }))
    ∧ (r.2 = true → (∀ n ∈ b.imageTiles m.key, (b.site (.tile n)).pitching = false) →
        exec .launchPlace s = .next ((b.launchTo l .arm).postEv .launchArm { a := l })))
  ∧ (∀ (s : State),
    let x : Site := .tile s.subj.a
    ((s.site x).pitching = true →
      exec .pitchComplete s = .next (s.setSite x { s.site x with pitching := false, valid := true })))
  -- Arm
  ∧ (∀ (s : State) (v : Launch) (m : Image),
    let l := s.subj.a
    s.launch? l = some v → v.st = .arm → v.ready = false → s.fencedLaunch v = false → s.image? (pktKey v.part v.hdr) = some m →
    s.ownersHeld v.part = false → s.farOwners v.part = [] →
    (s.armAll l v m v.entries [] = none → exec .launchArm s = .next (s.launchWaits l v .launchArm))
    ∧ (∀ b t, s.armAll l v m v.entries [] = some (b, t) → b.launch? l = some v →
      ∃ s' k, exec .launchArm s = .next s' ∧ s'.launch? l = some k ∧ k.armed = t ∧ k.ready = true ∧ k.st = .arm
        ∧ k.owners.length = (s.part v.part).owncnt.toNat ∧ s'.sites = b.sites
        ∧ (∀ e ∈ t, Act.ev .launchStart { a := l, b := e.1 } ∈ s'.agenda)))
  -- Start
  ∧ (∀ (s : State) (v : Launch),
    let l := s.subj.a
    let ks := tgetD v.armed s.subj.b []
    s.launch? l = some v → v.ready = true → (v.st = .arm ∨ v.st = .run) → s.fencedLaunch v = false →
    (s.tod < s.startOf v.hdr → exec .launchStart s = .next (s.postEv .launchStart s.subj))
    ∧ (s.startOf v.hdr ≤ s.tod → (s.startToks ks).2 = [] →
      ∃ s' w, exec .launchStart s = .next s' ∧ s'.fabric = s.fabric ++ ks ∧ s'.launch? l = some w ∧ w.st = .run
        ∧ s.subj.b ∈ w.started ∧ tgetD w.armed s.subj.b [] = [] ∧ (∀ k ∈ ks, Act.ev .tokenIngressArrival { a := k.id } ∈ s'.agenda)))

/-- R336, R337, R348, R349: a launch that a budget has held for its wait ends with status 2; a polling round retires an
invocation with no work left in two rounds of equal sums; retirement waits for its writes, then frees its frames and
gives its notices; a destroyed queue loses its partly fetched packets. That retirement waits for every collapse
outstanding (assumption 14) and what counts for the limit T (assumption 40) are the model's choice. -/
def Obligations.LaunchEnds : Prop :=
  (∀ (s : State) (v : Launch),
    let l := s.subj.a
    let T := pktN v.hdr 0x2C 4
    s.launch? l = some v → v.st.num = s.subj.b →
    (T = 0xFFFFFFFF ∨ s.launchBlocked l v = false → exec .launchWaitExpiry s = .next s)
    ∧ (T ≠ 0xFFFFFFFF → s.launchBlocked l v = true →
      (s.work v.part < v.since + T * 1100 → exec .launchWaitExpiry s = .next (s.postEv .launchWaitExpiry s.subj))
      ∧ (v.since + T * 1100 ≤ s.work v.part → exec .launchWaitExpiry s = .next (s.failLaunch l v 2))))
  ∧ (∀ (s : State) (l : Nat) (v : Launch), s.launch? l = some v →
    let q := v.sums
    let w := fun (x : Option Nat) => ({ v with passed := x } : Launch)
    let live := s.liveWork l = true ∨ v.armed ≠ [] ∨ q.1 ≠ q.2
    (s.cycle < s.subj.b → exec .completionPoll s = .next (s.postEv .completionPoll s.subj))
    ∧ (s.subj.b ≤ s.cycle → exec .completionPoll s = .next ((s.launches.foldl (fun s e => s.pollOne e.1 e.2) s).postEv .completionPoll
        { b := s.subj.b + 2200 }))
    ∧ (v.st ≠ .run → s.pollOne l v = s)
    ∧ (v.st = .run → live → (s.pollOne l v).launch? l = some (w none))
    ∧ (v.st = .run → ¬live → v.passed ≠ some q.1 → (s.pollOne l v).launch? l = some (w (some q.1)))
    ∧ (v.st = .run → ¬live → v.passed = some q.1 →
        (s.pollOne l v).launch? l = some { v with st := .retire, owed := s.coh.colls.map (fun c => c.id) }
        ∧ Act.ev .invocationRetire { a := l } ∈ (s.pollOne l v).agenda))
  ∧ (∀ (s : State) (v : Launch),
    let l := s.subj.a
    let desc := (BitVec.ofNat 64 (pktN v.hdr 0x30 8)).toInt
    s.launch? l = some v → v.st = .retire →
    ((∃ c ∈ s.coh.colls, c.id ∈ v.owed) → exec .invocationRetire s = .next (s.postEv .invocationRetire { a := l }))
    ∧ ((∀ c ∈ s.coh.colls, c.id ∉ v.owed) →
      ∃ s' k, exec .invocationRetire s = .next s' ∧ s'.launch? l = some k ∧ k.st = .done ∧ k.status = (if v.fenced then 3 else 0)
        ∧ s'.mem = s.mem ∧ (∀ x f w, tget (s'.site x).frames f = some w → w.inv ≠ l)
        ∧ (desc ≠ 0 → tget s'.pqOps s.fresh = some
            ⟨v.part, .syrad 0, desc, [w32 (0xC0000000 + if v.fenced then 3 else 0), v.id, w32 v.dones, w32 v.faults], none⟩)))
  ∧ (∀ (s : State) (v : Part), tget s.parts s.subj.a = some v → nfld s.subj.v.toNat 8 1 = 0 →
    ∃ b : State, exec .hostQueueDestroy s = .next (b.cwSet s.subj.d) ∧ b.mem = s.mem
      ∧ tget b.parts s.subj.a = some { v with queues := tset v.queues s.subj.b { tgetD v.queues s.subj.b HostQ.reset with
          live := false, prio := nfld s.subj.v.toNat 0 3 } }
      ∧ b.io.packets = s.io.packets.filter (fun m => !(m.part == s.subj.a && m.queue == s.subj.b)))

/-! ## Placement, periods, quanta -/

/-- R56, R57, R344, R345, R325, R418: an image's strike waits for its launches, then strikes its tiles, and the image
leaves the store with its last tile; a struck tile that has emptied loses its tables and image; a sample grows a stage
after four full samples and shrinks one after sixteen low ones, by the nearest free tile that no image lists, pitched
from its neighbour's tables, and by the one granted last; a period starts every region's counts anew; a region's quantum
pre-empts it. That a due completion poll goes before an expiry (assumption 3) and that growth takes no listed tile
(assumption 40) are the model's choice. -/
def Obligations.PlacementAndPeriods : Prop :=
  (∀ (s : State) (m : Image),
    let k : ImgKey := ⟨s.subj.a, s.subj.v, w32 s.subj.b⟩
    let ts := s.imageTiles k
    s.image? k = some m →
    (s.imageUsed k = true → m.begun = false →
      exec .imageStrike s = .next (s.postEv .imageStrike s.subj))
    ∧ (s.imageUsed k = false → ts = [] → ∃ s', exec .imageStrike s = .next s' ∧ s'.images = s.images.filter (fun i => decide (i.key ≠ k))
        ∧ s'.sites = s.sites ∧ s'.mem = s.mem ∧ s'.launches = s.launches)
    ∧ (s.imageUsed k = false → ts ≠ [] → (∀ n ∈ ts, (s.site (.tile n)).striking = false ∧ (s.site (.tile n)).pitching = false) →
      ∃ s', exec .imageStrike s = .next s' ∧ s'.images = s.images.map (fun i => if i.key = k then { i with begun := true } else i) ∧ Act.ev .imageStrike s.subj ∈ s'.agenda
        ∧ ∀ n ∈ ts, (s'.site (.tile n)).striking = true ∧ Act.ev .strikeComplete { a := n } ∈ s'.agenda))
  ∧ (∀ (s : State),
    let n := s.subj.a
    let x : Site := .tile n
    (s.site x).striking = true → (s.site x).pitching = false →
    (s.tileEmpty n = false → exec .strikeComplete s = .next (s.postEv .strikeComplete { a := n }))
    ∧ (s.tileEmpty n = true → ∃ s', exec .strikeComplete s = .next s' ∧ s'.mem = s.mem ∧ s'.threads = s.threads
        ∧ (s'.site x).img = none ∧ (s'.site x).valid = false ∧ (s'.site x).striking = false ∧ (s'.site x).grants = []
        ∧ (s'.site x).sems = (s.site x).sems ∧ (s'.site x).part = (s.site x).part
        ∧ (∀ c, c < 64 → (s'.cell ⟨x, c⟩).instr = [] ∧ (s'.cell ⟨x, c⟩).routes = [] ∧ (s'.cell ⟨x, c⟩).last = none
            ∧ (s'.cell ⟨x, c⟩).red = Red.reset ∧ (s'.cell ⟨x, c⟩).bank = (s.cell ⟨x, c⟩).bank)
        ∧ ∀ ag, ag.site ≠ x → s'.cell ag = s.cell ag))
  ∧ (∀ (s : State),
    let die := s.subj.a
    (s.cycle < s.subj.b → exec .placementSample s = .next (s.postEv .placementSample s.subj))
    ∧ (s.subj.b ≤ s.cycle → (∀ m ∈ s.images, (s.part m.key.part).halted = true) →
      exec .placementSample s = .next (s.postEv .placementSample { a := die, b := s.subj.b + 2200 }))
    ∧ (∀ m st, s.subj.b ≤ s.cycle → s.images = [m] → (s.part m.key.part).halted = false → st < imgStages m.bytes →
      (∀ j, j < imgStages m.bytes → (s.stageTiles m.key die j ≠ [] ↔ j = st)) →
      let w := s.placeOf m.key die st
      let d := s.depth m.key die st
      let full := imgGrow m.bytes st ≤ d
      let low := d < imgShrink m.bytes st
      let next := fun (s : State) => Host.Outcome.next (s.postEv .placementSample { a := die, b := s.subj.b + 2200 })
      (w.frozen = true → exec .placementSample s = next s)
      ∧ (w.frozen = false → ¬(full ∧ 3 ≤ w.grow) → ¬(low ∧ 15 ≤ w.shrink) → exec .placementSample s = next
          (s.setPlace m.key die st ⟨if full then w.grow + 1 else 0, if low then w.shrink + 1 else 0, false⟩))
      ∧ (w.frozen = false → full → 3 ≤ w.grow →
          let b := s.setPlace m.key die st ⟨0, 0, false⟩
          exec .placementSample s = next ((b.grantTile m.key die st).getD b))
      ∧ (w.frozen = false → ¬(full ∧ 3 ≤ w.grow) → low → 15 ≤ w.shrink →
          let b := s.setPlace m.key die st ⟨0, 0, false⟩
          (b.strikeChoice m.key die st = none → exec .placementSample s = next b)
          ∧ ∀ n, b.strikeChoice m.key die st = some n → exec .placementSample s = next (b.beginStrike n)))
    ∧ (∀ k st n, s.grantChoice k die st = some n →
        let takes := fun (j : Nat) => s.freeTile k.part j = true ∧ ∀ m ∈ s.images, m.key.part = k.part → ∀ w ∈ imgTileList m.bytes, tleTile w ≠ j
        n ∈ dieTiles die ∧ takes n
        ∧ (∀ j ∈ dieTiles die, takes j → nearestDist (s.stageTiles k die st) n ≤ nearestDist (s.stageTiles k die st) j)
        ∧ ∀ b, s.grantTile k die st = some b → ∃ a ∈ s.stageTiles k die st,
            (∀ j ∈ s.stageTiles k die st, tileDist a n ≤ tileDist j n) ∧ b.site (.tile a) = s.site (.tile a)
            ∧ (∀ c, c < 64 → (b.cell ⟨.tile n, c⟩).instr = (s.cell ⟨.tile a, c⟩).instr
                ∧ (b.cell ⟨.tile n, c⟩).routes = (s.cell ⟨.tile a, c⟩).routes ∧ (b.cell ⟨.tile n, c⟩).bases = (s.cell ⟨.tile a, c⟩).bases
                ∧ (b.cell ⟨.tile n, c⟩).queues = []))
    ∧ (∀ k st n, s.strikeChoice k die st = some n → n ∈ s.stageTiles k die st ∧ (s.site (.tile n)).initial = false
        ∧ (s.site (.tile n)).pinned = false ∧ (s.site (.tile n)).striking = false))
  ∧ (∀ (s : State),
    (s.tod < s.subj.b → exec .periodBoundary s = .next (s.postEv .periodBoundary s.subj))
    ∧ (s.subj.b ≤ s.tod → ∃ s', exec .periodBoundary s = .next s' ∧ s'.mem = s.mem
        ∧ Act.ev .periodBoundary { b := (s.tod / 50000 + 1) * 50000 } ∈ s'.agenda
        ∧ (∀ p v, tget s.parts p = some v → tget s'.parts p = some (if v.period = s.tod / 50000 then v else
            { v with period := s.tod / 50000, regions := v.regions.map (fun g => (g.1, { g.2 with used := [] })) }))
        ∧ ∀ p, (s'.part p).bare = (s.part p).bare))
  ∧ (∀ (s : State) (v : Part) (g : Region),
    let p := s.subj.a
    let r := s.subj.b
    tget s.parts p = some v → tget v.regions r = some g →
    let waits := ∃ e ∈ s.launches, e.2.part = p ∧ e.2.region ≠ r ∧ e.2.st = .place ∧ ∃ h, tget v.regions e.2.region = some h ∧ g.prio ≤ h.prio
    let runs := (∃ e ∈ s.launches, e.2.part = p ∧ e.2.region = r ∧ e.2.st = .run) ∧ ¬(v.preempt.st ≠ 0 ∧ r ∈ v.preempt.regions)
    let poll := ∃ x, Act.ev .completionPoll x ∈ s.agenda ∧ x.b ≤ s.cycle
    let ran := g.ran + (s.work p - s.subj.c)
    let b := fun (n : Nat) => s.setPart p { v with regions := tset v.regions r { g with ran := n } }
    (¬(waits ∧ runs) → exec .quantumExpiry s = .next s)
    ∧ (waits → runs → poll → exec .quantumExpiry s = .next (s.postEv .quantumExpiry s.subj))
    ∧ (waits → runs → ¬poll → ran < v.eff r itemQuantum * 1100 →
        exec .quantumExpiry s = .next ((b ran).postEv .quantumExpiry { a := p, b := r, c := s.work p }))
    ∧ (waits → runs → ¬poll → v.eff r itemQuantum * 1100 ≤ ran →
        exec .quantumExpiry s = .next (((b 0).preempt p [r] true).postEv .quantumExpiry { a := p, b := r, c := s.work p })))

/-! ## Dies, domains, translations -/

/-- R300, R441: a die beats every microsecond; one silent for 50 µs is lost, its replicas, directory bits and owed collapses
with it; a collapse that waits 2 µs for its link is overdue; a link that wakes lets its collapses go. -/
def Obligations.DiesAndLinks : Prop :=
  ∀ (s : State),
    (s.cycle < s.subj.b → exec .heartbeat s = .next (s.postEv .heartbeat s.subj))
    ∧ (s.subj.b ≤ s.cycle → s.subj.a ∈ s.coh.lost → exec .heartbeat s = .next s)
    ∧ (s.subj.b ≤ s.cycle → s.subj.a ∉ s.coh.lost → exec .heartbeat s = .next
        ({ s with coh := { s.coh with beats := tset s.coh.beats s.subj.a s.cycle } }.postEv .heartbeat { a := s.subj.a, b := s.subj.b + 1100 }))
    ∧ (let last := tgetD s.coh.beats s.subj.a 0
       (s.subj.a ∈ s.coh.lost → exec .dieLost s = .next s)
       ∧ (s.subj.a ∉ s.coh.lost → s.cycle < last + 55000 → exec .dieLost s = .next (s.postEv .dieLost { a := s.subj.a }))
       ∧ (s.subj.a ∉ s.coh.lost → last + 55000 ≤ s.cycle → s.parts = [] →
          ∃ s', exec .dieLost s = .next s' ∧ s'.coh.lost = s.coh.lost ++ [s.subj.a] ∧ s'.mem = s.mem
            ∧ (12 ≤ s.subj.a → (∀ e ∈ s'.coh.replicas, e.1.1 ≠ s.subj.a - 12) ∧ (∀ e ∈ s'.coh.fills, e.2.die ≠ s.subj.a - 12) ∧ (∀ c ∈ s'.coh.colls, c.die ≠ s.subj.a - 12)
                ∧ ∀ e ∈ s'.coh.lines, s.subj.a - 12 ∉ e.2.holders))
       ∧ (s.subj.a ∉ s.coh.lost → last + 55000 ≤ s.cycle → exec .dieLost s = .next (s.loseDie s.subj.a)))
    ∧ (∀ c, s.coh.colls.find? (fun c => c.id = s.subj.c) = some c →
        (c.st ≠ 2 → exec .wakeOverdue s = .next s)
        ∧ (c.st = 2 → s.cycle < c.since + 2200 → exec .wakeOverdue s = .next (s.postEv .wakeOverdue s.subj))
        ∧ (c.st = 2 → c.since + 2200 ≤ s.cycle → exec .wakeOverdue s = .next { s with coh := { s.coh with
            colls := s.coh.colls.map (fun d => if d.id = c.id then { d with st := 3 } else d) } }))
    ∧ (∃ s', exec .linkWake s = .next s' ∧ s'.linkAsleep s.subj.a s.subj.b = false ∧ s'.mem = s.mem ∧ s'.coh.lines = s.coh.lines
        ∧ s'.coh.colls.map (fun c => c.id) = s.coh.colls.map (fun c => c.id)
        ∧ (∀ c ∈ s'.coh.colls, 12 + memDie (c.line * 128) = s.subj.a → 12 + c.die = s.subj.b → c.st = 1))

/-- R305 to R308: a ranged write-back holds its busy bit until every dirty line of its domains is clean; a switch is
refused where it would break the rules of R293 or a partition's open chain lies on its lowest domain, else it waits
until the requests of its ranges have drained, drops their lines, replicas and regions and makes the staged words
current.
R314 to R319: an invalidation removes the entries that meet its page from every TLB, waits for the accesses they
translated, and then ends; a range commit reads its table, stages the registers of its enabled entries or fails with
the first that breaks a rule, waits likewise, and then makes them current and raises its semaphore.
The held hardware writes made at the commit (assumption 12), the collapses awaited (14) and the write that ends its cycle
(37) are the model's choice. -/
def Obligations.DomainsAndTranslations : Prop :=
  (
  ∀ (s : State),
    let m := BitVec.ofNat 16 s.subj.a
    (s.coh.busy = true → exec .l2Writeback s = .next (s.endCycle.cwSet s.subj.d) ∧ exec .l2Switch s = .next (s.endCycle.cwSet s.subj.d))
    ∧ (s.coh.busy = false → exec .l2Writeback s = .next (({ s with coh := { s.coh with busy := true, ctlDoms := m, writeback := m } }.postEv
        .l2WritebackEnd).endCycle.cwSet s.subj.d))
    ∧ (∃ s', exec .l2WritebackEnd s = .next s' ∧ s'.coh.busy = false ∧ s'.mem = s.mem ∧ s'.coh.replicas = s.coh.replicas
        ∧ s'.coh.lines = s.coh.lines.map (fun e => (e.1, { e.2 with dirty := e.2.dirty && !s.inDoms s.coh.writeback (e.1 * 128) })))
    ∧ (s.coh.busy = false → s.switchOk m = false ∨ s.chainsOn m = true →
        exec .l2Switch s = .next (({ s with coh := { s.coh with ctlDoms := m, refused := true } } : State).endCycle.cwSet s.subj.d))
    ∧ (s.coh.busy = false → s.switchOk m = true → s.chainsOn m = false → exec .l2Switch s = .next (({ s with coh := { s.coh with
        ctlDoms := m, refused := false, busy := true, switch := some ⟨m⟩ } }.postEv .l2SwitchCommit).endCycle.cwSet s.subj.d))
    ∧ (∀ w, s.coh.switch = some w → s.drained = false → exec .l2SwitchCommit s = .next (s.postEv .l2SwitchCommit))
    ∧ (∀ w, s.coh.switch = some w → s.drained = true → s.coh.mc = [] → s.coh.lost = [] →
        ∃ s', exec .l2SwitchCommit s = .next s' ∧ s'.mem = s.coh.hwHeld.foldl (fun m w => wrN m w.1 w.2) s.mem ∧ s'.coh.hwHeld = []
          ∧ s'.coh.busy = false ∧ s'.coh.switch = none
          ∧ (∀ die k, die < 4 → k < 16 → s'.dom die k = if w.doms.getLsbD k then s.stagedDom die k else s.dom die k)
          ∧ (∀ e ∈ s'.coh.lines, s.switching (e.1 * 128) = false) ∧ (∀ e ∈ s'.coh.replicas, s.switching (e.1.2 * 128) = false)
          ∧ (∀ die k, die < 4 → k < 16 → w.doms.getLsbD k = true → s'.stagedDom die k = s'.dom die k)))
  ∧ (
  ∀ (s : State) (v : Part), tget s.parts s.subj.a = some v →
    let p := s.subj.a
    let x := s.subj.v.toNat
    (nfld x 0 1 = 0 ∨ v.invst.isSome = true → exec .mmuInvalidate s = .next (s.cwSet s.subj.d))
    ∧ (nfld x 0 1 = 1 → v.invst = none → exec .mmuInvalidate s = .next (((s.setPart p { v with invst := some (nfld x 2 2,
        (BitVec.ofNat 64 (nfld x 16 48 * 2 ^ 16)).toInt, []) }).postEv .mmuInvalidateComplete { a := p }).cwSet s.subj.d))
    ∧ (∀ size page g, v.invst = some (size, page, g) →
      let hit := invalHits size page
      (s.subj.c = 0 → ∃ s', exec .mmuInvalidateComplete s = .next s' ∧ s'.mem = s.mem
        ∧ (∀ y e, e ∈ tgetD s'.coh.tlb1 y [] → e.invalid p size page = false) ∧ (∀ d e, e ∈ tgetD s'.coh.tlb2 d [] → e.invalid p size page = false)
        ∧ (s'.part p).invst = some (size, page, s.pageUsers p hit) ∧ Act.ev .mmuInvalidateComplete { a := p, c := 1 } ∈ s'.agenda)
      ∧ (s.subj.c ≠ 0 → s.pageUsed p hit g = true ∨ s.flightHits p hit = true →
        exec .mmuInvalidateComplete s = .next (s.postEv .mmuInvalidateComplete s.subj))
      ∧ (s.subj.c ≠ 0 → s.pageUsed p hit g = false → s.flightHits p hit = false →
        let b := s.setPart p { v with invst := none }
        exec .mmuInvalidateComplete s = .next (b.killUnmapped p hit)
        ∧ ((∀ q ∈ b.queues ++ b.unusedQueues b.mem, q.part ≠ p) → exec .mmuInvalidateComplete s = .next b)))
    ∧ (∀ c, v.commit = some c → c.staged = none → s.idleSite c.site = false → s.away c.site c.who.inv = false →
      let bad := fun (s' : State) (r i : Nat) =>
        exec .rangeTableRead s = .next (((s'.raise c.who 0x0114 (c.who.details r [w32 i])).modPart p (fun v =>
          { v with commit := none, rcstat := rcWord v.rcstat true r i })).queueSem c.site c.sem 1 false [] 3 c.who.inv)
      (c.table % 1024 ≠ 0 → bad s 2 0)
      ∧ (∀ b, c.table % 1024 = 0 → s.readRange c.who c.table 1024 = .fail b → bad b 2 0)
      ∧ (∀ b, c.table % 1024 = 0 → s.readRange c.who c.table 1024 = .wait b → exec .rangeTableRead s = .next (b.postEv .rangeTableRead { a := p }))
      ∧ (∀ b bs, c.table % 1024 = 0 → s.readRange c.who c.table 1024 = .ok b bs → tget b.parts p = some v →
        (∀ i, b.rangeSet p bs (List.range 32) = .error i → bad b 3 i)
        ∧ (∀ rs, b.rangeSet p bs (List.range 32) = .ok rs → ∃ s' k, exec .rangeTableRead s = .next s' ∧ s'.mem = b.mem
            ∧ (s'.part p).commit = some k ∧ k.staged = some rs ∧ k.sem = c.sem ∧ k.gate = b.pageUsers p v.inRanges
            ∧ (s'.part p).ranges = v.ranges ∧ Act.ev .rangeCommitSwitch { a := p } ∈ s'.agenda)))
    ∧ (∀ c rs, v.commit = some c → c.staged = some rs →
      let busy := s.pageUsed p v.inRanges c.gate = true ∨ s.flightHits p v.inRanges = true ∨ s.coh.hwHeld ≠ []
      (busy → exec .rangeCommitSwitch s = .next (s.postEv .rangeCommitSwitch { a := p }))
      ∧ (¬busy → exec .rangeCommitSwitch s = .next ((s.setPart p { v with
          ranges := rs, commit := none, rcstat := w32 (2 ^ 31 + (nfld v.rcstat.toNat 0 8 + 1) % 256) }).queueSem c.site c.sem 1 false [] 3 c.who.inv)))
    ∧ (∀ bs i,
      let e := (bs.drop (32 * i)).take 32
      let f := fun (o n : Nat) => leNat ((e.drop o).take n)
      let vb := (BitVec.ofNat 64 (f 0 8)).toInt
      let vl := (BitVec.ofNat 64 (f 8 8)).toInt
      (nfld (f 0x18 4) 0 1 = 0 → s.rangeEntry p bs i = .ok none)
      ∧ (∀ r, s.rangeEntry p bs i = .ok (some r) → nfld (f 0x18 4) 0 1 = 1 ∧ r.vbase = vb ∧ r.vlimit = vl ∧ r.pbase = f 0x10 8
          ∧ (r.write = true ↔ nfld (f 0x18 4) 1 1 = 1) ∧ r.repl = nfld (f 0x18 4) 2 3 ∧ vb % 65536 = 0 ∧ vl % 65536 = 0 ∧ vb < vl
          ∧ r.pbase % 65536 = 0 ∧ r.repl ≤ 4 ∧ nfld (f 0x18 4) 5 27 = 0 ∧ f 0x1C 4 = 0)))

/-! ## Faults: records, fences, replies, errors -/

/-- R350 to R357, R363: taking a fault. The record of a replayable or reply-awaiting fault is written at the tail of the
trap queue while fewer than 248 entries are occupied, else held; a contained fault counts in its domain, fences it
under policy 1, and its record is lost where it finds no room; a stop fault writes its record in any entry left and
raises the halt line. The sixteen words hold the partition, class, region and code, the invocation id, the sequence
number, the entry with bit 8 for an awaited reply, the details, and the time of day. That `flt.tq.base` is a physical
address (assumption 11) and that the halt line rises in an event of its own and held records wait in order (assumption 27)
are the model's choice. -/
def Obligations.RecordQueued : Prop :=
  (∀ (s : State) (w : Who) (code : Nat) (ds : List Word) (r : RecFor) (va : Int) (v : Part), tget s.parts w.part = some v →
    let entry := v.tqTail.toNat % 256
    let at_ := (v.tqBase.toNat + 64 * entry) % 2 ^ 51
    (∀ e ∈ v.heldRecs, e.2.written = true) → s.coh.switch = none → s.coh.lost = [] → isAperture at_ = false →
    let cls := faultClass code
    let record := fun (await : Bool) =>
      [w32 (w.part * 2 ^ 28 + cls * 2 ^ 26 + w.region * 2 ^ 16 + code), s.invId w.inv, v.seq, w32 (entry + if await then 256 else 0)]
        ++ (ds ++ List.replicate 8 0).take 8 ++ [w32 s.tod, w32 (s.tod / 2 ^ 32), 0, 0]
    let written := fun (await : Bool) (b : State) => b.mem = wrN s.mem at_ (wordsBytes (record await))
    let room := (v.tqTail - v.tqHead).toNat < 248
    let b := s.raise w code ds (some r) va
    (cls = 0 ∨ cls = 3 → room → written true b ∧ tget b.parts w.part = some { v with
        tqTail := v.tqTail + 1, seq := v.seq + 1, recs := tset v.recs entry ⟨v.seq, r, code, va, false⟩ })
    ∧ (cls = 0 ∨ cls = 3 → ¬room → b.mem = s.mem ∧ Act.ev .trapRecordWrite { a := w.part, b := s.fresh } ∈ b.agenda
        ∧ tget b.parts w.part = some { v with heldRecs := tset v.heldRecs s.fresh ⟨code, cls, w.region, s.invId w.inv, ds, r, va, false⟩ })
    ∧ (cls = 1 →
      let d := tgetD v.domains (v.domOf w.region) ⟨false, false, 0⟩
      let counted := fun (v : Part) => { v with domains := tset v.domains (v.domOf w.region) { d with faults := min 65535 (d.faults + 1) } }
      ∃ c : State, (room → written false c ∧ tget c.parts w.part = some (counted { v with
          tqTail := v.tqTail + 1, seq := v.seq + 1, recs := tdel v.recs entry }))
        ∧ (¬room → c.mem = s.mem ∧ tget c.parts w.part = some (counted { v with lost := v.lost + 1 }))
        ∧ b = if d.policy then c.fenceDomain w.part w.region (some w.inv) else c)
    ∧ (cls = 2 → (v.tqTail - v.tqHead).toNat < 256 → written false b ∧ Act.ev .haltLineRaise { a := w.part, b := code } ∈ b.agenda
        ∧ tget b.parts w.part = some { v with tqTail := v.tqTail + 1, seq := v.seq + 1, recs := tdel v.recs entry })
    ∧ (cls = 2 → 256 ≤ (v.tqTail - v.tqHead).toNat → b.mem = s.mem ∧ Act.ev .haltLineRaise { a := w.part, b := code } ∈ b.agenda
        ∧ tget b.parts w.part = some { v with stop2 := 0x0200 }))
  ∧ (∀ code, faultClass code = if code < 0x10 then 0 else if code < 0x100 then 3 else if code < 0x200 then 1 else 2)

/-- R353: a domain is fenced once. Of its regions' work every token is discarded from fabric, queues and frames, copies are
cancelled and chains stop, element queues lose it, a running matrix instruction leaves its rows poisoned and its element
to the next of its queue, a running thread ends at its next boundary and every other one at once, and each running invocation counts as fenced. -/
def Obligations.DomainFence : Prop :=
  ∀ (s : State) (p r : Nat) (cause : Option Nat) (v : Part), tget s.parts p = some v →
    let o := v.domOf r
    let d := tgetD v.domains o ⟨false, false, 0⟩
    let b := s.fenceDomain p r cause
    let mine := fun (q n : Nat) => q = p ∧ ∃ g, (n, g) ∈ v.regions ∧ g.dom = o
    (d.fenced = true → b = s)
    ∧ (d.fenced = false →
      (tgetD (b.part p).domains o ⟨false, false, 0⟩).fenced = true
      ∧ (∀ k ∈ b.fabric, k ∈ s.fabric ∧ ¬mine k.part k.region)
      ∧ (∀ ag n k, k ∈ (b.cell ag).queue n → ¬mine k.part k.region)
      -- a token that leaves a frame leaves its slot empty; the others stand
      ∧ (∀ x n w, tget (s.site x).frames n = some w → ∃ y, tget (b.site x).frames n = some y ∧ y.slots = w.slots ∧ y.use = w.use
          ∧ (∀ e, e ∈ y.toks ↔ e ∈ w.toks ∧ ¬mine e.2.part e.2.region)
          ∧ ∀ j, j ∈ y.present ↔ j ∈ w.present ∧ ∀ k, (j, k) ∈ w.toks → ¬mine k.part k.region)
      ∧ (∀ ag q, q ∈ (b.cell ag).pairs → ¬mine q.lower.part q.lower.region ∧ ¬mine q.upper.part q.upper.region)
      ∧ (∀ x, ∀ k ∈ (b.site x).egress ++ (b.site x).ingress, ¬mine k.part k.region)
      ∧ (∀ x n c, tget (b.site x).copies n = some c → mine c.who.part c.who.region → c.cancelled = true)
      ∧ (∀ x n c, tget (b.site x).chains n = some c → mine c.who.part c.who.region → c.stopped = true)
      ∧ (∀ e, ∀ m ∈ (b.elem e).queue ++ (b.elem e).running.toList, ¬mine m.who.part m.who.region)
      ∧ (∀ e ∈ s.elems, ∀ m, e.2.running = some m → mine m.who.part m.who.region → Act.ev .matrixQueueStart { a := e.1 } ∈ b.agenda)
      -- the rows of a running instruction: those from its first, in every column
      ∧ (∀ n x m, tget s.elems n = some x → x.running = some m → mine m.who.part m.who.region → m.op ∉ [0xD0, 0xD7, 0xD8] →
          let r := fld m.lit 0 9
          ∃ y, tget b.elems n = some y ∧ y.running = none ∧ y.blocks = x.blocks ∧ y.stage = x.stage
            ∧ (∀ i c, r ≤ i → i < r + fld m.b 0 10 → c < 128 → ∃ a, tget y.acc (i * 128 + c) = some a ∧ a.pois = true)
            ∧ (∀ i c, i < r ∨ r + fld m.b 0 10 ≤ i → c < 128 → tget y.acc (i * 128 + c) = tget x.acc (i * 128 + c)))
      ∧ (∀ l x, tget b.launches l = some x → mine x.part x.region → x.st = .run → x.fenced = true)
      ∧ (∀ u t, tget b.threads u = some t → mine t.part t.region → t.ending = true))

/-- R357, R359, R360: a held record is written once fewer than 248 entries are occupied, after those held before it. A
reply is refused unless its
sequence number is that of an unanswered record at its entry; an accepted one clears bit 8 of the record's word 3 and
lets the record's work go on, fail or end.
R312, R313, R455: a control core answers a translation miss with retry where the walk finds a valid leaf, else with
fail; it serves a copy-on-write page by copying it to the pool's next page and writing the leaf, then by an
invalidation, then with a retry. That held records are written oldest first, one to a cycle (assumption 27), and that a
record without a copy-on-write leaf is answered with retry (assumption 44) are the model's choice. -/
def Obligations.RepliesAndAnswers : Prop :=
  (
  (∀ (s : State) (h : HeldRec) (v : Part), tget s.parts s.subj.a = some v → tget v.heldRecs s.subj.b = some h →
    s.coh.lost = [] → isAperture ((v.tqBase.toNat + 64 * (v.tqTail.toNat % 256)) % 2 ^ 51) = false →
    let p := s.subj.a
    let entry := v.tqTail.toNat % 256
    let again := Act.ev .trapRecordWrite { a := p, b := s.subj.b }
    let held := v.heldRecs.filter (fun e => !e.2.written)
    (h.written = false → 248 ≤ (v.tqTail - v.tqHead).toNat → exec .trapRecordWrite s = .next (s.post again))
    ∧ (h.written = true → held = [] → ∃ s', exec .trapRecordWrite s = .next s' ∧ s'.mem = s.mem
        ∧ tget s'.parts p = some { v with heldRecs := tdel v.heldRecs s.subj.b })
    ∧ (∀ n g rest, held = (n, g) :: rest → n ≠ s.subj.b → h.written = false → (v.tqTail - v.tqHead).toNat = 247 → s.coh.switch = none →
      let ws := recordWords p g.cls g.region g.code g.inv v.seq entry true g.details s.tod
      ∃ s', exec .trapRecordWrite s = .next s' ∧ s'.mem = wrN s.mem ((v.tqBase.toNat + 64 * entry) % 2 ^ 51) (wordsBytes ws)
        ∧ tget s'.parts p = some { v with heldRecs := tset v.heldRecs n { g with written := true }, tqTail := v.tqTail + 1, seq := v.seq + 1
                                          recs := tset v.recs entry ⟨v.seq, g.for_, g.code, g.va, false⟩ } ∧ again ∈ s'.agenda)
    ∧ (held = [(s.subj.b, h)] → (v.tqTail - v.tqHead).toNat < 248 → s.coh.switch = none →
      let ws := recordWords p h.cls h.region h.code h.inv v.seq entry true h.details s.tod
      ∃ s', exec .trapRecordWrite s = .next s' ∧ s'.mem = wrN s.mem ((v.tqBase.toNat + 64 * entry) % 2 ^ 51) (wordsBytes ws)
        ∧ tget s'.parts p = some { v with heldRecs := tdel v.heldRecs s.subj.b, tqTail := v.tqTail + 1, seq := v.seq + 1
                                          recs := tset v.recs entry ⟨v.seq, h.for_, h.code, h.va, false⟩ }
        ∧ (∀ u t, h.for_.uid? = some u → s.thr? u = some t → t.stat = .record → ∃ k, s'.thr? u = some k ∧ k.stat = .reply ∧ k.ip = t.ip)))
  ∧ (∀ (s : State) (v : Part) (m : RecMeta) (i : Instr) (act : Nat), tget s.parts s.subj.a = some v →
    (i, act) ∈ [(Instr.replyRetry, 0), (.replyFail, 1), (.replyEndThread, 2)] →
    s.coh.switch = none → s.coh.hwHeld = [] →
    let p := s.subj.a
    let x := s.subj.v.toNat
    let entry := nfld x 0 8
    let at_ := (v.tqBase.toNat + 64 * entry) % 2 ^ 51 + 13
    s.coh.lost = [] → isAperture at_ = false →
    let refused := exec i s = .next ((s.setPart p { v with refused := true }).cwSet s.subj.d)
    (tget v.recs entry = none → refused)
    ∧ (tget v.recs entry = some m → m.answered = true ∨ m.seq.toNat % 65536 ≠ nfld x 16 16 → refused)
    ∧ (tget v.recs entry = some m → m.answered = false → m.seq.toNat % 65536 = nfld x 16 16 →
      exec i s = .next ((s.acceptReply p entry m act).cwSet s.subj.d))
    ∧ (∀ u t, tget v.recs entry = some m → m.for_ = .loop u → s.thr? u = some t → t.stat = .reply → s.away t.src.site t.inv = false →
      ∃ b, s.acceptReply p entry m act = b ∧ b.mem = wrB s.mem at_ (rdB s.mem at_ &&& 0xFE)
        ∧ (∃ n, tget (b.part p).recs entry = some n ∧ n.answered = true)
        ∧ (act = 0 → ∃ k, b.thr? u = some k ∧ k.wait = none ∧ k.ip = t.ip ∧ k.lanes = t.lanes ∧ k.stat = if t.slot.isSome then .ready else .run)
        ∧ (act ≠ 0 → b.thr? u = none))
    ∧ (∀ u t, tget v.recs entry = some m → m.for_ = .trap u → s.thr? u = some t → t.stat = .reply → s.away t.src.site t.inv = false →
      ∃ c : State, c.mem = wrB s.mem at_ (rdB s.mem at_ &&& 0xFE) ∧ c.thr? u = some t ∧ c.cells = s.cells
        ∧ (act = 0 → s.acceptReply p entry m act = c.complete u {})
        ∧ (act ≠ 0 → s.acceptReply p entry m act = c.endThread u)))
  ∧ (∀ (s : State) (p page die a : Nat) (x : Access) (ok : Who → Bool), s.acc? a = some x → s.idleSite x.who.ag.site = false →
    ∀ m ∈ x.lanes, s.laneOn p page die 1 ok x m = true →
      ∃ y, (s.replyLanes p page die 1 false ok).acc? a = some y ∧ (∃ n ∈ y.lanes, n.lane = m.lane ∧ n.st = .walk ∧ n.ea = m.ea)
        ∧ Act.ev .pageWalk { a := a, b := m.lane } ∈ (s.replyLanes p page die 1 false ok).agenda))
  ∧ (
  ∀ (s : State) (m : RecMeta),
    let p := s.subj.a
    let entry := s.subj.b
    let go := fun (s : State) (c : Nat) => Host.Outcome.next (s.postEv .copyOnWriteService { a := p, b := entry, c := c })
    (s.openRec p entry 1 = none → exec .translationMissService s = .next s)
    ∧ (s.openRec p entry 1 = some m → s.hwHolds p (.syrad 0) m.va = true →
        exec .translationMissService s = .next (s.postEv .translationMissService { a := p, b := entry }))
    ∧ (s.openRec p entry 1 = some m → s.hwHolds p (.syrad 0) m.va = false →
        exec .translationMissService s = .next (s.acceptReply p entry m (if (s.walk p (.syrad 0) m.va).isSome then 0 else 1)))
    ∧ (s.openRec p entry 2 = some m →
      let held := s.hwHolds p (.syrad 0) m.va || s.switching (s.part p).cowbase.toNat
      (s.subj.c = 0 → held = true → exec .copyOnWriteService s = go s 0)
      ∧ (s.subj.c = 0 → held = false → s.walk p (.syrad 0) m.va = none → exec .copyOnWriteService s = .next (s.acceptReply p entry m 0))
      ∧ (∀ e, s.subj.c = 0 → held = false → s.walk p (.syrad 0) m.va = some e →
        (e.cow = false → exec .copyOnWriteService s = .next (s.acceptReply p entry m 0))
        ∧ (e.cow = true → s.cowCopy p m e = none → exec .copyOnWriteService s = .next (s.acceptReply p entry m 1))
        ∧ (∀ b, e.cow = true → s.cowCopy p m e = some b → exec .copyOnWriteService s = go b 1))
      ∧ (s.subj.c = 1 → (s.part p).invst.isSome = true → exec .copyOnWriteService s = go s 1)
      ∧ (s.subj.c = 1 → (s.part p).invst = none →
        exec .copyOnWriteService s = go (s.mmuInvalidate p ((BitVec.ofInt 64 m.va).toNat / 65536 * 65536 + 1)) 2)
      ∧ (s.subj.c = 2 → (s.part p).invst.isSome = true → exec .copyOnWriteService s = go s 2)
      ∧ (s.subj.c = 2 → (s.part p).invst = none → exec .copyOnWriteService s = .next (s.acceptReply p entry m 0)))
    ∧ (∀ v e at_, tget s.parts p = some v → s.leafAddr (va57 m.va) 4 (v.root.toNat / 4096 * 4096) = some at_ →
      let new := v.cowbase.toNat
      new < v.cowlimit.toNat → s.inMem p new 65536 = true → s.coh.switch = none → Memory.wf s.mem = true → s.coh.lost = [] →
      isAperture e.pa = false → isAperture at_ = false → isAperture new = false → (at_ + 8 ≤ new ∨ new + 65536 ≤ at_) →
      ∃ b, s.cowCopy p m e = some b ∧ (∀ i, i < 65536 → rdB b.mem (new + i) = rdB s.mem (e.pa + i))
        ∧ rdN b.mem at_ 8 = leBytes 8 (new / 256 * 256 + e.repl * 32 + 11)
        ∧ (∀ a, a < new ∨ new + 65536 ≤ a → a < at_ ∨ at_ + 8 ≤ a → rdB b.mem a = rdB s.mem a)
        ∧ tget b.parts p = some { v with cowbase := v.cowbase + 65536 }))

/-- R362, R374: an uncorrectable error poisons the word where it lies, in memory, a replica, a first-level copy or a tile's
state, marks the swapped context it is in, which its resume finds (the model's choice, assumption 41), or stops the partition whose
tables it is in; of a thread slot it poisons the one word; a corrected one counts; a die's oldest lantern record goes to the
ring, 32 bytes on. -/
def Obligations.ErrorsAndLantern : Prop :=
  ∀ (s : State),
    (∀ pa, s.subj.err = .memory pa → exec .memoryError s = .next (s.spoil pa)
      ∧ (∀ a, a ∈ (s.spoil pa).memBad ↔ a ∈ s.memBad ∨ a / 4 = pa / 4) ∧ (s.spoil pa).mem = s.mem)
    ∧ (∀ ag slot p, s.subj.err = .table ag slot → (s.site ag.site).part = some p →
      ∃ b : State, exec .memoryError s = .next (b.stopFault p (s.site ag.site).region 0 0xFFFFFFFF 0x0201
          [0, tileid ag, 0, 0, w32 ag.cell, w32 slot])
        ∧ slot ∈ (b.cell ag).bad ∧ (b.site ag.site).err = true ∧ b.parts = s.parts ∧ b.mem = s.mem)
    ∧ (∀ n i slot lane w ws, s.subj.err = .frame n i slot lane → tget (s.site (.tile n)).frames i = some w → tget w.slots slot = some ws →
      ∃ s' k, exec .memoryError s = .next s' ∧ tget (s'.site (.tile n)).frames i = some k
        ∧ tget k.slots slot = some (ws.mapIdx (fun j x => if j = lane then { x with pois := true } else x)) ∧ s'.mem = s.mem
        ∧ (s'.site (.tile n)).err = true)
    ∧ (∀ ag i, s.subj.err = .laneFile ag i → ∃ s', exec .memoryError s = .next s' ∧ s'.mem = s.mem
        ∧ ∀ j, tgetD (s'.cell ag).bank j .zero = if j = i then { tgetD (s.cell ag).bank i .zero with pois := true } else tgetD (s.cell ag).bank j .zero)
    ∧ (∀ ag port lane k ks, s.subj.err = .queue ag port lane → tget (s.cell ag).queues port = some (k :: ks) →
      ∃ s', exec .memoryError s = .next s' ∧ s'.mem = s.mem
        ∧ (s'.cell ag).queue port = { k with data := k.data.mapIdx (fun j x => if j = lane then { x with pois := true } else x) } :: ks)
    ∧ (∀ (x : Lane) (k : Nat), k < 5 → let words := fun (y : Lane) => [y.a, y.b, y.c, y.d, y.v]
        words (x.poison k) = (words x).mapIdx (fun i q => if i = k then { q with pois := true } else q) ∧ (x.poison k).p = x.p)
    ∧ (∀ u lane k t, s.subj.err = .threadSlot u lane k → s.thr? u = some t → exec .memoryError s = .next ((s.setSite t.src.site { s.site t.src.site with err := true }).setThr u { t with
        lanes := t.lanes.mapIdx (fun l x => if l = lane then x.poison k else x) }))
    ∧ (∀ n bv, s.subj.err = .bivouac n → tget s.biv n = some bv → ∃ s', exec .memoryError s = .next s'
        ∧ tget s'.biv n = some { bv with bad := true } ∧ s'.mem = s.mem ∧ s'.parts = s.parts)
    ∧ (∀ n pa, s.subj.err = .l1 n pa → ∃ s', exec .memoryError s = .next s' ∧ s'.mem = s.mem ∧ s'.memBad = s.memBad
        ∧ (∀ e, e ∈ s'.coh.l1Bad ↔ e ∈ s.coh.l1Bad ∨ e.1 = .tile n ∧ e.2 / 4 = pa / 4) ∧ (s'.site (.tile n)).err = true)
    ∧ (∀ d pa r, s.subj.err = .replica d pa → tget s.coh.replicas (d, lineOf pa) = some r → ∃ s' q, exec .memoryError s = .next s'
        ∧ s'.mem = s.mem ∧ s'.memBad = s.memBad ∧ tget s'.coh.replicas (d, lineOf pa) = some q ∧ q.bytes = r.bytes
        ∧ ∀ a, a ∈ q.bad ↔ a ∈ r.bad ∨ a / 4 = pa / 4)
    ∧ (∀ v, tget s.parts s.subj.a = some v → exec .eccCorrection s = .next (s.setPart s.subj.a { v with ecc := v.ecc + 1 }))
    ∧ (∀ r rs, tgetD s.lantern.buf s.subj.a [] = r :: rs → s.coh.switch = none →
      let ring := 2 ^ min 30 (max 16 (fld s.lantern.ctl 0 5))
      let o := s.lantern.wr.toNat % ring
      s.coh.lost = [] → isAperture ((s.lantern.base.toNat / ring * ring + o) % 2 ^ 51) = false →
      ∃ s', exec .lanternDrain s = .next s' ∧ s'.lantern.wr = w32 ((o + 32) % ring) ∧ tgetD s'.lantern.buf s.subj.a [] = rs
        ∧ s'.mem = wrN s.mem ((s.lantern.base.toNat / ring * ring + o) % 2 ^ 51) (wordsBytes r.words) ∧ s'.parts = s.parts)

/-! ## The halt line, pre-emption, resume -/

/-- R363 to R368: the line rises once, with its code, and every engine slot of the partition has to stop; a later stop code
stands as the second; an engine that has reached its stop unit writes its 32 words at its slot of the stop area; the
release takes effect once all have, and the time that passed under the halt is no work time.
R345, R369 to R373: a pre-emption asks the tiles and elements that run the regions' invocations to stop; the last one
that has acknowledged starts the swap-out, which takes each tile's context to its bivouac slot and leaves the tile
free; resume, commanded or after a quantum, waits for free tiles, stops the partition where a context has an uncorrectable
error (R362), pitches their tables again, and puts back contexts, threads, times and kept replies. That a pre-emption which
finds nothing to stop does nothing, the deadlines on the work clock and the error found at resume (assumption 41), the halt
in an event of its own (27) and a resume pending until its tiles are free (50) are the model's choice. -/
def Obligations.HaltPreemptionAndResume : Prop :=
  (
  ∀ (s : State) (v : Part), tget s.parts s.subj.a = some v →
    let p := s.subj.a
    (exec .raiseHalt s = .next ((s.postEv .haltLineRaise { a := p }).cwSet s.subj.d))
    ∧ (v.halted = false → ∃ s', exec .haltLineRaise s = .next s' ∧ s'.mem = s.mem ∧ tget s'.parts p = some { v with
          halted := true, haltAt := s.cycle, stop1 := s.subj.b, stopping := s.slotsOf p v.tiles v.elems }
        ∧ (∀ k ∈ s.slotsOf p v.tiles v.elems, Act.ev .engineStop { a := p, b := k } ∈ s'.agenda))
    ∧ (v.halted = true → s.subj.b ≠ 0 → v.stop2 = 0 → exec .haltLineRaise s = .next (s.setPart p { v with stop2 := s.subj.b }))
    ∧ (v.halted = true → s.subj.b = 0 ∨ v.stop2 ≠ 0 → exec .haltLineRaise s = .next s)
    ∧ (s.subj.c = 0 → v.halted = true → s.subj.b ∈ v.stopping →
      let ready := s.engineReady p s.subj.b v.stopping (fun x => (s.site x).part == some p)
      (ready = false → exec .engineStop s = .next (s.postEv .engineStop s.subj))
      ∧ (ready = true →
        let b := (s.stopEngine p s.subj.b).hwWrite ((v.srbase.toNat / 4096 * 4096 + 128 * s.subj.b) % 2 ^ 51)
          (wordsBytes (s.stopRecord p s.subj.b))
        exec .engineStop s = .next (b.modPart p (fun v => { v with stopping := v.stopping.filter (· ≠ s.subj.b) }))))
    ∧ (∀ k, (s.stopRecord p k).length = 32
        ∧ (s.stopRecord p k).take 3 = [w32 (p * 2 ^ 28 + slotKind k * 2 ^ 24 + k), w32 (v.stop1 + v.stop2 * 2 ^ 16), w32 (s.cycle - v.haltAt)])
    ∧ (v.halted = false ∨ v.stopping ≠ [] → exec .releaseHalt s = .next (s.cwSet s.subj.d))
    ∧ (v.halted = true → v.stopping = [] → ∃ b : State, exec .releaseHalt s = .next (b.cwSet s.subj.d) ∧ b.mem = s.mem
        ∧ (b.part p).halted = false ∧ (b.part p).stop1 = 0 ∧ (b.part p).stop2 = 0
        ∧ (b.part p).frozen = v.frozen + (s.cycle - v.haltAt) ∧ (v.haltAt ≤ s.cycle → b.work p = s.work p)
        ∧ (∀ q, q ≠ p → b.part q = s.part q)))
  ∧ (
  ∀ (s : State) (v : Part), tget s.parts s.subj.a = some v →
    let p := s.subj.a
    let q := v.preempt
    (exec .preemptRegion s = .next ((s.preempt p (v.subtree s.subj.b) false).cwSet s.subj.d))
    ∧ (∀ rs,
      let ls := s.runningOf p rs
      let tiles := v.tiles.filter (fun n => s.tileRuns p n ls)
      let elems := v.elems.filter (fun e => s.elemRuns e ls)
      (v.halted = true ∨ q.st ≠ 0 ∨ (∃ n ∈ tiles, (tget s.biv n).isSome = true) ∨ (tiles = [] ∧ elems = []) →
        s.preempt p rs false = s)
      ∧ (v.halted = false → q.st = 0 → (∀ n ∈ tiles, tget s.biv n = none) → (tiles ≠ [] ∨ elems ≠ []) →
        let b := s.preempt p rs false
        (tget b.parts p = some { v with preempt := ⟨1, rs, tiles, elems, s.slotsOf p tiles elems, false⟩ })
        ∧ ∀ k ∈ s.slotsOf p tiles elems, Act.ev .engineStop { a := p, b := k, c := 1 } ∈ b.agenda))
    ∧ (s.subj.c ≠ 0 → s.subj.b ∈ q.toStop → v.halted = false →
      let ready := s.engineReady p s.subj.b q.toStop (fun x => q.covers (engOf x))
      (ready = false → exec .engineStop s = .next (s.postEv .engineStop s.subj))
      ∧ (ready = true → s.subj.b < 512 → (s.site (.tile s.subj.b)).colq = [] → ∃ s', exec .engineStop s = .next s' ∧ s'.mem = s.mem
          ∧ (s'.part p).preempt = { q with toStop := q.toStop.filter (· ≠ s.subj.b) }
          ∧ (q.toStop.filter (· ≠ s.subj.b) = [] → Act.ev .preemptionComplete { a := p } ∈ s'.agenda)))
    ∧ (q.st = 1 → q.toStop = [] → v.halted = true → exec .preemptionComplete s = .next (s.postEv .preemptionComplete { a := p }))
    ∧ (q.st = 1 → q.toStop = [] → v.halted = false → s.scr = [] → ∃ s', exec .preemptionComplete s = .next s' ∧ s'.mem = s.mem
        ∧ (s'.part p).preempt = { q with st := 2 } ∧ Act.ev .swapOutComplete { a := p } ∈ s'.agenda)
    ∧ (∀ k, s.lands k = true ↔ k.first s.fabric = true ∧ s.entryWaits k = false ∧ s.away k.dst k.inv = false
        ∧ ((s.site k.dst).ingress.filter (fun m => !m.held)).length < (if k.tag.kind = .control then 64 else 56))
    ∧ (q.st = 2 → (∃ k ∈ s.fabric, s.lands k = true ∧ ∃ n ∈ q.tiles, k.dst = .tile n) → exec .swapOutComplete s = .next (s.postEv .swapOutComplete { a := p }))
    ∧ (q.st = 2 → (∀ k ∈ s.fabric, s.lands k = true → ∀ n ∈ q.tiles, k.dst ≠ .tile n) → q.elems = [] → (∀ n, q.tiles = [n] →
        let x : Site := .tile n
        ∃ s' bv, exec .swapOutComplete s = .next s' ∧ s'.mem = s.mem ∧ (s'.part p).preempt = { q with st := 3 } ∧ tget s'.biv n = some bv
          ∧ bv.site.frames = (s.site x).frames ∧ bv.site.img = (s.site x).img ∧ bv.site.egress = (s.site x).egress
          ∧ bv.site.sems = (s.site x).sems ∧ (∀ c, c < 64 → tget bv.cells c = some (s.cell ⟨x, c⟩))
          ∧ (∀ u t, s.thr? u = some t → t.src.site = x → ∃ k, (u, k) ∈ bv.threads ∧ k.lanes = t.lanes ∧ k.ip = t.ip ∧ k.stat = t.stat
              ∧ ∀ w d, t.wait = some w → w.deadline = some d → k.wait = some { w with deadline := some (d - s.work p) })
          ∧ (s'.site x).img = none ∧ (s'.site x).frames = [] ∧ (s'.site x).part = (s.site x).part
          ∧ (∀ c, c < 64 → (s'.cell ⟨x, c⟩).instr = [] ∧ (s'.cell ⟨x, c⟩).queues = [] ∧ (s'.cell ⟨x, c⟩).bank = [])
          ∧ (∀ u t, s'.thr? u = some t → t.src.site ≠ x)
          ∧ (∀ u t, s.thr? u = some t → t.src.site ≠ x → s'.thr? u = some t)))
    ∧ (exec .resumeRegion s = .next (State.cwSet (if q.st = 3 ∧ s.subj.b ∈ q.regions then
          (s.setPart p { v with preempt := { q with byQuantum := false } }).postEv .resume { a := p } else s) s.subj.d))
    ∧ (let prio := fun (r : Nat) => ((tget v.regions r).map (fun g => g.prio)).getD 0
       s.placeWaits p q.regions = true ↔ ∃ e ∈ s.launches, e.2.part = p ∧ e.2.st = .place ∧ e.2.region ∉ q.regions
         ∧ (∀ r ∈ q.regions, prio r ≤ prio e.2.region) ∧ ∃ m, s.image? (pktKey p e.2.hdr) = some m ∧ (s.placeStep e.2 m).2 = true)
    ∧ (q.st = 3 → v.halted = true ∨ (∃ n ∈ q.tiles, s.freeTile p n = false) ∨ (q.byQuantum = true ∧ s.placeWaits p q.regions = true) →
        exec .resume s = .next (s.postEv .resume { a := p }))
    ∧ (∀ n bv o, q.st = 3 → v.halted = false → q.tiles = [n] → s.freeTile p n = true →
        (q.byQuantum = false ∨ s.placeWaits p q.regions = false) → tget s.biv n = some bv → bv.bad = true → bv.site.part = some o →
        exec .resume s = .next ((s.stopFault o bv.site.region 0 0xFFFFFFFF 0x0202 [0, tileid ⟨.tile n, 0⟩]).postEv .resume { a := p }))
    ∧ (q.st = 3 → v.halted = false → (∀ n ∈ q.tiles, s.freeTile p n = true) → (q.byQuantum = false ∨ s.placeWaits p q.regions = false) →
        (∀ n ∈ q.tiles, ∀ bv, tget s.biv n = some bv → bv.bad = false) →
        exec .resume s = .next (((q.tiles.foldl State.swapIn s).modPart p (fun v => { v with preempt := { v.preempt with st := 4 } })).postEv
          .swapInComplete { a := p }))
    ∧ (∀ n bv k m, tget s.biv n = some bv → bv.site.img = some k → s.image? k = some m →
        let x : Site := .tile n
        let b := s.swapIn n
        b.mem = s.mem ∧ b.threads = s.threads ∧ b.site x = { bv.site with valid := false }
        ∧ ∀ c old, c < 64 → bv.cells = [(c, old)] → (b.cell ⟨x, c⟩).queues = old.queues ∧ (b.cell ⟨x, c⟩).bank = old.bank
            ∧ (b.cell ⟨x, c⟩).slots = old.slots
            ∧ (b.cell ⟨x, c⟩).instr = (Rec.cellOf ((imgRecs m.bytes bv.site.stage).find? (fun r => r.cell = c))).instr)
    ∧ (q.st = 4 → v.halted = true → exec .swapInComplete s = .next (s.postEv .swapInComplete { a := p }))
    ∧ (q.st = 4 → v.halted = false → q.elems = [] → v.kept = [] → s.accs = [] → ∀ n bv, q.tiles = [n] → tget s.biv n = some bv →
        bv.threads = [] →
        ∃ s', exec .swapInComplete s = .next s' ∧ s'.mem = s.mem ∧ tget s'.biv n = none ∧ (s'.site (.tile n)).valid = true
          ∧ (s'.part p).preempt = Preempt.reset ∧ s'.threads = s.threads ∧ (∀ a ∈ bv.acts, a ∈ s'.agenda)
          ∧ ∀ c, c < 64 → Act.ev .workSelection { ag := ⟨.tile n, c⟩ } ∈ s'.agenda)
    -- a thread of the context, and a reply kept for it
    ∧ (∀ n bv u t, q.st = 4 → v.halted = false → q.elems = [] → s.accs = [] → q.tiles = [n] → tget s.biv n = some bv → bv.threads = [(u, t)] →
        s.thr? u = none → t.src.site = .tile n → t.inv ∈ bv.invs → t.ending = false → t.stat = .reply → t.wait = none →
        (v.kept = [] → ∃ s', exec .swapInComplete s = .next s' ∧ s'.thr? u = some t)
        ∧ (∀ code act, v.kept = [⟨.loop u, code, act⟩] → ∃ s', exec .swapInComplete s = .next s' ∧ (s'.part p).kept = []
            ∧ (act ≠ 0 → s'.thr? u = none)
            ∧ (act = 0 → ∃ k, s'.thr? u = some k ∧ k.lanes = t.lanes ∧ k.ip = t.ip ∧ k.stat = if t.slot.isSome then .ready else .run)))
    ∧ (∀ n bv u t w d, tget s.biv n = some bv → bv.threads = [(u, t)] → s.thr? u = none → t.ending = false → t.stat = .wait →
        t.wait = some w → w.deadline = some d →
        ∃ k, (s.reviveTile p n (s.work p)).thr? u = some k ∧ k.wait = some { w with deadline := some (d + s.work p) } ∧ k.lanes = t.lanes
          ∧ Act.ev .waitTest { a := u } ∈ (s.reviveTile p n (s.work p)).agenda))

/-! ## Reltin: flits between modules -/

/-- R426, R438: the flits of one source are taken in the order they came; a flit for a node that no port is known for, or of a reserved kind, is discarded with an error of its port;
one for another node goes on through that node's port; one for this module starts its kind's event; in recovery only
the management commands 2 to 4 for this module do, and every other flit is discarded.
R428, R268, R258: an access of another module is served in the partition's export window. A read answers with the
line or a refusal; a write and an atomic take effect at the home, are kept until every collapse they sent is
acknowledged, and then are acknowledged, the atomic with the old value.
R428, R432, R363: an answer from another module gives its lane its bytes, or a failure where it is refused; a sync
message of the grandmaster on the best port sets the time; a stop flit takes the stop fault "host stop". The place that an
unfinished flit keeps, what recovery discards and the refusal of a line in error (assumption 43), the collapses awaited (14)
and the port whose errors count (33) are the model's choice. -/
def Obligations.FlitsHandled : Prop :=
  (
  ∀ (s : State) (f : Flit), s.flit? s.subj.a = some f →
    let n := s.subj.a
    let s1 : State := { s with io := { s.io with flits := tdel s.io.flits n } }
    let bad := exec .flitForwarding s = .next { s1 with io := { s1.io with errs := tset s.io.errs f.port (tgetD s.io.errs f.port 0 + 1) } }
    let here := f.dst = s.io.node ∧ f.kind < 9
    let events := [(0, Instr.commandFlit), (2, .readFlit), (3, .readReplyFlit), (4, .writeFlit), (5, .atomicFlit),
      (6, .acknowledgementFlit), (7, .timeFlit), (8, .stopFlit)]
    let commands := [(1, Instr.managementQueueRead), (2, .identity), (3, .attest), (4, .imageLoad), (5, .partitionCreate),
      (6, .managementWrite), (7, .partitionDestroy)]
    let command := fld f.word 0 8
    (s.flitWaits n f = true → exec .flitForwarding s = .next (s.postEv .flitForwarding { a := n }))
    ∧ (s.flitWaits n f = true ↔ ∃ e ∈ s.io.flits.takeWhile (fun e => decide (e.1 ≠ n)), e.2.src = f.src ∧ e.2.dst = f.dst
        ∧ Act.ev .flitForwarding { a := e.1 } ∈ s.agenda)
    ∧ (s.flitWaits n f = false →
    (9 ≤ f.kind ∨ (f.dst ≠ s.io.node ∧ tget s.io.ports f.dst = none) → bad)
    ∧ (f.kind < 9 → f.dst ≠ s.io.node → s.io.recovery = true → bad)
    ∧ (∀ q, f.kind < 9 → f.dst ≠ s.io.node → s.io.recovery = false → s.io.booted = true → tget s.io.ports f.dst = some q →
      exec .flitForwarding s = .next { s1 with io := { s1.io with out := s.io.out ++ [{ f with port := q }] } })
    ∧ (here → s.io.recovery = true → (f.kind ≠ 1 ∨ command < 2 ∨ 4 < command) → bad)
    ∧ (here → s.io.recovery = false → s.io.booted = false → exec .flitForwarding s = .next s1)
    ∧ (here → s.io.recovery = false → s.io.booted = true → ∀ i, (f.kind, i) ∈ events →
      exec .flitForwarding s = .next { s with turn := some (.ev i { a := n }) })
    ∧ (here → f.kind = 1 → (s.io.recovery = false ∧ s.io.booted = true ∨ s.io.recovery = true ∧ 2 ≤ command ∧ command ≤ 4) →
      ∀ i, (command, i) ∈ commands → ∃ s', exec .flitForwarding s = .next s' ∧ s'.turn = some (.ev i { a := n }) ∧ s'.flit? n = some f
        ∧ s'.mem = s.mem ∧ s'.parts = s.parts)))
  ∧ (
  ∀ (s : State) (f : Flit), s.flit? s.subj.a = some f →
    let n := s.subj.a
    let s1 := s.dropFlit n
    let tag := fld f.word 0 8
    let line := f.arg.toNat / 128 * 128
    (s.exported f.part f.arg.toNat 128 = none → exec .readFlit s = .next (s1.answer f 3 (w32 (tag + 256)) (List.replicate 128 0)))
    ∧ (∀ pa, s.exported f.part f.arg.toNat 128 = some pa →
      (s.switching pa = true → exec .readFlit s = .next (s.postEv .readFlit s.subj))
      ∧ (s.switching pa = false → s.badAt pa 128 = true →
        exec .readFlit s = .next (s1.answer f 3 (w32 (tag + 256)) (List.replicate 128 0)))
      ∧ (s.switching pa = false → s.badAt pa 128 = false → exec .readFlit s = .next (s1.answer f 3 (w32 tag) (rdN s.mem pa 128))))
    ∧ (s.subj.b = 0 → s.exported f.part line 128 = none → exec .writeFlit s = .next (s1.ack f tag 1 []))
    ∧ (∀ pa, s.subj.b = 0 → s.exported f.part line 128 = some pa →
      (s.switching pa = true → exec .writeFlit s = .next (s.postEv .writeFlit s.subj))
      ∧ (s.switching pa = false → s.queuesIn s.mem (lineOf pa) = [] → ∃ s', exec .writeFlit s = .next s'
          ∧ s'.mem = wrMasked s.mem pa (f.payload.take 128) (flitMask f.payload) ∧ s'.flit? n = some f ∧ s'.parts = s.parts
          ∧ Act.ev .writeFlit { a := n, b := 1 + lineOf pa, c := s'.fresh } ∈ s'.agenda
          ∧ ∀ c ∈ s'.coh.colls, c ∈ s.coh.colls ∨ (c.line = lineOf pa ∧ c.id < s'.fresh)))
    ∧ (s.subj.b ≠ 0 →
      let owes := ∃ c ∈ s.coh.colls, c.line = s.subj.b - 1 ∧ c.id < s.subj.c
      (owes → exec .writeFlit s = .next (s.postEv .writeFlit s.subj)
        ∧ exec .atomicFlit s = .next (s.postEv .atomicFlit s.subj))
      ∧ (¬owes → exec .writeFlit s = .next (s1.ack f tag 0 []) ∧ exec .atomicFlit s = .next (s1.ack f tag 0 f.payload)))
    ∧ (∀ k, s.subj.b = 0 → atKindOf (fld f.word 8 8) (fld f.word 16 4) = some k →
      let z := if k = .tri then 8 else 4
      let old := rdN s.mem (((s.part f.part).expBase.toNat) + f.arg.toNat) z
      (s.exported f.part f.arg.toNat z = none → exec .atomicFlit s = .next (s1.ack f tag 1 []))
      ∧ (∀ pa, s.exported f.part f.arg.toNat z = some pa →
        (pa % z = 0 → s.badAt pa z = false → s.switching pa = true → exec .atomicFlit s = .next (s.postEv .atomicFlit s.subj))
        ∧ (pa % z ≠ 0 ∨ s.badAt pa z = true → exec .atomicFlit s = .next (s1.ack f tag 1 []))
        ∧ (pa % z = 0 → s.badAt pa z = false → s.switching pa = false → s.queuesIn s.mem (lineOf pa) = [] →
          let new := leBytes z (k.apply (leNat old) (leNat (f.payload.take z)) (leNat ((f.payload.drop 8).take 4)))
          ∃ s' i, exec .atomicFlit s = .next s' ∧ s'.mem = wrN s.mem pa new ∧ s'.flit? n = some { f with payload := (old ++ List.replicate 240 0).take 240 }
            ∧ Act.ev .atomicFlit i ∈ s'.agenda ∧ i.a = n ∧ i.b = 1 + lineOf pa ∧ i.c = s'.fresh)))
    ∧ (s.subj.b = 0 → atKindOf (fld f.word 8 8) (fld f.word 16 4) = none → exec .atomicFlit s = .next (s1.ack f tag 1 [])))
  ∧ (
  ∀ (s : State) (f : Flit), s.flit? s.subj.a = some f →
    let s1 := s.dropFlit s.subj.a
    let tag := fld f.word 0 8
    (∀ i ∈ [Instr.readReplyFlit, .acknowledgementFlit], tget s.io.remote tag = none → exec i s = .next s1)
    ∧ (∀ a l x m, tget s.io.remote tag = some (a, l) → s.acc? a = some x → x.lane? l = some m → m.st = .remote →
      -- the answer's payload counts at its port (R325)
      let bytes := fun (refused : Bool) => match x.op with
        | .atomic _ => if refused then 0 else m.size
        | .st => 0
        | .stm => 0
        | _ => 128
      let back := fun (refused : Bool) => ({ s1 with io := { s1.io with remote := tdel s1.io.remote tag } } : State).charge x.who.part x.who.region
        (12 + f.port / 4) itemReltin (bytes refused)
      let b := back false
      (bit f.word 8 = true → exec .readReplyFlit s = .next ((back true).failLane a l 3))
      ∧ (bit f.word 8 = false → x.op.isLdmc = false →
        exec .readReplyFlit s = .next (b.finishLane a l ((f.payload.drop (m.pa % 128)).take m.size) false []))
      ∧ (bit f.word 8 = false → x.op.isLdmc = true → exec .readReplyFlit s = .next (b.modLane a l (fun m =>
          { m with st := .todo, got := (f.payload.drop (m.pa % 128)).take m.size })))
      ∧ (fld f.word 8 3 ≠ 0 → exec .acknowledgementFlit s = .next ((back true).failLane a l 3))
      ∧ (fld f.word 8 3 = 0 → x.op = .st ∨ x.op = .stm → exec .acknowledgementFlit s = .next (b.finishLane a l [] false []))
      ∧ (∀ k, fld f.word 8 3 = 0 → x.op = .atomic k → exec .acknowledgementFlit s = .next (b.finishLane a l (f.payload.take m.size) false [])))
    ∧ (let best := ∀ q, s.io.grandmaster = some q → f.port ≤ q
       (Config.isSync f.word f.payload = false ∨ ¬best → exec .timeFlit s = .next s1)
       ∧ (Config.isSync f.word f.payload = true → best → ∃ s', exec .timeFlit s = .next s' ∧ s'.tod = Config.disciplined f.payload s.tod
          ∧ s'.io.locked = true ∧ s'.io.grandmaster = some f.port ∧ s'.mem = s.mem ∧ s'.cycle = s.cycle
          ∧ (∀ x, Act.ev .periodBoundary x ∈ s1.agenda → Act.ev .periodBoundary { x with b := (s'.tod / 50000 + 1) * 50000 } ∈ s'.agenda)))
    ∧ (tget s.parts f.part = none → exec .stopFlit s = .next s1)
    ∧ (∀ v, tget s.parts f.part = some v → exec .stopFlit s = .next (s1.stopFault f.part 0 0 0xFFFFFFFF 0x0204 [])))

/-! ## The module: management, boot, life cycle, the Syrad engine, power -/

/-- R429 to R431, R438, R439: the management commands. A queue read gives the two words of a live partition's queue, identity
and attestation answer while the module holds its key, an image load that verifies resets the module onto it; creation
and destruction of a partition and a control-word write are a host's in production; R441: the dies of a new partition's
tiles and elements run. A command that is refused answers with status 1. The tag of the acknowledgement, the queue of a
queue read, the digest's bytes, the root's alignment and the acts that leave with a partition (assumption 43), and the
opaque signature and choice of hosts (assumption 9) are the model's choice. -/
def Obligations.ManagementCommands : Prop :=
  ∀ (s : State) (f : Flit), s.flit? s.subj.a = some f →
    let s1 := s.dropFlit s.subj.a
    let cmd := fld f.word 0 8
    let host := s.io.life = .production ∧ Config.isHost f.src = true
    let bs := f.payload
    let no := s1.ack f cmd 1 []
    (tget s.parts f.part = none → exec .managementQueueRead s = .next no)
    ∧ (∀ v, tget s.parts f.part = some v →
      let q := tgetD v.queues (f.arg.toNat % 8) HostQ.reset
      exec .managementQueueRead s = .next (s1.ack f cmd 0 (leBytes 4 ((if q.live then 256 else 0) + q.prio)
        ++ leBytes 4 (s1.cwPart v f.part 0x801 (f.arg.toNat % 8)))))
    ∧ (s.io.identity = true → exec .identity s = .next (s1.ack f cmd 0 Config.identity))
    ∧ (s.io.identity = false → exec .identity s = .next no ∧ exec .attest s = .next no)
    ∧ (s.io.identity = true →
      let sig := Config.signature (Config.digest (Config.digest s.io.flash ++ [BitVec.ofNat 8 s.io.life.code] ++ leBytes 4 0xB0 ++ bs.take 64))
      exec .attest s = .next ((List.range ((sig.length + 239) / 240)).foldl (fun s i => s.ack f cmd 0 ((sig.drop (240 * i)).take 240)) s1))
    ∧ (let img := Config.firmwareOf bs
       (Config.signatureOk (Config.digest img) = false → exec .imageLoad s = .next no)
       ∧ (Config.signatureOk (Config.digest img) = true → ∃ s', exec .imageLoad s = .next s' ∧ s'.io.flash = img ∧ s'.io.life = s.io.life
          ∧ s'.io.identity = s.io.identity ∧ s'.mem = [] ∧ s'.parts = [] ∧ s'.threads = [] ∧ s'.agenda = [.ev .powerOnReset {}]))
    ∧ (¬host ∨ creationOk bs = false ∨ s.recFree bs = false → exec .partitionCreate s = .next no)
    ∧ (rec8 bs 0xD0 % 4096 ≠ 0 → exec .partitionCreate s = .next no)
    ∧ (host → creationOk bs = true → s.recFree bs = true →
      (∀ r, s.handlerOf bs = .error r → exec .partitionCreate s = .next (s1.ack f cmd 1 (leBytes 4 r)))
      ∧ (∀ img, s.handlerOf bs = .ok img →
        let p := leNat (bs.take 4)
        ∃ b v, exec .partitionCreate s = .next (State.ack b f cmd 0 []) ∧ tget b.parts p = some v ∧ b.mem = s.mem
          ∧ v.tiles = recTiles bs ∧ v.elems = recElems bs ∧ v.handler = img ∧ v.expBase.toNat = rec8 bs 0xB8 % 2 ^ 64 ∧ v.tqBase = v.expBase
          ∧ v.tqHead = 0 ∧ v.tqTail = 0 ∧ v.halted = false ∧ v.frmK = nfld f.arg.toNat 0 5 ∧ v.regions.map (fun e => e.1) = [0]
          ∧ (∀ n ∈ v.tiles, b.site (.tile n) = { SiteSt.reset with part := some p })
          ∧ (∀ n ∈ v.tiles, b.powerOf (n / 64) = .running) ∧ (∀ e ∈ v.elems, b.powerOf (8 + e / 96) = .running)
          ∧ (∀ q, q ≠ p → tget b.parts q = tget s.parts q)))
    ∧ (let c := sysCw (leNat (bs.take 1) % 16) (w32 (leNat ((bs.drop 4).take 4)))
       let x := leNat ((bs.drop 8).take 8)
       (¬host ∨ s.cwWrites c = false ∨ cwWriter c.n = 1 ∨ tget s.parts c.part = none → exec .managementWrite s = .next no)
       ∧ (host → s1.cwWrites c = true → cwWriter c.n ≠ 1 → (tget s.parts c.part).isSome = true →
          let e := s1.cwEvent c.n c.part c.i c.die (if c.wide then x % 2 ^ 64 else x % 2 ^ 32) 0
          exec .managementWrite s = .next (State.ack { s1 with turn := some (.ev e.1 e.2) } f cmd 0 [])))
    ∧ (let p := leNat (bs.take 1) % 16
       (¬host ∨ tget s.parts p = none → exec .partitionDestroy s = .next no)
       ∧ (∀ v, host → tget s.parts p = some v → Memory.wf s.mem = true →
          ∃ b, exec .partitionDestroy s = .next (State.ack b f cmd 0 []) ∧ tget b.parts p = none
          ∧ (∀ q, q ≠ p → tget b.parts q = tget s.parts q) ∧ (∀ a ∈ b.agenda, a ∈ s.agenda ∧ s.actOf p a = false)
          ∧ (∀ a, v.owns a = true → rdB b.mem a = 0) ∧ (∀ a, v.owns a = false → rdB b.mem a = rdB s.mem a)
          ∧ (∀ u t, tget b.threads u = some t → t.part ≠ p) ∧ (∀ k ∈ b.fabric, k.part ≠ p) ∧ (∀ l x, tget b.launches l = some x → x.part ≠ p)))

/-- R437, R438, R440, R441: boot wipes everything, tests the dies and the flash's signature, and comes up booted with what
runs on its own and the firmware's graphs in the Syrad engines' cells, or in recovery, a failing die off; a life-cycle
command to the next state that its signer made resets the module in that state, provisioning with a key and decommissioning
without one; firmware sets an island's power, but a die that serves a partition runs on.
R434, R436: the oldest waiting event of a registered key leaves the matcher as a control token to its registration's cell;
a timer's expiry raises its count and makes or replaces its event; a control core takes a service request, writes the
word it names and answers on the sibling queue. The target state in byte 0 of the payload (assumption 9), and that a failed
test or graph leads to recovery, that provisioning makes the key and that a serving die runs on (assumption 43), are the
model's choice. -/
def Obligations.BootLifeAndSyrad : Prop :=
  (
  ∀ (s : State),
    (let ok := (∀ d, d < 16 → Config.selfTestOk d = true) ∧ Config.signatureOk (Config.digest s.io.flash) = true
       ∧ ∀ d, d < 4 → graphOk s.io.flash d = true
     ∃ s', exec .powerOnReset s = .next s' ∧ s'.mem = [] ∧ s'.memBad = [] ∧ s'.parts = [] ∧ s'.threads = []
      ∧ (∀ ag, (∀ d, d < 4 → ag.site ≠ .syrad d) → s'.cell ag = Cell.reset ∧ s'.site ag.site = SiteSt.reset)
      ∧ (∀ d, d < 16 → s'.powerOf d = if Config.selfTestOk d then .running else .off)
      ∧ s'.cycle = 0 ∧ s'.tod = 0 ∧ s'.launches = [] ∧ s'.images = [] ∧ s'.coh = Coh.reset ∧ s'.lantern = Lantern.reset
      ∧ s'.io.flash = s.io.flash ∧ s'.io.life = s.io.life ∧ s'.io.identity = s.io.identity
      ∧ (ok → s'.io.booted = true ∧ s'.io.recovery = false ∧ s'.agenda = bootActs
          ∧ ∀ d, d < 4 → (s'.site (.syrad d)).valid = true
            ∧ ∀ c, c < 64 → s'.cell ⟨.syrad d, c⟩ = recCells (imgRecs (Config.firmwareGraph s.io.flash d) 0) c)
      ∧ (¬ok → s'.cells = [] ∧ s'.sites = [] ∧ s'.io.booted = false ∧ s'.io.recovery = true ∧ s'.agenda = []))
    ∧ (∀ f, s.flit? s.subj.a = some f →
      let s1 := s.dropFlit s.subj.a
      let no := s1.ack f (fld f.word 0 8) 1 []
      let order := [LifeCycle.manufacturing, .provisioned, .production, .returned, .decommissioned]
      (s.io.life = .decommissioned → exec .lifeCycleChange s = .next no)
      ∧ (∀ nxt, order[s.io.life.code + 1]? = some nxt →
        let signed := if nxt = .production then Config.ownerOk f.payload else Config.signatureOk f.payload
        (leNat (f.payload.take 1) ≠ nxt.code ∨ signed = false → exec .lifeCycleChange s = .next no)
        ∧ (leNat (f.payload.take 1) = nxt.code → signed = true → ∃ s', exec .lifeCycleChange s = .next s' ∧ s'.io.life = nxt
          ∧ s'.io.identity = (decide (nxt = .provisioned) || s.io.identity && decide (nxt ≠ .decommissioned)) ∧ s'.io.flash = s.io.flash ∧ s'.mem = [] ∧ s'.parts = []
          ∧ s'.agenda = [.ev .powerOnReset {}])))
    ∧ (s.subj.power ≠ .running → s.dieUsed s.subj.a = true → exec .islandPower s = .next s)
    ∧ (s.subj.power = .running ∨ s.dieUsed s.subj.a = false →
      ∃ s', exec .islandPower s = .next s' ∧ s'.powerOf s.subj.a = s.subj.power ∧ s'.mem = s.mem ∧ s'.parts = s.parts
        ∧ (∀ d, d ≠ s.subj.a → s'.powerOf d = s.powerOf d)
        ∧ (∀ d, d < 16 → d ≠ s.subj.a → (s'.linkAsleep s.subj.a d = true ↔ s.subj.power = .idle ∧ s.powerOf d = .idle))))
  ∧ (
  ∀ (s : State),
    let d := s.subj.a
    let m := (s.matcher d).refill
    ((∀ e ∈ m.waiting, ∀ r ∈ m.regs, r.1 ≠ e.1) → exec .eventMatch s = .next (s.modMatcher d Matcher.refill))
    ∧ (∀ e r, m.waiting.find? (fun e => m.regs.any (fun r => r.1 == e.1)) = some e → m.regs.find? (fun r => r.1 == e.1) = some r →
      let k := eventToken d s.fresh r.2 e.2
      ∃ s', exec .eventMatch s = .next s' ∧ s'.fabric = s.fabric ++ [k] ∧ (s'.matcher d).waiting = m.waiting.erase e
        ∧ (s'.matcher d).regs = (s.matcher d).regs ∧ s'.mem = s.mem ∧ Act.ev .tokenIngressArrival { a := k.id } ∈ s'.agenda
        ∧ Act.ev .eventMatch { a := d } ∈ s'.agenda ∧ k.data = [⟨e.2, false⟩] ∧ k.tag.kind = .control ∧ k.dst = .syrad d)
    ∧ (let t := s.subj.b
       let old := tgetD (s.matcher d).timers t (0, 0)
       ∃ s', exec .syradTimer s = .next s' ∧ s'.mem = s.mem ∧ tgetD (s'.matcher d).timers t (0, 0) = (old.1, old.2 + 1)
        ∧ (s'.matcher d).regs = (s.matcher d).regs
        ∧ (0x4000 + t, w32 (old.2 + 1)) ∈ (s'.matcher d).waiting ++ (s'.matcher d).sources
        ∧ ∀ i, i ≠ t → tgetD (s'.matcher d).timers i (0, 0) = tgetD (s.matcher d).timers i (0, 0))
    ∧ ((s.matcher d).service = none → exec .controlCoreService s = .next s)
    ∧ (∀ p desc b w ws, (s.matcher d).service = some (p, desc) → s.qPop p (.syrad d) desc 1 = .done b (w :: ws) →
      let q := Config.serviceOf w
      let c := sysCw q.1 q.2.1
      (b.sysWrite c q.2.2 = none → ∃ s', exec .controlCoreService s = .next s' ∧ s'.mem = b.mem ∧ s'.turn = b.turn)
      ∧ (∀ k, b.sysWrite c q.2.2 = some k → ∃ s', exec .controlCoreService s = .next s' ∧ s'.mem = b.mem ∧ s'.turn = k.turn)
      ∧ (b.cwWrites c = true → cwWriter c.n ≠ 1 → (tget b.parts c.part).isSome = true →
        let e := b.cwEvent c.n c.part c.i c.die (if c.wide then q.2.2.toNat else q.2.2.toNat % 2 ^ 32) 0
        ∃ k, b.sysWrite c q.2.2 = some k ∧ k.turn = some (.ev e.1 e.2))))
end

