-- ==== Sys2Proof/Laws/State.lean ====
section
/-! SUPPORT. What each update of the state leaves of every field of it. -/

namespace Sys2Proof.Machine

/-! ## setCell -/

@[simp] theorem State.setCell_tick (s : State) (a : Agent) (c : Cell) : (s.setCell a c).tick = s.tick := rfl
@[simp] theorem State.setCell_turn (s : State) (a : Agent) (c : Cell) : (s.setCell a c).turn = s.turn := rfl
@[simp] theorem State.setCell_cur (s : State) (a : Agent) (c : Cell) : (s.setCell a c).cur = s.cur := rfl
@[simp] theorem State.setCell_subj (s : State) (a : Agent) (c : Cell) : (s.setCell a c).subj = s.subj := rfl
@[simp] theorem State.setCell_agenda (s : State) (a : Agent) (c : Cell) : (s.setCell a c).agenda = s.agenda := rfl
@[simp] theorem State.setCell_fresh (s : State) (a : Agent) (c : Cell) : (s.setCell a c).fresh = s.fresh := rfl
@[simp] theorem State.setCell_cycle (s : State) (a : Agent) (c : Cell) : (s.setCell a c).cycle = s.cycle := rfl
@[simp] theorem State.setCell_uncounted (s : State) (a : Agent) (c : Cell) : (s.setCell a c).uncounted = s.uncounted := rfl
@[simp] theorem State.setCell_tod (s : State) (a : Agent) (c : Cell) : (s.setCell a c).tod = s.tod := rfl
@[simp] theorem State.setCell_mem (s : State) (a : Agent) (c : Cell) : (s.setCell a c).mem = s.mem := rfl
@[simp] theorem State.setCell_memBad (s : State) (a : Agent) (c : Cell) : (s.setCell a c).memBad = s.memBad := rfl
@[simp] theorem State.setCell_sites (s : State) (a : Agent) (c : Cell) : (s.setCell a c).sites = s.sites := rfl
@[simp] theorem State.setCell_threads (s : State) (a : Agent) (c : Cell) : (s.setCell a c).threads = s.threads := rfl
@[simp] theorem State.setCell_elems (s : State) (a : Agent) (c : Cell) : (s.setCell a c).elems = s.elems := rfl
@[simp] theorem State.setCell_fabric (s : State) (a : Agent) (c : Cell) : (s.setCell a c).fabric = s.fabric := rfl
@[simp] theorem State.setCell_accs (s : State) (a : Agent) (c : Cell) : (s.setCell a c).accs = s.accs := rfl
@[simp] theorem State.setCell_queues (s : State) (a : Agent) (c : Cell) : (s.setCell a c).queues = s.queues := rfl
@[simp] theorem State.setCell_semOps (s : State) (a : Agent) (c : Cell) : (s.setCell a c).semOps = s.semOps := rfl
@[simp] theorem State.setCell_pqOps (s : State) (a : Agent) (c : Cell) : (s.setCell a c).pqOps = s.pqOps := rfl
@[simp] theorem State.setCell_closes (s : State) (a : Agent) (c : Cell) : (s.setCell a c).closes = s.closes := rfl
@[simp] theorem State.setCell_parts (s : State) (a : Agent) (c : Cell) : (s.setCell a c).parts = s.parts := rfl
@[simp] theorem State.setCell_launches (s : State) (a : Agent) (c : Cell) : (s.setCell a c).launches = s.launches := rfl
@[simp] theorem State.setCell_images (s : State) (a : Agent) (c : Cell) : (s.setCell a c).images = s.images := rfl
@[simp] theorem State.setCell_places (s : State) (a : Agent) (c : Cell) : (s.setCell a c).places = s.places := rfl
@[simp] theorem State.setCell_biv (s : State) (a : Agent) (c : Cell) : (s.setCell a c).biv = s.biv := rfl
@[simp] theorem State.setCell_scr (s : State) (a : Agent) (c : Cell) : (s.setCell a c).scr = s.scr := rfl
@[simp] theorem State.setCell_tex (s : State) (a : Agent) (c : Cell) : (s.setCell a c).tex = s.tex := rfl
@[simp] theorem State.setCell_colReq (s : State) (a : Agent) (c : Cell) : (s.setCell a c).colReq = s.colReq := rfl
@[simp] theorem State.setCell_colWait (s : State) (a : Agent) (c : Cell) : (s.setCell a c).colWait = s.colWait := rfl
@[simp] theorem State.setCell_colLast (s : State) (a : Agent) (c : Cell) : (s.setCell a c).colLast = s.colLast := rfl
@[simp] theorem State.setCell_texLast (s : State) (a : Agent) (c : Cell) : (s.setCell a c).texLast = s.texLast := rfl
@[simp] theorem State.setCell_coh (s : State) (a : Agent) (c : Cell) : (s.setCell a c).coh = s.coh := rfl
@[simp] theorem State.setCell_lantern (s : State) (a : Agent) (c : Cell) : (s.setCell a c).lantern = s.lantern := rfl
@[simp] theorem State.setCell_io (s : State) (a : Agent) (c : Cell) : (s.setCell a c).io = s.io := rfl

/-! ## modCell -/

@[simp] theorem State.modCell_tick (s : State) (a : Agent) (g : Cell → Cell) : (s.modCell a g).tick = s.tick := rfl
@[simp] theorem State.modCell_turn (s : State) (a : Agent) (g : Cell → Cell) : (s.modCell a g).turn = s.turn := rfl
@[simp] theorem State.modCell_cur (s : State) (a : Agent) (g : Cell → Cell) : (s.modCell a g).cur = s.cur := rfl
@[simp] theorem State.modCell_subj (s : State) (a : Agent) (g : Cell → Cell) : (s.modCell a g).subj = s.subj := rfl
@[simp] theorem State.modCell_agenda (s : State) (a : Agent) (g : Cell → Cell) : (s.modCell a g).agenda = s.agenda := rfl
@[simp] theorem State.modCell_fresh (s : State) (a : Agent) (g : Cell → Cell) : (s.modCell a g).fresh = s.fresh := rfl
@[simp] theorem State.modCell_cycle (s : State) (a : Agent) (g : Cell → Cell) : (s.modCell a g).cycle = s.cycle := rfl
@[simp] theorem State.modCell_uncounted (s : State) (a : Agent) (g : Cell → Cell) : (s.modCell a g).uncounted = s.uncounted := rfl
@[simp] theorem State.modCell_tod (s : State) (a : Agent) (g : Cell → Cell) : (s.modCell a g).tod = s.tod := rfl
@[simp] theorem State.modCell_mem (s : State) (a : Agent) (g : Cell → Cell) : (s.modCell a g).mem = s.mem := rfl
@[simp] theorem State.modCell_memBad (s : State) (a : Agent) (g : Cell → Cell) : (s.modCell a g).memBad = s.memBad := rfl
@[simp] theorem State.modCell_sites (s : State) (a : Agent) (g : Cell → Cell) : (s.modCell a g).sites = s.sites := rfl
@[simp] theorem State.modCell_threads (s : State) (a : Agent) (g : Cell → Cell) : (s.modCell a g).threads = s.threads := rfl
@[simp] theorem State.modCell_elems (s : State) (a : Agent) (g : Cell → Cell) : (s.modCell a g).elems = s.elems := rfl
@[simp] theorem State.modCell_fabric (s : State) (a : Agent) (g : Cell → Cell) : (s.modCell a g).fabric = s.fabric := rfl
@[simp] theorem State.modCell_accs (s : State) (a : Agent) (g : Cell → Cell) : (s.modCell a g).accs = s.accs := rfl
@[simp] theorem State.modCell_queues (s : State) (a : Agent) (g : Cell → Cell) : (s.modCell a g).queues = s.queues := rfl
@[simp] theorem State.modCell_semOps (s : State) (a : Agent) (g : Cell → Cell) : (s.modCell a g).semOps = s.semOps := rfl
@[simp] theorem State.modCell_pqOps (s : State) (a : Agent) (g : Cell → Cell) : (s.modCell a g).pqOps = s.pqOps := rfl
@[simp] theorem State.modCell_closes (s : State) (a : Agent) (g : Cell → Cell) : (s.modCell a g).closes = s.closes := rfl
@[simp] theorem State.modCell_parts (s : State) (a : Agent) (g : Cell → Cell) : (s.modCell a g).parts = s.parts := rfl
@[simp] theorem State.modCell_launches (s : State) (a : Agent) (g : Cell → Cell) : (s.modCell a g).launches = s.launches := rfl
@[simp] theorem State.modCell_images (s : State) (a : Agent) (g : Cell → Cell) : (s.modCell a g).images = s.images := rfl
@[simp] theorem State.modCell_places (s : State) (a : Agent) (g : Cell → Cell) : (s.modCell a g).places = s.places := rfl
@[simp] theorem State.modCell_biv (s : State) (a : Agent) (g : Cell → Cell) : (s.modCell a g).biv = s.biv := rfl
@[simp] theorem State.modCell_scr (s : State) (a : Agent) (g : Cell → Cell) : (s.modCell a g).scr = s.scr := rfl
@[simp] theorem State.modCell_tex (s : State) (a : Agent) (g : Cell → Cell) : (s.modCell a g).tex = s.tex := rfl
@[simp] theorem State.modCell_colReq (s : State) (a : Agent) (g : Cell → Cell) : (s.modCell a g).colReq = s.colReq := rfl
@[simp] theorem State.modCell_colWait (s : State) (a : Agent) (g : Cell → Cell) : (s.modCell a g).colWait = s.colWait := rfl
@[simp] theorem State.modCell_colLast (s : State) (a : Agent) (g : Cell → Cell) : (s.modCell a g).colLast = s.colLast := rfl
@[simp] theorem State.modCell_texLast (s : State) (a : Agent) (g : Cell → Cell) : (s.modCell a g).texLast = s.texLast := rfl
@[simp] theorem State.modCell_coh (s : State) (a : Agent) (g : Cell → Cell) : (s.modCell a g).coh = s.coh := rfl
@[simp] theorem State.modCell_lantern (s : State) (a : Agent) (g : Cell → Cell) : (s.modCell a g).lantern = s.lantern := rfl
@[simp] theorem State.modCell_io (s : State) (a : Agent) (g : Cell → Cell) : (s.modCell a g).io = s.io := rfl

/-! ## setSite -/

@[simp] theorem State.setSite_tick (s : State) (x : Site) (v : SiteSt) : (s.setSite x v).tick = s.tick := rfl
@[simp] theorem State.setSite_turn (s : State) (x : Site) (v : SiteSt) : (s.setSite x v).turn = s.turn := rfl
@[simp] theorem State.setSite_cur (s : State) (x : Site) (v : SiteSt) : (s.setSite x v).cur = s.cur := rfl
@[simp] theorem State.setSite_subj (s : State) (x : Site) (v : SiteSt) : (s.setSite x v).subj = s.subj := rfl
@[simp] theorem State.setSite_agenda (s : State) (x : Site) (v : SiteSt) : (s.setSite x v).agenda = s.agenda := rfl
@[simp] theorem State.setSite_fresh (s : State) (x : Site) (v : SiteSt) : (s.setSite x v).fresh = s.fresh := rfl
@[simp] theorem State.setSite_cycle (s : State) (x : Site) (v : SiteSt) : (s.setSite x v).cycle = s.cycle := rfl
@[simp] theorem State.setSite_uncounted (s : State) (x : Site) (v : SiteSt) : (s.setSite x v).uncounted = s.uncounted := rfl
@[simp] theorem State.setSite_tod (s : State) (x : Site) (v : SiteSt) : (s.setSite x v).tod = s.tod := rfl
@[simp] theorem State.setSite_mem (s : State) (x : Site) (v : SiteSt) : (s.setSite x v).mem = s.mem := rfl
@[simp] theorem State.setSite_memBad (s : State) (x : Site) (v : SiteSt) : (s.setSite x v).memBad = s.memBad := rfl
@[simp] theorem State.setSite_cells (s : State) (x : Site) (v : SiteSt) : (s.setSite x v).cells = s.cells := rfl
@[simp] theorem State.setSite_threads (s : State) (x : Site) (v : SiteSt) : (s.setSite x v).threads = s.threads := rfl
@[simp] theorem State.setSite_elems (s : State) (x : Site) (v : SiteSt) : (s.setSite x v).elems = s.elems := rfl
@[simp] theorem State.setSite_fabric (s : State) (x : Site) (v : SiteSt) : (s.setSite x v).fabric = s.fabric := rfl
@[simp] theorem State.setSite_accs (s : State) (x : Site) (v : SiteSt) : (s.setSite x v).accs = s.accs := rfl
@[simp] theorem State.setSite_queues (s : State) (x : Site) (v : SiteSt) : (s.setSite x v).queues = s.queues := rfl
@[simp] theorem State.setSite_semOps (s : State) (x : Site) (v : SiteSt) : (s.setSite x v).semOps = s.semOps := rfl
@[simp] theorem State.setSite_pqOps (s : State) (x : Site) (v : SiteSt) : (s.setSite x v).pqOps = s.pqOps := rfl
@[simp] theorem State.setSite_closes (s : State) (x : Site) (v : SiteSt) : (s.setSite x v).closes = s.closes := rfl
@[simp] theorem State.setSite_parts (s : State) (x : Site) (v : SiteSt) : (s.setSite x v).parts = s.parts := rfl
@[simp] theorem State.setSite_launches (s : State) (x : Site) (v : SiteSt) : (s.setSite x v).launches = s.launches := rfl
@[simp] theorem State.setSite_images (s : State) (x : Site) (v : SiteSt) : (s.setSite x v).images = s.images := rfl
@[simp] theorem State.setSite_places (s : State) (x : Site) (v : SiteSt) : (s.setSite x v).places = s.places := rfl
@[simp] theorem State.setSite_biv (s : State) (x : Site) (v : SiteSt) : (s.setSite x v).biv = s.biv := rfl
@[simp] theorem State.setSite_scr (s : State) (x : Site) (v : SiteSt) : (s.setSite x v).scr = s.scr := rfl
@[simp] theorem State.setSite_tex (s : State) (x : Site) (v : SiteSt) : (s.setSite x v).tex = s.tex := rfl
@[simp] theorem State.setSite_colReq (s : State) (x : Site) (v : SiteSt) : (s.setSite x v).colReq = s.colReq := rfl
@[simp] theorem State.setSite_colWait (s : State) (x : Site) (v : SiteSt) : (s.setSite x v).colWait = s.colWait := rfl
@[simp] theorem State.setSite_colLast (s : State) (x : Site) (v : SiteSt) : (s.setSite x v).colLast = s.colLast := rfl
@[simp] theorem State.setSite_texLast (s : State) (x : Site) (v : SiteSt) : (s.setSite x v).texLast = s.texLast := rfl
@[simp] theorem State.setSite_coh (s : State) (x : Site) (v : SiteSt) : (s.setSite x v).coh = s.coh := rfl
@[simp] theorem State.setSite_lantern (s : State) (x : Site) (v : SiteSt) : (s.setSite x v).lantern = s.lantern := rfl
@[simp] theorem State.setSite_io (s : State) (x : Site) (v : SiteSt) : (s.setSite x v).io = s.io := rfl

/-! ## modSite -/

@[simp] theorem State.modSite_tick (s : State) (x : Site) (g : SiteSt → SiteSt) : (s.modSite x g).tick = s.tick := rfl
@[simp] theorem State.modSite_turn (s : State) (x : Site) (g : SiteSt → SiteSt) : (s.modSite x g).turn = s.turn := rfl
@[simp] theorem State.modSite_cur (s : State) (x : Site) (g : SiteSt → SiteSt) : (s.modSite x g).cur = s.cur := rfl
@[simp] theorem State.modSite_subj (s : State) (x : Site) (g : SiteSt → SiteSt) : (s.modSite x g).subj = s.subj := rfl
@[simp] theorem State.modSite_agenda (s : State) (x : Site) (g : SiteSt → SiteSt) : (s.modSite x g).agenda = s.agenda := rfl
@[simp] theorem State.modSite_fresh (s : State) (x : Site) (g : SiteSt → SiteSt) : (s.modSite x g).fresh = s.fresh := rfl
@[simp] theorem State.modSite_cycle (s : State) (x : Site) (g : SiteSt → SiteSt) : (s.modSite x g).cycle = s.cycle := rfl
@[simp] theorem State.modSite_uncounted (s : State) (x : Site) (g : SiteSt → SiteSt) : (s.modSite x g).uncounted = s.uncounted := rfl
@[simp] theorem State.modSite_tod (s : State) (x : Site) (g : SiteSt → SiteSt) : (s.modSite x g).tod = s.tod := rfl
@[simp] theorem State.modSite_mem (s : State) (x : Site) (g : SiteSt → SiteSt) : (s.modSite x g).mem = s.mem := rfl
@[simp] theorem State.modSite_memBad (s : State) (x : Site) (g : SiteSt → SiteSt) : (s.modSite x g).memBad = s.memBad := rfl
@[simp] theorem State.modSite_cells (s : State) (x : Site) (g : SiteSt → SiteSt) : (s.modSite x g).cells = s.cells := rfl
@[simp] theorem State.modSite_threads (s : State) (x : Site) (g : SiteSt → SiteSt) : (s.modSite x g).threads = s.threads := rfl
@[simp] theorem State.modSite_elems (s : State) (x : Site) (g : SiteSt → SiteSt) : (s.modSite x g).elems = s.elems := rfl
@[simp] theorem State.modSite_fabric (s : State) (x : Site) (g : SiteSt → SiteSt) : (s.modSite x g).fabric = s.fabric := rfl
@[simp] theorem State.modSite_accs (s : State) (x : Site) (g : SiteSt → SiteSt) : (s.modSite x g).accs = s.accs := rfl
@[simp] theorem State.modSite_queues (s : State) (x : Site) (g : SiteSt → SiteSt) : (s.modSite x g).queues = s.queues := rfl
@[simp] theorem State.modSite_semOps (s : State) (x : Site) (g : SiteSt → SiteSt) : (s.modSite x g).semOps = s.semOps := rfl
@[simp] theorem State.modSite_pqOps (s : State) (x : Site) (g : SiteSt → SiteSt) : (s.modSite x g).pqOps = s.pqOps := rfl
@[simp] theorem State.modSite_closes (s : State) (x : Site) (g : SiteSt → SiteSt) : (s.modSite x g).closes = s.closes := rfl
@[simp] theorem State.modSite_parts (s : State) (x : Site) (g : SiteSt → SiteSt) : (s.modSite x g).parts = s.parts := rfl
@[simp] theorem State.modSite_launches (s : State) (x : Site) (g : SiteSt → SiteSt) : (s.modSite x g).launches = s.launches := rfl
@[simp] theorem State.modSite_images (s : State) (x : Site) (g : SiteSt → SiteSt) : (s.modSite x g).images = s.images := rfl
@[simp] theorem State.modSite_places (s : State) (x : Site) (g : SiteSt → SiteSt) : (s.modSite x g).places = s.places := rfl
@[simp] theorem State.modSite_biv (s : State) (x : Site) (g : SiteSt → SiteSt) : (s.modSite x g).biv = s.biv := rfl
@[simp] theorem State.modSite_scr (s : State) (x : Site) (g : SiteSt → SiteSt) : (s.modSite x g).scr = s.scr := rfl
@[simp] theorem State.modSite_tex (s : State) (x : Site) (g : SiteSt → SiteSt) : (s.modSite x g).tex = s.tex := rfl
@[simp] theorem State.modSite_colReq (s : State) (x : Site) (g : SiteSt → SiteSt) : (s.modSite x g).colReq = s.colReq := rfl
@[simp] theorem State.modSite_colWait (s : State) (x : Site) (g : SiteSt → SiteSt) : (s.modSite x g).colWait = s.colWait := rfl
@[simp] theorem State.modSite_colLast (s : State) (x : Site) (g : SiteSt → SiteSt) : (s.modSite x g).colLast = s.colLast := rfl
@[simp] theorem State.modSite_texLast (s : State) (x : Site) (g : SiteSt → SiteSt) : (s.modSite x g).texLast = s.texLast := rfl
@[simp] theorem State.modSite_coh (s : State) (x : Site) (g : SiteSt → SiteSt) : (s.modSite x g).coh = s.coh := rfl
@[simp] theorem State.modSite_lantern (s : State) (x : Site) (g : SiteSt → SiteSt) : (s.modSite x g).lantern = s.lantern := rfl
@[simp] theorem State.modSite_io (s : State) (x : Site) (g : SiteSt → SiteSt) : (s.modSite x g).io = s.io := rfl

/-! ## setPart -/

@[simp] theorem State.setPart_tick (s : State) (p : Nat) (v : Part) : (s.setPart p v).tick = s.tick := rfl
@[simp] theorem State.setPart_turn (s : State) (p : Nat) (v : Part) : (s.setPart p v).turn = s.turn := rfl
@[simp] theorem State.setPart_cur (s : State) (p : Nat) (v : Part) : (s.setPart p v).cur = s.cur := rfl
@[simp] theorem State.setPart_subj (s : State) (p : Nat) (v : Part) : (s.setPart p v).subj = s.subj := rfl
@[simp] theorem State.setPart_agenda (s : State) (p : Nat) (v : Part) : (s.setPart p v).agenda = s.agenda := rfl
@[simp] theorem State.setPart_fresh (s : State) (p : Nat) (v : Part) : (s.setPart p v).fresh = s.fresh := rfl
@[simp] theorem State.setPart_cycle (s : State) (p : Nat) (v : Part) : (s.setPart p v).cycle = s.cycle := rfl
@[simp] theorem State.setPart_uncounted (s : State) (p : Nat) (v : Part) : (s.setPart p v).uncounted = s.uncounted := rfl
@[simp] theorem State.setPart_tod (s : State) (p : Nat) (v : Part) : (s.setPart p v).tod = s.tod := rfl
@[simp] theorem State.setPart_mem (s : State) (p : Nat) (v : Part) : (s.setPart p v).mem = s.mem := rfl
@[simp] theorem State.setPart_memBad (s : State) (p : Nat) (v : Part) : (s.setPart p v).memBad = s.memBad := rfl
@[simp] theorem State.setPart_sites (s : State) (p : Nat) (v : Part) : (s.setPart p v).sites = s.sites := rfl
@[simp] theorem State.setPart_cells (s : State) (p : Nat) (v : Part) : (s.setPart p v).cells = s.cells := rfl
@[simp] theorem State.setPart_threads (s : State) (p : Nat) (v : Part) : (s.setPart p v).threads = s.threads := rfl
@[simp] theorem State.setPart_elems (s : State) (p : Nat) (v : Part) : (s.setPart p v).elems = s.elems := rfl
@[simp] theorem State.setPart_fabric (s : State) (p : Nat) (v : Part) : (s.setPart p v).fabric = s.fabric := rfl
@[simp] theorem State.setPart_accs (s : State) (p : Nat) (v : Part) : (s.setPart p v).accs = s.accs := rfl
@[simp] theorem State.setPart_queues (s : State) (p : Nat) (v : Part) : (s.setPart p v).queues = s.queues := rfl
@[simp] theorem State.setPart_semOps (s : State) (p : Nat) (v : Part) : (s.setPart p v).semOps = s.semOps := rfl
@[simp] theorem State.setPart_pqOps (s : State) (p : Nat) (v : Part) : (s.setPart p v).pqOps = s.pqOps := rfl
@[simp] theorem State.setPart_closes (s : State) (p : Nat) (v : Part) : (s.setPart p v).closes = s.closes := rfl
@[simp] theorem State.setPart_launches (s : State) (p : Nat) (v : Part) : (s.setPart p v).launches = s.launches := rfl
@[simp] theorem State.setPart_images (s : State) (p : Nat) (v : Part) : (s.setPart p v).images = s.images := rfl
@[simp] theorem State.setPart_places (s : State) (p : Nat) (v : Part) : (s.setPart p v).places = s.places := rfl
@[simp] theorem State.setPart_biv (s : State) (p : Nat) (v : Part) : (s.setPart p v).biv = s.biv := rfl
@[simp] theorem State.setPart_scr (s : State) (p : Nat) (v : Part) : (s.setPart p v).scr = s.scr := rfl
@[simp] theorem State.setPart_tex (s : State) (p : Nat) (v : Part) : (s.setPart p v).tex = s.tex := rfl
@[simp] theorem State.setPart_colReq (s : State) (p : Nat) (v : Part) : (s.setPart p v).colReq = s.colReq := rfl
@[simp] theorem State.setPart_colWait (s : State) (p : Nat) (v : Part) : (s.setPart p v).colWait = s.colWait := rfl
@[simp] theorem State.setPart_colLast (s : State) (p : Nat) (v : Part) : (s.setPart p v).colLast = s.colLast := rfl
@[simp] theorem State.setPart_texLast (s : State) (p : Nat) (v : Part) : (s.setPart p v).texLast = s.texLast := rfl
@[simp] theorem State.setPart_coh (s : State) (p : Nat) (v : Part) : (s.setPart p v).coh = s.coh := rfl
@[simp] theorem State.setPart_lantern (s : State) (p : Nat) (v : Part) : (s.setPart p v).lantern = s.lantern := rfl
@[simp] theorem State.setPart_io (s : State) (p : Nat) (v : Part) : (s.setPart p v).io = s.io := rfl

/-! ## modPart -/

@[simp] theorem State.modPart_tick (s : State) (p : Nat) (g : Part → Part) : (s.modPart p g).tick = s.tick := by unfold State.modPart; split <;> rfl
@[simp] theorem State.modPart_turn (s : State) (p : Nat) (g : Part → Part) : (s.modPart p g).turn = s.turn := by unfold State.modPart; split <;> rfl
@[simp] theorem State.modPart_cur (s : State) (p : Nat) (g : Part → Part) : (s.modPart p g).cur = s.cur := by unfold State.modPart; split <;> rfl
@[simp] theorem State.modPart_subj (s : State) (p : Nat) (g : Part → Part) : (s.modPart p g).subj = s.subj := by unfold State.modPart; split <;> rfl
@[simp] theorem State.modPart_agenda (s : State) (p : Nat) (g : Part → Part) : (s.modPart p g).agenda = s.agenda := by unfold State.modPart; split <;> rfl
@[simp] theorem State.modPart_fresh (s : State) (p : Nat) (g : Part → Part) : (s.modPart p g).fresh = s.fresh := by unfold State.modPart; split <;> rfl
@[simp] theorem State.modPart_cycle (s : State) (p : Nat) (g : Part → Part) : (s.modPart p g).cycle = s.cycle := by unfold State.modPart; split <;> rfl
@[simp] theorem State.modPart_uncounted (s : State) (p : Nat) (g : Part → Part) : (s.modPart p g).uncounted = s.uncounted := by unfold State.modPart; split <;> rfl
@[simp] theorem State.modPart_tod (s : State) (p : Nat) (g : Part → Part) : (s.modPart p g).tod = s.tod := by unfold State.modPart; split <;> rfl
@[simp] theorem State.modPart_mem (s : State) (p : Nat) (g : Part → Part) : (s.modPart p g).mem = s.mem := by unfold State.modPart; split <;> rfl
@[simp] theorem State.modPart_memBad (s : State) (p : Nat) (g : Part → Part) : (s.modPart p g).memBad = s.memBad := by unfold State.modPart; split <;> rfl
@[simp] theorem State.modPart_sites (s : State) (p : Nat) (g : Part → Part) : (s.modPart p g).sites = s.sites := by unfold State.modPart; split <;> rfl
@[simp] theorem State.modPart_cells (s : State) (p : Nat) (g : Part → Part) : (s.modPart p g).cells = s.cells := by unfold State.modPart; split <;> rfl
@[simp] theorem State.modPart_threads (s : State) (p : Nat) (g : Part → Part) : (s.modPart p g).threads = s.threads := by unfold State.modPart; split <;> rfl
@[simp] theorem State.modPart_elems (s : State) (p : Nat) (g : Part → Part) : (s.modPart p g).elems = s.elems := by unfold State.modPart; split <;> rfl
@[simp] theorem State.modPart_fabric (s : State) (p : Nat) (g : Part → Part) : (s.modPart p g).fabric = s.fabric := by unfold State.modPart; split <;> rfl
@[simp] theorem State.modPart_accs (s : State) (p : Nat) (g : Part → Part) : (s.modPart p g).accs = s.accs := by unfold State.modPart; split <;> rfl
@[simp] theorem State.modPart_queues (s : State) (p : Nat) (g : Part → Part) : (s.modPart p g).queues = s.queues := by unfold State.modPart; split <;> rfl
@[simp] theorem State.modPart_semOps (s : State) (p : Nat) (g : Part → Part) : (s.modPart p g).semOps = s.semOps := by unfold State.modPart; split <;> rfl
@[simp] theorem State.modPart_pqOps (s : State) (p : Nat) (g : Part → Part) : (s.modPart p g).pqOps = s.pqOps := by unfold State.modPart; split <;> rfl
@[simp] theorem State.modPart_closes (s : State) (p : Nat) (g : Part → Part) : (s.modPart p g).closes = s.closes := by unfold State.modPart; split <;> rfl
@[simp] theorem State.modPart_launches (s : State) (p : Nat) (g : Part → Part) : (s.modPart p g).launches = s.launches := by unfold State.modPart; split <;> rfl
@[simp] theorem State.modPart_images (s : State) (p : Nat) (g : Part → Part) : (s.modPart p g).images = s.images := by unfold State.modPart; split <;> rfl
@[simp] theorem State.modPart_places (s : State) (p : Nat) (g : Part → Part) : (s.modPart p g).places = s.places := by unfold State.modPart; split <;> rfl
@[simp] theorem State.modPart_biv (s : State) (p : Nat) (g : Part → Part) : (s.modPart p g).biv = s.biv := by unfold State.modPart; split <;> rfl
@[simp] theorem State.modPart_scr (s : State) (p : Nat) (g : Part → Part) : (s.modPart p g).scr = s.scr := by unfold State.modPart; split <;> rfl
@[simp] theorem State.modPart_tex (s : State) (p : Nat) (g : Part → Part) : (s.modPart p g).tex = s.tex := by unfold State.modPart; split <;> rfl
@[simp] theorem State.modPart_colReq (s : State) (p : Nat) (g : Part → Part) : (s.modPart p g).colReq = s.colReq := by unfold State.modPart; split <;> rfl
@[simp] theorem State.modPart_colWait (s : State) (p : Nat) (g : Part → Part) : (s.modPart p g).colWait = s.colWait := by unfold State.modPart; split <;> rfl
@[simp] theorem State.modPart_colLast (s : State) (p : Nat) (g : Part → Part) : (s.modPart p g).colLast = s.colLast := by unfold State.modPart; split <;> rfl
@[simp] theorem State.modPart_texLast (s : State) (p : Nat) (g : Part → Part) : (s.modPart p g).texLast = s.texLast := by unfold State.modPart; split <;> rfl
@[simp] theorem State.modPart_coh (s : State) (p : Nat) (g : Part → Part) : (s.modPart p g).coh = s.coh := by unfold State.modPart; split <;> rfl
@[simp] theorem State.modPart_lantern (s : State) (p : Nat) (g : Part → Part) : (s.modPart p g).lantern = s.lantern := by unfold State.modPart; split <;> rfl
@[simp] theorem State.modPart_io (s : State) (p : Nat) (g : Part → Part) : (s.modPart p g).io = s.io := by unfold State.modPart; split <;> rfl

/-! ## setThr -/

@[simp] theorem State.setThr_tick (s : State) (u : Nat) (t : Thread) : (s.setThr u t).tick = s.tick := rfl
@[simp] theorem State.setThr_turn (s : State) (u : Nat) (t : Thread) : (s.setThr u t).turn = s.turn := rfl
@[simp] theorem State.setThr_cur (s : State) (u : Nat) (t : Thread) : (s.setThr u t).cur = s.cur := rfl
@[simp] theorem State.setThr_subj (s : State) (u : Nat) (t : Thread) : (s.setThr u t).subj = s.subj := rfl
@[simp] theorem State.setThr_agenda (s : State) (u : Nat) (t : Thread) : (s.setThr u t).agenda = s.agenda := rfl
@[simp] theorem State.setThr_fresh (s : State) (u : Nat) (t : Thread) : (s.setThr u t).fresh = s.fresh := rfl
@[simp] theorem State.setThr_cycle (s : State) (u : Nat) (t : Thread) : (s.setThr u t).cycle = s.cycle := rfl
@[simp] theorem State.setThr_uncounted (s : State) (u : Nat) (t : Thread) : (s.setThr u t).uncounted = s.uncounted := rfl
@[simp] theorem State.setThr_tod (s : State) (u : Nat) (t : Thread) : (s.setThr u t).tod = s.tod := rfl
@[simp] theorem State.setThr_mem (s : State) (u : Nat) (t : Thread) : (s.setThr u t).mem = s.mem := rfl
@[simp] theorem State.setThr_memBad (s : State) (u : Nat) (t : Thread) : (s.setThr u t).memBad = s.memBad := rfl
@[simp] theorem State.setThr_sites (s : State) (u : Nat) (t : Thread) : (s.setThr u t).sites = s.sites := rfl
@[simp] theorem State.setThr_cells (s : State) (u : Nat) (t : Thread) : (s.setThr u t).cells = s.cells := rfl
@[simp] theorem State.setThr_elems (s : State) (u : Nat) (t : Thread) : (s.setThr u t).elems = s.elems := rfl
@[simp] theorem State.setThr_fabric (s : State) (u : Nat) (t : Thread) : (s.setThr u t).fabric = s.fabric := rfl
@[simp] theorem State.setThr_accs (s : State) (u : Nat) (t : Thread) : (s.setThr u t).accs = s.accs := rfl
@[simp] theorem State.setThr_queues (s : State) (u : Nat) (t : Thread) : (s.setThr u t).queues = s.queues := rfl
@[simp] theorem State.setThr_semOps (s : State) (u : Nat) (t : Thread) : (s.setThr u t).semOps = s.semOps := rfl
@[simp] theorem State.setThr_pqOps (s : State) (u : Nat) (t : Thread) : (s.setThr u t).pqOps = s.pqOps := rfl
@[simp] theorem State.setThr_closes (s : State) (u : Nat) (t : Thread) : (s.setThr u t).closes = s.closes := rfl
@[simp] theorem State.setThr_parts (s : State) (u : Nat) (t : Thread) : (s.setThr u t).parts = s.parts := rfl
@[simp] theorem State.setThr_launches (s : State) (u : Nat) (t : Thread) : (s.setThr u t).launches = s.launches := rfl
@[simp] theorem State.setThr_images (s : State) (u : Nat) (t : Thread) : (s.setThr u t).images = s.images := rfl
@[simp] theorem State.setThr_places (s : State) (u : Nat) (t : Thread) : (s.setThr u t).places = s.places := rfl
@[simp] theorem State.setThr_biv (s : State) (u : Nat) (t : Thread) : (s.setThr u t).biv = s.biv := rfl
@[simp] theorem State.setThr_scr (s : State) (u : Nat) (t : Thread) : (s.setThr u t).scr = s.scr := rfl
@[simp] theorem State.setThr_tex (s : State) (u : Nat) (t : Thread) : (s.setThr u t).tex = s.tex := rfl
@[simp] theorem State.setThr_colReq (s : State) (u : Nat) (t : Thread) : (s.setThr u t).colReq = s.colReq := rfl
@[simp] theorem State.setThr_colWait (s : State) (u : Nat) (t : Thread) : (s.setThr u t).colWait = s.colWait := rfl
@[simp] theorem State.setThr_colLast (s : State) (u : Nat) (t : Thread) : (s.setThr u t).colLast = s.colLast := rfl
@[simp] theorem State.setThr_texLast (s : State) (u : Nat) (t : Thread) : (s.setThr u t).texLast = s.texLast := rfl
@[simp] theorem State.setThr_coh (s : State) (u : Nat) (t : Thread) : (s.setThr u t).coh = s.coh := rfl
@[simp] theorem State.setThr_lantern (s : State) (u : Nat) (t : Thread) : (s.setThr u t).lantern = s.lantern := rfl
@[simp] theorem State.setThr_io (s : State) (u : Nat) (t : Thread) : (s.setThr u t).io = s.io := rfl

/-! ## modThr -/

@[simp] theorem State.modThr_tick (s : State) (u : Nat) (g : Thread → Thread) : (s.modThr u g).tick = s.tick := rfl
@[simp] theorem State.modThr_turn (s : State) (u : Nat) (g : Thread → Thread) : (s.modThr u g).turn = s.turn := rfl
@[simp] theorem State.modThr_cur (s : State) (u : Nat) (g : Thread → Thread) : (s.modThr u g).cur = s.cur := rfl
@[simp] theorem State.modThr_subj (s : State) (u : Nat) (g : Thread → Thread) : (s.modThr u g).subj = s.subj := rfl
@[simp] theorem State.modThr_agenda (s : State) (u : Nat) (g : Thread → Thread) : (s.modThr u g).agenda = s.agenda := rfl
@[simp] theorem State.modThr_fresh (s : State) (u : Nat) (g : Thread → Thread) : (s.modThr u g).fresh = s.fresh := rfl
@[simp] theorem State.modThr_cycle (s : State) (u : Nat) (g : Thread → Thread) : (s.modThr u g).cycle = s.cycle := rfl
@[simp] theorem State.modThr_uncounted (s : State) (u : Nat) (g : Thread → Thread) : (s.modThr u g).uncounted = s.uncounted := rfl
@[simp] theorem State.modThr_tod (s : State) (u : Nat) (g : Thread → Thread) : (s.modThr u g).tod = s.tod := rfl
@[simp] theorem State.modThr_mem (s : State) (u : Nat) (g : Thread → Thread) : (s.modThr u g).mem = s.mem := rfl
@[simp] theorem State.modThr_memBad (s : State) (u : Nat) (g : Thread → Thread) : (s.modThr u g).memBad = s.memBad := rfl
@[simp] theorem State.modThr_sites (s : State) (u : Nat) (g : Thread → Thread) : (s.modThr u g).sites = s.sites := rfl
@[simp] theorem State.modThr_cells (s : State) (u : Nat) (g : Thread → Thread) : (s.modThr u g).cells = s.cells := rfl
@[simp] theorem State.modThr_elems (s : State) (u : Nat) (g : Thread → Thread) : (s.modThr u g).elems = s.elems := rfl
@[simp] theorem State.modThr_fabric (s : State) (u : Nat) (g : Thread → Thread) : (s.modThr u g).fabric = s.fabric := rfl
@[simp] theorem State.modThr_accs (s : State) (u : Nat) (g : Thread → Thread) : (s.modThr u g).accs = s.accs := rfl
@[simp] theorem State.modThr_queues (s : State) (u : Nat) (g : Thread → Thread) : (s.modThr u g).queues = s.queues := rfl
@[simp] theorem State.modThr_semOps (s : State) (u : Nat) (g : Thread → Thread) : (s.modThr u g).semOps = s.semOps := rfl
@[simp] theorem State.modThr_pqOps (s : State) (u : Nat) (g : Thread → Thread) : (s.modThr u g).pqOps = s.pqOps := rfl
@[simp] theorem State.modThr_closes (s : State) (u : Nat) (g : Thread → Thread) : (s.modThr u g).closes = s.closes := rfl
@[simp] theorem State.modThr_parts (s : State) (u : Nat) (g : Thread → Thread) : (s.modThr u g).parts = s.parts := rfl
@[simp] theorem State.modThr_launches (s : State) (u : Nat) (g : Thread → Thread) : (s.modThr u g).launches = s.launches := rfl
@[simp] theorem State.modThr_images (s : State) (u : Nat) (g : Thread → Thread) : (s.modThr u g).images = s.images := rfl
@[simp] theorem State.modThr_places (s : State) (u : Nat) (g : Thread → Thread) : (s.modThr u g).places = s.places := rfl
@[simp] theorem State.modThr_biv (s : State) (u : Nat) (g : Thread → Thread) : (s.modThr u g).biv = s.biv := rfl
@[simp] theorem State.modThr_scr (s : State) (u : Nat) (g : Thread → Thread) : (s.modThr u g).scr = s.scr := rfl
@[simp] theorem State.modThr_tex (s : State) (u : Nat) (g : Thread → Thread) : (s.modThr u g).tex = s.tex := rfl
@[simp] theorem State.modThr_colReq (s : State) (u : Nat) (g : Thread → Thread) : (s.modThr u g).colReq = s.colReq := rfl
@[simp] theorem State.modThr_colWait (s : State) (u : Nat) (g : Thread → Thread) : (s.modThr u g).colWait = s.colWait := rfl
@[simp] theorem State.modThr_colLast (s : State) (u : Nat) (g : Thread → Thread) : (s.modThr u g).colLast = s.colLast := rfl
@[simp] theorem State.modThr_texLast (s : State) (u : Nat) (g : Thread → Thread) : (s.modThr u g).texLast = s.texLast := rfl
@[simp] theorem State.modThr_coh (s : State) (u : Nat) (g : Thread → Thread) : (s.modThr u g).coh = s.coh := rfl
@[simp] theorem State.modThr_lantern (s : State) (u : Nat) (g : Thread → Thread) : (s.modThr u g).lantern = s.lantern := rfl
@[simp] theorem State.modThr_io (s : State) (u : Nat) (g : Thread → Thread) : (s.modThr u g).io = s.io := rfl

/-! ## setElem -/

@[simp] theorem State.setElem_tick (s : State) (e : Nat) (v : Elem) : (s.setElem e v).tick = s.tick := rfl
@[simp] theorem State.setElem_turn (s : State) (e : Nat) (v : Elem) : (s.setElem e v).turn = s.turn := rfl
@[simp] theorem State.setElem_cur (s : State) (e : Nat) (v : Elem) : (s.setElem e v).cur = s.cur := rfl
@[simp] theorem State.setElem_subj (s : State) (e : Nat) (v : Elem) : (s.setElem e v).subj = s.subj := rfl
@[simp] theorem State.setElem_agenda (s : State) (e : Nat) (v : Elem) : (s.setElem e v).agenda = s.agenda := rfl
@[simp] theorem State.setElem_fresh (s : State) (e : Nat) (v : Elem) : (s.setElem e v).fresh = s.fresh := rfl
@[simp] theorem State.setElem_cycle (s : State) (e : Nat) (v : Elem) : (s.setElem e v).cycle = s.cycle := rfl
@[simp] theorem State.setElem_uncounted (s : State) (e : Nat) (v : Elem) : (s.setElem e v).uncounted = s.uncounted := rfl
@[simp] theorem State.setElem_tod (s : State) (e : Nat) (v : Elem) : (s.setElem e v).tod = s.tod := rfl
@[simp] theorem State.setElem_mem (s : State) (e : Nat) (v : Elem) : (s.setElem e v).mem = s.mem := rfl
@[simp] theorem State.setElem_memBad (s : State) (e : Nat) (v : Elem) : (s.setElem e v).memBad = s.memBad := rfl
@[simp] theorem State.setElem_sites (s : State) (e : Nat) (v : Elem) : (s.setElem e v).sites = s.sites := rfl
@[simp] theorem State.setElem_cells (s : State) (e : Nat) (v : Elem) : (s.setElem e v).cells = s.cells := rfl
@[simp] theorem State.setElem_threads (s : State) (e : Nat) (v : Elem) : (s.setElem e v).threads = s.threads := rfl
@[simp] theorem State.setElem_fabric (s : State) (e : Nat) (v : Elem) : (s.setElem e v).fabric = s.fabric := rfl
@[simp] theorem State.setElem_accs (s : State) (e : Nat) (v : Elem) : (s.setElem e v).accs = s.accs := rfl
@[simp] theorem State.setElem_queues (s : State) (e : Nat) (v : Elem) : (s.setElem e v).queues = s.queues := rfl
@[simp] theorem State.setElem_semOps (s : State) (e : Nat) (v : Elem) : (s.setElem e v).semOps = s.semOps := rfl
@[simp] theorem State.setElem_pqOps (s : State) (e : Nat) (v : Elem) : (s.setElem e v).pqOps = s.pqOps := rfl
@[simp] theorem State.setElem_closes (s : State) (e : Nat) (v : Elem) : (s.setElem e v).closes = s.closes := rfl
@[simp] theorem State.setElem_parts (s : State) (e : Nat) (v : Elem) : (s.setElem e v).parts = s.parts := rfl
@[simp] theorem State.setElem_launches (s : State) (e : Nat) (v : Elem) : (s.setElem e v).launches = s.launches := rfl
@[simp] theorem State.setElem_images (s : State) (e : Nat) (v : Elem) : (s.setElem e v).images = s.images := rfl
@[simp] theorem State.setElem_places (s : State) (e : Nat) (v : Elem) : (s.setElem e v).places = s.places := rfl
@[simp] theorem State.setElem_biv (s : State) (e : Nat) (v : Elem) : (s.setElem e v).biv = s.biv := rfl
@[simp] theorem State.setElem_scr (s : State) (e : Nat) (v : Elem) : (s.setElem e v).scr = s.scr := rfl
@[simp] theorem State.setElem_tex (s : State) (e : Nat) (v : Elem) : (s.setElem e v).tex = s.tex := rfl
@[simp] theorem State.setElem_colReq (s : State) (e : Nat) (v : Elem) : (s.setElem e v).colReq = s.colReq := rfl
@[simp] theorem State.setElem_colWait (s : State) (e : Nat) (v : Elem) : (s.setElem e v).colWait = s.colWait := rfl
@[simp] theorem State.setElem_colLast (s : State) (e : Nat) (v : Elem) : (s.setElem e v).colLast = s.colLast := rfl
@[simp] theorem State.setElem_texLast (s : State) (e : Nat) (v : Elem) : (s.setElem e v).texLast = s.texLast := rfl
@[simp] theorem State.setElem_coh (s : State) (e : Nat) (v : Elem) : (s.setElem e v).coh = s.coh := rfl
@[simp] theorem State.setElem_lantern (s : State) (e : Nat) (v : Elem) : (s.setElem e v).lantern = s.lantern := rfl
@[simp] theorem State.setElem_io (s : State) (e : Nat) (v : Elem) : (s.setElem e v).io = s.io := rfl

/-! ## setAcc -/

@[simp] theorem State.setAcc_tick (s : State) (a : Nat) (x : Access) : (s.setAcc a x).tick = s.tick := rfl
@[simp] theorem State.setAcc_turn (s : State) (a : Nat) (x : Access) : (s.setAcc a x).turn = s.turn := rfl
@[simp] theorem State.setAcc_cur (s : State) (a : Nat) (x : Access) : (s.setAcc a x).cur = s.cur := rfl
@[simp] theorem State.setAcc_subj (s : State) (a : Nat) (x : Access) : (s.setAcc a x).subj = s.subj := rfl
@[simp] theorem State.setAcc_agenda (s : State) (a : Nat) (x : Access) : (s.setAcc a x).agenda = s.agenda := rfl
@[simp] theorem State.setAcc_fresh (s : State) (a : Nat) (x : Access) : (s.setAcc a x).fresh = s.fresh := rfl
@[simp] theorem State.setAcc_cycle (s : State) (a : Nat) (x : Access) : (s.setAcc a x).cycle = s.cycle := rfl
@[simp] theorem State.setAcc_uncounted (s : State) (a : Nat) (x : Access) : (s.setAcc a x).uncounted = s.uncounted := rfl
@[simp] theorem State.setAcc_tod (s : State) (a : Nat) (x : Access) : (s.setAcc a x).tod = s.tod := rfl
@[simp] theorem State.setAcc_mem (s : State) (a : Nat) (x : Access) : (s.setAcc a x).mem = s.mem := rfl
@[simp] theorem State.setAcc_memBad (s : State) (a : Nat) (x : Access) : (s.setAcc a x).memBad = s.memBad := rfl
@[simp] theorem State.setAcc_sites (s : State) (a : Nat) (x : Access) : (s.setAcc a x).sites = s.sites := rfl
@[simp] theorem State.setAcc_cells (s : State) (a : Nat) (x : Access) : (s.setAcc a x).cells = s.cells := rfl
@[simp] theorem State.setAcc_threads (s : State) (a : Nat) (x : Access) : (s.setAcc a x).threads = s.threads := rfl
@[simp] theorem State.setAcc_elems (s : State) (a : Nat) (x : Access) : (s.setAcc a x).elems = s.elems := rfl
@[simp] theorem State.setAcc_fabric (s : State) (a : Nat) (x : Access) : (s.setAcc a x).fabric = s.fabric := rfl
@[simp] theorem State.setAcc_queues (s : State) (a : Nat) (x : Access) : (s.setAcc a x).queues = s.queues := rfl
@[simp] theorem State.setAcc_semOps (s : State) (a : Nat) (x : Access) : (s.setAcc a x).semOps = s.semOps := rfl
@[simp] theorem State.setAcc_pqOps (s : State) (a : Nat) (x : Access) : (s.setAcc a x).pqOps = s.pqOps := rfl
@[simp] theorem State.setAcc_closes (s : State) (a : Nat) (x : Access) : (s.setAcc a x).closes = s.closes := rfl
@[simp] theorem State.setAcc_parts (s : State) (a : Nat) (x : Access) : (s.setAcc a x).parts = s.parts := rfl
@[simp] theorem State.setAcc_launches (s : State) (a : Nat) (x : Access) : (s.setAcc a x).launches = s.launches := rfl
@[simp] theorem State.setAcc_images (s : State) (a : Nat) (x : Access) : (s.setAcc a x).images = s.images := rfl
@[simp] theorem State.setAcc_places (s : State) (a : Nat) (x : Access) : (s.setAcc a x).places = s.places := rfl
@[simp] theorem State.setAcc_biv (s : State) (a : Nat) (x : Access) : (s.setAcc a x).biv = s.biv := rfl
@[simp] theorem State.setAcc_scr (s : State) (a : Nat) (x : Access) : (s.setAcc a x).scr = s.scr := rfl
@[simp] theorem State.setAcc_tex (s : State) (a : Nat) (x : Access) : (s.setAcc a x).tex = s.tex := rfl
@[simp] theorem State.setAcc_colReq (s : State) (a : Nat) (x : Access) : (s.setAcc a x).colReq = s.colReq := rfl
@[simp] theorem State.setAcc_colWait (s : State) (a : Nat) (x : Access) : (s.setAcc a x).colWait = s.colWait := rfl
@[simp] theorem State.setAcc_colLast (s : State) (a : Nat) (x : Access) : (s.setAcc a x).colLast = s.colLast := rfl
@[simp] theorem State.setAcc_texLast (s : State) (a : Nat) (x : Access) : (s.setAcc a x).texLast = s.texLast := rfl
@[simp] theorem State.setAcc_coh (s : State) (a : Nat) (x : Access) : (s.setAcc a x).coh = s.coh := rfl
@[simp] theorem State.setAcc_lantern (s : State) (a : Nat) (x : Access) : (s.setAcc a x).lantern = s.lantern := rfl
@[simp] theorem State.setAcc_io (s : State) (a : Nat) (x : Access) : (s.setAcc a x).io = s.io := rfl

/-! ## modAcc -/

@[simp] theorem State.modAcc_tick (s : State) (a : Nat) (g : Access → Access) : (s.modAcc a g).tick = s.tick := rfl
@[simp] theorem State.modAcc_turn (s : State) (a : Nat) (g : Access → Access) : (s.modAcc a g).turn = s.turn := rfl
@[simp] theorem State.modAcc_cur (s : State) (a : Nat) (g : Access → Access) : (s.modAcc a g).cur = s.cur := rfl
@[simp] theorem State.modAcc_subj (s : State) (a : Nat) (g : Access → Access) : (s.modAcc a g).subj = s.subj := rfl
@[simp] theorem State.modAcc_agenda (s : State) (a : Nat) (g : Access → Access) : (s.modAcc a g).agenda = s.agenda := rfl
@[simp] theorem State.modAcc_fresh (s : State) (a : Nat) (g : Access → Access) : (s.modAcc a g).fresh = s.fresh := rfl
@[simp] theorem State.modAcc_cycle (s : State) (a : Nat) (g : Access → Access) : (s.modAcc a g).cycle = s.cycle := rfl
@[simp] theorem State.modAcc_uncounted (s : State) (a : Nat) (g : Access → Access) : (s.modAcc a g).uncounted = s.uncounted := rfl
@[simp] theorem State.modAcc_tod (s : State) (a : Nat) (g : Access → Access) : (s.modAcc a g).tod = s.tod := rfl
@[simp] theorem State.modAcc_mem (s : State) (a : Nat) (g : Access → Access) : (s.modAcc a g).mem = s.mem := rfl
@[simp] theorem State.modAcc_memBad (s : State) (a : Nat) (g : Access → Access) : (s.modAcc a g).memBad = s.memBad := rfl
@[simp] theorem State.modAcc_sites (s : State) (a : Nat) (g : Access → Access) : (s.modAcc a g).sites = s.sites := rfl
@[simp] theorem State.modAcc_cells (s : State) (a : Nat) (g : Access → Access) : (s.modAcc a g).cells = s.cells := rfl
@[simp] theorem State.modAcc_threads (s : State) (a : Nat) (g : Access → Access) : (s.modAcc a g).threads = s.threads := rfl
@[simp] theorem State.modAcc_elems (s : State) (a : Nat) (g : Access → Access) : (s.modAcc a g).elems = s.elems := rfl
@[simp] theorem State.modAcc_fabric (s : State) (a : Nat) (g : Access → Access) : (s.modAcc a g).fabric = s.fabric := rfl
@[simp] theorem State.modAcc_queues (s : State) (a : Nat) (g : Access → Access) : (s.modAcc a g).queues = s.queues := rfl
@[simp] theorem State.modAcc_semOps (s : State) (a : Nat) (g : Access → Access) : (s.modAcc a g).semOps = s.semOps := rfl
@[simp] theorem State.modAcc_pqOps (s : State) (a : Nat) (g : Access → Access) : (s.modAcc a g).pqOps = s.pqOps := rfl
@[simp] theorem State.modAcc_closes (s : State) (a : Nat) (g : Access → Access) : (s.modAcc a g).closes = s.closes := rfl
@[simp] theorem State.modAcc_parts (s : State) (a : Nat) (g : Access → Access) : (s.modAcc a g).parts = s.parts := rfl
@[simp] theorem State.modAcc_launches (s : State) (a : Nat) (g : Access → Access) : (s.modAcc a g).launches = s.launches := rfl
@[simp] theorem State.modAcc_images (s : State) (a : Nat) (g : Access → Access) : (s.modAcc a g).images = s.images := rfl
@[simp] theorem State.modAcc_places (s : State) (a : Nat) (g : Access → Access) : (s.modAcc a g).places = s.places := rfl
@[simp] theorem State.modAcc_biv (s : State) (a : Nat) (g : Access → Access) : (s.modAcc a g).biv = s.biv := rfl
@[simp] theorem State.modAcc_scr (s : State) (a : Nat) (g : Access → Access) : (s.modAcc a g).scr = s.scr := rfl
@[simp] theorem State.modAcc_tex (s : State) (a : Nat) (g : Access → Access) : (s.modAcc a g).tex = s.tex := rfl
@[simp] theorem State.modAcc_colReq (s : State) (a : Nat) (g : Access → Access) : (s.modAcc a g).colReq = s.colReq := rfl
@[simp] theorem State.modAcc_colWait (s : State) (a : Nat) (g : Access → Access) : (s.modAcc a g).colWait = s.colWait := rfl
@[simp] theorem State.modAcc_colLast (s : State) (a : Nat) (g : Access → Access) : (s.modAcc a g).colLast = s.colLast := rfl
@[simp] theorem State.modAcc_texLast (s : State) (a : Nat) (g : Access → Access) : (s.modAcc a g).texLast = s.texLast := rfl
@[simp] theorem State.modAcc_coh (s : State) (a : Nat) (g : Access → Access) : (s.modAcc a g).coh = s.coh := rfl
@[simp] theorem State.modAcc_lantern (s : State) (a : Nat) (g : Access → Access) : (s.modAcc a g).lantern = s.lantern := rfl
@[simp] theorem State.modAcc_io (s : State) (a : Nat) (g : Access → Access) : (s.modAcc a g).io = s.io := rfl

/-! ## modLaunch -/

@[simp] theorem State.modLaunch_tick (s : State) (l : Nat) (g : Launch → Launch) : (s.modLaunch l g).tick = s.tick := rfl
@[simp] theorem State.modLaunch_turn (s : State) (l : Nat) (g : Launch → Launch) : (s.modLaunch l g).turn = s.turn := rfl
@[simp] theorem State.modLaunch_cur (s : State) (l : Nat) (g : Launch → Launch) : (s.modLaunch l g).cur = s.cur := rfl
@[simp] theorem State.modLaunch_subj (s : State) (l : Nat) (g : Launch → Launch) : (s.modLaunch l g).subj = s.subj := rfl
@[simp] theorem State.modLaunch_agenda (s : State) (l : Nat) (g : Launch → Launch) : (s.modLaunch l g).agenda = s.agenda := rfl
@[simp] theorem State.modLaunch_fresh (s : State) (l : Nat) (g : Launch → Launch) : (s.modLaunch l g).fresh = s.fresh := rfl
@[simp] theorem State.modLaunch_cycle (s : State) (l : Nat) (g : Launch → Launch) : (s.modLaunch l g).cycle = s.cycle := rfl
@[simp] theorem State.modLaunch_uncounted (s : State) (l : Nat) (g : Launch → Launch) : (s.modLaunch l g).uncounted = s.uncounted := rfl
@[simp] theorem State.modLaunch_tod (s : State) (l : Nat) (g : Launch → Launch) : (s.modLaunch l g).tod = s.tod := rfl
@[simp] theorem State.modLaunch_mem (s : State) (l : Nat) (g : Launch → Launch) : (s.modLaunch l g).mem = s.mem := rfl
@[simp] theorem State.modLaunch_memBad (s : State) (l : Nat) (g : Launch → Launch) : (s.modLaunch l g).memBad = s.memBad := rfl
@[simp] theorem State.modLaunch_sites (s : State) (l : Nat) (g : Launch → Launch) : (s.modLaunch l g).sites = s.sites := rfl
@[simp] theorem State.modLaunch_cells (s : State) (l : Nat) (g : Launch → Launch) : (s.modLaunch l g).cells = s.cells := rfl
@[simp] theorem State.modLaunch_threads (s : State) (l : Nat) (g : Launch → Launch) : (s.modLaunch l g).threads = s.threads := rfl
@[simp] theorem State.modLaunch_elems (s : State) (l : Nat) (g : Launch → Launch) : (s.modLaunch l g).elems = s.elems := rfl
@[simp] theorem State.modLaunch_fabric (s : State) (l : Nat) (g : Launch → Launch) : (s.modLaunch l g).fabric = s.fabric := rfl
@[simp] theorem State.modLaunch_accs (s : State) (l : Nat) (g : Launch → Launch) : (s.modLaunch l g).accs = s.accs := rfl
@[simp] theorem State.modLaunch_queues (s : State) (l : Nat) (g : Launch → Launch) : (s.modLaunch l g).queues = s.queues := rfl
@[simp] theorem State.modLaunch_semOps (s : State) (l : Nat) (g : Launch → Launch) : (s.modLaunch l g).semOps = s.semOps := rfl
@[simp] theorem State.modLaunch_pqOps (s : State) (l : Nat) (g : Launch → Launch) : (s.modLaunch l g).pqOps = s.pqOps := rfl
@[simp] theorem State.modLaunch_closes (s : State) (l : Nat) (g : Launch → Launch) : (s.modLaunch l g).closes = s.closes := rfl
@[simp] theorem State.modLaunch_parts (s : State) (l : Nat) (g : Launch → Launch) : (s.modLaunch l g).parts = s.parts := rfl
@[simp] theorem State.modLaunch_images (s : State) (l : Nat) (g : Launch → Launch) : (s.modLaunch l g).images = s.images := rfl
@[simp] theorem State.modLaunch_places (s : State) (l : Nat) (g : Launch → Launch) : (s.modLaunch l g).places = s.places := rfl
@[simp] theorem State.modLaunch_biv (s : State) (l : Nat) (g : Launch → Launch) : (s.modLaunch l g).biv = s.biv := rfl
@[simp] theorem State.modLaunch_scr (s : State) (l : Nat) (g : Launch → Launch) : (s.modLaunch l g).scr = s.scr := rfl
@[simp] theorem State.modLaunch_tex (s : State) (l : Nat) (g : Launch → Launch) : (s.modLaunch l g).tex = s.tex := rfl
@[simp] theorem State.modLaunch_colReq (s : State) (l : Nat) (g : Launch → Launch) : (s.modLaunch l g).colReq = s.colReq := rfl
@[simp] theorem State.modLaunch_colWait (s : State) (l : Nat) (g : Launch → Launch) : (s.modLaunch l g).colWait = s.colWait := rfl
@[simp] theorem State.modLaunch_colLast (s : State) (l : Nat) (g : Launch → Launch) : (s.modLaunch l g).colLast = s.colLast := rfl
@[simp] theorem State.modLaunch_texLast (s : State) (l : Nat) (g : Launch → Launch) : (s.modLaunch l g).texLast = s.texLast := rfl
@[simp] theorem State.modLaunch_coh (s : State) (l : Nat) (g : Launch → Launch) : (s.modLaunch l g).coh = s.coh := rfl
@[simp] theorem State.modLaunch_lantern (s : State) (l : Nat) (g : Launch → Launch) : (s.modLaunch l g).lantern = s.lantern := rfl
@[simp] theorem State.modLaunch_io (s : State) (l : Nat) (g : Launch → Launch) : (s.modLaunch l g).io = s.io := rfl

/-! ## modSlice -/

@[simp] theorem State.modSlice_tick (s : State) (n : Nat) (g : SliceSt → SliceSt) : (s.modSlice n g).tick = s.tick := rfl
@[simp] theorem State.modSlice_turn (s : State) (n : Nat) (g : SliceSt → SliceSt) : (s.modSlice n g).turn = s.turn := rfl
@[simp] theorem State.modSlice_cur (s : State) (n : Nat) (g : SliceSt → SliceSt) : (s.modSlice n g).cur = s.cur := rfl
@[simp] theorem State.modSlice_subj (s : State) (n : Nat) (g : SliceSt → SliceSt) : (s.modSlice n g).subj = s.subj := rfl
@[simp] theorem State.modSlice_agenda (s : State) (n : Nat) (g : SliceSt → SliceSt) : (s.modSlice n g).agenda = s.agenda := rfl
@[simp] theorem State.modSlice_fresh (s : State) (n : Nat) (g : SliceSt → SliceSt) : (s.modSlice n g).fresh = s.fresh := rfl
@[simp] theorem State.modSlice_cycle (s : State) (n : Nat) (g : SliceSt → SliceSt) : (s.modSlice n g).cycle = s.cycle := rfl
@[simp] theorem State.modSlice_uncounted (s : State) (n : Nat) (g : SliceSt → SliceSt) : (s.modSlice n g).uncounted = s.uncounted := rfl
@[simp] theorem State.modSlice_tod (s : State) (n : Nat) (g : SliceSt → SliceSt) : (s.modSlice n g).tod = s.tod := rfl
@[simp] theorem State.modSlice_mem (s : State) (n : Nat) (g : SliceSt → SliceSt) : (s.modSlice n g).mem = s.mem := rfl
@[simp] theorem State.modSlice_memBad (s : State) (n : Nat) (g : SliceSt → SliceSt) : (s.modSlice n g).memBad = s.memBad := rfl
@[simp] theorem State.modSlice_sites (s : State) (n : Nat) (g : SliceSt → SliceSt) : (s.modSlice n g).sites = s.sites := rfl
@[simp] theorem State.modSlice_cells (s : State) (n : Nat) (g : SliceSt → SliceSt) : (s.modSlice n g).cells = s.cells := rfl
@[simp] theorem State.modSlice_threads (s : State) (n : Nat) (g : SliceSt → SliceSt) : (s.modSlice n g).threads = s.threads := rfl
@[simp] theorem State.modSlice_elems (s : State) (n : Nat) (g : SliceSt → SliceSt) : (s.modSlice n g).elems = s.elems := rfl
@[simp] theorem State.modSlice_fabric (s : State) (n : Nat) (g : SliceSt → SliceSt) : (s.modSlice n g).fabric = s.fabric := rfl
@[simp] theorem State.modSlice_accs (s : State) (n : Nat) (g : SliceSt → SliceSt) : (s.modSlice n g).accs = s.accs := rfl
@[simp] theorem State.modSlice_queues (s : State) (n : Nat) (g : SliceSt → SliceSt) : (s.modSlice n g).queues = s.queues := rfl
@[simp] theorem State.modSlice_semOps (s : State) (n : Nat) (g : SliceSt → SliceSt) : (s.modSlice n g).semOps = s.semOps := rfl
@[simp] theorem State.modSlice_pqOps (s : State) (n : Nat) (g : SliceSt → SliceSt) : (s.modSlice n g).pqOps = s.pqOps := rfl
@[simp] theorem State.modSlice_closes (s : State) (n : Nat) (g : SliceSt → SliceSt) : (s.modSlice n g).closes = s.closes := rfl
@[simp] theorem State.modSlice_parts (s : State) (n : Nat) (g : SliceSt → SliceSt) : (s.modSlice n g).parts = s.parts := rfl
@[simp] theorem State.modSlice_launches (s : State) (n : Nat) (g : SliceSt → SliceSt) : (s.modSlice n g).launches = s.launches := rfl
@[simp] theorem State.modSlice_images (s : State) (n : Nat) (g : SliceSt → SliceSt) : (s.modSlice n g).images = s.images := rfl
@[simp] theorem State.modSlice_places (s : State) (n : Nat) (g : SliceSt → SliceSt) : (s.modSlice n g).places = s.places := rfl
@[simp] theorem State.modSlice_biv (s : State) (n : Nat) (g : SliceSt → SliceSt) : (s.modSlice n g).biv = s.biv := rfl
@[simp] theorem State.modSlice_scr (s : State) (n : Nat) (g : SliceSt → SliceSt) : (s.modSlice n g).scr = s.scr := rfl
@[simp] theorem State.modSlice_tex (s : State) (n : Nat) (g : SliceSt → SliceSt) : (s.modSlice n g).tex = s.tex := rfl
@[simp] theorem State.modSlice_colReq (s : State) (n : Nat) (g : SliceSt → SliceSt) : (s.modSlice n g).colReq = s.colReq := rfl
@[simp] theorem State.modSlice_colWait (s : State) (n : Nat) (g : SliceSt → SliceSt) : (s.modSlice n g).colWait = s.colWait := rfl
@[simp] theorem State.modSlice_colLast (s : State) (n : Nat) (g : SliceSt → SliceSt) : (s.modSlice n g).colLast = s.colLast := rfl
@[simp] theorem State.modSlice_texLast (s : State) (n : Nat) (g : SliceSt → SliceSt) : (s.modSlice n g).texLast = s.texLast := rfl
@[simp] theorem State.modSlice_lantern (s : State) (n : Nat) (g : SliceSt → SliceSt) : (s.modSlice n g).lantern = s.lantern := rfl
@[simp] theorem State.modSlice_io (s : State) (n : Nat) (g : SliceSt → SliceSt) : (s.modSlice n g).io = s.io := rfl

/-! ## modMatcher -/

@[simp] theorem State.modMatcher_tick (s : State) (d : Nat) (g : Matcher → Matcher) : (s.modMatcher d g).tick = s.tick := rfl
@[simp] theorem State.modMatcher_turn (s : State) (d : Nat) (g : Matcher → Matcher) : (s.modMatcher d g).turn = s.turn := rfl
@[simp] theorem State.modMatcher_cur (s : State) (d : Nat) (g : Matcher → Matcher) : (s.modMatcher d g).cur = s.cur := rfl
@[simp] theorem State.modMatcher_subj (s : State) (d : Nat) (g : Matcher → Matcher) : (s.modMatcher d g).subj = s.subj := rfl
@[simp] theorem State.modMatcher_agenda (s : State) (d : Nat) (g : Matcher → Matcher) : (s.modMatcher d g).agenda = s.agenda := rfl
@[simp] theorem State.modMatcher_fresh (s : State) (d : Nat) (g : Matcher → Matcher) : (s.modMatcher d g).fresh = s.fresh := rfl
@[simp] theorem State.modMatcher_cycle (s : State) (d : Nat) (g : Matcher → Matcher) : (s.modMatcher d g).cycle = s.cycle := rfl
@[simp] theorem State.modMatcher_uncounted (s : State) (d : Nat) (g : Matcher → Matcher) : (s.modMatcher d g).uncounted = s.uncounted := rfl
@[simp] theorem State.modMatcher_tod (s : State) (d : Nat) (g : Matcher → Matcher) : (s.modMatcher d g).tod = s.tod := rfl
@[simp] theorem State.modMatcher_mem (s : State) (d : Nat) (g : Matcher → Matcher) : (s.modMatcher d g).mem = s.mem := rfl
@[simp] theorem State.modMatcher_memBad (s : State) (d : Nat) (g : Matcher → Matcher) : (s.modMatcher d g).memBad = s.memBad := rfl
@[simp] theorem State.modMatcher_sites (s : State) (d : Nat) (g : Matcher → Matcher) : (s.modMatcher d g).sites = s.sites := rfl
@[simp] theorem State.modMatcher_cells (s : State) (d : Nat) (g : Matcher → Matcher) : (s.modMatcher d g).cells = s.cells := rfl
@[simp] theorem State.modMatcher_threads (s : State) (d : Nat) (g : Matcher → Matcher) : (s.modMatcher d g).threads = s.threads := rfl
@[simp] theorem State.modMatcher_elems (s : State) (d : Nat) (g : Matcher → Matcher) : (s.modMatcher d g).elems = s.elems := rfl
@[simp] theorem State.modMatcher_fabric (s : State) (d : Nat) (g : Matcher → Matcher) : (s.modMatcher d g).fabric = s.fabric := rfl
@[simp] theorem State.modMatcher_accs (s : State) (d : Nat) (g : Matcher → Matcher) : (s.modMatcher d g).accs = s.accs := rfl
@[simp] theorem State.modMatcher_queues (s : State) (d : Nat) (g : Matcher → Matcher) : (s.modMatcher d g).queues = s.queues := rfl
@[simp] theorem State.modMatcher_semOps (s : State) (d : Nat) (g : Matcher → Matcher) : (s.modMatcher d g).semOps = s.semOps := rfl
@[simp] theorem State.modMatcher_pqOps (s : State) (d : Nat) (g : Matcher → Matcher) : (s.modMatcher d g).pqOps = s.pqOps := rfl
@[simp] theorem State.modMatcher_closes (s : State) (d : Nat) (g : Matcher → Matcher) : (s.modMatcher d g).closes = s.closes := rfl
@[simp] theorem State.modMatcher_parts (s : State) (d : Nat) (g : Matcher → Matcher) : (s.modMatcher d g).parts = s.parts := rfl
@[simp] theorem State.modMatcher_launches (s : State) (d : Nat) (g : Matcher → Matcher) : (s.modMatcher d g).launches = s.launches := rfl
@[simp] theorem State.modMatcher_images (s : State) (d : Nat) (g : Matcher → Matcher) : (s.modMatcher d g).images = s.images := rfl
@[simp] theorem State.modMatcher_places (s : State) (d : Nat) (g : Matcher → Matcher) : (s.modMatcher d g).places = s.places := rfl
@[simp] theorem State.modMatcher_biv (s : State) (d : Nat) (g : Matcher → Matcher) : (s.modMatcher d g).biv = s.biv := rfl
@[simp] theorem State.modMatcher_scr (s : State) (d : Nat) (g : Matcher → Matcher) : (s.modMatcher d g).scr = s.scr := rfl
@[simp] theorem State.modMatcher_tex (s : State) (d : Nat) (g : Matcher → Matcher) : (s.modMatcher d g).tex = s.tex := rfl
@[simp] theorem State.modMatcher_colReq (s : State) (d : Nat) (g : Matcher → Matcher) : (s.modMatcher d g).colReq = s.colReq := rfl
@[simp] theorem State.modMatcher_colWait (s : State) (d : Nat) (g : Matcher → Matcher) : (s.modMatcher d g).colWait = s.colWait := rfl
@[simp] theorem State.modMatcher_colLast (s : State) (d : Nat) (g : Matcher → Matcher) : (s.modMatcher d g).colLast = s.colLast := rfl
@[simp] theorem State.modMatcher_texLast (s : State) (d : Nat) (g : Matcher → Matcher) : (s.modMatcher d g).texLast = s.texLast := rfl
@[simp] theorem State.modMatcher_coh (s : State) (d : Nat) (g : Matcher → Matcher) : (s.modMatcher d g).coh = s.coh := rfl
@[simp] theorem State.modMatcher_lantern (s : State) (d : Nat) (g : Matcher → Matcher) : (s.modMatcher d g).lantern = s.lantern := rfl

/-! ## post -/

@[simp] theorem State.post_tick (s : State) (a : Act) : (s.post a).tick = s.tick := rfl
@[simp] theorem State.post_turn (s : State) (a : Act) : (s.post a).turn = s.turn := rfl
@[simp] theorem State.post_cur (s : State) (a : Act) : (s.post a).cur = s.cur := rfl
@[simp] theorem State.post_subj (s : State) (a : Act) : (s.post a).subj = s.subj := rfl
@[simp] theorem State.post_fresh (s : State) (a : Act) : (s.post a).fresh = s.fresh := rfl
@[simp] theorem State.post_cycle (s : State) (a : Act) : (s.post a).cycle = s.cycle := rfl
@[simp] theorem State.post_uncounted (s : State) (a : Act) : (s.post a).uncounted = s.uncounted := rfl
@[simp] theorem State.post_tod (s : State) (a : Act) : (s.post a).tod = s.tod := rfl
@[simp] theorem State.post_mem (s : State) (a : Act) : (s.post a).mem = s.mem := rfl
@[simp] theorem State.post_memBad (s : State) (a : Act) : (s.post a).memBad = s.memBad := rfl
@[simp] theorem State.post_sites (s : State) (a : Act) : (s.post a).sites = s.sites := rfl
@[simp] theorem State.post_cells (s : State) (a : Act) : (s.post a).cells = s.cells := rfl
@[simp] theorem State.post_threads (s : State) (a : Act) : (s.post a).threads = s.threads := rfl
@[simp] theorem State.post_elems (s : State) (a : Act) : (s.post a).elems = s.elems := rfl
@[simp] theorem State.post_fabric (s : State) (a : Act) : (s.post a).fabric = s.fabric := rfl
@[simp] theorem State.post_accs (s : State) (a : Act) : (s.post a).accs = s.accs := rfl
@[simp] theorem State.post_queues (s : State) (a : Act) : (s.post a).queues = s.queues := rfl
@[simp] theorem State.post_semOps (s : State) (a : Act) : (s.post a).semOps = s.semOps := rfl
@[simp] theorem State.post_pqOps (s : State) (a : Act) : (s.post a).pqOps = s.pqOps := rfl
@[simp] theorem State.post_closes (s : State) (a : Act) : (s.post a).closes = s.closes := rfl
@[simp] theorem State.post_parts (s : State) (a : Act) : (s.post a).parts = s.parts := rfl
@[simp] theorem State.post_launches (s : State) (a : Act) : (s.post a).launches = s.launches := rfl
@[simp] theorem State.post_images (s : State) (a : Act) : (s.post a).images = s.images := rfl
@[simp] theorem State.post_places (s : State) (a : Act) : (s.post a).places = s.places := rfl
@[simp] theorem State.post_biv (s : State) (a : Act) : (s.post a).biv = s.biv := rfl
@[simp] theorem State.post_scr (s : State) (a : Act) : (s.post a).scr = s.scr := rfl
@[simp] theorem State.post_tex (s : State) (a : Act) : (s.post a).tex = s.tex := rfl
@[simp] theorem State.post_colReq (s : State) (a : Act) : (s.post a).colReq = s.colReq := rfl
@[simp] theorem State.post_colWait (s : State) (a : Act) : (s.post a).colWait = s.colWait := rfl
@[simp] theorem State.post_colLast (s : State) (a : Act) : (s.post a).colLast = s.colLast := rfl
@[simp] theorem State.post_texLast (s : State) (a : Act) : (s.post a).texLast = s.texLast := rfl
@[simp] theorem State.post_coh (s : State) (a : Act) : (s.post a).coh = s.coh := rfl
@[simp] theorem State.post_lantern (s : State) (a : Act) : (s.post a).lantern = s.lantern := rfl
@[simp] theorem State.post_io (s : State) (a : Act) : (s.post a).io = s.io := rfl

/-! ## postEv -/

@[simp] theorem State.postEv_tick (s : State) (i : Instr) (x : Subj) : (s.postEv i x).tick = s.tick := rfl
@[simp] theorem State.postEv_turn (s : State) (i : Instr) (x : Subj) : (s.postEv i x).turn = s.turn := rfl
@[simp] theorem State.postEv_cur (s : State) (i : Instr) (x : Subj) : (s.postEv i x).cur = s.cur := rfl
@[simp] theorem State.postEv_subj (s : State) (i : Instr) (x : Subj) : (s.postEv i x).subj = s.subj := rfl
@[simp] theorem State.postEv_fresh (s : State) (i : Instr) (x : Subj) : (s.postEv i x).fresh = s.fresh := rfl
@[simp] theorem State.postEv_cycle (s : State) (i : Instr) (x : Subj) : (s.postEv i x).cycle = s.cycle := rfl
@[simp] theorem State.postEv_uncounted (s : State) (i : Instr) (x : Subj) : (s.postEv i x).uncounted = s.uncounted := rfl
@[simp] theorem State.postEv_tod (s : State) (i : Instr) (x : Subj) : (s.postEv i x).tod = s.tod := rfl
@[simp] theorem State.postEv_mem (s : State) (i : Instr) (x : Subj) : (s.postEv i x).mem = s.mem := rfl
@[simp] theorem State.postEv_memBad (s : State) (i : Instr) (x : Subj) : (s.postEv i x).memBad = s.memBad := rfl
@[simp] theorem State.postEv_sites (s : State) (i : Instr) (x : Subj) : (s.postEv i x).sites = s.sites := rfl
@[simp] theorem State.postEv_cells (s : State) (i : Instr) (x : Subj) : (s.postEv i x).cells = s.cells := rfl
@[simp] theorem State.postEv_threads (s : State) (i : Instr) (x : Subj) : (s.postEv i x).threads = s.threads := rfl
@[simp] theorem State.postEv_elems (s : State) (i : Instr) (x : Subj) : (s.postEv i x).elems = s.elems := rfl
@[simp] theorem State.postEv_fabric (s : State) (i : Instr) (x : Subj) : (s.postEv i x).fabric = s.fabric := rfl
@[simp] theorem State.postEv_accs (s : State) (i : Instr) (x : Subj) : (s.postEv i x).accs = s.accs := rfl
@[simp] theorem State.postEv_queues (s : State) (i : Instr) (x : Subj) : (s.postEv i x).queues = s.queues := rfl
@[simp] theorem State.postEv_semOps (s : State) (i : Instr) (x : Subj) : (s.postEv i x).semOps = s.semOps := rfl
@[simp] theorem State.postEv_pqOps (s : State) (i : Instr) (x : Subj) : (s.postEv i x).pqOps = s.pqOps := rfl
@[simp] theorem State.postEv_closes (s : State) (i : Instr) (x : Subj) : (s.postEv i x).closes = s.closes := rfl
@[simp] theorem State.postEv_parts (s : State) (i : Instr) (x : Subj) : (s.postEv i x).parts = s.parts := rfl
@[simp] theorem State.postEv_launches (s : State) (i : Instr) (x : Subj) : (s.postEv i x).launches = s.launches := rfl
@[simp] theorem State.postEv_images (s : State) (i : Instr) (x : Subj) : (s.postEv i x).images = s.images := rfl
@[simp] theorem State.postEv_places (s : State) (i : Instr) (x : Subj) : (s.postEv i x).places = s.places := rfl
@[simp] theorem State.postEv_biv (s : State) (i : Instr) (x : Subj) : (s.postEv i x).biv = s.biv := rfl
@[simp] theorem State.postEv_scr (s : State) (i : Instr) (x : Subj) : (s.postEv i x).scr = s.scr := rfl
@[simp] theorem State.postEv_tex (s : State) (i : Instr) (x : Subj) : (s.postEv i x).tex = s.tex := rfl
@[simp] theorem State.postEv_colReq (s : State) (i : Instr) (x : Subj) : (s.postEv i x).colReq = s.colReq := rfl
@[simp] theorem State.postEv_colWait (s : State) (i : Instr) (x : Subj) : (s.postEv i x).colWait = s.colWait := rfl
@[simp] theorem State.postEv_colLast (s : State) (i : Instr) (x : Subj) : (s.postEv i x).colLast = s.colLast := rfl
@[simp] theorem State.postEv_texLast (s : State) (i : Instr) (x : Subj) : (s.postEv i x).texLast = s.texLast := rfl
@[simp] theorem State.postEv_coh (s : State) (i : Instr) (x : Subj) : (s.postEv i x).coh = s.coh := rfl
@[simp] theorem State.postEv_lantern (s : State) (i : Instr) (x : Subj) : (s.postEv i x).lantern = s.lantern := rfl
@[simp] theorem State.postEv_io (s : State) (i : Instr) (x : Subj) : (s.postEv i x).io = s.io := rfl

/-! ## bump -/

@[simp] theorem State.bump_tick (s : State) : (s.bump).tick = s.tick := rfl
@[simp] theorem State.bump_turn (s : State) : (s.bump).turn = s.turn := rfl
@[simp] theorem State.bump_cur (s : State) : (s.bump).cur = s.cur := rfl
@[simp] theorem State.bump_subj (s : State) : (s.bump).subj = s.subj := rfl
@[simp] theorem State.bump_agenda (s : State) : (s.bump).agenda = s.agenda := rfl
@[simp] theorem State.bump_cycle (s : State) : (s.bump).cycle = s.cycle := rfl
@[simp] theorem State.bump_uncounted (s : State) : (s.bump).uncounted = s.uncounted := rfl
@[simp] theorem State.bump_tod (s : State) : (s.bump).tod = s.tod := rfl
@[simp] theorem State.bump_mem (s : State) : (s.bump).mem = s.mem := rfl
@[simp] theorem State.bump_memBad (s : State) : (s.bump).memBad = s.memBad := rfl
@[simp] theorem State.bump_sites (s : State) : (s.bump).sites = s.sites := rfl
@[simp] theorem State.bump_cells (s : State) : (s.bump).cells = s.cells := rfl
@[simp] theorem State.bump_threads (s : State) : (s.bump).threads = s.threads := rfl
@[simp] theorem State.bump_elems (s : State) : (s.bump).elems = s.elems := rfl
@[simp] theorem State.bump_fabric (s : State) : (s.bump).fabric = s.fabric := rfl
@[simp] theorem State.bump_accs (s : State) : (s.bump).accs = s.accs := rfl
@[simp] theorem State.bump_queues (s : State) : (s.bump).queues = s.queues := rfl
@[simp] theorem State.bump_semOps (s : State) : (s.bump).semOps = s.semOps := rfl
@[simp] theorem State.bump_pqOps (s : State) : (s.bump).pqOps = s.pqOps := rfl
@[simp] theorem State.bump_closes (s : State) : (s.bump).closes = s.closes := rfl
@[simp] theorem State.bump_parts (s : State) : (s.bump).parts = s.parts := rfl
@[simp] theorem State.bump_launches (s : State) : (s.bump).launches = s.launches := rfl
@[simp] theorem State.bump_images (s : State) : (s.bump).images = s.images := rfl
@[simp] theorem State.bump_places (s : State) : (s.bump).places = s.places := rfl
@[simp] theorem State.bump_biv (s : State) : (s.bump).biv = s.biv := rfl
@[simp] theorem State.bump_scr (s : State) : (s.bump).scr = s.scr := rfl
@[simp] theorem State.bump_tex (s : State) : (s.bump).tex = s.tex := rfl
@[simp] theorem State.bump_colReq (s : State) : (s.bump).colReq = s.colReq := rfl
@[simp] theorem State.bump_colWait (s : State) : (s.bump).colWait = s.colWait := rfl
@[simp] theorem State.bump_colLast (s : State) : (s.bump).colLast = s.colLast := rfl
@[simp] theorem State.bump_texLast (s : State) : (s.bump).texLast = s.texLast := rfl
@[simp] theorem State.bump_coh (s : State) : (s.bump).coh = s.coh := rfl
@[simp] theorem State.bump_lantern (s : State) : (s.bump).lantern = s.lantern := rfl
@[simp] theorem State.bump_io (s : State) : (s.bump).io = s.io := rfl

end Sys2Proof.Machine
end

