-- ==== Sys2Proof/Laws/Tables.lean ====
section
/-! SUPPORT. Reading a table after a write, and what each update of the state leaves of its accessors. -/

namespace Sys2Proof.Machine

variable {κ α : Type} [DecidableEq κ]

@[simp] theorem tget_tset_same (t : Tbl κ α) (k : κ) (a : α) : tget (tset t k a) k = some a := by
  induction t with
  | nil => simp [tset, tget]
  | cons e t ih => obtain ⟨k', b⟩ := e; by_cases h : k' = k <;> simp [tset, tget, h, ih]

theorem tget_tset_ne (t : Tbl κ α) {k j : κ} (a : α) (h : j ≠ k) : tget (tset t k a) j = tget t j := by
  induction t with
  | nil => simp [tset, tget, h.symm]
  | cons e t ih =>
    obtain ⟨k', b⟩ := e
    by_cases hk : k' = k
    · subst hk; simp [tset, tget, h.symm]
    · by_cases hj : k' = j
      · subst hj; simp [tset, tget, hk]
      · simp [tset, tget, hk, hj, ih]

theorem tget_tset (t : Tbl κ α) (k j : κ) (a : α) : tget (tset t k a) j = if j = k then some a else tget t j := by
  by_cases h : j = k
  · subst h; simp
  · simp [h, tget_tset_ne t a h]

@[simp] theorem tget_tdel_same (t : Tbl κ α) (k : κ) : tget (tdel t k) k = none := by
  induction t with
  | nil => rfl
  | cons e t ih =>
    obtain ⟨k', b⟩ := e
    by_cases h : k' = k
    · simpa [tdel, h] using ih
    · simpa [tdel, tget, h] using ih

theorem tget_tdel_ne (t : Tbl κ α) {k j : κ} (h : j ≠ k) : tget (tdel t k) j = tget t j := by
  induction t with
  | nil => rfl
  | cons e t ih =>
    obtain ⟨k', b⟩ := e
    by_cases hk : k' = k
    · subst hk; simpa [tdel, tget, h.symm] using ih
    · by_cases hj : k' = j
      · subst hj; simp [tdel, tget, hk]
      · simpa [tdel, tget, hk, hj] using ih

theorem tget_tmod (t : Tbl κ α) (k j : κ) (f : α → α) :
    tget (tmod t k f) j = if j = k then (tget t k).map f else tget t j := by
  unfold tmod
  cases h : tget t k with
  | none => by_cases hj : j = k <;> simp [hj, h]
  | some a => simp [tget_tset]

theorem tgetD_tset (t : Tbl κ α) (k j : κ) (a d : α) : tgetD (tset t k a) j d = if j = k then a else tgetD t j d := by
  unfold tgetD; rw [tget_tset]; split <;> simp

theorem tget_map_snd (t : Tbl κ α) (g : κ × α → α) (k : κ) :
    tget (t.map (fun e => (e.1, g e))) k = (tget t k).map (fun a => g (k, a)) := by
  induction t with
  | nil => rfl
  | cons e t ih =>
    obtain ⟨k', b⟩ := e
    by_cases h : k' = k
    · subst h; simp [tget]
    · simp [tget, h, ih]

/-! ## Accessors after an update -/

theorem State.setCell_cell (s : State) (a b : Agent) (c : Cell) : (s.setCell a c).cell b = if b = a then c else s.cell b :=
  tgetD_tset ..
theorem State.modCell_cell (s : State) (a b : Agent) (g : Cell → Cell) :
    (s.modCell a g).cell b = if b = a then g (s.cell a) else s.cell b := State.setCell_cell ..
theorem State.setSite_site (s : State) (x y : Site) (v : SiteSt) : (s.setSite x v).site y = if y = x then v else s.site y :=
  tgetD_tset ..
theorem State.modSite_site (s : State) (x y : Site) (g : SiteSt → SiteSt) :
    (s.modSite x g).site y = if y = x then g (s.site x) else s.site y := State.setSite_site ..
theorem State.setPart_part (s : State) (p q : Nat) (v : Part) : (s.setPart p v).part q = if q = p then v else s.part q :=
  tgetD_tset ..
theorem State.setThr_thr (s : State) (u w : Nat) (t : Thread) : (s.setThr u t).thr? w = if w = u then some t else s.thr? w :=
  tget_tset ..
theorem State.modThr_thr (s : State) (u w : Nat) (g : Thread → Thread) :
    (s.modThr u g).thr? w = if w = u then (s.thr? u).map g else s.thr? w := tget_tmod ..
theorem State.setElem_elem (s : State) (e d : Nat) (v : Elem) : (s.setElem e v).elem d = if d = e then v else s.elem d :=
  tgetD_tset ..
theorem State.setAcc_acc (s : State) (a b : Nat) (x : Access) : (s.setAcc a x).acc? b = if b = a then some x else s.acc? b :=
  tget_tset ..
theorem State.modAcc_acc (s : State) (a b : Nat) (g : Access → Access) :
    (s.modAcc a g).acc? b = if b = a then (s.acc? a).map g else s.acc? b := tget_tmod ..

/-- Updates that leave a table leave its reader. -/
theorem State.cell_congr {s s' : State} (h : s'.cells = s.cells) (a : Agent) : s'.cell a = s.cell a := by
  simp [State.cell, h]
theorem State.site_congr {s s' : State} (h : s'.sites = s.sites) (x : Site) : s'.site x = s.site x := by
  simp [State.site, h]
theorem State.part_congr {s s' : State} (h : s'.parts = s.parts) (p : Nat) : s'.part p = s.part p := by
  simp [State.part, h]
theorem State.thr_congr {s s' : State} (h : s'.threads = s.threads) (u : Nat) : s'.thr? u = s.thr? u := by
  simp [State.thr?, h]

end Sys2Proof.Machine
end

