-- ==== Sys2Proof/Laws/Frame.lean ====
section
/-! SUPPORT. What the shared operations at the end of an instruction keep. -/

namespace Sys2Proof.Machine

theorem Same.refl (c : Comp) (u : Nat) (s : State) : Same c u s s := by
  cases c <;> simp [Same]; intros; assumption

theorem Same.trans {c : Comp} {u : Nat} {s s' s'' : State} (h : Same c u s s') (h' : Same c u s' s'') : Same c u s s'' := by
  cases c <;> simp only [Same] at h h' ⊢
  case fences => exact fun a n e he ho => h' a n e (h a n e he ho) ho
  all_goals first
    | exact h'.trans h
    | exact ⟨h'.1.trans h.1, h'.2.trans h.2⟩
    | exact fun a => (h' a).trans (h a)
    | exact fun a ha => (h' a ha).trans (h a ha)
    | exact fun a => ⟨(h' a).1.trans (h a).1, (h' a).2.trans (h a).2⟩
    | exact ⟨h'.1.trans h.1, h'.2.1.trans h.2.1, h'.2.2.1.trans h.2.2.1, h'.2.2.2.trans h.2.2.2⟩
    | exact fun a => ⟨(h' a).1.trans (h a).1, (h' a).2.1.trans (h a).2.1, (h' a).2.2.1.trans (h a).2.2.1, (h' a).2.2.2.trans (h a).2.2.2⟩
    | exact fun a => ⟨(h' a).1.trans (h a).1, (h' a).2.1.trans (h a).2.1, (h' a).2.2.1.trans (h a).2.2.1,
        (h' a).2.2.2.1.trans (h a).2.2.2.1, (h' a).2.2.2.2.trans (h a).2.2.2.2⟩

theorem Keeps.refl (ex : List Comp) (u : Nat) (s : State) : Keeps ex u s s := ⟨fun c _ => Same.refl c u s⟩

theorem Keeps.trans {ex : List Comp} {u : Nat} {s s' s'' : State} (h : Keeps ex u s s') (h' : Keeps ex u s' s'') :
    Keeps ex u s s'' := ⟨fun c hc => (h.same c hc).trans (h'.same c hc)⟩

theorem Keeps.mono {ex ex' : List Comp} {u : Nat} {s s' : State} (h : Keeps ex u s s') (hs : ∀ c ∈ ex, c ∈ ex') :
    Keeps ex' u s s' := ⟨fun c hc => h.same c (fun hm => hc (hs c hm))⟩

theorem Keeps.weaken {ex : List Comp} {u : Nat} {s s' : State} (h : Keeps [] u s s') : Keeps ex u s s' :=
  h.mono (by simp)

theorem keeps_foldl {ι : Type} {ex : List Comp} {u : Nat} (g : State → ι → State) (hg : ∀ s i, Keeps ex u s (g s i)) (l : List ι)
    (s : State) : Keeps ex u s (l.foldl g s) := by
  induction l generalizing s with
  | nil => exact Keeps.refl ..
  | cons i l ih => exact (hg s i).trans (ih _)

/-! ## Updates -/

theorem keeps_of_tables {u : Nat} {s s' : State} (hm : s'.mem = s.mem) (hb : s'.memBad = s.memBad) (hc : s'.cycle = s.cycle)
    (ht : s'.tod = s.tod) (hth : ∀ w, w ≠ u → s'.thr? w = s.thr? w) (hcell : s'.cells = s.cells) (hsite : s'.sites = s.sites)
    (he : s'.elems = s.elems) (hf : s'.fabric = s.fabric) (ha : s'.accs = s.accs) (hq : s'.queues = s.queues)
    (hp : s'.pqOps = s.pqOps) (hso : s'.semOps = s.semOps) (hcl : s'.closes = s.closes) (hpa : s'.parts = s.parts)
    (hl : s'.launches = s.launches) (hi : s'.images = s.images) (hpl : s'.places = s.places) (hbi : s'.biv = s.biv)
    (hs : s'.scr = s.scr) (hte : s'.tex = s.tex) (h1 : s'.colReq = s.colReq) (h2 : s'.colWait = s.colWait)
    (h3 : s'.colLast = s.colLast) (h4 : s'.texLast = s.texLast) (hco : s'.coh = s.coh) (hla : s'.lantern = s.lantern)
    (hio : s'.io = s.io) : Keeps [] u s s' := by
  refine ⟨fun c _ => ?_⟩
  cases c <;> simp_all [Same, State.cell, State.site, State.part]

theorem keeps_setThr (s : State) (u : Nat) (t : Thread) : Keeps [] u s (s.setThr u t) := by
  apply keeps_of_tables <;> first | rfl | (intro w hw; simp [State.setThr_thr, hw])

theorem keeps_modThr (s : State) (u : Nat) (g : Thread → Thread) : Keeps [] u s (s.modThr u g) := by
  apply keeps_of_tables <;> first | rfl | (intro w hw; simp [State.modThr_thr, hw])

theorem keeps_post (s : State) (u : Nat) (a : Act) : Keeps [] u s (s.post a) := by
  apply keeps_of_tables <;> first | rfl | (intro w _; rfl)

theorem keeps_postEv (s : State) (u : Nat) (i : Instr) (x : Subj) : Keeps [] u s (s.postEv i x) := keeps_post ..

theorem keeps_bump (s : State) (u : Nat) : Keeps [] u s s.bump := by
  apply keeps_of_tables <;> first | rfl | (intro w _; rfl)

/-- A cell whose architectural parts stay. -/
structure CellKeeps (u : Nat) (c c' : Cell) : Prop where
  tables : c'.instr = c.instr ∧ c'.lits = c.lits ∧ c'.routes = c.routes ∧ c'.bases = c.bases ∧ c'.last = c.last
  queues : c'.queues = c.queues ∧ c'.pairs = c.pairs
  bank : c'.bank = c.bank
  red : c'.red = c.red
  fences : ∀ n e, tget c.fences n = some e → e.owner ≠ some u → tget c'.fences n = some e
  passed : c'.passed = c.passed

theorem keeps_setCell {s : State} {u : Nat} {a : Agent} {c : Cell} (h : CellKeeps u (s.cell a) c) : Keeps [] u s (s.setCell a c) := by
  refine ⟨fun k _ => ?_⟩
  cases k <;> simp only [Same] <;> first
    | rfl
    | exact ⟨rfl, rfl⟩
    | exact ⟨rfl, rfl, rfl, rfl⟩
    | (intro w _; rfl)
    | (intro x; first | rfl | exact ⟨rfl, rfl, rfl, rfl⟩)
    | (intro b; rw [State.setCell_cell]; split
       · rename_i hb; subst hb; first | exact h.tables | exact h.queues | exact h.bank | exact h.red | exact h.passed | exact h.fences
       · first | rfl | exact ⟨rfl, rfl⟩ | exact ⟨rfl, rfl, rfl, rfl, rfl⟩ | (intro _ _ he _; exact he))

/-- A site whose architectural parts stay. -/
structure SiteKeeps (v v' : SiteSt) : Prop where
  sems : v'.sems = v.sems
  frames : v'.frames = v.frames
  grants : v'.grants = v.grants
  engines : v'.copies = v.copies ∧ v'.copyGens = v.copyGens ∧ v'.chains = v.chains ∧ v'.chainGens = v.chainGens
  placed : v'.part = v.part ∧ v'.img = v.img ∧ v'.stage = v.stage ∧ v'.valid = v.valid

theorem keeps_setSite {s : State} {u : Nat} {x : Site} {v : SiteSt} (h : SiteKeeps (s.site x) v) : Keeps [] u s (s.setSite x v) := by
  refine ⟨fun k _ => ?_⟩
  cases k <;> simp only [Same] <;> first
    | rfl
    | exact ⟨rfl, rfl⟩
    | exact ⟨rfl, rfl, rfl, rfl⟩
    | (intro w _; rfl)
    | (intro a; first | rfl | exact ⟨rfl, rfl⟩ | exact ⟨rfl, rfl, rfl, rfl, rfl⟩)
    | (intro y; rw [State.setSite_site]; split
       · rename_i hy; subst hy; first | exact h.sems | exact h.frames | exact h.grants | exact h.engines | exact h.placed
       · first | rfl | exact ⟨rfl, rfl, rfl, rfl⟩)
    | (intro _ _ _ he _; exact he)

theorem keeps_modCell {s : State} {u : Nat} {a : Agent} {g : Cell → Cell} (h : ∀ c, CellKeeps u c (g c)) :
    Keeps [] u s (s.modCell a g) := keeps_setCell (h _)

theorem keeps_modSite {s : State} {u : Nat} {x : Site} {g : SiteSt → SiteSt} (h : ∀ v, SiteKeeps v (g v)) :
    Keeps [] u s (s.modSite x g) := keeps_setSite (h _)

theorem keeps_modCells (s : State) (u : Nat) (x : Site) (cs : List Nat) {g : Cell → Cell} (h : ∀ c, CellKeeps u c (g c)) :
    Keeps [] u s (s.modCells x cs g) := keeps_foldl _ (fun _ _ => keeps_modCell h) cs s

theorem keeps_wake (s : State) (u : Nat) (x : Site) (cs : List Nat) : Keeps [] u s (s.wake x cs) :=
  keeps_foldl _ (fun _ _ => keeps_postEv ..) cs s

/-- R325: the counts of another period go, and nothing else. -/
theorem Part.inPeriod_bare (v : Part) (n : Nat) : (v.inPeriod n).bare = v.bare := by
  unfold Part.inPeriod
  split
  · rfl
  · simp [Part.bare, List.map_map, Function.comp_def]

/-- Counting activity changes a partition in its counts alone. -/
theorem Part.count_bare (v : Part) (g : Nat → Region → Tbl (Nat × Item) Nat) :
    Part.bare { v with regions := v.regions.map (fun e => (e.1, { e.2 with used := g e.1 e.2 })) } = v.bare := by
  simp [Part.bare, List.map_map, Function.comp_def]

/-- R325: activity is counted and nothing else. -/
theorem keeps_charge (s : State) (u p r die : Nat) (i : Item) (n : Nat) : Keeps [] u s (s.charge p r die i n) := by
  unfold State.charge State.modPart
  split
  · exact Keeps.refl ..
  · rename_i v hv
    refine ⟨fun k _ => ?_⟩
    cases k <;> simp only [Same] <;> first
      | rfl
      | exact ⟨rfl, rfl⟩
      | exact ⟨rfl, rfl, rfl, rfl⟩
      | (intro w _; rfl)
      | (intro a; first | rfl | exact ⟨rfl, rfl⟩ | exact ⟨rfl, rfl, rfl, rfl⟩ | exact ⟨rfl, rfl, rfl, rfl, rfl⟩)
      | (intro _ _ _ he _; exact he)
      | skip
    intro q
    rw [State.setPart_part]
    split
    · rename_i hq; subst hq
      have : s.part q = v := by simp [State.part, tgetD, hv]
      rw [this]
      split
      · rfl
      · rw [← Part.inPeriod_bare v s.period, ← Part.count_bare (v.inPeriod s.period) (fun k e =>
          if ((v.inPeriod s.period).path r).contains k then tset e.used (die, i) (tgetD e.used (die, i) 0 + n) else e.used)]
        congr 2
        apply List.map_congr_left
        intro e _
        split <;> rfl
    · rfl

/-! ## Slots -/

theorem keeps_unreserve (s : State) (u : Nat) (r : Resv) : Keeps [] u s (s.unreserve r) := by
  cases r <;> unfold State.unreserve
  · exact keeps_modSite (by intro v; exact ⟨rfl, rfl, rfl, ⟨rfl, rfl, rfl, rfl⟩, ⟨rfl, rfl, rfl, rfl⟩⟩)
  · exact keeps_modCell (by intro c; exact ⟨⟨rfl, rfl, rfl, rfl, rfl⟩, ⟨rfl, rfl⟩, rfl, rfl, fun _ _ h _ => h, rfl⟩)

theorem keeps_unreserveAll (s : State) (u : Nat) (rs : List (Resv × Bool)) : Keeps [] u s (s.unreserveAll rs) :=
  keeps_foldl _ (fun _ _ => keeps_unreserve ..) rs s

theorem keeps_reserve {s s' : State} (u : Nat) {r : Resv} {c : Bool} (h : s.reserve r c = some s') : Keeps [] u s s' := by
  cases r with
  | egress x k =>
    simp only [State.reserve] at h
    by_cases hq : (s.site x).egress.length + (s.site x).egResv < (if c then 64 else 56)
    · rw [if_pos hq] at h; cases h; exact keeps_setSite ⟨rfl, rfl, rfl, ⟨rfl, rfl, rfl, rfl⟩, ⟨rfl, rfl, rfl, rfl⟩⟩
    · rw [if_neg hq] at h; cases h
  | queue a p =>
    simp only [State.reserve] at h
    by_cases hq : (if c then 1 else 3) ≤ (s.cell a).qfree p
    · rw [if_pos hq] at h; cases h; exact keeps_setCell ⟨⟨rfl, rfl, rfl, rfl, rfl⟩, ⟨rfl, rfl⟩, rfl, rfl, fun _ _ h _ => h, rfl⟩
    · rw [if_neg hq] at h; cases h

theorem keeps_reserveAll {s s' : State} (u : Nat) {rs : List (Resv × Bool)} (h : s.reserveAll rs = some s') : Keeps [] u s s' := by
  induction rs generalizing s with
  | nil => cases h; exact Keeps.refl ..
  | cons r rs ih =>
    obtain ⟨r, c⟩ := r
    simp only [State.reserveAll] at h
    split at h
    · cases h
    · rename_i s1 h1; exact (keeps_reserve u h1).trans (ih h)

/-! ## Tokens, suspension, the end of a thread -/

theorem keeps_launchTok (s : State) (u : Nat) (k : Token) (x : Site) : Keeps [] u s (s.launchTok k x) := by
  unfold State.launchTok
  split
  all_goals
    refine Keeps.trans ?_ (keeps_postEv ..)
    exact keeps_modSite (by intro v; exact ⟨rfl, rfl, rfl, ⟨rfl, rfl, rfl, rfl⟩, ⟨rfl, rfl, rfl, rfl⟩⟩)

theorem keeps_suspend (s : State) (u : Nat) (st : TStat) : Keeps [] u s (s.suspend u st) := by
  unfold State.suspend
  split
  · exact Keeps.refl ..
  · split
    · exact keeps_setThr ..
    · refine Keeps.trans ?_ (keeps_wake ..)
      refine Keeps.trans ?_ (keeps_setThr ..)
      exact keeps_modCells _ _ _ _ (by intro c; exact ⟨⟨rfl, rfl, rfl, rfl, rfl⟩, ⟨rfl, rfl⟩, rfl, rfl, fun _ _ h _ => h, rfl⟩)

theorem keeps_delThr (s : State) (u : Nat) : Keeps [] u s { s with threads := tdel s.threads u } := by
  apply keeps_of_tables <;> first | rfl | (intro w hw; exact tget_tdel_ne _ hw)

theorem fences_released (u : Nat) (c : Cell) (n : Nat) (e : FenceEnt) (he : tget c.fences n = some e) (ho : e.owner ≠ some u) :
    tget (c.fences.map (fun e => if e.2.owner = some u then (e.1, { e.2 with owner := none }) else e)) n = some e := by
  have hf : (c.fences.map (fun e => if e.2.owner = some u then (e.1, { e.2 with owner := none }) else e))
      = c.fences.map (fun e => (e.1, if e.2.owner = some u then { e.2 with owner := none } else e.2)) := by
    apply List.map_congr_left; intro e _; split <;> rfl
  rw [hf, tget_map_snd c.fences (fun e => if e.2.owner = some u then { e.2 with owner := none } else e.2) n, he]
  simp [ho]

theorem keeps_endThread (s : State) (u : Nat) : Keeps [] u s (s.endThread u) := by
  unfold State.endThread
  split
  · exact Keeps.refl ..
  · refine Keeps.trans ?_ (keeps_wake ..)
    refine Keeps.trans ?_ (keeps_delThr ..)
    refine Keeps.trans ?_ (keeps_modSite (by intro v; exact ⟨rfl, rfl, rfl, ⟨rfl, rfl, rfl, rfl⟩, ⟨rfl, rfl, rfl, rfl⟩⟩))
    refine Keeps.trans ?_ (keeps_modCell (by
      intro c; exact ⟨⟨rfl, rfl, rfl, rfl, rfl⟩, ⟨rfl, rfl⟩, rfl, rfl, fences_released u c, rfl⟩))
    refine Keeps.trans ?_ (keeps_modCells _ _ _ _ (by
      intro c; exact ⟨⟨rfl, rfl, rfl, rfl, rfl⟩, ⟨rfl, rfl⟩, rfl, rfl, fun _ _ h _ => h, rfl⟩))
    exact keeps_foldl _ (fun _ _ => keeps_unreserve ..) _ _

theorem endThread_thr (s : State) (u : Nat) : (s.endThread u).thr? u = none := by
  unfold State.endThread
  split
  · assumption
  · simp only [State.wake]
    rename_i t _
    have key : ∀ (cs : List Nat) (x : Site) (s : State), (cs.foldl (fun s c => s.postEv .workSelection { ag := ⟨x, c⟩ }) s).thr? u = s.thr? u := by
      intro cs x s
      induction cs generalizing s with
      | nil => rfl
      | cons c cs ih => exact ih _
    rw [key]
    exact tget_tdel_same ..

theorem keeps_useRelease (s : State) (u : Nat) (x : Site) (f : BitVec 20) : Keeps [.frames] u s (s.useRelease x f) := by
  have key : ∀ (s : State) (h : Site) (g : SiteSt → SiteSt), (∀ v, (g v).sems = v.sems ∧ (g v).grants = v.grants
      ∧ ((g v).copies = v.copies ∧ (g v).copyGens = v.copyGens ∧ (g v).chains = v.chains ∧ (g v).chainGens = v.chainGens)
      ∧ ((g v).part = v.part ∧ (g v).img = v.img ∧ (g v).stage = v.stage ∧ (g v).valid = v.valid)) → Keeps [.frames] u s (s.modSite h g) := by
    intro s h g hg
    refine ⟨fun k hk => ?_⟩
    cases k <;> simp only [Same] <;> first
      | rfl
      | exact ⟨rfl, rfl⟩
      | exact ⟨rfl, rfl, rfl, rfl⟩
      | (intro w _; rfl)
      | (intro a; first | rfl | exact ⟨rfl, rfl⟩ | exact ⟨rfl, rfl, rfl, rfl, rfl⟩)
      | (simp at hk; done)
      | (intro y; rw [State.modSite_site]; split
         · rename_i hy; subst hy; first | exact (hg _).1 | exact (hg _).2.1 | exact (hg _).2.2.1 | exact (hg _).2.2.2
         · first | rfl | exact ⟨rfl, rfl, rfl, rfl⟩)
      | (intro _ _ _ he _; exact he)
  unfold State.useRelease
  split
  · exact Keeps.refl ..
  · split
    · unfold State.freeFrame
      split
      · exact Keeps.refl ..
      · exact key _ _ _ (fun v => ⟨rfl, rfl, ⟨rfl, rfl, rfl, rfl⟩, ⟨rfl, rfl, rfl, rfl⟩⟩)
    · unfold State.setFrame
      split
      · exact Keeps.refl ..
      · exact key _ _ _ (fun v => ⟨rfl, rfl, ⟨rfl, rfl, rfl, rfl⟩, ⟨rfl, rfl, rfl, rfl⟩⟩)

theorem keeps_modLaunch (s : State) (u l : Nat) (g : Launch → Launch) : Keeps [.launches] u s (s.modLaunch l g) := by
  refine ⟨fun k hk => ?_⟩
  cases k <;> simp only [Same] <;> first
    | rfl
    | exact ⟨rfl, rfl⟩
    | exact ⟨rfl, rfl, rfl, rfl⟩
    | (intro w _; rfl)
    | (intro a; first | rfl | exact ⟨rfl, rfl⟩ | exact ⟨rfl, rfl, rfl, rfl⟩ | exact ⟨rfl, rfl, rfl, rfl, rfl⟩)
    | (simp at hk; done)
    | (intro _ _ _ he _; exact he)

theorem keeps_doneAct (s : State) (u : Nat) (t : Thread) : Keeps [.frames, .launches] u s (s.doneAct t) :=
  ((keeps_useRelease ..).mono (by simp)).trans ((keeps_modLaunch ..).mono (by simp))

end Sys2Proof.Machine
end

