-- ==== Sys2Proof/Laws/Issue.lean ====
section
/-! SUPPORT. The end of an instruction, said once: with its slots there, an instruction that has its
effect completes, and leaves the rest of the state as its own effect left it. -/

namespace Sys2Proof.Machine

/-! ## The thread table -/

theorem threads_foldl {ι : Type} (g : State → ι → State) (hg : ∀ s i, (g s i).threads = s.threads) (l : List ι) (s : State) :
    (l.foldl g s).threads = s.threads := by
  induction l generalizing s with
  | nil => rfl
  | cons i l ih => exact (ih _).trans (hg s i)

theorem threads_modCells (s : State) (x : Site) (cs : List Nat) (g : Cell → Cell) : (s.modCells x cs g).threads = s.threads := by
  unfold State.modCells; exact threads_foldl _ (fun s c => by rfl) cs s

theorem threads_wake (s : State) (x : Site) (cs : List Nat) : (s.wake x cs).threads = s.threads := by
  unfold State.wake; exact threads_foldl _ (fun s c => by rfl) cs s

theorem threads_charge (s : State) (p r die : Nat) (i : Item) (n : Nat) : (s.charge p r die i n).threads = s.threads := by
  unfold State.charge State.modPart
  split <;> rfl

theorem threads_unreserve (s : State) (r : Resv) : (s.unreserve r).threads = s.threads := by
  cases r <;> rfl

theorem threads_unreserveAll (s : State) (rs : List (Resv × Bool)) : (s.unreserveAll rs).threads = s.threads :=
  threads_foldl _ (fun _ _ => threads_unreserve ..) rs s

theorem threads_reserve {s s' : State} {r : Resv} {c : Bool} (h : s.reserve r c = some s') : s'.threads = s.threads := by
  cases r with
  | egress x k =>
    simp only [State.reserve] at h
    by_cases hq : (s.site x).egress.length + (s.site x).egResv < (if c then 64 else 56)
    · rw [if_pos hq] at h; cases h; rfl
    · rw [if_neg hq] at h; cases h
  | queue a p =>
    simp only [State.reserve] at h
    by_cases hq : (if c then 1 else 3) ≤ (s.cell a).qfree p
    · rw [if_pos hq] at h; cases h; rfl
    · rw [if_neg hq] at h; cases h

theorem threads_reserveAll {s s' : State} {rs : List (Resv × Bool)} (h : s.reserveAll rs = some s') : s'.threads = s.threads := by
  induction rs generalizing s with
  | nil => cases h; rfl
  | cons r rs ih =>
    obtain ⟨r, c⟩ := r
    simp only [State.reserveAll] at h
    split at h
    · cases h
    · rename_i s1 h1; exact (ih h).trans (threads_reserve h1)

theorem threads_launchTok (s : State) (k : Token) (x : Site) : (s.launchTok k x).threads = s.threads := by
  unfold State.launchTok; split <;> rfl

theorem threads_countIssue (s : State) (t : Thread) (n : Nat) : (s.countIssue t n).threads = s.threads := by
  unfold State.countIssue
  simp only
  split
  · rw [threads_charge, threads_modCells]
  · exact threads_modCells ..

theorem keeps_countIssue (s : State) (u : Nat) (t : Thread) (n : Nat) : Keeps [] u s (s.countIssue t n) := by
  have h : Keeps [] u s (s.modCells t.src.site t.cellsHeld (fun c => { c with issued := c.issued + 1 })) :=
    keeps_modCells _ _ _ _ (by intro c; exact ⟨⟨rfl, rfl, rfl, rfl, rfl⟩, ⟨rfl, rfl⟩, rfl, rfl, fun _ _ h _ => h, rfl⟩)
  unfold State.countIssue
  simp only
  split
  · exact h.trans (keeps_charge ..)
  · exact h

/-! ## Emission -/

theorem emitOne_open (s : State) (u : Nat) (t : Thread) (f : Fields) (opc : Nat) (e : Eff) (d : PlanEnt) (h : d.tgt.open = true) :
    Keeps [] u s (s.emitOne t f opc e d) ∧ (s.emitOne t f opc e d).threads = s.threads := by
  unfold State.emitOne
  split
  · exact ⟨keeps_unreserveAll .., threads_unreserveAll ..⟩
  · simp only
    cases hd : d.tgt <;> simp_all [Tgt.open]
    · refine ⟨?_, by rw [threads_launchTok]; exact threads_unreserveAll ..⟩
      exact ((keeps_unreserveAll ..).trans (keeps_bump ..)).trans (keeps_launchTok ..)
    · refine ⟨?_, by rw [threads_launchTok]; rfl⟩
      exact (keeps_bump ..).trans (keeps_launchTok ..)

theorem settle_open (s : State) (t : Thread) (f : Fields) (e : Eff) (d : PlanEnt) (h : d.tgt.open = true) :
    s.settle t f e d = (s, d) := by
  unfold State.settle
  cases hd : d.tgt <;> simp_all [Tgt.open]

theorem emitAll_open (s : State) (u : Nat) (t : Thread) (f : Fields) (opc : Nat) (e : Eff) (p : Plan) (hb : p.bad = none)
    (h : ∀ d ∈ p.ents, d.tgt.open = true) : Keeps [] u s (s.emitAll t f opc e p) ∧ (s.emitAll t f opc e p).threads = s.threads := by
  unfold State.emitAll
  rw [hb]
  simp only
  generalize p.ents = l at h
  induction l generalizing s with
  | nil => exact ⟨Keeps.refl .., rfl⟩
  | cons d l ih =>
    simp only [List.foldl_cons]
    have hd := h d (by simp)
    rw [settle_open _ _ _ _ _ hd]
    have h1 := emitOne_open s u t f opc e d hd
    have h2 := ih (s.emitOne t f opc e d) (fun d' hd' => h d' (by simp [hd']))
    exact ⟨h1.1.trans h2.1, h2.2.trans h1.2⟩

/-! ## The end -/

theorem thr_setThr (s : State) (u : Nat) (t : Thread) : (s.setThr u t).thr? u = some t := by simp [State.setThr_thr]

theorem suspend_thr (s : State) (u : Nat) (st : TStat) (t : Thread) (h : s.thr? u = some t) :
    ∃ st' sl su, (s.suspend u st).thr? u = some { t with stat := st', slot := sl, susp := su } := by
  unfold State.suspend
  rw [h]
  simp only
  split
  · exact ⟨st, none, s.tick, thr_setThr ..⟩
  · rename_i n _
    refine ⟨st, some n, _, (State.thr_congr (threads_wake ..) u).trans (thr_setThr ..)⟩

theorem pastEnd_of_last {s s' : State} {t : Thread} (h : (s'.cell t.src).last = (s.cell t.src).last) : s'.pastEnd t = s.pastEnd t := by
  simp [State.pastEnd, h]

theorem advance_src (t : Thread) (j : Option Nat) : (t.advance j).src = t.src := by cases j <;> rfl

theorem pastEnd_advance (s : State) (t k : Thread) (j : Option Nat) (hs : t.src = k.src) (hi : t.ip = k.ip) (hl : t.loops = k.loops) :
    s.pastEnd (t.advance j) = s.pastEnd (k.advance j) := by
  cases j <;> simp [State.pastEnd, Thread.advance, hs, hi, hl]; rfl

theorem keeps_goOn (s : State) (u : Nat) (t : Thread) (f : Fields) (j : Option Nat) : Keeps [] u s (s.goOn u t f j) := by
  unfold State.goOn
  simp only
  split
  · exact (keeps_setThr ..).trans (keeps_endThread ..)
  · split
    · exact (keeps_setThr ..).trans (keeps_wake ..)
    · split
      · exact (keeps_setThr ..).trans (keeps_suspend ..)
      · split
        · exact keeps_setThr ..
        · exact (keeps_setThr ..).trans (keeps_post ..)

theorem goOn_past (s : State) (u : Nat) (t : Thread) (f : Fields) (j : Option Nat) (h : s.pastEnd (t.advance j) = true) :
    (s.goOn u t f j).thr? u = none := by
  unfold State.goOn
  simp only [h, if_true]
  exact endThread_thr ..

theorem goOn_thr (s : State) (u : Nat) (t : Thread) (f : Fields) (j : Option Nat) (h : s.pastEnd (t.advance j) = false) :
    ∃ st sl su, (s.goOn u t f j).thr? u = some { t.advance j with stat := st, slot := sl, susp := su } := by
  unfold State.goOn
  simp only [h, Bool.false_eq_true, if_false]
  split
  · exact ⟨.ready, (t.advance j).slot, (t.advance j).susp, (State.thr_congr (threads_wake ..) u).trans (thr_setThr ..)⟩
  · split
    · obtain ⟨a, b, c, h⟩ := suspend_thr (s.setThr u { t.advance j with stat := .run }) u .ready _ (thr_setThr ..)
      exact ⟨a, b, c, h⟩
    · split
      · exact ⟨.run, (t.advance j).slot, (t.advance j).susp, thr_setThr ..⟩
      · exact ⟨.run, (t.advance j).slot, (t.advance j).susp, thr_setThr ..⟩

/-- The end of an instruction whose tokens can all leave. -/
theorem finish_completes {b s : State} {u : Nat} {k : Thread} {f : Fields} {e : Eff} {p : Plan} {opc : Nat}
    (hk : Keeps [] u b s) (ht : s.thr? u = some (k.commit f e)) (hend : k.ending = false) (hbad : p.bad = none)
    (hopen : ∀ d ∈ p.ents, d.tgt.open = true) : Completes b (s.finish u f opc e p) u k f e := by
  have hem := emitAll_open s u (k.commit f e) f opc e p hbad hopen
  have he : (k.commit f e).ending = false := by exact hend
  have ht' : (s.emitAll (k.commit f e) f opc e p).thr? u = some (k.commit f e) := by rw [State.thr_congr hem.2]; exact ht
  have hsrc : (k.commit f e).src = k.src := by rfl
  have hip : (k.commit f e).ip = k.ip := by rfl
  have hlo : (k.commit f e).loops = k.loops := by rfl
  have hpb : (k.commit f e).pblk = k.pblk := by rfl
  generalize hs1 : s.emitAll (k.commit f e) f opc e p = s1 at hem ht'
  have hfin : s.finish u f opc e p =
      (let t : Thread := { k.commit f e with pblk := k.nextPblk e, wait := none, plan := ⟨[], none⟩, ending := false }
       let s2 := s1.setThr u t
       if continues f.tag then s2.goOn u t f e.jump
       else if f.tag = .done then (s2.doneAct t).endThread u else s2.endThread u) := by
    unfold State.finish
    simp only [ht, hs1, ht', he, Bool.false_eq_true, if_false, Thread.nextPblk, hpb] <;> rfl
  rw [hfin]
  simp only
  generalize hT : ({ k.commit f e with pblk := k.nextPblk e, wait := none, plan := ⟨[], none⟩, ending := false } : Thread) = T
  have hk2 : Keeps [] u b (s1.setThr u T) := (hk.trans hem.1).trans (keeps_setThr ..)
  have hpast : ∀ j, (s1.setThr u T).pastEnd (T.advance j) = b.pastEnd (k.advance j) := by
    intro j
    rw [pastEnd_advance _ T k j (by rw [← hT]; exact hsrc) (by rw [← hT]; exact hip) (by rw [← hT]; exact hlo)]
    apply pastEnd_of_last
    exact (hk2.same .tables (by simp) _).2.2.2.2
  by_cases hc : continues f.tag = true
  · have hnd : doneComps f = [] := by unfold doneComps; split; · rename_i h; simp [h, continues] at hc
                                      · rfl
    refine ⟨by rw [hnd, if_pos hc]; exact hk2.trans (keeps_goOn ..), fun _ hp => ?_, fun h => ?_⟩
    · rw [if_pos hc]
      obtain ⟨st, sl, su, h⟩ := goOn_thr (s1.setThr u T) u T f e.jump (by rw [hpast]; exact hp)
      refine ⟨st, sl, su, h.trans ?_⟩
      subst hT
      rw [← he]
      cases e.jump <;> rfl
    · rw [if_pos hc]
      rcases h with h | h
      · rw [hc] at h; cases h
      · exact goOn_past _ _ _ _ _ (by rw [hpast]; exact h)
  · refine ⟨?_, fun h => absurd h hc, fun _ => ?_⟩
    · rw [if_neg hc]
      split
      · rename_i h; simp only [doneComps, h, if_true]
        exact (hk2.weaken.trans (keeps_doneAct ..)).trans (keeps_endThread ..).weaken
      · rename_i h; simp only [doneComps, h, if_false]
        exact hk2.trans (keeps_endThread ..)
    · rw [if_neg hc]; split <;> exact endThread_thr ..

/-- An instruction whose own effect is b, k and e completes, with its slots there. -/
theorem issue_completes {s b : State} {u : Nat} {t k : Thread} {f : Fields} {m : Form} {e : Eff} (ht : s.thr? u = some t)
    (hk : b.thr? u = some k) (hend : k.ending = false) (hs : e.susp = none) (hr : Room s b t k f e) :
    Completes b (s.issue u f m b e) u k f e := by
  obtain ⟨hgood, hopen, hslots⟩ := hr
  have hp : (s.emits b t k f e) = (if e.mute then ⟨[], none⟩ else b.planFor (if e.ctl then { k.commit f e with kind := .control } else k.commit f e) f
      (s.contWord t f) (some (e.scene (((k.commit f e).lanes.map (fun x => x.v)).headD .zero)))) := by
    unfold State.emits; rfl
  unfold State.issue
  simp only [hk, ht, hs, Option.isSome_none, Bool.false_eq_true, if_false]
  rw [← hp]
  cases h : b.reserveAll ((s.emits b t k f e).ents.flatMap (fun d => d.resv)) with
  | none => rw [h] at hslots; cases hslots
  | some s1 =>
    simp only
    exact finish_completes (((keeps_reserveAll u h).trans (keeps_setThr ..)).trans (keeps_countIssue ..))
      (by rw [State.thr_congr (threads_countIssue ..)]; exact thr_setThr ..) hend hgood hopen

theorem instr_issues {s : State} {u : Nat} {t : Thread} {f : Fields} {m : Form} {body : Nat → Thread → Body}
    (h : Issues s u t f m) : s.instr f m body = (match body u t with
        | .hold b => .next b
        | .full => .next (s.noSlot u)
        | .ok b e => .next (s.issue u f m b e)) := by
  unfold State.instr
  simp only [h.runs, h.thr, h.legal, h.going, h.free, Bool.not_true, Bool.false_eq_true, if_false] <;> rfl

/-- A modelled instruction performs what its body says. -/
theorem instr_performs {s b : State} {u : Nat} {t k : Thread} {f : Fields} {m : Form} {body : Nat → Thread → Body} {e : Eff}
    (h : Issues s u t f m) (hb : body u t = .ok b e) (hk : b.thr? u = some k) (hend : k.ending = false) (hs : e.susp = none)
    (hr : Room s b t k f e) : ∃ s', s.instr f m body = .next s' ∧ Completes b s' u k f e := by
  refine ⟨_, ?_, issue_completes h.thr hk hend hs hr (m := m)⟩
  rw [instr_issues h, hb]

theorem pure_performs {s : State} {u : Nat} {t : Thread} {f : Fields} {m : Form} {eff : Thread → Eff}
    (h : Issues s u t f m) (hs : (eff t).susp = none) (hr : Room s s t t f (eff t)) :
    ∃ s', s.pureInstr f m eff = .next s' ∧ Completes s s' u t f (eff t) :=
  instr_performs h rfl h.thr h.going hs hr

/-- The same of `exec`, where its arm is such a body. -/
theorem exec_performs {i : Instr} {s b : State} {u : Nat} {t k : Thread} {f : Fields} {m : Form} {body : Nat → Thread → Body} {e : Eff}
    (hx : exec i s = s.instr f m body) (h : Issues s u t f m) (hb : body u t = .ok b e) (hk : b.thr? u = some k)
    (hend : k.ending = false) (hs : e.susp = none) (hr : Room s b t k f e) : Performs i s u f b k e := by
  obtain ⟨s', h1, h2⟩ := instr_performs h hb hk hend hs hr
  exact ⟨s', hx.trans h1, h2⟩

/-- The end of a wait whose tokens can all leave. -/
theorem complete_completes {s : State} {u : Nat} {t : Thread} {w : Wait} {st : TStat} (e : Eff) (h : Waiting s u t w st) :
    Completes s (s.complete u e) u t w.fields e := by
  unfold State.complete
  simp only [h.thr, h.wait]
  exact finish_completes (keeps_setThr ..) (thr_setThr ..) h.going h.good h.targets

/-! ## Waiting -/

theorem holdAt_thr (s : State) (u : Nat) (st : TStat) (t : Thread) (h : s.thr? u = some t) :
    (s.holdAt u st).thr? u = some { t with stat := st, slot := none, susp := s.tick } := by
  simp [State.holdAt, State.modThr_thr, h]

theorem startWait_suspends {b s : State} {u : Nat} {k : Thread} {pl : Plan} {st : TStat} (hk : Keeps [] u b s)
    (ht : s.thr? u = some { k with plan := pl }) : Suspends b (s.startWait u st) u k st := by
  unfold State.startWait
  split
  · exact ⟨hk.trans (keeps_modThr ..), pl, none, s.tick, holdAt_thr s u st _ ht⟩
  · refine ⟨hk.trans (keeps_suspend ..), ?_⟩
    unfold State.suspend
    rw [ht]
    simp only
    split
    · exact ⟨pl, none, s.tick, thr_setThr ..⟩
    · rename_i n _
      exact ⟨pl, some n, _, (State.thr_congr (threads_wake ..) u).trans (thr_setThr ..)⟩

theorem commit_none (k : Thread) (f : Fields) (st : Option TStat) : k.commit f { susp := st } = k := by
  unfold Thread.commit
  have : k.lanes.mapIdx (fun l x => if k.selected l = true then x.after f { susp := st } l else x) = k.lanes := by
    apply List.ext_getElem
    · simp
    · intro i h1 h2; simp [Lane.after]
  rw [this]

/-- An instruction that waits holds its slots and stays as its own effect left it. -/
theorem issue_parks {s b : State} {u : Nat} {t k : Thread} {f : Fields} {m : Form} {st : TStat} (ht : s.thr? u = some t)
    (hk : b.thr? u = some k) (hr : RoomLate s b t k f) : Suspends b (s.issue u f m b { susp := some st }) u k st := by
  unfold State.issue
  unfold RoomLate at hr
  simp only [hk, ht, commit_none, Option.isSome_some, if_true, Bool.false_eq_true, if_false]
  cases h : b.reserveAll ((b.planFor k f (s.contWord t f) none).ents.flatMap (fun d => d.resv)) with
  | none => rw [h] at hr; cases hr
  | some s1 =>
    simp only
    exact startWait_suspends ((((keeps_reserveAll u h).trans (keeps_setThr ..)).trans (keeps_countIssue ..)).trans (keeps_setThr ..))
      (thr_setThr ..)

/-- A modelled instruction that waits. -/
theorem instr_parks {s b : State} {u : Nat} {t k : Thread} {f : Fields} {m : Form} {body : Nat → Thread → Body} {st : TStat}
    (h : Issues s u t f m) (hb : body u t = .ok b { susp := some st }) (hk : b.thr? u = some k) (hr : RoomLate s b t k f) :
    ∃ s', s.instr f m body = .next s' ∧ Suspends b s' u k st := by
  refine ⟨_, ?_, issue_parks h.thr hk hr (m := m)⟩
  rw [instr_issues h, hb]

theorem exec_parks {i : Instr} {s b : State} {u : Nat} {t k : Thread} {f : Fields} {m : Form} {body : Nat → Thread → Body} {st : TStat}
    (hx : exec i s = s.instr f m body) (h : Issues s u t f m) (hb : body u t = .ok b { susp := some st }) (hk : b.thr? u = some k)
    (hr : RoomLate s b t k f) : Parks i s u b k st := by
  obtain ⟨s', h1, h2⟩ := instr_parks h hb hk hr
  exact ⟨s', hx.trans h1, h2⟩

end Sys2Proof.Machine
end

