-- ==== Sys2Proof/Laws/Lanes.lean ====
section
/-! SUPPORT. Lanewise results as lists over the lanes, and the instructions that write nothing but them. -/

namespace Sys2Proof.Machine

@[simp] theorem srcs_length (t : Thread) (f : Fields) (q : Sel) : (t.srcs f q).length = t.width := by
  simp [Thread.srcs, Thread.width]
@[simp] theorem as_length (t : Thread) (f : Fields) : (t.as f).length = t.width := srcs_length ..
@[simp] theorem bs_length (t : Thread) (f : Fields) : (t.bs f).length = t.width := srcs_length ..
@[simp] theorem zs_length (t : Thread) : t.zs.length = t.width := by simp [Thread.zs, Thread.width]

theorem map_range_getD {α β : Type} (xs : List α) (d : α) (g : α → β) : xs.map g = (List.range xs.length).map (fun l => g (xs.getD l d)) := by
  apply List.ext_getElem
  · simp
  · intro i h1 h2
    simp at h1
    simp [List.getD, h1]

/-- The operands of A, lane by lane. -/
theorem as_lanes (t : Thread) (f : Fields) : t.as f = (List.range t.width).map (t.aW f) := by
  have := map_range_getD (t.as f) PWord.zero id
  rw [List.map_id, as_length] at this
  exact this

theorem zipWith_range_getD {α β γ : Type} (xs : List α) (ys : List β) (h : ys.length = xs.length) (d : α) (e : β) (g : α → β → γ) :
    List.zipWith g xs ys = (List.range xs.length).map (fun l => g (xs.getD l d) (ys.getD l e)) := by
  apply List.ext_getElem
  · simp [h]
  · intro i h1 h2
    simp at h2
    simp [List.getD, h2, h]

theorem map1_lanes (t : Thread) (f : Fields) (g : Word → Word) :
    t.map1 f g = (List.range t.width).map (fun l => ⟨g (t.aW f l).w, (t.aW f l).pois⟩) := by
  unfold Thread.map1
  rw [map_range_getD _ PWord.zero, as_length]
  rfl

theorem map2_lanes (t : Thread) (f : Fields) (g : Word → Word → Word) :
    t.map2 f g = (List.range t.width).map (fun l => ⟨g (t.aW f l).w (t.bW f l).w, (t.aW f l).pois || (t.bW f l).pois⟩) := by
  unfold Thread.map2
  rw [zipWith_range_getD _ _ (by simp) PWord.zero PWord.zero, as_length]
  rfl

theorem map3_lanes (t : Thread) (f : Fields) (g : Word → Word → Word → Word) :
    t.map3 f g = (List.range t.width).map (fun l => ⟨g (t.aW f l).w (t.bW f l).w (t.zW l).w,
      (t.aW f l).pois || (t.bW f l).pois || (t.zW l).pois⟩) := by
  unfold Thread.map3
  rw [zipWith_range_getD _ _ (by simp) (PWord.zero, PWord.zero) PWord.zero]
  simp only [List.length_zip, as_length, bs_length, Nat.min_self]
  apply List.map_congr_left
  intro l hl
  simp at hl
  have ha : l < (t.as f).length := by simpa using hl
  have hb : l < (t.bs f).length := by simpa using hl
  simp [Thread.aW, Thread.bW, Thread.zW, List.getD, hl]

theorem mapP1_lanes (t : Thread) (f : Fields) (g : PWord → PWord) :
    t.mapP1 f g = (List.range t.width).map (fun l => g (t.aW f l)) := by
  unfold Thread.mapP1
  rw [map_range_getD _ PWord.zero, as_length]
  rfl

theorem mapP2_lanes (t : Thread) (f : Fields) (g : PWord → PWord → PWord) :
    t.mapP2 f g = (List.range t.width).map (fun l => g (t.aW f l) (t.bW f l)) := by
  unfold Thread.mapP2
  rw [zipWith_range_getD _ _ (by simp) PWord.zero PWord.zero, as_length]
  rfl

theorem mapP3_lanes (t : Thread) (f : Fields) (g : PWord → PWord → PWord → PWord) :
    t.mapP3 f g = (List.range t.width).map (fun l => g (t.aW f l) (t.bW f l) (t.zW l)) := by
  unfold Thread.mapP3
  rw [zipWith_range_getD _ _ (by simp) (PWord.zero, PWord.zero) PWord.zero]
  simp only [List.length_zip, as_length, bs_length, Nat.min_self]
  apply List.map_congr_left
  intro l hl
  simp at hl
  simp [Thread.aW, Thread.bW, Thread.zW, List.getD, hl]

/-- An instruction that changes nothing outside its thread acts as its effect says. -/
theorem actsAs_pure {mk : Fields → Instr} {m : Fields → Form} {eff eff' : Thread → Fields → Eff}
    (hx : ∀ f s, exec (mk f) s = s.pureInstr f (m f) (fun t => eff' t f)) (he : ∀ t f, fieldsOk (m f).opc f = true → eff' t f = eff t f)
    (hs : ∀ t f, (eff t f).susp = none) : ActsAs mk m eff := by
  intro s u t f hi hr
  have h := pure_performs (eff := fun t => eff' t f) hi (by rw [he t f hi.legal]; exact hs t f) (by rw [he t f hi.legal]; exact hr)
  obtain ⟨s', h1, h2⟩ := h
  exact ⟨s', by rw [hx]; exact h1, by rw [he t f hi.legal] at h2; exact h2⟩

end Sys2Proof.Machine
end

