-- ==== Sys2Proof/Laws/Memory.lean ====
section
/-! SUPPORT. Memory: every operation keeps the canonical form, and a read after a write. -/

namespace Sys2Proof.Machine

/-- The bound of a canonical form stands before every entry. -/
theorem Memory.wfFrom_mono {lo : Option Nat} {m : List Host.Cell} (h : Memory.wfFrom lo m = true) : Memory.wfFrom none m = true := by
  cases m with
  | nil => rfl
  | cons e m => obtain ⟨k, b⟩ := e; simp_all [Memory.wfFrom, Memory.above]

theorem Memory.wfFrom_weaken {l l' : Nat} {m : List Host.Cell} (hl : l' ≤ l) (h : Memory.wfFrom (some l) m = true) :
    Memory.wfFrom (some l') m = true := by
  cases m with
  | nil => rfl
  | cons e m => obtain ⟨k, b⟩ := e; simp_all [Memory.wfFrom, Memory.above]; omega

theorem wrB_wfFrom (m : List Host.Cell) (lo : Option Nat) (a : Nat) (b : Byte) (hlo : ∀ l, lo = some l → l < a)
    (h : Memory.wfFrom lo m = true) : Memory.wfFrom lo (wrB m a b) = true := by
  induction m generalizing lo with
  | nil =>
    unfold wrB; split
    · rfl
    · rename_i hb; cases lo with
      | none => simp [Memory.wfFrom, Memory.above, hb]
      | some l => simp [Memory.wfFrom, Memory.above, hb, hlo l rfl]
  | cons e m ih =>
    obtain ⟨k, c⟩ := e
    have hk : Memory.above lo k = true ∧ (c != memDefault) = true
        ∧ Memory.wfFrom (some k) m = true := by simpa [Memory.wfFrom, and_assoc] using h
    obtain ⟨h1, h2, h3⟩ := hk
    have ha : Memory.above lo a = true := by
      cases lo with
      | none => rfl
      | some l => simpa [Memory.above] using hlo l rfl
    unfold wrB
    split
    · rename_i hka; subst hka
      split
      · cases lo with
        | none => exact Memory.wfFrom_mono h3
        | some l => exact Memory.wfFrom_weaken (Nat.le_of_lt (hlo l rfl)) h3
      · rename_i hb; simp [Memory.wfFrom, h1, h3, hb]
    · split
      · split
        · exact h
        · rename_i hlt hb
          have hak : Memory.above (some a) k = true := by simpa [Memory.above] using hlt
          simp [Memory.wfFrom, ha, hb, hak, h3] at h2 ⊢
          exact h2
      · rename_i hne hlt
        have : Memory.wfFrom (some k) (wrB m a b) = true := ih (some k) (by intro l hl; cases hl; omega) h3
        simp [Memory.wfFrom, h1, this] at h2 ⊢
        exact h2

@[simp] theorem wrB_wf {m : List Host.Cell} (h : Memory.wf m = true) (a : Nat) (b : Byte) : Memory.wf (wrB m a b) = true :=
  wrB_wfFrom m none a b (by simp) h

@[simp] theorem wrN_wf {m : List Host.Cell} (h : Memory.wf m = true) (a : Nat) (bs : List Byte) :
    Memory.wf (wrN m a bs) = true := by
  induction bs generalizing m a with
  | nil => exact h
  | cons b bs ih => exact ih (wrB_wf h a b) (a + 1)

@[simp] theorem wrMasked_wf {m : List Host.Cell} (h : Memory.wf m = true) (a : Nat) (bs : List Byte) (ks : List Bool) :
    Memory.wf (wrMasked m a bs ks) = true := by
  induction bs generalizing m a ks with
  | nil => cases ks <;> exact h
  | cons b bs ih =>
    cases ks with
    | nil => exact h
    | cons k ks => exact ih (by split <;> simp [h]) (a + 1) ks

theorem filter_wfFrom (p : Host.Cell → Bool) (m : List Host.Cell) (lo : Option Nat) (h : Memory.wfFrom lo m = true) :
    Memory.wfFrom lo (m.filter p) = true := by
  induction m generalizing lo with
  | nil => exact h
  | cons e m ih =>
    obtain ⟨k, c⟩ := e
    have hk : Memory.above lo k = true ∧ (c != memDefault) = true
        ∧ Memory.wfFrom (some k) m = true := by simpa [Memory.wfFrom, and_assoc] using h
    obtain ⟨h1, h2, h3⟩ := hk
    by_cases hp : p (k, c) = true
    · simp only [List.filter_cons_of_pos hp, Memory.wfFrom, h1, ih _ h3, Bool.and_true, Bool.true_and]
      exact h2
    · rw [List.filter_cons_of_neg hp]
      cases lo with
      | none => exact Memory.wfFrom_mono (ih _ h3)
      | some l => exact Memory.wfFrom_weaken (by simp [Memory.above] at h1; omega) (ih _ h3)

@[simp] theorem filter_wf {m : List Host.Cell} (h : Memory.wf m = true) (p : Host.Cell → Bool) : Memory.wf (m.filter p) = true :=
  filter_wfFrom p m none h

theorem rdB_below (m : List Host.Cell) (l a : Nat) (h : Memory.wfFrom (some l) m = true) (ha : a ≤ l) : rdB m a = memDefault := by
  cases m with
  | nil => rfl
  | cons e m =>
    obtain ⟨k, c⟩ := e
    have hk : l < k := by simp [Memory.wfFrom, Memory.above] at h; exact h.1.1
    unfold rdB
    rw [if_neg (by omega), if_pos (by omega)]

theorem rdB_wrB_from (m : List Host.Cell) (lo : Option Nat) (h : Memory.wfFrom lo m = true) (a x : Nat) (b : Byte) :
    rdB (wrB m a b) x = if x = a then b else rdB m x := by
  induction m generalizing lo with
  | nil =>
    unfold wrB
    split
    · rename_i hb; simp [rdB, hb]
    · by_cases hx : x = a
      · simp [rdB, hx]
      · simp [rdB, hx, Ne.symm hx]
  | cons e m ih =>
    obtain ⟨k, c⟩ := e
    have h3 : Memory.wfFrom (some k) m = true := by simp [Memory.wfFrom] at h; exact h.2
    unfold wrB
    split
    · rename_i hka; subst hka
      split
      · rename_i hb
        by_cases hx : x = k
        · subst hx; simp [rdB_below m x x h3 (Nat.le_refl _), hb]
        · rw [if_neg hx]
          conv => rhs; unfold rdB
          rw [if_neg (Ne.symm hx)]
          split
          · exact rdB_below m k x h3 (by omega)
          · rfl
      · by_cases hx : x = k
        · subst hx; simp [rdB]
        · simp [rdB, hx, Ne.symm hx]
    · rename_i hka
      split
      · rename_i hlt
        split
        · rename_i hb
          by_cases hx : x = a
          · subst hx; simp [rdB, hka, hlt, hb]
          · simp [hx]
        · by_cases hx : x = a
          · subst hx; simp [rdB]
          · conv => lhs; unfold rdB
            rw [if_neg (Ne.symm hx), if_neg hx]
            split
            · unfold rdB; rw [if_neg (by omega), if_pos (by omega)]
            · rfl
      · by_cases hx : x = k
        · subst hx; simp [rdB, hka]
        · by_cases hxk : x < k
          · have : x ≠ a := by omega
            simp [rdB, Ne.symm hx, hxk, this]
          · conv => lhs; unfold rdB
            conv => rhs; rhs; unfold rdB
            rw [if_neg (Ne.symm hx), if_neg hxk, if_neg (Ne.symm hx), if_neg hxk]
            exact ih _ h3

/-- A read of one byte after a write of one byte. -/
theorem rdB_wrB {m : List Host.Cell} (h : Memory.wf m = true) (a x : Nat) (b : Byte) :
    rdB (wrB m a b) x = if x = a then b else rdB m x := rdB_wrB_from m none h a x b

/-- A read of one byte after a write of several. -/
theorem rdB_wrN {m : List Host.Cell} (h : Memory.wf m = true) (a x : Nat) (bs : List Byte) :
    rdB (wrN m a bs) x = if a ≤ x ∧ x < a + bs.length then bs.getD (x - a) 0 else rdB m x := by
  induction bs generalizing m a with
  | nil => simp [wrN]
  | cons b bs ih =>
    rw [wrN, ih (wrB_wf h a b), rdB_wrB h]
    by_cases hx : x = a
    · subst hx
      rw [if_neg (by omega), if_pos rfl, if_pos (by simp)]
      simp
    · by_cases h1 : a + 1 ≤ x ∧ x < a + 1 + bs.length
      · rw [if_pos h1, if_pos (by simp; omega)]
        obtain ⟨n, hn⟩ : ∃ n, x - a = n + 1 := ⟨x - a - 1, by omega⟩
        rw [hn, show x - (a + 1) = n by omega]
        simp
      · rw [if_neg h1, if_neg hx, if_neg (by simp; omega)]

/-- Where a masked write lands. -/
theorem rdB_wrMasked_outside {m : List Host.Cell} (h : Memory.wf m = true) (a x : Nat) (bs : List Byte) (ks : List Bool)
    (hx : x < a ∨ a + bs.length ≤ x) : rdB (wrMasked m a bs ks) x = rdB m x := by
  induction bs generalizing m a ks with
  | nil => cases ks <;> rfl
  | cons b bs ih =>
    cases ks with
    | nil => rfl
    | cons k ks =>
      simp only [List.length_cons] at hx
      have hw : Memory.wf (if k then wrB m a b else m) = true := by split <;> simp [h]
      rw [wrMasked, ih hw (a + 1) ks (by omega)]
      split
      · rw [rdB_wrB h, if_neg (by omega)]
      · rfl

theorem State.closeWindows_mem (s : State) (line : Nat) : (s.closeWindows line).mem = s.mem := rfl

theorem State.soil_mem (s : State) (line : Nat) : (s.soil line).mem = s.mem := rfl

theorem State.hwCollapse_mem (s : State) (line : Nat) : (s.hwCollapse line).mem = s.mem := by
  unfold State.hwCollapse
  split <;> rfl

/-- R268, R300: a hardware write that performs changes the bytes it stores and no others; one to a lost die changes
none. -/
theorem State.hwPerform_mem (s : State) (a : Nat) (bs : List Byte) :
    (s.hwPerform a bs).mem = if s.coh.lost.contains (12 + memDie a) then s.mem else wrN s.mem a bs := by
  unfold State.hwPerform
  split
  · rfl
  generalize hs : ({ s with mem := _, memBad := _ } : State) = s'
  have h : s'.mem = wrN s.mem a bs := by rw [← hs]
  generalize List.range _ = l
  clear hs
  induction l generalizing s' with
  | nil => exact h
  | cons i l ih => exact ih _ (by rw [State.closeWindows_mem, State.soil_mem, State.hwCollapse_mem, h])

/-- R428: what leaves for another module changes no byte of this one. -/
theorem State.hwSend_mem (s : State) (a : Nat) (bs : List Byte) : (s.hwSend a bs).mem = s.mem := by
  have h : ∀ (l : List LaneAcc) (n : Nat) (t : State),
      (l.foldl (fun s m => s.postEv .pageWalk { a := n, b := m.lane }) t).mem = t.mem := by
    intro l
    induction l with
    | nil => exact fun _ _ => rfl
    | cons m l ih => exact fun n t => ih n _
  exact h _ _ _

/-- R268, R300, R307, R428: a hardware write stores its bytes, or a switch holds it, or no slice of the module serves
it, and memory stays as it is. -/
theorem State.hwWrite_mem (s : State) (a : Nat) (bs : List Byte) :
    (s.hwWrite a bs).mem = if s.served a && !s.switching a then wrN s.mem a bs else s.mem := by
  unfold State.hwWrite State.served
  cases isAperture a
  · cases h : s.switching a
    · rw [if_neg (by decide), if_neg (by decide), State.hwPerform_mem]
      cases s.coh.lost.contains (12 + memDie a) <;> rfl
    · rw [if_neg (by decide), if_pos rfl]
      cases s.coh.lost.contains (12 + memDie a) <;> rfl
  · rw [if_pos rfl, State.hwSend_mem]
    rfl

/-- R268: a hardware write keeps the canonical form. -/
theorem State.hwWrite_wf {s : State} (h : Memory.wf s.mem = true) (a : Nat) (bs : List Byte) :
    Memory.wf (s.hwWrite a bs).mem = true := by
  rw [State.hwWrite_mem]
  split
  · exact wrN_wf h a bs
  · exact h

end Sys2Proof.Machine
end

