-- ==== Sys2Proof/Tests/Slice0.lean ====
section
/-! SUPPORT. Tests. The expected results come from the tables of spec/ and from calculation by hand; each
theorem says which rule. The `meets` theorems show states and operands that meet the hypotheses of the
statements of the same name. -/

set_option Elab.async false

namespace Sys2Proof.Tests

open Sys2Proof Sys2Proof.Machine

/-! ## Small states -/

def ok (w : Word) : PWord := ⟨w, false⟩

/-- A lane with a, b and v. -/
def lane (a b z : PWord) : Lane := ⟨a, b, .zero, .zero, z, false⟩

/-- A thread of one lane. -/
def thr (src : Agent) (a b z : PWord) : Thread :=
  { src := src, part := 0, region := 0, inv := 0, lanes := [lane a b z], ip := 0, frame := 0, wave := 7, colour := 0, eod := 0,
    kind := .data, block := 0, loops := [], pblk := none, nld := 0, nst := 0, ncp := 0, nmx := 0, todHi := 0, cycHi := 0,
    stat := .run, slot := none, wait := none, pend := [], lfPend := [], staged := none, stgates := [], plan := ⟨[], none⟩,
    susp := 0, seq := 0, ending := false }

/-- A state in which thread 1 runs on its agent, whose site belongs to partition 0. -/
def on (t : Thread) : State :=
  { State.reset with
    cur := t.src, agenda := [], fresh := 2, threads := [(1, t)]
    cells := [(t.src, { Cell.reset with run := some 1, last := some 9 })]
    sites := [(t.src.site, { SiteSt.reset with part := some 0, valid := true })]
    parts := [(0, { Part.reset with tiles := [0, 1], elems := [0, 1],
                                    regions := [(0, rootRegion 2 1024 2 0)], domains := [(0, ⟨false, false, 0⟩)] })] }

def cell0 : Agent := ⟨.tile 0, 0⟩
def elem0 : Agent := ⟨.elem 0, 0⟩

/-- A thread of tile 0 with operands a, b and v. -/
def tt (a b z : Word) : Thread := thr cell0 (ok a) (ok b) (ok z)
/-- The same on element 0. -/
def te (a b z : Word) : Thread := thr elem0 (ok a) (ok b) (ok z)

/-- Fields with A = a, B = b, no destination, tag action next. -/
def fs (lit : Word) : Fields := ⟨.next, .a, .b, .none, .none, lit⟩

/-- What an instruction leaves in `v` of lane 0. -/
def vOf (i : Instr) (s : State) : Option PWord :=
  match exec i s with
  | .next s' => (s'.thr? 1).bind (fun t => (t.lanes.head?).map (fun x => x.v))
  | _ => none

/-- And in `p`. -/
def pOf (i : Instr) (s : State) : Option Bool :=
  match exec i s with
  | .next s' => (s'.thr? 1).bind (fun t => (t.lanes.head?).map (fun x => x.p))
  | _ => none

/-- The state after it. -/
def aft (i : Instr) (s : State) : State := match exec i s with | .next s' => s' | _ => State.reset

/-- The result of an instruction on literal lit, A, B and z, on tile 0. -/
def res (mk : Fields → Instr) (lit a b z : Word) : Option Word := (vOf (mk (fs lit)) (on (tt a b z))).map (fun w => w.w)

/-! ## Decoding (R35 to R38, R44): words written out from the encoding

[31:24] opcode, [23:20] tag action, [19:17] select A, [16:14] select B, [13:7] destination 1, [6:0] destination 2. -/

def word (op tag a b d1 d2 : Nat) : Nat := op * 2 ^ 24 + tag * 2 ^ 20 + a * 2 ^ 17 + b * 2 ^ 14 + d1 * 2 ^ 7 + d2

def dec (w lit : Nat) : Option Instr :=
  match decode (leBytes 4 w ++ leBytes 4 lit) with
  | .ok (i, []) => some i
  | _ => none

theorem test_decode_control : dec (0x02 * 2 ^ 24 + 1 * 2 ^ 20 + 7 * 2 ^ 17 + 7 * 2 ^ 14 + 127 * 2 ^ 7 + 127) 5
    = some (.jmp ⟨.next, .zero, .zero, .none, .none, 5⟩) := by decide +kernel
theorem test_decode_integer : dec (0x10 * 2 ^ 24 + 1 * 2 ^ 20 + 0 * 2 ^ 17 + 4 * 2 ^ 14 + 96 * 2 ^ 7 + 127) 7
    = some (.add ⟨.next, .a, .lit, .reg .a, .none, 7⟩) := by decide +kernel
theorem test_decode_shift : dec (0x20 * 2 ^ 24 + 15 * 2 ^ 20 + 1 * 2 ^ 17 + 6 * 2 ^ 14 + 100 * 2 ^ 7 + 101) 0
    = some (.shl ⟨.done, .b, .lane, .v, .p, 0⟩) := by decide +kernel
theorem test_decode_compare : dec (0x30 * 2 ^ 24 + 12 * 2 ^ 20 + 2 * 2 ^ 17 + 3 * 2 ^ 14 + 0 * 2 ^ 7 + 95) 0
    = some (.cmpeq ⟨.ifp, .c, .d, .route 0, .route 95, 0⟩) := by decide +kernel
theorem test_decode_float : dec (0x43 * 2 ^ 24 + 10 * 2 ^ 20 + 5 * 2 ^ 17 + 0 * 2 ^ 14 + 97 * 2 ^ 7 + 99) 3
    = some (.fma ⟨.pois, .v, .a, .reg .b, .reg .d, 3⟩) := by decide +kernel
theorem test_decode_packed : dec (0x56 * 2 ^ 24 + 2 * 2 ^ 20 + 0 * 2 ^ 17 + 1 * 2 ^ 14 + 98 * 2 ^ 7 + 127) 4
    = some (.hdot ⟨.wavePlus, .a, .b, .reg .c, .none, 4⟩) := by decide +kernel
theorem test_decode_residue : dec (0x68 * 2 ^ 24 + 3 * 2 ^ 20 + 0 * 2 ^ 17 + 7 * 2 ^ 14 + 100 * 2 ^ 7 + 127) 0
    = some (.rchk ⟨.wave0, .a, .zero, .v, .none, 0⟩) := by decide +kernel
theorem test_decode_column : dec (0x79 * 2 ^ 24 + 4 * 2 ^ 20 + 0 * 2 ^ 17 + 1 * 2 ^ 14 + 1 * 2 ^ 7 + 127) 0
    = some (.xerf ⟨.call, .a, .b, .route 1, .none, 0⟩) := by decide +kernel
theorem test_decode_colour : dec (0x8D * 2 ^ 24 + 5 * 2 ^ 20 + 0 * 2 ^ 17 + 7 * 2 ^ 14 + 100 * 2 ^ 7 + 127) 0
    = some (.cmpct ⟨.ret, .a, .zero, .v, .none, 0⟩) := by decide +kernel
theorem test_decode_reduction : dec (0x99 * 2 ^ 24 + 6 * 2 ^ 20 + 7 * 2 ^ 17 + 7 * 2 ^ 14 + 100 * 2 ^ 7 + 127) 1
    = some (.eod ⟨.setcol, .zero, .zero, .v, .none, 1⟩) := by decide +kernel
theorem test_decode_load : dec (0xA0 * 2 ^ 24 + 7 * 2 ^ 20 + 0 * 2 ^ 17 + 7 * 2 ^ 14 + 98 * 2 ^ 7 + 127) 0x80
    = some (.ld ⟨.eod1, .a, .zero, .reg .c, .none, 0x80⟩) := by decide +kernel
theorem test_decode_atomic : dec (0xB7 * 2 ^ 24 + 8 * 2 ^ 20 + 0 * 2 ^ 17 + 2 * 2 ^ 14 + 96 * 2 ^ 7 + 127) 0x80
    = some (.acas ⟨.eod2, .a, .c, .reg .a, .none, 0x80⟩) := by decide +kernel
theorem test_decode_queue : dec (0xC8 * 2 ^ 24 + 9 * 2 ^ 20 + 0 * 2 ^ 17 + 7 * 2 ^ 14 + 127 * 2 ^ 7 + 127) 0
    = some (.qpush ⟨.eod3, .a, .zero, .none, .none, 0⟩) := by decide +kernel
theorem test_decode_matrix : dec (0xD5 * 2 ^ 24 + 14 * 2 ^ 20 + 0 * 2 ^ 17 + 1 * 2 ^ 14 + 127 * 2 ^ 7 + 127) 4
    = some (.mdrn ⟨.yield, .a, .b, .none, .none, 4⟩) := by decide +kernel
theorem test_decode_graphics : dec (0xEB * 2 ^ 24 + 11 * 2 ^ 20 + 0 * 2 ^ 17 + 7 * 2 ^ 14 + 100 * 2 ^ 7 + 127) 0
    = some (.tblnd ⟨.drop, .a, .zero, .v, .none, 0⟩) := by decide +kernel
theorem test_decode_system : dec (0xF4 * 2 ^ 24 + 13 * 2 ^ 20 + 0 * 2 ^ 17 + 7 * 2 ^ 14 + 127 * 2 ^ 7 + 127) 9
    = some (.cwget ⟨.ifnp, .a, .zero, .none, .none, 9⟩) := by decide +kernel

/-- Reasons 1 and 2 of R46: a dash of the map, and destination codes 102 to 126. -/
theorem test_decode_reserved : dec 0x581FFFFF 0 = none ∧ dec (word 0x7A 0 0 0 127 127) 0 = none ∧ dec (word 0xFD 0 0 0 127 127) 0 = none
    ∧ dec (word 0x10 0 0 0 102 127) 0 = none ∧ dec (word 0x10 0 0 0 127 126) 0 = none
    ∧ decode (leBytes 7 0x10) = .error .short := by decide +kernel

/-- The encoder gives the same words back. -/
theorem test_encode : encode (.add ⟨.next, .a, .lit, .reg .a, .none, 7⟩) = some (0x1011307F, 7)
    ∧ encode (.mark ⟨.ifnp, .a, .zero, .none, .none, 9⟩) = some (0xFCD1FFFF, 9) ∧ encode (.waitTest) = none := by decide +kernel

/-- The table's numbering: the word's bits first, then the literal's. -/
theorem test_decode_table_word : decodeTableWord 32 0x1011307F = some (.add ⟨.next, .a, .lit, .reg .a, .none, 0⟩)
    ∧ decodeTableWord 64 (0x1011307F + 7 * 2 ^ 32) = some (.add ⟨.next, .a, .lit, .reg .a, .none, 7⟩)
    ∧ decodeTableWord 32 0x581FFFFF = none := by decide +kernel

/-! ## Well-formedness (R39, R46 reasons 4 to 6): an ill-formed term for each check -/

/-- Reason 4: a literal select of an instruction with a control literal; reason 5: `call` with no word at B. -/
theorem smoke_selects : (Instr.jmp ⟨.keep, .lit, .zero, .none, .none, 0⟩).wf = false ∧ (Instr.jmp ⟨.keep, .a, .lit, .none, .none, 0⟩).wf = false
    ∧ (Instr.add ⟨.call, .a, .lit, .none, .none, 0⟩).wf = false ∧ (Instr.add ⟨.call, .a, .lane, .none, .none, 0⟩).wf = false
    ∧ (Instr.add ⟨.call, .a, .zero, .none, .none, 0⟩).wf = false ∧ (Instr.add ⟨.call, .a, .b, .none, .none, 0⟩).wf = true := by decide +kernel

/-- R39: a mode literal above its rounding mode, unless an operand reads it. -/
theorem smoke_mode : (Instr.fadd (fs 4)).wf = false ∧ (Instr.fadd (fs 3)).wf = true
    ∧ (Instr.fadd ⟨.keep, .lit, .b, .none, .none, 0xFFFFFFFF⟩).wf = true := by decide +kernel

/-- Reason 6: a reserved literal of each form, beside one that is not. -/
def illFormedA : List (Instr × Instr) :=
  [(Instr.jmp (fs 256), Instr.jmp (fs 255)), (Instr.brp (fs 0x300), Instr.brp (fs 0x2FF)), (Instr.loop (fs 256), Instr.loop (fs 255)),
   (Instr.lexit (fs 5), Instr.lexit (fs 0x405)), (Instr.pblk (fs 0x10), Instr.pblk (fs 0xFF0F)), (Instr.waits (fs 64), Instr.waits (fs 63)),
   (Instr.trap (fs 1024), Instr.trap (fs 1023)), (Instr.bkpt (fs 32), Instr.bkpt (fs 31)), (Instr.gate (fs 2), Instr.gate (fs 1)),
   (Instr.cvt (fs 12), Instr.cvt (fs 11)), (Instr.cvt (fs 0xC0), Instr.cvt (fs 0xB0)), (Instr.cvtq8 (fs 2), Instr.cvtq8 (fs 3)),
   (Instr.cvte8 (fs 32), Instr.cvte8 (fs 31)), (Instr.bscal (fs 16), Instr.bscal (fs 15)), (Instr.renc (fs 3), Instr.renc (fs 1)),
   (Instr.rdec (fs 4), Instr.rdec (fs 3)), (Instr.vote (fs 5), Instr.vote (fs 12)), (Instr.hadd (fs 8), Instr.hadd (fs 7))]
def illFormedB : List (Instr × Instr) :=
  [(Instr.eod (fs 0), Instr.eod (fs 3)), (Instr.ldc (fs 254), Instr.ldc (fs 253)), (Instr.stc (fs 0x8000000), Instr.stc (fs 0x7000000)),
   (Instr.stbar (fs 0x500), Instr.stbar (fs 0x4FF)), (Instr.chnopn (fs 0x1C8), Instr.chnopn (fs 0x208)), (Instr.chncls (fs 128), Instr.chncls (fs 127)),
   (Instr.fence (fs 0x80), Instr.fence (fs 0x401)), (Instr.fwait (fs 1), Instr.fwait (fs 0)), (Instr.ld (fs 0xFFFFFFFF), Instr.ld (fs 0x80)),
   (Instr.copy (fs 8), Instr.copy (fs 7)), (Instr.cblk (fs 8), Instr.cblk (fs 7)), (Instr.cpcnl (fs 1), Instr.cpcnl (fs 0)),
   (Instr.semi (fs 0x280), Instr.semi (fs 0x23F)), (Instr.semset (fs 64), Instr.semset (fs 63)), (Instr.semrd (fs 64), Instr.semrd (fs 63)),
   (Instr.fork (fs 0x3F), Instr.fork (fs 0x440)), (Instr.rdzv (fs 64), Instr.rdzv (fs 63)), (Instr.qpush (fs 0x20), Instr.qpush (fs 0x18)),
   (Instr.qpop (fs 0x10), Instr.qpop (fs 7)), (Instr.qfree (fs 8), Instr.qfree (fs 16)), (Instr.edgef (fs 1), Instr.edgef (fs 0))]
def illFormedC : List (Instr × Instr) :=
  [(Instr.mload (fs 7), Instr.mload (fs 0)), (Instr.mma (fs 0xA00), Instr.mma (fs 0x800)), (Instr.mmas (fs 0x200), Instr.mmas (fs 0)),
   (Instr.mlut (fs 512), Instr.mlut (fs 511)), (Instr.munf (fs 0xA00), Instr.munf (fs 0x800)), (Instr.mdrn (fs 512), Instr.mdrn (fs 0)),
   (Instr.mzero (fs 512), Instr.mzero (fs 511)), (Instr.mscl (fs 0x201), Instr.mscl (fs 0x200)), (Instr.mbnd (fs 0x401), Instr.mbnd (fs 0x400)),
   (Instr.mfold (fs 512), Instr.mfold (fs 511)), (Instr.rqinit (fs 12), Instr.rqinit (fs 4)), (Instr.rqpro (fs 1), Instr.rqpro (fs 0)),
   (Instr.rqget (fs 10), Instr.rqget (fs 9)), (Instr.boxt (fs 32), Instr.boxt (fs 31)), (Instr.cover (fs 4), Instr.cover (fs 3)),
   (Instr.qmrg (fs 8192), Instr.qmrg (fs 8191)), (Instr.tseq (fs 16), Instr.tseq (fs 15)), (Instr.tblnd (fs 0xE0), Instr.tblnd (fs 0xC0)),
   (Instr.txs (fs 0x600), Instr.txs (fs 0)), (Instr.txl (fs 0x18), Instr.txl (fs 0x10)), (Instr.txg (fs 8), Instr.txg (fs 7))]
def illFormedD : List (Instr × Instr) :=
  [(Instr.frd (fs 256), Instr.frd (fs 255)), (Instr.fwr (fs 0x42), Instr.fwr (fs 0x41)), (Instr.cwget (fs 0x80000000), Instr.cwget (fs 1)),
   (Instr.cwset (fs 0x80000000), Instr.cwset (fs 1)), (Instr.rgne (fs 8), Instr.rgne (fs 7)), (Instr.rgnx (fs 128), Instr.rgnx (fs 127)),
   (Instr.lnch (fs 64), Instr.lnch (fs 63)), (Instr.place (fs 512), Instr.place (fs 511)), (Instr.rcmit (fs 512), Instr.rcmit (fs 511)),
   (Instr.fltx (fs 0x40000), Instr.fltx (fs 0x3FFFF)), (Instr.mark (fs 65536), Instr.mark (fs 65535)), (Instr.homep (fs 1), Instr.homep (fs 0))]

theorem smoke_literalsA : illFormedA.all (fun e => e.1.wf == false && e.2.wf) = true := by decide +kernel
theorem smoke_literalsB : illFormedB.all (fun e => e.1.wf == false && e.2.wf) = true := by decide +kernel
theorem smoke_literalsC : illFormedC.all (fun e => e.1.wf == false && e.2.wf) = true := by decide +kernel
theorem smoke_literalsD : illFormedD.all (fun e => e.1.wf == false && e.2.wf) = true := by decide +kernel

/-- R48: no pitched slot holds one; a step that met one refuses it by name. -/
theorem smoke_refused : exec (.jmp (fs 256)) (on (tt 0 0 0)) = .refused (.reservedLiteral 2) := by rfl

/-! ## Results (the tables of chapters 04 to 06), on tile 0 -/

theorem test_add_sub : res .add 0 0xFFFFFFFF 2 0 = some 1 ∧ res .sub 0 1 2 0 = some 0xFFFFFFFF ∧ res .neg 0 0x80000000 0 0 = some 0x80000000
    ∧ res .abs 0 0x80000000 0 0 = some 0x80000000 := by decide +kernel
theorem test_saturation : res .addss 0 0x7FFFFFFF 1 0 = some 0x7FFFFFFF ∧ res .addzs 0 0xFFFFFFFF 1 0 = some 0xFFFFFFFF
    ∧ res .subss 0 0x80000000 1 0 = some 0x80000000 ∧ res .subzs 0 1 2 0 = some 0 := by decide +kernel
theorem test_logic : res .and 0 0xF0 0x3C 0 = some 0x30 ∧ res .or 0 0xF0 0x0F 0 = some 0xFF ∧ res .xor 0 0xFF 0x0F 0 = some 0xF0
    ∧ res .andn 0 0xFF 0x0F 0 = some 0xF0 := by decide +kernel
theorem test_multiply : res .lea 0 3 4 10 = some 58 ∧ res .mul 0 0x10000 0x10000 0 = some 0 ∧ res .mulh 0 0x80000000 0x80000000 0 = some 0x40000000
    ∧ res .mulhz 0 0xFFFFFFFF 0xFFFFFFFF 0 = some 0xFFFFFFFE := by decide +kernel
theorem test_shift : res .shl 0 1 31 0 = some 0x80000000 ∧ res .shr 0 0x80000000 31 0 = some 1 ∧ res .sar 0 0x80000000 31 0 = some 0xFFFFFFFF
    ∧ res .rotl 0 0x80000001 1 0 = some 3 := by decide +kernel
theorem test_count : res .clz 0 1 0 0 = some 31 ∧ res .clz 0 0 0 0 = some 32 ∧ res .popc 0 0xF0F0 0 0 = some 8
    ∧ res .brev 0 1 0 0 = some 0x80000000 := by decide +kernel
/-- R113: position 4, length 8, sign bit of B set. -/
theorem test_field : res .bfx 0 0xFF0 (4 + 8 * 32 + 0x800) 0 = some 0xFFFFFFFF ∧ res .bfx 0 0xFF0 (4 + 8 * 32) 0 = some 0xFF
    ∧ res .bfi 0 0xAB (8 + 8 * 32) 0x11223344 = some 0x1122AB44 := by decide +kernel
/-- R114: toward zero; the two special cases. -/
theorem test_divide : res .div 0 0xFFFFFFF9 2 0 = some 0xFFFFFFFD ∧ res .rem 0 0xFFFFFFF9 2 0 = some 0xFFFFFFFF ∧ res .div 0 5 0 0 = some 0xFFFFFFFF
    ∧ res .div 0 0x80000000 0xFFFFFFFF 0 = some 0x80000000 ∧ res .rem 0 5 0 0 = some 5 ∧ res .divz 0 0xFFFFFFFF 16 0 = some 0x0FFFFFFF := by
  decide +kernel
theorem test_dot : res .dot4 0 0x7F7F7F7F 0x7F7F7F7F 0 = some 64516 ∧ res .dot4 0 0x80808080 0x7F7F7F7F 0x80000000 = some 0x80000000
    ∧ res .dot4z 0 0xFFFFFFFF 0xFFFFFFFF 0 = some 260100 ∧ res .dot8 0 0x88888888 0x77777777 0 = some 0xFFFFFE40 := by decide +kernel
theorem test_bytes : res .bytep 0 0x80FF7F00 0x3210 0 = some 0x80FF7F00 ∧ res .bytep 0 0x80FF7F00 0xBA98 0 = some 0xFFFF0000 := by decide +kernel
theorem test_compare : res .cmplt 0 0xFFFFFFFF 0 0 = some 1 ∧ res .cmpltz 0 0xFFFFFFFF 0 0 = some 0 ∧ res .cmpeq 0 4 4 0 = some 1
    ∧ res .cmpne 0 4 4 0 = some 0 ∧ res .cmple 0 4 4 0 = some 1 ∧ res .cmplez 0 5 4 0 = some 0 := by decide +kernel
theorem test_select : res .min 0 0xFFFFFFFF 0 0 = some 0xFFFFFFFF ∧ res .minz 0 0xFFFFFFFF 0 0 = some 0 ∧ res .max 0 0xFFFFFFFF 0 0 = some 0
    ∧ res .maxz 0 0xFFFFFFFF 0 0 = some 0xFFFFFFFF ∧ res .sel 0 1 2 0 = some 2 ∧ res .clamp 0 0 5 9 = some 5 := by decide +kernel
/-- 1.0 = 0x3F800000; a NaN compares false, and unordered (R119). -/
theorem test_float_compare : res .fcmpeq 0 0x80000000 0 0 = some 1 ∧ res .fcmplt 0 0xBF800000 0x3F800000 0 = some 1
    ∧ res .fcmple 0 0x7FC00000 0x7FC00000 0 = some 0 ∧ res .fcmpun 0 0x7FC00000 0 0 = some 1 := by decide +kernel
theorem test_float_add : res .fadd 0 0x3F800000 0x3F800000 0 = some 0x40000000 ∧ res .fadd 0 0x7F800000 0xFF800000 0 = some 0x7FC00000
    ∧ res .fsub 0 0x3F800000 0x3F800000 0 = some 0 ∧ res .fmul 0 0x40000000 0x40400000 0 = some 0x40C00000 := by decide +kernel
/-- 2 × 3 ± 1. -/
theorem test_float_fused : res .fma 0 0x40000000 0x40400000 0x3F800000 = some 0x40E00000 ∧ res .fms 0 0x40000000 0x40400000 0x3F800000 = some 0x40A00000
    ∧ res .fnma 0 0x40000000 0x40400000 0x3F800000 = some 0xC0A00000 := by decide +kernel
theorem test_float_bits : res .fmin 0 0x80000000 0 0 = some 0x80000000 ∧ res .fmax 0 0x80000000 0 0 = some 0 ∧ res .fabs 0 0xBF800000 0 0 = some 0x3F800000
    ∧ res .fneg 0 0x3F800000 0 0 = some 0xBF800000 ∧ res .fcpys 0 0x3F800000 0x80000000 0 = some 0xBF800000 ∧ res .fclass 0 0 0 0 = some 16 := by
  decide +kernel
/-- 2.5 to nearest even is 2; 1.0 by 2^3; 1/0; 1/3 rounds to 0x3EAAAAAB. -/
theorem test_float_other : res .frint 0 0x40200000 0 0 = some 0x40000000 ∧ res .fscale 0 0x3F800000 3 0 = some 0x41000000
    ∧ res .fdiv 0 0x3F800000 0 0 = some 0x7F800000 ∧ res .fdiv 0 0x3F800000 0x40400000 0 = some 0x3EAAAAAB
    ∧ res .ffract 3 0x40200000 0 0 = some 0x3F000000 := by decide +kernel
/-- BF16 1.0 = 0x3F80, FP16 1.0 = 0x3C00 (literal bit 2). -/
theorem test_packed : res .hadd 0 0x3F803F80 0x3F803F80 0 = some 0x40004000 ∧ res .hadd 4 0x3C003C00 0x3C003C00 0 = some 0x40004000
    ∧ res .hsub 0 0x3F800000 0x3F800000 0 = some 0 ∧ res .hmul 4 0x40004000 0x42003C00 0 = some 0x46004000
    ∧ res .hfma 4 0x3C003C00 0x3C003C00 0x3C000000 = some 0x40003C00 := by decide +kernel
theorem test_packed_other : res .hmin 4 0x3C00C000 0x40003C00 0 = some 0x3C00C000 ∧ res .hmax 4 0x3C00C000 0x40003C00 0 = some 0x40003C00
    ∧ res .hdot 4 0x3C003C00 0x40003C00 0x3F800000 = some 0x40800000 ∧ res .hneg 4 0x3C000000 0 0 = some 0xBC008000 := by decide +kernel
theorem test_convert : res .cvte8 0 0x38 0x3F800000 0 = some 0x3F800000 ∧ res .bscal 0 0 0 0 = some 0x3F800000
    ∧ res .cvtq8 0 0x3F800000 0x3F800000 0 = some 0x38 := by decide +kernel
/-- R167 to R169: -1 modulo 65536; 65534 + 1 modulo 65535; a residue out of range. -/
theorem test_residue : res .renc 0 0xFFFFFFFF 0 0 = some 0xFFFF ∧ res .radd 0 0x4000FFFE 0x40000001 0 = some 0x40000000
    ∧ res .rmul 0 0x80010000 0x80010000 0 = some 0x80000001 ∧ res .rchk 0 0x4000FFFF 0 0 = some 0 ∧ res .rchk 0 0x80010000 0 0 = some 1 := by decide +kernel
theorem test_reconstruct : res .rdec 0 0x0000FFFF 0x4000FFFE 0x80010000 = some 0xFFFFFFFF := by decide +kernel
/-- R171: at once on an element. -/
theorem test_column : vOf (.xrcp (fs 0)) (on (te 0x40000000 0 0)) = some (ok 0x3F000000)
    ∧ vOf (.xsqrt (fs 0)) (on (te 0x40800000 0 0)) = some (ok 0x40000000) := by decide +kernel

/-! ## Control, frames, colours, lane file, reductions -/

/-- R105: poison passes; PTEST reads it. -/
theorem test_poison : (vOf (.add (fs 0)) (on (thr cell0 .bad (ok 1) .zero))).map (fun w => w.pois) = some true
    ∧ pOf (.ptest (fs 0)) (on (thr cell0 .bad .zero .zero)) = some true := by decide +kernel
/-- R88, R89: a branch's target; the next slot. -/
theorem test_branch : ((aft (.jmp (fs 6)) (on (tt 0 0 0))).thr? 1).map (fun t => t.ip) = some 6
    ∧ ((aft (.nop (fs 0)) (on (tt 0 0 0))).thr? 1).map (fun t => t.ip) = some 1
    ∧ ((aft (.brp (fs 0x206)) (on (tt 0 0 0))).thr? 1).map (fun t => t.ip) = some 6 := by decide +kernel
theorem test_loop : ((aft (.loop (fs 6)) (on (tt 3 0 0))).thr? 1).map (fun t => (t.ip, t.loops)) = some (1, [⟨1, 6, 3⟩])
    ∧ ((aft (.loop (fs 6)) (on (tt 0 0 0))).thr? 1).map (fun t => (t.ip, t.loops)) = some (7, []) := by decide +kernel
theorem test_wave : res .wavea 0 5 0 0 = some 7 ∧ ((aft (.wavea (fs 0)) (on (tt 5 0 0))).thr? 1).map (fun t => t.wave) = some 5 := by decide +kernel
/-- R93, R351, R355: code 0x0010, class 3; word 1 names no invocation; word 8 holds the literal's code. -/
theorem test_trap : ((aft (.trap (fs 0x2A5)) (on (tt 8 9 0))).part 0).tqTail = 1
    ∧ (List.range 4).map (fun i => leNat (rdN (aft (.trap (fs 0x2A5)) (on (tt 8 9 0))).mem (4 * i) 4)) = [0x0C000010, 0xFFFFFFFF, 0, 0x100]
    ∧ (List.range 4).map (fun i => leNat (rdN (aft (.trap (fs 0x2A5)) (on (tt 8 9 0))).mem (32 + 4 * i) 4)) = [0xA5, 8, 9, 0] := by decide +kernel
/-- R96 to R99. -/
theorem test_frames : res .falloc 0 1 2 0 = some 0 ∧ pOf (.falloc (fs 0)) (on (tt 1 2 0)) = some true ∧ pOf (.falloc (fs 0)) (on (tt 0 2 0)) = some false
    ∧ (tget ((aft (.falloc (fs 0)) (on (tt 4 2 0))).site (.tile 0)).frames 0).map (fun w => (w.cls, w.use)) = some (1, 4) := by decide +kernel
/-- R142: width 4 at cell 0 of the strip: width 4 × 256 + colour 0. -/
theorem test_colour : res .ctxa 0 4 0 0 = some 0x400 ∧ tget ((aft (.ctxa (fs 0)) (on (tt 4 0 0))).site (.tile 0)).grants 0 = some ⟨4, 1⟩ := by decide +kernel
theorem test_permute : res .bcast 0 5 0 0 = some 5 ∧ res .perm 0 5 1 0 = some 0 ∧ res .shfl 0 5 1 0 = some 5 ∧ res .vote 0xC 1 0 0 = some 1 := by
  decide +kernel
theorem test_lane_file : (aft (.lfst (fs 0)) (on (tt 9 77 0))).lfWord cell0 9 = ok 77 ∧ res .lfld 0 1024 0 3 = some 0
    ∧ ((aft (.lfld (fs 0)) (on (tt 1024 0 3))).part 0).lfOobIdx = 1024 := by decide +kernel
/-- R139: below opcode 96 and with no marker nothing is emitted; the partial and the count stand in the element. -/
theorem test_reduction : (aft (.redadd (fs 0)) (on (tt 5 0 0))).red cell0 = ⟨[some (ok 5), none, none, none], 1, some 0x90⟩
    ∧ res .scanadd 0 5 0 0 = some 5 ∧ res .scanxadd 0 5 0 0 = some 0 ∧ res .eod 1 0 0 3 = some 0 := by decide +kernel

/-! ## Accesses, engines, queues, system -/

/-- R212, R249: a load counts and its target is pending. R268: a store of scope 0 is performed as it issues, one of scope 2 is outstanding. -/
theorem test_load : ((aft (.ld ⟨.next, .a, .b, .reg .c, .none, 0x80⟩) (on (tt 4 0 0))).thr? 1).map (fun t => (t.nld, t.pend)) = some (1, [(.c, 2)])
    ∧ ((aft (.st (fs 0x1080)) (on (tt 4 0 0))).thr? 1).map (fun t => t.nst) = some 1
    ∧ ((aft (.st (fs 0x80)) (on (tt 4 0 0))).thr? 1).map (fun t => t.nst) = some 0 := by decide +kernel
theorem test_atomic : AtKind.add.apply 0xFFFFFFFF 2 0 = 1 ∧ AtKind.cas.apply 5 9 5 = 9 ∧ AtKind.cas.apply 5 9 6 = 5 ∧ AtKind.xchg.apply 5 9 6 = 9
    ∧ (AtKind.min true).apply 0xFFFFFFFF 1 0 = 1 ∧ (AtKind.min false).apply 0xFFFFFFFF 1 0 = 0xFFFFFFFF := by decide +kernel
/-- R288: cell 0, generation 1, entry 0; FWAIT of it with nothing outstanding gives 1. -/
theorem test_fence : res .fence 0x101 0 0 0 = some 0x10 ∧ pOf (.fwait (fs 0)) (on (tt 0x10 0 0)) = some false := by decide +kernel
theorem test_semaphore : (aft (.semi (fs 3)) (on (tt 5 0 0))).sem (.tile 0) 3 = 5 ∧ (aft (.semset (fs 3)) (on (tt 9 0 0))).sem (.tile 0) 3 = 9
    ∧ pOf (.rdzv (fs 3)) (on (tt 0 0 0)) = some true ∧ pOf (.rdzv (fs 3)) (on (tt 0 1 0)) = some false := by decide +kernel
/-- R222: slot 0, generation 0; a chain's handle has bit 30. -/
theorem test_engine : res .copy 0 0x1000 0 0 = some 0 ∧ res .cblk 0 0x1000 0 0 = some 0x40000000 ∧ pOf (.cpcnl (fs 0)) (on (tt 0 0 0)) = some false := by
  decide +kernel
/-- R185, R189: one row of element 0; away from an element the fault of reason 1. -/
theorem test_matrix : ((aft (.mzero (fs 3)) (on (te 0 1 0))).thr? 1).map (fun t => t.nmx) = some 1
    ∧ ((aft (.mzero (fs 3)) (on (te 0 1 0))).elem 0).queue.length = 1 ∧ (vOf (.mzero (fs 3)) (on (tt 0 1 0))).map (fun w => w.pois) = some true := by
  decide +kernel
/-- R1, R23: `cfg.stepping` is word 0. -/
theorem test_control_word : res .cwget 0 0 0 0 = some 0xB0 ∧ pOf (.cwget (fs 0)) (on (tt 0 0 0)) = some true
    ∧ pOf (.cwset (fs 0)) (on (tt 1 0 0)) = some false := by decide +kernel
theorem test_fault_instruction : (vOf (.fltx (fs 0x55)) (on (tt 7 1 0))) = some ⟨7, true⟩
    ∧ ((aft (.fltx (fs 0x55)) (on (tt 7 1 0))).part 0).tqTail = 1 ∧ res .mark 3 7 0 0 = some 7 := by decide +kernel
theorem test_memory : rdN (wrN [] 4 [1, 2]) 4 2 = [1, 2] ∧ wrN [] 4 [0, 0] = [] ∧ wrB (wrB [] 9 1) 9 0 = [] := by decide +kernel
theorem reset_memory_wf : Memory.wf State.reset.mem = true := by decide

/-! ## States and operands that meet the hypotheses of the statements

`RunsAt s t f m` puts the hypotheses together that every statement about an instruction shares: thread 1 issues it,
and the slots of its tokens are there, whatever its effect. The other hypotheses of each clause stand beside it. -/

@[irreducible] def RunsAt (s : State) (t : Thread) (f : Fields) (m : Form) : Prop :=
  Issues s 1 t f m ∧ (∀ b k e, Room s b t k f e) ∧ ∀ b k, RoomLate s b t k f

theorem runsAt {s : State} {t : Thread} {f : Fields} {m : Form} (hf : f.tag = .next ∧ routeDsts f = [])
    (h : (s.curUid == some 1 && s.thr? 1 == some t && fieldsOk m.opc f && !t.ending && !t.blocked f m) = true) : RunsAt s t f m := by
  simp only [Bool.and_eq_true, beq_iff_eq, Bool.not_eq_true'] at h
  obtain ⟨⟨⟨⟨h1, h2⟩, h3⟩, h4⟩, h5⟩ := h
  have hp : ∀ (b : State) (k : Thread) (r : Option PWord), b.planFor k f (s.contWord t f) r = ⟨[], none⟩ := by
    intro b k r; simp [State.planFor, State.contWord, hf.1, hf.2]
  have he : ∀ b k e, s.emits b t k f e = ⟨[], none⟩ := by
    intro b k e; unfold State.emits; simp only; split
    · rfl
    · exact hp ..
  unfold RunsAt
  refine ⟨⟨h1, h2, h3, h4, h5⟩, fun b k e => ⟨by rw [he], by rw [he]; simp, by rw [he]; rfl⟩, fun b k => ?_⟩
  unfold RoomLate; rw [hp]; rfl

/-- A form that counts (R212) issues on a thread whose counters are below 255, whichever threads it counts for. -/
theorem runsAt_counts {s : State} {t : Thread} {f : Fields} {m : Form} (c : Thread → Bool) (ht : ∀ k, t.ctr k < 255) (h : RunsAt s t f m) :
    RunsAt s t f { m with counts := c } := by
  have same : t.blocked f { m with counts := c } = t.blocked f m := by
    unfold Thread.blocked
    cases hc : m.ctr with
    | none => rfl
    | some k => simp [Nat.not_le.2 (ht k)]
  unfold RunsAt at h ⊢
  obtain ⟨⟨h1, h2, h3, h4, h5⟩, hr⟩ := h
  exact ⟨⟨h1, h2, h3, h4, same ▸ h5⟩, hr⟩

theorem fs_quiet (lit : Word) : (fs lit).tag = .next ∧ routeDsts (fs lit) = [] := ⟨rfl, rfl⟩

/-- Every form of a list issues on a thread, with a legal literal. -/
theorem all_run {t : Thread} (l : List (Form × Word))
    (h : l.all (fun o => (on t).curUid == some 1 && (on t).thr? 1 == some t && fieldsOk o.1.opc (fs o.2) && !t.ending && !t.blocked (fs o.2) o.1) = true) :
    ∀ o ∈ l, RunsAt (on t) t (fs o.2) o.1 := by
  intro o ho
  exact runsAt (fs_quiet _) (List.all_eq_true.1 h o ho)

def t0 : Thread := tt 3 5 9
def t0e : Thread := te 3 5 9
theorem t0_counts : ∀ k, t0.ctr k < 255 := fun k => by cases k <;> decide
/-- A poisoned A. -/
def tbad : Thread := thr cell0 .bad (ok 1) (ok 2)

def formsInt : List (Form × Word) :=
  [({ opc := 0x10 }, 0), ({ opc := 0x11 }, 0), ({ opc := 0x12 }, 0), ({ opc := 0x13 }, 0), ({ opc := 0x14 }, 0), ({ opc := 0x15 }, 0),
   ({ opc := 0x16, b := false }, 0), ({ opc := 0x17, b := false }, 0), ({ opc := 0x18 }, 0), ({ opc := 0x19 }, 0), ({ opc := 0x1A }, 0),
   ({ opc := 0x1B }, 0), ({ opc := 0x1C }, 0), ({ opc := 0x1D }, 0), ({ opc := 0x1E }, 0), ({ opc := 0x1F }, 0), ({ opc := 0x20 }, 0)]
def formsBits : List (Form × Word) :=
  [({ opc := 0x21 }, 0), ({ opc := 0x22 }, 0), ({ opc := 0x23 }, 0), ({ opc := 0x24, b := false }, 0), ({ opc := 0x25, b := false }, 0),
   ({ opc := 0x26, b := false }, 0), ({ opc := 0x27 }, 0), ({ opc := 0x28 }, 0), ({ opc := 0x29, cyc := 12 }, 0), ({ opc := 0x2A, cyc := 12 }, 0),
   ({ opc := 0x2B, cyc := 12 }, 0), ({ opc := 0x2C }, 0), ({ opc := 0x2D }, 0), ({ opc := 0x2E }, 0), ({ opc := 0x2F }, 0)]
def formsCmp : List (Form × Word) :=
  [({ opc := 0x30 }, 0), ({ opc := 0x31 }, 0), ({ opc := 0x32 }, 0), ({ opc := 0x33 }, 0), ({ opc := 0x34 }, 0), ({ opc := 0x35 }, 0),
   ({ opc := 0x36 }, 0), ({ opc := 0x37 }, 0), ({ opc := 0x38 }, 0), ({ opc := 0x39 }, 0), ({ opc := 0x3A }, 0), ({ opc := 0x3B }, 0),
   ({ opc := 0x3C }, 0), ({ opc := 0x3D }, 0), ({ opc := 0x3E }, 0), ({ opc := 0x3F }, 0)]
def formsFp : List (Form × Word) :=
  [({ opc := 0x40 }, 3), ({ opc := 0x41 }, 0), ({ opc := 0x42 }, 1), ({ opc := 0x43 }, 2), ({ opc := 0x44 }, 0), ({ opc := 0x45 }, 0),
   ({ opc := 0x46 }, 0), ({ opc := 0x47 }, 0), ({ opc := 0x48, b := false }, 0), ({ opc := 0x49, b := false }, 0), ({ opc := 0x4A }, 0),
   ({ opc := 0x4B, b := false }, 0), ({ opc := 0x4C }, 0), ({ opc := 0x4D, b := false }, 0), ({ opc := 0x4E, cyc := 14 }, 0),
   ({ opc := 0x4F, b := false }, 0)]
def formsConv : List (Form × Word) :=
  [({ opc := 0x50 }, 7), ({ opc := 0x51 }, 0), ({ opc := 0x52 }, 0), ({ opc := 0x53 }, 0), ({ opc := 0x54 }, 0), ({ opc := 0x55 }, 0),
   ({ opc := 0x56 }, 0), ({ opc := 0x57, b := false }, 0), ({ opc := 0x60, b := false }, 0xBB), ({ opc := 0x61 }, 0x7D), ({ opc := 0x62 }, 31),
   ({ opc := 0x63, b := false }, 15), ({ opc := 0x64, b := false }, 0x2F6), ({ opc := 0x65, cyc := 2 }, 0xFF33), ({ opc := 0x66 }, 0),
   ({ opc := 0x67 }, 0), ({ opc := 0x68, b := false }, 0)]
def formsMove : List (Form × Word) :=
  [({ opc := 0x00, a := false, b := false }, 0), ({ opc := 0x01, b := false }, 0), ({ opc := 0x02, a := false, b := false }, 255),
   ({ opc := 0x03, a := false, b := false }, 0x2FF), ({ opc := 0x06, a := false, b := false }, 0xFF0F), ({ opc := 0x09, b := false }, 0),
   ({ opc := 0x0F, b := false }, 0), ({ opc := 0x84, a := false, b := false, cyc := 2 }, 0), ({ opc := 0x85, cyc := 2 }, 0),
   ({ opc := 0x86, cyc := 2 }, 0), ({ opc := 0x87, cyc := 2 }, 0), ({ opc := 0x88, a := true, b := false, cyc := 2 }, 12),
   ({ opc := 0x88, a := false, b := false, cyc := 2 }, 4), ({ opc := 0x8D, b := false, cyc := 2 }, 0), ({ opc := 0xCB, b := false }, 0)]

theorem meets_IntegerInstructionResults : ∀ o ∈ formsInt ++ formsBits, RunsAt (on t0) t0 (fs o.2) o.1 := all_run _ (by decide +kernel)
theorem meets_CompareAndSelectResults : ∀ o ∈ formsCmp, RunsAt (on t0) t0 (fs o.2) o.1 := all_run _ (by decide +kernel)
theorem meets_FloatInstructionResults : ∀ o ∈ formsFp ++ formsConv, RunsAt (on t0) t0 (fs o.2) o.1 := all_run _ (by decide +kernel)
theorem meets_float_values : F 0x3F800000 = .fin false 8388608 (-23) ∧ F 0x7FC00000 = .nan ∧ (F 0x3F800000).isNan = false
    ∧ (e4m3.val 0x38).isNan = false := by decide +kernel
theorem meets_FlowInstructionResults : ∀ o ∈ formsMove, RunsAt (on t0) t0 (fs o.2) o.1 := all_run _ (by decide +kernel)

/-- LOOP with a count of 0, with one entry free, with none; LEXIT with its condition and without. -/
theorem meets_loops :
    (RunsAt (on (tt 0 0 0)) (tt 0 0 0) (fs 6) { opc := 0x04, b := false } ∧ ((tt 0 0 0).a0 (fs 6)).w.toNat = 0)
    ∧ (let t : Thread := { t0 with loops := [⟨1, 2, 3⟩, ⟨1, 2, 3⟩] }
       RunsAt (on t) t (fs 6) { opc := 0x04, b := false } ∧ (t.a0 (fs 6)).pois = false ∧ (t.a0 (fs 6)).w.toNat = 3 ∧ t.loops.length < 3)
    ∧ (let t : Thread := { t0 with loops := [⟨1, 2, 3⟩, ⟨1, 2, 3⟩, ⟨1, 2, 3⟩] }
       RunsAt (on t) t (fs 6) { opc := 0x04, b := false } ∧ 3 ≤ t.loops.length ∧ (tget (on t).parts t.part).isSome = true
         ∧ ((on t).part 0).occupancy < 248 ∧ ∀ h ∈ ((on t).part 0).heldRecs, h.2.written = true)
    ∧ (RunsAt (on t0) t0 (fs 0x600) { opc := 0x05, a := false, b := false } ∧ t0.cond (fld (fs 0x600).lit 8 2) = true)
    ∧ (RunsAt (on t0) t0 (fs 0x400) { opc := 0x05, a := false, b := false } ∧ t0.cond (fld (fs 0x400).lit 8 2) = false) := by
  and_intros <;> first | exact runsAt (fs_quiet _) (by decide +kernel) | decide +kernel
theorem meets_wave_and_time :
    (RunsAt (on tbad) tbad (fs 0) { opc := 0x0A, b := false } ∧ (tbad.a0 (fs 0)).pois = true)
    ∧ (RunsAt (on t0) t0 (fs 0) { opc := 0x0A, b := false } ∧ (t0.a0 (fs 0)).pois = false ∧ t0.selLanes ≠ [])
    ∧ (RunsAt (on (tt 2 0 0)) (tt 2 0 0) (fs 0) { opc := 0x0B, b := false } ∧ fld ((tt 2 0 0).a0 (fs 0)).w 0 2 % 2 = 0 ∧ (tt 2 0 0).selLanes ≠ [])
    ∧ (RunsAt (on t0) t0 (fs 0) { opc := 0x0B, b := false } ∧ fld (t0.a0 (fs 0)).w 0 2 % 2 = 1) := by
  and_intros <;> first | exact runsAt (fs_quiet _) (by decide +kernel) | decide +kernel

/-- With breakpoint 31 set. -/
def onBk : State := { on t0 with parts := [(0, { Part.reset with bkpten := 0x80000000 })] }
theorem meets_TrapAndBreakpointEntry :
    (RunsAt (on t0) t0 (fs 0x2FF) { opc := 0x0C } ∧ t0.cond (fld (fs 0x2FF).lit 8 2) = true)
    ∧ (RunsAt (on t0) t0 (fs 0) { opc := 0x0C } ∧ t0.cond (fld (fs 0).lit 8 2) = false)
    ∧ (RunsAt onBk t0 (fs 31) { opc := 0x0D } ∧ t0.selLanes ≠ [] ∧ (onBk.part t0.part).bkpten.getLsbD (fld (fs 31).lit 0 5) = true)
    ∧ (RunsAt onBk t0 (fs 30) { opc := 0x0D } ∧ t0.selLanes ≠ [] ∧ (onBk.part t0.part).bkpten.getLsbD (fld (fs 30).lit 0 5) = false) := by
  and_intros <;> first | exact runsAt (fs_quiet _) (by decide +kernel) | decide +kernel

/-- A frame of class 0 with its mailbox slot present. -/
def frame0 : Frame := ⟨0, 1, false, [(1, [ok 4])], [1], [], 0, 0, 0⟩
def onFrame (t : Thread) (w : Frame) : State :=
  { on t with sites := [(t.src.site, { SiteSt.reset with part := some 0, valid := true, frames := [(0, w)] })] }

/-- The counters' waits at their limits, and beyond them with timeout 0 and with one. -/
theorem meets_waits :
    (let t : Thread := { t0 with nld := 255 }
     RunsAt (on t) t (fs 0xFF) { opc := 0x07, b := false } ∧ t.nld ≤ fld (fs 0xFF).lit 0 8 ∧ t.nst ≤ fld (fs 0xFF).lit 8 8)
    ∧ (let t : Thread := { tt 0 0 0 with nld := 1 }
       RunsAt (on t) t (fs 0) { opc := 0x07, b := false } ∧ ¬t.nld ≤ fld (fs 0).lit 0 8 ∧ (t.a0 (fs 0)).w = 0)
    ∧ (let t : Thread := { t0 with nld := 1 }
       RunsAt (on t) t (fs 0) { opc := 0x07, b := false } ∧ ¬t.nld ≤ fld (fs 0).lit 0 8 ∧ (t.a0 (fs 0)).pois = false ∧ (t.a0 (fs 0)).w ≠ 0)
    ∧ (RunsAt (on (tt 9 0 0)) (tt 9 0 0) (fs 63) { opc := 0x08 } ∧ isElem (tt 9 0 0).src.site = false
       ∧ (on (tt 9 0 0)).semReady (.tile 0) 63 = [] ∧ ((tt 9 0 0).b0 (fs 63)).w.toNat ≤ ((on (tt 9 0 0)).sem (.tile 0) 63).toNat)
    ∧ (RunsAt (on (tt 0 1 0)) (tt 0 1 0) (fs 0) { opc := 0x08 } ∧ ((on (tt 0 1 0)).sem (.tile 0) 0).toNat < ((tt 0 1 0).b0 (fs 0)).w.toNat
       ∧ ((tt 0 1 0).a0 (fs 0)).w = 0)
    ∧ (RunsAt (on t0) t0 (fs 0) { opc := 0x08 } ∧ (on t0).semReady (.tile 0) 0 = [] ∧ ((on t0).sem (.tile 0) 0).toNat < (t0.b0 (fs 0)).w.toNat
       ∧ (t0.a0 (fs 0)).pois = false ∧ (t0.a0 (fs 0)).w ≠ 0)
    ∧ (RunsAt (on t0e) t0e (fs 0) { opc := 0x08 } ∧ isElem t0e.src.site = true
       ∧ (((on t0e).raise (t0e.who 0x08) 0x010F ((t0e.who 0x08).details 0 [w32 (fld (fs 0).lit 0 6)])).thr? 1).map (fun k => k.ending) = some false) := by
  and_intros <;> first | exact runsAt (fs_quiet _) (by decide +kernel) | decide +kernel
theorem meets_gates :
    (RunsAt (on (tt 0 0 0)) (tt 0 0 0) (fs 0) { opc := 0x0E } ∧ bit (fs 0).lit 0 = false ∧ 0 ≤ (w32 (on (tt 0 0 0)).tod - ((tt 0 0 0).b0 (fs 0)).w).toInt)
    ∧ (RunsAt (on t0) t0 (fs 0) { opc := 0x0E } ∧ ¬0 ≤ (w32 (on t0).tod - (t0.b0 (fs 0)).w).toInt ∧ (t0.a0 (fs 0)).w ≠ 0)
    ∧ (RunsAt (onFrame t0 frame0) t0 (fs 1) { opc := 0x0E, b := false } ∧ bit (fs 1).lit 0 = true ∧ (onFrame t0 frame0).frameFor t0 0 = .ok frame0
       ∧ 1 ∈ frame0.present)
    ∧ (let w : Frame := { frame0 with present := [] }
       RunsAt (onFrame t0 w) t0 (fs 1) { opc := 0x0E, b := false } ∧ (onFrame t0 w).frameFor t0 0 = .ok w ∧ 1 ∉ w.present ∧ (t0.a0 (fs 1)).w ≠ 0)
    ∧ (RunsAt (on t0) t0 (fs 1) { opc := 0x0E, b := false } ∧ (on t0).frameFor t0 0 = .error 0x0103) := by
  and_intros <;> first | exact runsAt (fs_quiet _) (by decide +kernel) | decide +kernel

/-- A thread that waits. -/
def waits (k : WaitKind) (d : Option Nat) (st : TStat) (opc : Nat) : Thread := { t0 with wait := some ⟨k, d, fs 0, opc⟩, stat := st }
def onWait (t : Thread) : State := { on t with subj := { a := 1 }, cells := [(cell0, { Cell.reset with last := some 9 })] }
theorem waiting_at {s : State} {t : Thread} {w : Wait} {st : TStat} {u : Nat} (h : s.thr? u = some t) (hw : t.wait = some w) (hs : t.stat = st)
    (he : t.ending = false) (hp : t.plan = ⟨[], none⟩) : Waiting s u t w st := ⟨h, hw, hs, he, by rw [hp], by rw [hp]; simp⟩
theorem meets_WaitInstructionResults :
    Waiting (onWait (waits (.counters 0 0 0 0) (some 0) .wait 7)) 1 (waits (.counters 0 0 0 0) (some 0) .wait 7) ⟨.counters 0 0 0 0, some 0, fs 0, 7⟩ .wait
    ∧ (onWait (waits (.counters 0 0 0 0) (some 0) .wait 7)).idleSite (.tile 0) = false
    ∧ Waiting (onWait (waits (.sem 0 1) none .wait 8)) 1 (waits (.sem 0 1) none .wait 8) ⟨.sem 0 1, none, fs 0, 8⟩ .wait
    ∧ Waiting (onWait (waits (.rdzv 0 0) (some 9) .wait 0xC7)) 1 (waits (.rdzv 0 0) (some 9) .wait 0xC7) ⟨.rdzv 0 0, some 9, fs 0, 0xC7⟩ .wait
    ∧ (onWait (waits (.rdzv 0 0) (some 9) .wait 0xC7)).semFirst (.tile 0) 0 0 1 = true
    ∧ (onWait (waits (.rdzv 0 0) (some 9) .wait 0xC7)).work 0 < 9 :=
  ⟨waiting_at rfl rfl rfl rfl rfl, by decide +kernel, waiting_at rfl rfl rfl rfl rfl, waiting_at rfl rfl rfl rfl rfl, by decide +kernel, by decide +kernel⟩

theorem meets_FrameInstructionResults :
    (RunsAt (on (tt 0 1 0)) (tt 0 1 0) (fs 0) { opc := 0xF0 } ∧ ((tt 0 1 0).a0 (fs 0)).w = 0)
    ∧ (RunsAt (on (tt 65535 32 0)) (tt 65535 32 0) (fs 0) { opc := 0xF0 } ∧ ((tt 65535 32 0).a0 (fs 0)).w.toNat ≤ 65535
       ∧ (tt 65535 32 0).selLanes ≠ [] ∧ ((tt 65535 32 0).b0 (fs 0)).w.toNat = 2 ^ 5 ∧ ((on (tt 65535 32 0)).allocFrame (.tile 0) 5 65535 0 0 0).isSome = true)
    ∧ (RunsAt (onFrame (tt 0 0 0) frame0) (tt 0 0 0) (fs 0) { opc := 0xF1, b := false } ∧ (tt 0 0 0).selLanes ≠ []
       ∧ (tget ((onFrame (tt 0 0 0) frame0).site (.tile 0)).frames 0).map (fun w => w.part) = some 0)
    ∧ (RunsAt (on (tt 0 0 0)) (tt 0 0 0) (fs 0) { opc := 0xF1, b := false } ∧ tget ((on (tt 0 0 0)).site (.tile 0)).frames 0 = none)
    ∧ (RunsAt (onFrame t0 frame0) t0 (fs 0x41) { opc := 0xF2, b := false } ∧ bit (fs 0x41).lit 6 = true ∧ t0.selLanes ≠ []
       ∧ (onFrame t0 frame0).frameFor t0 0 = .ok frame0)
    ∧ (RunsAt (onFrame t0 frame0) t0 (fs 63) { opc := 0xF3 } ∧ bit (fs 63).lit 6 = false ∧ (onFrame t0 frame0).frameFor t0 0 = .ok frame0)
    ∧ (RunsAt (onFrame t0 frame0) t0 (fs 0x41) { opc := 0xF3 } ∧ bit (fs 0x41).lit 6 = true)
    ∧ (RunsAt (on tbad) tbad (fs 0x80) { opc := 0xF2, b := false } ∧ bit (fs 0x80).lit 7 = true ∧ (tbad.a0 (fs 0x80)).pois = true ∧ tbad.selLanes ≠ [])
    ∧ (RunsAt (on t0) t0 (fs 0) { opc := 0xF3 } ∧ (on t0).frameFor t0 0 = .error 0x0103) := by
  and_intros <;> first | exact runsAt (fs_quiet _) (by decide +kernel) | decide +kernel

theorem issues {s : State} {t : Thread} {f : Fields} {m : Form}
    (h : (s.curUid == some 1 && s.thr? 1 == some t && fieldsOk m.opc f && !t.ending && !t.blocked f m) = true) : Issues s 1 t f m := by
  simp only [Bool.and_eq_true, beq_iff_eq, Bool.not_eq_true'] at h
  obtain ⟨⟨⟨⟨h1, h2⟩, h3⟩, h4⟩, h5⟩ := h
  exact ⟨h1, h2, h3, h4, h5⟩

/-! ### The machine -/

theorem meets_MemoryReadsBack : Memory.wf [] = true ∧ Memory.wf [(0, 1), (2 ^ 57, 255)] = true := by decide +kernel

/-- An instruction placed for the next fetch: NOP, and a last slot that is past the end. -/
def placed : State := (on t0).placed 0x001FFFFF 0
theorem meets_StepRunsDecoded :
    ({ State.reset with turn := some (.ev .powerOnReset {}) } : State).nextAct.map (fun r => r.1) = some (.ev .powerOnReset {})
    ∧ placed.nextAct.map (fun r => r.1) = some (.issue cell0)
    ∧ (placed.nextAct.map (fun r => (r.2.cell cell0).run.isSome && (r.2.thr? 1).isSome && r.2.mayIssue t0 && !r.2.pastEnd t0)) = some true
    ∧ decode (leBytes 8 0x001FFFFF) = .ok (.nop ⟨.next, .zero, .zero, .none, .none, 0⟩, [])
    ∧ (on t0).pastEnd { t0 with ip := 10 } = true
    ∧ State.reset.turn = none ∧ State.reset.agenda ≠ [] :=
  ⟨by decide +kernel, by decide +kernel, by decide +kernel, rfl, by decide +kernel, rfl, by decide⟩
theorem meets_StepGoesOn :
    (Instr.powerOnReset.opcode? = none ∧ (Instr.add (fs 0)).opcode? = some 0x10 ∧ (Instr.add (fs 0)).fields? = some (fs 0)
      ∧ (on t0).curUid = some 1 ∧ (on t0).thr? 1 = some t0 ∧ fieldsOk 0x10 (fs 0) = true ∧ fieldsOk 0x99 (fs 0) = false
      ∧ fieldsOk 0xF5 (fs 0x7FFF) = false ∧ isSyrad (.syrad 0) = true ∧ matcherLit 0xF5 0x7FFF = true)
    ∧ ({ State.reset with agenda := [] } : State).nextAct = none
    ∧ decode (leBytes 8 0x58000000) = .error (.reservedOpcode 0x58) := ⟨by decide +kernel, rfl, rfl⟩

/-- Two lanes under a predicate block that selects the first alone. -/
def twoLanes : Thread := { t0 with lanes := [lane (ok 1) (ok 2) (ok 3), lane (ok 4) (ok 5) (ok 6)], pblk := some ⟨[true, false], 2, 1, 0⟩ }
theorem meets_ResultsCommitPerLane :
    twoLanes.selected 0 = true ∧ twoLanes.selected 1 = false ∧ twoLanes.lanes[0]? ≠ none ∧ twoLanes.lanes[1]? ≠ none
    ∧ (Eff.val [ok 1, ok 2]).regs = true ∧ (Eff.val [ok 1, ok 2]).load = false := by decide +kernel

/-- A thread whose predicate block selects no lane. -/
def noLane : Thread := { t0 with pblk := some ⟨[false], 2, 1, 0⟩ }
/-- The forms of the instructions that act for the gang, with their literals. -/
def noLaneForms : List (Form × Word) :=
  [({ opc := 0x0D }, 0),
   ({ opc := 0x0A, b := false }, 0),
   ({ opc := 0x0B, b := false }, 0),
   ({ opc := 0x80, b := false, cyc := 4 }, 0),
   ({ opc := 0x81, b := false, cyc := 4 }, 0),
   ({ opc := 0x82, cyc := 4 }, 0),
   ({ opc := 0x83, b := false, cyc := 4 }, 0),
   ({ opc := 0xA6, a := false, b := false }, 0),
   ({ opc := 0xA7, b := false }, 0x208),
   ({ opc := 0xA8 }, 0),
   ({ opc := 0xC0, b := false, ctr := some .cp }, 0),
   ({ opc := 0xC1, b := false, ctr := some .cp }, 0),
   ({ opc := 0xC2, b := false }, 0),
   ({ opc := 0xC3, b := false }, 0),
   ({ opc := 0xC4, b := false }, 0),
   ({ opc := 0xC5, a := false, b := false }, 0),
   ({ opc := 0xCA, a := false, b := false }, 0),
   ({ opc := 0xF0 }, 0),
   ({ opc := 0xF1, b := false }, 0),
   ({ opc := 0xF4, a := false, b := false }, 0),
   ({ opc := 0xF5, b := false }, 0),
   ({ opc := 0xF6, b := false }, 0),
   ({ opc := 0xF7, b := false }, 0),
   ({ opc := 0xF8, b := false }, 0),
   ({ opc := 0xF9, b := false }, 0),
   ({ opc := 0xFA, b := false }, 0),
   ({ opc := 0xFB }, 0),
   ({ opc := 0xFC, b := false }, 0),
   ({ opc := 0xA2, ctr := some .ld }, 0),
   ({ opc := 0xA3, ctr := some .st }, 0),
   ({ opc := 0xBA, a := false, b := false }, 0x101), ({ opc := 0xC6, b := false, ctr := some .cp }, 0x40)]
theorem meets_NoLaneSelected :
    noLane.selLanes = [] ∧ (noLane.b0 (fs 0)).pois = false ∧ ∀ e ∈ noLaneForms, RunsAt (on noLane) noLane (fs e.2) e.1 :=
  ⟨by decide +kernel, by decide +kernel, fun e he => runsAt (fs_quiet _)
    ((by decide +kernel : ∀ e ∈ noLaneForms, ((on noLane).curUid == some 1 && (on noLane).thr? 1 == some noLane
      && fieldsOk e.1.opc (fs e.2) && !noLane.ending && !noLane.blocked (fs e.2) e.1) = true) e he)⟩

/-- MOV to route 0, which names cell 63, slot 63 and port 3 of its own tile. -/
def toRoute (tag : TagAct) : Fields := ⟨tag, .a, .zero, .route 0, .none, 0⟩
def onRoute (t : Thread) (rt : Word) : State :=
  { on t with cells := [(t.src, { Cell.reset with run := some 1, last := some 9, routes := [(0, rt)], nroutes := 1 })] }
def ownRoute : Word := w32 (3 * 2 ^ 27 + 255 * 2 ^ 19 + 63 * 2 ^ 13 + 63 * 2 ^ 7)
theorem meets_TokensEmitted :
    Issues (onRoute t0 ownRoute) 1 t0 (toRoute .keep) { opc := 0x01, b := false } ∧ t0.pblk = none ∧ fld ownRoute 29 3 = 0
    ∧ 3 ≤ ((onRoute t0 ownRoute).cell ⟨.tile 0, 63⟩).qfree 3
    ∧ payload t0 (toRoute .next) { v := some t0.zs } 0 = some [ok 9] ∧ payload t0 (toRoute .ifp) { v := some t0.zs } 0 = none
    ∧ (∃ x ∈ t0.lanes, x.p = false) ∧ ¬∃ x ∈ t0.lanes, x.p = true :=
  ⟨issues (by decide +kernel), by decide +kernel⟩

/-- A register that a load is still to fill; a plan that finds no slot, since 56 of the 64 egress slots are taken. -/
def tPend : Thread := { t0 with pend := [(.a, 5)] }
def onFull : State :=
  let s := onRoute t0 (w32 (2 * 2 ^ 29 + 2 ^ 7))
  { s with sites := [(.tile 0, { SiteSt.reset with part := some 0, valid := true, egResv := 56 })] }
theorem meets_HoldsAndFullSlots :
    (on tPend).curUid = some 1 ∧ (on tPend).thr? 1 = some tPend ∧ Reg.a ∈ dstRegs ⟨.next, .a, .b, .reg .a, .none, 0⟩ ∧ (Reg.a, 5) ∈ tPend.pend
    ∧ fieldsOk 0x01 ⟨.next, .a, .b, .reg .a, .none, 0⟩ = true
    ∧ (onFull.reserveAll [(.egress (.tile 0) false, false)]).isNone = true
    ∧ ((on t0).reserve (.queue cell0 0) false).isSome = true := by decide +kernel

/-! ### Numbers: the cases inside the float clauses -/

theorem meets_float_clauses :
    (∃ s n e, F 0x3FC00000 = .fin s n e) ∧ F 0x7F800000 = .inf false
    ∧ rnd32 2 (.fin false 1 (-1)) = 0x3F000000 ∧ rnd32 3 (.fin false 1 (-1)) = 0x3F000000
    ∧ (e4m3.val 0x7E).isNan = false ∧ (e5m2.val 0x7B).isNan = false :=
  ⟨⟨_, _, _, rfl⟩, by decide +kernel⟩

theorem meets_ColumnFunctionSpecialValues :
    (F 0x7FC00000).isNan = true ∧ (∃ s m e, F 0x40000000 = .fin s m e ∧ m ≠ 0) := ⟨by decide +kernel, ⟨_, _, _, rfl, by decide +kernel⟩⟩

/-! ### Column units, colours, lane file, reductions -/

def formsCol : List (Form × Word) :=
  [({ opc := 0x70, b := false }, 0), ({ opc := 0x71, b := false }, 0), ({ opc := 0x72, b := false }, 0), ({ opc := 0x73, b := false }, 0),
   ({ opc := 0x74, b := false }, 0), ({ opc := 0x75, b := false }, 0), ({ opc := 0x76, b := false }, 0), ({ opc := 0x77, b := false }, 0),
   ({ opc := 0x78, b := false }, 0), ({ opc := 0x79, b := false }, 0)]
/-- A tile with a request in its queue, and one whose four slots are full. -/
def onCol (n : Nat) : State :=
  { on t0 with sites := [(.tile 0, { SiteSt.reset with part := some 0, valid := true, colq := List.replicate n ⟨1, false, 0⟩ })] }
theorem meets_ColumnInstructionResults :
    (∀ o ∈ formsCol, RunsAt (on t0) t0 (fs o.2) o.1) ∧ (∀ o ∈ formsCol, RunsAt (on t0e) t0e (fs o.2) o.1)
    ∧ isTile t0e.src.site = false ∧ t0.src.site = .tile 0
    ∧ ((onCol 3).site (.tile 0)).colq.countP (fun q => !q.accepted) < 4 ∧ 4 ≤ ((onCol 4).site (.tile 0)).colq.countP (fun q => !q.accepted)
    ∧ RunsAt (onCol 4) t0 (fs 0) { opc := 0x70, b := false }
    ∧ ((onCol 1).nextColumn (onCol 1).subj.a) = some (0, ⟨1, false, 0⟩) :=
  ⟨all_run _ (by decide +kernel), all_run _ (by decide +kernel), by decide +kernel, by decide +kernel, by decide +kernel, by decide +kernel,
   runsAt (fs_quiet _) (by decide +kernel), by decide +kernel⟩
/-- A die whose column unit has stopped for partition 0's halt. -/
theorem meets_ColumnUnitStopped : t0.ending = false ∧
    ({ on t0 with parts := [(0, { Part.reset with tiles := [0], halted := true, stopping := [] })] } : State).unitStopped 0 0 = true := by decide +kernel
def tCol : Thread := { t0 with wait := some ⟨.unit, none, fs 0, 0x70⟩, stat := .column }
def onReply : State :=
  { on tCol with subj := { a := 1 }, sites := [(.tile 0, { SiteSt.reset with part := some 0, colq := [⟨1, true, 0⟩] })] }
theorem meets_ColumnReply : Waiting onReply onReply.subj.a tCol ⟨.unit, none, fs 0, 0x70⟩ .column
    ∧ ∃ q ∈ (onReply.site tCol.src.site).colq, q.uid = onReply.subj.a ∧ q.accepted = true :=
  ⟨waiting_at (by decide +kernel) rfl rfl rfl rfl, by decide +kernel⟩

/-- Tile 0 with colour grants. -/
def onGrants (t : Thread) (gs : Tbl Nat Grant) : State :=
  { on t with sites := [(t.src.site, { SiteSt.reset with part := some 0, valid := true, grants := gs })] }
theorem meets_ColourInstructionResults :
    (RunsAt (on tbad) tbad (fs 0) { opc := 0x80, b := false, cyc := 4 } ∧ (tbad.a0 (fs 0)).pois = true)
    ∧ (RunsAt (on t0e) t0e (fs 0) { opc := 0x80, b := false, cyc := 4 } ∧ (t0e.a0 (fs 0)).pois = false ∧ t0e.selLanes ≠ [] ∧ isElem t0e.src.site = true)
    ∧ (RunsAt (on (tt 32 0 0)) (tt 32 0 0) (fs 0) { opc := 0x80, b := false, cyc := 4 }
       ∧ (ctxaGo ((on (tt 32 0 0)).site (.tile 0)).grants (tt 32 0 0).strip 0 (Nat.log2 32)).isSome = true)
    ∧ (RunsAt (on t0) t0 (fs 0) { opc := 0x81, b := false, cyc := 4 } ∧ tget ((on t0).site (.tile 0)).grants 3 = none)
    ∧ (RunsAt (onGrants t0 [(3, ⟨2, 1⟩)]) t0 (fs 0) { opc := 0x81, b := false, cyc := 4 }
       ∧ tget ((onGrants t0 [(3, ⟨2, 1⟩)]).site (.tile 0)).grants 3 = some ⟨2, 1⟩)
    ∧ (RunsAt (onGrants t0 [(3, ⟨2, 2⟩)]) t0 (fs 0) { opc := 0x81, b := false, cyc := 4 }
       ∧ tget ((onGrants t0 [(3, ⟨2, 2⟩)]).site (.tile 0)).grants 3 = some ⟨2, 2⟩)
    ∧ (RunsAt (on (tt 0 1 0)) (tt 0 1 0) (fs 0) { opc := 0x82, cyc := 4 } ∧ blockTaken ((on (tt 0 1 0)).site (.tile 0)).grants 0 0 2 = false)
    ∧ (RunsAt (on t0) t0 (fs 0) { opc := 0x82, cyc := 4 } ∧ (t0.a0 (fs 0)).pois = false)
    ∧ (RunsAt (onGrants (tt 4 0 0) [(4, ⟨4, 7⟩)]) (tt 4 0 0) (fs 0) { opc := 0x83, b := false, cyc := 4 }
       ∧ tget ((onGrants (tt 4 0 0) [(4, ⟨4, 7⟩)]).site (.tile 0)).grants 4 = some ⟨4, 7⟩)
    ∧ (RunsAt (on tbad) tbad (fs 0) { opc := 0x83, b := false, cyc := 4 } ∧ RunsAt (on tbad) tbad (fs 0) { opc := 0x82, cyc := 4 }) := by
  and_intros <;> first | exact runsAt (fs_quiet _) (by decide +kernel) | decide +kernel

theorem meets_PermuteAndLaneFileResults :
    (∀ o ∈ [(({ opc := 0x89, b := false, lf := true } : Form), (0 : Word)), ({ opc := 0x8A, lf := true }, 0), ({ opc := 0x8B, lf := true }, 0),
        ({ opc := 0x8C, lf := true }, 0)],
      RunsAt (on t0) t0 (fs o.2) o.1 ∧ RunsAt (on (tt 1024 0 0)) (tt 1024 0 0) (fs o.2) o.1)
    ∧ tget (on t0).parts t0.part ≠ none := by
  refine ⟨fun o ho => ⟨?_, ?_⟩, by decide +kernel⟩
  · exact all_run (t := t0) _ (by decide +kernel) o ho
  · exact all_run (t := tt 1024 0 0) _ (by decide +kernel) o ho

def formsRed : List (Form × Word) :=
  [({ opc := 0x90, b := false }, 0), ({ opc := 0x91, b := false }, 0), ({ opc := 0x92, b := false }, 0), ({ opc := 0x93, b := false }, 0),
   ({ opc := 0x94, b := false }, 0), ({ opc := 0x95, b := false }, 0), ({ opc := 0x96, b := false }, 0), ({ opc := 0x97, b := false }, 0),
   ({ opc := 0x98, b := false }, 0)]
def tMark : Thread := { t0 with eod := 3 }
/-- An element of the cell in use by another opcode. -/
def onRed : State := { on t0 with cells := [(cell0, { Cell.reset with run := some 1, last := some 9, red := ⟨[some (ok 1), none, none, none], 1, some 0x93⟩ })] }
theorem meets_ReductionInstructionResults :
    (∀ o ∈ formsRed, RunsAt (on t0) t0 (fs o.2) o.1) ∧ (∀ o ∈ formsRed, RunsAt (on tMark) tMark (fs o.2) o.1)
    ∧ ((on t0).red (t0.laneAgent 0)).op = none ∧ t0.eod.toNat = 0 ∧ 0 < tMark.eod.toNat ∧ Red.reset.parts.length = 4
    ∧ RunsAt onRed t0 (fs 0) { opc := 0x90, b := false } ∧ (onRed.red (t0.laneAgent 0)).op = some 0x93 ∧ (onRed.red (t0.laneAgent 0)).k ≠ 0
    ∧ RunsAt (on t0) t0 (fs 1) { opc := 0x99, a := false, b := false } ∧ RunsAt onRed t0 (fs 3) { opc := 0x99, a := false, b := false } :=
  ⟨all_run _ (by decide +kernel), all_run _ (by decide +kernel), by decide +kernel, by decide +kernel, by decide +kernel, by decide +kernel,
   runsAt (fs_quiet _) (by decide +kernel), by decide +kernel, by decide +kernel, runsAt (fs_quiet _) (by decide +kernel),
   runsAt (fs_quiet _) (by decide +kernel)⟩
theorem meets_ResidueInstructionResults : ∀ o ∈ formsConv, o.1.opc < 0x64 ∨ RunsAt (on t0) t0 (fs o.2) o.1 :=
  fun o h => .inr (meets_FloatInstructionResults o (List.mem_append.2 (.inr h)))

/-! ### Memory -/

/-- A line whose one replica lies on memory die 2. -/
def line2 : Line := ⟨[2], false, false, (0, 0)⟩
/-- Partition 0 with the first terabyte mapped by range 0 to memory die 0, whose slice 0 homes all of it. -/
def mapped (s : State) : State :=
  { s with parts := s.parts.map (fun e => (e.1, { e.2 with ranges := [(0, ⟨0, 2 ^ 40, 0, true, 0⟩)] }))
           coh := { s.coh with doms := [(0, ⟨0, 2 ^ 49, 1, []⟩)], lines := [(0, line2)] } }
def ln (st : LaneSt) : LaneAcc := { LaneAcc.new 0 64 4 [1, 2, 3, 4] [true, true, true, true] 0 with st := st, pa := 64 }
def ac (op : AccOp) (st : LaneSt) : Access := { t0.access op 0xA0 0 (some 0) 0 0 [.a] with uid := 1, lanes := [ln st] }
/-- Access 5 of thread 1 stands at lane 0. -/
def onAcc (x : Access) : State := { mapped (on t0) with accs := [(5, x)], subj := { a := 5, b := 0 }, fresh := 9 }

theorem meets_IssuedAccess :
    let s := mapped (on t0)
    let x := ac (.ld false) .walk
    let s1 := ((s.bump).modThr 1 (fun t =>
      let t := match x.op.counter with | none => t | some c => t.addCtr c
      { t with seq := t.seq + 1, pend := t.pend ++ x.targets.map (fun r => (r, s.fresh)) })).setAcc s.fresh { x with uid := 1 }
    s.thr? 1 = some t0 ∧ x.lanes = [ln .walk] ∧ (ln .walk).st = .walk ∧ x.fails = [] ∧ x.op.isLdmc = false
    ∧ s1.xlate x.who.part x.who.ag.site (ln .walk).ea x.op.writes (64 * s.fresh + (ln .walk).lane) = .ok 64 0
    ∧ s1.place 64 = .slice 0
    ∧ (ac .st .walk).plainStore = true ∧ (ac .st .walk).scope = 0 ∧ t0.stat ≠ .wait :=
  ⟨by decide +kernel, rfl, rfl, rfl, rfl, rfl, rfl, by decide, by decide, by decide⟩

def formsMem : List (Form × Word) :=
  [({ opc := 0xA0, b := false, ctr := some .ld }, 0), ({ opc := 0xA1, ctr := some .st }, 0), ({ opc := 0xA9, ctr := some .st }, 0x80),
   ({ opc := 0xA4, b := false }, 0x80)]
def formsAtom : List (Form × Word) :=
  [({ opc := 0xB0, ctr := some .st }, 0x80), ({ opc := 0xB1, ctr := some .st }, 0x80), ({ opc := 0xB2, ctr := some .st }, 0x80),
   ({ opc := 0xB3, ctr := some .st }, 0x80), ({ opc := 0xB4, ctr := some .st }, 0x80), ({ opc := 0xB5, ctr := some .st }, 0x80),
   ({ opc := 0xB6, ctr := some .st }, 0x80), ({ opc := 0xB7, ctr := some .st }, 0x80), ({ opc := 0xB8, ctr := some .st }, 0x80),
   ({ opc := 0xB9, ctr := some .st }, 0xA0)]
/-- An earlier access of sequential order. -/
def scFirst : Access := { ac (.ld false) .todo with ord := 4 }
theorem meets_MemoryInstructionResults :
    (∀ o ∈ formsMem, RunsAt (mapped (on t0)) t0 (fs o.2) o.1) ∧ (∀ o ∈ formsAtom, RunsAt (mapped (on t0)) t0 (fs o.2) o.1)
    ∧ (mapped (on t0)).scHeld 1 0 = false ∧ (onAcc scFirst).scHeld 1 4 = true
    ∧ (((mapped (on t0)).issueAcc 1 (ac (.ld false) .walk)).thr? 1).map (fun k => k.ending) = some false := by
  refine ⟨fun o ho => ?_, fun o ho => ?_, by decide +kernel⟩
  · have h : formsMem.all (fun o => (mapped (on t0)).curUid == some 1 && (mapped (on t0)).thr? 1 == some t0 && fieldsOk o.1.opc (fs o.2)
      && !t0.ending && !t0.blocked (fs o.2) o.1) = true := by decide +kernel
    exact runsAt (fs_quiet _) (List.all_eq_true.1 h o ho)
  · have h : formsAtom.all (fun o => (mapped (on t0)).curUid == some 1 && (mapped (on t0)).thr? 1 == some t0 && fieldsOk o.1.opc (fs o.2)
      && !t0.ending && !t0.blocked (fs o.2) o.1) = true := by decide +kernel
    exact runsAt (fs_quiet _) (List.all_eq_true.1 h o ho)

def fence0 (owner : Option Nat) : FenceEnt := { FenceEnt.reset with owner := owner, gen := 1, accs := [5] }
def onFence (t : Thread) (es : Tbl Nat FenceEnt) (as : Tbl Nat Access) : State :=
  { on t with cells := [(cell0, { Cell.reset with run := some 1, last := some 9, fences := es })], accs := as }
/-- The word of entry 0, generation 1, of cell 0. -/
def tFence (z : Word) : Thread := tt 0x10 z 0
theorem meets_BarrierAndFenceResults :
    t0.selLanes ≠ [] ∧ RunsAt (on t0) t0 (fs 0xFF) { opc := 0xA6, a := false, b := false }
    ∧ RunsAt (onFence t0 [] []) t0 (fs 0x101) { opc := 0xBA, a := false, b := false }
    ∧ RunsAt (onFence t0 ((List.range 16).map (fun n => (n, fence0 (some 3)))) []) t0 (fs 0x101) { opc := 0xBA, a := false, b := false }
    ∧ (∀ n, n < 16 → ∃ e, tget ((List.range 16).map (fun n => (n, fence0 (some 3)))) n = some e ∧ e.owner ≠ none)
    ∧ RunsAt (on tbad) tbad (fs 0) { opc := 0xBB } ∧ RunsAt (on t0) t0 (fs 0) { opc := 0xBB } ∧ tget (Cell.reset).fences 3 = none
    ∧ RunsAt (onFence (tFence 0) [(0, fence0 (some 1))] []) (tFence 0) (fs 0) { opc := 0xBB }
    ∧ ((tFence 0).a0 (fs 0)).w ≠ 0 ∧ ((tFence 0).a0 (fs 0)).w = w32 (0 * 2 ^ 16 + (fence0 (some 1)).gen.toNat * 2 ^ 4 + 0)
    ∧ (onFence (tFence 0) [(0, fence0 (some 1))] []).fenceDone (.tile 0) (fence0 (some 1)) = true
    ∧ (onFence (tFence 0) [(0, fence0 (some 1))] [(5, ac (.ld false) .todo)]).fenceDone (.tile 0) (fence0 (some 1)) = false
    ∧ RunsAt (onFence (tFence 7) [(0, fence0 (some 1))] [(5, ac (.ld false) .todo)]) (tFence 7) (fs 0) { opc := 0xBB } :=
  ⟨by decide, runsAt (fs_quiet _) (by decide +kernel), runsAt (fs_quiet _) (by decide +kernel), runsAt (fs_quiet _) (by decide +kernel),
   fun n h => ⟨fence0 (some 3), by revert h; revert n; decide +kernel, by decide⟩, runsAt (fs_quiet _) (by decide +kernel),
   runsAt (fs_quiet _) (by decide +kernel), by decide +kernel, runsAt (fs_quiet _) (by decide +kernel), by decide +kernel, by decide +kernel,
   by decide +kernel, by decide +kernel, runsAt (fs_quiet _) (by decide +kernel)⟩

/-- A load of `.die` scope from fabric die 7, whose nearest memory die 3 holds a replica of line 0. -/
def farLoad : Access :=
  let x := ac (.ld false) .todo
  { x with scope := 2, who := { x.who with ag := ⟨.tile 511, 0⟩ } }
def rep0 : Replica := ⟨0, List.replicate 128 7, []⟩
def onReplica : State :=
  let s := onAcc farLoad
  let r := rep0
  { s with coh := { s.coh with replicas := [((3, 0), r)], regs := [((0, 0), RegEnt.reset)] } }
theorem meets_AccessesPerform :
    (∀ op ∈ [AccOp.ld true, .st, .stm, .atomic .add],
      (onAcc (ac op .todo)).acc? 5 = some (ac op .todo) ∧ (ac op .todo).lane? 0 = some (ln .todo)
      ∧ (onAcc (ac op .todo)).mayPerform (ac op .todo) (ln .todo) = true ∧ (onAcc (ac op .todo)).place 64 = .slice 0)
    ∧ (AccOp.ld true).counter = some .ld ∧ (onAcc (ac (.ld true) .todo)).l1Hit (ac (.ld true) .todo) 64 = none
    ∧ tget (onAcc (ac .st .todo)).coh.lines (lineOf 64) = some line2 ∧ (onAcc (ac .st .todo)).badAt 64 4 = false
    ∧ (ac (.ld true) .todo).replicable = false
    ∧ onReplica.acc? 5 = some farLoad ∧ onReplica.mayPerform farLoad (ln .todo) = true ∧ onReplica.place 64 = .slice 0
    ∧ farLoad.replicable = true ∧ nearest (dieOf farLoad.who.ag.site) ≠ memDie 64
    ∧ tget onReplica.coh.replicas (nearest (dieOf farLoad.who.ag.site), lineOf 64) = some rep0 ∧ rep0.bad = []
    ∧ (tget onReplica.coh.regs (memDie 64, regionOf 64)).isSome = true := by decide +kernel

def onColl (b : Nat) : State :=
  let s := onReplica
  { s with subj := { a := 3, b := b, c := 6 }, cycle := 65536, coh := { s.coh with colls := [⟨6, 3, 0, [], 0, false, 1⟩] } }
def fill0 (discard : Bool) : Fill := ⟨3, 0, List.replicate 128 7, discard, 5, []⟩
theorem meets_ReplicaEvents :
    (∀ k ∈ [fill0 false, fill0 true], tget ({ onReplica with coh := { onReplica.coh with fills := [(3, k)] } } : State).coh.fills 3 = some k)
    ∧ tget onReplica.coh.replicas (3, 0) = some rep0
    ∧ (∃ c ∈ (onColl 0).coh.colls, c.id = (onColl 0).subj.c) ∧ (onColl 0).linkAsleep (12 + memDie (0 * 128)) (12 + 3) = false
    ∧ tget (onColl 0).coh.lines 0 = some line2 ∧ (onColl 65537).cycle < (onColl 65537).subj.b
    ∧ (onColl 65536).subj.b ≤ (onColl 65536).cycle := by decide +kernel

/-- Nothing maps the address, so the access must walk; the walk finds the leaf of a page table, or none. -/
def onWalk (root : DWord) (m : List Host.Cell) : State :=
  let s := onAcc (ac (.ld false) .walk)
  { s with mem := m, parts := s.parts.map (fun e => (e.1, { e.2 with ranges := [], root := root, mem := [(0, 0, 2 ^ 49)] })) }
/-- Tables at 0, 0x1000 and 0x2000, whose first entries lead to a leaf of 1 GiB at 0. -/
def tables : List Host.Cell := [(0, 1), (1, 0x10), (0x1000, 1), (0x1001, 0x20), (0x2000, 0x0B)]
def tret (x : Access) : State := { mapped (on { t0 with nld := 1, pend := [(.a, 5)] }) with accs := [(5, x)], subj := { a := 5 } }
theorem meets_WalksAndReturns :
    ((onWalk 0 []).acc? 5 = some (ac (.ld false) .walk) ∧ (ac (.ld false) .walk).lane? 0 = some (ln .walk)
      ∧ (onWalk 0 []).walkHeld 0 (.tile 0) 64 = false)
    ∧ (onWalk 0 []).xlate 0 (.tile 0) 64 false (64 * (onWalk 0 []).subj.a + 0) = .walk
    ∧ ((onWalk 0 []).walk 0 (.tile 0) 64 = none
    ∧ ((onWalk 0 tables).walk 0 (.tile 0) 64).map (fun e => e.use 64 false) = some (.ok 64 0) ∧ (onWalk 0 tables).place 64 = .slice 0
    ∧ (onWalk 0 []).pageRecorded 0 (pageOf 64) (dieOf (.tile 0)) 1 = false
    ∧ (tret (ac (.ld false) .done)).acc? 5 = some (ac (.ld false) .done) ∧ (ac (.ld false) .done).uid ≠ 0
    ∧ (ac (.ld false) .done).isResolve = false ∧ (tret (ac (.ld false) .done)).returns 5 (ac (.ld false) .done) = true) :=
  ⟨by decide +kernel, rfl, by decide +kernel⟩

/-! ### Multicast loads, chains, semaphores, queues -/

/-- B names tile 0, z one line to semaphore 63; A is aligned. -/
def tMc : Thread := thr cell0 (ok 32) (ok 1) (ok (w32 (63 * 2 ^ 16)))
def svc (read : Bool) : McSvc :=
  { slice := 0, die := 0, scope := 2, acc := 5, arrived := true, order := 0, lines := [0], want := [[(5, 0)]], next := 0, read := read,
    windows := [0], buf := [(0, List.replicate 128 7)], late := [], replies := [⟨0, 0, List.replicate 128 7, [5]⟩] }
def mcAcc : Access := { ac (.ldmc 1 0 false 1 63 1) .todo with lanes := [{ ln .todo with ea := 0, pa := 0, size := 128 }] }
def onMc (v : McSvc) (as : Tbl Nat Access) : State :=
  let s := onAcc mcAcc
  { s with accs := as, coh := { s.coh with mc := [(4, v)] }, subj := { a := 4, b := 0, c := 1 } }
theorem meets_MulticastLoads :
    RunsAt (mapped (on tMc)) tMc (fs 0x80) { opc := 0xA5, ctr := some .ld } ∧ RunsAt (mapped (on (tt 32 0 0))) (tt 32 0 0) (fs 0x80) { opc := 0xA5, ctr := some .ld }
    ∧ tMc.selLanes ≠ [] ∧ (mapped (on tMc)).owns 0 (.tile 0) = true ∧ ((tMc.a0 (fs 0x80)).w.toInt * 4) % 128 = 0
    ∧ tget (onMc (svc false) [(5, mcAcc)]).coh.mc 4 = some (svc false) ∧ (svc false).next < (svc false).lines.length
    ∧ (12 + (svc false).slice / 16) ∉ (onMc (svc false) [(5, mcAcc)]).coh.lost ∧ (onMc (svc false) [(5, mcAcc)]).mcTurn 4 (svc false) = true ∧ (onMc (svc false) [(5, mcAcc)]).acc? 5 = some mcAcc
    ∧ (tget (onMc (svc false) [(5, mcAcc)]).coh.lines 0).isSome = true ∧ (onMc (svc false) [(5, mcAcc)]).badAt 0 128 = false
    ∧ tget (onMc (svc true) []).coh.mc 4 = some (svc true)
    ∧ (svc true).replies.find? (fun r => r.tile = 0) = some ⟨0, 0, List.replicate 128 7, [5]⟩ ∧ (onMc (svc true) []).acc? 5 = none
    ∧ (onMc (svc true) []).away (.tile 0) 0 = false :=
  ⟨runsAt (fs_quiet _) (by decide +kernel), runsAt (fs_quiet _) (by decide +kernel), by decide +kernel⟩
/-- An arrival that no earlier request serves. -/
def onMcNew : State := { onMc { svc false with arrived := false, acc := 6 } [(5, mcAcc)] with subj := { a := 5, b := 4, c := 1 } }
theorem meets_MulticastArrival : onMcNew.acc? 5 = some mcAcc ∧ mcAcc.retired = false ∧ (tget onMcNew.coh.mc 4).isSome = true
    ∧ (∀ e ∈ onMcNew.coh.mc, e.1 = 4) ∧ onMcNew.coh.switch = none ∧ onMcNew.acc? 6 = none := by decide +kernel

def chain0 (share : Nat) (held : List Nat) : Chain :=
  { Chain.reset with isOpen := true, scope := 2, share := share, w := 6, l := 254, held := held }
def cref (own pred succ : Nat) : ChainRef := ⟨256, own, pred, succ, false, false, false⟩
/-- Access 5 of wave 7 in chain 0, whose last wave was 6. -/
def chAcc (r : ChainRef) : Access := { ac .st .todo with chain := some r }
def onChain (c : Chain) (r : ChainRef) : State :=
  let s := onAcc (chAcc r)
  { s with parts := s.parts.map (fun e => (e.1, { e.2 with chains := [(0, c)] })) }
theorem meets_ChainsAtTheHome :
    ((onChain (chain0 8 []) (cref 0 254 1)).acc? 5 = some (chAcc (cref 0 254 1))
      ∧ (onChain (chain0 8 []) (cref 0 254 1)).chainEarlier (chAcc (cref 0 254 1)) (cref 0 254 1) = false
      ∧ (onChain (chain0 8 []) (cref 0 254 1)).chainOf 0 256 = some (0, chain0 8 [])
      ∧ (chAcc (cref 0 254 1)).who.wave = (chain0 8 []).w + 1)
    ∧ ((onChain (chain0 8 []) (cref 3 2 4)).chainOf 0 256 = some (0, chain0 8 []) ∧ (chain0 8 []).held.length < (chain0 8 []).share)
    ∧ ((onChain (chain0 1 [9]) (cref 3 2 4)).chainOf 0 256 = some (0, chain0 1 [9]) ∧ (chain0 1 [9]).share ≤ (chain0 1 [9]).held.length)
    ∧ (let c : Chain := { chain0 8 [] with w := 7, s := some 3 }
       (onChain c (cref 3 2 4)).chainOf 0 256 = some (0, c) ∧ c.w = (chAcc (cref 3 2 4)).who.wave ∧ c.s = some 3) := by decide +kernel
def onClose (c : Chain) : State :=
  { onChain c (cref 0 254 1) with closes := [(5, ⟨0, 256, 7, 0, .tile 0, 63, true, t0.who 0xA8⟩)], subj := { a := 5 } }
theorem meets_ChainCloses :
    (tget (onClose (chain0 8 [])).closes 5).isSome = true ∧ (onClose (chain0 8 [])).chainOf 0 256 = some (0, chain0 8 [])
    ∧ (let c : Chain := { chain0 8 [] with w := 7, s := some 0, closing := some (7, 0, .tile 0, 63, true) }
       tget ({ onClose c with subj := { a := 0, b := 0 } }.part 0).chains 0 = some c ∧ c.saved = false ∧ c.held = [] ∧ c.released = []) := by decide +kernel

/-- A save area that lies in mapped memory of the partition. -/
def owned (s : State) : State := { s with parts := s.parts.map (fun e => (e.1, { e.2 with mem := [(0, 0, 2 ^ 49)], doms := 1 })) }
theorem meets_ChainInstructionResults :
    t0.selLanes ≠ [] ∧ RunsAt (mapped (on t0)) t0 (fs 0) { opc := 0xA2, ctr := some .ld } ∧ RunsAt (mapped (on t0)) t0 (fs 0) { opc := 0xA3, ctr := some .st }
    ∧ (let t : Thread := thr cell0 (ok 1) .bad (ok 2)
       RunsAt (mapped (on t)) t (fs 0) { opc := 0xA3, ctr := some .st } ∧ (t.b0 (fs 0)).pois = true)
    ∧ (RunsAt (owned (mapped (on (tt 1 0 0)))) (tt 1 0 0) (fs 0x208) { opc := 0xA7, b := false }
       ∧ (owned (mapped (on (tt 1 0 0)))).saveHeld (tt 1 0 0) (fs 0x208) = false ∧ (owned (mapped (on (tt 1 0 0)))).saveCheck (tt 1 0 0) 4096 = .ok
       ∧ (owned (mapped (on (tt 1 0 0)))).chainHome 0 256 = some 0 ∧ (owned (mapped (on (tt 1 0 0)))).sharesOn 0 + 8 ≤ 512)
    ∧ (RunsAt (on tbad) tbad (fs 0x208) { opc := 0xA7, b := false } ∧ (tbad.a0 (fs 0x208)).pois = true)
    ∧ (let s : State := { onChain (chain0 8 []) (cref 0 254 1) with threads := [(1, tt 256 0 0)] }
       RunsAt s (tt 256 0 0) (fs 0) { opc := 0xA8 } ∧ s.chainOf 0 256 = some (0, chain0 8 []) ∧ s.closing 0 256 (chain0 8 []) = false)
    ∧ (RunsAt (on t0) t0 (fs 0) { opc := 0xA8 } ∧ (on t0).chainOf 0 3 = none) := by
  and_intros <;> first | exact runsAt (fs_quiet _) (by decide +kernel) | decide +kernel
/-- The shares of the home are spent. -/
theorem meets_ChainSharesSpent :
    let s := owned (mapped (on (tt 1 0 0)))
    let s : State := { s with parts := s.parts.map (fun e => (e.1, { e.2 with chains := [(1, chain0 512 [])] })) }
    RunsAt s (tt 1 0 0) (fs 0x208) { opc := 0xA7, b := false } ∧ s.chainHome 0 256 = some 0 ∧ 512 < s.sharesOn 0 + 8 := by
  refine ⟨runsAt (fs_quiet _) ?_, ?_⟩ <;> decide +kernel

theorem meets_SemaphoreResults :
    (t0.selLanes ≠ [] ∧ tbad.selLanes ≠ [] ∧ t0e.selLanes ≠ [])
    ∧ (RunsAt (on t0) t0 (fs 0x3F) { opc := 0xC3, b := false } ∧ bit (fs 0x3F).lit 6 = false)
    ∧ (RunsAt (on (tt 1 1 0)) (tt 1 1 0) (fs 0x240) { opc := 0xC3 } ∧ (on (tt 1 1 0)).owns 0 (.tile 1) = true ∧ fld (fs 0x240).lit 7 3 = 4)
    ∧ (RunsAt (on t0) t0 (fs 0x40) { opc := 0xC3 } ∧ (on t0).owns 0 (.tile 5) = false)
    ∧ (RunsAt (on t0) t0 (fs 63) { opc := 0xC4, b := false } ∧ RunsAt (on tbad) tbad (fs 63) { opc := 0xC4, b := false })
    ∧ RunsAt (on t0) t0 (fs 63) { opc := 0xC5, a := false, b := false } ∧ (on t0).semReady (.tile 0) 63 = []
    ∧ (RunsAt (on t0e) t0e (fs 0) { opc := 0xC3, b := false } ∧ RunsAt (on t0e) t0e (fs 0) { opc := 0xC4, b := false }
       ∧ RunsAt (on t0e) t0e (fs 0) { opc := 0xC5, a := false, b := false } ∧ RunsAt (on t0e) t0e (fs 0) { opc := 0xC7 })
    ∧ (RunsAt (on (tt 3 0 0)) (tt 3 0 0) (fs 0) { opc := 0xC7 } ∧ (on (tt 3 0 0)).semReady (.tile 0) 0 = []
       ∧ ((tt 3 0 0).b0 (fs 0)).w.toNat ≤ ((on (tt 3 0 0)).sem (.tile 0) 0).toNat)
    ∧ (RunsAt (on (tt 0 1 0)) (tt 0 1 0) (fs 0) { opc := 0xC7 } ∧ ((on (tt 0 1 0)).sem (.tile 0) 0).toNat < ((tt 0 1 0).b0 (fs 0)).w.toNat)
    ∧ (RunsAt (on t0) t0 (fs 0) { opc := 0xC7 } ∧ ((on t0).sem (.tile 0) 0).toNat < (t0.b0 (fs 0)).w.toNat ∧ (t0.a0 (fs 0)).w ≠ 0)
    ∧ (let t : Thread := thr cell0 (ok 1) .bad (ok 2)
       RunsAt (on t) t (fs 0) { opc := 0xC7 } ∧ (t.b0 (fs 0)).pois = true) := by
  and_intros <;> first | exact runsAt (fs_quiet _) (by decide +kernel) | decide +kernel

/-- A live queue of 16 entries with its ring at 0x1000, whose descriptor stands at 0. -/
def queueMem (head tail : Nat) : List Host.Cell :=
  wrN [] 0 (leBytes 8 0x1000 ++ leBytes 4 0x104 ++ leBytes 4 0 ++ leBytes 4 head ++ leBytes 4 tail)
def onQ (t : Thread) (m : List Host.Cell) : State := { owned (mapped (on t)) with mem := m }
theorem meets_QueueResults :
    ((onQ t0 []).hwXlate 0 (.tile 0) 0 true = some 0 ∧ isAperture 0 = false ∧ isAperture 0x1000 = false
    ∧ (∀ n ∈ [0, 1, 3], ∀ k ∈ [0, 16], (onQ t0 (queueMem 0 k)).pkgQueueHeld 0 (.tile 0) 0 n = false)
    ∧ (qdescAt (queueMem 0 0) 0).ok = true ∧ (qdescAt (queueMem 0 0) 0).state = 1 ∧ 3 ≤ (qdescAt (queueMem 0 0) 0).free
    ∧ (onQ t0 []).hwXlate 0 (.tile 0) 0x1000 true = some 0x1000 ∧ (onQ t0 []).allDone 1 3 = true
    ∧ (qdescAt (queueMem 0 16) 0).free < 3 ∧ 1 ≤ (qdescAt (queueMem 0 16) 0).used ∧ (qdescAt (queueMem 0 0) 0).used < 1
    ∧ (qdescAt [] 0).state ≠ 1)
    ∧ RunsAt (onQ t0 (queueMem 0 0)) t0 (fs 0) { opc := 0xC8 } ∧ RunsAt (onQ t0 (queueMem 0 16)) t0 (fs 8) { opc := 0xC8 }
    ∧ RunsAt (onQ t0 (queueMem 0 16)) t0 (fs 0) { opc := 0xC9, b := false } ∧ RunsAt (onQ t0 (queueMem 0 0)) t0 (fs 0) { opc := 0xC9, b := false }
    ∧ RunsAt (onQ t0 (queueMem 0 0)) t0 (fs 0) { opc := 0xCA, a := false, b := false }
    ∧ RunsAt (onQ t0 (queueMem 0 0)) t0 (fs 0x10) { opc := 0xCA, a := false, b := false } := by
  and_intros <;> first | exact runsAt (fs_quiet _) (by decide +kernel) | decide +kernel
/-- A base register that misaligns the descriptor. -/
def onOdd : State :=
  { on t0 with cells := [(cell0, { Cell.reset with run := some 1, last := some 9, bases := [(0, 4)] })] }
theorem meets_QueueMisaligned : RunsAt onOdd t0 (fs 0) { opc := 0xC8 } ∧ (tgetD (onOdd.cell cell0).bases 0 0).toInt % 64 ≠ 0 :=
  ⟨runsAt (fs_quiet _) (by decide +kernel), by decide +kernel⟩
def onSemOp (gate : List Nat) : State := { onAcc (ac .st .todo) with semOps := [(5, ⟨.tile 0, 63, 1, false, gate, 4, [], 0, 0, 0⟩)] }
def onPqOp : State := { onQ t0 (queueMem 0 0) with pqOps := [(5, ⟨0, .syrad 0, 0, [7], none⟩)], subj := { a := 5 } }
theorem meets_QueueEvents :
    (tget (onSemOp [5]).semOps 5).isSome = true ∧ (onSemOp [5]).away (.tile 0) 0 = false ∧ (onSemOp [5]).performed 5 4 = false
    ∧ (onSemOp []).owingAt (.tile 0) 4 [] = false ∧ (onSemOp []).semReady (.tile 0) 63 = [] ∧ (∀ e ∈ (onSemOp []).semOps, 5 ≤ e.1)
    ∧ (tget onPqOp.pqOps 5).isSome = true ∧ onPqOp.pkgQueueHeld 0 (.syrad 0) 0 1 = false ∧ onPqOp.hwXlate 0 (.syrad 0) 0 true = some 0
    ∧ onPqOp.hwXlate 0 (.syrad 0) 0x1000 true = some 0x1000 := by decide +kernel

/-! ### Engines -/

def copy0 (cancelled : Bool) : Copy := { newCopy 0 (.thread 1) (t0.who 0xC0) 0 [] 0 with cancelled := cancelled }
def chain1 (stopped : Bool) : CbChain :=
  { fetch := some 0, window := [], stack := [], who := t0.who 0xC1, uid := 1, gen := 0, gate := [], copies := [0], owed := [], fork := none,
    testing := none, retest := 0, stopped := stopped, parked := none, ended := false }
def onEng (t : Thread) (cs : Tbl Nat Copy) (hs : Tbl Nat CbChain) : State :=
  { on t with sites := [(t.src.site, { SiteSt.reset with part := some 0, valid := true, copies := cs, chains := hs })] }
/-- A task packet for element 1 in B. -/
def tTask : Thread := tt 0 (w32 (2 ^ 16)) 9
theorem meets_EngineInstructionResults :
    (RunsAt (on t0) t0 (fs 0) { opc := 0xC0, b := false, ctr := some .cp } ∧ tget ((on t0).site (.tile 0)).copies 0 = none)
    ∧ (RunsAt (on t0) t0 (fs 0) { opc := 0xC1, b := false, ctr := some .cp } ∧ tget ((on t0).site (.tile 0)).chains 0 = none)
    ∧ RunsAt (on t0) t0 (fs 0x40) { opc := 0xC6, b := false, ctr := some .cp }
    ∧ (RunsAt (on tTask) tTask (fs 0x440) { opc := 0xC6, ctr := some .cp }
       ∧ RunsAt (on tTask) tTask (fs 0x400) { opc := 0xC6 }
       ∧ ((on tTask).sendTask tTask (tTask.b0 (fs 0x400)).w tTask.z0).isSome = true
       ∧ (on tTask).owns 0 (.elem 1) = true ∧ ((on tTask).reserve (.egress (.tile 0) false) false).isSome = true)
    ∧ (RunsAt (onEng (tt 0 0 0) [(0, copy0 false)] []) (tt 0 0 0) (fs 0) { opc := 0xC2, b := false } ∧ (copy0 false).failed = false)
    ∧ RunsAt (onEng (tt 0 0 0) [] []) (tt 0 0 0) (fs 0) { opc := 0xC2, b := false }
    ∧ (RunsAt (onEng (tt 0x40000000 0 0) [(0, copy0 false)] [(0, chain1 false)]) (tt 0x40000000 0 0) (fs 0) { opc := 0xC2, b := false }
       ∧ fld (0x40000000 : Word) 30 2 ≠ 0)
    ∧ RunsAt (onEng (tt 0x400F0000 0 0) [] []) (tt 0x400F0000 0 0) (fs 0) { opc := 0xC2, b := false } := by
  and_intros <;> first | exact runsAt (fs_quiet _) (by decide +kernel) | decide +kernel

/-! ### Matrix elements -/

def formsMx : List (Form × Word) :=
  [({ opc := 0xD0, ctr := some .mx }, 0), ({ opc := 0xD1, ctr := some .mx }, 0), ({ opc := 0xD2, ctr := some .mx }, 0),
   ({ opc := 0xD3, ctr := some .mx }, 0), ({ opc := 0xD4, ctr := some .mx }, 0), ({ opc := 0xD5, ctr := some .mx }, 0),
   ({ opc := 0xD6, ctr := some .mx }, 0), ({ opc := 0xD7, ctr := some .mx }, 0), ({ opc := 0xD7, b := false, ctr := some .mx }, 0x200),
   ({ opc := 0xD7, ctr := some .mx }, 0x600), ({ opc := 0xD8, ctr := some .mx }, 0), ({ opc := 0xD8, b := false, ctr := some .mx }, 0x400),
   ({ opc := 0xD9, ctr := some .mx }, 0)]
/-- One row, from the last. -/
def tMx (a b : Word) : Thread := te a b 0
theorem meets_MatrixInstructionResults :
    (∀ o ∈ formsMx, RunsAt (on (tMx 40 1)) (tMx 40 1) (fs o.2) o.1) ∧ (∀ o ∈ formsMx, RunsAt (on (tMx 600 0)) (tMx 600 0) (fs o.2) o.1)
    ∧ (∀ o ∈ formsMx, RunsAt (on t0) t0 (fs o.2) o.1)
    ∧ (tMx 40 1).src.site = .elem 0 ∧ ((on (tMx 40 1)).elem 0).queue.length + ((on (tMx 40 1)).elem 0).running.toList.length < 16
    ∧ RunsAt (on (tMx 127 0)) (tMx 127 0) (fs 0x7FF) { opc := 0xD8, b := false, cyc := 4 } ∧ ((on (tMx 127 0)).elem 0).running = none
    ∧ ((tMx 40 512).b0 (fs 0x600)).w = 512 :=
  ⟨all_run _ (by decide +kernel), all_run _ (by decide +kernel), all_run _ (by decide +kernel), by decide +kernel, by decide +kernel,
   runsAt (fs_quiet _) (by decide +kernel), by decide +kernel, by decide +kernel⟩
/-- An entry with value 5 and bound 5: it gains 3 at its own exponent; with limit 3 it folds. -/
def acc5 : AccEnt := ⟨5, 5, 5, false, 0, 5, 0, false⟩
theorem meets_AccumulatorAddsExactly : (3 : Int).natAbs ≤ 2 ^ 33 ∧ acc5.tri.int.natAbs ≤ acc5.u ∧ acc5.u < 2 ^ 46
    ∧ acc5.u * 2 ^ 0 + (3 : Int).natAbs * 2 ^ 0 < 2 ^ 46 ∧ 2 ^ 3 ≤ acc5.u * 2 ^ 0 + (3 : Int).natAbs * 2 ^ 0 := by decide +kernel
def mx0 (op : Nat) (lit a b : Word) (done : Bool) : MxInstr := { newMx op lit a b 1 (t0e.who op) 4 [] with done := done }
def onMx (queue : List MxInstr) (running : Option MxInstr) : State :=
  { on t0e with elems := [(0, { Elem.reset with queue := queue, running := running })], subj := { a := 0 } }
theorem meets_MatrixEvents :
    (let m := mx0 0xD6 0 0 1 false
     ((onMx [m] none).elem 0).queue = [m] ∧ (onMx [m] none).arrayIdle 0 m.who.part = false ∧ (onMx [m] none).mxMayStart 0 m = true)
    ∧ (∀ m ∈ [mx0 0xD6 0x1FF 0 1 false, mx0 0xD7 0x200 0 0 false, mx0 0xD8 0x400 46 0 false],
      ((onMx [] (some m)).elem 0).running = some m ∧ m.done = false ∧ m.parked = none ∧ (onMx [] (some m)).arrayIdle 0 m.who.part = false)
    ∧ fld (0x200 : Word) 9 2 = 1 ∧ fld (0x400 : Word) 9 2 = 2
    ∧ (let m := mx0 0xD6 0 0 1 true
       ((onMx [] (some m)).elem 0).running = some m ∧ m.done = true ∧ m.sent = []
         ∧ (onMx [] (some m)).owingAt (.elem 0) (max 1 (m.drain.elim 0 (fun d => d.rel))) m.owed = false
         ∧ (onMx [] (some m)).thr? m.uid = some t0e) := by decide +kernel

/-! ### Graphics -/

def formsRq : List (Form × Word) :=
  [({ opc := 0xE0, b := false, lf := true }, 11), ({ opc := 0xE1, b := false, lf := true }, 0), ({ opc := 0xE2, b := false, lf := true }, 0),
   ({ opc := 0xE3, b := false, lf := true }, 0), ({ opc := 0xE4, b := false, lf := true }, 9)]
def formsBox : List (Form × Word) :=
  [({ opc := 0xE5, lf := true, ctr := some .ld }, 0), ({ opc := 0xE6, lf := true, ctr := some .ld }, 0),
   ({ opc := 0xE7, lf := true, ctr := some .ld }, 0)]
/-- The highest index of a record, and one beyond it. -/
theorem meets_RayInstructionResults :
    (∀ o ∈ formsRq, RunsAt (on (tt 1008 0 0)) (tt 1008 0 0) (fs o.2) o.1) ∧ (∀ o ∈ formsRq, RunsAt (on (tt 1009 0 0)) (tt 1009 0 0) (fs o.2) o.1)
    ∧ (∀ o ∈ formsBox, RunsAt (mapped (on (tt 1008 128 0))) (tt 1008 128 0) (fs o.2) o.1)
    ∧ isTile (tt 1008 0 0).src.site = true ∧ ((tt 1008 128 0).bW (fs 0) 0).w.toInt % 128 = 0 ∧ (tt 1008 128 0).selLanes = [0]
    ∧ qState 1 = 1 ∧ qState 3 = 3 := by
  refine ⟨all_run _ (by decide +kernel), all_run _ (by decide +kernel), fun o ho => ?_, by decide +kernel⟩
  have h : formsBox.all (fun o => (mapped (on (tt 1008 128 0))).curUid == some 1 && (mapped (on (tt 1008 128 0))).thr? 1 == some (tt 1008 128 0)
    && fieldsOk o.1.opc (fs o.2) && !(tt 1008 128 0).ending && !(tt 1008 128 0).blocked (fs o.2) o.1) = true := by decide +kernel
  exact runsAt (fs_quiet _) (List.all_eq_true.1 h o ho)

def formsGfx : List (Form × Word) :=
  [({ opc := 0xE8, lf := true }, 3), ({ opc := 0xE9, lf := true }, 0), ({ opc := 0xEA, ctr := some .ld }, 0), ({ opc := 0xEA, ctr := some .ld }, 8),
   ({ opc := 0xEB, lf := true, cyc := 4 }, 0), ({ opc := 0xEB, lf := true, cyc := 4 }, 8), ({ opc := 0xEB, lf := true, cyc := 1 }, 0x10),
   ({ opc := 0xEC, lf := true, ctr := some .ld }, 0), ({ opc := 0xED, lf := true, ctr := some .ld }, 0),
   ({ opc := 0xEE, lf := true, ctr := some .ld }, 0), ({ opc := 0xEF }, 0)]
/-- A bound screen tile, whose next ticket is 1 and expected one x. -/
def scr0 (x : Word) (flushed : Bool) : ScrTile :=
  { lgS := 0, flush := 0x1000, clear := ⟨0, [0, 0, 0, 0]⟩, issued := 1, expected := x, late := 0, resident := !flushed, flushed := flushed,
    pages := if flushed then 0 else 1, binPages := 1, samples := [], bin := [(0, 7)], last := 0, region := 0 }
def onScr (x : Word) (flushed : Bool) : State :=
  let s := owned (mapped (on (tt 0 0 0)))
  { s with mem := [(0x38, 1)], scr := [((0, 0, 0), scr0 x flushed)], subj := { a := 0, c := 0, v := 0 }
           parts := s.parts.map (fun e => (e.1, { e.2 with quota := [(0, 64)] })) }
theorem meets_CoverageAndScreenTileResults :
    (∀ o ∈ formsGfx, RunsAt (on (tt 0 0 0)) (tt 0 0 0) (fs o.2) o.1) ∧ (∀ o ∈ formsGfx, RunsAt (on t0e) t0e (fs o.2) o.1)
    ∧ isTile t0e.src.site = false ∧ (tt 0 0 0).selLanes = [0] :=
  ⟨all_run _ (by decide +kernel), all_run _ (by decide +kernel), by decide +kernel, by decide +kernel⟩
theorem meets_ScreenTiles :
    ((onScr 0 false).descAt (tt 0 0 0) (fs 0) = .ok 0 0 ∧ ∃ d, (onScr 0 false).bind (tt 0 0 0) (0, 0, 0) 0 = .ok (onScr 0 false) d (scr0 0 false))
    ∧ (scr0 0 false).expected = (tgetD ((onScr 0 false).cell cell0).bank 0 .zero).w ∧ (scr0 0 false).resident = true
    ∧ ((0 : Word) - (scr0 1 false).expected).toInt < 0
    ∧ (onScr 0 true).scrOf (0, 0, 0) = some (scr0 0 true) ∧ bufPages 0 ≤ (onScr 0 true).tbFree 0 0
    ∧ (∀ i, i < 12 → (onScr 0 true).hwHolds 0 (.tile 0) (0x1000 + (4096 * i : Nat)) = false
        ∧ (onScr 0 true).hwXlate 0 (.tile 0) (0x1000 + (4096 * i : Nat)) false = some (0x1000 + 4096 * i)) :=
  ⟨⟨rfl, _, rfl⟩, by decide +kernel⟩

def texAcc (op : TexOp) : Access :=
  { tt 0 0 0 |>.access (.tex op) 0xEC 0 none 0 0 [] with uid := 1, desc := 0, lanes := [{ LaneAcc.new 0 0 4 [] [] 0 with st := .todo }] }
def onTex (n : Nat) : State :=
  let s := mapped (on (tt 0 0 0))
  { s with subj := { a := n }, accs := [(5, texAcc .txl)]
           sites := [(.tile 0, { SiteSt.reset with part := some 0, valid := true, texq := [5] })], texLast := [(0, 1)] }
theorem meets_TextureResults :
    ((on (tt 0 0 0)).texHeld (.tile 0) < 4 ∧ ((tt 0 0 0).aW (fs 0) 0).w.toNat + 7 ≤ 1024 ∧ ((tt 0 0 0).zW 0).w.toNat + 8 ≤ 1024
    ∧ ({ onTex 0 with accs := [(5, texAcc .txl), (6, texAcc .txs), (7, texAcc .txg), (8, texAcc .txl)] } : State).texHeld (.tile 0) = 4
    ∧ ((onTex 0).site (.tile 0)).texq = [5] ∧ (onTex 0).acc? 5 = some (texAcc .txl)
    ∧ (onTex 0).spent 0 0 0 itemTexture = false ∧ (onTex 0).idleSite (.tile 0) = false
    ∧ isAperture 0 = false ∧ (onTex 5).badAt 0 64 = false ∧ (texDesc ((onTex 5).engRead (.tile 0) 0 0 64)).fmt < 8)
    ∧ (onTex 5).engXlate 0 (.tile 0) 0 false 0 = .ok 0 0 := ⟨by decide +kernel, rfl⟩
/-- A nearest TXS whose descriptor, one texel of format 0, and that texel lie in the mapped line 0. -/
def onTexDone : State := { onTex 5 with accs := [(5, texAcc .txs)] }
theorem meets_TextureReply :
    (onTexDone.acc? 5 = some (texAcc .txs) ∧ (texAcc .txs).retired = false ∧ (texAcc .txs).fails = [] ∧ (texAcc .txs).lanes ≠ []
      ∧ ((texAcc .txs).lanes.map (fun m => m.lane)).Nodup
      ∧ (∀ m ∈ (texAcc .txs).lanes, m.st = .todo ∧ m.qAt = 0 ∧ m.acks = [] ∧ m.lane < (tt 0 0 0).width)
      ∧ onTexDone.thr? 1 = some (tt 0 0 0) ∧ onTexDone.tex = [] ∧ onTexDone.memBad = [] ∧ onTexDone.coh.replicas = [] ∧ onTexDone.coh.fills = []
      ∧ (texDesc (rdN onTexDone.mem 0 64)).ok = true ∧ (texDesc (rdN onTexDone.mem 0 64)).addr 0 0 0 = 0 ∧ (tget onTexDone.coh.lines (lineOf 0)).isSome = true ∧ 0 % 128 + texBytes 0 ≤ 128)
    ∧ texTaps .txs (texDesc (rdN onTexDone.mem 0 64)) 0 (texFree onTexDone 0) [] = [⟨1, 0, 0, 0⟩] ∧ memDie 0 = nearest (dieOf (.tile 0))
    ∧ onTexDone.engXlate 0 (.tile 0) 0 false 0 = .ok 0 0 := ⟨by decide +kernel, by decide +kernel, by decide +kernel, rfl⟩

/-! ### Control words, regions, launches, marks -/

theorem meets_ControlWordResults :
    (RunsAt (on t0) t0 (fs 0x908) { opc := 0xF4, a := false, b := false } ∧ (on t0).cwReads (cwAt t0 0x908 0) = true)
    ∧ (RunsAt (on t0) t0 (fs 0x7002) { opc := 0xF4, a := false, b := false } ∧ (on t0).cwReads (cwAt t0 0x7002 0) = true)
    ∧ (RunsAt (on t0) t0 (fs 0xB00) { opc := 0xF4, a := false, b := false } ∧ (on t0).cwReads (cwAt t0 0xB00 0) = false)
    ∧ (RunsAt (on t0) t0 (fs 0x001) { opc := 0xF5, b := false } ∧ (on t0).cwWrites (cwAt t0 0x001 0) = false)
    ∧ (RunsAt (on t0) t0 (fs 0x02000002) { opc := 0xF5 } ∧ (on t0).cwWrites (cwAt t0 0x02000002 5) = true
       ∧ (cwAt t0 0x02000002 5).wide = true ∧ (cwAt t0 0x02000002 5).high = false)
    ∧ (RunsAt (on t0) t0 (fs 0x01007002) { opc := 0xF5, b := false } ∧ (on t0).cwWrites (cwAt t0 0x01007002 0) = true
       ∧ (cwAt t0 0x01007002 0).high = true ∧ (cwAt t0 0x01007002 0).n = 0x002)
    ∧ (RunsAt (on t0) t0 (fs 0xA00) { opc := 0xF5, b := false } ∧ (on t0).matcherForm (fs 0xA00) = false ∧ (on t0).cwWrites (cwAt t0 0xA00 0) = true ∧ (cwAt t0 0xA00 0).wide = false) := by
  and_intros <;> first | exact runsAt (fs_quiet _) (by decide +kernel) | decide +kernel
/-- A matcher word of a Syrad cell. -/
def tSyr : Thread := thr ⟨.syrad 0, 0⟩ (ok 3) (ok 0) .zero
theorem meets_MatcherWords : (on tSyr).curUid = some 1 ∧ (on tSyr).thr? 1 = some tSyr ∧ tSyr.blocked (fs 0x7FFF) { opc := 0xF5, b := false } = false
    ∧ (on tSyr).matcherForm (fs 0x7FFF) = true ∧ tSyr.selLanes ≠ [] ∧ (tSyr.a0 (fs 0x7FFF)).pois = false := by decide +kernel
def tCw (opc : Nat) : Thread := { t0 with wait := some ⟨.unit, none, fs 0, opc⟩, stat := .column }
theorem meets_ControlWordEvents :
    Waiting { on (tCw 0xF4) with subj := { a := 0, b := 0x908, c := 0, d := 1 } } 1 (tCw 0xF4) ⟨.unit, none, fs 0, 0xF4⟩ .column
    ∧ Waiting { on (tCw 0xF5) with subj := { a := 0, b := 0xA00, c := 0, d := 1 } } 1 (tCw 0xF5) ⟨.unit, none, fs 0, 0xF5⟩ .column
    ∧ (tget (on t0).parts 0).isSome = true :=
  ⟨waiting_at (by decide +kernel) rfl rfl rfl rfl, waiting_at (by decide +kernel) rfl rfl rfl rfl, by decide +kernel⟩

def z0 : Thread := tt 0 0 0
/-- Partition 0 with mapped memory m, a region 1 below the root, a live queue 7 with n packets, and an image with one stage on tile 0. -/
def onSys (m : List Host.Cell) (n : Nat) : State :=
  let s := owned (mapped (on z0))
  let key : ImgKey := ⟨0, 5, 6⟩
  { s with mem := m
           images := [⟨key, List.replicate 12 0 ++ [1] ++ List.replicate 51 0, 1, false, 0, false⟩]
           sites := [(.tile 0, { SiteSt.reset with part := some 0, valid := true, img := some key })]
           parts := s.parts.map (fun e => (e.1, { e.2 with
             regions := e.2.regions ++ [(1, { rootRegion 1 1 1 0 with parent := 0 })]
             queues := [(7, { HostQ.reset with live := true, packets := List.replicate n ⟨0, none, []⟩ })] })) }
theorem meets_RegionFaultAndMarkResults :
    RunsAt (onSys [(0, 0x11)] 0) z0 (fs 0) { opc := 0xF6, b := false }
    ∧ (tget ((onSys [] 0).part 0).regions 2 = none ∧ ∀ j, j < 2 → (tget ((onSys [] 0).part 0).regions j).isSome = true)
    ∧ (∃ s1 bs g, (onSys [(0, 0x11)] 0).readRange (z0.who 0xF6) 0 128 = .ok s1 bs ∧ ((onSys [(0, 0x11)] 0).part 0).newRegion 0 2 (some bs) = .ok g
        ∧ s1.thr? 1 = some z0)
    ∧ (∃ s1, (let s := onSys [] 0; { s with coh := { s.coh with switch := some ⟨1⟩ } } : State).readRange (z0.who 0xF6) 0 128 = .wait s1)
    ∧ (∃ s1, (on z0).readRange (z0.who 0xF6) 0 128 = .fail s1)
    ∧ ((onSys [] 0).part 0).newRegion 0 2 (some (List.replicate 128 0)) = .error 1
    ∧ (let s := { onSys [] 0 with threads := [(1, tt 1 0 0)] }
       RunsAt s (tt 1 0 0) (fs 0x7E) { opc := 0xF7, b := false } ∧ (s.part 0).within 0 1 = true
         ∧ (tget (s.part 0).regions 1).map (fun g => g.closed) = some false)
    ∧ (RunsAt (on t0) t0 (fs 0) { opc := 0xF7, b := false } ∧ tget ((on t0).part 0).regions 3 = none)
    ∧ (RunsAt (onSys [] 63) z0 (fs 0x38) { opc := 0xF8, b := false } ∧ (onSys [] 63).allDone 1 3 = true ∧ (onAcc (ac (.ld false) .todo)).allDone 1 3 = false
       ∧ (match (onSys [] 63).readPacket (z0.who 0xF8) 0 with | .ok s1 _ => s1.thr? 1 == some z0 | _ => false) = true ∧ (tgetD ((onSys [] 63).part 0).queues 7 HostQ.reset).live = true)
    ∧ (RunsAt (onSys [] 64) z0 (fs 0x38) { opc := 0xF8, b := false } ∧ (tgetD ((onSys [] 0).part 0).queues 0 HostQ.reset).live = false)
    ∧ (RunsAt (onSys [] 0) z0 (fs 0) { opc := 0xF9, b := false } ∧ RunsAt (onSys [] 0) z0 (fs 0x80) { opc := 0xF9, b := false }
       ∧ RunsAt (onSys [] 0) z0 (fs 0x100) { opc := 0xF9, b := false } ∧ RunsAt (onSys [] 0) z0 (fs 0x180) { opc := 0xF9, b := false }
       ∧ ((onSys [] 0).image? ⟨0, 5, 6⟩).map (fun m => imgStages m.bytes) = some 1
       ∧ ((onSys [] 0).strikeChoice ⟨0, 5, 6⟩ 0 0) = some 0)
    ∧ (RunsAt (on t0) t0 (fs 0x1F8) { opc := 0xFA, b := false } ∧ ((on t0).part 0).commit = none)
    ∧ (RunsAt (on tbad) tbad (fs 0) { opc := 0xFA, b := false } ∧ isElem tbad.src.site = false ∧ (tbad.a0 (fs 0)).pois = true)
    ∧ (RunsAt (on t0e) t0e (fs 0) { opc := 0xFA, b := false } ∧ isElem t0e.src.site = true)
    ∧ (RunsAt (on t0) t0 (fs 0x3FFFF) { opc := 0xFB } ∧ RunsAt (on t0) t0 (fs 0xFFFF) { opc := 0xFC, b := false }
       ∧ bit (on t0).lantern.ctl 31 = false) := by
  and_intros <;> first | exact runsAt (fs_quiet _) (by decide +kernel) | decide +kernel | exact ⟨_, rfl⟩ | exact ⟨_, _, _, rfl, rfl, rfl⟩

/-! ### Tokens and cells -/

def tok (port width fslot : Nat) : Token :=
  { id := 5, data := List.replicate width (ok 7), dst := .tile 0, cell := 0, fslot := fslot, src := ⟨.tile 1, 0⟩, part := 0, region := 0, inv := 0,
    held := false, unres := none, at_ := 0,
    tag := { frame := 0, ip := 0, port := BitVec.ofNat 2 port, wave := 0, colour := 0, width := width, eod := 0, kind := .data, block := 0 } }
def onTok (v : SiteSt) (c : Cell) (fabric : List Token) : State :=
  { on t0 with threads := [], sites := [(.tile 0, { v with part := some 0, valid := true })], cells := [(cell0, c)], fabric := fabric,
               subj := { site := .tile 0, a := 5, ag := cell0 } }
def k0 : Token := tok 0 1 0
theorem meets_TokenTransport :
    (let s := onTok { SiteSt.reset with egress := [k0] } Cell.reset []
     (s.site (.tile 0)).egress.find? (fun m => m.id = 5) = some k0 ∧ k0.unres = none ∧ s.idleSite (.tile 0) = false
       ∧ s.away k0.dst k0.inv = false ∧ s.taskWaits k0 = false
       ∧ (let ks := (s.site (.tile 0)).egress.map (fun m => (s.resolve m).getD m)
          k0.first ks = true ∧ s.clearAhead k0 ks = true))
    ∧ (let s := onTok SiteSt.reset Cell.reset [k0]
       s.fabric.find? (fun m => m.id = 5) = some k0 ∧ k0.first s.fabric = true ∧ s.entryWaits k0 = false ∧ ((s.site k0.dst).ingress.filter (fun m => !m.held)).length < 56)
    ∧ (let s := onTok { SiteSt.reset with ingress := List.replicate 56 { k0 with id := 9 } } Cell.reset [k0]
       s.fabric.find? (fun m => m.id = 5) = some k0 ∧ 56 ≤ ((s.site k0.dst).ingress.filter (fun m => !m.held)).length)
    ∧ (let s := onTok { SiteSt.reset with ingress := [k0] } Cell.reset []
       (s.site (.tile 0)).ingress.find? (fun m => m.id = 5) = some k0 ∧ (s.site (.tile 0)).pitching = false
         ∧ k0.first (s.site (.tile 0)).ingress = true ∧ 3 ≤ (s.cell cell0).qfree 0 ∧ s.domainFenced 0 0 = false ∧ s.colourOk k0 = true
         ∧ bit s.lantern.ctl 31 = false)
    ∧ (let s := onTok { SiteSt.reset with ingress := [k0] } { Cell.reset with qresv := [(0, 6)] } []
       (s.cell cell0).qfree 0 < 3)
    ∧ (let w : Frame := ⟨0, 1, false, [(2, [ok 4])], [], [(2, tok 0 1 2)], 0, 0, 0⟩
       let s := onTok { SiteSt.reset with frames := [(0, w)] } Cell.reset []
       frameHome (.tile 0) 0 = some (.tile 0) ∧ s.frame? (.tile 0) 0 = some w ∧ tget w.toks 3 = none ∧ tget w.toks 2 = some (tok 0 1 2)) := by
  decide +kernel

def onHead (width : Nat) (claims : List Claim) : State :=
  onTok { SiteSt.reset with claims := claims } { Cell.reset with last := some 9, queues := [(3, [tok 3 width 0])] } []
theorem meets_WorkAndGangs :
    (let s := onHead 1 []
     (s.cell cell0).run = none ∧ s.claimed cell0 = false ∧ s.idleSite (.tile 0) = false
       ∧ ((s.candidates cell0).find? s.mayRun).map (fun c => (c.1, c.2.width)) = some (.head 3 5, 1)
       ∧ (s.cell cell0).queue 3 = [tok 3 1 0])
    ∧ (let s := onHead 2 []
       ((s.candidates cell0).find? s.mayRun).map (fun c => (c.1, c.2.width)) = some (.head 3 5, 2))
    ∧ (let cl : Claim := ⟨cell0, [0, 1], .head 3 5⟩
       let s := onHead 2 [cl]
       (s.site (.tile 0)).claims.find? (fun x => x.ag = cell0) = some cl
         ∧ (s.claimant cell0 cl.cand).map s.mayRun = some true ∧ s.claimHolds cl = true ∧ s.claimant cell0 (.head 3 6) = none)
    ∧ (let t : Thread := { t0 with stat := .reserve }
       let s : State := { on t with subj := { a := 1 } }
       s.thr? 1 = some t ∧ s.idleSite t.src.site = false ∧ s.couldReserve t = true ∧ t.slot = none)
    ∧ (let t : Thread := { t0 with stat := .reserve, slot := some 15 }
       let s : State := { onFull with threads := [(1, t)], subj := { a := 1 }
                                      cells := [(cell0, { Cell.reset with run := some 1, last := some 9, routes := [(0, w32 (2 * 2 ^ 29 + 2 ^ 7))], nroutes := 1
                                                                          instr := [(0, 0x011FC07F)] })] }
       s.thr? 1 = some t ∧ s.couldReserve t = false) := by decide +kernel

/-! ### Copies and command blocks -/

/-- Zero fill of one element at address 0; from memory to semaphore 0. -/
def descZero : CopyDesc := (copyFields (List.replicate 16 0 ++ [0, 0, 0, 0x20] ++ List.replicate 108 0)).1
def onCopy (c : Copy) (b k : Nat) : State :=
  let s := owned (mapped (on { t0 with ncp := 1 }))
  { s with subj := { site := .tile 0, a := 0, b := b, c := k }
           sites := [(.tile 0, { SiteSt.reset with part := some 0, valid := true, copies := [(0, c)] })] }
theorem meets_CopyEvents :
    (let s := onCopy (copy0 false) 0 0
     s.copy? (.tile 0) 0 = some (copy0 false) ∧ (copy0 false).parsed = none ∧ s.copyIdle (.tile 0) 0 = false ∧ s.gateOpen [] = true
       ∧ s.engXlate 0 (.tile 0) 0 false 0 = .ok 0 0 ∧ isAperture 0 = false ∧ s.badAt 0 128 = false ∧ s.engLine (.tile 0) 0 0 0 = some s)
    ∧ (let c : Copy := { copy0 false with desc := 64 }
       (onCopy c 0 0).copy? (.tile 0) 0 = some c ∧ c.desc % 128 ≠ 0)
    ∧ (let s : State := { onCopy { copy0 false with gate := [5] } 0 0 with accs := [(5, ac .st .todo)] }
       s.gateOpen [5] = false)
    ∧ (let c : Copy := { copy0 false with parsed := some descZero }
       let s := onCopy c 0 0
       s.copy? (.tile 0) 0 = some c ∧ c.next < descZero.total ∧ descZero.srcKind = 2 ∧ descZero.dstKind = 0
         ∧ min descZero.per (descZero.total - c.next) = 1
         ∧ s.engXlate 0 (.tile 0) (descZero.dst.toInt + (elemOffs descZero.dims 0).2) true 1 = .ok 0 0)
    ∧ (let k : Chunk := ⟨7, [(.mem 0 0, [1])], 0⟩
       let c : Copy := { copy0 false with parsed := some descZero, next := 1, flight := [k] }
       let s := onCopy c 1 7
       s.copy? (.tile 0) 0 = some c ∧ c.flight.find? (fun k => k.idx = 7) = some k ∧ s.engPlace 0 0 = .ok 0 0
         ∧ tget s.coh.lines (lineOf 0) = some line2 ∧ s.queuesIn s.mem (lineOf 0) = [] ∧ k.fill = 0)
    ∧ (let c : Copy := { copy0 false with parsed := some descZero, next := 1 }
       let s := onCopy c 0 0
       descZero.total ≤ c.next ∧ c.issuer = .thread 1 ∧ (s.thr? 1).isSome = true ∧ descZero.remote = false ∧ s.semReady (.tile 0) descZero.sem = []
         ∧ s.owingAt (.tile 0) (max 1 descZero.rel) c.owed = false)
    ∧ (let c : Copy := { copy0 false with parsed := some { descZero with rel := 4 }, next := 1, owed := [6] }
       let s := onCopy c 0 0
       let s : State := { s with coh := { s.coh with colls := [⟨6, 0, 0, [], 0, false, 1⟩] } }
       s.owingAt (.tile 0) (max 1 4) c.owed = true) :=
  ⟨⟨by decide +kernel, by decide +kernel, by decide +kernel, by decide +kernel, rfl, by decide +kernel, by decide +kernel, rfl⟩,
   by decide +kernel, by decide +kernel, ⟨by decide +kernel, by decide +kernel, by decide +kernel, by decide +kernel, by decide +kernel, rfl⟩,
   ⟨by decide +kernel, by decide +kernel, rfl, by decide +kernel, by decide +kernel, by decide +kernel⟩, by decide +kernel, by decide +kernel⟩

/-- A block of a kind with its control word, entry count or threshold in place. -/
def blk (kind ctl : Nat) : Block := ⟨0, leBytes 4 kind ++ List.replicate 20 0 ++ leBytes 4 ctl ++ List.replicate 36 0⟩
def onCb (c : CbChain) : State :=
  let s := owned (mapped (on { t0 with ncp := 1 }))
  { s with subj := { site := .tile 0, a := 0 }
           sites := [(.tile 0, { SiteSt.reset with part := some 0, valid := true, chains := [(0, c)] })] }
def cb (w : List Block) (fetch : Option DWord) : CbChain := { chain1 false with copies := [], window := w, fetch := fetch }
theorem meets_CommandBlockEvents :
    ((∀ k ∈ [0, 1, 2, 3, 4, 5, 6, 7],
      (onCb (cb [blk k 0] none)).cb? (.tile 0) 0 = some (cb [blk k 0] none) ∧ (onCb (cb [blk k 0] none)).copyIdle (.tile 0) 0 = false
      ∧ (onCb (cb [blk k 0] none)).blockOk 0 (.tile 0) (blk k 0) = true ∧ (blk k 0).kind = k ∧ (blk k 0).waits = false
      ∧ (cb [blk k 0] none).complete = true ∧ (cb [blk k 0] none).skipping = false))
    ∧ (onCb (cb [] (some 0))).gateOpen [] = true ∧ (0x20 : DWord).toNat % 64 ≠ 0
    ∧ (onCb (cb [] (some 0))).engXlate 0 (.tile 0) 0 false 0 = .ok 0 0
    ∧ (onCb (cb [] (some 0))).engTouch 0 0 (.tile 0) 4 0 0 0 = some (onCb (cb [] (some 0))) ∧ (onCb (cb [] (some 0))).badAt 0 64 = false
    ∧ ((onCb (cb [blk 1 0] none)).startCopy (.tile 0) 0 (.chain 0) (t0.who 0xC1) []).isSome = true
    ∧ (onCb (cb [blk 2 0] none)).away (.tile 0) 0 = false ∧ (onCb (cb [blk 2 0] none)).semReady (.tile 0) 0 = [] ∧ nfld ((blk 2 0).q 0x18 4) 18 3 = 0
    ∧ nfld ((blk 3 0).q 0x18 4) 0 1 = 0 ∧ ({ cb [blk 3 0] none with testing := some (some 0) } : CbChain).testing.isSome = true
    ∧ 0 ≤ (onCb (cb [blk 3 0] none)).work 0 ∧ (blk 4 0).q 0x18 4 = 0 ∧ (blk 4 5).q 0x18 4 ≠ 0
    ∧ leNat ((onCb (cb [blk 5 0] none)).engRead (.tile 0) 4 0 8) % 64 = 0
    ∧ ({ cb [] none with ended := true } : CbChain).copies = [] ∧ ((onCb (cb [] none)).thr? 1).isSome = true ∧ isElem (.tile 0) = false :=
  ⟨by decide +kernel, by decide +kernel, by decide +kernel, rfl, rfl, by decide +kernel⟩
/-- A test block whose outcome is skip and whose next block lies at 0x40. -/
def skipped : CbChain := { cb [⟨0, leBytes 4 3 ++ List.replicate 4 0 ++ leBytes 8 0x40 ++ List.replicate 48 0⟩] none with skipping := true }
theorem meets_SkippedBlock :
    ((onCb skipped).cb? (.tile 0) 0 = some skipped ∧ skipped.complete = true ∧ skipped.window.map (fun b => (b.kind, b.next)) = [(3, 0x40)]
      ∧ (onCb skipped).badAt 0x40 64 = false ∧ (onCb skipped).setCb (.tile 0) 0 skipped = onCb skipped
      ∧ (Block.mk 0 ((onCb skipped).engRead (.tile 0) 4 0x40 64)).next = 0)
    ∧ (onCb skipped).engXlate 0 (.tile 0) 0x40 false 0 = .ok 0x40 0
    ∧ (onCb skipped).engTouch 0 0 (.tile 0) 4 0 0x40 0 = some (onCb skipped) := ⟨by decide +kernel, rfl, rfl⟩

/-! ### Launches -/

/-- An image of one stage, whose cell 0 holds one NOP with tag action done. -/
def img1 : List Byte :=
  leBytes 4 0x4C564F31 ++ leBytes 4 1 ++ leBytes 4 6 ++ leBytes 2 1 ++ leBytes 2 0 ++ leBytes 4 92 ++ leBytes 4 0 ++ leBytes 8 0 ++ leBytes 8 64
    ++ List.replicate 24 0 ++ (leBytes 8 80 ++ leBytes 4 12 ++ [1, 1, 0, 0]) ++ (leBytes 4 0 ++ leBytes 4 0x00FFFFFF ++ leBytes 4 0)
/-- A packet that launches it on die 0 from address 0x1000, with one entry. -/
def pkt1 (kind : Nat) : List Byte :=
  leBytes 4 kind ++ leBytes 4 0 ++ leBytes 8 0x1000 ++ leBytes 8 5 ++ leBytes 4 6 ++ leBytes 4 1 ++ leBytes 8 0
    ++ leBytes 4 (if kind = 1 then 1 else 0) ++ List.replicate 20 0 ++ (if kind = 1 then leBytes 4 0 ++ leBytes 4 0x10000 ++ leBytes 8 0 else [])
def lch (st : LaunchSt) : Launch := { newLaunch 0 7 ⟨1, none, pkt1 1⟩ with st := st }
def key1 : ImgKey := ⟨0, 5, 6⟩
def image1 : Image := ⟨key1, img1, 1, false, 0, false⟩
def onL (v : Launch) (images : List Image) (ps : List QPacket) : State :=
  let s := owned (mapped (on z0))
  { s with threads := [], mem := wrN [] 0x1000 img1, launches := [(4, v)], images := images, subj := { a := 4 }, fresh := 9
           sites := [(.tile 0, { SiteSt.reset with part := some 0 }), (.tile 1, { SiteSt.reset with part := some 0 })]
           parts := s.parts.map (fun e => (e.1, { e.2 with regions := [(0, rootRegion 2 1024 2 4)], queues := [(7, { HostQ.reset with live := true, packets := ps })] })) }
def cmdFlit (w : Word) (bs : List Byte) : Flit := ⟨0, 0, 0, 3, w, 0, bs, 0⟩
def onFlit (f : Flit) (q : Nat) : State :=
  let s := onL (lch .image) [] (List.replicate q ⟨0, none, []⟩)
  { s with subj := { a := 6 }, io := { s.io with flits := [(6, f)], packets := [⟨0, 3, 7, 2, [(0, List.replicate 240 1)]⟩] } }
theorem meets_LaunchStates_flits :
    (∀ q ∈ [63, 64], (onFlit (cmdFlit (w32 (7 + 2 ^ 16)) (pkt1 1)) q).flit? 6 = some (cmdFlit (w32 (7 + 2 ^ 16)) (pkt1 1)).fit)
    ∧ bit (w32 (7 + 2 ^ 16)) 16 = true ∧ fld (w32 (7 + 2 ^ 16)) 11 5 = 0 ∧ bit (7 : Word) 16 = false
    ∧ ((onFlit (cmdFlit (w32 (7 + 2 * 2 ^ 3 + 2 ^ 11 + 2 ^ 16)) [1]) 0).io.packets.find? (fun m => m.part == 0 && m.src == 3 && m.tag == 2)).map
        (fun m => m.queue) = some 7 ∧ fld (w32 (7 + 2 * 2 ^ 3 + 2 ^ 11 + 2 ^ 16)) 11 5 = 1 := by decide +kernel
theorem meets_LaunchStates_check :
    (∀ k ∈ [0, 1, 2], let s := { onL (lch .done) [] [⟨1, none, pkt1 k⟩] with subj := { a := 0 } }
      s.nextQueue 0 = some 7 ∧ (s.checkBad 0 none (pkt1 k)).isSome = decide (k = 0)) := by decide +kernel
theorem meets_LaunchStates_image :
    (∀ im ∈ [[], [image1]], (onL (lch .image) im []).launch? 4 = some (lch .image) ∧ (onL (lch .image) im []).fencedLaunch (lch .image) = false)
    ∧ (onL (lch .image) [image1] []).image? (pktKey 0 (lch .image).hdr) = some image1 ∧ (onL (lch .image) [image1] []).strikeBegun key1 = false
    ∧ imageJudge img1 (lch .image) = none
    ∧ (imageJudge img1 { lch .image with entries := [⟨w32 5, w32 65536, 0, 0⟩] }).isSome = true
    ∧ (onL (lch .image) [] []).image? key1 = none ∧ headerBad (img1.take 64) = none
    ∧ (match (onL (lch .image) [] []).readRange ((lch .image).reader 4) 0x1000 64 with
        | .ok b hd => hd == img1.take 64 && (match b.readRange ((lch .image).reader 4) 0x1000 92 with
          | .ok c bs => bs == img1 && c.launch? 4 == some (lch .image) | _ => false)
        | _ => false) = true ∧ (onL (lch .image) [] []).fits 0 0 itemStore 1 = true
    ∧ imageBad img1 [0, 1] .tile = none
    ∧ (on t0).fits 0 0 itemStore 1 = false
    ∧ (match ({ onL (lch .image) [] [] with parts := [(0, Part.reset)] } : State).readRange ((lch .image).reader 4) 0x1000 64 with
        | .fail _ => true | _ => false) = true
    ∧ (match (let s := onL (lch .image) [] []; { s with coh := { s.coh with switch := some ⟨1⟩ } } : State).readRange ((lch .image).reader 4) 0x1000 64 with
        | .wait _ => true | _ => false) = true := by decide +kernel
theorem meets_LaunchStates_place :
    (onL (lch .place) [image1] []).image? (pktKey 0 (lch .place).hdr) = some image1 ∧ ((onL (lch .place) [image1] []).placeStep (lch .place) image1).2 = true
    ∧ (let s := { onL (lch .place) [image1] [] with sites := [] }
       (s.placeStep (lch .place) image1).2 = false)
    ∧ (∃ n ∈ ((onL (lch .place) [image1] []).placeStep (lch .place) image1).1.imageTiles key1,
        (((onL (lch .place) [image1] []).placeStep (lch .place) image1).1.site (.tile n)).pitching = true)
    ∧ (let s := { onL (lch .place) [image1] [] with sites := [(.tile 0, { SiteSt.reset with part := some 0, img := some key1, valid := true })] }
       (s.placeStep (lch .place) image1).2 = true ∧ ∀ n ∈ (s.placeStep (lch .place) image1).1.imageTiles key1,
         ((s.placeStep (lch .place) image1).1.site (.tile n)).pitching = false) := by decide +kernel
/-- Tile 0 holds the image; its region has room for a frame. -/
def onArm (v : Launch) : State :=
  let s := onL v [image1] []
  let g := { rootRegion 2 1024 2 0 with items := (rootRegion 2 1024 2 0).items.map (fun x => max x 4) }
  { s with sites := [(.tile 0, { SiteSt.reset with part := some 0, img := some key1, valid := true })]
           parts := s.parts.map (fun e => (e.1, { e.2 with regions := [(0, g)] })) }
theorem meets_LaunchStates_arm :
    (lch .arm).ready = false ∧ (onArm (lch .arm)).ownersHeld 0 = false ∧ (onArm (lch .arm)).farOwners 0 = [] ∧ ((onArm (lch .arm)).armAll 4 (lch .arm) image1 (lch .arm).entries []).isSome = true
    ∧ ({ onArm (lch .arm) with sites := [] } : State).armAll 4 (lch .arm) image1 (lch .arm).entries [] = none
    ∧ (let v : Launch := { lch .arm with ready := true, armed := [(0, [k0])] }
       (onArm v).launch? 4 = some v ∧ (onArm v).fencedLaunch v = false ∧ (onArm v).startOf v.hdr ≤ (onArm v).tod
         ∧ ((onArm v).startToks (tgetD v.armed 0 [])).2 = []) := by decide +kernel

theorem meets_LaunchEnds :
    (let v := lch .place
     let s := { onL v [image1] [] with sites := [], subj := { a := 4, b := 2 } }
     s.launch? 4 = some v ∧ v.st.num = 2 ∧ pktN v.hdr 0x2C 4 ≠ 0xFFFFFFFF ∧ s.launchBlocked 4 v = true ∧ v.since + 0 * 1100 ≤ s.work v.part)
    ∧ (let v := lch .run
       let s := onL v [image1] []
       s.liveWork 4 = false ∧ v.armed = [] ∧ v.sums.1 = v.sums.2 ∧ v.passed ≠ some v.sums.1
         ∧ ({ v with passed := some v.sums.1 } : Launch).passed = some v.sums.1)
    ∧ (let v := lch .retire
       let s := onL v [image1] []
       s.launch? 4 = some v ∧ (∀ c ∈ s.coh.colls, c.id ∉ v.owed) ∧ (tget s.parts 0).isSome = true)
    ∧ (let v : Launch := { lch .retire with owed := [6] }
       ∃ c ∈ (onColl 0).coh.colls, c.id ∈ v.owed) ∧ nfld (0 : DWord).toNat 8 1 = 0 := by decide +kernel

theorem meets_PlacementAndPeriods :
    (let m : Image := { image1 with strike := true }
     let s := { onArm (lch .run) with images := [m], subj := { a := 0, b := 6, v := 5 } }
     s.image? key1 = some m ∧ m.begun = false ∧ s.imageUsed key1 = true ∧ ({ s with launches := [] } : State).imageUsed key1 = false ∧ s.imageTiles key1 = [0]
       ∧ ({ s with sites := [] } : State).imageTiles key1 = [] ∧ (s.site (.tile 0)).striking = false ∧ (s.site (.tile 0)).pitching = false)
    ∧ (let v : SiteSt := { SiteSt.reset with part := some 0, striking := true }
       ({ on t0 with sites := [(.tile 0, v)] } : State).tileEmpty 0 = false ∧ ({ on t0 with sites := [(.tile 0, v)], cells := [] } : State).tileEmpty 0 = true)
    ∧ (let s := onArm (lch .run)
       s.images = [image1] ∧ (s.part 0).halted = false ∧ 0 < imgStages img1 ∧ s.stageTiles key1 0 0 ≠ [] ∧ (s.placeOf key1 0 0).frozen = false
         ∧ ¬(imgGrow img1 0 ≤ s.depth key1 0 0) ∧ ¬(s.depth key1 0 0 < imgShrink img1 0)
         ∧ ({ s with sites := s.sites ++ [(.tile 1, { SiteSt.reset with part := some 0 })] } : State).grantChoice key1 0 0 = some 1
         ∧ (({ s with sites := s.sites ++ [(.tile 1, { SiteSt.reset with part := some 0 })] } : State).grantTile key1 0 0).isSome = true
         ∧ s.strikeChoice key1 0 0 = some 0)
    ∧ (let s := { on t0 with cells := [(cell0, { Cell.reset with queues := [(0, List.replicate 8 k0), (1, List.replicate 8 k0), (2, List.replicate 8 k0), (3, List.replicate 8 k0)] })], sites := [(.tile 0, { SiteSt.reset with part := some 0, img := some key1, valid := true })] }
       imgGrow img1 0 ≤ s.depth key1 0 0)
    ∧ (let s := { onArm (lch .place) with launches := [(4, { lch .place with region := 1 }), (5, lch .run)], subj := { a := 0, b := 0 } }
       let s : State := { s with parts := s.parts.map (fun e => (e.1, { e.2 with regions := e.2.regions ++ [(1, rootRegion 1 1 1 1)] })) }
       (∃ e ∈ s.launches, e.2.part = 0 ∧ e.2.region ≠ 0 ∧ e.2.st = .place ∧ (tget (s.part 0).regions e.2.region).isSome = true)
         ∧ (∃ e ∈ s.launches, e.2.part = 0 ∧ e.2.region = 0 ∧ e.2.st = .run) ∧ (s.part 0).preempt.st = 0 ∧ s.agenda = []
         ∧ (Act.ev .completionPoll { b := 0 } ∈ ({ s with agenda := [.ev .completionPoll { b := 0 }] } : State).agenda)) := by decide +kernel

/-! ### Dies, domains, translations, faults -/

def far (c : Coll) : State := { onColl 0 with coh := { (onColl 0).coh with colls := [c] }, subj := { a := 15, b := 0, c := c.id } }
theorem meets_DiesAndLinks :
    (far ⟨6, 3, 0, [], 0, false, 2⟩).coh.colls.find? (fun c => c.id = 6) = some ⟨6, 3, 0, [], 0, false, 2⟩
    ∧ 0 + 2200 ≤ (far ⟨6, 3, 0, [], 0, false, 2⟩).cycle ∧ 15 ∉ (far ⟨6, 3, 0, [], 0, false, 2⟩).coh.lost
    ∧ tgetD (far ⟨6, 3, 0, [], 0, false, 2⟩).coh.beats 15 0 + 55000 ≤ (far ⟨6, 3, 0, [], 0, false, 2⟩).cycle := by decide +kernel

def onInval (inv : Option (Nat × Int × List Nat)) (c : Option Commit) (x : DWord) (k : Nat) : State :=
  let s := owned (mapped (on t0))
  { s with subj := { a := 0, v := x, c := k }, parts := s.parts.map (fun e => (e.1, { e.2 with invst := inv, commit := c })) }
def commit0 (staged : Option (Tbl Nat RangeReg)) : Commit := ⟨0, .tile 0, 0, t0.who 0xFA, staged, []⟩
theorem meets_DomainsAndTranslations :
    (let s := mapped (on t0)
     s.coh.busy = false ∧ s.switchOk 1 = true ∧ s.chainsOn 1 = false ∧ s.coh.mc = []
       ∧ ({ s with coh := { s.coh with switch := some ⟨1⟩ } } : State).drained = true)
    ∧ (let s := onChain (chain0 8 []) (cref 0 254 1)
       let s : State := { s with parts := s.parts.map (fun e => (e.1, { e.2 with doms := 1 })) }
       s.chainsOn 1 = true)
    ∧ (let s := onColl 0
       ({ s with coh := { s.coh with switch := some ⟨1⟩ } } : State).drained = false)
    ∧ (nfld (1 : DWord).toNat 0 1 = 1 ∧ ((onInval none none 1 0).part 0).invst = none)
    ∧ (let s := onInval (some (0, 0, [])) none 1 1
       (s.part 0).invst = some (0, 0, []) ∧ s.pageUsed 0 (invalHits 0 0) [] = false ∧ s.flightHits 0 (invalHits 0 0) = false)
    ∧ (let s := { onInval (some (0, 0, [5])) none 1 1 with accs := [(5, ac .st .remote)] }
       s.pageUsed 0 (invalHits 0 0) [5] = true)
    ∧ (let s := onInval none (some (commit0 none)) 0 0
       s.idleSite (.tile 0) = false ∧ s.away (.tile 0) 0 = false
         ∧ (match s.readRange (t0.who 0xFA) 0 1024 with | .ok b _ => tget b.parts 0 == tget s.parts 0 | _ => false) = true
         ∧ (match ({ s with coh := { s.coh with switch := some ⟨1⟩ } } : State).readRange (t0.who 0xFA) 0 1024 with | .wait _ => true | _ => false) = true
         ∧ (match s.rangeSet 0 (List.replicate 1024 0) (List.range 32) with | .ok _ => true | _ => false) = true)
    ∧ (let s := onInval none (some (commit0 (some []))) 0 0
       s.pageUsed 0 (s.part 0).inRanges [] = false ∧ s.flightHits 0 (s.part 0).inRanges = false) := by decide +kernel
theorem meets_DomainsBadTable :
    (64 : Int) % 1024 ≠ 0
    ∧ (match (on t0).readRange (t0.who 0xFA) 0 1024 with | .fail _ => true | _ => false) = true
    ∧ (match (onInval none none 0 0).rangeSet 0 (List.replicate 24 0 ++ [1] ++ List.replicate 999 0) (List.range 32) with
        | .error i => i == 0 | _ => false) = true := by decide +kernel

theorem meets_RecordQueued :
    faultClass 0x0001 = 0 ∧ faultClass 0x0011 = 3 ∧ faultClass 0x0101 = 1 ∧ faultClass 0x0203 = 2
    ∧ (let s := { on t0 with parts := [(0, { Part.reset with tqTail := 247, domains := [(0, ⟨false, false, 0⟩)] })] }
       (tget s.parts (t0.who 0).part).isSome = true ∧ (∀ e ∈ (s.part 0).heldRecs, e.2.written = true) ∧ s.coh.switch = none ∧ ((s.part 0).tqTail - (s.part 0).tqHead).toNat < 248)
    ∧ (let v : Part := { Part.reset with tqTail := 248 }
       ¬(v.tqTail - v.tqHead).toNat < 248 ∧ (v.tqTail - v.tqHead).toNat < 256)
    ∧ (let v : Part := { Part.reset with tqTail := 255, tqHead := -1 }
       256 ≤ (v.tqTail - v.tqHead).toNat) := by decide +kernel
theorem meets_DomainFence : tget (on t0).parts 0 ≠ none
    ∧ (tgetD ((on t0).part 0).domains (((on t0).part 0).domOf 0) ⟨false, false, 0⟩).fenced = false
    ∧ (onMx [] (some (mx0 0xD6 0 0 1 false))).elems.map (fun e => e.2.running.isSome) = [true] := by decide +kernel

/-- A record awaits its reply at entry 3. -/
def onRec (r : RecFor) (answered : Bool) (st : TStat) (x : DWord) : State :=
  let t : Thread := { t0 with stat := st, wait := some ⟨.unit, none, fs 0, 4⟩ }
  { on t with subj := { a := 0, b := 3, v := x }
              parts := [(0, { Part.reset with tqTail := 4, recs := [(3, ⟨3, r, 0x0010, 0, answered⟩)]
                                              heldRecs := [(3, ⟨0x10, 3, 0, 0, [], .loop 1, 0, false⟩)] })] }
theorem meets_RepliesAndAnswers :
    (let s := onRec (.loop 1) false .reply (BitVec.ofNat 64 (3 * 65536 + 3))
     tget (s.part 0).recs (nfld s.subj.v.toNat 0 8) = some ⟨3, .loop 1, 0x0010, 0, false⟩ ∧ nfld s.subj.v.toNat 16 16 = 3
       ∧ (s.thr? 1).map (fun t => t.stat) = some .reply ∧ s.away (.tile 0) 0 = false)
    ∧ (let s := onRec (.trap 1) true .reply 7
       tget (s.part 0).recs (nfld s.subj.v.toNat 0 8) = none ∧ (tget (s.part 0).recs 3).map (fun m => m.answered) = some true)
    ∧ (let s := onRec (.loop 1) false .record 0
       (tget (s.part 0).heldRecs 3).map (fun h => h.written) = some false ∧ ((s.part 0).tqTail - (s.part 0).tqHead).toNat < 248
         ∧ s.coh.switch = none ∧ s.coh.hwHeld = []
         ∧ (s.thr? 1).map (fun t => t.stat) = some .record)
    ∧ ((onRec (.page 0 0) false .run 0).openRec 0 3 1 = none)
    ∧ (let s := onRec (.page 0 0) false .run 0
       let s : State := { s with parts := [(0, { Part.reset with recs := [(3, ⟨3, .page 0 0, 1, 64, false⟩)], root := 0, mem := [(0, 0, 2 ^ 49)] })] }
       (s.openRec 0 3 1).isSome = true ∧ s.hwHolds 0 (.syrad 0) 64 = false
         ∧ ({ s with coh := { s.coh with switch := some ⟨1⟩, doms := [(0, ⟨0, 2 ^ 49, 1, []⟩)] } } : State).hwHolds 0 (.syrad 0) 64 = true ∧ s.walk 0 (.syrad 0) 64 = none ∧ (({ s with mem := tables } : State).walk 0 (.syrad 0) 64).isSome = true)
    ∧ (let s := onWalk 0 []
       let x : Access := ac (.ld false) .parked
       let s : State := { s with accs := [(5, x)] }
       s.laneOn 0 (pageOf 64) (dieOf (.tile 0)) 1 (fun _ => true) x (ln .parked) = true ∧ s.idleSite x.who.ag.site = false) := by decide +kernel
/-- A copy-on-write leaf of a 64 KiB page at 0x20000, with the pool at 0x100000. -/
def cowTables : List Host.Cell := [(0, 1), (1, 0x10), (0x1000, 1), (0x1001, 0x20), (0x2000, 1), (0x2001, 0x30), (0x3000, 1), (0x3001, 0x40), (0x4000, 0x13), (0x4002, 2)]
def onCow : State :=
  { on t0 with subj := { a := 0, b := 3, c := 0 }, mem := cowTables
               parts := [(0, { Part.reset with recs := [(3, ⟨3, .page 0 0, 2, 64, false⟩)], root := 0, mem := [(0, 0, 2 ^ 49)], cowbase := 0x100000,
                                               cowlimit := 0x110000 })] }
theorem meets_CopyOnWrite :
    (onCow.openRec 0 3 2).isSome = true ∧ (onCow.walk 0 (.syrad 0) 64).map (fun e => e.cow) = some true
    ∧ onCow.leafAddr (va57 64) 4 0 = some 0x4000 ∧ onCow.inMem 0 0x100000 65536 = true ∧ Memory.wf onCow.mem = true
    ∧ onCow.hwHolds 0 (.syrad 0) 64 = false ∧ onCow.switching 0x100000 = false
    ∧ ({ onCow with mem := [] } : State).walk 0 (.syrad 0) 64 = none ∧ (onCow.part 0).invst = none := by decide +kernel

def onErr (e : ErrPlace) : State :=
  let s := onFrame t0 frame0
  { s with subj := { a := 0, err := e }, biv := [(0, ⟨{ SiteSt.reset with part := some 0 }, [], [], [], [], false⟩)]
           cells := [(cell0, { Cell.reset with run := some 1, last := some 9, queues := [(0, [k0])] })]
           lantern := { s.lantern with buf := [(0, [⟨[1, 2, 3, 4, 5, 6, 7, 8]⟩])] } }
theorem meets_ErrorsAndLantern :
    (onErr (.memory 6)).subj.err = .memory 6 ∧ ((onErr (.table cell0 3)).site (.tile 0)).part = some 0
    ∧ tget ((onErr (.frame 0 0 1 0)).site (.tile 0)).frames 0 = some frame0 ∧ (tget frame0.slots 1).isSome = true
    ∧ tget ((onErr (.queue cell0 0 0)).cell cell0).queues 0 = some [k0] ∧ (onErr (.threadSlot 1 0 4)).thr? 1 = some t0
    ∧ (tget (onErr (.bivouac 0)).biv 0).map (fun b => b.site.part) = some (some 0) ∧ onReplica.coh.replicas = [((3, lineOf 6), rep0)] ∧ (tget (onErr (.memory 0)).parts 0).isSome = true
    ∧ tgetD (onErr (.memory 0)).lantern.buf 0 [] = [⟨[1, 2, 3, 4, 5, 6, 7, 8]⟩] := by decide +kernel

/-! ### Halts, pre-emption -/

def onHalt (v : Part) (b c : Nat) : State :=
  let s := owned (mapped (on t0))
  { s with subj := { a := 0, b := b, c := c }, biv := [(1, ⟨{ SiteSt.reset with part := some 0, img := some key1 }, [], [], [], [], false⟩)], images := [image1]
           parts := [(0, { v with tiles := [0, 1] })] }
theorem meets_HaltPreemptionAndResume_halt :
    (tget (onHalt Part.reset 0 0).parts 0).isSome = true ∧ Part.reset.halted = false
    ∧ (let v : Part := { Part.reset with halted := true, stopping := [1] }
       v.stop2 = 0 ∧ 1 ∈ v.stopping ∧ (onHalt v 1 0).engineReady 0 1 v.stopping (fun x => ((onHalt v 1 0).site x).part == some 0) = true)
    ∧ (let v : Part := { Part.reset with halted := true }
       v.stopping = [] ∧ v.haltAt ≤ (onHalt v 0 0).cycle) := by decide +kernel
/-- A chunk of tile 0's copy engine is in flight. -/
theorem meets_EngineNotReady :
    let v : Part := { Part.reset with halted := true, stopping := [1280] }
    let c : Copy := { copy0 false with parsed := some descZero, flight := [⟨0, [(.mem 0 0, [1])], 0⟩] }
    let s := { onHalt v 1280 0 with sites := [(.tile 0, { SiteSt.reset with part := some 0, copies := [(0, c)] })] }
    1280 ∈ v.stopping ∧ s.engineReady 0 1280 v.stopping (fun x => (s.site x).part == some 0) = false := by decide +kernel
def running : State := { onHalt { Part.reset with regions := [(0, rootRegion 2 4 2 4)] } 0 0 with sites := [(.tile 0, { SiteSt.reset with part := some 0, img := some key1, valid := true })], launches := [(4, { lch .run with region := 0 })], threads := [(1, { t0 with inv := 4 })] }
theorem meets_HaltPreemptionAndResume_preempt :
    (tget running.parts 0).isSome = true ∧ running.tileRuns 0 0 (running.runningOf 0 [0]) = true ∧ tget running.biv 0 = none
    ∧ ((running.part 0).tiles.filter (fun n => running.tileRuns 0 n (running.runningOf 0 [7]))) = []
    ∧ (let q : Preempt := ⟨1, [0], [0], [], [0], false⟩
       let s := onHalt { Part.reset with preempt := q } 0 1
       0 ∈ q.toStop ∧ s.engineReady 0 0 q.toStop (fun x => q.covers (engOf x)) = true ∧ (s.site (.tile 0)).colq = [])
    ∧ (let s := onHalt { Part.reset with preempt := ⟨1, [0], [0], [], [], false⟩ } 0 0
       (s.part 0).preempt.st = 1 ∧ (s.part 0).preempt.toStop = [] ∧ s.scr = [])
    ∧ (let q : Preempt := ⟨2, [0], [0], [], [], false⟩
       let s := { onHalt { Part.reset with preempt := q } 0 0 with fabric := [{ k0 with dst := .tile 0 }] }
       (∃ k ∈ s.fabric, s.lands k = true ∧ ∃ n ∈ q.tiles, k.dst = .tile n) ∧ (∀ k ∈ ({ s with fabric := [] } : State).fabric, ∀ n ∈ q.tiles, k.dst ≠ .tile n))
    ∧ (let q : Preempt := ⟨3, [0], [1], [], [], false⟩
       let s := { onHalt { Part.reset with preempt := q } 0 0 with sites := [(.tile 1, { SiteSt.reset with part := some 0 })] }
       q.st = 3 ∧ 0 ∈ q.regions ∧ (∀ n ∈ q.tiles, s.freeTile 0 n = true) ∧ ({ s with sites := [] } : State).freeTile 0 1 = false
         ∧ (tget s.biv 1).map (fun b => b.site.img) = some (some key1) ∧ s.image? key1 = some image1)
    ∧ (let q : Preempt := ⟨4, [0], [1], [], [], false⟩
       let s := onHalt { Part.reset with preempt := q } 0 0
       q.elems = [] ∧ (s.part 0).kept = [] ∧ s.accs = [] ∧ (tget s.biv 1).map (fun b => b.threads) = some [])
    ∧ (let t := waits (.counters 0 0 0 0) (some 5) .wait 7
       let s := { onHalt Part.reset 0 0 with threads := [], biv := [(1, ⟨SiteSt.reset, [], [(1, t)], [], [], false⟩)] }
       s.thr? 1 = none ∧ t.ending = false ∧ t.stat = .wait ∧ (t.wait.bind (fun w => w.deadline)) = some 5) := by decide +kernel

/-! ### Reltin and the module -/

def flt (kind dst : Nat) (w : Word) : Flit := ⟨kind, 0, dst, 3, w, 0, List.replicate 144 255, 7⟩
def onIo (f : Flit) (b : Nat) (up : Bool) : State :=
  let s := onAcc (ac (.ld false) .remote)
  { s with subj := { a := 6, b := b }, io := { s.io with flits := [(6, f)], booted := up, recovery := !up, ports := [(2, 5)], remote := [(0, (5, 0))] }
           parts := s.parts.map (fun e => (e.1, { e.2 with expBase := 0, expSize := 65536, mem := [(0, 0, 2 ^ 49)] })) }
theorem meets_FlitsHandled :
    (∀ f ∈ [flt 9 0 0, flt 0 3 0, flt 0 2 0, flt 8 0 0, flt 1 0 1, flt 1 0 7], (onIo f 0 true).flit? 6 = some f.fit ∧ (onIo f 0 true).flitWaits 6 f.fit = false)
    ∧ tget (onIo (flt 0 3 0) 0 true).io.ports 3 = none ∧ tget (onIo (flt 0 2 0) 0 true).io.ports 2 = some 5 ∧ (flt 8 0 0).dst = (onIo (flt 8 0 0) 0 true).io.node
    ∧ (onIo (flt 0 2 0) 0 true).io.booted = true ∧ (onIo (flt 0 2 0) 0 true).io.recovery = false
    ∧ (onIo (flt 0 2 0) 0 false).io.recovery = true ∧ (onIo (flt 0 2 0) 0 false).flit? 6 = some (flt 0 2 0).fit ∧ (flt 0 2 0).dst ≠ (onIo (flt 0 2 0) 0 false).io.node
    ∧ (onIo (flt 1 0 2) 0 false).io.recovery = true
    ∧ (onIo (flt 2 0 0) 0 true).exported 0 0 128 = some 0 ∧ (onIo (flt 2 0 0) 0 true).exported 9 0 128 = none
    ∧ (onIo (flt 2 0 0) 0 true).switching 0 = false ∧ (onIo (flt 2 0 0) 0 true).badAt 0 128 = false
    ∧ ({ onIo (flt 2 0 0) 0 true with memBad := [5] } : State).badAt 0 128 = true
    ∧ (let s := onIo (flt 2 0 0) 0 true
       ({ s with coh := { s.coh with switch := some ⟨1⟩ } } : State).switching 0 = true)
    ∧ (onIo (flt 4 0 0) 1 true).subj.b ≠ 0 ∧ (onIo (flt 4 0 0) 1 true).coh.colls = []
    ∧ atKindOf (fld (flt 5 0 0).word 8 8) 0 = none ∧ atKindOf (fld (0xB000 : Word) 8 8) (fld (0xB000 : Word) 16 4) = some .add
    ∧ tget (onIo (flt 3 0 0) 0 true).io.remote 0 = some (5, 0) ∧ tget (onIo (flt 3 0 1) 0 true).io.remote 1 = none
    ∧ ((onIo (flt 3 0 0) 0 true).acc? 5).isSome = true ∧ (ac (.ld false) .remote).lane? 0 = some (ln .remote)
    ∧ bit (flt 3 0 256).word 8 = true ∧ fld (flt 6 0 256).word 8 3 ≠ 0 ∧ (onIo (flt 7 0 0) 0 true).io.grandmaster = none
    ∧ tget (onIo (flt 8 0 0) 0 true).parts 0 ≠ none ∧ tget ({ onIo (flt 8 0 0) 0 true with parts := [] } : State).parts 0 = none := by decide +kernel

/-- A record that creates partition 2 with tile 0, from the record's zeros else. -/
theorem meets_ManagementCommands :
    (∀ k ∈ [1, 2, 3, 4, 5, 6, 7], (onIo (flt 1 0 (w32 k)) 0 true).flit? 6 = some (flt 1 0 (w32 k)).fit)
    ∧ (tget (onIo (flt 1 0 1) 0 true).parts 0).isSome = true ∧ (onIo (flt 1 0 1) 0 true).io.identity = true
    ∧ (onIo (flt 1 0 5) 0 true).io.life = .production ∧ creationOk (flt 1 0 5).payload = false
    ∧ (let f : Flit := { flt 1 0 6 with payload := leBytes 4 0 ++ leBytes 4 0xA00 ++ leBytes 8 7 }
       let s := onIo f 0 true
       let c := sysCw (leNat (f.payload.take 1) % 16) (w32 (leNat ((f.payload.drop 4).take 4)))
       (s.dropFlit 6).cwWrites c = true ∧ cwWriter c.n ≠ 1 ∧ (tget s.parts c.part).isSome = true)
    ∧ (let f : Flit := { flt 1 0 7 with payload := leBytes 4 0 }
       (tget (onIo f 0 true).parts (leNat (f.payload.take 1) % 16)).isSome = true ∧ Memory.wf (onIo f 0 true).mem = true) := by decide +kernel

def onSyr (m : Matcher) : State := { onQ t0 (queueMem 0 1) with subj := { a := 3, b := 7 }, io := { Io.reset with matchers := [(3, m)] } }
theorem meets_BootLifeAndSyrad :
    (onIo (flt 1 0 8) 0 true).flit? 6 ≠ none ∧ [LifeCycle.manufacturing, .provisioned, .production, .returned, .decommissioned][LifeCycle.production.code + 1]? = some .returned
    ∧ (on t0).dieUsed 0 = true ∧ (on t0).dieUsed 7 = false
    ∧ (let m : Matcher := { Matcher.reset with waiting := [(4, 9)], regs := [(4, 0)] }
       let r := ((onSyr m).matcher 3).refill
       r.waiting.find? (fun e => r.regs.any (fun q => q.1 == e.1)) = some (4, 9) ∧ r.regs.find? (fun q => q.1 == 4) = some (4, 0))
    ∧ (let m : Matcher := { Matcher.reset with waiting := [(4, 9)] }
       ∀ e ∈ ((onSyr m).matcher 3).refill.waiting, ∀ r ∈ ((onSyr m).matcher 3).refill.regs, r.1 ≠ e.1)
    ∧ (let m : Matcher := { Matcher.reset with service := some (0, 0) }
       ((onSyr m).matcher 3).service = some (0, 0) ∧ (match (onSyr m).qPop 0 (.syrad 3) 0 1 with | .done _ _ => true | _ => false) = true) := by
  decide +kernel

/-! ### Further clauses of the statements above -/

/-- A source that a load is still to fill, a `call` that names it, and each counter at its limit. -/
theorem meets_HeldSources :
    (∀ i ∈ [Instr.add (fs 0), .add ⟨.call, .b, .a, .none, .none, 0⟩], i.opcode? = some 0x10 ∧ (on tPend).thr? 1 = some tPend)
    ∧ fieldsOk 0x10 (fs 0) = true ∧ fieldsOk 0x10 ⟨.call, .b, .a, .none, .none, 0⟩ = true ∧ selReg .a = some .a ∧ (Reg.a, 5) ∈ tPend.pend
    ∧ (let t : Thread := { t0 with nld := 255, nst := 255, ncp := 255 }
       (on t).curUid = some 1 ∧ (on t).thr? 1 = some t ∧ t.selLanes ≠ [] ∧ isTile t.src.site = true ∧ (t.a0 (fs 0)).pois = false ∧ (t.b0 (fs 0)).pois = false
         ∧ (∀ op ∈ [0xA0, 0xA2, 0xA1, 0xA3, 0xC0, 0xC1, 0xEC], fieldsOk op (fs 0) = true) ∧ bit (fs 0x40).lit 6 = true ∧ bit (fs 0x40).lit 10 = false
         ∧ fieldsOk 0xC6 (fs 0x40) = true)
    ∧ (let t : Thread := { tMx 40 1 with nmx := 255 }
       fieldsOk 0xD6 (fs 0) = true ∧ t.queuesMx (fs 0) 0xD6 = true ∧ (on t).thr? 1 = some t) := by decide +kernel

/-- GATE before and at its time and at its mailbox, FWAIT of an entry that is done and of one that is not, a wait behind an older one. -/
def onGate (w : WaitKind) (fr : List Nat) : State :=
  let t := waits w (some 0) .wait 0x0E
  { onFrame t { frame0 with present := fr } with subj := { a := 1 }, cells := [(cell0, { Cell.reset with last := some 9, fences := [(0, fence0 (some 1))] })] }
theorem meets_LaterGatesAndFences :
    Waiting (onGate (.time 0) []) 1 (waits (.time 0) (some 0) .wait 0x0E) ⟨.time 0, some 0, fs 0, 0x0E⟩ .wait
    ∧ (onGate (.time 0) []).idleSite (.tile 0) = false ∧ 0 ≤ (w32 (onGate (.time 0) []).tod - 0).toInt ∧ (w32 (onGate (.time 5) []).tod - 5).toInt < 0
    ∧ Waiting (onGate .mailbox [1]) 1 (waits .mailbox (some 0) .wait 0x0E) ⟨.mailbox, some 0, fs 0, 0x0E⟩ .wait
    ∧ (∀ l ∈ [[1], []], (onGate .mailbox l).frameFor (waits .mailbox (some 0) .wait 0x0E) 0 = .ok { frame0 with present := l })
    ∧ Waiting (onGate (.fence 0) []) 1 (waits (.fence 0) (some 0) .wait 0x0E) ⟨.fence 0, some 0, fs 0, 0x0E⟩ .wait
    ∧ tget ((onGate (.fence 0) []).cell cell0).fences 0 = some (fence0 (some 1)) ∧ (onGate (.fence 0) []).fenceDone (.tile 0) (fence0 (some 1)) = true
    ∧ ({ onGate (.fence 0) [] with accs := [(5, ac (.ld false) .todo)] } : State).fenceDone (.tile 0) (fence0 (some 1)) = false
    ∧ (let t := waits (.sem 0 0) none .wait 8
       let s : State := { onWait { t with susp := 4 } with threads := [(1, { t with susp := 4 }), (2, t)] }
       s.semFirst (.tile 0) 0 4 1 = false)
    ∧ 0 ≤ (onGate .mailbox []).work 0 :=
  ⟨waiting_at rfl rfl rfl rfl rfl, by decide +kernel, by decide +kernel, by decide +kernel, waiting_at rfl rfl rfl rfl rfl, by decide +kernel,
   waiting_at rfl rfl rfl rfl rfl, by decide +kernel, by decide +kernel, by decide +kernel, by decide +kernel, by decide +kernel⟩

/-- A wait at a package queue, with the queue empty, full and not live. -/
def onLater (w : WaitKind) (m : List Host.Cell) : State :=
  { onQ (waits w (some 0) .wait 0xC8) m with subj := { a := 1 }, cells := [(cell0, { Cell.reset with last := some 9 })] }
theorem meets_LaterQueueWaits :
    (∀ w ∈ [WaitKind.push 0 [7] false, .pop 0, .killed true], Waiting (onLater w []) 1 (waits w (some 0) .wait 0xC8) ⟨w, some 0, fs 0, 0xC8⟩ .wait)
    ∧ (∀ m ∈ [queueMem 0 0, queueMem 0 16, []], (onLater (.pop 0) m).hwXlate 0 (.tile 0) 0 true = some 0 ∧ (onLater (.pop 0) m).served 0 = true
        ∧ (onLater (.pop 0) m).pkgQueueHeld 0 (.tile 0) 0 1 = false ∧ (onLater (.pop 0) m).served 0x1000 = true)
    ∧ 3 ≤ (qdescAt (queueMem 0 0) 0).free ∧ (qdescAt (queueMem 0 16) 0).free < 3 ∧ 1 ≤ (qdescAt (queueMem 0 16) 0).used ∧ (qdescAt (queueMem 0 0) 0).used < 1
    ∧ (qdescAt [] 0).state ≠ 1 ∧ (onLater (.pop 0) []).hwXlate 0 (.tile 0) 0x1000 true = some 0x1000
    ∧ (waits (.pop 0) (some 0) .wait 0xC8).selLanes ≠ [] := by
  refine ⟨?_, by decide +kernel⟩
  intro w h
  simp only [List.mem_cons, List.not_mem_nil, or_false] at h
  rcases h with rfl | rfl | rfl <;> exact waiting_at rfl rfl rfl rfl rfl

/-- A fill behind an earlier one of its line; an eviction while another fill flies. -/
theorem meets_FillsInOrder :
    (let s : State := { onReplica with coh := { onReplica.coh with fills := [(2, fill0 false), (3, fill0 false)] }, subj := { a := 3 } }
     tget s.coh.fills s.subj.a = some (fill0 false) ∧ ∃ e ∈ s.coh.fills, e.1 < s.subj.a ∧ e.2.die = (fill0 false).die ∧ e.2.line = (fill0 false).line)
    ∧ (let s : State := { onReplica with coh := { onReplica.coh with fills := [(4, fill0 false)] }, subj := { a := 3, b := 0 } }
       tget s.coh.replicas (s.subj.a, s.subj.b) = some rep0 ∧ tget s.coh.lines s.subj.b = some line2
         ∧ ∃ e ∈ s.coh.fills, e.2.die = s.subj.a ∧ e.2.line = s.subj.b ∧ e.2.discard = false) := by decide +kernel

/-- A region read often from die 1, one whose replicas on die 2 collapse often, and one that keeps its degree. -/
def onRegion (r : RegEnt) : State :=
  let s := onReplica
  { s with subj := { a := 0, b := 0 }, coh := { s.coh with regs := [((0, 0), r)], doms := [(0, ⟨0, 2 ^ 49, 1, []⟩), (16, ⟨0, 2 ^ 49, 1, []⟩), (32, ⟨0, 2 ^ 49, 1, []⟩)] } }
theorem meets_RegionWindow :
    (let r : RegEnt := { RegEnt.reset with reads := [(1, 64), (2, 100)], holders := [2], degree := 1 }
     let s := onRegion r
     tget s.coh.regs (0, 0) = some r ∧ r.pinned = false ∧ (s.coh.regs.map (fun e => e.1)).Nodup ∧ s.subj.b ≤ s.cycle
       ∧ (s.candDies 0 0).filter (fun d => decide (64 ≤ tgetD r.reads d 0)) = [1, 2]
       ∧ ¬(2 = 1) ∧ 8 * r.colls ≤ (r.reads.map (fun e => e.2)).foldl (· + ·) 0)
    ∧ (let r : RegEnt := { RegEnt.reset with reads := [(2, 3)], holders := [2], degree := 1, colls := 9 }
       let s := onRegion r
       tget s.coh.regs (0, 0) = some r ∧ 0 < r.degree ∧ (r.reads.map (fun e => e.2)).foldl (· + ·) 0 < 2 * r.colls
         ∧ (s.candDies 0 0).filter (fun d => decide (64 ≤ tgetD r.reads d 0)) = [] ∧ (0, line2) ∈ s.coh.lines ∧ 2 ∈ line2.holders)
    ∧ (let r : RegEnt := { RegEnt.reset with reads := [(2, 3)], holders := [2], degree := 1, colls := 1 }
       tget (onRegion r).coh.regs (0, 0) = some r ∧ ¬(r.reads.map (fun e => e.2)).foldl (· + ·) 0 < 2 * r.colls) := by decide +kernel

/-- A poisoned operand of LDMC, LDC and CHNCLS; a close of a chain that is already closing. -/
theorem meets_PoisonedAndClosing :
    (RunsAt (mapped (on tbad)) tbad (fs 0x80) { opc := 0xA5, ctr := some .ld } ∧ (tbad.a0 (fs 0x80)).pois = true)
    ∧ (let t : Thread := thr cell0 (ok 1) .bad (ok 2)
       RunsAt (mapped (on t)) t (fs 0) { opc := 0xA2, ctr := some .ld } ∧ (t.b0 (fs 0)).pois = true)
    ∧ (let c : Chain := { chain0 8 [] with closing := some (6, 0, .tile 0, 0, true) }
       let s : State := { onChain c (cref 0 254 1) with threads := [(1, tt 256 0 0)] }
       RunsAt s (tt 256 0 0) (fs 0) { opc := 0xA8 } ∧ s.chainOf 0 256 = some (0, c) ∧ s.closing 0 256 c = true)
    ∧ (let t : Thread := thr cell0 (ok 256) .bad (ok 2)
       let s : State := { onChain (chain0 8 []) (cref 0 254 1) with threads := [(1, t)] }
       RunsAt s t (fs 0) { opc := 0xA8 } ∧ (t.b0 (fs 0)).pois = true ∧ s.chainOf 0 (t.a0 (fs 0)).w = some (0, chain0 8 [])) := by
  and_intros <;> first | exact runsAt (fs_quiet _) (by decide +kernel) | decide +kernel

/-- QPUSH and QPOP: a queue that is not live, not mapped, held, too small, full with a wait of 0; a poisoned lane; an unperformed release. -/
theorem meets_QueueFailures :
    (RunsAt (onQ t0 []) t0 (fs 0) { opc := 0xC8 } ∧ (qdescAt (onQ t0 []).mem 0).state ≠ 1 ∧ (onQ t0 []).hwXlate 0 (.tile 0) 0 true = some 0)
    ∧ (RunsAt (on t0) t0 (fs 0) { opc := 0xC8 } ∧ (on t0).hwXlate 0 (.tile 0) 0 true = none ∧ (on t0).pkgQueueHeld 0 (.tile 0) 0 1 = false)
    ∧ (let s := onQ t0 (queueMem 0 0)
       ({ s with coh := { s.coh with switch := some ⟨1⟩ } } : State).pkgQueueHeld 0 (.tile 0) 0 1 = true)
    ∧ (RunsAt (onQ tbad (queueMem 0 0)) tbad (fs 0) { opc := 0xC8 } ∧ tbad.selLanes.filter (fun l => (tbad.aW (fs 0) l).pois) = [0]
       ∧ 1 + 2 ≤ 2 ^ (qdescAt (queueMem 0 0) 0).m)
    ∧ (let s : State := { onQ t0 (queueMem 0 0) with accs := [(5, ac .st .todo)] }
       RunsAt s t0 (fs 8) { opc := 0xC8 } ∧ bit (fs 8).lit 3 = true ∧ s.allDone 1 3 = false)
    ∧ (let t := tt 3 0 9
       RunsAt (onQ t (queueMem 0 16)) t (fs 0) { opc := 0xC8 } ∧ (qdescAt (queueMem 0 16) 0).free < 3 ∧ (t.b0 (fs 0)).w = 0)
    ∧ (let t := tt 0 0 9
       RunsAt (onQ t (queueMem 0 0)) t (fs 0) { opc := 0xC9, b := false } ∧ (qdescAt (queueMem 0 0) 0).used < 1 ∧ (t.a0 (fs 0)).w = 0)
    ∧ (RunsAt (onQ t0 []) t0 (fs 0) { opc := 0xC9, b := false } ∧ RunsAt (on t0) t0 (fs 0) { opc := 0xC9, b := false })
    ∧ (RunsAt onOdd t0 (fs 0) { opc := 0xC9, b := false } ∧ RunsAt onOdd t0 (fs 0) { opc := 0xCA, a := false, b := false }
       ∧ RunsAt (on t0) t0 (fs 0) { opc := 0xCA, a := false, b := false } ∧ (on t0).pkgQueueHeld 0 (.tile 0) 0 0 = false) := by
  and_intros <;> first | exact runsAt (fs_quiet _) (by decide +kernel) | decide +kernel
/-- 15 lanes and the last two entries do not fit a queue of 16. -/
def wide : Thread := { t0 with lanes := List.replicate 15 (lane (ok 1) (ok 2) (ok 3)) }
theorem meets_QueueTooSmall : RunsAt (onQ wide (queueMem 0 0)) wide (fs 0) { opc := 0xC8 } ∧ RunsAt (onQ wide (queueMem 0 0)) wide (fs 0) { opc := 0xC9, b := false }
    ∧ wide.selLanes.length = 15 ∧ 2 ^ (qdescAt (queueMem 0 0) 0).m < 15 + 2 := by
  and_intros <;> first | exact runsAt (fs_quiet _) (by decide +kernel) | decide +kernel
/-- A firmware cell adds to a tile's semaphore; an entry of the partition's own engines waits for the wake of a core. -/
theorem meets_FirmwareReaches : (on t0).reaches sysPart (.tile 5) = true ∧ (on t0).reaches 0 (.tile 5) = false ∧ (on t0).reaches 0 (.tile 1) = true := by decide +kernel

/-- CPCNL of a chain that a fault has stopped, with a copy that still runs and with none. -/
theorem meets_StoppedChain :
    (let s := onEng (tt 0x40000000 0 0) [(0, copy0 false)] [(0, chain1 true)]
     RunsAt s (tt 0x40000000 0 0) (fs 0) { opc := 0xC2, b := false } ∧ (chain1 true).stopped = true
       ∧ ∃ k ∈ (chain1 true).copies, ∃ y, tget (s.site (.tile 0)).copies k = some y ∧ y.cancelled = false ∧ y.failed = false)
    ∧ (let s := onEng (tt 0x40000000 0 0) [(0, copy0 true)] [(0, chain1 true)]
       RunsAt s (tt 0x40000000 0 0) (fs 0) { opc := 0xC2, b := false } ∧ tget (s.site (.tile 0)).copies 0 = some (copy0 true) ∧ (copy0 true).cancelled = true)
    ∧ (RunsAt (onEng t0 [(0, copy0 false)] []) t0 (fs 0) { opc := 0xC0, b := false, ctr := some .cp } ∧ tget ((onEng t0 [(0, copy0 false)] []).site (.tile 0)).copies 1 = none
       ∧ ∀ j, j < 1 → (tget ((onEng t0 [(0, copy0 false)] []).site (.tile 0)).copies j).isSome = true) := by
  and_intros <;> first
    | exact runsAt (fs_quiet _) (by decide +kernel)
    | decide +kernel

/-- A chunk whose fill is not yet written, and one that is. -/
theorem meets_ChunkWaitsForFill :
    let k : Chunk := ⟨7, [(.mem 0 0, [1])], 5⟩
    let c : Copy := { copy0 false with parsed := some descZero, next := 1, flight := [k] }
    let s := onCopy c 1 7
    c.flight.find? (fun k => k.idx = 7) = some k ∧ k.fill ≠ 0 ∧ (∀ e ∈ s.coh.fills, e.2.acc ≠ k.fill) ∧ c.refused = none ∧ c.sent = []
    ∧ (let s : State := { s with coh := { s.coh with fills := [(3, { fill0 false with acc := 5 })] } }
       s.copy? (.tile 0) 0 = some c ∧ ∃ e ∈ s.coh.fills, e.2.acc = k.fill)
    ∧ s.queuesIn s.mem (lineOf 0) = [] := by decide +kernel

/-- The flits of a packet for a queue that is not live; one of a packet that is not complete. -/
theorem meets_FlitsOfDeadQueue :
    (tgetD ((onFlit (cmdFlit 3 (pkt1 1)) 0).part 0).queues 3 HostQ.reset).live = false ∧ fld (3 : Word) 0 3 = 3 ∧ bit (3 : Word) 16 = false
    ∧ (tgetD ((onFlit (cmdFlit 7 (pkt1 1)) 0).part 0).queues 7 HostQ.reset).live = true ∧ fld (7 : Word) 11 5 = 0 ∧ bit (7 : Word) 16 = false
    ∧ (let w := w32 (7 + 9 * 2 ^ 3 + 2 ^ 11 + 2 ^ 16)
       bit w 16 = true ∧ fld w 11 5 = 1 ∧ (onFlit (cmdFlit w [1]) 0).io.packets.find? (fun m => m.part == 0 && m.src == 3 && m.tag == fld w 3 8) = none) := by
  decide +kernel

/-- Records: under policy 1, at a base whose entry is no aperture, with no die lost. -/
theorem meets_RecordPolicy :
    let s : State := { on t0 with parts := [(0, { Part.reset with domains := [(0, ⟨false, true, 0⟩)] })] }
    (tgetD (s.part 0).domains ((s.part 0).domOf 0) ⟨false, false, 0⟩).policy = true ∧ s.coh.lost = [] ∧ s.coh.switch = none
    ∧ isAperture (((s.part 0).tqBase.toNat + 64 * ((s.part 0).tqTail.toNat % 256)) % 2 ^ 51) = false ∧ (s.part 0).heldRecs = [] := by decide +kernel
/-- A frame with a token of the fenced domain; a running MZERO of it. -/
theorem meets_FenceLeavesNothing :
    (let w : Frame := ⟨0, 1, false, [(2, [ok 4])], [2], [(2, tok 0 1 2)], 0, 0, 0⟩
     tget ((onFrame t0 w).site (.tile 0)).frames 0 = some w ∧ (2, tok 0 1 2) ∈ w.toks ∧ (tok 0 1 2).part = 0)
    ∧ (let m := mx0 0xD6 3 0 1 false
       tget (onMx [] (some m)).elems 0 = some { Elem.reset with queue := [], running := some m } ∧ m.op ∉ [0xD0, 0xD7, 0xD8] ∧ m.who.part = 0
         ∧ 3 ≤ 3 ∧ 3 < 3 + fld m.b 0 10) := by decide +kernel

/-- A held record that stands behind an older one. -/
theorem meets_HeldBehind :
    let h : HeldRec := ⟨0x10, 3, 0, 0, [], .loop 1, 0, false⟩
    let s : State := { on t0 with parts := [(0, { Part.reset with tqTail := 247, heldRecs := [(2, h), (3, h)] })], subj := { a := 0, b := 3 } }
    (s.part 0).heldRecs.filter (fun e => !e.2.written) = [(2, h), (3, h)] ∧ ((s.part 0).tqTail - (s.part 0).tqHead).toNat = 247 ∧ tget (s.part 0).heldRecs 3 = some h
    ∧ (let s : State := { on t0 with parts := [(0, { Part.reset with tqTail := 248, heldRecs := [(3, h)] })] }
       248 ≤ ((s.part 0).tqTail - (s.part 0).tqHead).toNat) := by decide +kernel

/-- Lantern, first-level and thread-slot premises. -/
theorem meets_ErrorPremises :
    (onErr (.memory 0)).coh.lost = [] ∧ (onErr (.memory 0)).coh.switch = none ∧ tgetD (onErr (.memory 0)).lantern.buf 0 [] ≠ []
    ∧ isAperture (((onErr (.memory 0)).lantern.base.toNat / 2 ^ 16 * 2 ^ 16 + (onErr (.memory 0)).lantern.wr.toNat % 2 ^ 16) % 2 ^ 51) = false
    ∧ (onErr (.l1 0 6)).subj.err = .l1 0 6 ∧ (onErr (.threadSlot 1 0 4)).subj.err = .threadSlot 1 0 4
    ∧ ({ onReplica with subj := { err := .replica 3 6 } } : State).subj.err = .replica 3 6 := by decide +kernel

/-- A token that lands and one that its entry's queue holds; a launch that could be placed before a resume. -/
theorem meets_LandsAndPlace :
    (onTok SiteSt.reset Cell.reset [k0]).lands k0 = true
    ∧ (let s := onTok { SiteSt.reset with ingress := List.replicate 56 { k0 with id := 9 } } Cell.reset [k0]
       s.lands k0 = false)
    ∧ (onL (lch .place) [image1] []).placeWaits 0 [7] = true ∧ (onL (lch .place) [image1] []).placeWaits 0 [0] = false := by decide +kernel
/-- A context with one thread that awaits a reply, kept or not yet given; one that waits with a deadline. -/
theorem meets_SwapInThread :
    let t : Thread := { t0 with stat := .reply, wait := none, inv := 4 }
    let q : Preempt := ⟨4, [0], [1], [], [], false⟩
    (∀ ks ∈ [[], [(⟨.loop 1, 4, 0⟩ : KeptReply)], [⟨.loop 1, 4, 1⟩]],
      let s := { onHalt { Part.reset with preempt := q, kept := ks } 0 0 with
        threads := [], biv := [(0, ⟨{ SiteSt.reset with part := some 0 }, [], [(1, t)], [4], [], false⟩)] }
      (s.part 0).preempt.st = 4 ∧ (s.part 0).halted = false ∧ (s.part 0).kept = ks ∧ s.accs = [] ∧ (tget s.biv 0).map (fun b => (b.threads, b.invs)) = some ([(1, t)], [4])
        ∧ s.thr? 1 = none ∧ t.src.site = .tile 0 ∧ t.ending = false) := by decide +kernel

/-- A descriptor of one level in a format and filter; a sample record at 0.25, 0.75. -/
def texDesc0 (fmt : Nat) : TexDesc := { texDesc (List.replicate 64 0) with fmt := fmt }
def quarter : PWord := ok 0x3E800000
def rec7 : List PWord := [quarter, ok 0x3F400000, ok 0, ok 0, ok 0, ok 0, ok 0]
theorem meets_TextureClauses :
    (rf rec7 0).finite = true ∧ (rf rec7 1).finite = true ∧ (texDesc0 0).fmt ≤ 10 ∧ rec7.length < 13
    ∧ (∃ q, (rf rec7 0).rat = some q) ∧ (FV.fin false 1 0).rat = some 1 ∧ (0 : Nat) < 1
    ∧ fld (0 : Word) 9 2 = 0 ∧ fld (0x200 : Word) 9 2 = 1 ∧ fld (0x400 : Word) 9 2 = 2 ∧ fld (4 : Word) 3 2 = 0 ∧ fld (8 : Word) 3 2 = 1
    ∧ fld (0x10 : Word) 3 2 = 2 ∧ fld (0x18 : Word) 3 2 = 3
    ∧ (lodOf (texDesc0 0) 0x418 0 rec7).du.rat.isSome = true ∧ (lodOf (texDesc0 0) 0x418 0 rec7).dv.rat.isSome = true
    ∧ (texChan 0 [1, 2, 3, 4] 0).finite = true ∧ FV.nan.isNan = true
    ∧ (fs 0x200).lit = 0x200 ∧ nearest (dieOf (.tile 0)) = memDie 0 := by
  and_intros <;> first | decide +kernel | exact ⟨_, rfl⟩

end Sys2Proof.Tests
end

section
/-! Memory (R4, R267): what a range read returns after a range write, what a masked write stores inside its range, and
that the canonical form is determined by the bytes that it reads as. -/

namespace Sys2Proof.Machine

/-! ## Reads of a range -/

@[simp] theorem rdN_length (m : List Host.Cell) (a n : Nat) : (rdN m a n).length = n := by
  induction n generalizing a with
  | zero => rfl
  | succ n ih => rw [rdN, List.length_cons, ih]

/-- A range read is its bytes. -/
theorem rdN_getElem (m : List Host.Cell) (a n i : Nat) (h : i < (rdN m a n).length) : (rdN m a n)[i] = rdB m (a + i) := by
  induction n generalizing a i with
  | zero => simp at h
  | succ n ih =>
    cases i with
    | zero => rfl
    | succ i => simp only [rdN, List.getElem_cons_succ, ih, Nat.add_assoc, Nat.add_comm 1 i]

/-- A read of the range that a write stored. -/
theorem rdN_wrN_same {m : List Host.Cell} (h : Memory.wf m = true) (a : Nat) (bs : List Byte) :
    rdN (wrN m a bs) a bs.length = bs := by
  apply List.ext_getElem
  · exact rdN_length ..
  · intro i _ hi
    rw [rdN_getElem, rdB_wrN h, if_pos ⟨Nat.le_add_right .., Nat.add_lt_add_left hi a⟩, Nat.add_sub_cancel_left,
      List.getD_eq_getElem _ _ hi]

theorem rdB_wrN_outside {m : List Host.Cell} (h : Memory.wf m = true) {a x : Nat} {bs : List Byte}
    (hx : x < a ∨ a + bs.length ≤ x) : rdB (wrN m a bs) x = rdB m x := by
  rw [rdB_wrN h, if_neg (by omega)]

/-! ## Masked writes -/

/-- Inside the range a masked write stores the bytes whose mask is set and leaves the others. -/
theorem rdB_wrMasked_inside {m : List Host.Cell} (h : Memory.wf m = true) (a i : Nat) (bs : List Byte) (ks : List Bool)
    (hl : bs.length = ks.length) (hi : i < bs.length) :
    rdB (wrMasked m a bs ks) (a + i) = if ks.getD i false then bs.getD i 0 else rdB m (a + i) := by
  induction bs generalizing m a i ks with
  | nil => simp at hi
  | cons b bs ih =>
    cases ks with
    | nil => simp at hl
    | cons k ks =>
      have hw : Memory.wf (if k then wrB m a b else m) = true := by split <;> simp [h]
      have hone : ∀ x, rdB (if k then wrB m a b else m) x = if k ∧ x = a then b else rdB m x := by
        intro x; cases k <;> simp [rdB_wrB h]
      rw [wrMasked]
      cases i with
      | zero =>
        have h0 := rdB_wrMasked_outside hw (a + 1) a bs ks (.inl (Nat.lt_succ_self a))
        simpa [hone] using h0
      | succ i =>
        have h1 := ih hw (a + 1) i ks (Nat.succ.inj hl) (Nat.lt_of_succ_lt_succ hi)
        have hne : ¬(k = true ∧ a + (i + 1) = a) := by omega
        rw [Nat.add_assoc, Nat.add_comm 1 i, hone, if_neg hne] at h1
        rw [h1, List.getD_cons_succ, List.getD_cons_succ]

/-! ## The canonical form -/

/-- The first entry of a canonical memory reads as its byte, which is not the default. -/
theorem rdB_head_ne_default {lo : Option Nat} {k : Nat} {b : Byte} {m : List Host.Cell}
    (h : Memory.wfFrom lo ((k, b) :: m) = true) : rdB ((k, b) :: m) k ≠ memDefault := by
  simp [Memory.wfFrom] at h
  simpa [rdB] using h.1.2

/-- Below the first entry of a memory every byte reads as the default. -/
theorem rdB_lt_head {k a : Nat} {b : Byte} {m : List Host.Cell} (h : a < k) : rdB ((k, b) :: m) a = memDefault := by
  rw [rdB, if_neg (by omega), if_pos h]

/-- Memories above one bound in the canonical form that read alike are equal. -/
theorem Memory.ext_from {lo : Option Nat} {m m' : List Host.Cell} (h : Memory.wfFrom lo m = true)
    (h' : Memory.wfFrom lo m' = true) (hr : ∀ a, rdB m a = rdB m' a) : m = m' := by
  induction m generalizing lo m' with
  | nil =>
    cases m' with
    | nil => rfl
    | cons e m' => exact absurd (hr e.1).symm (rdB_head_ne_default h')
  | cons e m ih =>
    obtain ⟨k, b⟩ := e
    cases m' with
    | nil => exact absurd (hr k) (rdB_head_ne_default h)
    | cons e' m' =>
      obtain ⟨k', b'⟩ := e'
      rcases Nat.lt_trichotomy k k' with hk | rfl | hk
      · exact absurd ((hr k).trans (rdB_lt_head hk)) (rdB_head_ne_default h)
      · have ht : Memory.wfFrom (some k) m = true := by simp [Memory.wfFrom] at h; exact h.2
        have ht' : Memory.wfFrom (some k) m' = true := by simp [Memory.wfFrom] at h'; exact h'.2
        have hb : b = b' := by simpa [rdB] using hr k
        have hm : m = m' := by
          refine ih ht ht' (fun a => ?_)
          rcases Nat.lt_or_ge k a with ha | ha
          · simpa [rdB, Nat.ne_of_lt ha, Nat.lt_asymm ha] using hr a
          · rw [rdB_below m k a ht ha, rdB_below m' k a ht' ha]
        rw [hb, hm]
      · exact absurd ((hr k').symm.trans (rdB_lt_head hk)) (rdB_head_ne_default h')

/-- Settles O2: the byte-level laws of `rdB` after each kind of write, and extensionality of the canonical form. -/
theorem memoryReadsBack : Obligations.MemoryReadsBack := by
  intro m h
  refine ⟨fun a b => ⟨wrB_wf h a b, fun x => rdB_wrB h a x b⟩, fun a bs => ?_, fun a bs ks hl => ?_, fun m' h' hr => ?_⟩
  · exact ⟨wrN_wf h a bs, rdN_wrN_same h a bs, fun x hx => rdB_wrN_outside h hx⟩
  · exact ⟨wrMasked_wf h a bs ks, fun i hi => rdB_wrMasked_inside h a i bs ks hl hi, fun x hx => rdB_wrMasked_outside h a x bs ks hx⟩
  · exact Memory.ext_from h h' hr

end Sys2Proof.Machine
end

section
/-! Control words (R6, R7, R377 to R379, R434): what CWGET and CWSET do in each of their cases, how the event of a word
ends the instruction that waits for it, and what a plain write leaves in a partition's words. -/

namespace Sys2Proof.Machine

/-! ## Updates of control words leave the threads -/

@[simp] theorem State.cwClear_threads (s : State) (n p i : Nat) : (s.cwClear n p i).threads = s.threads := by
  unfold State.cwClear; split <;> simp

@[simp] theorem State.cwPut_threads (s : State) (n p i die x : Nat) : (s.cwPut n p i die x).threads = s.threads := by
  unfold State.cwPut; split <;> simp [State.modStaged]

@[simp] theorem State.endCycle_threads (s : State) : s.endCycle.threads = s.threads := rfl

@[simp] theorem State.cwPlain_threads (s : State) (n p i die x : Nat) : (s.cwPlain n p i die x).threads = s.threads := by
  unfold State.cwPlain
  simp only
  split
  · rw [threads_foldl _ (fun s h => State.postEv_threads ..)]; simp
  · simp

@[simp] theorem State.setChain_threads (s : State) (p n : Nat) (c : Chain) : (s.setChain p n c).threads = s.threads := by
  simp [State.setChain]

@[simp] theorem State.glShare_threads (s : State) (p slice : Nat) (v : Word) : (s.glShare p slice v).threads = s.threads := by
  unfold State.glShare
  simp only
  split <;> simp

@[simp] theorem State.register_threads (s : State) (d : Nat) (r : Nat × Word) : (s.register d r).threads = s.threads := by
  unfold State.register
  simp only [State.postEv_threads, State.modMatcher_threads]
  exact threads_foldl _ (fun s e => State.modMatcher_threads ..) _ s

/-! ## Matchers -/

theorem State.modMatcher_matcher (s : State) (d e : Nat) (g : Matcher → Matcher) :
    (s.modMatcher d g).matcher e = if e = d then g (s.matcher d) else s.matcher e := tgetD_tset ..

/-- R434: a registration stands in its engine's matcher. -/
theorem State.mem_register_regs (s : State) (d : Nat) (r : Nat × Word) : r ∈ ((s.register d r).matcher d).regs := by
  have h : ∀ (s : State) (i : Instr) (x : Subj), (s.postEv i x).matcher d = s.matcher d := fun _ _ _ => rfl
  unfold State.register
  simp [h, State.modMatcher_matcher]

/-- R434: a write of a word that is no key registers nothing and is not refused. -/
theorem State.matcherSet_none {s : State} {t : Thread} {c : CwAt} {a : Word} (r : List PWord)
    (h : Config.matcherWord c.n c.i c.high a = none) : s.matcherSet t c a r = .ok s (.valP r (allP t true)) := by
  simp [State.matcherSet, h]

/-- R434: no entry of a matcher is free for a key. -/
def Matcher.fullFor (m : Matcher) (key : Nat) : Prop := 512 ≤ m.regs.length + m.waiting.length ∧ ∀ q ∈ m.regs, q.1 ≠ key

/-- R434: a write of a key registers it, or, where no entry is free for it, clears `p` and registers nothing. -/
theorem State.matcherSet_some {s : State} {t : Thread} {c : CwAt} {a : Word} (r : List PWord) {k : Nat × Word}
    (h : Config.matcherWord c.n c.i c.high a = some k) :
    ((s.matcher (dieOf t.src.site - 12)).fullFor k.1 → s.matcherSet t c a r = .ok s (.valP r (allP t false)))
    ∧ (¬(s.matcher (dieOf t.src.site - 12)).fullFor k.1 →
        s.matcherSet t c a r = .ok (s.register (dieOf t.src.site - 12) k) (.valP r (allP t true))) := by
  have hfull : ∀ (m : Matcher),
      (512 ≤ m.regs.length + m.waiting.length ∧ (!m.regs.any (fun q => q.1 == k.1)) = true) ↔ m.fullFor k.1 := by
    intro m; simp [Matcher.fullFor]
  unfold State.matcherSet
  simp only [h]
  exact ⟨fun hf => if_pos ((hfull _).2 hf), fun hf => if_neg (fun hn => hf ((hfull _).1 hn))⟩

/-! ## CWGET -/

theorem CwAt.rc_iff (c : CwAt) : c.rc = true ↔ c.n = 0x908 ∨ c.n = 0x909 ∨ c.n = 0xB04 := by
  simp [CwAt.rc, or_assoc]

/-- What each lane reads, with `p` set. -/
def cwgetEff (s : State) (t : Thread) (c : CwAt) : Eff :=
  .valP ((List.range t.width).map (fun l => .ok (s.cwRead t l c))) (allP t true)

/-- A CWGET that issues for selected lanes and names word c; an index register is not poisoned. -/
structure Gets (s : State) (u : Nat) (t : Thread) (f : Fields) (c : CwAt) : Prop where
  issues : Issues s u t f { opc := 0xF4, a := bit f.lit 25, b := false }
  lanes : t.selLanes ≠ []
  index : (bit f.lit 25 && (t.a0 f).pois) = false
  word : cwAt t f.lit (t.a0 f).w = c

section Cwget
variable {s : State} {u : Nat} {t : Thread} {f : Fields} {c : CwAt}

/-- R379: a word that the agent may read and that its read leaves. -/
theorem Gets.reads (h : Gets s u t f c) (hr : s.cwReads c = true) (hc : c.rc = false) (hs : Room s s t t f (cwgetEff s t c)) :
    Performs (.cwget f) s u f s t (cwgetEff s t c) := by
  obtain ⟨hi, hl, hx, rfl⟩ := h
  exact exec_performs rfl hi (by simp [hl, hx, hr, hc, cwgetEff]) hi.thr hi.going rfl hs

/-- R379: a read that is refused gives zero. -/
theorem Gets.refused (h : Gets s u t f c) (hr : s.cwReads c = false) (hs : Room s s t t f (.valP (t.all .zero) (allP t false))) :
    Performs (.cwget f) s u f s t (.valP (t.all .zero) (allP t false)) := by
  obtain ⟨hi, hl, hx, rfl⟩ := h
  exact exec_performs rfl hi (by simp [hl, hx, hr]) hi.thr hi.going rfl hs

/-- R6: a word that its read clears is read by an event, for which the thread waits. -/
theorem Gets.parks (h : Gets s u t f c) (hr : s.cwReads c = true) (hc : c.rc = true) {k : Thread} (hk : k = t.waiting .unit none f 0xF4)
    {b : State} (hb : b = (s.setThr u k).postEv .rcRead { a := c.part, b := c.n, c := c.i, d := u }) (hs : RoomLate s b t k f) :
    Parks (.cwget f) s u b k .column := by
  obtain ⟨hi, hl, hx, rfl⟩ := h
  subst hk hb
  exact exec_parks rfl hi (by simp [hl, hx, hr, hc, cwHold]) (thr_setThr ..) hs

end Cwget

/-! ## The end of an instruction that waits for a control word -/

/-- An event that leaves the threads ends the instruction of its thread. -/
theorem cwDone_ends {i : Instr} {s b : State} {u : Nat} {t : Thread} {w : Wait} {st : TStat} {e : Thread → Eff}
    (hx : exec i s = .next (b.cwDone u e)) (h : Waiting s u t w st) (hb : b.threads = s.threads) : Ends i s b u t w.fields (e t) := by
  have hw : Waiting b u t w st := ⟨(State.thr_congr hb u).trans h.thr, h.wait, h.stat, h.going, h.good, h.targets⟩
  have hd : b.cwDone u e = b.complete u (e t) := by unfold State.cwDone; rw [hw.thr]
  exact ⟨_, hx, hd ▸ complete_completes _ hw⟩

theorem cwSet_ends {i : Instr} {s b : State} {u : Nat} {t : Thread} {w : Wait} {st : TStat} (hx : exec i s = .next (b.cwSet u))
    (h : Waiting s u t w st) (hb : b.threads = s.threads) : Ends i s b u t w.fields (cwsetEff t w) := by
  have he := cwDone_ends hx h hb
  simp only [h.wait] at he
  exact he

/-- What a read that clears its word gives: the word before, to the lowest selected lane. -/
def rcReadEff (s : State) (t : Thread) : Eff :=
  let v := w32 (s.cwWord ⟨s.subj.b, s.subj.c, 0, s.subj.a, false, true, true⟩)
  .valP ((List.range t.width).map (fun l => if t.selLanes.head? = some l then .ok v else .zero)) (allP t true)

theorem rcRead_ends {s : State} {t : Thread} {w : Wait} (h : Waiting s s.subj.d t w .column) :
    Ends .rcRead s (s.cwClear s.subj.b s.subj.a s.subj.c) s.subj.d t w.fields (rcReadEff s t) :=
  cwDone_ends (e := rcReadEff s) rfl h (State.cwClear_threads ..)

/-! ## CWSET -/

theorem unstage_ending (t : Thread) (c : CwAt) : (t.unstage c).ending = t.ending := by
  unfold Thread.unstage; split <;> [split <;> rfl; rfl]

/-- R379: a high half joins the low half staged for its word, and uses it up. -/
theorem cwValue_staged (s : State) {t : Thread} {c : CwAt} (a : Word) {low : Word} (hh : c.high = true)
    (ht : t.staged = some ⟨c.n, c.i, c.die, low⟩) :
    s.cwValue t c a = a.toNat * 2 ^ 32 + low.toNat ∧ (t.unstage c).staged = none := by
  simp [State.cwValue, Thread.unstage, hh, ht]

/-- The state in which a base register has taken a value, and thread u is as it then goes on. -/
def State.setBase (s : State) (u : Nat) (t k : Thread) (i x : Nat) : State :=
  (s.modCell t.src (fun c => { c with bases := tset c.bases i (BitVec.ofNat 64 x) })).setThr u k

/-- A CWSET that issues for selected lanes and names word c by its number (no matcher word); its value and an index
register are not poisoned. -/
structure Sets (s : State) (u : Nat) (t : Thread) (f : Fields) (c : CwAt) : Prop where
  issues : Issues s u t f { opc := 0xF5, b := bit f.lit 25 }
  lanes : t.selLanes ≠ []
  value : (t.a0 f).pois = false
  index : (bit f.lit 25 && (t.b0 f).pois) = false
  numbered : s.matcherForm f = false
  word : cwAt t f.lit (t.b0 f).w = c

section Cwset
variable {s : State} {u : Nat} {t : Thread} {f : Fields} {c : CwAt}

/-- An instruction that issues with a legal literal issues as one whose literal is free too (R434). -/
theorem Issues.withFree {m : Form} (h : Issues s u t f m) (free : Bool) : Issues s u t f { m with free := free } :=
  ⟨h.runs, h.thr, h.legal, h.going, h.free⟩

/-- R379: a write that is refused clears `p`. -/
theorem Sets.refused (h : Sets s u t f c) (hw : s.cwWrites c = false) (hs : Room s s t t f (.valP (t.as f) (allP t false))) :
    Performs (.cwset f) s u f s t (.valP (t.as f) (allP t false)) := by
  obtain ⟨hi, hl, ha, hx, hm, rfl⟩ := h
  exact exec_performs rfl (hi.withFree _) (by simp [hl, ha, hx, hm, hw]) hi.thr hi.going rfl hs

/-- R379: the low half of a 64-bit word is staged. -/
theorem Sets.stages (h : Sets s u t f c) (hw : s.cwWrites c = true) (hd : c.wide = true) (hh : c.high = false) {k : Thread}
    (hk : k = { t with staged := some ⟨c.n, c.i, c.die, (t.a0 f).w⟩ })
    (hs : Room s (s.setThr u k) t k f (.valP (t.as f) (allP t true))) : Performs (.cwset f) s u f (s.setThr u k) k (.valP (t.as f) (allP t true)) := by
  obtain ⟨hi, hl, ha, hx, hm, rfl⟩ := h
  subst hk
  exact exec_performs rfl (hi.withFree _) (by simp [hl, ha, hx, hm, hw, hd, hh]) (thr_setThr ..) hi.going rfl hs

/-- A base register is written at once. -/
theorem Sets.base (h : Sets s u t f c) (hw : s.cwWrites c = true) (hd : c.wide = false ∨ c.high = true) (hn : c.n = 0x002) {b : State}
    (hb : b = s.setBase u t (t.unstage c) c.i (s.cwValue t c (t.a0 f).w))
    (hs : Room s b t (t.unstage c) f (.valP (t.as f) (allP t true))) :
    Performs (.cwset f) s u f b (t.unstage c) (.valP (t.as f) (allP t true)) := by
  have hnow : (c.wide && !c.high) = false := by rcases hd with hd | hd <;> simp [hd]
  obtain ⟨hi, hl, ha, hx, hm, rfl⟩ := h
  subst hb
  exact exec_performs rfl (hi.withFree _) (by simp [hl, ha, hx, hm, hw, hnow, hn, State.setBase]) (thr_setThr ..)
    ((unstage_ending ..).trans hi.going) rfl hs

/-- R379: any other word is written by its event, for which the thread waits. -/
theorem Sets.parks (h : Sets s u t f c) (hw : s.cwWrites c = true) (hd : c.wide = false ∨ c.high = true) (hn : c.n ≠ 0x002)
    {ev : Instr × Subj} (he : ev = s.cwEvent c.n c.part c.i c.die (s.cwValue t c (t.a0 f).w) u)
    {k : Thread} (hk : k = (t.unstage c).waiting .unit none f 0xF5) (hs : RoomLate s ((s.setThr u k).postEv ev.1 ev.2) t k f) :
    Parks (.cwset f) s u ((s.setThr u k).postEv ev.1 ev.2) k .column := by
  have hnow : (c.wide && !c.high) = false := by rcases hd with hd | hd <;> simp [hd]
  obtain ⟨hi, hl, ha, hx, hm, rfl⟩ := h
  subst he hk
  exact exec_parks rfl (hi.withFree _) (by simp [hl, ha, hx, hm, hw, hnow, hn, cwHold]) (thr_setThr ..) hs

/-- An instruction whose literal is free issues whatever its literal (R434). -/
theorem instr_issues_free {m : Form} {body : Nat → Thread → Body} {b : State} {e : Eff} (hc : s.curUid = some u)
    (ht : s.thr? u = some t) (hend : t.ending = false) (hbl : t.blocked f m = false) (hm : m.free = true)
    (hb : body u t = .ok b e) : s.instr f m body = .next (s.issue u f m b e) := by
  unfold State.instr
  simp [hc, ht, hend, hbl, hm, hb]

/-- R434: a CWSET of a matcher word performs what the matcher makes of it; its literal is none of R378's. -/
theorem cwset_matcher (hc : s.curUid = some u) (ht : s.thr? u = some t) (hend : t.ending = false)
    (hbl : t.blocked f { opc := 0xF5, b := bit f.lit 25 } = false) (hm : s.matcherForm f = true) (hl : t.selLanes ≠ [])
    (ha : (t.a0 f).pois = false) (hx : (bit f.lit 25 && (t.b0 f).pois) = false) {b : State} {e : Eff}
    (hb : s.matcherSet t (cwAt t f.lit (t.b0 f).w) (t.a0 f).w (t.as f) = .ok b e) (hk : b.thr? u = some t) (he : e.susp = none)
    (hs : Room s b t t f e) : Performs (.cwset f) s u f b t e :=
  ⟨_, instr_issues_free hc ht hend hbl hm (by simp [hl, ha, hx, hm, hb]), issue_completes ht hk hend he hs⟩

end Cwset

/-! ## Plain writes -/

/-- A field kept in place in a word that is wide enough for it. -/
theorem ofNat_field_toNat (x : Nat) {n lo w : Nat} (h : lo + w ≤ n) :
    (BitVec.ofNat n (nfld x lo w * 2 ^ lo)).toNat = nfld x lo w * 2 ^ lo := by
  rw [BitVec.toNat_ofNat]
  refine Nat.mod_eq_of_lt (lt_of_lt_of_le ?_ (Nat.pow_le_pow_right (by decide) h))
  rw [Nat.add_comm, Nat.pow_add]
  exact Nat.mul_lt_mul_of_pos_right (Nat.mod_lt _ (Nat.two_pow_pos w)) (Nat.two_pow_pos lo)

/-- A word that keeps every bit of its width. -/
theorem ofNat_whole_toNat (x n : Nat) : (BitVec.ofNat n x).toNat = nfld x 0 n * 2 ^ 0 := by
  simp [nfld]

/-- R7: a plain write of a partition's word keeps its writable bits, bits [lo + w - 1 : lo], and reads zero elsewhere. -/
theorem cwPart_cwPut (s : State) (v : Part) (p i x : Nat) :
    ∀ r ∈ [(0x011, 16, 48), (0x700, 0, 64), (0x704, 16, 48), (0x705, 16, 48), (0x901, 0, 64), (0x902, 0, 32), (0x907, 0, 64),
        (0xA00, 0, 32), (0xC00, 0, 64), (0xC01, 0, 17), (0xD00, 0, 64), (0xD01, 0, 64)],
      s.cwPart (v.cwPut r.1 i x) p r.1 i = nfld x r.2.1 r.2.2 * 2 ^ r.2.1 := by
  simp only [List.forall_mem_cons, List.not_mem_nil, false_imp_iff, implies_true, and_true]
  exact ⟨ofNat_field_toNat x (by decide), ofNat_whole_toNat .., ofNat_field_toNat x (by decide), ofNat_field_toNat x (by decide),
    ofNat_whole_toNat .., ofNat_whole_toNat .., ofNat_whole_toNat .., ofNat_whole_toNat .., ofNat_whole_toNat ..,
    ofNat_field_toNat x (by decide), ofNat_whole_toNat .., ofNat_whole_toNat ..⟩

/-- A write of any other word leaves the partition. -/
theorem cwPut_of_unlisted (v : Part) {n : Nat} (i x : Nat)
    (h : n ∉ [0x010, 0x011, 0x400, 0x402, 0x700, 0x704, 0x705, 0x800, 0x802, 0x900, 0x901, 0x902, 0x904, 0x905, 0x907, 0xA00, 0xC00,
      0xC01, 0xD00, 0xD01]) : v.cwPut n i x = v := by
  unfold Part.cwPut
  split <;> simp_all

/-- R134, R190: a write with the valid bit set clears an out-of-bounds word and its address. -/
theorem cwPut_clears_oob (v : Part) (i : Nat) {x : Nat} (h : nfld x 31 1 = 1) :
    v.cwPut 0x400 i x = { v with lfOob := 0, lfOobIdx := 0 } ∧ v.cwPut 0x402 i x = { v with mxOob := 0, mxOobAdr := 0 } := by
  simp [Part.cwPut, Part.clearOob, h]

/-- R6: an error count of a partition reads zero once it is cleared. -/
theorem cwWord_cwClear (s : State) (p n i : Nat) {v : Part} (hv : tget s.parts p = some v) (hn : n = 0x908 ∨ n = 0x909) :
    (s.cwClear n p i).cwWord ⟨n, i, 0, p, false, true, true⟩ = 0 := by
  rcases hn with rfl | rfl <;>
    simp [State.cwClear, State.modPart, hv, State.cwWord, State.cwPart, State.setPart_part]

/-- Settles O42, clause by clause from the cases of CWGET and CWSET, the ends of their waits and the plain writes. -/
theorem controlWordResults : Obligations.ControlWordResults := by
  refine ⟨⟨?get, ?getEnd, ?localWords, ?cleared⟩, ⟨?set, ?matcher, ?setEnd, ?plain⟩⟩
  case get =>
    intro s u t f h hl hi c clears
    have hget : Gets s u t f c := ⟨h, hl, Bool.and_eq_false_imp.2 hi, rfl⟩
    exact ⟨fun hr hc hs => hget.reads hr (Bool.eq_false_iff.2 (fun hrc => hc ((CwAt.rc_iff c).1 hrc))) hs,
      fun hr hc hs => hget.parks hr ((CwAt.rc_iff c).2 hc) rfl rfl hs, fun hr hs => hget.refused hr hs⟩
  case getEnd =>
    intro s t w h
    exact rcRead_ends h
  case localWords =>
    intro s t l c
    exact ⟨rfl, rfl, rfl, rfl, rfl⟩
  case cleared =>
    intro s p n i v hv hn
    exact cwWord_cwClear s p n i hv hn
  case set =>
    intro s u t f h hl ha hi c hm
    have hset : Sets s u t f c := ⟨h, hl, ha, Bool.and_eq_false_imp.2 hi, hm, rfl⟩
    exact ⟨fun hw hs => hset.refused hw hs, fun hw hd hh hs => hset.stages hw hd hh rfl hs,
      fun hw hd hn hs => hset.base hw hd hn rfl hs, fun hw hd hn hs => hset.parks hw hd hn rfl rfl hs,
      fun low hh ht => cwValue_staged s _ hh ht⟩
  case matcher =>
    intro s u t f hc ht hend hbl hm hl ha hi
    have thr_register : ∀ d k, (s.register d k).thr? u = some t := fun d k => (State.thr_congr (State.register_threads ..) u).trans ht
    have hperf {b : State} {e : Eff} := cwset_matcher (b := b) (e := e) hc ht hend hbl hm hl ha (Bool.and_eq_false_imp.2 hi)
    refine ⟨fun hk hs => ?_, fun k hk => ⟨fun hfull hs => ?_, fun hfull hs => ⟨?_, State.mem_register_regs ..⟩⟩⟩
    · exact hperf (State.matcherSet_none _ hk) ht rfl hs
    · exact hperf ((State.matcherSet_some _ hk).1 hfull) ht rfl hs
    · exact hperf ((State.matcherSet_some _ hk).2 hfull) (thr_register ..) rfl hs
  case setEnd =>
    intro s t w h
    exact ⟨cwSet_ends rfl h (State.cwPlain_threads ..), cwSet_ends rfl h (State.glShare_threads ..)⟩
  case plain =>
    intro s v p i x _
    refine ⟨cwPart_cwPut s v p i x, fun n hn => cwPut_of_unlisted v i x hn, fun hx => ?_⟩
    obtain ⟨hlf, hmx⟩ := cwPut_clears_oob v i hx
    rw [hlf, hmx]
    exact ⟨rfl, rfl, rfl, rfl⟩

end Sys2Proof.Machine
end

section
/-! Decoding and encoding (R35 to R38, R44, R109): codes and their fields, the bytes of a word, the opcode map read in both
directions, and the round trip. -/

namespace Sys2Proof

/-! ## Codes -/

theorem TagAct.ofCode_code (a : TagAct) : TagAct.ofCode a.code = a := by cases a <;> rfl
theorem TagAct.code_lt (a : TagAct) : a.code < 16 := by cases a <;> decide
theorem TagAct.code_ofCode {n : Nat} (h : n < 16) : (TagAct.ofCode n).code = n := by interval_cases n <;> rfl

theorem Sel.ofCode_code (q : Sel) : Sel.ofCode q.code = q := by cases q <;> rfl
theorem Sel.code_lt (q : Sel) : q.code < 8 := by cases q <;> decide
theorem Sel.code_ofCode {n : Nat} (h : n < 8) : (Sel.ofCode n).code = n := by interval_cases n <;> rfl

theorem Dst.code_lt (d : Dst) : d.code < 128 := by
  cases d with
  | route n => exact Nat.lt_trans n.isLt (by decide)
  | reg r => cases r <;> decide
  | v => decide
  | p => decide
  | none => decide

theorem Dst.ofCode_code (d : Dst) : Dst.ofCode d.code = some d := by
  cases d with
  | route n => exact dif_pos n.isLt
  | reg r => cases r <;> rfl
  | v => rfl
  | p => rfl
  | none => rfl

/-- R37: a destination's code is the one it was read from. -/
theorem Dst.code_of_ofCode {n : Nat} {d : Dst} (h : Dst.ofCode n = some d) : d.code = n := by
  unfold Dst.ofCode at h
  split at h
  · cases h; rfl
  · split at h <;> cases h <;> rfl

/-- R37: the codes 102 to 126 are reserved. -/
theorem Dst.exists_ofCode_iff {n : Nat} (h : n < 128) : (∃ d, Dst.ofCode n = some d) ↔ n < 102 ∨ n = 127 := by
  rw [← Option.isSome_iff_exists]
  interval_cases n <;> decide

/-! ## The opcode map -/

/-- R44: the map has each instruction at its opcode. -/
theorem Instr.ctorOf_opcode {i : Instr} {o : Nat} {f : Fields} (ho : i.opcode? = some o) (hf : i.fields? = some f) :
    o < 256 ∧ ∃ mk, ctorOf (o / 16) (o % 16) = some mk ∧ mk f = i := by
  cases i <;> cases ho <;> cases hf <;> exact ⟨by decide, _, rfl, rfl⟩

/-- R44: what stands in the map at a group and a column has their opcode. -/
theorem ctorOf_some {g c : Nat} (hg : g < 16) (hc : c < 16) {mk : Fields → Instr} (h : ctorOf g c = some mk) (f : Fields) :
    (mk f).opcode? = some (16 * g + c) ∧ (mk f).fields? = some f := by
  interval_cases g <;> interval_cases c <;> cases h <;> exact ⟨rfl, rfl⟩

/-! ## Words -/

theorem fld_lt {k : Nat} (w : BitVec k) (lo n : Nat) : fld w lo n < 2 ^ n := Nat.mod_lt _ (Nat.two_pow_pos n)

/-- R35, R109: the fields of an encoded word. -/
theorem fld_encodeWord {o : Nat} (ho : o < 256) (f : Fields) :
    fld (encodeWord o f) 28 4 = o / 16 ∧ fld (encodeWord o f) 24 4 = o % 16 ∧ fld (encodeWord o f) 20 4 = f.tag.code
    ∧ fld (encodeWord o f) 17 3 = f.selA.code ∧ fld (encodeWord o f) 14 3 = f.selB.code
    ∧ fld (encodeWord o f) 7 7 = f.dst1.code ∧ fld (encodeWord o f) 0 7 = f.dst2.code := by
  have ht := f.tag.code_lt
  have ha := f.selA.code_lt
  have hb := f.selB.code_lt
  have h1 := f.dst1.code_lt
  have h2 := f.dst2.code_lt
  simp only [fld, encodeWord, BitVec.toNat_ofNat]
  omega

/-- The fields that a word names, where its destinations are d1 and d2. -/
def wordFields (w l : Word) (d1 d2 : Dst) : Fields :=
  { tag := .ofCode (fld w 20 4), selA := .ofCode (fld w 17 3), selB := .ofCode (fld w 14 3), dst1 := d1, dst2 := d2, lit := l }

/-- A word is the encoding of its opcode and its fields: no bit is dropped. -/
theorem encodeWord_wordFields {w l : Word} {d1 d2 : Dst} (h1 : d1.code = fld w 7 7) (h2 : d2.code = fld w 0 7) :
    encodeWord (16 * fld w 28 4 + fld w 24 4) (wordFields w l d1 d2) = w := by
  have hw := w.isLt
  apply BitVec.eq_of_toNat_eq
  rw [encodeWord, wordFields, TagAct.code_ofCode (fld_lt w 20 4), Sel.code_ofCode (fld_lt w 17 3), Sel.code_ofCode (fld_lt w 14 3),
    h1, h2]
  simp only [fld, BitVec.toNat_ofNat]
  omega

/-- R35: when a word decodes, and to what. -/
theorem decodeWord_ok_iff {w l : Word} {i : Instr} : decodeWord w l = .ok i ↔
    ∃ mk d1 d2, ctorOf (fld w 28 4) (fld w 24 4) = some mk ∧ Dst.ofCode (fld w 7 7) = some d1 ∧ Dst.ofCode (fld w 0 7) = some d2
      ∧ mk (wordFields w l d1 d2) = i := by
  unfold decodeWord
  cases ctorOf (fld w 28 4) (fld w 24 4) with
  | none => simp
  | some mk => cases Dst.ofCode (fld w 7 7) <;> cases Dst.ofCode (fld w 0 7) <;> simp [wordFields]

theorem encode_some_iff {i : Instr} {w l : Word} :
    encode i = some (w, l) ↔ ∃ o f, i.opcode? = some o ∧ i.fields? = some f ∧ encodeWord o f = w ∧ f.lit = l := by
  unfold encode
  cases i.opcode? <;> cases i.fields? <;> simp

/-- Every instruction decodes from its own word. -/
theorem decodeWord_encode {i : Instr} {w l : Word} (h : encode i = some (w, l)) : decodeWord w l = .ok i := by
  obtain ⟨o, f, ho, hf, rfl, rfl⟩ := encode_some_iff.1 h
  obtain ⟨hlt, mk, hmk, rfl⟩ := Instr.ctorOf_opcode ho hf
  obtain ⟨hg, hc, ht, ha, hb, h1, h2⟩ := fld_encodeWord hlt f
  refine decodeWord_ok_iff.2 ⟨mk, f.dst1, f.dst2, by rw [hg, hc, hmk], by rw [h1, Dst.ofCode_code], by rw [h2, Dst.ofCode_code], ?_⟩
  rw [wordFields, ht, ha, hb, TagAct.ofCode_code, Sel.ofCode_code, Sel.ofCode_code]

/-- A word is the encoding of what it decodes to. -/
theorem encode_decodeWord {w l : Word} {i : Instr} (h : decodeWord w l = .ok i) : encode i = some (w, l) := by
  obtain ⟨mk, d1, d2, hmk, h1, h2, rfl⟩ := decodeWord_ok_iff.1 h
  obtain ⟨ho, hf⟩ := ctorOf_some (fld_lt w 28 4) (fld_lt w 24 4) hmk (wordFields w l d1 d2)
  exact encode_some_iff.2 ⟨_, _, ho, hf, encodeWord_wordFields (Dst.code_of_ofCode h1) (Dst.code_of_ofCode h2), rfl⟩

/-- R37, R44: the words that decode. -/
theorem decodeWord_isOk_iff (w l : Word) : (∃ i, decodeWord w l = .ok i) ↔ (ctorOf (fld w 28 4) (fld w 24 4)).isSome = true
    ∧ (fld w 7 7 < 102 ∨ fld w 7 7 = 127) ∧ (fld w 0 7 < 102 ∨ fld w 0 7 = 127) := by
  rw [← Dst.exists_ofCode_iff (fld_lt w 7 7), ← Dst.exists_ofCode_iff (fld_lt w 0 7), Option.isSome_iff_exists]
  constructor
  · rintro ⟨i, h⟩
    obtain ⟨mk, d1, d2, hmk, h1, h2, -⟩ := decodeWord_ok_iff.1 h
    exact ⟨⟨mk, hmk⟩, ⟨d1, h1⟩, ⟨d2, h2⟩⟩
  · rintro ⟨⟨mk, hmk⟩, ⟨d1, h1⟩, ⟨d2, h2⟩⟩
    exact ⟨_, decodeWord_ok_iff.2 ⟨mk, d1, d2, hmk, h1, h2, rfl⟩⟩

/-! ## Bytes -/

/-- R4: the number of a little-endian string is what was written to it. -/
theorem leNat_leBytes (n x : Nat) : leNat (leBytes n x) = x % 256 ^ n := by
  induction n generalizing x with
  | zero => simp [leNat, leBytes, Nat.mod_one]
  | succ n ih =>
    rw [leBytes, leNat, ih, pow_succ' 256 n, Nat.mod_mul]
    rfl

/-- R4, R32: the first eight bytes decode as the two words that they hold. -/
theorem decode_words (w l : Word) (rest : List Byte) :
    decode (leBytes 4 w.toNat ++ leBytes 4 l.toNat ++ rest) = (decodeWord w l).map (fun i => (i, rest)) := by
  have hword : ∀ x : Word, BitVec.ofNat 32 (leNat (leBytes 4 x.toNat)) = x := by
    intro x
    rw [leNat_leBytes, Nat.mod_eq_of_lt (show x.toNat < 256 ^ 4 from x.isLt), BitVec.ofNat_toNat, BitVec.setWidth_eq]
  have hdecode : decode (leBytes 4 w.toNat ++ leBytes 4 l.toNat ++ rest)
      = match decodeWord (BitVec.ofNat 32 (leNat (leBytes 4 w.toNat))) (BitVec.ofNat 32 (leNat (leBytes 4 l.toNat))) with
        | .ok i => .ok (i, rest)
        | .error e => .error e := rfl
  rw [hdecode, hword, hword]
  cases decodeWord w l <;> rfl

end Sys2Proof

namespace Sys2Proof.Machine

/-- Settles O4: the round trip of words, carried to bytes, and the words that decode. -/
theorem decodeEncode : Obligations.DecodeEncode :=
  ⟨fun i w l rest h => by rw [decode_words, decodeWord_encode h]; rfl, fun _ _ _ h => encode_decodeWord h, decodeWord_isOk_iff⟩

/-- Settles O3: closed words. -/
theorem decodeWords : Obligations.DecodeWords := by
  unfold Obligations.DecodeWords
  decide +kernel

end Sys2Proof.Machine
end

section
/-! The next activity and the step that runs it (R31, R32, R81, R103): what passing time leaves, which act comes next, and
the cases of a step at a slot. -/

namespace Sys2Proof.Machine

/-! ## Time passes -/

/-- R103: counting passed cycles changes the cells alone. -/
theorem State.countPassed_eq (s : State) (n : Nat) : ∃ cs, s.countPassed n = { s with cells := cs } := by
  unfold State.countPassed
  simp only
  split
  · exact ⟨s.cells, rfl⟩
  · exact ⟨_, rfl⟩

/-- R103: of a cell it changes the count alone. -/
theorem State.countPassed_cell (s : State) (n : Nat) (a : Agent) :
    ∃ k, (s.countPassed n).cell a = { s.cell a with passed := k } := by
  unfold State.countPassed
  simp only
  split
  · exact ⟨_, rfl⟩
  · rw [show (fun e : Agent × Cell => if e.2.run.isNone && s.blockedCells.contains e.1 then (e.1, { e.2 with passed := e.2.passed + w32 n }) else e)
      = fun e => (e.1, { e.2 with passed := if e.2.run.isNone && s.blockedCells.contains e.1 then e.2.passed + w32 n else e.2.passed }) from
        funext fun e => by split <;> rfl]
    simp only [State.cell, tgetD]
    rw [tget_map_snd s.cells (fun e => { e.2 with passed := if e.2.run.isNone && s.blockedCells.contains e.1 then e.2.passed + w32 n else e.2.passed })]
    cases tget s.cells a <;> exact ⟨_, rfl⟩

/-- Before a step time goes on; memory and the agenda stay. -/
structure Passed (s s' : State) : Prop where
  agenda : s'.agenda = s.agenda
  mem : s'.mem = s.mem
  tick : s'.tick = s.tick + 1
  cycle : s.cycle ≤ s'.cycle

theorem State.passTime_passed (s : State) : Passed s s.passTime := by
  obtain ⟨cs, h⟩ := s.countPassed_eq (s.uncounted + Config.elapsed s.tick)
  simp only [State.passTime, h]
  exact ⟨rfl, rfl, rfl, Nat.le_add_right ..⟩

theorem State.passTime_cell (s : State) (a : Agent) : ∃ k, s.passTime.cell a = { s.cell a with passed := k } :=
  s.countPassed_cell (s.uncounted + Config.elapsed s.tick) a

/-! ## The next activity -/

theorem State.nextAct_turn {s : State} {a : Act} (h : s.turn = some a) : s.nextAct = some (a, { s.passTime with turn := none }) := by
  simp [State.nextAct, h]

/-- Without a chosen act, the free value picks one of the agenda. -/
theorem State.nextAct_agenda {s : State} (ht : s.turn = none) (ha : s.agenda ≠ []) :
    ∃ n a, s.agenda[n]? = some a ∧ s.nextAct = some (a, { s.passTime with agenda := s.agenda.eraseIdx n }) := by
  have hn : Config.pick s.tick 0 % s.agenda.length < s.agenda.length := Nat.mod_lt _ (List.length_pos_of_ne_nil ha)
  have hget := List.getElem?_eq_getElem hn
  exact ⟨_, _, hget, by simp only [State.nextAct, ht, hget]⟩

/-- A word placed for the step stands, with its literal, in slot 0 of its cell. -/
theorem State.placed_slotWord (s : State) (w l : Word) : ((s.placed w l).cell ⟨.tile 0, 0⟩).slotWord 0 = (w, l) := by
  have hcell : ∀ (s : State) (g : Cell → Cell) (x : Site) (v : SiteSt → SiteSt) (u : Nat) (t : Thread) (a : Option Act),
      ({ (((s.modCell ⟨.tile 0, 0⟩ g).modSite x v).setThr u t).bump with turn := a } : State).cell ⟨.tile 0, 0⟩ = g (s.cell ⟨.tile 0, 0⟩) :=
    fun s g _ _ _ _ _ => (State.modCell_cell s _ _ g).trans (if_pos rfl)
  unfold State.placed
  simp only [hcell]
  simp [Cell.slotWord, tgetD]

/-- A word placed for the step is fetched next (log 5). -/
theorem State.withFetchWord_nextAct (s : State) (n w : Nat) : ∃ s1, (s.withFetchWord n w).nextAct = some (.issue ⟨.tile 0, 0⟩, s1)
    ∧ (s1.cell ⟨.tile 0, 0⟩).slotWord 0 = (BitVec.ofNat 32 w, BitVec.ofNat 32 (w / 2 ^ 32)) ∧ s1.mem = s.mem := by
  generalize hp : s.withFetchWord n w = p
  have hturn : p.turn = some (.issue ⟨.tile 0, 0⟩) := by subst hp; rfl
  have hmem : p.mem = s.mem := by subst hp; rfl
  have hslot : (p.cell ⟨.tile 0, 0⟩).slotWord 0 = (BitVec.ofNat 32 w, BitVec.ofNat 32 (w / 2 ^ 32)) := by
    subst hp
    exact State.placed_slotWord ..
  obtain ⟨k, hk⟩ := p.passTime_cell ⟨.tile 0, 0⟩
  refine ⟨_, State.nextAct_turn hturn, ?_, p.passTime_passed.mem.trans hmem⟩
  rw [show ({ p.passTime with turn := none } : State).cell ⟨.tile 0, 0⟩ = p.passTime.cell ⟨.tile 0, 0⟩ from rfl, hk]
  exact hslot

/-! ## A step at a slot -/

section StepIssue
variable {s : State} {ag : Agent} {u : Nat} {t : Thread}

/-- R81: a thread that is ending or stands past its actor's last slot ends. -/
theorem stepIssue_ends (hr : (s.cell ag).run = some u) (ht : s.thr? u = some t) (hm : s.mayIssue t = true)
    (he : t.ending = true ∨ s.pastEnd t = true) : s.stepIssue ag = .next (s.endThread u) := by
  have he' : (t.ending || s.pastEnd t) = true := by simpa using he
  simp [State.stepIssue, hr, ht, hm, he']

/-- R31, R32: any other thread runs what is decoded at its slot. -/
theorem stepIssue_runs (hr : (s.cell ag).run = some u) (ht : s.thr? u = some t) (hm : s.mayIssue t = true)
    (he : t.ending = false) (hp : s.pastEnd t = false) (hb : (s.cell t.src).bad.contains t.ip = false) {i : Instr} {rest : List Byte}
    (hd : decode (slotBytes ((s.cell ag).slotWord t.ip).1 ((s.cell ag).slotWord t.ip).2) = .ok (i, rest)) :
    (∀ s', exec i { s with cur := ag } = .next s' → s.stepIssue ag = .next (s'.reissue ag))
    ∧ ∀ r, exec i { s with cur := ag } = .refused r → s.stepIssue ag = .refused r := by
  have hs : s.tableStop t = none := by unfold State.tableStop; rw [hb]; rfl
  unfold State.stepIssue
  simp only [hr, ht, hm, he, hp, hs, hd, Bool.not_true, Bool.or_false, Bool.false_eq_true, if_false]
  exact ⟨fun s' hx => by rw [hx], fun r hx => by rw [hx]⟩

end StepIssue

theorem step_issue {s s1 : State} {ag : Agent} (h : s.nextAct = some (.issue ag, s1)) : step s = s1.stepIssue ag := by
  simp [step, h]

theorem step_ev {s s1 : State} {i : Instr} {x : Subj} (h : s.nextAct = some (.ev i x, s1)) : step s = exec i { s1 with subj := x } := by
  simp [step, h]

/-- Settles O5, from the cases of the next act and of a step at a slot. -/
theorem stepRunsDecoded : Obligations.StepRunsDecoded := by
  refine ⟨fun s s1 i x h => step_ev h, ?issue, ?turn, ?agenda, State.withFetchWord_nextAct⟩
  case issue =>
    intro s s1 ag u t i rest h hr ht hm
    refine ⟨fun he => (step_issue h).trans (stepIssue_ends hr ht hm he), fun he hp hb hd => ?_⟩
    rw [step_issue h]
    exact stepIssue_runs hr ht hm he hp hb hd
  case turn =>
    intro s a h
    exact ⟨_, State.nextAct_turn h, rfl, s.passTime_passed.agenda, s.passTime_passed.mem⟩
  case agenda =>
    intro s ht ha
    obtain ⟨n, a, hget, hnext⟩ := State.nextAct_agenda ht ha
    have hp := s.passTime_passed
    exact ⟨n, a, _, hget, hnext, rfl, hp.mem, hp.tick, hp.cycle⟩

/-- Refutes O6: `step` runs whatever the turn names, and a NOP named there as an event, with no thread on the agent, faults with
`noThread` instead of `idle`. -/
theorem not_stepGoesOn : ¬ Obligations.StepGoesOn := by
  intro h
  obtain ⟨-, -, hfault, -⟩ := h
  have hs : step { State.reset with turn := some (.ev (.nop ⟨.next, .zero, .zero, .none, .none, 0⟩) {}) } = .fault .noThread := rfl
  exact absurd (hfault _ _ hs).1 (by decide)

end Sys2Proof.Machine
end

section
/-! Tokens (R40 to R42, R78, R79, R206): the payload under a tag action, the token of a destination, where it goes from
its emitter, and that it stays there when its thread ends. -/

namespace Sys2Proof.Machine

/-! ## Payloads -/

section Payload
variable {t : Thread} {f : Fields} {e : Eff} (dest : Nat) (hs : e.steer = none)
include hs

/-- R79: a tag action that holds nothing of the result back carries all of it. -/
theorem payload_all (hp : f.tag ≠ .pois) (hi : f.tag ≠ .ifp) (hn : f.tag ≠ .ifnp) :
    payload t f e dest = some (t.lanes.map (fun x => x.v)) := by
  unfold payload
  rw [hs]
  cases h : f.tag <;> first | rfl | contradiction

theorem payload_pois (h : f.tag = .pois) :
    payload t f e dest = some ((t.lanes.map (fun x => x.v)).map (fun w => ⟨w.w, true⟩)) := by
  simp [payload, hs, h]

/-- R79: `ifp` and `ifnp` carry the lanes whose `p` is q, and emit nothing where there is none. -/
theorem payload_if {q : Bool} (h : f.tag = if q then .ifp else .ifnp) :
    payload t f e dest =
      if ∃ x ∈ t.lanes, x.p = q then some (t.lanes.map (fun x => if x.p = q then x.v else .zero)) else none := by
  have hlanes : (t.lanes.map (fun x => x.v)).mapIdx (fun l w => if (t.lanes.map (fun x => x.p)).getD l false == q then w else .zero)
      = t.lanes.map (fun x => if x.p = q then x.v else .zero) := by
    apply List.ext_getElem
    · simp
    · intro l _ hl
      have hl' : l < t.lanes.length := by simpa using hl
      simp [hl']
  cases q <;> simp only [payload, hs, h, if_true, if_false, Bool.false_eq_true, Option.bind_some, hlanes] <;> simp

end Payload

/-! ## The token of a destination -/

/-- R78, R79: the token for site x of a destination whose payload is vs, of an instruction that does not recolour it. -/
def State.tokenOf (s : State) (t : Thread) (f : Fields) (e : Eff) (d : PlanEnt) (x : Site) (vs : List PWord) : Token :=
  let g := if f.tag = .eod1 ∨ f.tag = .eod2 ∨ f.tag = .eod3 then d.tag else { d.tag with eod := BitVec.ofNat 2 e.eod }
  { id := s.fresh, tag := g, data := vs, dst := x, cell := d.cell, fslot := d.fslot, src := t.src, part := t.part,
    region := (s.tokOwner t g).2, inv := (s.tokOwner t g).1, held := false, unres := none, at_ := 0 }

section EmitOne
variable {s : State} {t : Thread} {f : Fields} {opc : Nat} {e : Eff} {d : PlanEnt} {vs : List PWord}

theorem emitOne_none (h : payload t f e d.dest = none) : s.emitOne t f opc e d = s.unreserveAll d.resv := by
  unfold State.emitOne; rw [h]

theorem emitOne_fail {n : Nat} (h : payload t f e d.dest = some vs) (ht : d.tgt = .fail n) :
    s.emitOne t f opc e d = (s.unreserveAll d.resv).raise (t.who opc) 0x0101 ((t.who opc).details 0 [w32 d.code, w32 n]) := by
  simp only [State.emitOne, h, ht, State.emitFault]

/-- R206: a token whose site is known takes one slot and goes on its way. -/
theorem emitOne_site {x : Site} {r : Resv × Bool} (h : payload t f e d.dest = some vs) (hs : f.tag ≠ .setcol) (ht : d.tgt = .site x)
    (hr : d.resv = [r]) : s.emitOne t f opc e d = s.bump.launchTok (s.tokenOf t f e d x vs) t.src.site := by
  simp only [State.emitOne, h, ht, hr, hs, if_false] <;> rfl

end EmitOne

/-- R208: a token of its own tile is held there for its delivery. -/
theorem launchTok_own (s : State) {k : Token} {x : Site} (hd : k.dst = x) (hu : k.unres = none) :
    ((s.launchTok k x).site x).ingress = (s.site x).ingress ++ [{ k with held := true }]
    ∧ Act.ev .tokenDelivery { site := x, a := k.id } ∈ (s.launchTok k x).agenda := by
  rw [State.launchTok, if_pos ⟨hd, hu⟩]
  refine ⟨?_, by simp [State.postEv, State.post]⟩
  rw [State.site_congr (State.postEv_sites ..), State.modSite_site, if_pos rfl]

/-- R206: one for another tile leaves through egress. -/
theorem launchTok_egress (s : State) {k : Token} {x : Site} (hd : k.dst ≠ x) :
    ((s.launchTok k x).site x).egress = (s.site x).egress ++ [k]
    ∧ Act.ev .tokenEgressDepart { site := x, a := k.id } ∈ (s.launchTok k x).agenda := by
  rw [State.launchTok, if_neg (fun h => hd h.1)]
  refine ⟨?_, by simp [State.postEv, State.post]⟩
  rw [State.site_congr (State.postEv_sites ..), State.modSite_site, if_pos rfl]

/-! ## Tokens stay on their way -/

/-- The tokens that sites hold, and every pending act, are in s' as they are in s. -/
structure TokensStay (s s' : State) : Prop where
  ingress : ∀ x, (s'.site x).ingress = (s.site x).ingress
  acts : ∀ a ∈ s.agenda, a ∈ s'.agenda

theorem TokensStay.trans {s s' s'' : State} (h : TokensStay s s') (h' : TokensStay s' s'') : TokensStay s s'' :=
  ⟨fun x => (h'.ingress x).trans (h.ingress x), fun a ha => h'.acts a (h.acts a ha)⟩

theorem tokensStay_of_sites {s s' : State} (hs : s'.sites = s.sites) (ha : s'.agenda = s.agenda) : TokensStay s s' :=
  ⟨fun x => by rw [State.site_congr hs], fun a h => by rw [ha]; exact h⟩

theorem tokensStay_foldl {ι : Type} (g : State → ι → State) (hg : ∀ s i, TokensStay s (g s i)) (l : List ι) (s : State) :
    TokensStay s (l.foldl g s) := by
  induction l generalizing s with
  | nil => exact tokensStay_of_sites rfl rfl
  | cons i l ih => exact (hg s i).trans (ih _)

theorem tokensStay_modSite (s : State) (x : Site) {g : SiteSt → SiteSt} (hg : ∀ v, (g v).ingress = v.ingress) :
    TokensStay s (s.modSite x g) := by
  refine ⟨fun y => ?_, fun a h => h⟩
  rw [State.modSite_site]
  split
  · subst y; exact hg _
  · rfl

theorem tokensStay_modCell (s : State) (a : Agent) (g : Cell → Cell) : TokensStay s (s.modCell a g) := tokensStay_of_sites rfl rfl

theorem tokensStay_delThr (s : State) (u : Nat) : TokensStay s { s with threads := tdel s.threads u } := tokensStay_of_sites rfl rfl

theorem tokensStay_modCells (s : State) (x : Site) (cs : List Nat) (g : Cell → Cell) : TokensStay s (s.modCells x cs g) :=
  tokensStay_foldl _ (fun _ _ => tokensStay_modCell ..) cs s

theorem tokensStay_wake (s : State) (x : Site) (cs : List Nat) : TokensStay s (s.wake x cs) :=
  tokensStay_foldl _ (by intro s c; exact ⟨fun _ => rfl, fun _ h => List.mem_append_left _ h⟩) cs s

theorem tokensStay_unreserve (s : State) (r : Resv) : TokensStay s (s.unreserve r) := by
  unfold State.unreserve
  cases r with
  | queue a p => exact tokensStay_modCell ..
  | egress x c => exact tokensStay_modSite _ _ (by intro v; rfl)

theorem tokensStay_setThr (s : State) (u : Nat) (t : Thread) : TokensStay s (s.setThr u t) := tokensStay_of_sites rfl rfl

theorem tokensStay_reserve {s s' : State} {r : Resv} {c : Bool} (h : s.reserve r c = some s') : TokensStay s s' := by
  cases r with
  | egress x k =>
    obtain ⟨-, hs⟩ := Option.ite_none_right_eq_some.1 h
    cases hs
    exact tokensStay_modSite s x (g := fun v => { v with egResv := v.egResv + 1 }) (fun _ => rfl)
  | queue a p =>
    obtain ⟨-, hs⟩ := Option.ite_none_right_eq_some.1 h
    cases hs
    exact tokensStay_of_sites rfl rfl

theorem tokensStay_reserveAll {s s' : State} {rs : List (Resv × Bool)} (h : s.reserveAll rs = some s') : TokensStay s s' := by
  induction rs generalizing s with
  | nil => cases h; exact tokensStay_of_sites rfl rfl
  | cons r rs ih =>
    obtain ⟨r, c⟩ := r
    simp only [State.reserveAll] at h
    split at h
    · cases h
    · rename_i s1 h1; exact (tokensStay_reserve h1).trans (ih h)

theorem tokensStay_countIssue (s : State) (t : Thread) (n : Nat) : TokensStay s (s.countIssue t n) := by
  have hcells : TokensStay s (s.modCells t.src.site t.cellsHeld (fun c => { c with issued := c.issued + 1 })) := tokensStay_modCells ..
  unfold State.countIssue
  simp only
  split
  · exact hcells.trans (tokensStay_of_sites (State.modPart_sites ..) (State.modPart_agenda ..))
  · exact hcells

/-- R250: what a thread has emitted goes on when the thread ends. -/
theorem tokensStay_endThread (s : State) (u : Nat) : TokensStay s (s.endThread u) := by
  unfold State.endThread
  split
  · exact tokensStay_of_sites rfl rfl
  · refine TokensStay.trans ?_ (tokensStay_wake ..)
    refine TokensStay.trans ?_ (tokensStay_delThr ..)
    refine TokensStay.trans ?_ (tokensStay_modSite _ _ (by intro v; rfl))
    refine TokensStay.trans ?_ (tokensStay_modCell ..)
    refine TokensStay.trans ?_ (tokensStay_modCells ..)
    exact tokensStay_foldl _ (fun _ _ => tokensStay_unreserve ..) _ _

/-! ## The end of an instruction whose thread ends with it -/

/-- R79: under any other tag action than `next`, `yield` and `done` the thread's tokens leave and it ends. -/
theorem finish_ends {s : State} {u : Nat} {t : Thread} {f : Fields} (opc : Nat) (e : Eff) (p : Plan) (ht : s.thr? u = some t)
    (hc : continues f.tag = false) (hd : f.tag ≠ .done) :
    ∃ k, s.finish u f opc e p = ((s.emitAll t f opc e p).setThr u k).endThread u := by
  unfold State.finish
  simp only [ht, hc, hd, Bool.false_eq_true, if_false, ite_self]
  exact ⟨_, rfl⟩

/-- R206: an instruction that has its slots emits from a state that holds what its own effect left on its way. -/
theorem issue_ends {s b : State} {u : Nat} {t k : Thread} {f : Fields} (m : Form) {e : Eff} (ht : s.thr? u = some t)
    (hk : b.thr? u = some k) (hs : e.susp = none) (hr : (b.reserveAll ((s.emits b t k f e).ents.flatMap (fun d => d.resv))).isSome)
    (hc : continues f.tag = false) (hd : f.tag ≠ .done) :
    ∃ b' k', TokensStay b b'
      ∧ s.issue u f m b e = ((b'.emitAll (k.commit f e) f m.opc e (s.emits b t k f e)).setThr u k').endThread u := by
  obtain ⟨s1, h1⟩ := Option.isSome_iff_exists.1 hr
  have hp : s.emits b t k f e = (if e.mute then ⟨[], none⟩
      else b.planFor (if e.ctl then { k.commit f e with kind := .control } else k.commit f e) f (s.contWord t f)
        (some (e.scene (((k.commit f e).lanes.map (fun x => x.v)).headD .zero)))) := rfl
  have hissue : s.issue u f m b e = ((s1.setThr u (k.commit f e)).countIssue (k.commit f e) (m.cyc + m.more (k.commit f e))).finish u f
      m.opc e (s.emits b t k f e) := by
    unfold State.issue
    simp only [hk, ht, hs, Option.isSome_none, Bool.false_eq_true, if_false]
    rw [← hp, h1]
  obtain ⟨k', hfin⟩ := finish_ends m.opc e (s.emits b t k f e)
    (show ((s1.setThr u (k.commit f e)).countIssue (k.commit f e) (m.cyc + m.more (k.commit f e))).thr? u = some (k.commit f e) by
      rw [State.thr_congr (threads_countIssue ..)]; exact thr_setThr ..) hc hd
  exact ⟨_, k', ((tokensStay_reserveAll h1).trans (tokensStay_setThr ..)).trans (tokensStay_countIssue ..), hissue.trans hfin⟩

/-- The tokens of a plan of one destination whose target is known. -/
theorem emitAll_one (s : State) (t : Thread) (f : Fields) (opc : Nat) (e : Eff) {d : PlanEnt} (h : d.tgt.open = true) :
    s.emitAll t f opc e ⟨[d], none⟩ = s.emitOne t f opc e d := by
  simp [State.emitAll, settle_open s t f e d h]

/-! ## MOV to a route of its own tile -/

/-- R40, R206: a destination 1 that is route n of the thread's own tile, under `keep`. -/
def State.ownRoute (s : State) (t : Thread) (n : Nat) : PlanEnt :=
  let rt := tgetD (s.cell t.src).routes n 0
  { dest := 1, code := n, cell := rtCell rt, fslot := rtFslot rt, tag := t.tagFor rt .keep 0, tgt := .site t.src.site,
    resv := [(.queue ⟨t.src.site, rtCell rt⟩ (rtPort rt), t.kind == .control)] }

theorem Lane.write_v (x : Lane) (r : PWord) (d : Dst) : (x.write r d).v = x.v := by
  cases d with
  | reg q => cases q <;> rfl
  | route n => rfl
  | v => rfl
  | p => rfl
  | none => rfl

/-- R105: without a predicate block every lane takes its result in `v`. -/
theorem commit_val_v {t : Thread} (f : Fields) {rs : List PWord} (hp : t.pblk = none) (hl : rs.length = t.lanes.length) :
    (t.commit f (.val rs)).lanes.map (fun x => x.v) = rs := by
  apply List.ext_getElem
  · simp [Thread.commit, hl]
  · intro l _ h2
    simp [Thread.commit, Thread.selected, hp, Lane.after, Eff.val, Lane.result, Lane.write_v, h2]

theorem commit_tagFor (t : Thread) (f : Fields) (e : Eff) (rt : Word) (a : TagAct) (c : Word) :
    (t.commit f e).tagFor rt a c = t.tagFor rt a c := by
  simp [Thread.tagFor, Thread.commit, Thread.width]

theorem tagFor_keep_port (t : Thread) (rt w : Word) : (t.tagFor rt .keep w).port.toNat = rtPort rt :=
  (BitVec.toNat_ofNat ..).trans (Nat.mod_eq_of_lt (Nat.mod_lt _ (by decide)))

theorem tagFor_keep_ip (t : Thread) (rt w : Word) : (t.tagFor rt .keep w).ip.toNat = rtIp rt :=
  (BitVec.toNat_ofNat ..).trans (Nat.mod_eq_of_lt (Nat.mod_lt _ (by decide)))

/-- R78: the tag of such a token is its thread's. -/
theorem tokenOf_ownRoute_tag (s b : State) {t : Thread} {f : Fields} {e : Eff} (n : Nat) (x : Site) (vs : List PWord) (ht : f.tag = .keep)
    (he : e.eod = 0) :
    (b.tokenOf (t.commit f e) f e (s.ownRoute t n) x vs).tag = t.tagFor (tgetD (s.cell t.src).routes n 0) .keep 0 := by
  simp [State.tokenOf, ht, he, State.ownRoute, Thread.tagFor]

theorem ownRoute_commit (s : State) (t : Thread) (f : Fields) (e : Eff) (n : Nat) : s.ownRoute (t.commit f e) n = s.ownRoute t n := by
  simp only [State.ownRoute, commit_tagFor]
  rfl

theorem planFor_ownRoute (s : State) {t : Thread} {f : Fields} {n : Fin 96} (w : Word) (r0 : Option PWord) (ht : f.tag = .keep)
    (h1 : f.dst1 = .route n) (h2 : f.dst2 = .none) (hk : rtKind (tgetD (s.cell t.src).routes n.val 0) = 0) :
    s.planFor t f (.ok w) r0 = ⟨[s.ownRoute t n.val], none⟩ := by
  have hdsts : routeDsts f = [(1, n.val)] := by simp [routeDsts, h1, h2]
  have hcut : ∀ c g x, s.cutsDepth t f c g x = false := fun c g x => by simp [State.cutsDepth, ht]
  have htarget : ∀ idx g, s.target t 0 idx g r0 = .site t.src.site := fun _ _ => rfl
  have hres : ∀ rt, resvFor t (rtCell rt) (t.tagFor rt .keep w) (.site t.src.site)
      = [(.queue ⟨t.src.site, rtCell rt⟩ (rtPort rt), t.kind == .control)] := fun rt => by
    simp only [resvFor, if_true, tagFor_keep_port] <;> rfl
  simp only [State.planFor, hdsts, List.map_cons, List.map_nil, hk, htarget, hcut, ht, hres, reduceCtorEq, if_false, Bool.false_eq_true]
  rfl

theorem emits_ownRoute (s : State) {t : Thread} {f : Fields} {n : Fin 96} (rs : List PWord) (ht : f.tag = .keep)
    (h1 : f.dst1 = .route n) (h2 : f.dst2 = .none) (hk : rtKind (tgetD (s.cell t.src).routes n.val 0) = 0) :
    s.emits s t t f (.val rs) = ⟨[s.ownRoute t n.val], none⟩ := by
  have hcont : s.contWord t f = .ok 0 := by simp [State.contWord, ht]
  rw [← ownRoute_commit s t f (.val rs)]
  unfold State.emits
  rw [hcont]
  exact planFor_ownRoute s 0 _ ht h1 h2 hk

/-- R206: a slot of a queue is there where its kind has room. -/
theorem reserveAll_queue {s : State} {ag : Agent} {port : Nat} {ctl : Bool} (h : (if ctl then 1 else 3) ≤ (s.cell ag).qfree port) :
    (s.reserveAll [(.queue ag port, ctl)]).isSome := by
  simp only [State.reserveAll, State.reserve, if_pos h]
  rfl

/-- R40, R41, R78, R79, R206: MOV to a route of its own tile, with its slot there, leaves A with the thread's tag in the
tile's ingress, on its way to the route's cell, and ends its thread. -/
theorem mov_emits {s : State} {u : Nat} {t : Thread} {f : Fields} {n : Fin 96} (hi : Issues s u t f { opc := 0x01, b := false })
    (ht : f.tag = .keep) (h1 : f.dst1 = .route n) (h2 : f.dst2 = .none) (hp : t.pblk = none)
    (hk : rtKind (tgetD (s.cell t.src).routes n.val 0) = 0)
    (hroom : (if t.kind = .control then 1 else 3) ≤ (s.cell ⟨t.src.site, (s.ownRoute t n.val).cell⟩).qfree
      (rtPort (tgetD (s.cell t.src).routes n.val 0))) :
    ∃ s' k, exec (.mov f) s = .next s' ∧ s'.thr? u = none
      ∧ (∃ b : State, k = b.tokenOf (t.commit f (.val (t.as f))) f (.val (t.as f)) (s.ownRoute t n.val) t.src.site (t.as f))
      ∧ (s'.site t.src.site).ingress = (s.site t.src.site).ingress ++ [{ k with held := true }]
      ∧ Act.ev .tokenDelivery { site := t.src.site, a := k.id } ∈ s'.agenda := by
  have hplan := emits_ownRoute s (t.as f) ht h1 h2 hk
  have hpay : payload (t.commit f (.val (t.as f))) f (.val (t.as f)) 1 = some (t.as f) := by
    rw [payload_all 1 rfl (by rw [ht]; decide) (by rw [ht]; decide) (by rw [ht]; decide), commit_val_v f hp (by simp [Thread.width])]
  have hres : (s.reserveAll ((s.emits s t t f (.val (t.as f))).ents.flatMap (fun d => d.resv))).isSome := by
    rw [hplan]
    exact reserveAll_queue (by simpa only [beq_iff_eq, State.ownRoute] using hroom)
  obtain ⟨b, t', hstay, hissue⟩ := issue_ends { opc := 0x01, b := false } hi.thr hi.thr rfl hres (by rw [ht]; rfl) (by rw [ht]; decide)
  rw [hplan, emitAll_one _ _ _ _ _ rfl, emitOne_site hpay (by rw [ht]; decide) rfl rfl] at hissue
  generalize hk : b.tokenOf (t.commit f (.val (t.as f))) f (.val (t.as f)) (s.ownRoute t n.val) t.src.site (t.as f) = k at hissue
  obtain ⟨hin, hact⟩ := launchTok_own b.bump (k := k) (x := t.src.site) (by rw [← hk]; rfl) (by rw [← hk]; rfl)
  have hend := (tokensStay_setThr (b.bump.launchTok k t.src.site) u t').trans (tokensStay_endThread _ u)
  have hexec : exec (.mov f) s = .next (s.issue u f { opc := 0x01, b := false } s (.val (t.as f))) :=
    instr_issues (body := fun _ t => .ok s (.val (t.as f))) hi
  refine ⟨_, k, hexec.trans (congrArg _ hissue), endThread_thr .., ⟨b, hk.symm⟩, ?_, hend.acts _ hact⟩
  exact (hend.ingress _).trans (hin.trans (congrArg (· ++ _) (hstay.ingress _)))

/-- Settles O9: MOV from its plan of one destination, each clause of an emission from its lemma, the payloads by tag action. -/
theorem tokensEmitted : Obligations.TokensEmitted := by
  refine ⟨?mov, ?egress, fun _ _ _ _ _ _ h => emitOne_none h, fun _ _ _ _ _ _ _ _ h _ ht => emitOne_fail h ht, ?payloads⟩
  case mov =>
    intro s u t f n hi ht h1 h2 hp rt port hk hroom
    obtain ⟨s', _, hx, hthr, ⟨b, rfl⟩, hin, hact⟩ := mov_emits hi ht h1 h2 hp hk hroom
    have htag := tokenOf_ownRoute_tag s b (e := .val (t.as f)) (t := t) n.val t.src.site (t.as f) ht rfl
    exact ⟨s', _, hx, hin, hthr, rfl, rfl, rfl, rfl, rfl, rfl, congrArg Tag.frame htag,
      (congrArg (fun g => g.ip.toNat) htag).trans (tagFor_keep_ip ..), (congrArg (fun g => g.port.toNat) htag).trans (tagFor_keep_port ..),
      congrArg Tag.wave htag, congrArg Tag.colour htag, congrArg Tag.width htag, congrArg Tag.kind htag, congrArg Tag.eod htag,
      congrArg Tag.block htag, hact⟩
  case egress =>
    intro s t f opc e d x r vs ht hx hr hv hs
    obtain ⟨hout, hact⟩ := launchTok_egress s.bump (k := s.tokenOf t f e d x vs) (x := t.src.site) hx
    rw [emitOne_site hv hs ht hr]
    refine ⟨_, hout, rfl, rfl, rfl, rfl, rfl, ?_, rfl, hact⟩
    simp only [State.tokenOf]
    split <;> rfl
  case payloads =>
    intro t f e dest hs vs some_
    refine ⟨fun h => payload_all dest hs ?_ ?_ ?_, payload_pois dest hs, fun h => ?_, fun h => ?_⟩
    · rcases h with h | h | h | h <;> simp [h]
    · rcases h with h | h | h | h <;> simp [h]
    · rcases h with h | h | h | h <;> simp [h]
    · rw [payload_if dest hs (q := true) h]
      exact ⟨fun hn => if_neg hn, fun hy => if_pos hy⟩
    · rw [payload_if dest hs (q := false) h]
      refine ⟨fun hn => if_neg hn, fun hy => (if_pos hy).trans (congrArg some (List.map_congr_left (fun x _ => ?_)))⟩
      cases x.p <;> rfl

end Sys2Proof.Machine
end

section
/-! Placement, periods and quanta (R54, R56, R57, R325, R344, R345, R418): the tables that a strike or a pitch writes, what a
grant and a strike choose, one stage's sample, and what each event does in its cases. -/

namespace Sys2Proof.Machine

/-! ## Tables of a site -/

/-- Writing tables changes the cells alone. -/
theorem State.writeTables_eq (s : State) (x : Site) (new : Nat → Cell) (g : Cell → Cell → Cell) :
    ∃ cs, s.writeTables x new g = { s with cells := cs } := by
  unfold State.writeTables
  generalize List.range 64 = l
  induction l generalizing s with
  | nil => exact ⟨s.cells, rfl⟩
  | cons c l ih =>
    obtain ⟨cs, h⟩ := ih (s.setCell ⟨x, c⟩ (g (s.cell ⟨x, c⟩) (new c)))
    exact ⟨cs, h⟩

theorem foldl_setCell_cell (x : Site) (new : Nat → Cell) (g : Cell → Cell → Cell) (a : Agent) {l : List Nat} (hl : l.Nodup) (s : State) :
    (l.foldl (fun s c => s.setCell ⟨x, c⟩ (g (s.cell ⟨x, c⟩) (new c))) s).cell a
      = if a.site = x ∧ a.cell ∈ l then g (s.cell a) (new a.cell) else s.cell a := by
  induction l generalizing s with
  | nil => simp
  | cons c l ih =>
    obtain ⟨hc, hl⟩ := List.nodup_cons.1 hl
    rw [List.foldl_cons, ih hl, State.setCell_cell]
    obtain ⟨y, d⟩ := a
    by_cases hy : y = x
    · subst hy
      by_cases hd : d = c
      · subst hd; simp [hc]
      · simp [hd]
    · simp [hy]

/-- A cell of the site takes its own table; no other cell changes. -/
theorem State.writeTables_cell (s : State) (x : Site) (new : Nat → Cell) (g : Cell → Cell → Cell) (a : Agent) :
    (s.writeTables x new g).cell a = if a.site = x ∧ a.cell < 64 then g (s.cell a) (new a.cell) else s.cell a := by
  have h := foldl_setCell_cell x new g a (List.nodup_range (n := 64)) s
  simp only [List.mem_range] at h
  exact h

/-! ## Strikes (R56, R57) -/

/-- R56: the strike of some tiles begins on each of them; the store of images, the event's subject and what is pending stay. -/
theorem foldl_beginStrike (ts : List Nat) (s : State) :
    (ts.foldl State.beginStrike s).images = s.images ∧ (ts.foldl State.beginStrike s).subj = s.subj
    ∧ (∀ a ∈ s.agenda, a ∈ (ts.foldl State.beginStrike s).agenda)
    ∧ (∀ n, n ∈ ts ∨ (s.site (.tile n)).striking = true → ((ts.foldl State.beginStrike s).site (.tile n)).striking = true)
    ∧ ∀ n ∈ ts, Act.ev .strikeComplete { a := n } ∈ (ts.foldl State.beginStrike s).agenda := by
  induction ts generalizing s with
  | nil => simp
  | cons m ts ih =>
    obtain ⟨himg, hsubj, hkeep, hstrike, hact⟩ := ih (s.beginStrike m)
    have hsite : ∀ n, n = m ∨ (s.site (.tile n)).striking = true → ((s.beginStrike m).site (.tile n)).striking = true := by
      intro n hn
      rw [State.beginStrike, State.site_congr (State.postEv_sites ..), State.modSite_site]
      split
      · rfl
      · rename_i hne
        exact hn.resolve_left (fun h => hne (congrArg _ h))
    have hpost : ∀ a, a ∈ s.agenda ∨ a = Act.ev .strikeComplete { a := m } → a ∈ (s.beginStrike m).agenda := by
      intro a ha
      simpa [State.beginStrike, State.postEv, State.post] using ha
    refine ⟨himg, hsubj, fun a ha => hkeep a (hpost a (.inl ha)), fun n hn => hstrike n ?_, fun n hn => ?_⟩
    · rcases hn with hn | hn
      · rcases List.mem_cons.1 hn with rfl | hn
        · exact .inr (hsite _ (.inl rfl))
        · exact .inl hn
      · exact .inr (hsite _ (.inr hn))
    · rcases List.mem_cons.1 hn with rfl | hn
      · exact hkeep _ (hpost _ (.inr rfl))
      · exact hact n hn

/-- The image that a strike is asked for. -/
def State.struckImage (s : State) : ImgKey := ⟨s.subj.a, s.subj.v, w32 s.subj.b⟩

section ImageStrike
variable {s : State} {m : Image} (h : s.image? s.struckImage = some m)
include h

/-- R57: a strike waits for the launches of its image. -/
theorem imageStrike_waits (hu : s.imageUsed s.struckImage = true) (hb : m.begun = false) :
    exec .imageStrike s = .next (s.postEv .imageStrike s.subj) := by
  unfold State.struckImage at h hu
  simp [exec, execImageStrike, h, hu, hb]

/-- R57: with its last tile an image leaves the store. -/
theorem imageStrike_gone (hu : s.imageUsed s.struckImage = false) (ht : s.imageTiles s.struckImage = []) :
    exec .imageStrike s = .next { s with images := s.images.filter (fun i => decide (i.key ≠ s.struckImage)),
                                         places := s.places.filter (fun e => decide (e.1.1 ≠ s.struckImage)) } := by
  unfold State.struckImage at h hu ht ⊢
  simp [exec, execImageStrike, h, hu, ht]

/-- R56, R57: an image that no launch uses is struck from all its tiles. -/
theorem imageStrike_begins (hu : s.imageUsed s.struckImage = false) (ht : s.imageTiles s.struckImage ≠ [])
    (hf : ∀ n ∈ s.imageTiles s.struckImage, (s.site (.tile n)).striking = false ∧ (s.site (.tile n)).pitching = false) :
    exec .imageStrike s = .next (((s.imageTiles s.struckImage).foldl State.beginStrike
      (s.modImage s.struckImage (fun m => { m with begun := true }))).postEv .imageStrike s.subj) := by
  obtain ⟨-, hsubj, -⟩ := foldl_beginStrike (s.imageTiles s.struckImage) (s.modImage s.struckImage (fun m => { m with begun := true }))
  have hall : (s.imageTiles s.struckImage).filter (fun n => !(s.site (.tile n)).striking && !(s.site (.tile n)).pitching)
      = s.imageTiles s.struckImage := List.filter_eq_self.2 (fun n hn => by simp [hf n hn])
  obtain ⟨n, ts, hts⟩ := List.exists_cons_of_ne_nil ht
  rw [hts] at hall hsubj ⊢
  unfold State.struckImage at h hu hts hsubj ⊢
  simp only [exec, execImageStrike, h, hu, hts, hall, hsubj, Bool.false_and, Bool.false_eq_true, if_false]
  rfl

end ImageStrike

/-- R56: a strike waits until its tile has emptied, then clears it. -/
theorem strikeComplete_exec {s : State} (hs : (s.site (.tile s.subj.a)).striking = true) (hp : (s.site (.tile s.subj.a)).pitching = false) :
    exec .strikeComplete s = .next (if s.tileEmpty s.subj.a then s.clearTile s.subj.a else s.postEv .strikeComplete { a := s.subj.a }) := by
  unfold exec execStrikeComplete
  cases h : s.tileEmpty s.subj.a <;> simp [hs, hp, h]

/-- What a cleared cell keeps of what it was (R56, R103, R136). -/
def Cell.cleared (old : Cell) : Cell := { Cell.reset with issued := old.issued, passed := old.passed, bank := old.bank }

theorem State.clearTile_cell (s : State) (n : Nat) (a : Agent) :
    (s.clearTile n).cell a = if a.site = .tile n ∧ a.cell < 64 then (s.cell a).cleared else s.cell a :=
  (State.cell_congr (State.modSite_cells ..) a).trans (State.writeTables_cell s (.tile n) (fun _ => Cell.reset)
    (fun old c => { c with issued := old.issued, passed := old.passed, bank := old.bank }) a)

/-- R56: clearing a tile changes its cells and pools its site. -/
theorem State.clearTile_eq (s : State) (n : Nat) :
    ∃ cs, s.clearTile n = ({ s with cells := cs } : State).modSite (.tile n) SiteSt.pooled := by
  obtain ⟨cs, h⟩ := s.writeTables_eq (.tile n) (fun _ => Cell.reset) (fun old c => { c with issued := old.issued, passed := old.passed, bank := old.bank })
  exact ⟨cs, congrArg (fun s : State => s.modSite (.tile n) SiteSt.pooled) h⟩

theorem State.clearTile_site (s : State) (n : Nat) : (s.clearTile n).site (.tile n) = (s.site (.tile n)).pooled := by
  obtain ⟨cs, h⟩ := s.clearTile_eq n
  rw [h, State.modSite_site, if_pos rfl]
  rfl

/-! ## Grants (R344, R418) -/

/-- R344: the tiles that a grant may take: free ones that no image of the partition lists. -/
theorem State.listed_eq_false_iff (s : State) (p n : Nat) :
    s.listed p n = false ↔ ∀ m ∈ s.images, m.key.part = p → ∀ w ∈ imgTileList m.bytes, tleTile w ≠ n := by
  simp [State.listed]

theorem State.grantChoice_some {s : State} {k : ImgKey} {die st n : Nat} (h : s.grantChoice k die st = some n) :
    (n ∈ dieTiles die ∧ s.freeTile k.part n = true ∧ s.listed k.part n = false)
    ∧ ∀ j ∈ dieTiles die, s.freeTile k.part j = true → s.listed k.part j = false →
        nearestDist (s.stageTiles k die st) n ≤ nearestDist (s.stageTiles k die st) j := by
  unfold State.grantChoice at h
  have hmem := List.mem_of_find?_eq_some h
  have hmin := List.find?_some h
  simp only [List.mem_filter, List.all_eq_true, decide_eq_true_eq, Bool.and_eq_true, Bool.not_eq_true'] at hmem hmin
  exact ⟨hmem, fun j hj hf hl => hmin j ⟨hj, hf, hl⟩⟩

theorem State.neighbour_some {s : State} {k : ImgKey} {die st n a : Nat} (h : s.neighbour k die st n = some a) :
    a ∈ s.stageTiles k die st ∧ ∀ j ∈ s.stageTiles k die st, tileDist a n ≤ tileDist j n := by
  unfold State.neighbour at h
  have hmin := List.find?_some h
  simp only [List.all_eq_true, decide_eq_true_eq] at hmin
  exact ⟨List.mem_of_find?_eq_some h, hmin⟩

/-- R344, R418: a grant pitches its tile from the nearest tile of the stage. -/
theorem State.grantTile_some {s b : State} {k : ImgKey} {die st n : Nat} (h : s.grantTile k die st = some b) (hn : s.grantChoice k die st = some n) :
    ∃ a r, s.neighbour k die st n = some a ∧ b = s.pitchTile n k (fun c => (s.cell ⟨.tile a, c⟩).tables) st r false false := by
  unfold State.grantTile at h
  rw [hn] at h
  cases him : s.image? k with
  | none => simp [him] at h
  | some m =>
    simp only [him] at h
    split at h
    · cases h
    · obtain ⟨a, ha, rfl⟩ := Option.map_eq_some_iff.1 h
      exact ⟨a, _, ha, rfl⟩

/-- A tile that holds a stage of an image is not free. -/
theorem State.stageTile_ne_free {s : State} {k : ImgKey} {die st a p n : Nat} (ha : a ∈ s.stageTiles k die st) (hn : s.freeTile p n = true) : a ≠ n := by
  rintro rfl
  simp [State.stageTiles] at ha
  simp [State.freeTile, ha] at hn

theorem State.pitchTile_cell (s : State) (n : Nat) (k : ImgKey) (new : Nat → Cell) (st r : Nat) (i p : Bool) {c : Nat} (hc : c < 64) :
    (s.pitchTile n k new st r i p).cell ⟨.tile n, c⟩
      = { new c with issued := (s.cell ⟨.tile n, c⟩).issued, passed := (s.cell ⟨.tile n, c⟩).passed } := by
  unfold State.pitchTile
  simp only
  rw [State.cell_congr (State.postEv_cells ..), State.cell_congr (State.bump_cells ..), State.cell_congr (State.setSite_cells ..),
    State.writeTables_cell, if_pos ⟨rfl, hc⟩]

theorem State.pitchTile_site_other (s : State) (n : Nat) (k : ImgKey) (new : Nat → Cell) (st r : Nat) (i p : Bool) {x : Site} (hx : x ≠ .tile n) :
    (s.pitchTile n k new st r i p).site x = s.site x := by
  obtain ⟨cs, h⟩ := s.writeTables_eq (.tile n) new (fun old c => { c with issued := old.issued, passed := old.passed })
  unfold State.pitchTile
  simp only
  rw [State.site_congr (State.postEv_sites ..), State.site_congr (State.bump_sites ..), State.setSite_site, if_neg hx, h]
  rfl

theorem State.strikeChoice_some {s : State} {k : ImgKey} {die st n : Nat} (h : s.strikeChoice k die st = some n) :
    n ∈ s.stageTiles k die st ∧ (s.site (.tile n)).initial = false ∧ (s.site (.tile n)).pinned = false
    ∧ (s.site (.tile n)).striking = false := by
  have hmem := List.mem_of_find?_eq_some h
  simp only [List.mem_filter, Bool.and_eq_true, Bool.not_eq_true'] at hmem
  obtain ⟨hst, ⟨⟨hi, hp⟩, -⟩, hs⟩ := hmem
  exact ⟨hst, hi, hp, hs⟩

/-! ## Samples (R344) -/

section Sample
variable {s : State} {k : ImgKey} {m : Image} {die st : Nat}

theorem sampleStage_frozen (h : (s.placeOf k die st).frozen = true) : s.sampleStage k m die st = (s, []) := by
  simp [State.sampleStage, h]

/-- R344: a stage that is full in its fourth sample in a row asks for a tile. -/
theorem sampleStage_grows (h : (s.placeOf k die st).frozen = false) (hf : imgGrow m.bytes st ≤ s.depth k die st)
    (hg : 3 ≤ (s.placeOf k die st).grow) :
    ∃ pr, s.sampleStage k m die st = (s.setPlace k die st ⟨0, 0, false⟩, [⟨k, st, true, pr, s.depth k die st⟩]) := by
  simp only [State.sampleStage, h, hf, Bool.false_eq_true, if_false, if_true, if_pos (show 4 ≤ (s.placeOf k die st).grow + 1 by omega)]
  exact ⟨_, rfl⟩

/-- R344: one that is low in its sixteenth gives one up. -/
theorem sampleStage_shrinks (h : (s.placeOf k die st).frozen = false)
    (hn : ¬(imgGrow m.bytes st ≤ s.depth k die st ∧ 3 ≤ (s.placeOf k die st).grow)) (hl : s.depth k die st < imgShrink m.bytes st)
    (hg : 15 ≤ (s.placeOf k die st).shrink) :
    ∃ pr, s.sampleStage k m die st = (s.setPlace k die st ⟨0, 0, false⟩, [⟨k, st, false, pr, s.depth k die st⟩]) := by
  have hgrow : ¬4 ≤ (if imgGrow m.bytes st ≤ s.depth k die st then (s.placeOf k die st).grow + 1 else 0) := by split <;> omega
  simp only [State.sampleStage, h, hl, hgrow, Bool.false_eq_true, if_false, if_true, if_pos (show 16 ≤ (s.placeOf k die st).shrink + 1 by omega)]
  exact ⟨_, rfl⟩

/-- R344: any other sample only counts. -/
theorem sampleStage_counts (h : (s.placeOf k die st).frozen = false)
    (hn : ¬(imgGrow m.bytes st ≤ s.depth k die st ∧ 3 ≤ (s.placeOf k die st).grow))
    (hl : ¬(s.depth k die st < imgShrink m.bytes st ∧ 15 ≤ (s.placeOf k die st).shrink)) :
    s.sampleStage k m die st = (s.setPlace k die st ⟨if imgGrow m.bytes st ≤ s.depth k die st then (s.placeOf k die st).grow + 1 else 0,
      if s.depth k die st < imgShrink m.bytes st then (s.placeOf k die st).shrink + 1 else 0, false⟩, []) := by
  have hgrow : ¬4 ≤ (if imgGrow m.bytes st ≤ s.depth k die st then (s.placeOf k die st).grow + 1 else 0) := by split <;> omega
  have hshrink : ¬16 ≤ (if s.depth k die st < imgShrink m.bytes st then (s.placeOf k die st).shrink + 1 else 0) := by split <;> omega
  simp only [State.sampleStage, h, hgrow, hshrink, Bool.false_eq_true, if_false]

end Sample

/-- R344: a request to give a tile up strikes the tile that it chooses, if there is one. -/
theorem serveShrink_none {s : State} {k : ImgKey} {die st prio depth : Nat} (h : s.strikeChoice k die st = none) :
    s.serveReq die ⟨k, st, false, prio, depth⟩ = s := by
  simp [State.serveReq, h]

theorem serveShrink_some {s : State} {k : ImgKey} {die st prio depth n : Nat} (h : s.strikeChoice k die st = some n) :
    s.serveReq die ⟨k, st, false, prio, depth⟩ = s.beginStrike n := by
  simp [State.serveReq, h]

/-- A request alone is served as it is. -/
theorem foldl_serveReq_singleton (s : State) (die : Nat) (q : PlaceReq) :
    (sortBy PlaceReq.le [q]).foldl (fun b q => b.serveReq die q) s = s.serveReq die q := rfl

/-- The places of one number in a range. -/
theorem range_filter_eq_singleton {n i : Nat} {p : Nat → Bool} (hi : i < n) (hp : ∀ j, j < n → (p j = true ↔ j = i)) :
    (List.range n).filter p = [i] := by
  have hcongr : (List.range n).filter p = (List.range n).filter (fun j => j == i) := by
    apply List.filter_congr
    intro j hj
    rw [Bool.eq_iff_iff, hp j (List.mem_range.1 hj), beq_iff_eq]
  rw [hcongr, List.filter_beq, List.count_eq_one_of_mem List.nodup_range (List.mem_range.2 hi)]
  rfl

/-- R344: the next sample of the die is asked for. -/
def sampled (s : State) (die : Nat) : Out := .next (s.postEv .placementSample { a := die, b := s.subj.b + 2200 })

theorem placementSample_waits {s : State} (h : s.cycle < s.subj.b) : exec .placementSample s = .next (s.postEv .placementSample s.subj) := by
  unfold exec execPlacementSample
  exact if_pos h

/-- R344, R367: a halted partition's stages are not sampled. -/
theorem placementSample_halted {s : State} (h : s.subj.b ≤ s.cycle) (hh : ∀ m ∈ s.images, (s.part m.key.part).halted = true) :
    exec .placementSample s = sampled s s.subj.a := by
  have hlive : s.images.filter (fun m => !(s.part m.key.part).halted) = [] := by
    rw [List.filter_eq_nil_iff]
    intro m hm
    simp [hh m hm]
  simp only [exec, execPlacementSample, Nat.not_lt.2 h, hlive, if_false]
  rfl

/-- R344: a die with one stage of one image takes that stage's sample and serves what it asks for. -/
theorem placementSample_one {s : State} {m : Image} {st : Nat} (h : s.subj.b ≤ s.cycle) (hm : s.images = [m])
    (hh : (s.part m.key.part).halted = false) (hst : st < imgStages m.bytes)
    (hone : ∀ j, j < imgStages m.bytes → (s.stageTiles m.key s.subj.a j ≠ [] ↔ j = st)) :
    exec .placementSample s = sampled ((sortBy PlaceReq.le (s.sampleStage m.key m s.subj.a st).2).foldl
      (fun b q => b.serveReq s.subj.a q) (s.sampleStage m.key m s.subj.a st).1) s.subj.a := by
  have hjobs : (List.range (imgStages m.bytes)).filter (fun j => !(s.stageTiles m.key s.subj.a j).isEmpty) = [st] :=
    range_filter_eq_singleton hst (fun j hj => by rw [← hone j hj]; simp)
  simp only [exec, execPlacementSample, Nat.not_lt.2 h, hm, hh, List.filter, Bool.not_false, if_false, List.flatMap_cons, List.flatMap_nil, hjobs,
    List.map_cons, List.map_nil, List.append_nil, List.foldl_cons, List.foldl_nil, List.nil_append]
  rfl

/-! ## Periods (R325) -/

theorem periodBoundary_waits {s : State} (h : s.tod < s.subj.b) : exec .periodBoundary s = .next (s.postEv .periodBoundary s.subj) := by
  unfold exec execPeriodBoundary
  exact if_pos h

/-- The state in which the counts of another period are gone. -/
def State.inNewPeriod (s : State) : State := { s with parts := s.parts.map (fun e => (e.1, e.2.inPeriod s.period)) }

theorem periodBoundary_starts {s : State} (h : s.subj.b ≤ s.tod) :
    exec .periodBoundary s = .next (s.inNewPeriod.postEv .periodBoundary { b := (s.tod / 50000 + 1) * 50000 }) := by
  unfold exec execPeriodBoundary
  exact if_neg (Nat.not_lt.2 h)

theorem State.inNewPeriod_tget (s : State) (p : Nat) : tget s.inNewPeriod.parts p = (tget s.parts p).map (fun v => v.inPeriod s.period) :=
  tget_map_snd s.parts (fun e => e.2.inPeriod s.period) p

/-- R325: a new period leaves everything of a partition but its counts. -/
theorem State.inNewPeriod_bare (s : State) (p : Nat) : (s.inNewPeriod.part p).bare = (s.part p).bare := by
  unfold State.part tgetD
  rw [State.inNewPeriod_tget]
  cases tget s.parts p with
  | none => rfl
  | some v => exact Part.inPeriod_bare ..

/-! ## Quanta (R345) -/

/-- A region, where there is one, has a priority of n or a later one. -/
def prioFrom (n : Nat) (o : Option Region) : Bool :=
  match o with
  | none => false
  | some h => decide (n ≤ h.prio)

theorem prioFrom_iff (n : Nat) (o : Option Region) : prioFrom n o = true ↔ ∃ h, o = some h ∧ n ≤ h.prio := by
  cases o <;> simp [prioFrom]

/-- R345: a launch of the partition's other regions waits for tiles, with a priority no lower than the region's. -/
def State.waitsFor (s : State) (p r : Nat) (v : Part) (g : Region) : Bool :=
  s.launches.any (fun e => e.2.part == p && e.2.region != r && decide (e.2.st = .place)
    && prioFrom g.prio (tget v.regions e.2.region))

/-- R345: a launch of the region runs and is not being pre-empted. -/
def State.runsIn (s : State) (p r : Nat) (v : Part) : Bool :=
  !(s.runningOf p [r]).isEmpty && !(v.preempt.st != 0 && v.preempt.regions.contains r)

/-- The act is a completion poll that is due by cycle n. -/
def pollsBy (n : Nat) (a : Act) : Bool :=
  match a with
  | .ev .completionPoll y => decide (y.b ≤ n)
  | _ => false

theorem State.waitsFor_iff (s : State) (p r : Nat) (v : Part) (g : Region) : s.waitsFor p r v g = true ↔
    ∃ e ∈ s.launches, e.2.part = p ∧ e.2.region ≠ r ∧ e.2.st = .place ∧ ∃ h, tget v.regions e.2.region = some h ∧ g.prio ≤ h.prio := by
  simp only [State.waitsFor, List.any_eq_true, Bool.and_eq_true, beq_iff_eq, bne_iff_ne, decide_eq_true_eq, prioFrom_iff, and_assoc]

theorem State.runsIn_iff (s : State) (p r : Nat) (v : Part) : s.runsIn p r v = true ↔
    (∃ e ∈ s.launches, e.2.part = p ∧ e.2.region = r ∧ e.2.st = .run) ∧ ¬(v.preempt.st ≠ 0 ∧ r ∈ v.preempt.regions) := by
  have hruns : (∃ e, e ∈ s.runningOf p [r]) ↔ ∃ e ∈ s.launches, e.2.part = p ∧ e.2.region = r ∧ e.2.st = .run := by
    simp only [State.runningOf, List.mem_filter, Bool.and_eq_true, beq_iff_eq, decide_eq_true_eq, List.contains_eq_mem, List.mem_singleton]
    exact exists_congr (fun e => by rw [and_assoc, and_comm (a := e.2.st = .run)])
  rw [State.runsIn, Bool.and_eq_true, Bool.not_eq_true', List.isEmpty_eq_false_iff_exists_mem, hruns, Bool.not_eq_true',
    Bool.eq_false_iff, Ne, Bool.and_eq_true, bne_iff_ne, List.contains_iff_mem]

theorem pollsBy_iff (n : Nat) (a : Act) : pollsBy n a = true ↔ ∃ x, a = .ev .completionPoll x ∧ x.b ≤ n := by
  unfold pollsBy
  split
  · rw [decide_eq_true_eq]
    exact ⟨fun h => ⟨_, rfl, h⟩, fun ⟨x, hx, h⟩ => by cases hx; exact h⟩
  · rename_i hne
    exact ⟨fun h => absurd h (by decide), fun ⟨x, hx, _⟩ => absurd hx (hne x)⟩

/-- R345: the two tests of a quantum together. -/
theorem State.runs_and_waits_iff (s : State) (p r : Nat) (v : Part) (g : Region) : (s.runsIn p r v && s.waitsFor p r v g) = true ↔
    (∃ e ∈ s.launches, e.2.part = p ∧ e.2.region ≠ r ∧ e.2.st = .place ∧ ∃ h, tget v.regions e.2.region = some h ∧ g.prio ≤ h.prio)
    ∧ (∃ e ∈ s.launches, e.2.part = p ∧ e.2.region = r ∧ e.2.st = .run) ∧ ¬(v.preempt.st ≠ 0 ∧ r ∈ v.preempt.regions) := by
  rw [Bool.and_eq_true, s.waitsFor_iff, s.runsIn_iff]
  exact and_comm

theorem State.pollsBy_any_iff (s : State) :
    s.agenda.any (pollsBy s.cycle) = true ↔ ∃ x, Act.ev .completionPoll x ∈ s.agenda ∧ x.b ≤ s.cycle := by
  rw [List.any_eq_true]
  simp only [pollsBy_iff]
  exact ⟨fun ⟨_, ha, x, hx, hb⟩ => ⟨x, hx ▸ ha, hb⟩, fun ⟨x, hx, hb⟩ => ⟨_, hx, x, rfl, hb⟩⟩

/-- R345: the region's run so far, and the partition in which it is n. -/
def State.ranSoFar (s : State) (p : Nat) (g : Region) : Nat := g.ran + (s.work p - s.subj.c)
def State.withRan (s : State) (p r : Nat) (v : Part) (g : Region) (n : Nat) : State :=
  s.setPart p { v with regions := tset v.regions r { g with ran := n } }

/-- R345: what a quantum's expiry does, by its three tests. -/
theorem quantumExpiry_exec {s : State} {p r : Nat} {v : Part} {g : Region} (hp : s.subj.a = p) (hr : s.subj.b = r) (hv : s.part p = v)
    (hg : tget v.regions r = some g) :
    exec .quantumExpiry s = if (!(s.runsIn p r v && s.waitsFor p r v g)) = true then .next s
      else if s.agenda.any (pollsBy s.cycle) = true then .next (s.postEv .quantumExpiry s.subj)
      else if v.eff r itemQuantum * 1100 ≤ s.ranSoFar p g then
        .next (((s.withRan p r v g 0).preempt p [r] true).postEv .quantumExpiry { a := p, b := r, c := s.work p })
      else .next ((s.withRan p r v g (s.ranSoFar p g)).postEv .quantumExpiry { a := p, b := r, c := s.work p }) := by
  subst hp hr hv
  by_cases h : (s.part s.subj.a).eff s.subj.b itemQuantum * 1100 ≤ s.ranSoFar s.subj.a g
  · have h' : decide ((s.part s.subj.a).eff s.subj.b itemQuantum * cyclesPerUs ≤ g.ran + (s.work s.subj.a - s.subj.c)) = true := decide_eq_true h
    simp only [exec, execQuantumExpiry, hg, h', if_pos h, if_true]
    rfl
  · have h' : decide ((s.part s.subj.a).eff s.subj.b itemQuantum * cyclesPerUs ≤ g.ran + (s.work s.subj.a - s.subj.c)) = false := decide_eq_false h
    simp only [exec, execQuantumExpiry, hg, h', if_neg h, Bool.false_eq_true, if_false]
    rfl

/-! ## The statement -/

/-- Settles O50, event by event from its cases. -/
theorem placementAndPeriods : Obligations.PlacementAndPeriods := by
  refine ⟨?strike, ?cleared, fun s => ⟨placementSample_waits, placementSample_halted, ?sample, ?grant, fun k st n => State.strikeChoice_some⟩,
    fun s => ⟨periodBoundary_waits, ?period⟩, ?quantum⟩
  case strike =>
    intro s m k ts h
    refine ⟨imageStrike_waits h, fun hu ht => ⟨_, imageStrike_gone h hu ht, rfl, rfl, rfl, rfl⟩, fun hu ht hf => ?_⟩
    obtain ⟨himg, -, -, hstrike, hact⟩ := foldl_beginStrike ts (s.modImage k (fun m => { m with begun := true }))
    exact ⟨_, imageStrike_begins h hu ht hf, himg, List.mem_append_right _ (List.mem_singleton_self _),
      fun n hn => ⟨hstrike n (.inl hn), List.mem_append_left _ (hact n hn)⟩⟩
  case cleared =>
    intro s n x hs hp
    have hexec := strikeComplete_exec hs hp
    refine ⟨fun he => by rw [hexec, he]; rfl, fun he => ⟨s.clearTile n, by rw [hexec, he]; rfl, ?_⟩⟩
    obtain ⟨cs, hc⟩ := s.clearTile_eq n
    have hsite := s.clearTile_site n
    refine ⟨by rw [hc]; rfl, by rw [hc]; rfl, ?_⟩
    rw [hsite]
    refine ⟨rfl, rfl, rfl, rfl, rfl, rfl, fun c hc => ?_, fun ag hag => ?_⟩
    · rw [State.clearTile_cell, if_pos ⟨rfl, hc⟩]
      exact ⟨rfl, rfl, rfl, rfl, rfl⟩
    · rw [State.clearTile_cell, if_neg (fun h => hag h.1)]
  case sample =>
    intro m st h hm hh hst hone w d full low next
    have hone' := placementSample_one h hm hh hst hone
    refine ⟨fun hf => ?_, fun hf hn hl => ?_, fun hf hfull hg => ?_, fun hf hn hlow hg => ?_⟩
    · rw [hone', sampleStage_frozen hf]; rfl
    · rw [hone', sampleStage_counts hf hn hl]; rfl
    · obtain ⟨pr, hs⟩ := sampleStage_grows hf hfull hg
      rw [hone', hs]; rfl
    · obtain ⟨pr, hs⟩ := sampleStage_shrinks hf hn hlow hg
      rw [hone', hs, foldl_serveReq_singleton]
      exact ⟨fun hc => by rw [serveShrink_none hc]; rfl, fun n hc => by rw [serveShrink_some hc]; rfl⟩
  case grant =>
    intro k st n hn takes
    obtain ⟨⟨hdie, hfree, hlist⟩, hmin⟩ := State.grantChoice_some hn
    refine ⟨hdie, ⟨hfree, (s.listed_eq_false_iff ..).1 hlist⟩, fun j hj ht => hmin j hj ht.1 ((s.listed_eq_false_iff ..).2 ht.2), fun b hb => ?_⟩
    obtain ⟨a, r, ha, rfl⟩ := State.grantTile_some hb hn
    obtain ⟨hstage, hnear⟩ := State.neighbour_some ha
    have hne : Site.tile a ≠ .tile n := fun he => State.stageTile_ne_free hstage hfree (Site.tile.inj he)
    refine ⟨a, hstage, hnear, State.pitchTile_site_other _ _ _ _ _ _ _ _ hne, fun c hc => ?_⟩
    rw [State.pitchTile_cell _ _ _ _ _ _ _ _ hc]
    exact ⟨rfl, rfl, rfl, rfl⟩
  case period =>
    intro h
    refine ⟨_, periodBoundary_starts h, rfl, List.mem_append_right _ (List.mem_singleton_self _), fun p v hv => ?_, s.inNewPeriod_bare⟩
    exact (s.inNewPeriod_tget p).trans (by rw [hv]; rfl)
  case quantum =>
    intro s v g p r hv hg waits runs poll ran b
    have hexec := quantumExpiry_exec (s := s) rfl rfl (by rw [State.part, tgetD, hv]; rfl) hg
    have hgo := s.runs_and_waits_iff p r v g
    refine ⟨fun hn => ?_, fun hw hr hp => ?_, fun hw hr hp hlt => ?_, fun hw hr hp hle => ?_⟩
    · rw [hexec, if_pos (by rw [Bool.not_eq_true', Bool.eq_false_iff, Ne, hgo]; exact hn)]
    · rw [hexec, hgo.2 ⟨hw, hr⟩, if_neg (by decide), if_pos (s.pollsBy_any_iff.2 hp)]
    · rw [hexec, hgo.2 ⟨hw, hr⟩, if_neg (by decide), if_neg (fun h => hp (s.pollsBy_any_iff.1 h))]
      exact if_neg (Nat.not_le.2 hlt)
    · rw [hexec, hgo.2 ⟨hw, hr⟩, if_neg (by decide), if_neg (fun h => hp (s.pollsBy_any_iff.1 h))]
      exact if_pos hle

end Sys2Proof.Machine
end

section
/-! Results per lane (R76, R83, R105): what a lane takes from an effect, that a lane left out keeps everything, and that an
instruction that selects no lane only goes on. -/

namespace Sys2Proof.Machine

/-! ## Lanes that take part -/

theorem selected_iff (t : Thread) (l : Nat) : t.selected l = true ↔ ∀ b, t.pblk = some b → b.cond.getD l false = b.mask.getLsbD b.j := by
  unfold Thread.selected
  cases h : t.pblk <;> simp

theorem mem_selLanes {t : Thread} {l : Nat} : l ∈ t.selLanes ↔ l < t.lanes.length ∧ t.selected l = true := by
  simp [Thread.selLanes, Thread.width]

theorem commit_lanes_length (t : Thread) (f : Fields) (e : Eff) : (t.commit f e).lanes.length = t.lanes.length := by
  simp [Thread.commit]

theorem commit_lane {t : Thread} {l : Nat} {x : Lane} (f : Fields) (e : Eff) (h : t.lanes[l]? = some x) :
    (t.commit f e).lanes[l]? = some (if t.selected l then x.after f e l else x) := by
  simp [Thread.commit, h]

/-! ## What a lane takes -/

/-- R37: one destination's effect on each part of a lane. -/
theorem Lane.write_eq (x : Lane) (r : PWord) (d : Dst) : x.write r d =
    { a := if d = .reg .a then r else x.a, b := if d = .reg .b then r else x.b, c := if d = .reg .c then r else x.c,
      d := if d = .reg .d then r else x.d, v := x.v, p := if d = .p then pOf r else x.p } := by
  cases d with
  | reg q => cases q <;> simp [Lane.write, Lane.setReg]
  | route n => simp [Lane.write]
  | v => simp [Lane.write]
  | p => simp [Lane.write]
  | none => simp [Lane.write]

theorem ite_ite_or {α : Type} (p q : Prop) [Decidable p] [Decidable q] (x y : α) :
    (if q then x else if p then x else y) = if p ∨ q then x else y := by
  by_cases hp : p <;> by_cases hq : q <;> simp [hp, hq]

/-- R105: a result reaches `v`, the registers that a destination names and, where one is `p`, `p`. -/
theorem Lane.result_eq (x : Lane) (f : Fields) (r : PWord) : x.result f r =
    { a := if f.dst1 = .reg .a ∨ f.dst2 = .reg .a then r else x.a, b := if f.dst1 = .reg .b ∨ f.dst2 = .reg .b then r else x.b,
      c := if f.dst1 = .reg .c ∨ f.dst2 = .reg .c then r else x.c, d := if f.dst1 = .reg .d ∨ f.dst2 = .reg .d then r else x.d,
      v := r, p := if f.dst1 = .p ∨ f.dst2 = .p then pOf r else x.p } := by
  simp only [Lane.result, Lane.write_eq, ite_ite_or]

theorem Lane.after_result {x : Lane} (f : Fields) {e : Eff} (l : Nat) {rs : List PWord} (hv : e.v = some rs) (hr : e.regs = true)
    (hl : e.load = false) (hp : e.p = none) : x.after f e l = x.result f (rs.getD l x.v) := by
  simp [Lane.after, hv, hr, hl, hp]

theorem Lane.after_predicate {x : Lane} (f : Fields) {e : Eff} (l : Nat) {ps : List Bool} (hv : e.v = none) (hp : e.p = some ps) :
    x.after f e l = { x with p := ps.getD l x.p } := by
  simp [Lane.after, hv, hp]

/-! ## An instruction that selects no lane (R83) -/

/-- With no lane selected no effect changes a lane. -/
theorem commit_unselected {t : Thread} (f : Fields) (e : Eff) (h : t.selLanes = []) : t.commit f e = t := by
  have hno : ∀ l, l < t.lanes.length → t.selected l = false := fun l hl =>
    Bool.eq_false_iff.2 (fun hs => List.not_mem_nil (h ▸ mem_selLanes.2 ⟨hl, hs⟩))
  have hlanes : (t.commit f e).lanes = t.lanes := by
    apply List.ext_getElem (commit_lanes_length ..)
    intro l _ hl
    simp [Thread.commit, hno l hl]
  exact (show t.commit f e = { t with lanes := (t.commit f e).lanes } from rfl).trans (by rw [hlanes])

/-- An instruction's own part that changes nothing but lanes: no state, no branch, no block, nothing of its tokens. -/
def Body.LanesOnly (s : State) (b : Body) : Prop := ∃ v p load, b = .ok s { v := v, p := p, load := load }

section Unselected
variable {s : State} {u : Nat} {t : Thread} {f : Fields} (hl : t.selLanes = [])
include hl

/-- R83: without a lane an instruction whose own part changes nothing but lanes only goes on. -/
theorem performs_unselected {i : Instr} {m : Form} {body : Nat → Thread → Body} (hx : exec i s = s.instr f m body)
    (hb : (body u t).LanesOnly s) (hi : Issues s u t f m) (hr : Room s s t t f {}) : Performs i s u f s t {} := by
  obtain ⟨v, p, load, hb⟩ := hb
  have hc : ∀ e, t.commit f e = t := fun e => commit_unselected f e hl
  have hemits : s.emits s t t f { v := v, p := p, load := load } = s.emits s t t f {} := by simp [State.emits, hc, Eff.scene]
  obtain ⟨s', h1, h2⟩ := exec_performs hx hi hb hi.thr hi.going rfl
    ⟨by rw [hemits]; exact hr.good, by rw [hemits]; exact hr.targets, by rw [hemits]; exact hr.slots⟩
  refine ⟨s', h1, h2.keeps, fun h h' => ?_, h2.ends⟩
  have hgoes := h2.goesOn h h'
  rw [hc] at hgoes ⊢
  exact hgoes

/-! The shapes of such a part, by what it asks before it acts. -/

omit hl in
theorem Body.LanesOnly.ok {e : Eff} (he : e = { v := e.v, p := e.p, load := e.load }) : Body.LanesOnly s (.ok s e) :=
  ⟨e.v, e.p, e.load, congrArg _ he⟩

/-- It asks for a lane. -/
theorem Body.LanesOnly.lane {e : Eff} {y : Body} (he : e = { v := e.v, p := e.p, load := e.load }) :
    Body.LanesOnly s (if t.selLanes.isEmpty then .ok s e else y) := by
  rw [hl]; exact .ok he

/-- It asks for a poisoned operand, then for a lane. -/
theorem Body.LanesOnly.operand {bad : Bool} {e : Eff} {y : Body} (he : e = { v := e.v, p := e.p, load := e.load }) :
    Body.LanesOnly s (if bad then .ok s e else if t.selLanes.isEmpty then .ok s {} else y) := by
  cases bad
  · exact .lane hl rfl
  · exact .ok he

/-- It asks for an operand that is not poisoned, then for a lane. -/
theorem Body.LanesOnly.sound {bad : Bool} {e : Eff} {x y : Body} (hb : bad = false) (he : e = { v := e.v, p := e.p, load := e.load }) :
    Body.LanesOnly s (if bad then x else if t.selLanes.isEmpty then .ok s e else y) := by
  rw [hb]; exact .lane hl he

/-- It does nothing else for want of a lane or for another reason. -/
theorem Body.LanesOnly.either {c : Bool} {e : Eff} {y : Body} (he : e = { v := e.v, p := e.p, load := e.load }) :
    Body.LanesOnly s (if c || t.selLanes.isEmpty then .ok s e else y) := by
  rw [hl, List.isEmpty_nil, Bool.or_true]; exact .ok he

/-- It acts where a lane takes part and something else holds. -/
theorem Body.LanesOnly.both {c : Bool} {e : Eff} {x : Body} (he : e = { v := e.v, p := e.p, load := e.load }) :
    Body.LanesOnly s (if c && !t.selLanes.isEmpty then x else .ok s e) := by
  rw [hl, List.isEmpty_nil, Bool.not_true, Bool.and_false]; exact .ok he

end Unselected

/-- Settles O7: the lanes by what one lane takes, the instructions without a lane by what each asks before it acts. -/
theorem resultsCommitPerLane : Obligations.ResultsCommitPerLane := by
  refine ⟨fun t f e => ⟨⟨rfl, commit_lanes_length ..⟩, selected_iff t, fun b _ => rfl, fun l x hx => ⟨fun hs => ?out, fun rs hs hv hr hd hp => ?result,
    fun ps hs hv hp => ?predicate⟩⟩, fun s u t f hl => ⟨?idle, fun hp => ⟨?ldc, ?stc⟩, fun x hx hr => ?access⟩⟩
  case out => rw [commit_lane f e hx, if_neg (by simp [hs])]
  case result =>
    refine ⟨x.result f (rs.getD l x.v), ?_, ?_⟩
    · rw [commit_lane f e hx, if_pos hs, Lane.after_result f l hv hr hd hp]
    · rw [Lane.result_eq]
      exact ⟨rfl, rfl, rfl, rfl, rfl, rfl⟩
  case predicate => rw [commit_lane f e hx, if_pos hs, Lane.after_predicate f l hv hp]
  case idle =>
    simp only [List.forall_mem_cons]
    refine ⟨?bkpt, ?wavea, ?time, ?ctxa, ?ctxf, ?pack, ?unpack, ?stbar, ?chnopn, ?chncls, ?fence, ?copy, ?cblk, ?cpcnl, ?semi, ?semset, ?semrd,
      ?fork, ?qfree, ?falloc, ?ffree, ?cwget, ?cwset, ?rgne, ?rgnx, ?lnch, ?place, ?rcmit, ?fltx, ?mark, fun _ h => absurd h List.not_mem_nil⟩
    case bkpt | mark => exact performs_unselected hl rfl (.both hl rfl)
    case wavea | falloc => exact performs_unselected hl rfl (.either hl rfl)
    case time | ctxa | ctxf | pack | unpack | chnopn | copy | cblk | cpcnl | fork | ffree | rgne | rgnx | lnch | place =>
      exact performs_unselected hl rfl (.operand hl rfl)
    case stbar | chncls | fence | semi | semset | semrd | qfree | cwget | rcmit | fltx => exact performs_unselected hl rfl (.lane hl rfl)
    case cwset => exact fun hi => performs_unselected hl rfl (.lane hl rfl) (hi.withFree _)
  case ldc | stc => exact performs_unselected hl rfl (.sound hl hp rfl)
  case access => simp [State.issueAcc, hx, hr]

end Sys2Proof.Machine
end

section
/-! What the shared updates leave of the state's tables: the hardware's own writes, the record of a fault, a suspension. -/

namespace Sys2Proof.Machine

theorem foldl_same {ι α : Type} (proj : State → α) (g : State → ι → State) (hg : ∀ s i, proj (g s i) = proj s) (l : List ι) (s : State) :
    proj (l.foldl g s) = proj s := by
  induction l generalizing s with
  | nil => rfl
  | cons i l ih => exact (ih _).trans (hg s i)

/-! ## Writes of the hardware -/

/-- The threads, cells, sites and partitions of s' and its clock are those of s. -/
structure TablesStay (s s' : State) : Prop where
  threads : s'.threads = s.threads
  cells : s'.cells = s.cells
  sites : s'.sites = s.sites
  parts : s'.parts = s.parts
  cycle : s'.cycle = s.cycle

theorem TablesStay.refl (s : State) : TablesStay s s := ⟨rfl, rfl, rfl, rfl, rfl⟩

theorem TablesStay.trans {s s' s'' : State} (h : TablesStay s s') (h' : TablesStay s' s'') : TablesStay s s'' :=
  ⟨h'.threads.trans h.threads, h'.cells.trans h.cells, h'.sites.trans h.sites, h'.parts.trans h.parts, h'.cycle.trans h.cycle⟩

theorem tablesStay_foldl {ι : Type} (g : State → ι → State) (hg : ∀ s i, TablesStay s (g s i)) (l : List ι) (s : State) :
    TablesStay s (l.foldl g s) := by
  induction l generalizing s with
  | nil => exact .refl s
  | cons i l ih => exact (hg s i).trans (ih _)

theorem tablesStay_hwCollapse (s : State) (line : Nat) : TablesStay s (s.hwCollapse line) := by
  unfold State.hwCollapse
  split <;> exact ⟨rfl, rfl, rfl, rfl, rfl⟩

theorem tablesStay_hwPerform (s : State) (a : Nat) (bs : List Byte) : TablesStay s (s.hwPerform a bs) := by
  unfold State.hwPerform
  split
  · exact .refl s
  · generalize hs : ({ s with mem := _, memBad := _ } : State) = s'
    have h : TablesStay s s' := hs ▸ ⟨rfl, rfl, rfl, rfl, rfl⟩
    refine h.trans (tablesStay_foldl _ (fun s i => ?_) _ _)
    exact (tablesStay_hwCollapse s (lineOf a + i)).trans ⟨rfl, rfl, rfl, rfl, rfl⟩

theorem tablesStay_hwSend (s : State) (a : Nat) (bs : List Byte) : TablesStay s (s.hwSend a bs) := by
  unfold State.hwSend
  refine TablesStay.trans (s' := s.bump.setAcc s.fresh _) ⟨rfl, rfl, rfl, rfl, rfl⟩ (tablesStay_foldl _ (fun s m => ?_) _ _)
  exact ⟨rfl, rfl, rfl, rfl, rfl⟩

theorem tablesStay_hwWrite (s : State) (a : Nat) (bs : List Byte) : TablesStay s (s.hwWrite a bs) := by
  unfold State.hwWrite
  split
  · exact tablesStay_hwSend ..
  · split
    · exact ⟨rfl, rfl, rfl, rfl, rfl⟩
    · exact tablesStay_hwPerform ..

/-! ## The record of a fault -/

/-- R357: with every held record written there is nothing to write before the next. -/
theorem State.flushHeld_of_written {s : State} {p : Nat} (h : ∀ e ∈ (s.part p).heldRecs, e.2.written = true) : s.flushHeld p = s := by
  have hnone : (s.part p).heldRecs.filter (fun e => !e.2.written) = [] := List.filter_eq_nil_iff.2 (fun e he => by simp [h e he])
  rw [State.flushHeld, hnone]
  rfl

theorem tablesStay_notify (s : State) (key : Nat) (payload : Word) : TablesStay s (s.notify key payload) := by
  unfold State.notify
  exact ⟨rfl, rfl, rfl, rfl, rfl⟩

theorem State.endCycle_parts (s : State) : s.endCycle.parts = s.parts := rfl

/-- R357: a record that awaits a reply stands at the tail; the threads are as before. -/
theorem State.putRecord_awaits {s : State} {p : Nat} {v : Part} (hv : tget s.parts p = some v) (cls region inv : Nat) (id : Word) (code : Nat)
    (details : List Word) (r : RecFor) (va : Int) :
    ((s.putRecord p cls region inv id code details (some r) va).part p
      = { v with tqTail := v.tqTail + 1, seq := v.seq + 1, recs := tset v.recs (v.tqTail.toNat % 256) ⟨v.seq, r, code, va, false⟩ })
    ∧ (s.putRecord p cls region inv id code details (some r) va).threads = s.threads := by
  have hstay := tablesStay_hwWrite s
  have hnote := fun (b : State) k w => tablesStay_notify b k w
  have hset : ∀ (b : State) (V : Part), (b.setPart p V).part p = V := fun b V => (State.setPart_part ..).trans (if_pos rfl)
  unfold State.putRecord
  simp only [hv]
  generalize hz : State.endCycle _ = z
  have hpart := (State.part_congr (s' := z) (by
    rw [← hz, State.endCycle_parts, (hnote _ _ _).parts, State.modLaunch_parts]) p).trans (hset _ _)
  have hthr : z.threads = s.threads := by
    rw [← hz, State.endCycle_threads, (hnote _ _ _).threads, State.modLaunch_threads, State.setPart_threads, (hstay _ _).threads]
  split
  · exact ⟨hpart, hthr⟩
  · split <;> exact ⟨hpart, hthr⟩

/-! ## Suspension -/

theorem State.modCells_parts (s : State) (x : Site) (cs : List Nat) (g : Cell → Cell) : (s.modCells x cs g).parts = s.parts := by
  unfold State.modCells
  exact foldl_same State.parts _ (fun s c => by rfl) cs s

theorem State.wake_parts (s : State) (x : Site) (cs : List Nat) : (s.wake x cs).parts = s.parts := by
  unfold State.wake
  exact foldl_same State.parts _ (fun s c => by rfl) cs s

theorem State.suspend_parts (s : State) (u : Nat) (st : TStat) : (s.suspend u st).parts = s.parts := by
  unfold State.suspend
  split
  · rfl
  · split
    · rfl
    · rw [State.wake_parts, State.setThr_parts, State.modCells_parts]

/-- R95: a suspended thread has its new status and is otherwise as it was, but for its slot and its place in the order. -/
theorem State.suspend_stat {s : State} {u : Nat} {t : Thread} (st : TStat) (h : s.thr? u = some t) :
    ∃ sl su, (s.suspend u st).thr? u = some { t with stat := st, slot := sl, susp := su } := by
  unfold State.suspend
  rw [h]
  simp only
  split
  · exact ⟨none, s.tick, thr_setThr ..⟩
  · exact ⟨_, _, (State.thr_congr (threads_wake ..) u).trans (thr_setThr ..)⟩

end Sys2Proof.Machine
end

section
/-! Control flow (R81, R83, R84, R88 to R92): the condition of a branch, the next IP, the loop stack, and the wave and time of
a thread. -/

namespace Sys2Proof.Machine

/-! ## Conditions (R84) -/

/-- The predicates of the selected lanes, ascending. -/
theorem selLanes_predicates (t : Thread) :
    (t.selLanes.filterMap (fun l => t.lanes[l]?)).map (fun x => x.p)
      = (t.lanes.zipIdx.filter (fun x => t.selected x.2)).map (fun x => x.1.p) := by
  have hzip : t.lanes.zipIdx = (List.range t.lanes.length).map (fun l => (t.lanes.getD l Lane.fresh, l)) := by
    apply List.ext_getElem
    · simp
    · intro l _ hl
      simp only [List.length_map, List.length_range] at hl
      simp [hl]
  have hget : t.selLanes.filterMap (fun l => t.lanes[l]?) = t.selLanes.map (fun l => t.lanes.getD l Lane.fresh) := by
    rw [← List.filterMap_eq_map]
    apply List.filterMap_congr
    intro l hl
    simp [(mem_selLanes.1 hl).1]
  rw [hzip, hget, List.filter_map, List.map_map, List.map_map]
  rfl

/-- R88: a legal BRP asks for any, all or none of the selected lanes. -/
theorem cond_of_brp {t : Thread} {f : Fields} (h : fieldsOk 0x03 f = true) :
    t.cond (fld f.lit 8 2) = (let ps := (t.lanes.zipIdx.filter (fun x => t.selected x.2)).map (fun x => x.1.p)
      match fld f.lit 8 2 with
      | 0 => ps.any id
      | 1 => !ps.isEmpty && ps.all id
      | _ => !ps.any id) := by
  have hlt : fld f.lit 8 2 < 4 := fld_lt ..
  have hne : fld f.lit 8 2 ≠ 3 := by
    simp [fieldsOk, litUse, litOk] at h
    obtain ⟨⟨-, -, hne⟩, -⟩ := h
    exact hne
  unfold Thread.cond
  rw [selLanes_predicates]
  interval_cases fld f.lit 8 2
  · rfl
  · rfl
  · rfl
  · exact absurd rfl hne

/-! ## The next IP (R81) -/

theorem loopBack_done {cand : Nat} {e : LoopEnt} (es : List LoopEnt) (h : e.fin < cand) (hc : e.count ≤ 1) :
    loopBack cand (e :: es) = loopBack cand es := by simp [loopBack, h, hc]

theorem loopBack_again {cand : Nat} {e : LoopEnt} (es : List LoopEnt) (h : e.fin < cand) (hc : 1 < e.count) :
    loopBack cand (e :: es) = (e.start, { e with count := e.count - 1 } :: es) := by simp [loopBack, h, Nat.not_le.2 hc]

theorem loopBack_inside {cand : Nat} {e : LoopEnt} (es : List LoopEnt) (h : cand ≤ e.fin) :
    loopBack cand (e :: es) = (cand, e :: es) := by simp [loopBack, Nat.not_lt.2 h]

/-- R81: where no branch is taken. -/
theorem advance_none (t : Thread) : t.advance none = { t with ip := (loopBack (t.ip + 1) t.loops).1, loops := (loopBack (t.ip + 1) t.loops).2 } := rfl

/-! ## LOOP and LEXIT (R90, R91) -/

/-- R357: a replayable fault of thread u, with room in its partition's trap queue, is its record and nothing else. -/
theorem raise_replayable {s : State} {w : Who} {v : Part} {code : Nat} (details : List Word) (r : RecFor) (hv : tget s.parts w.part = some v)
    (ho : v.occupancy < 248) (hw : ∀ e ∈ v.heldRecs, e.2.written = true) (hc : code < 0x10) :
    s.raise w code details (some r) = s.putRecord w.part 0 w.region w.inv (s.invId w.inv) code details (some r) 0 := by
  have hp : s.part w.part = v := by simp [State.part, tgetD, hv]
  have hcls : faultClass code = 0 := if_pos hc
  unfold State.raise
  rw [State.flushHeld_of_written (by rw [hp]; exact hw), hcls]
  simp only [State.putOrHold, hp, ho, if_true, hcls, Option.getD_some]

theorem tqFull_eq_false {s : State} {p : Nat} {v : Part} (hv : tget s.parts p = some v) (ho : v.occupancy < 248)
    (hw : ∀ e ∈ v.heldRecs, e.2.written = true) : s.tqFull p = false := by
  have hp : s.part p = v := by simp [State.part, tgetD, hv]
  rw [State.tqFull, State.flushHeld_of_written (by rw [hp]; exact hw), hp]
  exact decide_eq_false (Nat.not_le.2 ho)

/-- R90: with room for its record a LOOP at a full stack writes it and awaits the reply, its IP and its stack as they were. -/
theorem loopFault_record {s : State} {u : Nat} {t : Thread} {v : Part} (ht : s.thr? u = some t) (hv : tget s.parts t.part = some v)
    (ho : v.occupancy < 248) (hw : ∀ e ∈ v.heldRecs, e.2.written = true) :
    (∃ sl su, (s.loopFault u t).thr? u = some { t with stat := .reply, slot := sl, susp := su })
    ∧ (s.loopFault u t).part t.part =
      { v with tqTail := v.tqTail + 1, seq := v.seq + 1, recs := tset v.recs (v.tqTail.toNat % 256) ⟨v.seq, .loop u, 0x0004, 0, false⟩ } := by
  unfold State.loopFault
  simp only [tqFull_eq_false hv ho hw, Bool.false_eq_true, if_false]
  rw [raise_replayable _ _ (w := t.who 0x04) hv ho hw (by decide)]
  obtain ⟨hpart, hthr⟩ := State.putRecord_awaits hv 0 (t.who 0x04).region (t.who 0x04).inv (s.invId (t.who 0x04).inv) 0x0004
    ((t.who 0x04).details 0 []) (.loop u) 0
  exact ⟨State.suspend_stat .reply ((State.thr_congr hthr u).trans ht), (State.part_congr (State.suspend_parts ..) _).trans hpart⟩

section Loops
variable {s : State} {u : Nat} {t : Thread} {f : Fields}

theorem loop_zero (hi : Issues s u t f { opc := 0x04, b := false }) (hn : (if (t.a0 f).pois then 0 else (t.a0 f).w.toNat) = 0) {e : Eff}
    (he : e = { v := if (t.a0 f).pois then some (t.zs.map (fun z => { z with pois := true })) else none, regs := false,
                jump := some (fld f.lit 0 8 + 1) }) (hr : Room s s t t f e) : Performs (.loop f) s u f s t e := by
  subst he
  exact exec_performs rfl hi (if_pos hn) hi.thr hi.going rfl hr

theorem loop_pushes (hi : Issues s u t f { opc := 0x04, b := false }) {n : Nat} (hn : (if (t.a0 f).pois then 0 else (t.a0 f).w.toNat) = n)
    (hpos : 0 < n) (hlen : t.loops.length < 3) {k : Thread} (hk : k = { t with loops := ⟨t.ip + 1, fld f.lit 0 8, n⟩ :: t.loops })
    (hr : Room s (s.setThr u k) t k f {}) : Performs (.loop f) s u f (s.setThr u k) k {} := by
  subst hk hn
  refine exec_performs rfl hi ?_ (thr_setThr ..) hi.going rfl hr
  exact (if_neg (Nat.pos_iff_ne_zero.1 hpos)).trans (if_neg (Nat.not_le.2 hlen))

theorem loop_full (hi : Issues s u t f { opc := 0x04, b := false }) (hpos : 0 < if (t.a0 f).pois then 0 else (t.a0 f).w.toNat)
    (hlen : 3 ≤ t.loops.length) : exec (.loop f) s = .next (s.loopFault u t) := by
  have hx : exec (.loop f) s = s.instr f { opc := 0x04, b := false } _ := rfl
  rw [hx, instr_issues hi]
  simp only [Zx, if_neg (Nat.pos_iff_ne_zero.1 hpos), if_pos hlen]

theorem lexit_taken (hi : Issues s u t f { opc := 0x05, a := false, b := false }) (hc : t.cond (fld f.lit 8 2) = true) {k : Thread}
    (hk : k = { t with loops := t.loops.drop (fld f.lit 10 2) }) {e : Eff} (he : e = { jump := some (fld f.lit 0 8) })
    (hr : Room s (s.setThr u k) t k f e) : Performs (.lexit f) s u f (s.setThr u k) k e := by
  subst hk he
  exact exec_performs rfl hi (if_pos hc) (thr_setThr ..) hi.going rfl hr

theorem lexit_not_taken (hi : Issues s u t f { opc := 0x05, a := false, b := false }) (hc : t.cond (fld f.lit 8 2) = false)
    (hr : Room s s t t f {}) : Performs (.lexit f) s u f s t {} :=
  exec_performs rfl hi (if_neg (Bool.eq_false_iff.1 hc)) hi.thr hi.going rfl hr

end Loops

/-! ## WAVEA and TIME (R88, R92) -/

section WaveTime
variable {s : State} {u : Nat} {t : Thread} {f : Fields}

theorem wavea_poisoned (hi : Issues s u t f { opc := 0x0A, b := false }) (ha : (t.a0 f).pois = true) {e : Eff}
    (he : e = .val (List.replicate t.width ⟨w32 t.wave.toNat, (t.a0 f).pois⟩)) (hr : Room s s t t f e) :
    Performs (.wavea f) s u f s t e := by
  subst he
  exact exec_performs rfl hi (if_pos (by rw [ha]; rfl)) hi.thr hi.going rfl hr

theorem wavea_takes (hi : Issues s u t f { opc := 0x0A, b := false }) (ha : (t.a0 f).pois = false) (hl : t.selLanes ≠ []) {k : Thread}
    (hk : k = { t with wave := BitVec.ofNat 16 (fld (t.a0 f).w 0 16) }) {e : Eff}
    (he : e = .val (List.replicate t.width ⟨w32 t.wave.toNat, (t.a0 f).pois⟩)) (hr : Room s (s.setThr u k) t k f e) :
    Performs (.wavea f) s u f (s.setThr u k) k e := by
  subst hk he
  exact exec_performs rfl hi (if_neg (by simp [ha, hl])) (thr_setThr ..) hi.going rfl hr

theorem time_poisoned (hi : Issues s u t f { opc := 0x0B, b := false }) (ha : (t.a0 f).pois = true)
    (hr : Room s s t t f (.val (List.replicate t.width ⟨0, true⟩))) :
    Performs (.time f) s u f s t (.val (List.replicate t.width ⟨0, true⟩)) :=
  exec_performs rfl hi (if_pos ha) hi.thr hi.going rfl hr

/-- R92: selectors 0 and 2 latch the other half of their counter. -/
theorem time_latches (hi : Issues s u t f { opc := 0x0B, b := false }) (ha : (t.a0 f).pois = false) (hl : t.selLanes ≠ []) {sel : Nat}
    (hsel : fld (t.a0 f).w 0 2 = sel) (h : sel = 0 ∨ sel = 2) {k : Thread} (hk : k = { t with
      todHi := if sel = 0 then w32 (s.tod / 2 ^ 32) else t.todHi, cycHi := if sel = 2 then w32 (s.cycle / 2 ^ 32) else t.cycHi }) {e : Eff}
    (hE : e = .val (List.replicate t.width ⟨if sel = 0 then w32 s.tod else w32 s.cycle, false⟩)) (hr : Room s (s.setThr u k) t k f e) :
    Performs (.time f) s u f (s.setThr u k) k e := by
  subst hk hE
  refine exec_performs rfl hi ((if_neg (Bool.eq_false_iff.1 ha)).trans ((if_neg (by simp [hl])).trans ?_)) (thr_setThr ..) hi.going rfl hr
  rw [hsel]
  rcases h with rfl | rfl <;> rfl

/-- R92: selectors 1 and 3 return what is latched. -/
theorem time_latched (hi : Issues s u t f { opc := 0x0B, b := false }) (ha : (t.a0 f).pois = false) (hl : t.selLanes ≠ []) {sel : Nat}
    (hsel : fld (t.a0 f).w 0 2 = sel) (h : sel = 1 ∨ sel = 3) {e : Eff}
    (hE : e = .val (List.replicate t.width ⟨if sel = 1 then t.todHi else t.cycHi, false⟩)) (hr : Room s s t t f e) :
    Performs (.time f) s u f s t e := by
  subst hE
  refine exec_performs rfl hi ((if_neg (Bool.eq_false_iff.1 ha)).trans ((if_neg (by simp [hl])).trans ?_)) hi.thr hi.going rfl hr
  rw [hsel]
  rcases h with rfl | rfl <;> rfl

end WaveTime

/-- Settles O15: the effects that are lanes alone, the next IP from `loopBack`'s cases, each other instruction from its lemmas. -/
theorem flowInstructionResults : Obligations.FlowInstructionResults := by
  refine ⟨⟨?nop, ?mov, ?jmp, ?brp, ?pblk, ?steer, ?ptest⟩, fun t => ⟨?advances, fun g => ⟨rfl, rfl⟩, ?empty, ?top, fun e => ?block⟩,
    ⟨fun s u t f hi => ⟨fun hn => loop_zero hi hn rfl, fun hpos hlen => loop_pushes hi rfl hpos hlen rfl, ?full⟩,
      fun s u t f hi => ⟨fun hc => lexit_taken hi hc rfl rfl, lexit_not_taken hi⟩⟩,
    fun s u t f hi => ⟨fun ha => wavea_poisoned hi ha rfl, fun ha hl => wavea_takes hi ha hl rfl rfl⟩,
    fun s u t f hi => ⟨time_poisoned hi, ?latches, ?latched⟩⟩
  case nop | jmp | pblk => exact actsAs_pure (fun _ _ => rfl) (fun _ _ _ => rfl) (fun _ _ => rfl)
  case mov => exact actsAs_pure (fun _ _ => rfl) (fun t f _ => congrArg Eff.val (as_lanes t f)) (fun _ _ => rfl)
  case brp => exact actsAs_pure (fun _ _ => rfl) (fun t f h => by simp only [cond_of_brp h] <;> rfl) (fun _ _ => rfl)
  case steer => exact actsAs_pure (fun _ _ => rfl) (fun t f _ => by rw [as_lanes]) (fun _ _ => rfl)
  case ptest => exact actsAs_pure (fun _ _ => rfl) (fun t f _ => by rw [as_lanes, List.map_map, List.map_map]; rfl) (fun _ _ => rfl)
  case advances => exact fun j => by cases j <;> rfl
  case empty => exact fun h => by rw [advance_none, h]; exact ⟨rfl, rfl⟩
  case top =>
    intro e es h
    refine ⟨fun hin => ?_, fun hout hc => ?_, fun hout hc => ?_⟩
    · rw [advance_none, h, loopBack_inside es hin]; exact ⟨rfl, rfl⟩
    · rw [advance_none, h, loopBack_again es hout hc]; exact ⟨rfl, rfl⟩
    · rw [advance_none, h, loopBack_done es hout hc]; rfl
  case block =>
    refine ⟨fun b hb => by simp [Thread.nextPblk, hb], fun he ht => by simp [Thread.nextPblk, he, ht], fun b he ht => ?_⟩
    simp [Thread.nextPblk, he, ht, Pblk.step]
  case full =>
    intro hpos hlen v hv ho hw
    obtain ⟨⟨sl, su, hthr⟩, hpart⟩ := loopFault_record hi.thr hv ho hw
    refine ⟨_, _, loop_full hi hpos hlen, hthr, rfl, rfl, rfl, rfl, by rw [hpart], ?_⟩
    rw [hpart]
    exact tget_tset_same ..
  case latches =>
    intro ha hl hev hr
    have hlt := fld_lt (t.a0 f).w 0 2
    have h : fld (t.a0 f).w 0 2 = 0 ∨ fld (t.a0 f).w 0 2 = 2 := by omega
    refine time_latches hi ha hl rfl h rfl ?_ hr
    rcases h with h | h <;> rw [h] <;> rfl
  case latched =>
    intro ha hl hodd hr
    have hlt := fld_lt (t.a0 f).w 0 2
    have h : fld (t.a0 f).w 0 2 = 1 ∨ fld (t.a0 f).w 0 2 = 3 := by omega
    refine time_latched hi ha hl rfl h ?_ hr
    rcases h with h | h <;> rw [h] <;> rfl

end Sys2Proof.Machine
end

section
/-! Traps and breakpoints (R93): the record that a thread waits behind. -/

namespace Sys2Proof.Machine

/-- R93: the detail words of a trap or breakpoint record: the opcode and the place, the number, lane 0 of A and B and their
poison. -/
def Thread.trapDetails (t : Thread) (f : Fields) (opc num : Nat) : List Word :=
  [w32 (opc * 256 + t.ip % 256 * 65536), tileid t.src, w32 (t.frame.toNat * 4096), w32 t.wave.toNat, w32 num, (t.a0 f).w, (t.b0 f).w,
   w32 ((if (t.a0 f).pois then 1 else 0) + if (t.b0 f).pois then 2 else 0)]

section Trap
variable {s : State} {u : Nat} {t : Thread} {f : Fields}

theorem details_eq_trapDetails {opc : Nat} (ho : opc < 256) (num : Nat) :
    (t.who opc).details 0 [w32 num, (t.a0 f).w, (t.b0 f).w, w32 ((if (t.a0 f).pois then 1 else 0) + if (t.b0 f).pois then 2 else 0)]
      = t.trapDetails f opc num := by
  simp [Who.details, Thread.who, Thread.trapDetails, Nat.mod_eq_of_lt ho]

/-- R93, R357, R358: a trap's own part raises its record and leaves the thread waiting for the reply, or, with the trap queue
full, for the record. -/
theorem trapRecord_eq {opc : Nat} (ho : opc < 256) (code num : Nat) {k : Thread} (hk : k = { t with wait := some ⟨.unit, none, f, opc⟩ }) :
    s.trapRecord u t f opc code num = .ok ((s.raise (t.who opc) code (t.trapDetails f opc num) (some (.trap u))).setThr u k)
      { susp := some (if s.tqFull t.part then .record else .reply) } := by
  subst hk
  rw [← details_eq_trapDetails ho]
  rfl

theorem trap_enters (hi : Issues s u t f { opc := 0x0C }) (hc : t.cond (fld f.lit 8 2) = true) {k : Thread}
    (hk : k = { t with wait := some ⟨.unit, none, f, 0x0C⟩ }) {r : State}
    (hr : r = (s.raise (t.who 0x0C) 0x0010 (t.trapDetails f 0x0C (fld f.lit 0 8)) (some (.trap u))).setThr u k) (hs : RoomLate s r t k f) :
    Parks (.trap f) s u r k (if s.tqFull t.part then .record else .reply) := by
  subst hr
  exact exec_parks rfl hi ((if_pos hc).trans (trapRecord_eq (by decide) _ _ hk)) (thr_setThr ..) hs

theorem trap_not_taken (hi : Issues s u t f { opc := 0x0C }) (hc : t.cond (fld f.lit 8 2) = false) (hs : Room s s t t f {}) :
    Performs (.trap f) s u f s t {} :=
  exec_performs rfl hi (if_neg (Bool.eq_false_iff.1 hc)) hi.thr hi.going rfl hs

theorem bkpt_enters (hi : Issues s u t f { opc := 0x0D }) (hl : t.selLanes ≠ []) (hb : (s.part t.part).bkpten.getLsbD (fld f.lit 0 5) = true)
    {k : Thread} (hk : k = { t with wait := some ⟨.unit, none, f, 0x0D⟩ }) {r : State}
    (hr : r = (s.raise (t.who 0x0D) 0x0011 (t.trapDetails f 0x0D (fld f.lit 0 5)) (some (.trap u))).setThr u k) (hs : RoomLate s r t k f) :
    Parks (.bkpt f) s u r k (if s.tqFull t.part then .record else .reply) := by
  subst hr
  exact exec_parks rfl hi ((if_pos (by simp only [hb, Bool.true_and]; simp [hl])).trans (trapRecord_eq (by decide) _ _ hk)) (thr_setThr ..) hs

theorem bkpt_off (hi : Issues s u t f { opc := 0x0D }) (hb : (s.part t.part).bkpten.getLsbD (fld f.lit 0 5) = false)
    (hs : Room s s t t f {}) : Performs (.bkpt f) s u f s t {} :=
  exec_performs rfl hi (if_neg (by simp only [hb, Bool.false_and]; decide)) hi.thr hi.going rfl hs

end Trap

/-- Settles O16, from the record that a trap leaves its thread behind. -/
theorem trapAndBreakpointEntry : Obligations.TrapAndBreakpointEntry := fun _ _ _ _ =>
  ⟨fun hi => ⟨fun hc => trap_enters hi hc rfl rfl, trap_not_taken hi⟩,
   fun hi hl => ⟨fun hb => bkpt_enters hi hl hb rfl rfl, bkpt_off hi⟩⟩

end Sys2Proof.Machine
end

section
/-! Frames (R64 to R68, R97 to R99): what a spill, a touch or a write of a frame leaves, the index an allocation takes, and
the words of a slot after a write. -/

namespace Sys2Proof.Machine

/-! ## What operations on frames leave -/

/-- The threads and the partitions of s' and its clock are those of s. -/
structure ThreadsStay (s s' : State) : Prop where
  threads : s'.threads = s.threads
  parts : s'.parts = s.parts
  cycle : s'.cycle = s.cycle

theorem TablesStay.threadsStay {s s' : State} (h : TablesStay s s') : ThreadsStay s s' := ⟨h.threads, h.parts, h.cycle⟩

theorem ThreadsStay.refl (s : State) : ThreadsStay s s := ⟨rfl, rfl, rfl⟩

theorem ThreadsStay.trans {s s' s'' : State} (h : ThreadsStay s s') (h' : ThreadsStay s' s'') : ThreadsStay s s'' :=
  ⟨h'.threads.trans h.threads, h'.parts.trans h.parts, h'.cycle.trans h.cycle⟩

theorem ThreadsStay.thr {s s' : State} (h : ThreadsStay s s') (u : Nat) : s'.thr? u = s.thr? u := State.thr_congr h.threads u

theorem ThreadsStay.work {s s' : State} (h : ThreadsStay s s') (p : Nat) : s'.work p = s.work p := by
  simp [State.work, State.part_congr h.parts p, h.cycle]

theorem threadsStay_modSite (s : State) (x : Site) (g : SiteSt → SiteSt) : ThreadsStay s (s.modSite x g) := ⟨rfl, rfl, rfl⟩

theorem threadsStay_setFrame (s : State) (x : Site) (g : BitVec 20) (w : Frame) : ThreadsStay s (s.setFrame x g w) := by
  unfold State.setFrame
  split
  · exact .refl s
  · exact threadsStay_modSite ..

theorem threadsStay_retest (s : State) (x : Site) : ThreadsStay s (s.retest x) :=
  ⟨threads_foldl _ (fun _ _ => by rfl) _ s, foldl_same State.parts _ (fun _ _ => by rfl) _ s, foldl_same State.cycle _ (fun _ _ => by rfl) _ s⟩

/-- R68: the entries of the spill table are hardware writes. -/
theorem tablesStay_spillWrites (h : Site) (l : List (Nat × Frame)) (s : State) : TablesStay s (l.foldl (fun s e => s.spillWrite h e) s) := by
  refine tablesStay_foldl _ (fun s e => ?_) l s
  unfold State.spillWrite
  split
  · exact .refl s
  · exact tablesStay_hwWrite ..

theorem threadsStay_spill (s : State) (h : Site) (i cls : Nat) : ThreadsStay s (s.spill h i cls) := by
  unfold State.spill
  exact (tablesStay_spillWrites h _ s).threadsStay.trans (threadsStay_modSite ..)

theorem threadsStay_touchFrame (s : State) (x : Site) (g : BitVec 20) : ThreadsStay s (s.touchFrame x g) := by
  unfold State.touchFrame
  split
  · split
    · exact (threadsStay_spill ..).trans (threadsStay_modSite ..)
    · exact .refl s
  · exact .refl s

/-! ## Allocation (R67, R97) -/

theorem State.spill_frames (s : State) (h : Site) (i cls : Nat) : ((s.spill h i cls).site h).frames = spillFor (s.site h).frames i cls := by
  unfold State.spill
  rw [State.modSite_site, if_pos rfl, State.site_congr (tablesStay_spillWrites h _ s).sites]

/-- R67: a spill changes a frame's place alone. -/
theorem tget_spillFor (fs : Tbl Nat Frame) (i cls j : Nat) :
    tget (spillFor fs i cls) j = (tget fs j).map (fun w => if spillsFor i cls (j, w) then { w with spilled := true } else w) := by
  rw [← tget_map_snd fs (fun e => if spillsFor i cls e then { e.2 with spilled := true } else e.2) j]
  congr 1
  apply List.map_congr_left
  intro e _
  split <;> rfl

/-- R97: the place of index i in class c overlaps that of no resident frame. -/
def placeFree (fs : Tbl Nat Frame) (c i : Nat) : Prop :=
  ∀ e ∈ fs, e.2.spilled = false → placesMeet ((e.1 * 2 ^ e.2.cls) % 1024, 2 ^ e.2.cls) ((i * 2 ^ c) % 1024, 2 ^ c) = false

theorem placeFree_iff (fs : Tbl Nat Frame) (c i : Nat) : (!(fs.any (fun e => !e.2.spilled && placesMeet (framePlace e.1 e.2.cls) (framePlace i c)))) = true
    ↔ placeFree fs c i := by
  simp [placeFree, framePlace]

/-- R97: the lowest free index whose place is free, else the lowest free one. -/
theorem pickFrame_some {fs : Tbl Nat Frame} {c i : Nat} (h : pickFrame fs c = some i) :
    i < 2048 ∧ tget fs i = none ∧ (placeFree fs c i → ∀ j, j < i → tget fs j = none → ¬placeFree fs c j)
      ∧ (¬placeFree fs c i → ∀ j, j < 2048 → tget fs j = none → i ≤ j ∧ ¬placeFree fs c j) := by
  have hfree : ∀ j, (tget fs j).isNone = true ↔ tget fs j = none := fun j => Option.isNone_iff_eq_none
  unfold pickFrame at h
  simp only at h
  split at h
  · rename_i k hk
    cases h
    obtain ⟨hi, hlt, hmin⟩ := List.find?_range_eq_some.1 hk
    rw [Bool.and_eq_true, hfree, placeFree_iff] at hi
    obtain ⟨hnone, hplace⟩ := hi
    refine ⟨List.mem_range.1 hlt, hnone, fun _ j hj hn hp => ?_, fun hn => absurd hplace hn⟩
    have := hmin j hj
    rw [(hfree j).2 hn, (placeFree_iff ..).2 hp] at this
    cases this
  · rename_i hnone
    obtain ⟨hi, hlt, hmin⟩ := List.find?_range_eq_some.1 h
    have hall : ∀ j, j < 2048 → tget fs j = none → ¬placeFree fs c j := fun j hj hn hp => by
      have := List.find?_range_eq_none.1 hnone j hj
      rw [(hfree j).2 hn, (placeFree_iff ..).2 hp] at this
      cases this
    refine ⟨List.mem_range.1 hlt, (hfree i).1 hi, fun hp => absurd hp (hall i (List.mem_range.1 hlt) ((hfree i).1 hi)), fun _ j hj hn => ⟨?_, hall j hj hn⟩⟩
    by_contra hlt'
    have := hmin j (Nat.not_le.1 hlt')
    rw [(hfree j).2 hn] at this
    cases this

/-- R68, R97: what an allocation does. -/
theorem State.allocFrame_some {s s1 : State} {h : Site} {c use p rg inv : Nat} {g : BitVec 20}
    (ha : s.allocFrame h c use p rg inv = some (s1, g)) :
    ∃ i, pickFrame (s.site h).frames c = some i ∧ g = frameNum h i
      ∧ s1 = (s.spill h i c).modSite h (fun v => { v with frames := tset v.frames i (newFrame c use p rg inv) }) := by
  unfold State.allocFrame at ha
  simp only at ha
  split at ha
  · cases ha
  · split at ha
    · cases ha
    · rename_i i hi
      cases ha
      exact ⟨i, hi, rfl, rfl⟩

theorem threadsStay_allocFrame {s s1 : State} {h : Site} {c use p rg inv : Nat} {g : BitVec 20}
    (ha : s.allocFrame h c use p rg inv = some (s1, g)) : ThreadsStay s s1 := by
  obtain ⟨i, -, -, rfl⟩ := State.allocFrame_some ha
  exact (threadsStay_spill ..).trans (threadsStay_modSite ..)

theorem State.allocFrame_frames {s s1 : State} {h : Site} {c use p rg inv i : Nat}
    (hs : s1 = (s.spill h i c).modSite h (fun v => { v with frames := tset v.frames i (newFrame c use p rg inv) })) (j : Nat) :
    tget (s1.site h).frames j = if j = i then some (newFrame c use p rg inv)
      else (tget (s.site h).frames j).map (fun w => if spillsFor i c (j, w) then { w with spilled := true } else w) := by
  rw [hs, State.modSite_site, if_pos rfl, tget_tset, State.spill_frames, tget_spillFor]

theorem frameNum_tile {n i : Nat} (hn : n < 512) (hi : i < 2048) : (frameNum (.tile n) i).toNat = n * 2048 + i :=
  (BitVec.toNat_ofNat ..).trans (Nat.mod_eq_of_lt (by omega))

/-! ## Classes (R64) -/

theorem classOf_pow {c : Nat} (h : c < 6) : classOf (2 ^ c) = some c := by interval_cases c <;> rfl

theorem classOf_none {w : Nat} (h : w ∉ [1, 2, 4, 8, 16, 32]) : classOf w = none := by
  unfold classOf
  split
  case h_7 => rfl
  all_goals exact absurd (by decide) h

/-! ## Slots (R96) -/

theorem Frame.setWord_kept (w : Frame) (k l : Nat) (x : PWord) : (w.setWord k l x).cls = w.cls ∧ (w.setWord k l x).use = w.use
    ∧ (w.setWord k l x).present = w.present ∧ (w.setWord k l x).toks = w.toks := by
  unfold Frame.setWord
  split <;> exact ⟨rfl, rfl, rfl, rfl⟩

theorem Frame.word_setWord (w : Frame) (k l : Nat) (x : PWord) (j m : Nat) :
    (w.setWord k l x).word j m = if j = k ∧ m = l ∧ m < 2 ^ w.cls then x else w.word j m := by
  unfold Frame.setWord
  split
  case isTrue hl =>
    by_cases hm : m < 2 ^ w.cls
    · by_cases hj : j = k
      · subst hj
        by_cases hml : m = l <;> simp [Frame.word, tgetD_tset, hm, hml, hl]
      · simp [Frame.word, tgetD_tset, hj]
    · simp [Frame.word, hm]
  case isFalse hl =>
    have : ¬(m = l ∧ m < 2 ^ w.cls) := fun h => hl (h.1 ▸ h.2)
    simp [this]

/-- R99: writes of several lanes of one slot. -/
theorem Frame.setWords (w : Frame) (k : Nat) (ls : List Nat) (x : Nat → PWord) :
    let w' := ls.foldl (fun w l => w.setWord k l (x l)) w
    (w'.cls = w.cls ∧ w'.use = w.use ∧ w'.present = w.present ∧ w'.toks = w.toks)
      ∧ ∀ j l, w'.word j l = if j = k ∧ l ∈ ls ∧ l < 2 ^ w.cls then x l else w.word j l := by
  induction ls generalizing w with
  | nil => exact ⟨⟨rfl, rfl, rfl, rfl⟩, fun j l => (if_neg (by simp)).symm⟩
  | cons m ls ih =>
    obtain ⟨⟨hc, hu, hp, ht⟩, hword⟩ := ih (w.setWord k m (x m))
    obtain ⟨kc, ku, kp, kt⟩ := w.setWord_kept k m (x m)
    refine ⟨⟨hc.trans kc, hu.trans ku, hp.trans kp, ht.trans kt⟩, fun j l => (hword j l).trans ?_⟩
    rw [Frame.word_setWord, kc]
    by_cases hl : l = m
    · subst hl; by_cases hj : j = k <;> by_cases hm : l < 2 ^ w.cls <;> simp [hj, hm]
    · simp [hl]

end Sys2Proof.Machine
end

section
/-! The frame instructions (R96 to R99): FALLOC, FFREE, FRD and FWR in each of their cases. -/

namespace Sys2Proof.Machine

/-- The operands of B, lane by lane. -/
theorem bs_lanes (t : Thread) (f : Fields) : t.bs f = (List.range t.width).map (t.bW f) := by
  have h := map_range_getD (t.bs f) PWord.zero id
  rw [List.map_id, bs_length] at h
  exact h

/-! ## FALLOC (R97) -/

section Falloc
variable {s : State} {u : Nat} {t : Thread} {f : Fields}

/-- What an FALLOC that cannot have its frame gives. -/
def fallocFail (t : Thread) : Eff := { v := some (List.replicate t.width .zero), p := some (List.replicate t.width false) }

/-- R97: operands outside their range, an element, no lane or no frame to be had. -/
theorem falloc_fails (hi : Issues s u t f { opc := 0xF0 })
    (h : (t.a0 f).pois = true ∨ (t.b0 f).pois = true ∨ isElem t.src.site = true ∨ (t.a0 f).w = 0 ∨ 65535 < (t.a0 f).w.toNat
      ∨ ∀ c, classOf (if (t.b0 f).w = 0 then t.width else (t.b0 f).w.toNat) = some c →
          s.allocFrame t.src.site c (t.a0 f).w.toNat t.part t.region t.inv = none)
    (hr : Room s s t t f (fallocFail t)) : Performs (.falloc f) s u f s t (fallocFail t) := by
  refine exec_performs rfl hi ?_ hi.thr hi.going rfl hr
  simp only
  split
  · rfl
  · rename_i hsound
    simp only [Bool.or_eq_true, beq_iff_eq, decide_eq_true_eq, not_or, Bool.not_eq_true] at hsound
    obtain ⟨⟨⟨⟨⟨ha, hb⟩, he⟩, h0⟩, hmax⟩, -⟩ := hsound
    have hw : (t.a0 f).w ≠ 0 := fun hw => h0 (by rw [hw]; rfl)
    simp only [ha, hb, he, hw, Bool.false_eq_true, false_or] at h
    have hnone := h.resolve_left hmax
    split
    · rfl
    · rename_i c hc
      rw [show s.allocFrame t.src.site c (Zx (t.a0 f).w) t.part t.region t.inv = none from hnone c hc]
      rfl

/-- R97: an FALLOC that has its frame returns its number with `p` set. -/
theorem falloc_allocates (hi : Issues s u t f { opc := 0xF0 }) (ha : (t.a0 f).pois = false) (hb : (t.b0 f).pois = false)
    (he : isElem t.src.site = false) (h0 : (t.a0 f).w ≠ 0) (hmax : (t.a0 f).w.toNat ≤ 65535) (hl : t.selLanes ≠ []) {c : Nat}
    (hc : classOf (if (t.b0 f).w = 0 then t.width else (t.b0 f).w.toNat) = some c) {s1 : State} {g : BitVec 20}
    (hs : s.allocFrame t.src.site c (t.a0 f).w.toNat t.part t.region t.inv = some (s1, g)) {e : Eff}
    (hE : e = { v := some (List.replicate t.width ⟨w32 (g.toNat * 4096), false⟩), p := some (List.replicate t.width true) })
    (hr : Room s s1 t t f e) : Performs (.falloc f) s u f s1 t e := by
  subst hE
  refine exec_performs rfl hi ?_ (((threadsStay_allocFrame hs).thr u).trans hi.thr) hi.going rfl hr
  have h0' : (Zx (t.a0 f).w == 0) = false := beq_eq_false_iff_ne.2 (fun h => h0 (BitVec.eq_of_toNat_eq h))
  have hmax' : decide (65535 < Zx (t.a0 f).w) = false := decide_eq_false (Nat.not_lt.2 hmax)
  have hl' : t.selLanes.isEmpty = false := by simpa using hl
  simp only [ha, hb, he, h0', hmax', hl', Bool.or_false, Bool.false_eq_true, if_false]
  rw [show classOf (if (t.b0 f).w = 0 then t.width else Zx (t.b0 f).w) = some c from hc]
  simp only
  rw [show s.allocFrame t.src.site c (Zx (t.a0 f).w) t.part t.region t.inv = some (s1, g) from hs]
  rfl

end Falloc

/-! ## FFREE (R98) -/

/-- R98: freeing the frame of a number at the home by which FFREE reaches it. -/
theorem freeFrame_freeHome (s : State) (x : Site) (g : BitVec 20) :
    s.freeFrame (freeHome x g) g = s.modSite (freeHome x g) (fun v => { v with frames := tdel v.frames (frameLocal g) }) := by
  cases x <;> rfl

section Ffree
variable {s : State} {u : Nat} {t : Thread} {f : Fields} {g : BitVec 20} {r : State} {e : Eff}

theorem ffree_poisoned (hi : Issues s u t f { opc := 0xF1, b := false }) (ha : (t.a0 f).pois = true)
    (hE : e = .val ((List.range t.width).map (fun l => ⟨(t.aW f l).w, true⟩))) (hr : Room s s t t f e) : Performs (.ffree f) s u f s t e := by
  refine exec_performs rfl hi ((if_pos ha).trans ?_) hi.thr hi.going (by rw [hE]; rfl) hr
  rw [hE, as_lanes, List.map_map]
  rfl

theorem ffree_frees (hi : Issues s u t f { opc := 0xF1, b := false }) (ha : (t.a0 f).pois = false) (hl : t.selLanes ≠ [])
    (hg : g = contFrame (t.a0 f).w) (hw : ∃ w, tget (s.site (freeHome t.src.site g)).frames (frameLocal g) = some w ∧ w.part = t.part)
    (hR : r = s.modSite (freeHome t.src.site g) (fun v => { v with frames := tdel v.frames (frameLocal g) }))
    (hE : e = .val ((List.range t.width).map (t.aW f))) (hr : Room s r t t f e) : Performs (.ffree f) s u f r t e := by
  obtain ⟨w, hw, hp⟩ := hw
  subst hg
  refine exec_performs rfl hi ((if_neg (Bool.eq_false_iff.1 ha)).trans ((if_neg (by simp [hl])).trans ?_)) (by rw [hR]; exact hi.thr) hi.going
    (by rw [hE]; rfl) hr
  simp only [hw, hp, if_true]
  rw [freeFrame_freeHome, hR, hE, as_lanes]

theorem ffree_raises (hi : Issues s u t f { opc := 0xF1, b := false }) (ha : (t.a0 f).pois = false) (hl : t.selLanes ≠ [])
    (hg : g = contFrame (t.a0 f).w) (hw : ∀ w, tget (s.site (freeHome t.src.site g)).frames (frameLocal g) = some w → w.part ≠ t.part)
    (hR : r = s.raise (t.who 0xF1) 0x0106 ((t.who 0xF1).details 0 [w32 (g.toNat * 4096)]))
    (hE : e = .val ((List.range t.width).map (t.aW f))) {k : Thread} (hk : r.thr? u = some k) (hend : k.ending = false)
    (hr : Room s r t k f e) : Performs (.ffree f) s u f r k e := by
  subst hg hR
  refine exec_performs rfl hi ((if_neg (Bool.eq_false_iff.1 ha)).trans ((if_neg (by simp [hl])).trans ?_)) hk hend (by rw [hE]; rfl) hr
  rw [hE, ← as_lanes]
  simp only
  split
  · rfl
  · rename_i w hf
    exact if_neg (hw w hf)

end Ffree

/-! ## FRD and FWR (R96, R99) -/

/-- The frame that FRD or FWR names. -/
def frdNum (t : Thread) (f : Fields) : BitVec 20 := if bit f.lit 7 then contFrame (t.a0 f).w else t.frame

section FrdFwr
variable {s : State} {u : Nat} {t : Thread} {f : Fields} {w : Frame} {b : State} {e : Eff}

theorem frdFrame_ok (ha : bit f.lit 7 = true → (t.a0 f).pois = false) (hw : s.frameFor t (frdNum t f) = .ok w) :
    s.frdFrame t f = .ok (frdNum t f, w) := by
  have hn : (bit f.lit 7 && (t.a0 f).pois) = false := by cases h : bit f.lit 7 <;> simp [h, ha]
  unfold frdNum at hw ⊢
  simp only [State.frdFrame, hn, Bool.false_eq_true, if_false, hw]

/-- R99: a poisoned number is that of no frame at home; any other is what the site makes of it. -/
theorem frdFrame_error {c : Nat} (h : (bit f.lit 7 = true ∧ (t.a0 f).pois = true ∧ c = 0x0102)
    ∨ ((bit f.lit 7 = true → (t.a0 f).pois = false) ∧ s.frameFor t (frdNum t f) = .error c)) : s.frdFrame t f = .error c := by
  rcases h with ⟨hb, hp, rfl⟩ | ⟨ha, hw⟩
  · simp [State.frdFrame, hb, hp]
  · have hn : (bit f.lit 7 && (t.a0 f).pois) = false := by cases h : bit f.lit 7 <;> simp [h, ha]
    unfold frdNum at hw
    simp only [State.frdFrame, hn, Bool.false_eq_true, if_false, hw]

theorem frameFail_raises (hl : t.selLanes ≠ []) (opc c : Nat) :
    s.frameFail t opc c = .ok (s.raise (t.who opc) c ((t.who opc).details 0 [])) (.val (List.replicate t.width ⟨0, true⟩)) :=
  if_neg (by simp [hl])

/-- R99: FRD and FWR of a frame that the thread may not use. -/
theorem frameFail_performs {i : Instr} {m : Form} {body : Nat → Thread → Body} {opc c : Nat} {k : Thread} (hx : exec i s = s.instr f m body)
    (hbody : body u t = s.frameFail t opc c) (hi : Issues s u t f m) (hl : t.selLanes ≠ [])
    (hb : b = s.raise (t.who opc) c ((t.who opc).details 0 [])) (hk : b.thr? u = some k) (hend : k.ending = false)
    (hr : Room s b t k f (.val (List.replicate t.width ⟨0, true⟩))) : Performs i s u f b k (.val (List.replicate t.width ⟨0, true⟩)) := by
  subst hb
  exact exec_performs hx hi (hbody.trans (frameFail_raises hl ..)) hk hend rfl hr

/-- R96: an FRD that leaves the presence bits. -/
theorem frd_reads (hi : Issues s u t f { opc := 0xF2, b := false }) {g : BitVec 20} (h : s.frdFrame t f = .ok (g, w))
    (hc : bit f.lit 6 = false ∨ t.selLanes = []) (hE : e = .val ((List.range t.width).map (w.word (fld f.lit 0 6))))
    (hr : Room s (s.touchFrame t.src.site g) t t f e) : Performs (.frd f) s u f (s.touchFrame t.src.site g) t e := by
  subst hE
  refine exec_performs rfl hi ?_ (((threadsStay_touchFrame ..).thr u).trans hi.thr) hi.going rfl hr
  have hcond : (bit f.lit 6 && !t.selLanes.isEmpty) = false := by rcases hc with hc | hc <;> simp [hc]
  simp only [h, hcond, Bool.false_eq_true, if_false]

/-- R96: an FRD that clears the presence bit of its slot. -/
theorem frd_clears (hi : Issues s u t f { opc := 0xF2, b := false }) {g : BitVec 20} (h : s.frdFrame t f = .ok (g, w))
    (hc : bit f.lit 6 = true) (hl : t.selLanes ≠ []) (hE : e = .val ((List.range t.width).map (w.word (fld f.lit 0 6))))
    (hb : b = (s.touchFrame t.src.site g).setFrame t.src.site g ({ w with spilled := false }.clear (fld f.lit 0 6)))
    (hr : Room s b t t f e) : Performs (.frd f) s u f b t e := by
  subst hE hb
  refine exec_performs rfl hi ?_ ((((threadsStay_touchFrame ..).trans (threadsStay_setFrame ..)).thr u).trans hi.thr) hi.going rfl hr
  have hcond : (bit f.lit 6 && !t.selLanes.isEmpty) = true := by simp [hc, hl]
  simp only [h, hcond, if_true]

/-- The frame after FWR's lanes. -/
def Thread.fwrFrame (t : Thread) (f : Fields) (w : Frame) : Frame :=
  t.selLanes.foldl (fun w l => w.setWord (fld f.lit 0 6) l (t.bW f l)) { w with spilled := false }

/-- R96: an FWR that leaves the presence bits. -/
theorem fwr_writes (hi : Issues s u t f { opc := 0xF3 }) {g : BitVec 20} (h : s.frdFrame t f = .ok (g, w))
    (hc : bit f.lit 6 = false ∨ t.selLanes = []) (hE : e = .val ((List.range t.width).map (t.bW f)))
    (hb : b = (s.touchFrame t.src.site g).setFrame t.src.site g (t.fwrFrame f w)) (hr : Room s b t t f e) : Performs (.fwr f) s u f b t e := by
  subst hb
  refine exec_performs rfl hi ?_ ((((threadsStay_touchFrame ..).trans (threadsStay_setFrame ..)).thr u).trans hi.thr) hi.going (by rw [hE]; rfl) hr
  have hcond : (bit f.lit 6 && !t.selLanes.isEmpty) = false := by rcases hc with hc | hc <;> simp [hc]
  simp only [h, hcond, Bool.false_eq_true, if_false]
  rw [hE, ← bs_lanes]
  rfl

/-- R96: an FWR that sets the presence bit of its slot; the waits of its site look again. -/
theorem fwr_marks (hi : Issues s u t f { opc := 0xF3 }) {g : BitVec 20} (h : s.frdFrame t f = .ok (g, w))
    (hc : bit f.lit 6 = true) (hl : t.selLanes ≠ []) (hE : e = .val ((List.range t.width).map (t.bW f)))
    (hb : b = ((s.touchFrame t.src.site g).setFrame t.src.site g ((t.fwrFrame f w).mark (fld f.lit 0 6))).retest t.src.site)
    (hr : Room s b t t f e) : Performs (.fwr f) s u f b t e := by
  subst hb
  refine exec_performs rfl hi ?_ (((((threadsStay_touchFrame ..).trans (threadsStay_setFrame ..)).trans (threadsStay_retest ..)).thr u).trans hi.thr)
    hi.going (by rw [hE]; rfl) hr
  have hcond : (bit f.lit 6 && !t.selLanes.isEmpty) = true := by simp [hc, hl]
  simp only [h, hcond, if_true]
  rw [hE, ← bs_lanes]
  rfl

end FrdFwr

/-- Settles O18: each instruction from its cases, an allocation from the index it takes. -/
theorem frameInstructionResults : Obligations.FrameInstructionResults := by
  refine ⟨⟨fun s u t f hi => ⟨?bad, fun ha hb he h0 hmax hl c hc hlt => ⟨?none, ?some⟩⟩, ?alloc⟩, fun s u t f hi => ⟨?poisoned, ?frees, ?raises⟩,
    fun s u t f => ⟨fun hi => ⟨fun w ha hw => ⟨?reads, ?clears⟩, ?frdStops⟩, fun hi => ⟨fun w ha hw => ⟨?writes, ?marks⟩, ?fwrStops⟩⟩,
    Frame.setWords⟩
  case bad =>
    have hclass : ∀ {w : Nat}, w ∉ [1, 2, 4, 8, 16, 32] → ∀ c, classOf w = some c → s.allocFrame t.src.site c (t.a0 f).w.toNat t.part t.region t.inv = none :=
      fun hw c hc => by rw [classOf_none hw] at hc; cases hc
    exact fun h hr => falloc_fails hi (h.imp_right (Or.imp_right (Or.imp_right (Or.imp_right (Or.imp_right hclass))))) hr
  case none =>
    intro hnone hr
    refine falloc_fails hi (.inr (.inr (.inr (.inr (.inr (fun c' hc' => ?_)))))) hr
    rw [hc, classOf_pow hlt] at hc'
    cases hc'
    exact hnone
  case some => exact fun s1 g hs hr => falloc_allocates hi ha hb he h0 hmax hl (hc ▸ classOf_pow hlt) hs rfl hr
  case alloc =>
    intro s s1 n c use p rg inv g hn ha
    obtain ⟨i, hpick, hnum, hs1⟩ := State.allocFrame_some ha
    obtain ⟨hi, hfree, hfirst, hlowest⟩ := pickFrame_some hpick
    have hframes := fun j => State.allocFrame_frames hs1 j
    refine ⟨i, hi, by rw [hnum, frameNum_tile hn hi], hfree, (hframes i).trans (if_pos rfl), fun j hj => ?_, hfirst, hlowest⟩
    refine (congrArg _ ((hframes j).trans (if_neg hj))).trans ((Option.map_map ..).trans (congrArg (Option.map · _) (funext fun w => ?_)))
    simp only [Function.comp_apply]
    split <;> rfl
  case poisoned => exact fun ha => ffree_poisoned hi ha rfl
  case frees => exact fun ha hl hw => ffree_frees hi ha hl rfl hw rfl rfl
  case raises => exact fun ha hl hw k hk hend => ffree_raises hi ha hl rfl hw rfl rfl hk hend
  case reads => exact fun hc => frd_reads hi (frdFrame_ok ha hw) hc rfl
  case clears => exact fun hc hl => frd_clears hi (frdFrame_ok ha hw) hc hl rfl rfl
  case frdStops => exact fun hl c h k hk hend => frameFail_performs (opc := 0xF2) rfl (by simp only [frdFrame_error h]) hi hl rfl hk hend
  case writes => exact fun hc => fwr_writes hi (frdFrame_ok ha hw) hc rfl rfl
  case marks => exact fun hc hl => fwr_marks hi (frdFrame_ok ha hw) hc hl rfl rfl
  case fwrStops => exact fun hl c h k hk hend => frameFail_performs (opc := 0xF3) rfl (by simp only [frdFrame_error h]) hi hl rfl hk hend

end Sys2Proof.Machine
end

section
/-! Waits at issue (R85, R86, R88, R94): an instruction that waits wins at once, loses at once, or suspends with its
deadline; and what WAITC, WAITS and GATE wait for. -/

namespace Sys2Proof.Machine

/-! ## The start of a wait (R85) -/

/-- R86: the deadline of a wait for T cycles. -/
def State.deadline (s : State) (t : Thread) (T : PWord) : Option Nat := if T.w = 0xFFFFFFFF then none else some (s.work t.part + T.w.toNat)

/-- The state in which thread u waits as k; a deadline makes its expiry come about. -/
def State.withWaiter (s : State) (u : Nat) (k : Thread) (dl : Option Nat) : State :=
  if dl.isSome then (s.setThr u k).postEv .waitExpiry { a := u } else s.setThr u k

theorem withWaiter_thr (s : State) (u : Nat) (k : Thread) (dl : Option Nat) : (s.withWaiter u k dl).thr? u = some k := by
  unfold State.withWaiter
  split <;> exact thr_setThr ..

section WaitOn
variable {s : State} {u : Nat} {t : Thread} {f : Fields} {opc : Nat} {k : WaitKind} {T : PWord} {lost : Eff}

theorem waitOn_won (r : State × Eff) : s.waitOn u t f opc k T (some r) lost = .ok r.1 { r.2 with p := some (allP t true) } := rfl

theorem waitOn_lost (h : T.pois = true ∨ T.w = 0) : s.waitOn u t f opc k T none lost = .ok s { lost with p := some (allP t false) } :=
  if_pos (by rcases h with h | h <;> simp [h])

theorem waitOn_suspends (hp : T.pois = false) (hw : T.w ≠ 0) : s.waitOn u t f opc k T none lost
    = .ok (s.withWaiter u (t.waiting k (s.deadline t T) f opc) (s.deadline t T)) { susp := some .wait } :=
  if_neg (by simpa [hp] using hw)

end WaitOn

section Issue
variable {s : State} {u : Nat} {t : Thread} {f : Fields}

/-! ## WAITC -/

theorem countsOk_iff (t : Thread) (ld st cp mx : Nat) :
    t.countsOk ld st cp mx = true ↔ t.nld ≤ ld ∧ t.nst ≤ st ∧ t.ncp ≤ cp ∧ t.nmx ≤ mx := by simp [Thread.countsOk]

/-- The counters that a WAITC waits for. -/
def waitcKind (f : Fields) : WaitKind := .counters (fld f.lit 0 8) (fld f.lit 8 8) (fld f.lit 16 8) (fld f.lit 24 8)

/-- R88: the counters stand at or below a WAITC's limits. -/
def Thread.waitcOk (t : Thread) (f : Fields) : Prop :=
  t.nld ≤ fld f.lit 0 8 ∧ t.nst ≤ fld f.lit 8 8 ∧ t.ncp ≤ fld f.lit 16 8 ∧ t.nmx ≤ fld f.lit 24 8

theorem waitc_wins (hi : Issues s u t f { opc := 0x07, b := false }) (h : t.waitcOk f) {e : Eff} (hE : e = { p := some (allP t true) })
    (hr : Room s s t t f e) : Performs (.waitc f) s u f s t e := by
  subst hE
  refine exec_performs rfl hi ?_ hi.thr hi.going rfl hr
  simp only [(countsOk_iff ..).2 h, if_true]
  rfl

theorem waitc_unmet (h : ¬t.waitcOk f) (r : State × Eff) : (if t.countsOk (fld f.lit 0 8) (fld f.lit 8 8) (fld f.lit 16 8) (fld f.lit 24 8) then some r else none) = none :=
  if_neg (fun hc => h ((countsOk_iff ..).1 hc))

theorem waitc_loses (hi : Issues s u t f { opc := 0x07, b := false }) (h : ¬t.waitcOk f) (hT : (t.a0 f).pois = true ∨ (t.a0 f).w = 0)
    {e : Eff} (hE : e = { p := some (allP t false) }) (hr : Room s s t t f e) : Performs (.waitc f) s u f s t e := by
  subst hE
  refine exec_performs rfl hi ?_ hi.thr hi.going rfl hr
  simp only [waitc_unmet h]
  exact waitOn_lost hT

theorem waitc_waits (hi : Issues s u t f { opc := 0x07, b := false }) (h : ¬t.waitcOk f) (hp : (t.a0 f).pois = false) (hw : (t.a0 f).w ≠ 0)
    {dl : Option Nat} (hd : dl = s.deadline t (t.a0 f)) {k : Thread} (hk : k = t.waiting (waitcKind f) dl f 0x07) {b : State}
    (hb : b = s.withWaiter u k dl) (hr : RoomLate s b t k f) : Parks (.waitc f) s u b k .wait := by
  subst hd hk hb
  refine exec_parks rfl hi ?_ (withWaiter_thr ..) hr
  simp only [waitc_unmet h]
  exact waitOn_suspends hp hw

/-! ## WAITS -/

/-- R230: on an element there is no semaphore. -/
theorem waits_element (hi : Issues s u t f { opc := 0x08 }) (he : isElem t.src.site = true) {r : State}
    (hR : r = s.raise (t.who 0x08) 0x010F ((t.who 0x08).details 0 [w32 (fld f.lit 0 6)])) {e : Eff}
    (hE : e = { v := some (t.zs.map (fun z => { z with pois := true })), p := some (allP t false) }) {k : Thread} (hk : r.thr? u = some k)
    (hend : k.ending = false) (hr : Room s r t k f e) : Performs (.waits f) s u f r k e := by
  subst hR hE
  exact exec_performs rfl hi (if_pos he) hk hend rfl hr

theorem waits_poisoned (hi : Issues s u t f { opc := 0x08 }) (he : isElem t.src.site = false) (hB : (t.b0 f).pois = true)
    {e : Eff} (hE : e = { p := some (allP t false) }) (hr : Room s s t t f e) : Performs (.waits f) s u f s t e := by
  subst hE
  exact exec_performs rfl hi ((if_neg (Bool.eq_false_iff.1 he)).trans (if_pos hB)) hi.thr hi.going rfl hr

/-- R229: what a WAITS does at a semaphore that nothing waits for. -/
theorem waits_exec (hi : Issues s u t f { opc := 0x08 }) (hx : isElem t.src.site = false) (hB : (t.b0 f).pois = false)
    (hn : s.semReady t.src.site (fld f.lit 0 6) = []) {b : State} {e : Eff}
    (hw : s.waitOn u t f 0x08 (.sem (fld f.lit 0 6) (t.b0 f).w) (t.a0 f)
      (if Zx (t.b0 f).w ≤ Zx (s.sem t.src.site (fld f.lit 0 6)) then some (s, {}) else none) {} = .ok b e) :
    exec (.waits f) s = .next (s.issue u f { opc := 0x08 } b e) := by
  have hexec : exec (.waits f) s = s.instr f { opc := 0x08 } _ := rfl
  have hbusy : s.semBusy t.src.site (fld f.lit 0 6) = false := by simp [State.semBusy, hn]
  rw [hexec, instr_issues hi]
  simp only [hx, hB, hbusy, Bool.false_eq_true, if_false, hw]

theorem waits_wins (hi : Issues s u t f { opc := 0x08 }) (he : isElem t.src.site = false) (hB : (t.b0 f).pois = false)
    (hn : s.semReady t.src.site (fld f.lit 0 6) = []) (h : (t.b0 f).w.toNat ≤ (s.sem t.src.site (fld f.lit 0 6)).toNat)
    {e : Eff} (hE : e = { p := some (allP t true) }) (hr : Room s s t t f e) : Performs (.waits f) s u f s t e := by
  subst hE
  exact ⟨_, waits_exec hi he hB hn (congrArg (s.waitOn u t f _ _ _ · _) (if_pos h)), issue_completes hi.thr hi.thr hi.going rfl hr⟩

theorem waits_loses (hi : Issues s u t f { opc := 0x08 }) (he : isElem t.src.site = false) (hB : (t.b0 f).pois = false)
    (hn : s.semReady t.src.site (fld f.lit 0 6) = []) (h : (s.sem t.src.site (fld f.lit 0 6)).toNat < (t.b0 f).w.toNat)
    (hT : (t.a0 f).pois = true ∨ (t.a0 f).w = 0) {e : Eff} (hE : e = { p := some (allP t false) }) (hr : Room s s t t f e) :
    Performs (.waits f) s u f s t e := by
  subst hE
  exact ⟨_, waits_exec hi he hB hn ((congrArg (s.waitOn u t f _ _ _ · _) (if_neg (Nat.not_le.2 h))).trans (waitOn_lost hT)),
    issue_completes hi.thr hi.thr hi.going rfl hr⟩

theorem waits_waits (hi : Issues s u t f { opc := 0x08 }) (he : isElem t.src.site = false) (hB : (t.b0 f).pois = false)
    (hn : s.semReady t.src.site (fld f.lit 0 6) = []) (h : (s.sem t.src.site (fld f.lit 0 6)).toNat < (t.b0 f).w.toNat)
    (hp : (t.a0 f).pois = false) (hw : (t.a0 f).w ≠ 0) {dl : Option Nat} (hd : dl = s.deadline t (t.a0 f)) {k : Thread}
    (hk : k = t.waiting (.sem (fld f.lit 0 6) (t.b0 f).w) dl f 0x08) {b : State} (hb : b = s.withWaiter u k dl) (hr : RoomLate s b t k f) :
    Parks (.waits f) s u b k .wait := by
  subst hd hk hb
  exact ⟨_, waits_exec hi he hB hn ((congrArg (s.waitOn u t f _ _ _ · _) (if_neg (Nat.not_le.2 h))).trans (waitOn_suspends hp hw)),
    issue_parks hi.thr (withWaiter_thr ..) hr⟩

/-! ## GATE, the time form (R94) -/

theorem timeReached_iff (s : State) (b : Word) : s.timeReached b = true ↔ 0 ≤ (w32 s.tod - b).toInt := by simp [State.timeReached, Sx]

/-- What the time form returns, won or lost. -/
def gateNow (s : State) (t : Thread) (f : Fields) (p : Bool) : Eff :=
  { v := some (List.replicate t.width ⟨w32 s.tod, (t.b0 f).pois⟩), p := some (List.replicate t.width p) }

theorem gate_wins (hi : Issues s u t f { opc := 0x0E }) (hl : bit f.lit 0 = false) (h : 0 ≤ (w32 s.tod - (t.b0 f).w).toInt)
    (hr : Room s s t t f (gateNow s t f true)) : Performs (.gate f) s u f s t (gateNow s t f true) := by
  have hi' : Issues s u t f { opc := 0x0E, b := !bit f.lit 0 } := by rw [hl]; exact hi
  refine exec_performs rfl hi' ((if_neg (Bool.eq_false_iff.1 hl)).trans ?_) hi.thr hi.going rfl hr
  simp only [(timeReached_iff ..).2 h, if_true]
  rfl

/-- R94: what a time form that has not reached its time does with what its wait gives. -/
theorem gate_exec (hl : bit f.lit 0 = false) (h : ¬0 ≤ (w32 s.tod - (t.b0 f).w).toInt) {s' : State} {e : Eff}
    (hw : s.waitOn u t f 0x0E (.time (t.b0 f).w) (t.a0 f) none (.val (t.all ⟨w32 s.tod, (t.b0 f).pois⟩)) = .ok s' e)
    (hi : Issues s u t f { opc := 0x0E }) :
    exec (.gate f) s = .next (s.issue u f { opc := 0x0E, b := !bit f.lit 0 } (if e.susp.isSome then s'.postEv .waitTest { a := u } else s') e) := by
  have hi' : Issues s u t f { opc := 0x0E, b := !bit f.lit 0 } := by rw [hl]; exact hi
  have hn : s.timeReached (t.b0 f).w = false := Bool.eq_false_iff.2 (fun hc => h ((timeReached_iff ..).1 hc))
  have hx : exec (.gate f) s = s.instr f { opc := 0x0E, b := !bit f.lit 0 } _ := rfl
  rw [hx, instr_issues hi']
  simp only [hl, hn, Bool.false_eq_true, if_false, hw]

theorem gate_loses (hi : Issues s u t f { opc := 0x0E }) (hl : bit f.lit 0 = false) (h : ¬0 ≤ (w32 s.tod - (t.b0 f).w).toInt)
    (hT : (t.a0 f).pois = true ∨ (t.a0 f).w = 0) (hr : Room s s t t f (gateNow s t f false)) :
    Performs (.gate f) s u f s t (gateNow s t f false) :=
  ⟨_, gate_exec hl h (waitOn_lost hT) hi, issue_completes hi.thr hi.thr hi.going rfl hr⟩

theorem gate_waits (hi : Issues s u t f { opc := 0x0E }) (hl : bit f.lit 0 = false) (h : ¬0 ≤ (w32 s.tod - (t.b0 f).w).toInt)
    (hp : (t.a0 f).pois = false) (hw : (t.a0 f).w ≠ 0) {dl : Option Nat} (hd : dl = s.deadline t (t.a0 f)) {k : Thread}
    (hk : k = t.waiting (.time (t.b0 f).w) dl f 0x0E) {b : State} (hb : b = (s.withWaiter u k dl).postEv .waitTest { a := u })
    (hr : RoomLate s b t k f) : Parks (.gate f) s u b k .wait := by
  subst hd hk hb
  exact ⟨_, gate_exec hl h (waitOn_suspends hp hw) hi, issue_parks hi.thr (withWaiter_thr ..) hr⟩

/-! ## GATE, the mailbox form (R94) -/

/-- R94: the state in which the mailbox word of frame w has been taken. -/
def State.mailTaken (s : State) (t : Thread) (w : Frame) : State :=
  (s.touchFrame t.src.site t.frame).setFrame t.src.site t.frame ({ w with spilled := false }.clear 1)

theorem takeMail_some {w : Frame} (hw : s.frameFor t t.frame = .ok w) (h : 1 ∈ w.present) :
    s.takeMail t = some (s.mailTaken t w, .val ((List.range t.width).map (w.word 1))) := by
  simp only [State.takeMail, hw, h, if_true]
  rfl

theorem takeMail_none {w : Frame} (hw : s.frameFor t t.frame = .ok w) (h : 1 ∉ w.present) : s.takeMail t = none := by
  simp only [State.takeMail, hw, h, if_false]

theorem threadsStay_mailTaken (s : State) (t : Thread) (w : Frame) : ThreadsStay s (s.mailTaken t w) :=
  (threadsStay_touchFrame ..).trans (threadsStay_setFrame ..)

/-- R94: what the mailbox form does on a frame that the thread may use. -/
theorem mail_exec (hi : Issues s u t f { opc := 0x0E, b := false }) (hl : bit f.lit 0 = true) {w : Frame} (hw : s.frameFor t t.frame = .ok w) :
    exec (.gate f) s = (match (s.touchFrame t.src.site t.frame).waitOn u t f 0x0E .mailbox (t.a0 f) (s.takeMail t) (.val (t.all .zero)) with
      | .hold b => .next b
      | .full => .next (s.noSlot u)
      | .ok b e => .next (s.issue u f { opc := 0x0E, b := !bit f.lit 0 } b e)) := by
  have hi' : Issues s u t f { opc := 0x0E, b := !bit f.lit 0 } := by rw [hl]; exact hi
  have hx : exec (.gate f) s = s.instr f { opc := 0x0E, b := !bit f.lit 0 } _ := rfl
  rw [hx, instr_issues hi']
  simp only [hl, if_true, hw] <;> rfl

theorem mail_wins (hi : Issues s u t f { opc := 0x0E, b := false }) (hl : bit f.lit 0 = true) {w : Frame} (hw : s.frameFor t t.frame = .ok w)
    (h : 1 ∈ w.present) {e : Eff} (hE : e = { v := some ((List.range t.width).map (w.word 1)), p := some (allP t true) })
    (hr : Room s (s.mailTaken t w) t t f e) : Performs (.gate f) s u f (s.mailTaken t w) t e := by
  subst hE
  refine ⟨_, (mail_exec hi hl hw).trans (by rw [takeMail_some hw h]; rfl), ?_⟩
  exact issue_completes hi.thr (((threadsStay_mailTaken ..).thr u).trans hi.thr) hi.going rfl hr

theorem mail_loses (hi : Issues s u t f { opc := 0x0E, b := false }) (hl : bit f.lit 0 = true) {w : Frame} (hw : s.frameFor t t.frame = .ok w)
    (h : 1 ∉ w.present) (hT : (t.a0 f).pois = true ∨ (t.a0 f).w = 0) {e : Eff}
    (hE : e = { v := some (List.replicate t.width .zero), p := some (allP t false) })
    (hr : Room s (s.touchFrame t.src.site t.frame) t t f e) : Performs (.gate f) s u f (s.touchFrame t.src.site t.frame) t e := by
  subst hE
  refine ⟨_, (mail_exec hi hl hw).trans (by rw [takeMail_none hw h, waitOn_lost hT]), ?_⟩
  exact issue_completes hi.thr (((threadsStay_touchFrame ..).thr u).trans hi.thr) hi.going rfl hr

theorem mail_waits (hi : Issues s u t f { opc := 0x0E, b := false }) (hl : bit f.lit 0 = true) {w : Frame} (hw : s.frameFor t t.frame = .ok w)
    (h : 1 ∉ w.present) (hp : (t.a0 f).pois = false) (hT : (t.a0 f).w ≠ 0) {dl : Option Nat} (hd : dl = s.deadline t (t.a0 f)) {k : Thread}
    (hk : k = t.waiting .mailbox dl f 0x0E) {b : State} (hb : b = (s.touchFrame t.src.site t.frame).withWaiter u k dl)
    (hr : RoomLate s b t k f) : Parks (.gate f) s u b k .wait := by
  have hdl : (s.touchFrame t.src.site t.frame).deadline t (t.a0 f) = dl := by
    rw [hd, State.deadline, (threadsStay_touchFrame ..).work]
    rfl
  subst hk hb
  refine ⟨_, (mail_exec hi hl hw).trans (by rw [takeMail_none hw h, waitOn_suspends hp hT, hdl]), issue_parks hi.thr (withWaiter_thr ..) hr⟩

/-- R99, R176: on a frame that the thread may not use the fault is raised at once. -/
theorem mail_fault (hi : Issues s u t f { opc := 0x0E, b := false }) (hl : bit f.lit 0 = true) {c : Nat} (hw : s.frameFor t t.frame = .error c)
    {r : State} (hR : r = s.raise (t.who 0x0E) c ((t.who 0x0E).details 0 [])) {e : Eff}
    (hE : e = { v := some (List.replicate t.width ⟨0, true⟩), p := some (allP t false) }) {k : Thread} (hk : r.thr? u = some k)
    (hend : k.ending = false) (hr : Room s r t k f e) : Performs (.gate f) s u f r k e := by
  have hi' : Issues s u t f { opc := 0x0E, b := !bit f.lit 0 } := by rw [hl]; exact hi
  subst hR hE
  exact exec_performs rfl hi' ((if_pos hl).trans (by simp only [hw]; rfl)) hk hend rfl hr

end Issue

end Sys2Proof.Machine
end

section
/-! The test and the expiry of a wait (R85, R86, R95), by what the test finds; and what the test of each kind of wait finds
(R94, R229, R235, R239, R241, R289). -/

namespace Sys2Proof.Machine

/-! ## What a test does -/

/-- Waits that look again although their test finds nothing: the time of day does not wake them. -/
def WaitKind.isTime : WaitKind → Bool
  | .time _ => true
  | _ => false

section Test
variable {s b : State} {t : Thread} {w : Wait} {e0 e : Eff} (h : Waiting s s.subj.a t w .wait) (hs : s.idleSite t.src.site = false)
include h hs

/-- R85: a test, by what it finds. -/
theorem waitTest_exec : exec .waitTest s = .next (match s.testWait s.subj.a t w with
    | .won s' e => s'.endWait s.subj.a t e true
    | .lost e => s.endWait s.subj.a t e false
    | .stay => if w.kind.isTime || s.behind t w then s.postEv .waitTest { a := s.subj.a } else s) := by
  show execWaitTest s = _
  unfold execWaitTest State.waitTest
  simp only [h.thr, h.wait, h.stat, hs, ne_eq, not_true_eq_false, if_false, Bool.false_eq_true]
  cases s.testWait s.subj.a t w with
  | won s' e => rfl
  | lost e => rfl
  | stay => cases hk : w.kind <;> rfl

/-- R85, R86: an expiry whose cycles have passed, by what its test finds. -/
theorem waitExpiry_exec {d : Nat} (hd : w.deadline = some d ∧ d ≤ s.work t.part) : exec .waitExpiry s = .next (match s.testWait s.subj.a t w with
    | .won s' e => s'.endWait s.subj.a t e true
    | .lost e => s.endWait s.subj.a t e false
    | .stay => if s.behind t w then s.postEv .waitExpiry { a := s.subj.a } else s.endWait s.subj.a t (s.expired t w) false) := by
  obtain ⟨hd, hle⟩ := hd
  show execWaitExpiry s = _
  unfold execWaitExpiry State.waitExpiry
  simp only [h.thr, h.wait, h.stat, hd, hs, Nat.not_lt.2 hle, decide_false, Bool.or_false, ne_eq, not_true_eq_false, if_false,
    Bool.false_eq_true] <;> rfl

omit hs in
/-- A wait before its deadline. -/
theorem waitExpiry_early {d : Nat} (hd : w.deadline = some d) (hlt : s.work t.part < d) :
    exec .waitExpiry s = .next (s.postEv .waitExpiry { a := s.subj.a }) := by
  show execWaitExpiry s = _
  unfold execWaitExpiry State.waitExpiry
  simp only [h.thr, h.wait, h.stat, hd, hlt, decide_true, Bool.or_true, ne_eq, not_true_eq_false, if_false, if_true]

omit hs in
/-- A wait without a deadline does not expire. -/
theorem waitExpiry_never (hd : w.deadline = none) : exec .waitExpiry s = .next s := by
  show execWaitExpiry s = _
  unfold execWaitExpiry State.waitExpiry
  simp only [h.thr, h.wait, hd]

omit hs in
/-- R85: the end of a wait in a state that keeps the threads. -/
theorem endWait_ends {i : Instr} {ok : Bool} (hb : b.threads = s.threads) (hE : e = { e0 with p := some (e0.p.getD (allP t ok)) })
    (hx : exec i s = .next (b.endWait s.subj.a t e0 ok)) : Ends i s b s.subj.a t w.fields e := by
  have hw : Waiting b s.subj.a t w .wait := ⟨(State.thr_congr hb _).trans h.thr, h.wait, h.stat, h.going, h.good, h.targets⟩
  subst hE
  exact ⟨_, hx, complete_completes _ hw⟩

/-- A test that holds ends the wait, and so does the expiry in which it holds. -/
theorem wait_over (ht : s.testWait s.subj.a t w = .won b e0) (hb : b.threads = s.threads)
    (hE : e = { e0 with p := some (e0.p.getD (allP t true)) }) : Ends .waitTest s b s.subj.a t w.fields e
      ∧ ∀ d, w.deadline = some d ∧ d ≤ s.work t.part → Ends .waitExpiry s b s.subj.a t w.fields e :=
  ⟨endWait_ends h hb hE ((waitTest_exec h hs).trans (by rw [ht])), fun _ hd => endWait_ends h hb hE ((waitExpiry_exec h hs hd).trans (by rw [ht]))⟩

/-- R233: a wait that can no longer be met ends with `p` clear. -/
theorem wait_dead (ht : s.testWait s.subj.a t w = .lost e0) (hE : e = { e0 with p := some (e0.p.getD (allP t false)) }) :
    Ends .waitTest s s s.subj.a t w.fields e
      ∧ ∀ d, w.deadline = some d ∧ d ≤ s.work t.part → Ends .waitExpiry s s s.subj.a t w.fields e :=
  ⟨endWait_ends h rfl hE ((waitTest_exec h hs).trans (by rw [ht])), fun _ hd => endWait_ends h rfl hE ((waitExpiry_exec h hs hd).trans (by rw [ht]))⟩

/-- A wait that does not hold ends at its expiry with `p` clear. -/
theorem wait_expires (ht : s.testWait s.subj.a t w = .stay) (hn : s.behind t w = false)
    (hE : e = { s.expired t w with p := some ((s.expired t w).p.getD (allP t false)) }) :
    ∀ d, w.deadline = some d ∧ d ≤ s.work t.part → Ends .waitExpiry s s s.subj.a t w.fields e :=
  fun _ hd => endWait_ends h rfl hE ((waitExpiry_exec h hs hd).trans (by rw [ht, hn]; rfl))

/-- A wait that does not hold stays, until it expires. -/
theorem wait_stays (ht : s.testWait s.subj.a t w = .stay) (hk : w.kind.isTime = false) (hn : s.behind t w = false)
    (hE : e = { s.expired t w with p := some ((s.expired t w).p.getD (allP t false)) }) : exec .waitTest s = .next s
      ∧ ∀ d, w.deadline = some d ∧ d ≤ s.work t.part → Ends .waitExpiry s s s.subj.a t w.fields e :=
  ⟨(waitTest_exec h hs).trans (by rw [ht, hk, hn]; rfl), wait_expires h hs ht hn hE⟩

/-- R229: a wait behind older ones at its semaphore looks again. -/
theorem wait_behind (ht : s.testWait s.subj.a t w = .stay) (hn : s.behind t w = true) :
    exec .waitTest s = .next (s.postEv .waitTest { a := s.subj.a })
      ∧ ∀ d, w.deadline = some d ∧ d ≤ s.work t.part → exec .waitExpiry s = .next (s.postEv .waitExpiry { a := s.subj.a }) :=
  ⟨(waitTest_exec h hs).trans (by rw [ht, hn, Bool.or_true]; rfl), fun _ hd => (waitExpiry_exec h hs hd).trans (by rw [ht, hn]; rfl)⟩

end Test

/-! ## Semaphores (R229, R235) -/

theorem State.setSem_threads (s : State) (x : Site) (k : Nat) (v : Word) : (s.setSem x k v).threads = s.threads := by
  unfold State.setSem State.retestChains
  rw [State.endCycle_threads, threads_foldl _ (fun _ _ => by rfl), (threadsStay_retest ..).threads, State.modSite_threads]

theorem takeRdzv_some {s : State} {t : Thread} {k : Nat} {b : Word} (h : b.toNat ≤ (s.sem t.src.site k).toNat) : s.takeRdzv t k b
    = some (s.setSem t.src.site k (s.sem t.src.site k - b), .val (t.all (.ok (s.sem t.src.site k)))) := if_pos h

theorem takeRdzv_none {s : State} {t : Thread} {k : Nat} {b : Word} (h : (s.sem t.src.site k).toNat < b.toNat) : s.takeRdzv t k b = none :=
  if_neg (Nat.not_le.2 h)

section Kinds
variable {s : State} {u : Nat} {t : Thread} {w : Wait}

theorem testWait_counters {ld st cp mx : Nat} (hk : w.kind = .counters ld st cp mx) :
    s.testWait u t w = if t.countsOk ld st cp mx then .won s {} else .stay := by
  unfold State.testWait; rw [hk]

theorem testWait_sem {k : Nat} {b : Word} (hk : w.kind = .sem k b) :
    s.testWait u t w = if b.toNat ≤ (s.sem t.src.site k).toNat ∧ s.semFirst t.src.site k t.susp u = true then .won s {} else .stay := by
  unfold State.testWait; rw [hk]; rfl

/-- R235: a rendezvous that comes first and finds its count takes it. -/
theorem testWait_rdzv_won {k : Nat} {b : Word} (hk : w.kind = .rdzv k b) (hf : s.semFirst t.src.site k t.susp u = true)
    (h : b.toNat ≤ (s.sem t.src.site k).toNat) : s.testWait u t w
      = .won (s.setSem t.src.site k (s.sem t.src.site k - b)) (.val (t.all (.ok (s.sem t.src.site k)))) := by
  unfold State.testWait; rw [hk]; simp only [hf, if_true, takeRdzv_some h]

theorem testWait_rdzv_stay {k : Nat} {b : Word} (hk : w.kind = .rdzv k b)
    (h : s.semFirst t.src.site k t.susp u = false ∨ (s.sem t.src.site k).toNat < b.toNat) : s.testWait u t w = .stay := by
  unfold State.testWait; rw [hk]
  rcases h with hf | h
  · simp only [hf, Bool.false_eq_true, if_false]
  · simp only [takeRdzv_none h]
    split <;> rfl

theorem testWait_time {b : Word} (hk : w.kind = .time b) : s.testWait u t w
    = if s.timeReached b then .won s (.val (t.all ⟨w32 s.tod, (t.b0 w.fields).pois⟩)) else .stay := by
  unfold State.testWait; rw [hk]

theorem testWait_mail_won {g : Frame} (hk : w.kind = .mailbox) (hg : s.frameFor t t.frame = .ok g) (h : 1 ∈ g.present) :
    s.testWait u t w = .won (s.mailTaken t g) (.val ((List.range t.width).map (g.word 1))) := by
  unfold State.testWait; rw [hk]; simp only [takeMail_some hg h]

theorem testWait_mail_stay {g : Frame} (hk : w.kind = .mailbox) (hg : s.frameFor t t.frame = .ok g) (h : 1 ∉ g.present) :
    s.testWait u t w = .stay := by
  unfold State.testWait; rw [hk]; simp only [takeMail_none hg h]

/-- R289: a fence entry that is complete is freed; the result says whether the set faulted. -/
theorem testWait_fence {n : Nat} {g : FenceEnt} (hk : w.kind = .fence n) (hg : tget (s.cell t.src).fences n = some g) :
    s.testWait u t w = if s.fenceDone t.src.site g then
        .won (s.setCell t.src { s.cell t.src with fences := tset (s.cell t.src).fences n { g with owner := none } })
          (if g.faulted then .valP (t.all (.ok 3)) (allP t false) else .valP (t.all (.ok 1)) (allP t true))
      else .stay := by
  unfold State.testWait; rw [hk]
  simp only [State.fenceEnd, hg]
  cases s.fenceDone t.src.site g <;> rfl

theorem testWait_push {desc : Int} {ws : List Word} {ctl : Bool} (hk : w.kind = .push desc ws ctl) : s.testWait u t w
    = .ofQueue (fun _ => .val (t.as w.fields)) (.val (t.as w.fields)) (s.qPush t.part t.src.site desc ws ctl) := by
  unfold State.testWait; rw [hk]

theorem testWait_pop {desc : Int} (hk : w.kind = .pop desc) : s.testWait u t w
    = .ofQueue (fun ws => .val (t.popped ws)) (.val (t.all .zero)) (s.qPop t.part t.src.site desc t.selLanes.length) := by
  unfold State.testWait; rw [hk]

theorem testWait_killed {push : Bool} (hk : w.kind = .killed push) :
    s.testWait u t w = .lost (.val (if push then t.as w.fields else t.all .zero)) := by
  unfold State.testWait; rw [hk]

end Kinds

/-! ## Package queues (R232, R239, R241) -/

theorem State.walkFrom_queues (s : State) (qs : List QueueId) (p va : Nat) (level table : Nat) :
    ({ s with queues := qs } : State).walkFrom p va level table = s.walkFrom p va level table := by
  induction level generalizing table with
  | zero => rfl
  | succ n ih => rw [State.walkFrom, State.walkFrom]; simp only [ih]; rfl

/-- What is known of queues has no part in a translation. -/
theorem State.hwXlate_knowQueue (s : State) (q : QueueId) (p : Nat) (x : Site) (ea : Int) (wr : Bool) :
    (s.knowQueue q).hwXlate p x ea wr = s.hwXlate p x ea wr := by
  unfold State.knowQueue
  split
  · rfl
  · unfold State.hwXlate State.walk
    simp only [State.walkFrom_queues]
    rfl

theorem State.served_knowQueue (s : State) (q : QueueId) (pa : Nat) : (s.knowQueue q).served pa = s.served pa := by
  unfold State.knowQueue; split <;> rfl

theorem State.rdW_knowQueue (s : State) (q : QueueId) : (s.knowQueue q).rdW = s.rdW := by
  unfold State.knowQueue; split <;> rfl

theorem State.knowQueue_threads (s : State) (q : QueueId) : (s.knowQueue q).threads = s.threads := by
  unfold State.knowQueue; split <;> rfl

theorem State.retestQueues_threads (s : State) (p : Nat) : (s.retestQueues p).threads = s.threads := by
  unfold State.retestQueues; exact threads_foldl _ (fun _ _ => by rfl) _ s

theorem State.wakeService_threads (s : State) (p : Nat) (x : Site) (desc : Int) : (s.wakeService p x desc).threads = s.threads := by
  unfold State.wakeService; exact threads_foldl _ (fun _ _ => by rfl) _ s

/-- R232: the entries of a ring from count i on, each where it is mapped. -/
structure RingAt (s : State) (p : Nat) (x : Site) (q : QDesc) (i n : Nat) (as : List Nat) : Prop where
  length : as.length = n
  served : ∀ a ∈ as, s.served a = true
  mapped : ∀ j, j < n → s.hwXlate p x ((BitVec.ofNat 64 q.ring).toInt + ((4 * ((i + j) % 2 ^ q.m) : Nat) : Int)) true = as[j]?

theorem ringAddrs_eq {s : State} {p : Nat} {x : Site} {q : QDesc} {i n : Nat} {as : List Nat} (h : RingAt s p x q i n as) :
    s.ringAddrs p x q i n = some as := by
  obtain ⟨rfl, hserved, hmapped⟩ := h
  have key : ∀ m k, k + m = as.length → (List.range' k m).foldr (fun j r =>
      match r, s.hwXlate p x ((BitVec.ofNat 64 q.ring).toInt + (4 * ((i + j) % 2 ^ q.m) : Nat)) true with
      | some r, some a => if s.served a then some (a :: r) else none
      | _, _ => none) (some []) = some (as.drop k) := by
    intro m
    induction m with
    | zero => intro k hk; rw [List.drop_eq_nil_of_le (by omega)]; rfl
    | succ m ih =>
      intro k hk
      have hlt : k < as.length := by omega
      rw [List.range'_succ, List.foldr_cons, ih (k + 1) (by omega), hmapped k hlt, List.getElem?_eq_getElem hlt, List.drop_eq_getElem_cons hlt]
      simp only [hserved _ (List.getElem_mem hlt), if_true]
  rw [State.ringAddrs, List.range_eq_range']
  exact key _ 0 (Nat.zero_add _)

theorem RingAt.know {s : State} {p : Nat} {x : Site} {q : QDesc} {i n : Nat} {as : List Nat} (h : RingAt s p x q i n as) (e : QueueId) :
    RingAt (s.knowQueue e) p x q i n as :=
  ⟨h.length, fun a ha => (s.served_knowQueue e a).trans (h.served a ha), fun j hj => (s.hwXlate_knowQueue e ..).trans (h.mapped j hj)⟩

theorem QDesc.live_iff (q : QDesc) : q.live = true ↔ q.ok = true ∧ q.state = 1 := by simp [QDesc.live]

section Queue
variable {s : State} {p : Nat} {x : Site} {desc : Int} {pa : Nat} (hx : s.hwXlate p x desc true = some pa) (hserved : s.served pa = true)
include hx hserved

theorem qdesc_some : s.qdesc? p x desc = some (pa, qdescAt s.mem pa) := by
  simp only [State.qdesc?, hx, hserved, if_true]

section Push
variable {ws : List Word} {ctl : Bool} (hh : s.pkgQueueHeld p x desc ws.length = false)
include hh

theorem qPush_dead (hl : ¬((qdescAt s.mem pa).ok = true ∧ (qdescAt s.mem pa).state = 1)) : s.qPush p x desc ws ctl = .dead := by
  have hl' : (qdescAt s.mem pa).live = false := Bool.eq_false_iff.2 (fun h => hl ((QDesc.live_iff _).1 h))
  simp only [State.qPush, hh, qdesc_some hx hserved, hl', Bool.false_eq_true, if_false, Bool.not_false, if_true]

theorem qPush_wait (hw : ws ≠ []) (hl : (qdescAt s.mem pa).ok = true ∧ (qdescAt s.mem pa).state = 1)
    (hf : (qdescAt s.mem pa).free < ws.length + if ctl then 0 else 2) : s.qPush p x desc ws ctl = .wait := by
  simp only [State.qPush, hh, qdesc_some hx hserved, (QDesc.live_iff _).2 hl, Bool.false_eq_true, if_false, Bool.not_true,
    List.length_eq_zero_iff, hw, hf, if_true]

/-- The state after a push of words to the ring entries `as`. -/
def State.pushed (s : State) (p : Nat) (x : Site) (desc : Int) (pa : Nat) (as : List Nat) (ws : List Word) : State :=
  (((((as.zip ws).foldl (fun s e => s.hwWrite e.1 (leBytes 4 e.2.toNat)) (s.knowQueue ⟨p, queueVia p x, desc, pa⟩)).hwWrite (pa + 0x14)
    (leBytes 4 ((qdescAt s.mem pa).tail + ws.length))).retestQueues p).wakeService p x desc)

theorem qPush_done (hw : ws ≠ []) (hl : (qdescAt s.mem pa).ok = true ∧ (qdescAt s.mem pa).state = 1)
    (hf : (ws.length + if ctl then 0 else 2) ≤ (qdescAt s.mem pa).free) {as : List Nat}
    (hr : RingAt s p x (qdescAt s.mem pa) (qdescAt s.mem pa).tail ws.length as) :
    s.qPush p x desc ws ctl = .done (s.pushed p x desc pa as ws) [] := by
  simp only [State.qPush, hh, qdesc_some hx hserved, (QDesc.live_iff _).2 hl, Bool.false_eq_true, if_false, Bool.not_true,
    List.length_eq_zero_iff, hw, Nat.not_lt.2 hf, ringAddrs_eq (hr.know _)]
  rfl

end Push

section Pop
variable {n : Nat} (hh : s.pkgQueueHeld p x desc n = false)
include hh

theorem qPop_dead (hl : ¬((qdescAt s.mem pa).ok = true ∧ (qdescAt s.mem pa).state = 1)) : s.qPop p x desc n = .dead := by
  have hl' : (qdescAt s.mem pa).live = false := Bool.eq_false_iff.2 (fun h => hl ((QDesc.live_iff _).1 h))
  simp only [State.qPop, hh, qdesc_some hx hserved, hl', Bool.false_eq_true, if_false, Bool.not_false, if_true]

theorem qPop_wait (hl : (qdescAt s.mem pa).ok = true ∧ (qdescAt s.mem pa).state = 1) (hu : (qdescAt s.mem pa).used < n) :
    s.qPop p x desc n = .wait := by
  simp only [State.qPop, hh, qdesc_some hx hserved, (QDesc.live_iff _).2 hl, Bool.false_eq_true, if_false, Bool.not_true, hu, if_true]

/-- The state after a pop of n words. -/
def State.poppedTo (s : State) (p : Nat) (x : Site) (desc : Int) (pa n : Nat) : State :=
  ((s.knowQueue ⟨p, queueVia p x, desc, pa⟩).hwWrite (pa + 0x10) (leBytes 4 ((qdescAt s.mem pa).head + n))).retestQueues p

theorem qPop_done (hn : n ≠ 0) (hl : (qdescAt s.mem pa).ok = true ∧ (qdescAt s.mem pa).state = 1) (hu : n ≤ (qdescAt s.mem pa).used)
    {as : List Nat} (hr : RingAt s p x (qdescAt s.mem pa) (qdescAt s.mem pa).head n as) :
    s.qPop p x desc n = .done (s.poppedTo p x desc pa n) (as.map s.rdW) := by
  simp only [State.qPop, hh, qdesc_some hx hserved, (QDesc.live_iff _).2 hl, Bool.false_eq_true, if_false, Bool.not_true,
    hn, Nat.not_lt.2 hu, ringAddrs_eq (hr.know _), State.rdW_knowQueue]
  rfl

end Pop

end Queue

theorem State.pushed_threads (s : State) (p : Nat) (x : Site) (desc : Int) (pa : Nat) (as : List Nat) (ws : List Word) :
    (s.pushed p x desc pa as ws).threads = s.threads := by
  unfold State.pushed
  rw [State.wakeService_threads, State.retestQueues_threads, (tablesStay_hwWrite ..).threads,
    threads_foldl _ (fun _ _ => (tablesStay_hwWrite ..).threads), State.knowQueue_threads]

theorem State.poppedTo_threads (s : State) (p : Nat) (x : Site) (desc : Int) (pa n : Nat) : (s.poppedTo p x desc pa n).threads = s.threads := by
  unfold State.poppedTo
  rw [State.retestQueues_threads, (tablesStay_hwWrite ..).threads, State.knowQueue_threads]

end Sys2Proof.Machine
end

section
/-! Each wait at its test and at its expiry (R85, R86, R94, R95, R229, R233, R235, R239, R241, R289). -/

namespace Sys2Proof.Machine

/-- The wait is over in state b with effect e, at its test and at a test of its expiry. -/
def WaitOver (s b : State) (t : Thread) (w : Wait) (e : Eff) : Prop :=
  Ends .waitTest s b s.subj.a t w.fields e ∧ ∀ d, w.deadline = some d ∧ d ≤ s.work t.part → Ends .waitExpiry s b s.subj.a t w.fields e

/-- The wait goes on at its test, and its expiry ends it with effect e. -/
def WaitStays (s : State) (t : Thread) (w : Wait) (e : Eff) : Prop :=
  exec .waitTest s = .next s ∧ ∀ d, w.deadline = some d ∧ d ≤ s.work t.part → Ends .waitExpiry s s s.subj.a t w.fields e

/-- The wait looks again, at its test and at its expiry. -/
def WaitLooksAgain (s : State) (t : Thread) (w : Wait) : Prop :=
  exec .waitTest s = .next (s.postEv .waitTest { a := s.subj.a })
    ∧ ∀ d, w.deadline = some d ∧ d ≤ s.work t.part → exec .waitExpiry s = .next (s.postEv .waitExpiry { a := s.subj.a })

theorem behind_sem_or_rdzv {s : State} {t : Thread} {w : Wait} {k : Nat} {b : Word} (hk : w.kind = .sem k b ∨ w.kind = .rdzv k b) :
    s.behind t w = decide (b.toNat ≤ (s.sem t.src.site k).toNat) := by
  rcases hk with hk | hk <;> (unfold State.behind; rw [hk]; rfl)

section Tested
variable {s : State} {t : Thread} {w : Wait} (h : Waiting s s.subj.a t w .wait) (hs : s.idleSite t.src.site = false)
include h hs

theorem counters_tested {ld st cp mx : Nat} (hk : w.kind = .counters ld st cp mx) :
    ((t.nld ≤ ld ∧ t.nst ≤ st ∧ t.ncp ≤ cp ∧ t.nmx ≤ mx) → WaitOver s s t w { p := some (allP t true) })
    ∧ (¬(t.nld ≤ ld ∧ t.nst ≤ st ∧ t.ncp ≤ cp ∧ t.nmx ≤ mx) → WaitStays s t w { p := some (allP t false) }) := by
  refine ⟨fun hok => wait_over h hs ((testWait_counters hk).trans (if_pos ((countsOk_iff ..).2 hok))) rfl rfl, fun hno => ?_⟩
  have hstay : s.testWait s.subj.a t w = .stay := (testWait_counters hk).trans (if_neg (fun hc => hno ((countsOk_iff ..).1 hc)))
  refine wait_stays h hs hstay (by rw [hk]; rfl) (by simp [State.behind, hk]) ?_
  simp only [State.expired, hk]
  rfl

theorem sem_tested {k : Nat} {b : Word} (hk : w.kind = .sem k b) :
    (b.toNat ≤ (s.sem t.src.site k).toNat → s.semFirst t.src.site k t.susp s.subj.a = true → WaitOver s s t w { p := some (allP t true) })
    ∧ ((s.sem t.src.site k).toNat < b.toNat → WaitStays s t w { p := some (allP t false) }) := by
  refine ⟨fun hle hf => wait_over h hs ((testWait_sem hk).trans (if_pos ⟨hle, hf⟩)) rfl rfl, fun hlt => ?_⟩
  have hstay : s.testWait s.subj.a t w = .stay := (testWait_sem hk).trans (if_neg (fun hc => Nat.not_le.2 hlt hc.1))
  refine wait_stays h hs hstay (by rw [hk]; rfl) ((behind_sem_or_rdzv (.inl hk)).trans (decide_eq_false (Nat.not_le.2 hlt))) ?_
  simp only [State.expired, hk]
  rfl

theorem rdzv_tested {k : Nat} {b : Word} (hk : w.kind = .rdzv k b) :
    (b.toNat ≤ (s.sem t.src.site k).toNat → s.semFirst t.src.site k t.susp s.subj.a = true →
      WaitOver s (s.setSem t.src.site k (s.sem t.src.site k - b)) t w { v := some (t.all ⟨s.sem t.src.site k, false⟩), p := some (allP t true) })
    ∧ ((s.sem t.src.site k).toNat < b.toNat → WaitStays s t w { v := some (t.all .zero), p := some (allP t false) }) := by
  refine ⟨fun hle hf => wait_over h hs (testWait_rdzv_won hk hf hle) (State.setSem_threads ..) rfl, fun hlt => ?_⟩
  refine wait_stays h hs (testWait_rdzv_stay hk (.inr hlt)) (by rw [hk]; rfl)
    ((behind_sem_or_rdzv (.inr hk)).trans (decide_eq_false (Nat.not_le.2 hlt))) ?_
  simp only [State.expired, hk]
  rfl

/-- R229: a semaphore's wait behind older ones. -/
theorem older_tested {k : Nat} {b : Word} (hk : w.kind = .sem k b ∨ w.kind = .rdzv k b) (hle : b.toNat ≤ (s.sem t.src.site k).toNat)
    (hf : s.semFirst t.src.site k t.susp s.subj.a = false) : WaitLooksAgain s t w := by
  have hstay : s.testWait s.subj.a t w = .stay := by
    rcases hk with hk | hk
    · exact (testWait_sem hk).trans (if_neg (fun hc => Bool.eq_false_iff.1 hf hc.2))
    · exact testWait_rdzv_stay hk (.inl hf)
  exact wait_behind h hs hstay ((behind_sem_or_rdzv hk).trans (decide_eq_true hle))

theorem time_tested {b : Word} (hk : w.kind = .time b) {e : Bool → Eff}
    (hE : e = fun p => { v := some (t.all ⟨w32 s.tod, (t.b0 w.fields).pois⟩), p := some (allP t p) }) :
    (0 ≤ (w32 s.tod - b).toInt → WaitOver s s t w (e true))
    ∧ ((w32 s.tod - b).toInt < 0 → exec .waitTest s = .next (s.postEv .waitTest { a := s.subj.a })
      ∧ ∀ d, w.deadline = some d ∧ d ≤ s.work t.part → Ends .waitExpiry s s s.subj.a t w.fields (e false)) := by
  subst hE
  refine ⟨fun hge => wait_over h hs ((testWait_time hk).trans (if_pos ((timeReached_iff ..).2 hge))) rfl rfl, fun hlt => ?_⟩
  have hstay : s.testWait s.subj.a t w = .stay := (testWait_time hk).trans (if_neg (fun hc => Int.not_le.2 hlt ((timeReached_iff ..).1 hc)))
  refine ⟨(waitTest_exec h hs).trans (by rw [hstay, hk]; rfl), wait_expires h hs hstay (by simp [State.behind, hk]) ?_⟩
  simp only [State.expired, hk]
  rfl

theorem mail_tested (hk : w.kind = .mailbox) {g : Frame} (hg : s.frameFor t t.frame = .ok g) :
    (1 ∈ g.present → WaitOver s (s.mailTaken t g) t w { v := some ((List.range t.width).map (g.word 1)), p := some (allP t true) })
    ∧ (1 ∉ g.present → WaitStays s t w { v := some (t.all .zero), p := some (allP t false) }) := by
  refine ⟨fun hin => wait_over h hs (testWait_mail_won hk hg hin) (threadsStay_mailTaken ..).threads rfl, fun hout => ?_⟩
  refine wait_stays h hs (testWait_mail_stay hk hg hout) (by rw [hk]; rfl) (by simp [State.behind, hk]) ?_
  simp only [State.expired, hk]
  rfl

theorem fence_tested {n : Nat} {g : FenceEnt} (hk : w.kind = .fence n) (hg : tget (s.cell t.src).fences n = some g) :
    (s.fenceDone t.src.site g = true →
      WaitOver s (s.setCell t.src { s.cell t.src with fences := tset (s.cell t.src).fences n { g with owner := none } }) t w
        (if g.faulted then { v := some (t.all ⟨3, false⟩), p := some (allP t false) } else { v := some (t.all ⟨1, false⟩), p := some (allP t true) }))
    ∧ (s.fenceDone t.src.site g = false → WaitStays s t w { v := some (t.all .zero), p := some (allP t false) }) := by
  refine ⟨fun hd => wait_over h hs ((testWait_fence hk hg).trans (if_pos hd)) rfl ?_, fun hn => ?_⟩
  · cases g.faulted <;> rfl
  · refine wait_stays h hs ((testWait_fence hk hg).trans (if_neg (Bool.eq_false_iff.1 hn))) (by rw [hk]; rfl) (by simp [State.behind, hk]) ?_
    simp only [State.expired, hk]
    rfl

section Queue
variable {desc : Int} {pa : Nat} (hx : s.hwXlate t.part t.src.site desc true = some pa) (hserved : s.served pa = true)
include hx hserved

theorem push_tested {ws : List Word} {ctl : Bool} (hk : w.kind = .push desc ws ctl) (hws : ws ≠ [])
    (hh : s.pkgQueueHeld t.part t.src.site desc ws.length = false) {e : Bool → Eff}
    (hE : e = fun p => { v := some (t.as w.fields), p := some (allP t p) }) :
    (¬((qdescAt s.mem pa).ok = true ∧ (qdescAt s.mem pa).state = 1) → WaitOver s s t w (e false))
    ∧ (((qdescAt s.mem pa).ok = true ∧ (qdescAt s.mem pa).state = 1) → (qdescAt s.mem pa).free < ws.length + (if ctl then 0 else 2) →
      WaitStays s t w (e false))
    ∧ (((qdescAt s.mem pa).ok = true ∧ (qdescAt s.mem pa).state = 1) → ws.length + (if ctl then 0 else 2) ≤ (qdescAt s.mem pa).free → ∀ as,
      RingAt s t.part t.src.site (qdescAt s.mem pa) (qdescAt s.mem pa).tail ws.length as →
      WaitOver s (s.pushed t.part t.src.site desc pa as ws) t w (e true)) := by
  subst hE
  refine ⟨fun hl => wait_dead h hs ((testWait_push hk).trans (by rw [qPush_dead hx hserved hh hl]; rfl)) rfl, fun hl hf => ?_, fun hl hf as hr => ?_⟩
  · refine wait_stays h hs ((testWait_push hk).trans (by rw [qPush_wait hx hserved hh hws hl hf]; rfl)) (by rw [hk]; rfl)
      (by simp [State.behind, hk]) ?_
    simp only [State.expired, hk]
    rfl
  · exact wait_over h hs ((testWait_push hk).trans (by rw [qPush_done hx hserved hh hws hl hf hr]; rfl)) (State.pushed_threads ..) rfl

theorem pop_tested (hk : w.kind = .pop desc) (hsel : t.selLanes ≠ []) (hh : s.pkgQueueHeld t.part t.src.site desc t.selLanes.length = false) :
    (¬((qdescAt s.mem pa).ok = true ∧ (qdescAt s.mem pa).state = 1) → WaitOver s s t w { v := some (t.all .zero), p := some (allP t false) })
    ∧ (((qdescAt s.mem pa).ok = true ∧ (qdescAt s.mem pa).state = 1) → (qdescAt s.mem pa).used < t.selLanes.length →
      WaitStays s t w { v := some (t.all .zero), p := some (allP t false) })
    ∧ (((qdescAt s.mem pa).ok = true ∧ (qdescAt s.mem pa).state = 1) → t.selLanes.length ≤ (qdescAt s.mem pa).used → ∀ as,
      RingAt s t.part t.src.site (qdescAt s.mem pa) (qdescAt s.mem pa).head t.selLanes.length as →
      WaitOver s (s.poppedTo t.part t.src.site desc pa t.selLanes.length) t w { v := some (t.popped (as.map s.rdW)), p := some (allP t true) }) := by
  refine ⟨fun hl => wait_dead h hs ((testWait_pop hk).trans (by rw [qPop_dead hx hserved hh hl]; rfl)) rfl, fun hl hu => ?_, fun hl hu as hr => ?_⟩
  · refine wait_stays h hs ((testWait_pop hk).trans (by rw [qPop_wait hx hserved hh hl hu]; rfl)) (by rw [hk]; rfl)
      (by simp [State.behind, hk]) ?_
    simp only [State.expired, hk]
    rfl
  · have hn : t.selLanes.length ≠ 0 := fun h0 => hsel (List.length_eq_zero_iff.1 h0)
    exact wait_over h hs ((testWait_pop hk).trans (by rw [qPop_done hx hserved hh hn hl hu hr]; rfl)) (State.poppedTo_threads ..) rfl

end Queue

end Tested

/-- Settles O17: at issue from what a wait does at its start; then each kind from what its test finds. -/
theorem waitInstructionResults : Obligations.WaitInstructionResults := by
  refine ⟨fun s u t f => ⟨fun hi => ⟨fun h => waitc_wins hi h rfl, fun h hT => waitc_loses hi h hT rfl, fun h hp hw => waitc_waits hi h hp hw rfl rfl rfl⟩,
    fun hi he => ⟨fun hB => waits_poisoned hi he hB rfl, fun hB hn => ⟨fun h => waits_wins hi he hB hn h rfl,
      fun h hT => waits_loses hi he hB hn h hT rfl, fun h hp hw => waits_waits hi he hB hn h hp hw rfl rfl rfl⟩⟩,
    fun hi he k hk hend => waits_element hi he rfl rfl hk hend,
    fun hi hl => ⟨gate_wins hi hl, gate_loses hi hl, fun h hp hw => gate_waits hi hl h hp hw rfl rfl rfl⟩,
    fun hi hl => ⟨fun w hw => ⟨fun h => mail_wins hi hl hw h rfl, fun h hT => mail_loses hi hl hw h hT rfl,
      fun h hp hT => mail_waits hi hl hw h hp hT rfl rfl rfl⟩, fun c hw k hk hend => mail_fault hi hl hw rfl rfl hk hend⟩⟩,
    fun s t w h hs => ⟨fun ld st cp mx hk => counters_tested h hs hk, fun k b hk => sem_tested h hs hk, fun k b hk => rdzv_tested h hs hk,
      fun k b hk hle hf => older_tested h hs hk hle hf, fun b hk => time_tested h hs hk rfl, fun hk g hg => mail_tested h hs hk hg,
      fun n g hk hg => fence_tested h hs hk hg, fun desc pa hx hserved => ⟨?push, ?pop⟩, ?killed, fun d hd hlt => waitExpiry_early h hd hlt,
      waitExpiry_never h⟩⟩
  case push =>
    intro ws ctl hk hws hh
    obtain ⟨hdead, hstays, hdone⟩ := push_tested h hs hx hserved hk hws hh rfl
    exact ⟨hdead, hstays, fun hl hf as ⟨hlen, has, hmap⟩ => hdone hl hf as ⟨hlen, has, hmap⟩⟩
  case pop =>
    intro hk hsel hh
    obtain ⟨hdead, hstays, hdone⟩ := pop_tested h hs hx hserved hk hsel hh
    exact ⟨hdead, hstays, fun hl hu as ⟨hlen, has, hmap⟩ => hdone hl hu as ⟨hlen, has, hmap⟩⟩
  case killed =>
    intro push hk
    refine wait_dead h hs (testWait_killed hk) ?_
    cases push <;> rfl

end Sys2Proof.Machine
end

section
/-! Work and gangs (R73, R75, R126, R207): what an idle cell runs, how a gang claims its cells and fires, and when a thread
suspended on its slots goes on. -/

namespace Sys2Proof.Machine

/-! ## The choice of work (R75) -/

/-- An idle cell of an engine that acts, with no claim on it, whose pairs all stand in their frames. -/
structure CellIdle (s : State) (ag : Agent) : Prop where
  idle : (s.cell ag).run = none
  unclaimed : s.claimed ag = false
  acts : s.idleSite ag.site = false
  pairs : ∀ q ∈ (s.cell ag).pairs, s.pairThere ag q = true ∧ q.misTagged = false

section Idle
variable {s : State} {c : Cand × Thread} (h : CellIdle s s.subj.ag) (hc : (s.candidates s.subj.ag).find? s.mayRun = some c)
include h hc

theorem workSelection_exec : exec .workSelection s = .next (if c.2.width ≤ 1 then (s.startCand s.subj.ag c.1 c.2).postEv .workSelection { ag := s.subj.ag }
    else s.postEv .gangClaim { ag := s.subj.ag }) := by
  obtain ⟨hrun, hcl, hact, hpairs⟩ := h
  have hthere : (s.cell s.subj.ag).pairs.any (fun q => !s.pairThere s.subj.ag q) = false :=
    List.any_eq_false.2 (fun q hq => by simp [(hpairs q hq).1])
  have hmis : (s.cell s.subj.ag).pairs.find? (fun q => q.misTagged) = none :=
    List.find?_eq_none.2 (fun q hq => by simp [(hpairs q hq).2])
  show execWorkSelection s = _
  unfold execWorkSelection
  simp only [hrun, hcl, hact, hthere, hmis, hc, Option.isSome_none, Bool.or_false, Bool.false_eq_true, if_false]
  split <;> rfl

theorem gangClaim_exec (hw : 1 < c.2.width) : exec .gangClaim s = .next ((s.modSite s.subj.ag.site (fun v =>
    { v with claims := v.claims ++ [⟨s.subj.ag, c.2.cellsHeld, c.1⟩] })).postEv .gangFire { ag := s.subj.ag }) := by
  show execGangClaim s = _
  unfold execGangClaim
  simp only [h.idle, h.unclaimed, hc, Option.isSome_none, Bool.or_false, Bool.false_eq_true, if_false, Nat.not_le.2 hw]

end Idle

/-! ## Gangs (R126) -/

section Fire
variable {s : State} {cl : Claim} (hcl : (s.site s.subj.ag.site).claims.find? (fun x => x.ag = s.subj.ag) = some cl)
include hcl

theorem gangFire_fires {c : Cand × Thread} (hc : s.claimant s.subj.ag cl.cand = some c) (hs : s.idleSite s.subj.ag.site = false)
    (hh : s.claimHolds cl = true) (hm : s.mayRun c = true) : exec .gangFire s = .next ((s.setSite s.subj.ag.site { s.site s.subj.ag.site with
      claims := (s.site s.subj.ag.site).claims.filter (fun x => x.ag ≠ s.subj.ag) }).startCand s.subj.ag c.1 c.2) := by
  show execGangFire s = _
  unfold execGangFire
  simp only [hcl, hc, hs, hh, hm, Bool.not_true, Bool.or_false, Bool.false_eq_true, if_false]
  rfl

theorem gangFire_lapses (hc : s.claimant s.subj.ag cl.cand = none) : exec .gangFire s = .next (s.dropClaim cl) := by
  show execGangFire s = _
  unfold execGangFire
  simp only [hcl, hc]

end Fire

/-! ## A one-input firing of width 1 (R73) -/

theorem portReg_eq (b : BitVec 2) : portReg b = (match b.toNat with | 0 => .a | 1 => .b | 2 => .c | _ => .d) := rfl

/-- R73: the thread that a token of one lane starts. -/
theorem oneInput_lanes {ag : Agent} {k : Token} (h : k.tag.width = 1) :
    (oneInput ag k).lanes = [Lane.fresh.setReg (portReg k.tag.port) (k.data.getD 0 .zero)] := by
  simp [oneInput, startThread, h]

/-- R121: a thread of one lane holds its own cell alone. -/
theorem oneInput_cellsHeld {ag : Agent} {k : Token} (h : k.tag.width = 1) : (oneInput ag k).cellsHeld = [ag.cell] := by
  have hw : (oneInput ag k).width = 1 := by rw [Thread.width, oneInput_lanes h]; rfl
  have hc : (oneInput ag k).laneCells = [ag.cell] := if_pos (Nat.le_of_eq hw)
  exact (if_pos (by rw [hc]; exact List.mem_singleton_self _)).trans hc

/-- R75, R127: a thread that holds its source cell alone takes it, and the rest of the cell is as it was. -/
theorem occupy_cell {s : State} {u : Nat} {t : Thread} (h : t.cellsHeld = [t.src.cell]) :
    (s.occupy u t).cell t.src = { s.cell t.src with run := some u, slots := (s.cell t.src).slots.filter (fun e => e.2 ≠ u) } := by
  have hcells : (s.occupy u t).cells
      = (s.modCell t.src (fun c => { c with run := some u, slots := c.slots.filter (fun e => e.2 ≠ u) })).cells := by
    unfold State.occupy State.modCells
    rw [h]
    rfl
  exact (State.cell_congr hcells _).trans ((State.modCell_cell ..).trans (if_pos rfl))

theorem occupy_thr (s : State) (u : Nat) (t : Thread) : (s.occupy u t).thr? u = some { t with stat := .run, slot := none } := thr_setThr ..

theorem occupy_issues (s : State) (u : Nat) (t : Thread) : Act.issue t.src ∈ (s.occupy u t).agenda := List.mem_append_right _ (List.mem_singleton_self _)

/-- R73, R75: a queue's head that fires leaves its queue, and its cell runs it. -/
theorem startCand_head_cell {s : State} {ag : Agent} {k : Token} (p n : Nat) (hw : k.tag.width = 1) :
    (s.startCand ag (.head p n) (oneInput ag k)).cell ag = { s.cell ag with
      queues := tset (s.cell ag).queues p (((s.cell ag).queue p).drop 1), run := some s.fresh
      slots := (s.cell ag).slots.filter (fun e => e.2 ≠ s.fresh) } := by
  have hleaves : (s.modCell ag (fun c => { c with queues := tset c.queues p ((c.queue p).drop 1) })).bump.cell ag
      = { s.cell ag with queues := tset (s.cell ag).queues p (((s.cell ag).queue p).drop 1) } :=
    (State.cell_congr (State.bump_cells _) ag).trans ((State.modCell_cell ..).trans (if_pos rfl))
  exact (occupy_cell (oneInput_cellsHeld hw)).trans
    (congrArg (fun c : Cell => { c with run := some s.fresh, slots := c.slots.filter (fun e => e.2 ≠ s.fresh) }) hleaves)

/-! ## Slots (R207) -/

section Reserve
variable {s : State} {t : Thread} (ht : s.thr? s.subj.a = some t) (hst : t.stat = .reserve) (hs : s.idleSite t.src.site = false)
include ht hst hs

theorem reservationReady_waits (hr : s.couldReserve t = false) :
    exec .reservationReady s = .next (s.postEv .reservationReady { a := s.subj.a }) := by
  show execReservationReady s = _
  unfold execReservationReady
  simp only [ht, hst, hs, hr, ne_eq, not_true_eq_false, Bool.not_false, Bool.or_true, if_false, if_true]

theorem reservationReady_goes (hr : s.couldReserve t = true) : exec .reservationReady s = .next (match t.slot with
    | some _ => (s.setThr s.subj.a { t with stat := .ready }).wake t.src.site [t.src.cell]
    | none => (s.setThr s.subj.a { t with stat := .run }).post (.issue t.src)) := by
  show execReservationReady s = _
  unfold execReservationReady
  simp only [ht, hst, hs, hr, ne_eq, not_true_eq_false, Bool.not_true, Bool.or_false, Bool.false_eq_true, if_false]
  cases t.slot <;> rfl

end Reserve

/-- Settles O45: an idle cell's work, a gang's claim and fire, the cell and the thread of a firing, a thread's slots. -/
theorem workAndGangs : Obligations.WorkAndGangs := by
  refine ⟨fun s c hrun hcl hact hpairs hc => ?work, fun s cl c hcl hc hs hh hm => gangFire_fires hcl hc hs hh hm,
    fun s cl hcl hc => gangFire_lapses hcl hc, fun s ag p k q hp hq hw hport => ?fires, fun s t ht hst hs => ⟨reservationReady_waits ht hst hs, ?now, ?later⟩⟩
  case work =>
    have hidle : CellIdle s s.subj.ag := ⟨hrun, hcl, hact, hpairs⟩
    have hexec := workSelection_exec hidle hc
    refine ⟨fun hw => hexec.trans (by rw [if_pos hw]), fun hw => ⟨hexec.trans (by rw [if_neg (Nat.not_le.2 hw)]), _, gangClaim_exec hidle hc hw, ?_, rfl, rfl,
      List.mem_append_right _ (List.mem_singleton_self _)⟩⟩
    rw [State.site_congr (State.postEv_sites ..), State.modSite_site, if_pos rfl]
  case fires =>
    have hcell := startCand_head_cell (s := s) (ag := ag) (k := k) p k.id hw
    intro s'
    refine ⟨?_, congrArg Cell.run hcell, ⟨_, occupy_thr .., rfl, rfl, rfl, rfl, rfl, ?_, rfl, rfl, rfl, ?_⟩, occupy_issues ..⟩
    · rw [hcell, Cell.queue, tgetD_tset, if_pos rfl, hq]
      rfl
    · rw [Thread.width, oneInput_lanes hw]; rfl
    · rw [oneInput_lanes hw, portReg_eq, hport]; rfl
  case now => exact fun hr hslot => (reservationReady_goes ht hst hs hr).trans (by rw [hslot])
  case later => exact fun n hr hslot => (reservationReady_goes ht hst hs hr).trans (by rw [hslot]; rfl)

end Sys2Proof.Machine
end

section
/-! The word functions of groups 0x1 and 0x2 (R110 to R116): fields, counts, bits and bytes of a word, and the exact sums. -/

namespace Sys2Proof.Machine

/-! ## Instructions of the shared effect (R105, R106) -/

theorem actsAs_alu1 {mk : Fields → Instr} {opc cyc : Nat} {g : Word → Word} {h : Fields → Word → Word}
    (hx : ∀ f s, exec (mk f) s = s.alu1 f opc cyc g) (hg : ∀ f x, g x = h f x) :
    ActsAs mk (fun _ => { opc := opc, b := false, cyc := cyc }) (lanes1 h) := by
  refine actsAs_pure hx (fun t f _ => ?_) (fun _ _ => rfl)
  rw [map1_lanes, lanes1]
  simp only [hg f]

theorem actsAs_alu2 {mk : Fields → Instr} {opc cyc : Nat} {g : Word → Word → Word} {h : Fields → Word → Word → Word}
    (hx : ∀ f s, exec (mk f) s = s.alu2 f opc cyc g) (hg : ∀ f x y, g x y = h f x y) :
    ActsAs mk (fun _ => { opc := opc, cyc := cyc }) (lanes2 h) := by
  refine actsAs_pure hx (fun t f _ => ?_) (fun _ _ => rfl)
  rw [map2_lanes, lanes2]
  simp only [hg f]

theorem actsAs_alu3 {mk : Fields → Instr} {opc cyc : Nat} {g : Word → Word → Word → Word} {h : Fields → Word → Word → Word → Word}
    (hx : ∀ f s, exec (mk f) s = s.alu3 f opc cyc g) (hg : ∀ f x y z, g x y z = h f x y z) :
    ActsAs mk (fun _ => { opc := opc, cyc := cyc }) (lanes3 h) := by
  refine actsAs_pure hx (fun t f _ => ?_) (fun _ _ => rfl)
  rw [map3_lanes, lanes3]
  simp only [hg f]

/-! ## Words and their fields -/

theorem wrap32_natCast (n : Nat) : wrap32 (n : Int) = w32 n := BitVec.ofInt_natCast 32 n

theorem w32_toNat {n : Nat} (h : n < 2 ^ 32) : (w32 n).toNat = n := (BitVec.toNat_ofNat n 32).trans (Nat.mod_eq_of_lt h)

theorem w32_toNat_self (x : Word) : w32 x.toNat = x := BitVec.eq_of_toNat_eq (w32_toNat x.isLt)

theorem fld_low (x : Word) (n : Nat) : fld x 0 n = Zx x % 2 ^ n := by rw [fld, pow_zero, Nat.div_one, Zx]

theorem fld_byte (x : Word) (i : Nat) : fld x (8 * i) 8 = Zx x / 256 ^ i % 256 := by
  rw [fld, pow_mul]
  rfl

theorem fld_nibble (x : Word) (i : Nat) : fld x (4 * i) 4 = Zx x / 16 ^ i % 16 := by
  rw [fld, pow_mul]
  rfl

theorem bit_eq_getLsbD (x : Word) (i : Nat) : bit x i = x.getLsbD i := by
  rw [BitVec.getLsbD, Nat.testBit_eq_decide_div_mod_eq]
  rfl

theorem bfPos_eq (y : Word) : bfPos y = Zx y % 32 := fld_low y 5

theorem bfLen_eq (y : Word) : bfLen y = min (Zx y / 32 % 64) (32 - Zx y % 32) := by
  rw [bfLen, bfPos_eq]
  rfl

/-! ## The integer and shift functions (R110, R112) -/

theorem fnLea_eq (x y z : Word) : fnLea x y z = wrap32 ((Zx z : Int) + Zx x * 2 ^ (Zx y % 32)) := by
  rw [fnLea, fld_low]
  push_cast
  rfl

/-- The bits that a rotation moves past bit 31 come back below those that it keeps. -/
theorem fnRotl_eq (x y : Word) :
    fnRotl x y = w32 (Zx x * 2 ^ (Zx y % 32) % 2 ^ 32 + Zx x / 2 ^ (32 - Zx y % 32)) := by
  rw [fnRotl, fld_low]
  set r := Zx y % 32 with hr
  have hr32 : r < 32 := Nat.mod_lt _ (by decide)
  have hsplit : 2 ^ 32 = 2 ^ (32 - r) * 2 ^ r := by rw [← pow_add, Nat.sub_add_cancel hr32.le]
  have hlow : Zx x / 2 ^ (32 - r) < 2 ^ r := Nat.div_lt_of_lt_mul (hsplit ▸ x.isLt)
  have hhigh : Zx x * 2 ^ r % 2 ^ 32 = (Zx x % 2 ^ (32 - r)) <<< r := by
    rw [hsplit, Nat.mul_mod_mul_right, Nat.shiftLeft_eq]
  have hor : (x.rotateLeft r).toNat = Zx x * 2 ^ r % 2 ^ 32 ||| Zx x / 2 ^ (32 - r) := by
    rw [BitVec.toNat_rotateLeft, Nat.mod_eq_of_lt hr32, Nat.shiftLeft_eq, Nat.shiftRight_eq_div_pow]
    rfl
  have hsum : (x.rotateLeft r).toNat = Zx x * 2 ^ r % 2 ^ 32 + Zx x / 2 ^ (32 - r) := by
    rw [hor, hhigh, Nat.shiftLeft_add_eq_or_of_lt hlow]
  rw [← hsum]
  exact (w32_toNat_self _).symm

/-- Of the low n bits of x, the first that is set, if any is, comes right after the zeros counted. -/
theorem clzGo_spec (x : Word) (n : Nat) :
    clzGo x n ≤ n ∧ Zx x % 2 ^ n < 2 ^ (n - clzGo x n) ∧ (clzGo x n < n → 2 ^ (n - 1 - clzGo x n) ≤ Zx x % 2 ^ n) := by
  induction n with
  | zero => exact ⟨Nat.le_refl 0, by simp [Nat.mod_one, clzGo], fun h => absurd h (Nat.not_lt_zero _)⟩
  | succ n ih =>
    obtain ⟨hle, hlt, hge⟩ := ih
    have hmod := Nat.mod_pow_succ (x := Zx x) (b := 2) (k := n)
    have htop : x.getLsbD n = decide (Zx x / 2 ^ n % 2 = 1) := Nat.testBit_eq_decide_div_mod_eq
    have hbit := Nat.mod_lt (Zx x / 2 ^ n) (show 0 < 2 by decide)
    cases hx : x.getLsbD n with
    | true =>
      rw [htop, decide_eq_true_eq] at hx
      rw [hx, Nat.mul_one] at hmod
      have hpow := Nat.mod_lt (Zx x) (Nat.two_pow_pos (n + 1))
      simp only [clzGo, htop, hx, decide_true, if_true]
      refine ⟨Nat.zero_le _, hpow, fun _ => ?_⟩
      rw [hmod]
      exact Nat.le_add_left _ _
    | false =>
      rw [htop, decide_eq_false_iff_not] at hx
      rw [show Zx x / 2 ^ n % 2 = 0 by omega, Nat.mul_zero, Nat.add_zero] at hmod
      simp only [clzGo, htop, hx, decide_false, Bool.false_eq_true, if_false, hmod]
      refine ⟨by omega, ?_, fun h => ?_⟩
      · rwa [show n + 1 - (1 + clzGo x n) = n - clzGo x n by omega]
      · rw [show n + 1 - 1 - (1 + clzGo x n) = n - 1 - clzGo x n by omega]
        exact hge (by omega)

theorem fnClz_spec (x : Word) :
    Zx (fnClz x) ≤ 32 ∧ Zx x < 2 ^ (32 - Zx (fnClz x)) ∧ (Zx (fnClz x) < 32 → 2 ^ (31 - Zx (fnClz x)) ≤ Zx x) := by
  have h := clzGo_spec x 32
  rw [Nat.mod_eq_of_lt (show Zx x < 2 ^ 32 from x.isLt)] at h
  rwa [show Zx (fnClz x) = clzGo x 32 from w32_toNat (by omega)]

theorem fnPopc_eq (x : Word) : fnPopc x = w32 ((List.range 32).countP (fun i => x.getLsbD i)) := by
  rw [fnPopc, List.countP_eq_length_filter]

/-! ## Words put together from their digits -/

/-- The number with digit `d i` of base B at place i, for the n lowest places. -/
def ofPlaces (B : Nat) (d : Nat → Nat) (n : Nat) : Nat := ((List.range n).map (fun i => d i * B ^ i)).foldl (· + ·) 0

theorem ofPlaces_succ (B : Nat) (d : Nat → Nat) (n : Nat) : ofPlaces B d (n + 1) = ofPlaces B d n + d n * B ^ n := by
  simp [ofPlaces, List.range_succ]

theorem ofPlaces_lt {B : Nat} {d : Nat → Nat} (hd : ∀ i, d i < B) (n : Nat) : ofPlaces B d n < B ^ n := by
  induction n with
  | zero => exact Nat.one_pos
  | succ n ih =>
    rw [ofPlaces_succ, pow_succ]
    have := hd n
    nlinarith

/-- Each place of the number holds its digit. -/
theorem ofPlaces_digit {B : Nat} {d : Nat → Nat} (hd : ∀ i, d i < B) {n i : Nat} (hi : i < n) : ofPlaces B d n / B ^ i % B = d i := by
  have hB : 0 < B := Nat.zero_lt_of_lt (hd 0)
  induction n with
  | zero => exact absurd hi (Nat.not_lt_zero i)
  | succ n ih =>
    rw [ofPlaces_succ]
    rcases Nat.lt_succ_iff_lt_or_eq.1 hi with h | rfl
    · obtain ⟨k, rfl⟩ := Nat.exists_eq_add_of_lt h
      rw [show d (i + k + 1) * B ^ (i + k + 1) = d (i + k + 1) * B ^ k * B * B ^ i by ring, Nat.add_mul_div_right _ _ (Nat.pow_pos hB),
        Nat.add_mul_mod_self_right]
      exact ih h
    · rw [Nat.add_mul_div_right _ _ (Nat.pow_pos hB), Nat.div_eq_of_lt (ofPlaces_lt hd i), Nat.zero_add, Nat.mod_eq_of_lt (hd i)]

/-- The bit of x that a reversal puts at place i. -/
def brevBit (x : Word) (i : Nat) : Nat := (x.getLsbD (31 - i)).toNat

theorem brevBit_lt (x : Word) (i : Nat) : brevBit x i < 2 := Bool.toNat_lt _

theorem fnBrev_eq (x : Word) : fnBrev x = w32 (ofPlaces 2 (brevBit x) 32) := by
  have h : ∀ i, (if x.getLsbD (31 - i) then 2 ^ i else 0) = brevBit x i * 2 ^ i := fun i => by
    cases hb : x.getLsbD (31 - i) <;> simp [brevBit, hb]
  simp only [fnBrev, h, ofPlaces]

theorem getLsbD_fnBrev (x : Word) {i : Nat} (hi : i < 32) : (fnBrev x).getLsbD i = x.getLsbD (31 - i) := by
  have hd := brevBit_lt x
  rw [BitVec.getLsbD, Nat.testBit_eq_decide_div_mod_eq, fnBrev_eq, w32_toNat (ofPlaces_lt hd 32), ofPlaces_digit hd hi, brevBit]
  cases x.getLsbD (31 - i) <;> rfl

theorem byteZ_eq (x : Word) (i : Nat) : byteZ x i = Zx x / 256 ^ i % 256 := fld_byte x i

theorem byteZ_lt (x : Word) (i : Nat) : byteZ x i < 256 := fld_lt ..

theorem bytepByte_lt (x z : Word) (n : Nat) : bytepByte x z n < 256 := by
  have hx := byteZ_lt x (n % 8)
  have hz := byteZ_lt z (n % 8 - 4)
  simp only [bytepByte]
  split_ifs <;> omega

theorem bytepByte_eq (x z : Word) (n : Nat) : bytepByte x z n =
    let src := if n % 8 < 4 then Zx x / 256 ^ (n % 8) % 256 else Zx z / 256 ^ (n % 8 - 4) % 256
    if n < 8 then src else if 128 ≤ src then 255 else 0 := by
  simp only [bytepByte, byteZ_eq]
  split_ifs <;> omega

/-- R116: each byte of the result is the one its nibble of y names. -/
theorem fnBytep_byte (x y z : Word) {i : Nat} (hi : i < 4) :
    Zx (fnBytep x y z) / 256 ^ i % 256 = bytepByte x z (Zx y / 16 ^ i % 16) := by
  have hd : ∀ i, bytepByte x z (Zx y / 16 ^ i % 16) < 256 := fun i => bytepByte_lt x z _
  have h : fnBytep x y z = w32 (ofPlaces 256 (fun i => bytepByte x z (Zx y / 16 ^ i % 16)) 4) := by
    simp only [fnBytep, ofPlaces, fld_nibble, pow_mul]
    rfl
  rw [h, Zx, w32_toNat (ofPlaces_lt hd 4), ofPlaces_digit hd hi]

/-! ## Bit fields and division (R113, R114) -/

theorem fnBfx_eq (x y : Word) : fnBfx x y =
    (let pos := Zx y % 32
     let len := min (Zx y / 32 % 64) (32 - pos)
     let v := Zx x / 2 ^ pos % 2 ^ len
     if y.getLsbD 11 ∧ 0 < len ∧ 2 ^ (len - 1) ≤ v then wrap32 ((v : Int) - 2 ^ len) else wrap32 v) := by
  simp only [fnBfx, bfLen_eq, bfPos_eq, bit_eq_getLsbD, wrap32_natCast]

theorem fnBfi_eq (x y z : Word) : fnBfi x y z =
    (let pos := Zx y % 32
     let len := min (Zx y / 32 % 64) (32 - pos)
     (z &&& ~~~(w32 ((2 ^ len - 1) * 2 ^ pos))) ||| w32 (Zx x % 2 ^ len * 2 ^ pos)) := by
  simp only [fnBfi, bfLen_eq, bfPos_eq]

/-- R114: the quotient that 32 bits do not hold wraps to the dividend. -/
theorem fnDiv_eq (x y : Word) : fnDiv x y =
    if y = 0 then 0xFFFFFFFF else if x = 0x80000000 ∧ y = 0xFFFFFFFF then 0x80000000 else wrap32 ((Sx x).tdiv (Sx y)) := by
  by_cases h : x = 0x80000000 ∧ y = 0xFFFFFFFF
  · obtain ⟨rfl, rfl⟩ := h
    decide
  · rw [if_neg h, fnDiv]

theorem fnRem_eq (x y : Word) : fnRem x y =
    if y = 0 then x else if x = 0x80000000 ∧ y = 0xFFFFFFFF then 0 else wrap32 (Sx x - Sx y * (Sx x).tdiv (Sx y)) := by
  by_cases h : x = 0x80000000 ∧ y = 0xFFFFFFFF
  · obtain ⟨rfl, rfl⟩ := h
    decide
  · rw [if_neg h, fnRem]

/-! ## Dot products (R115) -/

theorem byteS_eq (x : Word) (i : Nat) : byteS x i = (((Zx x / 256 ^ i % 256 + 128) % 256 : Nat) : Int) - 128 := by
  rw [byteS, fld_byte, sxN]
  split <;> omega

theorem nibS_eq (x : Word) (i : Nat) : nibS x i = (((Zx x / 16 ^ i % 16 + 8) % 16 : Nat) : Int) - 8 := by
  rw [nibS, fld_nibble, sxN]
  split <;> omega

theorem sumI_range_four (g : Nat → Int) : sumI ((List.range 4).map g) = g 0 + g 1 + g 2 + g 3 := by
  simp [sumI, List.range_succ]

theorem sumI_range_eight (g : Nat → Int) : sumI ((List.range 8).map g) = g 0 + g 1 + g 2 + g 3 + g 4 + g 5 + g 6 + g 7 := by
  simp [sumI, List.range_succ]

theorem fnDot4_eq (x y z : Word) : fnDot4 x y z =
    sat32 (Sx z + byteS x 0 * byteS y 0 + byteS x 1 * byteS y 1 + byteS x 2 * byteS y 2 + byteS x 3 * byteS y 3) := by
  simp only [fnDot4, sumI_range_four, add_assoc]

theorem fnDot4z_eq (x y z : Word) : fnDot4z x y z =
    satZ32 ((Zx z : Int) + byteZ x 0 * byteZ y 0 + byteZ x 1 * byteZ y 1 + byteZ x 2 * byteZ y 2 + byteZ x 3 * byteZ y 3) := by
  simp only [fnDot4z, sumI_range_four, add_assoc]

theorem fnDot8_eq (x y z : Word) : fnDot8 x y z =
    sat32 (Sx z + nibS x 0 * nibS y 0 + nibS x 1 * nibS y 1 + nibS x 2 * nibS y 2 + nibS x 3 * nibS y 3
      + nibS x 4 * nibS y 4 + nibS x 5 * nibS y 5 + nibS x 6 * nibS y 6 + nibS x 7 * nibS y 7) := by
  simp only [fnDot8, sumI_range_eight, add_assoc]

/-- Settles O10: every instruction takes its function lane by lane; what each function's value is, the lemmas above. -/
theorem integerInstructionResults : Obligations.IntegerInstructionResults := by
  refine ⟨⟨?add, ?sub, ?addss, ?addzs, ?subss, ?subzs, ?neg, ?abs, ?and, ?or, ?xor, ?andn, ?lea, ?mul, ?mulh, ?mulhz⟩,
    ⟨?shl, ?shr, ?sar, ?rotl, ?clz, fnClz_spec, ?popc, ?brev, fun x i hi => getLsbD_fnBrev x hi⟩,
    ⟨?bfx, ?bfi, ?div, ?divz, ?rem, ?bytep, fun x y z i hi => (fnBytep_byte x y z hi).trans (bytepByte_eq x z _)⟩, ?dot4, ?dot4z, ?dot8⟩
  case sub | addss | addzs | subss | subzs | and | or | xor | andn | mulh | shl | shr | sar | divz =>
    exact actsAs_alu2 (fun _ _ => rfl) (fun _ _ _ => rfl)
  case neg | abs | clz | brev => exact actsAs_alu1 (fun _ _ => rfl) (fun _ _ => rfl)
  case add => exact actsAs_alu2 (fun _ _ => rfl) (fun _ x y => (wrap32_natCast (Zx x + Zx y)).symm)
  case mul => exact actsAs_alu2 (fun _ _ => rfl) (fun _ x y => (wrap32_natCast (Zx x * Zx y)).symm)
  case mulhz => exact actsAs_alu2 (fun _ _ => rfl) (fun _ x y => (wrap32_natCast (Zx x * Zx y / 2 ^ 32)).symm)
  case lea => exact actsAs_alu3 (fun _ _ => rfl) (fun _ => fnLea_eq)
  case rotl => exact actsAs_alu2 (fun _ _ => rfl) (fun _ => fnRotl_eq)
  case popc => exact actsAs_alu1 (fun _ _ => rfl) (fun _ => fnPopc_eq)
  case bfx => exact actsAs_alu2 (fun _ _ => rfl) (fun _ => fnBfx_eq)
  case bfi => exact actsAs_alu3 (fun _ _ => rfl) (fun _ => fnBfi_eq)
  case div => exact actsAs_alu2 (fun _ _ => rfl) (fun _ => fnDiv_eq)
  case rem => exact actsAs_alu2 (fun _ _ => rfl) (fun _ => fnRem_eq)
  case bytep => exact actsAs_alu3 (fun _ _ => rfl) (fun _ _ _ _ => rfl)
  case dot4 => exact actsAs_alu3 (fun _ _ => rfl) (fun _ x y z => by simp only [fnDot4_eq, byteS_eq, Zx])
  case dot4z => exact actsAs_alu3 (fun _ _ => rfl) (fun _ x y z => by simp only [fnDot4z_eq, byteZ_eq, Zx])
  case dot8 => exact actsAs_alu3 (fun _ _ => rfl) (fun _ x y z => by simp only [fnDot8_eq, nibS_eq, Zx])

end Sys2Proof.Machine
end

section
/-! Comparison and selection (R117 to R119): truth values as words, the operand that SEL takes, and the order of FP32 patterns,
which is the order of their values (R148). -/

namespace Sys2Proof.Machine

/-! ## Truth values and selection (R105, R118) -/

theorem bitW_decide (p : Prop) [Decidable p] : bitW (decide p) = if p then 1 else 0 := by simp only [bitW, decide_eq_true_eq]

theorem bitW_bne (x y : Word) : bitW (x != y) = if x = y then 0 else 1 := by simp only [bitW, bne_iff_ne, ite_not]

/-- R118: a lane's result is the operand that its `p` selects, with that operand's poison. -/
theorem sel_lanes (t : Thread) (f : Fields) : t.sel f =
    (List.range t.width).map (fun l => if (t.lanes.map (fun x => x.p)).getD l false then t.aW f l else t.bW f l) := by
  apply List.ext_getElem
  · simp [Thread.sel, Thread.width]
  · intro l _ hl
    have hw : l < t.width := by simpa using hl
    have hlanes : l < t.lanes.length := hw
    simp [Thread.sel, Thread.aW, Thread.bW, hw, hlanes]

/-! ## The order of FP32 patterns (R148) -/

/-- The pattern of x without its sign. -/
def fpMag (x : Word) : Nat := x.toNat % 2 ^ 31
def fpNan (x : Word) : Bool := decide (0x7F800000 < fpMag x)
/-- A number that orders FP32 patterns as their values, the two zeros alike. -/
def fpKey (x : Word) : Int := if x.toNat < 2 ^ 31 then (x.toNat : Int) else -((x.toNat : Int) - 2 ^ 31)

/-- A magnitude with a sign. -/
def signedMag (neg : Bool) (n : Nat) : Int := if neg then -(n : Int) else n

theorem fpMag_eq (x : Word) : fpMag x = if x.msb then x.toNat - 2 ^ 31 else x.toNat := by
  have := x.isLt
  rw [fpMag, BitVec.msb_eq_decide]
  simp only [decide_eq_true_eq]
  split <;> omega

theorem fpKey_eq (x : Word) : fpKey x = signedMag x.msb (fpMag x) := by
  have := x.isLt
  rw [fpKey, signedMag, fpMag_eq, BitVec.msb_eq_decide]
  simp only [decide_eq_true_eq]
  split_ifs <;> omega

theorem top_lt_signedMag {n c : Nat} (h : n < c) (s r : Bool) : decide (signedMag s c < signedMag r n) = s := by
  cases s <;> cases r <;> simp only [signedMag, if_true, Bool.false_eq_true, if_false, decide_eq_true_eq, decide_eq_false_iff_not] <;> omega

theorem signedMag_lt_top {n c : Nat} (h : n < c) (r s : Bool) : decide (signedMag r n < signedMag s c) = !s := by
  cases s <;> cases r <;>
    simp only [signedMag, if_true, Bool.false_eq_true, if_false, Bool.not_true, Bool.not_false, decide_eq_true_eq, decide_eq_false_iff_not] <;> omega

/-- R148 for FP32: what a pattern stands for. -/
theorem F_val (x : Word) : F x =
    if fpMag x < 0x7F800000 then
      if fpMag x / 2 ^ 23 = 0 then .fin x.msb (fpMag x % 2 ^ 23) (-149)
      else .fin x.msb (2 ^ 23 + fpMag x % 2 ^ 23) ((fpMag x / 2 ^ 23 : Nat) - 150)
    else if fpMag x = 0x7F800000 then .inf x.msb else .nan := by
  have hs : (x.toNat / 2 ^ 31 % 2 == 1) = x.msb := by
    have := x.isLt
    rw [BitVec.msb_eq_decide]
    exact decide_eq_decide.2 (by omega)
  have he : ∀ E : Nat, (E : Int) - 127 - 23 = E - 150 := fun E => by omega
  simp only [F, Fmt.val, fp32, fpMag, Nat.add_one_sub_one, hs, he, Nat.cast_ofNat, Option.some.injEq, Nat.lt_succ_iff, eq_comm (a := 0x7F800000)]
  norm_num

theorem F_inf {x : Word} (h : fpMag x = 0x7F800000) : F x = .inf x.msb := by
  rw [F_val, if_neg (by omega), if_pos h]

theorem F_nan {x : Word} (h : 0x7F800000 < fpMag x) : F x = .nan := by
  rw [F_val, if_neg (by omega), if_neg (by omega)]

/-- The magnitude of a finite pattern in units of the least subnormal, 2^-149. -/
def fpUnits (b : Nat) : Nat := if b / 2 ^ 23 = 0 then b % 2 ^ 23 else (2 ^ 23 + b % 2 ^ 23) * 2 ^ (b / 2 ^ 23 - 1)

/-- The value of a finite value in those units. -/
def finUnits (neg : Bool) (m : Nat) (e : Int) : Int := signedMag neg (m * 2 ^ (e + 149).toNat)

theorem F_fin {x : Word} (h : fpMag x < 0x7F800000) :
    ∃ m e, F x = .fin x.msb m e ∧ -149 ≤ e ∧ finUnits x.msb m e = signedMag x.msb (fpUnits (fpMag x)) := by
  rw [F_val, if_pos h, fpUnits]
  split
  · exact ⟨_, _, rfl, le_refl _, by simp [finUnits]⟩
  · refine ⟨_, _, rfl, by omega, ?_⟩
    rw [finUnits, show ((fpMag x / 2 ^ 23 : Nat) - 150 + 149 : Int).toNat = fpMag x / 2 ^ 23 - 1 by omega]

/-- Each pattern's magnitude is less than the next one's, over the end of a binade too. -/
theorem fpUnits_strictMono : StrictMono fpUnits := by
  refine strictMono_nat_of_lt_succ fun b => ?_
  have hpos := Nat.two_pow_pos (b / 2 ^ 23 - 1)
  by_cases hT : b % 2 ^ 23 + 1 = 2 ^ 23
  · have hE : (b + 1) / 2 ^ 23 = b / 2 ^ 23 + 1 := by omega
    have hM : (b + 1) % 2 ^ 23 = 0 := by omega
    simp only [fpUnits, hE, hM, Nat.succ_ne_zero, if_false, Nat.add_sub_cancel]
    split
    · rename_i h0
      rw [h0]
      omega
    · rename_i h0
      rw [Nat.add_zero, ← mul_pow_sub_one h0 2, ← Nat.mul_assoc]
      exact Nat.mul_lt_mul_of_pos_right (by omega) hpos
  · have hE : (b + 1) / 2 ^ 23 = b / 2 ^ 23 := by omega
    have hM : (b + 1) % 2 ^ 23 = b % 2 ^ 23 + 1 := by omega
    simp only [fpUnits, hE, hM]
    split
    · omega
    · exact Nat.mul_lt_mul_of_pos_right (by omega) hpos

/-- A strictly rising measure of magnitudes keeps the order of signed ones. -/
theorem signedMag_lt_iff {u : Nat → Nat} (hu : StrictMono u) (h0 : u 0 = 0) (s r : Bool) (a b : Nat) :
    signedMag s (u a) < signedMag r (u b) ↔ signedMag s a < signedMag r b := by
  have hlt : u a < u b ↔ a < b := hu.lt_iff_lt
  have hgt : u b < u a ↔ b < a := hu.lt_iff_lt
  have ha : u a = 0 ↔ a = 0 := by rw [← h0, hu.injective.eq_iff, h0]
  have hb : u b = 0 ↔ b = 0 := by rw [← h0, hu.injective.eq_iff, h0]
  cases s <;> cases r <;> simp only [signedMag, if_true, Bool.false_eq_true, if_false] <;> omega

theorem signedMag_mul (s : Bool) (a c : Nat) : signedMag s (a * c) = signedMag s a * c := by
  cases s <;> simp [signedMag]

/-- Two finite values on their common exponent compare as they do in units of 2^-149. -/
theorem fin_lt_fin {s r : Bool} {m n : Nat} {e g : Int} (he : -149 ≤ e) (hg : -149 ≤ g) :
    (FV.fin s m e).lt (.fin r n g) = decide (finUnits s m e < finUnits r n g) := by
  have hunits : ∀ (s : Bool) (m : Nat) (e k : Int), -149 ≤ k → k ≤ e →
      finUnits s m e = signedMag s (alignTo k e m) * (2 ^ (k + 149).toNat : Nat) := fun s m e k hk hke => by
    rw [← signedMag_mul, alignTo, Nat.mul_assoc, ← pow_add, finUnits, show (e - k).toNat + (k + 149).toNat = (e + 149).toNat by omega]
  have hpos : (0 : Int) < (2 ^ (min e g + 149).toNat : Nat) := Int.natCast_pos.2 (Nat.two_pow_pos _)
  rw [hunits s m e (min e g) (le_min he hg) (min_le_left ..), hunits r n g (min e g) (le_min he hg) (min_le_right ..)]
  exact decide_eq_decide.2 (Int.mul_lt_mul_right hpos).symm

theorem FV.lt_nan_right (v : FV) : v.lt .nan = false := by cases v <;> rfl

theorem F_lt_of_finite {x y : Word} (hx : fpMag x < 0x7F800000) (hy : fpMag y < 0x7F800000) :
    (F x).lt (F y) = decide (fpKey x < fpKey y) := by
  obtain ⟨m, e, hF, he, hu⟩ := F_fin hx
  obtain ⟨n, g, hG, hg, hv⟩ := F_fin hy
  rw [hF, hG, fin_lt_fin he hg, hu, hv, fpKey_eq, fpKey_eq]
  exact decide_eq_decide.2 (signedMag_lt_iff fpUnits_strictMono rfl ..)

theorem F_lt_of_inf_left {x y : Word} (hx : fpMag x = 0x7F800000) (hy : fpMag y < 0x7F800000) :
    (F x).lt (F y) = decide (fpKey x < fpKey y) := by
  obtain ⟨n, g, hG, -⟩ := F_fin hy
  rw [F_inf hx, hG, fpKey_eq, fpKey_eq, hx, top_lt_signedMag hy]
  rfl

theorem F_lt_of_inf_right {x y : Word} (hx : fpMag x < 0x7F800000) (hy : fpMag y = 0x7F800000) :
    (F x).lt (F y) = decide (fpKey x < fpKey y) := by
  obtain ⟨m, e, hF, -⟩ := F_fin hx
  rw [F_inf hy, hF, fpKey_eq, fpKey_eq, hy, signedMag_lt_top hx]
  rfl

theorem F_lt_of_inf {x y : Word} (hx : fpMag x = 0x7F800000) (hy : fpMag y = 0x7F800000) :
    (F x).lt (F y) = decide (fpKey x < fpKey y) := by
  rw [F_inf hx, F_inf hy, fpKey_eq, fpKey_eq, hx, hy]
  cases x.msb <;> cases y.msb <;> rfl

/-- R119, R148: the values of two patterns compare as their keys do; with a NaN neither is less. -/
theorem F_lt (x y : Word) : (F x).lt (F y) = decide (fpNan x = false ∧ fpNan y = false ∧ fpKey x < fpKey y) := by
  by_cases hx : 0x7F800000 < fpMag x
  · simp [F_nan hx, fpNan, hx, FV.lt]
  by_cases hy : 0x7F800000 < fpMag y
  · simp [F_nan hy, fpNan, hy, FV.lt_nan_right]
  have hkeys : (F x).lt (F y) = decide (fpKey x < fpKey y) := by
    rcases Nat.lt_or_eq_of_le (Nat.le_of_not_lt hx) with hx | hx <;> rcases Nat.lt_or_eq_of_le (Nat.le_of_not_lt hy) with hy | hy
    · exact F_lt_of_finite hx hy
    · exact F_lt_of_inf_right hx hy
    · exact F_lt_of_inf_left hx hy
    · exact F_lt_of_inf hx hy
  simp [hkeys, fpNan, hx, hy]

theorem F_isNan (x : Word) : (F x).isNan = fpNan x := by
  rw [fpNan, F_val]
  split_ifs <;> simp [FV.isNan] <;> omega

theorem F_eq (x y : Word) : (F x).eq (F y) = decide (fpNan x = false ∧ fpNan y = false ∧ fpKey x = fpKey y) := by
  have hkeys : fpKey x = fpKey y ↔ ¬fpKey x < fpKey y ∧ ¬fpKey y < fpKey x := by omega
  rw [Bool.eq_iff_iff, decide_eq_true_eq, hkeys, FV.eq, F_isNan, F_isNan, F_lt, F_lt]
  cases fpNan x <;> cases fpNan y <;> simp

theorem F_le (x y : Word) :
    ((F x).lt (F y) || (F x).eq (F y)) = decide (fpNan x = false ∧ fpNan y = false ∧ fpKey x ≤ fpKey y) := by
  rw [F_lt, F_eq, ← Bool.decide_or, decide_eq_decide, le_iff_lt_or_eq, and_or_left, and_or_left]

/-- Settles O11: the integer forms by their functions, SEL lane by lane, the FP32 forms by the order of the patterns. -/
theorem compareAndSelectResults : Obligations.CompareAndSelectResults := by
  refine ⟨⟨?cmpeq, ?cmpne, ?cmplt, ?cmple, ?cmpltz, ?cmplez, ?min, ?max, ?minz, ?maxz, ?sel, ?clamp⟩, ?fcmpeq, ?fcmplt, ?fcmple, ?fcmpun⟩
  case cmpeq => exact actsAs_alu2 (fun _ _ => rfl) (fun _ x y => bitW_decide (x = y))
  case cmpne => exact actsAs_alu2 (fun _ _ => rfl) (fun _ => bitW_bne)
  case cmplt => exact actsAs_alu2 (fun _ _ => rfl) (fun _ x y => bitW_decide (Sx x < Sx y))
  case cmple => exact actsAs_alu2 (fun _ _ => rfl) (fun _ x y => bitW_decide (Sx x ≤ Sx y))
  case cmpltz => exact actsAs_alu2 (fun _ _ => rfl) (fun _ x y => bitW_decide (Zx x < Zx y))
  case cmplez => exact actsAs_alu2 (fun _ _ => rfl) (fun _ x y => bitW_decide (Zx x ≤ Zx y))
  case min | max | minz | maxz => exact actsAs_alu2 (fun _ _ => rfl) (fun _ _ _ => rfl)
  case sel => exact actsAs_pure (fun _ _ => rfl) (fun t f _ => congrArg Eff.val (sel_lanes t f)) (fun _ _ => rfl)
  case clamp => exact actsAs_alu3 (fun _ _ => rfl) (fun _ _ _ _ => rfl)
  case fcmpeq => exact actsAs_alu2 (fun _ _ => rfl) (fun _ x y => (congrArg bitW (F_eq x y)).trans (bitW_decide _))
  case fcmplt => exact actsAs_alu2 (fun _ _ => rfl) (fun _ x y => (congrArg bitW (F_lt x y)).trans (bitW_decide _))
  case fcmple => exact actsAs_alu2 (fun _ _ => rfl) (fun _ x y => (congrArg bitW (F_le x y)).trans (bitW_decide _))
  case fcmpun => exact actsAs_alu2 (fun _ _ => rfl) (fun _ x y => congrArg bitW (congrArg₂ or (F_isNan x) (F_isNan y)))

end Sys2Proof.Machine
end

section
/-! Colour grants (R122, R130, R142): the widths that CTXA tries in turn, the grants that PACK joins, and CTXA, CTXF, PACK and
UNPACK in each of their cases. -/

namespace Sys2Proof.Machine

/-! ## The search of CTXA (R122) -/

/-- The table's key of the block of width 2^j at position q of a strip. -/
def grantKey (strip q j : Nat) : Nat := 32 * strip + q / 2 ^ j * 2 ^ j

/-- The block of width 2^j at position q can be granted: no grant meets it, or it is a grant of its width with room for one more. -/
def grantOpen (gs : Tbl Nat Grant) (strip q j : Nat) : Bool :=
  match tget gs (grantKey strip q j) with
  | some g => decide (g.width = 2 ^ j ∧ g.count < 65535)
  | none => !blockTaken gs strip (q / 2 ^ j * 2 ^ j) (2 ^ j)

/-- The grants with that block granted once more. -/
def grantBlock (gs : Tbl Nat Grant) (strip q j : Nat) : Tbl Nat Grant :=
  tset gs (grantKey strip q j) ⟨2 ^ j, match tget gs (grantKey strip q j) with | some g => g.count + 1 | none => 1⟩

theorem ctxaGo_succ (gs : Tbl Nat Grant) (strip q n : Nat) : ctxaGo gs strip q (n + 1) =
    if grantOpen gs strip q (n + 1) then some (q / 2 ^ (n + 1) * 2 ^ (n + 1), 2 ^ (n + 1), grantBlock gs strip q (n + 1))
    else ctxaGo gs strip q n := by
  rw [ctxaGo, grantOpen, grantBlock, grantKey]
  cases tget gs (32 * strip + q / 2 ^ (n + 1) * 2 ^ (n + 1)) with
  | none => cases blockTaken gs strip (q / 2 ^ (n + 1) * 2 ^ (n + 1)) (2 ^ (n + 1)) <;> rfl
  | some g => simp only [decide_eq_true_eq]

theorem ctxaGo_eq_none (gs : Tbl Nat Grant) (strip q n : Nat) :
    ctxaGo gs strip q n = none ↔ ∀ j, 1 ≤ j → j ≤ n → grantOpen gs strip q j = false := by
  induction n with
  | zero => exact ⟨fun _ j h1 h0 => by omega, fun _ => rfl⟩
  | succ n ih =>
    rw [ctxaGo_succ]
    cases hopen : grantOpen gs strip q (n + 1) with
    | true => exact ⟨fun h => absurd h (Option.some_ne_none _), fun h => absurd (h (n + 1) (by omega) le_rfl) (by simp [hopen])⟩
    | false =>
      rw [if_neg Bool.false_ne_true, ih]
      refine ⟨fun h j h1 hj => ?_, fun h j h1 hj => h j h1 (by omega)⟩
      rcases Nat.lt_or_eq_of_le hj with hlt | rfl
      · exact h j h1 (by omega)
      · exact hopen

/-- R122: what the search grants is the widest block that is open. -/
theorem ctxaGo_some {gs : Tbl Nat Grant} {strip q n k w : Nat} {gs' : Tbl Nat Grant} (h : ctxaGo gs strip q n = some (k, w, gs')) :
    ∃ j, 1 ≤ j ∧ j ≤ n ∧ w = 2 ^ j ∧ k = q / 2 ^ j * 2 ^ j ∧ grantOpen gs strip q j = true
      ∧ (∀ i, j < i → i ≤ n → grantOpen gs strip q i = false) ∧ gs' = grantBlock gs strip q j := by
  induction n with
  | zero => cases h
  | succ n ih =>
    rw [ctxaGo_succ] at h
    cases hopen : grantOpen gs strip q (n + 1) with
    | true =>
      rw [hopen, if_pos rfl] at h
      cases h
      exact ⟨n + 1, by omega, le_rfl, rfl, rfl, hopen, fun i h1 h2 => by omega, rfl⟩
    | false =>
      rw [hopen, if_neg Bool.false_ne_true] at h
      obtain ⟨j, h1, hj, hw, hk, ho, hwide, hgs⟩ := ih h
      refine ⟨j, h1, by omega, hw, hk, ho, fun i hji hi => ?_, hgs⟩
      rcases Nat.lt_or_eq_of_le hi with hlt | rfl
      · exact hwide i hji (by omega)
      · exact hopen

/-! ## The grants of an instruction -/

section Colours
variable {s : State} {u : Nat} {t : Thread} {f : Fields} {e : Eff}

/-- The word and the `p` that a colour instruction gives every lane. -/
def colourEff (t : Thread) (w : PWord) (p : Bool) : Eff := { v := some (List.replicate t.width w), p := some (List.replicate t.width p) }

/-- The state with other grants at the thread's site. -/
def State.putGrants (s : State) (t : Thread) (gs : Tbl Nat Grant) : State :=
  s.setSite t.src.site { s.site t.src.site with grants := gs }

/-- A colour instruction of a lane, with its operands sound, does what its own part says. -/
theorem sound_lanes {bad : Bool} {x y z : Body} (hb : bad = false) (hl : t.selLanes ≠ []) :
    (if bad then x else if t.selLanes.isEmpty then y else z) = z := by
  rw [hb, if_neg Bool.false_ne_true, if_neg (by simp [hl])]

/-- R122, R142: a poisoned operand leaves the grants, poisons the result and clears `p`. -/
theorem colour_poisoned {i : Instr} {m : Form} {bad : Bool} {body : Nat → Thread → Body} {y : Body} (hx : exec i s = s.instr f m body)
    (hbody : body u t = if bad then colourBad t s else y) (hi : Issues s u t f m) (hb : bad = true)
    (hr : Room s s t t f (colourEff t ⟨0, true⟩ false)) : Performs i s u f s t (colourEff t ⟨0, true⟩ false) :=
  exec_performs hx hi (hbody.trans (if_pos hb)) hi.thr hi.going rfl hr

/-! ## CTXA (R122) -/

/-- The grant that CTXA finds: none on an element. -/
def ctxaGrant (s : State) (t : Thread) (f : Fields) : Option (Nat × Nat × Tbl Nat Grant) :=
  if isElem t.src.site then none
  else ctxaGo (s.site t.src.site).grants t.strip ((t.laneAgent 0).cell % 32) (Nat.log2 (ctxaWidth (t.a0 f).w))

theorem ctxa_none (hi : Issues s u t f { opc := 0x80, b := false, cyc := 4 }) (ha : (t.a0 f).pois = false) (hl : t.selLanes ≠ [])
    (hg : ctxaGrant s t f = none) (hE : e = colourEff t ⟨colourWord ((t.laneAgent 0).cell % 32) 1, false⟩ true) (hr : Room s s t t f e) :
    Performs (.ctxa f) s u f s t e := by
  subst hE
  refine exec_performs rfl hi ((sound_lanes ha hl).trans ?_) hi.thr hi.going rfl hr
  unfold ctxaGrant at hg
  simp only [hg]
  rfl

theorem ctxa_grants (hi : Issues s u t f { opc := 0x80, b := false, cyc := 4 }) (ha : (t.a0 f).pois = false) (hl : t.selLanes ≠ [])
    {k w : Nat} {gs : Tbl Nat Grant} (hg : ctxaGrant s t f = some (k, w, gs)) (hE : e = colourEff t ⟨colourWord k w, false⟩ true)
    (hr : Room s (s.putGrants t gs) t t f e) : Performs (.ctxa f) s u f (s.putGrants t gs) t e := by
  subst hE
  refine exec_performs rfl hi ((sound_lanes ha hl).trans ?_) hi.thr hi.going rfl hr
  unfold ctxaGrant at hg
  simp only [hg]
  rfl

/-! ## CTXF (R142) -/

theorem ctxf_none (hi : Issues s u t f { opc := 0x81, b := false, cyc := 4 }) (ha : (t.a0 f).pois = false) (hl : t.selLanes ≠ [])
    (hg : tget (s.site t.src.site).grants (32 * t.strip + fld (t.a0 f).w 0 5) = none) (hr : Room s s t t f (colourEff t (t.a0 f) false)) :
    Performs (.ctxf f) s u f s t (colourEff t (t.a0 f) false) := by
  refine exec_performs rfl hi ((sound_lanes ha hl).trans ?_) hi.thr hi.going rfl hr
  simp only [hg]
  rfl

/-- CTXF lowers a grant's count and frees it at one. -/
theorem ctxf_lowers (hi : Issues s u t f { opc := 0x81, b := false, cyc := 4 }) (ha : (t.a0 f).pois = false) (hl : t.selLanes ≠ [])
    {key : Nat} (hkey : key = 32 * t.strip + fld (t.a0 f).w 0 5) {g : Grant} (hg : tget (s.site t.src.site).grants key = some g)
    {gs : Tbl Nat Grant} (hgs : (if g.count ≤ 1 then tdel (s.site t.src.site).grants key
      else tset (s.site t.src.site).grants key ⟨g.width, g.count - 1⟩) = gs)
    (hr : Room s (s.putGrants t gs) t t f (colourEff t (t.a0 f) true)) :
    Performs (.ctxf f) s u f (s.putGrants t gs) t (colourEff t (t.a0 f) true) := by
  subst hkey hgs
  refine exec_performs rfl hi ((sound_lanes ha hl).trans ?_) hi.thr hi.going rfl hr
  simp only [hg]
  rfl

/-! ## PACK (R142) -/

/-- The grant of a colour, which for a free cell is its own position. -/
def grantAt (s : State) (t : Thread) (k : Nat) : Grant := tgetD (s.site t.src.site).grants (32 * t.strip + k) ⟨1, 1⟩

/-- PACK can join the grants of colours k and j. -/
def Joins (s : State) (t : Thread) (k j : Nat) : Prop :=
  isElem t.src.site = false ∧ (grantAt s t j).width = (grantAt s t k).width ∧ k % (2 * (grantAt s t k).width) = 0
  ∧ j = k + (grantAt s t k).width ∧ ((grantAt s t k).width = 1 → blockTaken (s.site t.src.site).grants t.strip k 2 = false)
  ∧ (grantAt s t k).count + (grantAt s t j).count ≤ 65535

/-- The grants that PACK finds to join: none on an element. -/
def packed (s : State) (t : Thread) (k j : Nat) : Option (Nat × Tbl Nat Grant) :=
  if isElem t.src.site then none else packGrants (s.site t.src.site).grants t.strip k j

theorem packed_of_joins {k j : Nat} (h : Joins s t k j) : packed s t k j = some (2 * (grantAt s t k).width,
    tset (tdel (s.site t.src.site).grants (32 * t.strip + j)) (32 * t.strip + k)
      ⟨2 * (grantAt s t k).width, (grantAt s t k).count + (grantAt s t j).count⟩) := by
  obtain ⟨he, hw, hk, hj, hfree, hc⟩ := h
  rw [packed, if_neg (by simp [he])]
  exact if_pos ⟨hw, hk, hj, fun h1 => by rw [hfree h1]; rfl, hc⟩

theorem packed_of_not_joins {k j : Nat} (h : ¬Joins s t k j) : packed s t k j = none := by
  rw [packed]
  split
  · rfl
  · rename_i he
    exact if_neg (fun ⟨hw, hk, hj, hfree, hc⟩ => h ⟨Bool.eq_false_iff.2 he, hw, hk, hj, fun h1 => by simpa using hfree h1, hc⟩)

theorem pack_joins (hi : Issues s u t f { opc := 0x82, cyc := 4 }) (ha : (t.a0 f).pois = false) (hb : (t.b0 f).pois = false)
    (hl : t.selLanes ≠ []) {k j : Nat} (hk : k = fld (t.a0 f).w 0 5) (hj : j = fld (t.b0 f).w 0 5) (h : Joins s t k j)
    {w : Nat} (hw : w = 2 * (grantAt s t k).width) {b : State}
    (hB : b = s.putGrants t (tset (tdel (s.site t.src.site).grants (32 * t.strip + j)) (32 * t.strip + k)
      ⟨w, (grantAt s t k).count + (grantAt s t j).count⟩))
    (hE : e = colourEff t ⟨colourWord k w, false⟩ true) (hr : Room s b t t f e) : Performs (.pack f) s u f b t e := by
  subst hB hE hw hk hj
  have hp := packed_of_joins h
  unfold packed at hp
  refine exec_performs rfl hi ((sound_lanes (by rw [ha, hb]; rfl) hl).trans ?_) hi.thr hi.going rfl hr
  simp only [hp]
  rfl

theorem pack_fails (hi : Issues s u t f { opc := 0x82, cyc := 4 }) (ha : (t.a0 f).pois = false) (hb : (t.b0 f).pois = false)
    (hl : t.selLanes ≠ []) (h : ¬Joins s t (fld (t.a0 f).w 0 5) (fld (t.b0 f).w 0 5)) (hr : Room s s t t f (colourEff t .zero false)) :
    Performs (.pack f) s u f s t (colourEff t .zero false) := by
  have hp := packed_of_not_joins h
  unfold packed at hp
  refine exec_performs rfl hi ((sound_lanes (by rw [ha, hb]; rfl) hl).trans ?_) hi.thr hi.going rfl hr
  simp only [hp]
  rfl

/-! ## UNPACK (R142) -/

theorem unpack_none (hi : Issues s u t f { opc := 0x83, b := false, cyc := 4 }) (ha : (t.a0 f).pois = false) (hl : t.selLanes ≠ [])
    (hg : tget (s.site t.src.site).grants (32 * t.strip + fld (t.a0 f).w 0 5) = none) (hr : Room s s t t f (colourEff t .zero false)) :
    Performs (.unpack f) s u f s t (colourEff t .zero false) := by
  refine exec_performs rfl hi ((sound_lanes ha hl).trans ?_) hi.thr hi.going rfl hr
  simp only [hg]
  rfl

theorem unpack_splits (hi : Issues s u t f { opc := 0x83, b := false, cyc := 4 }) (ha : (t.a0 f).pois = false) (hl : t.selLanes ≠ [])
    {g : Grant} (hg : tget (s.site t.src.site).grants (32 * t.strip + fld (t.a0 f).w 0 5) = some g) {gs : Tbl Nat Grant}
    (hgs : unpackGrants (s.site t.src.site).grants t.strip (fld (t.a0 f).w 0 5) g = gs)
    (hE : e = colourEff t ⟨colourWord (fld (t.a0 f).w 0 5) (g.width / 2), false⟩ true) (hr : Room s (s.putGrants t gs) t t f e) :
    Performs (.unpack f) s u f (s.putGrants t gs) t e := by
  subst hgs hE
  refine exec_performs rfl hi ((sound_lanes ha hl).trans ?_) hi.thr hi.going rfl hr
  simp only [hg]
  rfl

end Colours

/-- Settles O21: CTXA's search by induction on the widths it tries, each instruction by what it finds of its grants. -/
theorem colourInstructionResults : Obligations.ColourInstructionResults := by
  refine ⟨⟨fun s u t f hi => ⟨?poisoned, fun ha hl hg => ?own, fun ha hl he k w gs hg => ?grants⟩,
    fun gs strip q n => ⟨ctxaGo_eq_none gs strip q n, fun k w gs' h => ?widest⟩⟩,
    fun s u t f => ⟨fun hi => ⟨?ctxfBad, fun ha hl => ⟨fun hg => ctxf_none hi ha hl hg, fun g hg hc => ctxf_lowers hi ha hl rfl hg (if_pos hc),
        fun g hg hc => ctxf_lowers hi ha hl rfl hg (if_neg (Nat.not_le.2 hc))⟩⟩,
      fun hi => ⟨?packBad, fun ha hb hl => ⟨fun h => pack_joins hi ha hb hl rfl rfl h rfl rfl rfl, pack_fails hi ha hb hl⟩⟩,
      fun hi => ⟨?unpackBad, fun ha hl => ⟨unpack_none hi ha hl, fun g hg => unpack_splits hi ha hl hg rfl rfl⟩⟩⟩⟩
  case poisoned | ctxfBad | unpackBad => exact fun ha => colour_poisoned rfl rfl hi ha
  case packBad => exact fun hab => colour_poisoned rfl rfl hi (by simpa using hab)
  case own =>
    refine ctxa_none hi ha hl ?_ rfl
    rw [ctxaGrant]
    rcases hg with he | hg
    · exact if_pos he
    · split
      · rfl
      · exact hg
  case widest =>
    obtain ⟨j, h1, hj, rfl, hk, hopen, hwide, hgs⟩ := ctxaGo_some h
    exact ⟨j, h1, hj, rfl, hk, hopen, hwide, hgs⟩
  case grants => exact ctxa_grants hi ha hl ((if_neg (Bool.eq_false_iff.1 he)).trans hg) rfl

end Sys2Proof.Machine
end

section
/-! The permute network (R142 to R145): the lanes that a shuffle reads, the words of a vote and the lanes that CMPCT moves. -/

namespace Sys2Proof.Machine

/-! ## Lists over the lanes -/

theorem mapIdx_range_getD {α β : Type} (xs : List α) (d : α) (g : Nat → α → β) :
    xs.mapIdx g = (List.range xs.length).map (fun l => g l (xs.getD l d)) := by
  apply List.ext_getElem
  · simp
  · intro l h1 h2
    have hl : l < xs.length := by simpa using h1
    simp [List.getD, hl]

/-- The lanes' `p`, lane by lane. -/
theorem predicates_lanes (t : Thread) :
    t.lanes.map (fun x => x.p) = (List.range t.width).map (fun l => (t.lanes.map (fun x => x.p)).getD l false) := by
  have h := map_range_getD (t.lanes.map (fun x => x.p)) false id
  rw [List.map_id, List.length_map] at h
  exact h

/-! ## SHFL (R144) -/

/-- What a lane reads under a shuffle's descriptor, `own` where the source lies outside the gang. -/
theorem shflSrc_read {α : Type} (desc : Word) (w l : Nat) (own : α) (read : Nat → α) :
    (match shflSrc desc w l with | some n => read n | none => own) =
      (match fld desc 5 2 with
        | 0 => if Nat.xor l (fld desc 0 5) < w then read (Nat.xor l (fld desc 0 5)) else own
        | 1 => if fld desc 0 5 ≤ l then read (l - fld desc 0 5) else own
        | 2 => if l + fld desc 0 5 < w then read (l + fld desc 0 5) else own
        | _ => read ((l + fld desc 0 5) % w)) := by
  have hite : ∀ (c : Prop) [Decidable c] (n : Nat),
      (match (if c then some n else none) with | some n => read n | none => own) = if c then read n else own := fun c _ n => by
    split_ifs <;> rfl
  rw [shflSrc]
  match fld desc 5 2 with
  | 0 => exact hite _ _
  | 1 => exact hite _ _
  | 2 => exact hite _ _
  | n + 3 => rfl

/-! ## VOTE (R145) -/

theorem voteWord_eq (mode : Nat) (ls : List Nat) (c : Nat → Bool) : voteWord mode (ls.map (fun l => (l, c l))) =
    match mode with
    | 0 => w32 ((ls.map (fun l => if c l then 2 ^ l else 0)).foldl (· + ·) 0)
    | 1 => if ls.filter c = [] then 0 else 1
    | 2 => if ls ≠ [] ∧ ls.filter c = ls then 1 else 0
    | 3 => if ls.filter c = [] then 1 else 0
    | _ => w32 (ls.filter c).length := by
  have hany : (ls.map (fun l => (l, c l))).any (fun x => x.2) = !decide (ls.filter c = []) := by
    rw [Bool.eq_iff_iff]
    simp [List.filter_eq_nil_iff]
  match mode with
  | 0 => simp [voteWord, List.map_map, Function.comp_def]
  | 1 => simp only [voteWord, hany, bitW, Bool.not_eq_true', decide_eq_false_iff_not, ite_not]
  | 2 => simp [voteWord, List.all_map, Function.comp_def, bitW, List.filter_eq_self]
  | 3 => simp only [voteWord, hany, bitW, Bool.not_not, decide_eq_true_eq]
  | n + 4 => simp [voteWord, List.filter_map, Function.comp_def]

/-! ## CMPCT (R142) -/

/-- The A of the lanes with `p` set, in their order. -/
theorem live_lanes (t : Thread) (f : Fields) : (((t.as f).zip t.lanes).filter (fun x => x.2.p)).map (fun x => x.1)
    = ((List.range t.width).filter (fun l => (t.lanes.map (fun x => x.p)).getD l false)).map (t.aW f) := by
  have hpairs : ((t.as f).zip t.lanes).map (fun x => (x.1, x.2.p))
      = (List.range t.width).map (fun l => (t.aW f l, (t.lanes.map (fun x => x.p)).getD l false)) := by
    calc ((t.as f).zip t.lanes).map (fun x => (x.1, x.2.p)) = (t.as f).zip (t.lanes.map (fun x => x.p)) := by
          rw [List.zip_map_right]
          rfl
      _ = _ := (congrArg₂ List.zip (as_lanes t f) (predicates_lanes t)).trans List.zip_map'
  calc (((t.as f).zip t.lanes).filter (fun x => x.2.p)).map (fun x => x.1)
      = ((((t.as f).zip t.lanes).map (fun x => (x.1, x.2.p))).filter (fun x => x.2)).map (fun x => x.1) := by
        rw [List.filter_map, List.map_map]
        rfl
    _ = _ := by
        rw [hpairs, List.filter_map, List.map_map]
        rfl

end Sys2Proof.Machine
end

section
/-! The lane file (R133, R134): what a store and the record of an access out of range leave, and loads and stores. -/

namespace Sys2Proof.Machine

/-! ## Words of a bank -/

theorem bank_setLf (s : State) (a b : Agent) (i j : Nat) (w : PWord) :
    tgetD ((s.setLf a i w).cell b).bank j .zero = if b = a ∧ j = i then w else tgetD (s.cell b).bank j .zero := by
  unfold State.setLf
  rw [State.modCell_cell]
  by_cases hb : b = a
  · subst hb
    by_cases hj : j = i
    · subst hj
      by_cases hw : w = .zero <;> simp [hw, tgetD]
    · by_cases hw : w = .zero <;> simp [hw, hj, tgetD, tget_tset_ne, tget_tdel_ne]
  · simp [hb]

/-! ## The record (R134) -/

theorem State.lfOobRecord_cells (s : State) (t : Thread) (l i : Nat) (write : Bool) : (s.lfOobRecord t l i write).cells = s.cells := by
  unfold State.lfOobRecord
  split
  · rfl
  · split <;> rfl

theorem State.lfOobRecord_threads (s : State) (t : Thread) (l i : Nat) (write : Bool) :
    (s.lfOobRecord t l i write).threads = s.threads := by
  unfold State.lfOobRecord
  split
  · rfl
  · split <;> rfl

/-- The word of the record: bit 31, the access's kind, the cell's number, the IP and the tile. -/
def lfOobWord (write : Bool) (cell ip tile : Nat) : Word :=
  w32 (2 ^ 31 + (if write then 2 ^ 30 else 0) + cell % 64 * 2 ^ 24 + ip % 256 * 2 ^ 16 + tile)

theorem lfOobWord_fields (write : Bool) (cell ip : Nat) {tile : Nat} (ht : tile < 2 ^ 15) :
    (lfOobWord write cell ip tile).getLsbD 31 = true ∧ (lfOobWord write cell ip tile).getLsbD 30 = write
    ∧ fld (lfOobWord write cell ip tile) 24 6 = cell % 64 ∧ fld (lfOobWord write cell ip tile) 16 8 = ip % 256 := by
  have hn : (lfOobWord write cell ip tile).toNat = 2 ^ 31 + (if write then 2 ^ 30 else 0) + cell % 64 * 2 ^ 24 + ip % 256 * 2 ^ 16 + tile :=
    w32_toNat (by split <;> omega)
  have hbit : ∀ i, (lfOobWord write cell ip tile).getLsbD i = decide ((lfOobWord write cell ip tile).toNat / 2 ^ i % 2 = 1) := fun i => by
    rw [BitVec.getLsbD, Nat.testBit_eq_decide_div_mod_eq]
  rw [hbit, hbit, fld, fld, hn]
  cases write <;> simp only [Bool.false_eq_true, if_true, if_false, decide_eq_true_eq, decide_eq_false_iff_not] <;> omega

/-- R134: a record that stands is left; else the access is recorded. -/
theorem State.lfOobRecord_part {s : State} {t : Thread} {v : Part} (l i : Nat) (write : Bool) (hv : tget s.parts t.part = some v) :
    (s.lfOobRecord t l i write).part t.part = if v.lfOob.getLsbD 31 then v
      else { v with lfOob := lfOobWord write t.src.cell t.ip (fld (tileid (t.laneAgent l)) 0 15), lfOobIdx := w32 i } := by
  unfold State.lfOobRecord
  rw [hv]
  simp only
  split
  · simp [State.part, tgetD, hv]
  · rw [State.part_congr (State.endCycle_parts _), State.setPart_part, if_pos rfl]
    rfl

/-! ## An access (R133) -/

/-- The state with the first access out of range of the selected lanes recorded. -/
def State.lfRecord (s : State) (t : Thread) (idx : Nat → Nat × Bool) (write : Bool) : State :=
  match t.selLanes.find? (fun l => !(idx l).2 && !lfInRange t (idx l).1) with
  | none => s
  | some l => s.lfOobRecord t l (idx l).1 write

/-- What the lanes load. -/
def State.lfLoaded (s : State) (t : Thread) (idx : Nat → Nat × Bool) : List PWord :=
  (List.range t.width).map (fun l =>
    if (idx l).2 then .bad else if lfInRange t (idx l).1 then s.lfWord (t.laneAgent l) (idx l).1 else .zero)

/-- The banks with the selected lanes' words stored. -/
def State.lfStored (s : State) (t : Thread) (idx : Nat → Nat × Bool) (b : Nat → PWord) : State :=
  t.selLanes.foldl (fun s l => if !(idx l).2 && lfInRange t (idx l).1 then s.setLf (t.laneAgent l) (idx l).1 (b l) else s) s

theorem State.lfRecord_cells (s : State) (t : Thread) (idx : Nat → Nat × Bool) (write : Bool) : (s.lfRecord t idx write).cells = s.cells := by
  unfold State.lfRecord
  split
  · rfl
  · exact State.lfOobRecord_cells ..

theorem State.lfRecord_threads (s : State) (t : Thread) (idx : Nat → Nat × Bool) (write : Bool) :
    (s.lfRecord t idx write).threads = s.threads := by
  unfold State.lfRecord
  split
  · rfl
  · exact State.lfOobRecord_threads ..

theorem State.lfStored_threads (s : State) (t : Thread) (idx : Nat → Nat × Bool) (b : Nat → PWord) :
    (s.lfStored t idx b).threads = s.threads := by
  refine threads_foldl _ (fun s l => ?_) _ s
  split <;> rfl

/-- The first of the lanes out of range, found by a search in place of the list of them all. -/
theorem State.lfRecord_eq (s : State) (t : Thread) (idx : Nat → Nat × Bool) (write : Bool) : s.lfRecord t idx write =
    match t.selLanes.filter (fun l => !(idx l).2 && !lfInRange t (idx l).1) with
    | [] => s
    | l :: _ => s.lfOobRecord t l (idx l).1 write := by
  rw [State.lfRecord, ← List.head?_filter]
  cases t.selLanes.filter (fun l => !(idx l).2 && !lfInRange t (idx l).1) <;> rfl

theorem lfAccess_load (s : State) (t : Thread) (idx : Nat → Nat × Bool) :
    s.lfAccess t idx none = .ok (s.lfRecord t idx false) (.val (s.lfLoaded t idx)) := by
  have hword : ∀ l i, (s.lfRecord t idx false).lfWord (t.laneAgent l) i = s.lfWord (t.laneAgent l) i := fun l i => by
    rw [State.lfWord, State.cell_congr (s.lfRecord_cells t idx false)]
    rfl
  have hdef : s.lfAccess t idx none = .ok (s.lfRecord t idx false) (.val ((List.range t.width).map (fun l =>
      if (idx l).2 then .bad else if !(idx l).2 && lfInRange t (idx l).1 then (s.lfRecord t idx false).lfWord (t.laneAgent l) (idx l).1
      else .zero))) := by
    rw [State.lfRecord_eq]
    rfl
  rw [hdef, State.lfLoaded]
  simp only [hword]
  congr 3
  funext l
  cases (idx l).2 <;> rfl

theorem lfAccess_store (s : State) (t : Thread) (idx : Nat → Nat × Bool) (b : Nat → PWord) : s.lfAccess t idx (some b) =
    .ok ((s.lfRecord t idx true).lfStored t idx b) (.val ((List.range t.width).map (fun l => ⟨(b l).w, (b l).pois || (idx l).2⟩))) := by
  rw [State.lfRecord_eq]
  rfl

/-- The index of every lane, from lane 0's A, with its poison. -/
def lfOne (f : Fields) (t : Thread) (_ : Nat) : Nat × Bool := ((t.a0 f).w.toNat, (t.a0 f).pois)
/-- A lane's index, the exact sum of its operands. -/
def lfSum (f : Fields) (t : Thread) (l : Nat) : Nat × Bool := ((t.aW f l).w.toNat + (t.bW f l).w.toNat, (t.aW f l).pois || (t.bW f l).pois)
/-- A lane's index, from its own A. -/
def lfOwn (f : Fields) (t : Thread) (l : Nat) : Nat × Bool := ((t.aW f l).w.toNat, (t.aW f l).pois)

section LaneFile
variable {s : State} {u : Nat} {t : Thread} {f : Fields} {m : Form} {i : Instr} {e : Eff} {idx : Thread → Nat → Nat × Bool}

theorem load_performs (hi : Issues s u t f m) (hx : exec i s = s.instr f m (fun _ t => s.lfAccess t (idx t) none))
    (hE : e = .val (s.lfLoaded t (idx t))) (hr : Room s (s.lfRecord t (idx t) false) t t f e) :
    Performs i s u f (s.lfRecord t (idx t) false) t e := by
  subst hE
  exact exec_performs hx hi (lfAccess_load ..) ((State.thr_congr (s.lfRecord_threads ..) u).trans hi.thr) hi.going rfl hr

theorem store_performs {b : Thread → Nat → PWord} (hi : Issues s u t f m)
    (hx : exec i s = s.instr f m (fun _ t => s.lfAccess t (idx t) (some (b t))))
    (hE : e = .val ((List.range t.width).map (fun l => ⟨(b t l).w, (b t l).pois || (idx t l).2⟩)))
    (hr : Room s ((s.lfRecord t (idx t) true).lfStored t (idx t) (b t)) t t f e) :
    Performs i s u f ((s.lfRecord t (idx t) true).lfStored t (idx t) (b t)) t e := by
  subst hE
  have hthr := (State.lfStored_threads _ t (idx t) (b t)).trans (s.lfRecord_threads t (idx t) true)
  exact exec_performs hx hi (lfAccess_store ..) ((State.thr_congr hthr u).trans hi.thr) hi.going rfl hr

end LaneFile

/-- Settles O22: the permutes lane by lane, the lane file by what a load, a store and the record leave. -/
theorem permuteAndLaneFileResults : Obligations.PermuteAndLaneFileResults := by
  refine ⟨⟨?lane, ?bcast, ?perm, ?shfl, ?vote, ?cmpct⟩, fun s u t f => ⟨?lfld, ?lfst, ?lfldx, ?lfstx⟩,
    fun s a b i j w => ⟨bank_setLf s a b i j w, rfl, rfl, rfl⟩, fun s t l i write v hv => ?record⟩
  case lane | bcast => exact actsAs_pure (fun _ _ => rfl) (fun _ _ _ => rfl) (fun _ _ => rfl)
  case perm => exact actsAs_pure (fun _ _ => rfl) (fun t f _ => by rw [bs_lanes, List.map_map]; rfl) (fun _ _ => rfl)
  case shfl =>
    refine actsAs_pure (fun _ _ => rfl) (fun t f _ => ?_) (fun _ _ => rfl)
    rw [mapIdx_range_getD (t.bs f) .zero, bs_length]
    refine congrArg Eff.val (List.map_congr_left fun l _ => ?_)
    have hread := shflSrc_read (t.b0 f).w t.width l (t.aW f l) (t.aW f)
    exact congrArg (fun r : PWord => (⟨r.w, r.pois || (t.b0 f).pois || (t.bW f l).pois⟩ : PWord))
      (congrArg (fun r => if (t.b0 f).pois then t.aW f l else r) hread)
  case vote => exact actsAs_pure (fun _ _ => rfl) (fun t f _ => by simp only [voteWord_eq]; rfl) (fun _ _ => rfl)
  case cmpct => exact actsAs_pure (fun _ _ => rfl) (fun t f _ => by simp only [live_lanes]) (fun _ _ => rfl)
  case lfld => exact fun hi => load_performs (i := .lfld f) (idx := lfOne f) hi rfl rfl
  case lfldx => exact fun hi => load_performs (i := .lfldx f) (idx := lfSum f) hi rfl rfl
  case lfst => exact fun hi => store_performs (i := .lfst f) (idx := lfOne f) (b := fun t => t.bW f) hi rfl rfl
  case lfstx => exact fun hi => store_performs (i := .lfstx f) (idx := lfOwn f) (b := fun t => t.bW f) hi rfl rfl
  case record =>
    obtain ⟨hset, hwrite, hcell, hip⟩ := lfOobWord_fields write t.src.cell t.ip (fld_lt (tileid (t.laneAgent l)) 0 15)
    intro w
    have hw := s.lfOobRecord_part l i write hv
    refine ⟨fun h => hw.trans (if_pos h), fun h => ?_⟩
    rw [show w = _ from hw.trans (if_neg (Bool.eq_false_iff.1 h))]
    exact ⟨hset, hwrite, hcell, hip, rfl⟩

end Sys2Proof.Machine
end

section
/-! Reductions and scans (R136 to R140): what raising a fault leaves of the elements, the partials and their fold, and the
body of a reduction from its lane 0 element. -/

namespace Sys2Proof.Machine

/-! ## The elements under a fault -/

/-- Every cell's reduction element is as before. -/
structure RedsStay (s s' : State) : Prop where
  red : ∀ a, s'.red a = s.red a

theorem RedsStay.refl (s : State) : RedsStay s s := ⟨fun _ => rfl⟩

theorem RedsStay.trans {s s' s'' : State} (h : RedsStay s s') (h' : RedsStay s' s'') : RedsStay s s'' :=
  ⟨fun a => (h'.red a).trans (h.red a)⟩

theorem redsStay_of_cells {s s' : State} (h : s'.cells = s.cells) : RedsStay s s' :=
  ⟨fun a => congrArg Cell.red (State.cell_congr h a)⟩

theorem Keeps.redsStay {u : Nat} {s s' : State} (h : Keeps [] u s s') : RedsStay s s' := ⟨h.same .reds (by simp)⟩

theorem redsStay_foldl {ι : Type} (g : State → ι → State) (hg : ∀ s i, RedsStay s (g s i)) (l : List ι) (s : State) :
    RedsStay s (l.foldl g s) := by
  induction l generalizing s with
  | nil => exact .refl s
  | cons i l ih => exact (hg s i).trans (ih _)

theorem State.putRecord_cells (s : State) (p cls region inv : Nat) (id : Word) (code : Nat) (details : List Word) (r : Option RecFor)
    (va : Int) : (s.putRecord p cls region inv id code details r va).cells = s.cells := by
  have hnote := fun (b : State) k w => tablesStay_notify b k w
  have hend : ∀ b : State, b.endCycle.cells = b.cells := fun _ => rfl
  unfold State.putRecord
  split
  · rfl
  · simp only
    generalize hz : State.endCycle _ = z
    have hcells : z.cells = s.cells := by
      rw [← hz, hend, (hnote _ _ _).cells, State.modLaunch_cells, State.setPart_cells, (tablesStay_hwWrite s _ _).cells]
    split
    · exact hcells
    · split <;> exact hcells

theorem State.flushHeld_cells (s : State) (p : Nat) : (s.flushHeld p).cells = s.cells := by
  unfold State.flushHeld
  refine foldl_same State.cells _ (fun s e => ?_) _ s
  simp only
  split
  · rfl
  · rw [State.modPart_cells, State.putRecord_cells]

theorem State.countRecv_cells (s : State) (k : Token) : (s.countRecv k).cells = s.cells := by
  unfold State.countRecv
  simp only
  split <;> rfl

theorem State.endFenced_cells (s : State) (goneW : Who → Bool) : (s.endFenced goneW).cells = s.cells := by
  unfold State.endFenced
  refine foldl_same State.cells _ (fun r e => ?_) _ s
  exact (foldl_same State.cells _ (fun _ _ => by rfl) _ _).trans (foldl_same State.cells _ (fun _ _ => by rfl) _ _)

theorem redsStay_returnHeld (s : State) (gone : Token → Bool) : RedsStay s (s.returnHeld gone) := by
  unfold State.returnHeld
  refine redsStay_foldl _ (fun s t => ?_) _ s
  split
  · exact (keeps_unreserve s 0 _).redsStay
  · exact .refl s

/-- Discarding tokens of the cells' queues leaves their elements. -/
theorem redsStay_discard {s s' : State} {gone : Token → Bool} (h : s'.cells = s.cells.map (fun e => (e.1, e.2.discard gone))) :
    RedsStay s s' := by
  refine ⟨fun a => ?_⟩
  unfold State.red State.cell tgetD
  rw [h, tget_map_snd s.cells (fun e => e.2.discard gone)]
  cases tget s.cells a <;> rfl

/-- R353: a fence stops work and discards tokens; it clears no reduction element. -/
theorem redsStay_fenceRegions (s : State) (p : Nat) (rs : List Nat) : RedsStay s (s.fenceRegions p rs) := by
  unfold State.fenceRegions
  simp only
  generalize hs1 : List.foldl State.countRecv _ _ = s1
  have h1 : RedsStay s s1 := by
    rw [← hs1]
    exact (redsStay_returnHeld s _).trans (redsStay_foldl _ (fun s k => redsStay_of_cells (State.countRecv_cells s k)) _ _)
  generalize hs2 : ({ s1 with cells := _, sites := _, fabric := _, biv := _, elems := _, launches := _ } : State) = s2
  have h2 : RedsStay s1 s2 := redsStay_discard (gone := tokGone p rs) (by rw [← hs2])
  refine (h1.trans h2).trans (RedsStay.trans (redsStay_of_cells ((State.endFenced_cells ..).trans (foldl_same State.cells _ (fun _ _ => by rfl) _ _)))
    (redsStay_foldl _ (fun s e => ?_) _ _))
  split
  · exact (keeps_modThr s e.1 _).redsStay
  · exact (keeps_endThread s _).redsStay

theorem redsStay_fenceDomain (s : State) (p r : Nat) (cause : Option Nat) : RedsStay s (s.fenceDomain p r cause) := by
  unfold State.fenceDomain
  split
  · exact .refl s
  · simp only
    split
    · exact .refl s
    · refine RedsStay.trans (redsStay_of_cells ?_) (redsStay_fenceRegions ..)
      split
      · rw [State.putRecord_cells, State.flushHeld_cells, State.setPart_cells]
      · rw [State.modPart_cells, State.flushHeld_cells, State.setPart_cells]

theorem redsStay_countFault (s : State) (w : Who) : RedsStay s (s.countFault w) := by
  unfold State.countFault
  split
  · exact .refl s
  · simp only
    split
    · exact RedsStay.trans (redsStay_of_cells (State.setPart_cells ..)) (redsStay_fenceDomain ..)
    · exact redsStay_of_cells (State.setPart_cells ..)

/-- R352, R357: a contained fault leaves every reduction element as it was. -/
theorem redsStay_raise_contained (s : State) (w : Who) {code : Nat} (hc : faultClass code = 1) (details : List Word) :
    RedsStay s (s.raise w code details) := by
  unfold State.raise
  simp only [hc]
  refine RedsStay.trans (redsStay_of_cells ?_) (redsStay_countFault ..)
  split
  · rw [State.putRecord_cells, State.flushHeld_cells]
  · rw [State.modPart_cells, State.flushHeld_cells]

/-! ## Writes of the lane elements -/

/-- R136: a reset reaches every listed cell. -/
theorem red_modCells_reset (s : State) (x : Site) {cs : List Nat} {c : Nat} (hc : c ∈ cs) :
    (s.modCells x cs (fun c => { c with red := Red.reset })).red ⟨x, c⟩ = Red.reset := by
  induction cs using List.reverseRecOn with
  | nil => exact absurd hc List.not_mem_nil
  | append_singleton cs n ih =>
    unfold State.modCells at ih ⊢
    rw [List.foldl_concat, State.red, State.modCell_cell]
    split
    · rfl
    · rename_i hne
      have hn : c ≠ n := fun h => hne (by rw [h])
      exact ih ((List.mem_append.1 hc).resolve_right (fun h => hn (List.mem_singleton.1 h)))

theorem laneAgent_zero (t : Thread) : ∃ c ∈ t.laneCells, t.laneAgent 0 = ⟨t.src.site, c⟩ := by
  unfold Thread.laneCells Thread.laneAgent
  split
  · exact ⟨_, List.mem_singleton_self _, rfl⟩
  · exact ⟨_, List.mem_map.2 ⟨0, List.mem_range.2 (by omega), rfl⟩, rfl⟩

/-- R136: the element of lane 0 is one of those that a reset clears. -/
theorem red_modReds_reset (s : State) (t : Thread) : (s.modReds t (fun _ => Red.reset)).red (t.laneAgent 0) = Red.reset := by
  obtain ⟨c, hc, ha⟩ := laneAgent_zero t
  rw [ha]
  exact red_modCells_reset s t.src.site hc

@[simp] theorem State.modReds_threads (s : State) (t : Thread) (g : Red → Red) : (s.modReds t g).threads = s.threads := threads_modCells ..

/-! ## Partials and their fold (R138) -/

/-- A push combines into its partial and leaves the others. -/
theorem Red.part_push {e : Red} (hlen : e.parts.length = 4) (k op : Nat) (x : PWord) (j : Nat) :
    (e.push k op x).part op j = if j = k % 4 then ⟨redComb op (e.part op j).w x.w, (e.part op j).pois || x.pois⟩ else e.part op j := by
  have hk : k % 4 < e.parts.length := by omega
  split
  · rename_i hj
    subst hj
    simp [Red.part, Red.push, List.getD, hk]
  · rename_i hj
    simp [Red.part, Red.push, List.getD, List.getElem?_set_ne (Ne.symm hj)]

theorem Red.part_some {e : Red} {j : Nat} {w : PWord} (op : Nat) (h : e.parts[j]? = some (some w)) : e.part op j = w := by
  simp [Red.part, List.getD, h]

/-- R136: an empty partial reads as the opcode's identity. -/
theorem Red.part_none {e : Red} {j : Nat} (op : Nat) (h : e.parts[j]? = some none) : e.part op j = ⟨redIdent op, false⟩ := by
  simp [Red.part, List.getD, h, PWord.ok]

theorem Red.fold_pois (e : Red) (op : Nat) : (e.fold op).pois = true ↔ ∃ j, j < 4 ∧ (e.part op j).pois = true := by
  simp only [Red.fold, Bool.or_eq_true]
  constructor
  · rintro (((h | h) | h) | h)
    exacts [⟨0, by omega, h⟩, ⟨1, by omega, h⟩, ⟨2, by omega, h⟩, ⟨3, by omega, h⟩]
  · rintro ⟨j, hj, h⟩
    interval_cases j <;> simp [h]

/-! ## The combines (R138) -/

theorem wrap32_Zx_add (u x : Word) : w32 (Zx u + Zx x) = wrap32 ((Zx u : Int) + Zx x) :=
  ((wrap32_natCast _).symm.trans (by rw [Int.natCast_add]))

theorem wrap32_Sx (x : Word) : wrap32 (Sx x) = x := BitVec.ofInt_toInt

theorem redComb_max (u x : Word) : redComb 0x91 u x = wrap32 (max (Sx u) (Sx x)) := by
  change (if Sx x ≤ Sx u then u else x) = _
  split
  · rename_i h; rw [max_eq_left h, wrap32_Sx]
  · rename_i h; rw [max_eq_right (Int.le_of_not_le h), wrap32_Sx]

theorem redComb_min (u x : Word) : redComb 0x92 u x = wrap32 (min (Sx u) (Sx x)) := by
  change (if Sx u ≤ Sx x then u else x) = _
  split
  · rename_i h; rw [min_eq_left h, wrap32_Sx]
  · rename_i h; rw [min_eq_right (Int.le_of_not_le h), wrap32_Sx]

/-- R148: the sign of a value that is no NaN is the pattern's. -/
theorem F_sgn {x : Word} (h : fpNan x = false) : (F x).sgn = x.msb := by
  have hle : fpMag x ≤ 0x7F800000 := Nat.le_of_not_lt (of_decide_eq_false h)
  rcases Nat.lt_or_eq_of_le hle with hlt | heq
  · obtain ⟨m, e, hF, -⟩ := F_fin hlt
    rw [hF]
    rfl
  · rw [F_inf heq]
    rfl

/-- R154: the larger of two FP32 values, a NaN where either is one, the positive zero of two zeros. -/
theorem w32_maxV (u x : Word) : w32 (fp32.maxV u.toNat x.toNat) = if fpNan u || fpNan x then 0x7FC00000
    else if (F u).lt (F x) then x else if (F x).lt (F u) then u else if u.msb then x else u := by
  have hdef : fp32.maxV u.toNat x.toNat = if (F u).isNan || (F x).isNan then 0x7FC00000
      else if (F u).lt (F x) then x.toNat else if (F x).lt (F u) then u.toNat else if (F u).sgn then x.toNat else u.toNat := rfl
  rw [hdef, F_isNan, F_isNan]
  split
  · rfl
  · rename_i hn
    have hu : fpNan u = false := Bool.eq_false_iff.2 (fun h => hn (by rw [h, Bool.true_or]))
    rw [F_sgn hu, apply_ite w32, apply_ite w32, apply_ite w32, w32_toNat_self, w32_toNat_self]

/-! ## A reduction's body (R136, R139) -/

/-- The nine reductions and scans with their opcodes. -/
def reductions : List ((Fields → Instr) × Nat) :=
  [(Instr.redadd, 0x90), (.redmax, 0x91), (.redmin, 0x92), (.redor, 0x93), (.redfadd, 0x94), (.redfmax, 0x95), (.scanadd, 0x96),
   (.scanxadd, 0x97), (.scanfadd, 0x98)]

theorem exec_reduction {x : (Fields → Instr) × Nat} (hx : x ∈ reductions) (f : Fields) (s : State) :
    exec (x.1 f) s = s.reduceInstr f x.2 := by
  revert x
  simp only [reductions, List.forall_mem_cons]
  exact ⟨rfl, rfl, rfl, rfl, rfl, rfl, rfl, rfl, rfl, fun _ h => absurd h List.not_mem_nil⟩

/-- The selected lanes' A pushed into partial k mod 4 of their elements. -/
def State.pushReds (s : State) (t : Thread) (f : Fields) (k op : Nat) : State :=
  t.selLanes.foldl (fun s l => s.modCell (t.laneAgent l) (fun c => { c with red := c.red.push k op (t.aW f l) })) s

/-- The same with the lane elements counted on. -/
def State.countReds (s : State) (t : Thread) (f : Fields) (k op : Nat) : State :=
  (s.pushReds t f k op).modReds t (fun e => { e with k := (k + 1) % 2 ^ 32, op := some op })

/-- The folds of the lanes' elements. -/
def State.folds (s : State) (t : Thread) (op : Nat) : List PWord := (List.range t.width).map (fun l => (s.red (t.laneAgent l)).fold op)

/-- What a scan returns: the folds after the push s', of SCANXADD those before it, poisoned where one after it is. -/
def State.scans (s s' : State) (t : Thread) (op : Nat) : List PWord :=
  (List.range t.width).map (fun l =>
    let x := (s'.red (t.laneAgent l)).fold op
    if op = 0x97 then ⟨((s.red (t.laneAgent l)).fold op).w, x.pois⟩ else x)

theorem State.scans_inclusive (s s' : State) (t : Thread) {op : Nat} (h : op ≠ 0x97) : s.scans s' t op = s'.folds t op := by
  unfold State.scans State.folds
  simp only [if_neg h]

theorem State.scans_exclusive (s s' : State) (t : Thread) {op : Nat} (h : op = 0x97) : s.scans s' t op = (List.range t.width).map
    (fun l => ⟨((s.red (t.laneAgent l)).fold op).w, ((s'.red (t.laneAgent l)).fold op).pois⟩) := by
  unfold State.scans
  simp only [if_pos h]

/-- R139: the lane 0 element is in use by another opcode. -/
def State.mixes (s : State) (t : Thread) (op : Nat) : Bool :=
  match (s.red (t.laneAgent 0)).op with
  | some o => o != op && (s.red (t.laneAgent 0)).k != 0
  | none => false

/-- R139: the fault of such a reduction. -/
def State.mixedReduction (s : State) (t : Thread) (op : Nat) : State :=
  (s.modReds t (fun _ => Red.reset)).raise (t.who op) 0x0108
    ((t.who op).details 0 [w32 ((s.red (t.laneAgent 0)).op.getD 0), w32 op])

/-- The body of a reduction past that check. -/
def State.reduceFrom (s : State) (t : Thread) (f : Fields) (op : Nat) : Body :=
  let k := (s.red (t.laneAgent 0)).k
  let out := s.scans (s.pushReds t f k op) t op
  let s := s.countReds t f k op
  let lv := t.eod.toNat
  if op < 0x96 then
    if lv = 0 then .ok s { mute := true }
    else .ok (s.modReds t (fun _ => Red.reset)) { v := some out, eod := lv - 1 }
  else .ok (if lv = 0 then s else s.modReds t (fun _ => Red.reset)) { v := some out, eod := lv }

theorem reduce_eq (s : State) (t : Thread) (f : Fields) (op : Nat) :
    s.reduce t f op = (if s.mixes t op then s.mixedReduction t op else s).reduceFrom t f op := rfl

section Reduction
variable {s b : State} {u : Nat} {t k : Thread} {f : Fields} {op : Nat} {e : Eff}

theorem mixes_of_same (h : ∀ o, (s.red (t.laneAgent 0)).op = some o → o ≠ op → (s.red (t.laneAgent 0)).k = 0) : s.mixes t op = false := by
  unfold State.mixes
  split
  · rename_i o ho
    by_cases hne : o = op
    · simp [hne]
    · simp [h o ho hne]
  · rfl

theorem mixes_of_other {o : Nat} (ho : (s.red (t.laneAgent 0)).op = some o) (hne : o ≠ op) (hk : (s.red (t.laneAgent 0)).k ≠ 0) :
    s.mixes t op = true := by
  simp [State.mixes, ho, hne, hk]

/-- R139: the faulting reduction acts as the first of its own. -/
theorem red_mixedReduction (s : State) (t : Thread) (op : Nat) : (s.mixedReduction t op).red (t.laneAgent 0) = Red.reset :=
  ((redsStay_raise_contained _ _ (by decide) _).red _).trans (red_modReds_reset s t)

@[simp] theorem State.countReds_threads (s : State) (t : Thread) (f : Fields) (k op : Nat) : (s.countReds t f k op).threads = s.threads :=
  (State.modReds_threads ..).trans (threads_foldl _ (fun _ _ => by rfl) _ _)

/-- R139: a reduction without a marker pushes, counts and emits nothing. -/
theorem reduceFrom_silent (hop : op < 0x96) (hlv : t.eod.toNat = 0) :
    s.reduceFrom t f op = .ok (s.countReds t f (s.red (t.laneAgent 0)).k op) { mute := true } := by
  simp only [State.reduceFrom, hop, hlv, if_true]

/-- R139: with a marker it emits the folds, a level lower, and the elements are reset. -/
theorem reduceFrom_marked (hop : op < 0x96) (hlv : 0 < t.eod.toNat) :
    s.reduceFrom t f op = .ok ((s.countReds t f (s.red (t.laneAgent 0)).k op).modReds t (fun _ => Red.reset))
      { v := some ((s.pushReds t f (s.red (t.laneAgent 0)).k op).folds t op), eod := t.eod.toNat - 1 } := by
  simp only [State.reduceFrom, hop, Nat.pos_iff_ne_zero.1 hlv, if_true, if_false]
  rw [State.scans_inclusive _ _ _ (by omega)]

/-- R139: a scan returns its folds at the marker's level, which resets the elements. -/
theorem reduceFrom_scan (hop : 0x96 ≤ op) :
    s.reduceFrom t f op = .ok (if t.eod.toNat = 0 then s.countReds t f (s.red (t.laneAgent 0)).k op
        else (s.countReds t f (s.red (t.laneAgent 0)).k op).modReds t (fun _ => Red.reset))
      { v := some (s.scans (s.pushReds t f (s.red (t.laneAgent 0)).k op) t op), eod := t.eod.toNat } := by
  simp only [State.reduceFrom, Nat.not_lt.2 hop, if_false]

/-- A reduction in its place that finds its own elements. -/
theorem reduction_performs {x : (Fields → Instr) × Nat} (hx : x ∈ reductions) (hi : Issues s u t f { opc := x.2, b := false })
    (h : ∀ o, (s.red (t.laneAgent 0)).op = some o → o ≠ x.2 → (s.red (t.laneAgent 0)).k = 0) (hb : s.reduceFrom t f x.2 = .ok b e)
    (hthr : b.threads = s.threads) (he : e.susp = none) (hr : Room s b t t f e) : Performs (x.1 f) s u f b t e := by
  refine exec_performs (exec_reduction hx f s) hi ?_ ((State.thr_congr hthr u).trans hi.thr) hi.going he hr
  rw [reduce_eq, mixes_of_same h]
  exact hb

/-- R139: a reduction that finds its lane 0 element in use by another opcode, without a marker. -/
theorem mixed_performs {x : (Fields → Instr) × Nat} (hx : x ∈ reductions) (hi : Issues s u t f { opc := x.2, b := false }) {o : Nat}
    (ho : (s.red (t.laneAgent 0)).op = some o) (hne : o ≠ x.2) (hk0 : (s.red (t.laneAgent 0)).k ≠ 0) (hlv : t.eod = 0) (hop : x.2 < 0x96)
    (hB : b = (s.mixedReduction t x.2).countReds t f 0 x.2) (hk : b.thr? u = some k) (hend : k.ending = false)
    (hr : Room s b t k f { mute := true }) : Performs (x.1 f) s u f b k { mute := true } := by
  subst hB
  refine exec_performs (exec_reduction hx f s) hi ?_ hk hend rfl hr
  rw [reduce_eq, mixes_of_other ho hne hk0, if_pos rfl, reduceFrom_silent hop (by rw [hlv]; rfl), red_mixedReduction]
  rfl

/-- R140: an EOD whose elements hold no opcode returns zero. -/
theorem eod_empty (hi : Issues s u t f { opc := 0x99, a := false, b := false }) (ho : (s.red (t.laneAgent 0)).op = none)
    (hE : e = { v := some (t.all .zero), eod := fld f.lit 0 2 - 1 }) (hr : Room s (s.modReds t (fun _ => Red.reset)) t t f e) :
    Performs (.eod f) s u f (s.modReds t (fun _ => Red.reset)) t e := by
  subst hE
  refine exec_performs rfl hi ?_ ((State.thr_congr (State.modReds_threads ..) u).trans hi.thr) hi.going rfl hr
  simp only [ho]

/-- R140: an EOD returns the folds of the opcode its elements hold, a level lower after a reduction. -/
theorem eod_folds (hi : Issues s u t f { opc := 0x99, a := false, b := false }) (ho : (s.red (t.laneAgent 0)).op = some op)
    (hE : e = { v := some (s.folds t op), eod := if op < 0x96 then fld f.lit 0 2 - 1 else fld f.lit 0 2 })
    (hr : Room s (s.modReds t (fun _ => Red.reset)) t t f e) : Performs (.eod f) s u f (s.modReds t (fun _ => Red.reset)) t e := by
  subst hE
  refine exec_performs rfl hi ?_ ((State.thr_congr (State.modReds_threads ..) u).trans hi.thr) hi.going rfl hr
  simp only [ho]
  rfl

end Reduction

/-- Settles O23: each reduction by the body it runs from its lane 0 element, the partials by what a push leaves of them. -/
theorem reductionInstructionResults : Obligations.ReductionInstructionResults := by
  refine ⟨⟨fun x hx s u t f hi => ?own, fun e k op x hlen => ⟨Red.part_push hlen k op x, rfl, rfl⟩, ?combines, fun e op j => ?partials⟩,
    fun x hx s u t f hi o ho hne hk hlv hop => ?mixed, fun s u t f hi => ?eod⟩
  case own =>
    intro op r0 h pushed counted cleared lv fold folds scans does
    have hscans : scans = some (s.scans pushed t op) := by
      by_cases h97 : op = 0x97
      · exact (if_pos h97).trans (congrArg some (State.scans_exclusive s pushed t h97).symm)
      · exact (if_neg h97).trans (congrArg some (State.scans_inclusive s pushed t h97).symm)
    have hcleared : cleared.threads = s.threads := (State.modReds_threads ..).trans (State.countReds_threads s t f r0.k op)
    refine ⟨fun hop hlv => ?_, fun hop hlv => ?_, fun hop hlv => ?_, fun hop hlv => ?_⟩
    · exact reduction_performs hx hi h (reduceFrom_silent hop hlv) (State.countReds_threads ..) rfl
    · exact reduction_performs hx hi h (reduceFrom_marked hop hlv) hcleared rfl
    · rw [hscans]
      refine reduction_performs hx hi h ((reduceFrom_scan hop).trans ?_) (State.countReds_threads s t f r0.k op) rfl
      rw [if_pos hlv, show t.eod.toNat = 0 from hlv]
      rfl
    · rw [hscans]
      refine reduction_performs hx hi h ((reduceFrom_scan hop).trans ?_) hcleared rfl
      rw [if_neg (Nat.pos_iff_ne_zero.1 hlv)]
      rfl
  case combines =>
    exact fun u x => ⟨wrap32_Zx_add u x, redComb_max u x, redComb_min u x, rfl, rfl, w32_maxV u x, wrap32_Zx_add u x, wrap32_Zx_add u x, rfl⟩
  case partials =>
    refine ⟨?_, fun w => Red.part_some op, rfl, Red.fold_pois e op⟩
    simp only [List.forall_mem_cons]
    exact ⟨Red.part_none _, Red.part_none _, Red.part_none _, Red.part_none _, Red.part_none _, Red.part_none _, Red.part_none _,
      Red.part_none _, Red.part_none _, fun _ h => absurd h List.not_mem_nil⟩
  case mixed => exact fun k hthr hend => mixed_performs hx hi ho hne hk hlv hop (by rw [State.mixedReduction, ho]; rfl) hthr hend
  case eod => exact ⟨fun h => eod_empty hi h rfl, fun op h => eod_folds hi h rfl⟩

end Sys2Proof.Machine
end

section
/-! Column units (R170, R171): the request that an instruction queues, the row that a unit serves next, the acceptance and the reply. -/

namespace Sys2Proof.Machine

/-! ## The instruction (R170, R171) -/

/-- The instructions of group 0x7 with their opcodes. -/
def columnInstrs : List ((Fields → Instr) × Nat) :=
  [(.xrcp, 0x70), (.xsqrt, 0x71), (.xrsq, 0x72), (.xexp2, 0x73), (.xlog2, 0x74), (.xsin, 0x75), (.xcos, 0x76), (.xtanh, 0x77), (.xsigm, 0x78),
    (.xerf, 0x79)]

theorem exec_column {x : (Fields → Instr) × Nat} (hx : x ∈ columnInstrs) (f : Fields) (s : State) : exec (x.1 f) s = s.columnInstr f x.2 := by
  simp only [columnInstrs, List.mem_cons, List.not_mem_nil, or_false] at hx
  rcases hx with rfl | rfl | rfl | rfl | rfl | rfl | rfl | rfl | rfl | rfl <;> rfl

theorem columnEff_lanes (t : Thread) (f : Fields) (op : Nat) :
    columnEff t f op = .val ((List.range t.width).map (fun l => ⟨columnFn op (t.aW f l).w, (t.aW f l).pois⟩)) :=
  congrArg Eff.val (map1_lanes t f (columnFn op))

/-- R170: the requests of a tile that its unit has not accepted. -/
def openRequests (v : SiteSt) : Nat := v.colq.countP (fun q => !q.accepted)

/-- R170: the state after thread u of tile n has queued its request, and thread k waits for the reply. -/
def State.columnQueued (s : State) (n u : Nat) (k : Thread) : State :=
  ((s.setSite (.tile n) { s.site (.tile n) with colq := (s.site (.tile n)).colq ++ [⟨u, false, s.cycle⟩] }).setThr u k).postEv
    .columnRequestAccept { a := n / 8 }

section Column
variable {i : Instr} {s : State} {u op n : Nat} {t k : Thread} {f : Fields} (hx : exec i s = s.columnInstr f op)
  (hi : Issues s u t f { opc := op, b := false })
include hi

/-- The cycles that a request holds its cells change nothing of the issue. -/
theorem column_issues : Issues s u t f { opc := op, b := false, more := Thread.columnHold } := ⟨hi.runs, hi.thr, hi.legal, hi.going, hi.free⟩

include hx

/-- R171: on an element or a Syrad cell the unit is inside the agent. -/
theorem column_inside (hn : isTile t.src.site = false) (hr : Room s s t t f (columnEff t f op)) : Performs i s u f s t (columnEff t f op) := by
  refine exec_performs hx (column_issues hi) ?_ hi.thr hi.going rfl hr
  cases ht : t.src.site with
  | tile n => rw [ht] at hn; cases hn
  | elem n => rfl
  | syrad n => rfl

theorem column_queues (ht : t.src.site = .tile n) (hk : k = t.waiting .unit none f op) (hu : s.unitStopped t.part n = false)
    (hq : openRequests (s.site (.tile n)) < 4) (hr : RoomLate s (s.columnQueued n u k) t k f) : Parks i s u (s.columnQueued n u k) k .column := by
  subst hk
  refine exec_parks hx (column_issues hi) ?_ (thr_setThr ..) hr
  rw [openRequests, List.countP_eq_length_filter] at hq
  simp only [ht, hu, Nat.not_le.2 hq, decide_false, Bool.or_false, Bool.false_eq_true, if_false]
  rfl

/-- R170, R171: at a stopped unit and at a full queue the thread stays at its instruction. -/
theorem column_holds (ht : t.src.site = .tile n) (h : s.unitStopped t.part n = true ∨ 4 ≤ openRequests (s.site (.tile n))) :
    exec i s = .next s := by
  rw [openRequests, List.countP_eq_length_filter, ← decide_eq_true_iff (p := 4 ≤ _), ← Bool.or_eq_true] at h
  rw [hx, State.columnInstr, instr_issues (column_issues hi)]
  simp only [ht, h, if_true]

end Column

/-! ## The acceptance (R170) -/

/-- R170: no request of tile n can be served: each is accepted, or its engine or the unit has stopped. -/
def State.columnSkips (s : State) (n : Nat) : Prop :=
  (∀ r ∈ (s.site (.tile n)).colq, r.accepted = true) ∨ s.stopped ((s.site (.tile n)).part.getD 0) (engOf (.tile n)) = true
    ∨ s.unitStopped ((s.site (.tile n)).part.getD 0) n = true

/-- R170: the request of tile n that its unit can serve. -/
def State.columnOffer (s : State) (n : Nat) : Option (Nat × ColReq) :=
  match (s.site (.tile n)).colq.find? (fun q => !q.accepted) with
  | some q =>
    let p := (s.site (.tile n)).part.getD 0
    if s.stopped p (engOf (.tile n)) || s.unitStopped p n then none else some (n, q)
  | none => none

theorem State.columnOffer_none {s : State} {n : Nat} (h : s.columnOffer n = none) : s.columnSkips n := by
  unfold State.columnOffer at h
  split at h
  · simp only [ite_eq_left_iff, reduceCtorEq, imp_false, not_not, Bool.or_eq_true] at h
    exact .inr h
  · rename_i hf
    exact .inl (by simpa using hf)

theorem State.columnOffer_some {s : State} {n m : Nat} {q : ColReq} (h : s.columnOffer n = some (m, q)) :
    m = n ∧ (s.site (.tile n)).colq.find? (fun r => !r.accepted) = some q := by
  unfold State.columnOffer at h
  simp only at h
  split at h
  · rename_i r hf
    split at h
    · cases h
    · cases h
      exact ⟨rfl, hf⟩
  · cases h

theorem findSome_range {α : Type} {g : Nat → Option α} {n : Nat} {a : α} (h : (List.range n).findSome? g = some a) :
    ∃ i, i < n ∧ g i = some a ∧ ∀ j, j < i → g j = none := by
  obtain ⟨before, i, after, hl, hi, hmin⟩ := List.findSome?_eq_some_iff.1 h
  obtain ⟨k, -, rfl, hrest⟩ := List.range'_eq_append_iff.1 (List.range_eq_range'.symm.trans hl)
  obtain ⟨rfl, hpos, -⟩ := List.range'_eq_cons_iff.1 hrest.symm
  exact ⟨_, by omega, hi, fun j hj => hmin j (List.mem_range'_1.2 (by omega))⟩

theorem State.nextColumn_some {s : State} {c n : Nat} {q : ColReq} (h : s.nextColumn c = some (n, q)) :
    ∃ i, i < 8 ∧ n = c * 8 + (tgetD s.colLast c 7 + 1 + i) % 8 ∧ (s.site (.tile n)).colq.find? (fun r => !r.accepted) = some q
      ∧ ∀ j, j < i → s.columnSkips (c * 8 + (tgetD s.colLast c 7 + 1 + j) % 8) := by
  have hoffer : (List.range 8).findSome? (fun i => s.columnOffer (c * 8 + (tgetD s.colLast c 7 + 1 + i) % 8)) = some (n, q) := by
    rw [← h, State.nextColumn, serveOrder, List.findSome?_map]
    rfl
  obtain ⟨i, hi, hs, hmin⟩ := findSome_range hoffer
  obtain ⟨rfl, hq⟩ := State.columnOffer_some hs
  exact ⟨i, hi, rfl, hq, fun j hj => State.columnOffer_none (hmin j hj)⟩

/-- R170: request q of tile n is accepted in its queue. -/
def State.markAccepted (s : State) (n : Nat) (q : ColReq) : State :=
  s.modSite (.tile n) (fun v => { v with colq := v.colq.map (fun x : ColReq => if x.uid = q.uid then { x with accepted := true } else x) })

/-- R170: the state after unit c has accepted request q of tile n. -/
def State.columnAccepted (s : State) (c n : Nat) (q : ColReq) : State :=
  { s.markAccepted n q with
    colReq := tset s.colReq c (tgetD s.colReq c 0 + 1)
    colWait := tset s.colWait c (tgetD s.colWait c 0 + w32 (s.cycle - q.at_))
    colLast := tset s.colLast c (n % 8) }.postEv .columnReply { a := q.uid }

theorem State.acceptColumn_some {s : State} {c n : Nat} {q : ColReq} (h : s.nextColumn c = some (n, q)) :
    s.acceptColumn c = s.columnAccepted c n q := by
  simp only [State.acceptColumn, h]
  rfl

theorem State.columnAccepted_colq (s : State) (c n : Nat) (q : ColReq) : ((s.columnAccepted c n q).site (.tile n)).colq
    = (s.site (.tile n)).colq.map (fun r => if r.uid = q.uid then { r with accepted := true } else r) := by
  change ((s.markAccepted n q).site (.tile n)).colq = _
  rw [State.markAccepted, State.modSite_site, if_pos rfl]

/-! ## The reply (R170, R105) -/

theorem columnReply_ends {s : State} {t : Thread} {w : Wait} (h : Waiting s s.subj.a t w .column)
    (hq : ∃ q ∈ (s.site t.src.site).colq, q.uid = s.subj.a ∧ q.accepted = true) :
    Ends .columnReply s (s.modSite t.src.site (fun v => { v with colq := v.colq.filter (fun q => q.uid ≠ s.subj.a) })) s.subj.a t w.fields
      (columnEff t w.fields w.opc) := by
  have htaken : (s.site t.src.site).colq.any (fun q => q.uid == s.subj.a && q.accepted) = true := by
    simpa only [List.any_eq_true, Bool.and_eq_true, beq_iff_eq] using hq
  refine ⟨_, ?_, complete_completes _ ⟨h.thr, h.wait, h.stat, h.going, h.good, h.targets⟩⟩
  show Host.Outcome.next (s.columnReply s.subj.a) = _
  unfold State.columnReply
  simp only [h.thr, h.wait, h.stat, htaken, Bool.not_true, Bool.false_eq_true, ne_eq, not_true_eq_false, or_self, if_false]

/-- Settles O19: an instruction where its unit stands, the row that the unit serves next, and its reply. -/
theorem columnInstructionResults : Obligations.ColumnInstructionResults := by
  refine ⟨fun x hx s u t f hi => ⟨fun hn => ?inside, fun n ht => ⟨?queues, ?holds⟩⟩, fun s n q h => ?accepts, fun s t w h hq => ?replies⟩
  case inside =>
    intro e
    rw [show e = columnEff t f x.2 from (columnEff_lanes ..).symm]
    exact column_inside (exec_column hx f s) hi hn
  case queues => exact fun hu hq hr => column_queues (exec_column hx f s) hi ht rfl hu hq hr
  case holds => exact column_holds (exec_column hx f s) hi ht
  case accepts =>
    obtain ⟨i, hi, hn, hq, hmin⟩ := State.nextColumn_some h
    refine ⟨⟨i, hi, hn, hmin⟩, hq, s.columnAccepted s.subj.a n q, congrArg _ (State.acceptColumn_some h), ?_, ?_, ?_,
      State.columnAccepted_colq .., rfl, rfl, rfl⟩
    all_goals exact (tgetD_tset ..).trans (if_pos rfl)
  case replies =>
    intro b
    rw [← columnEff_lanes]
    exact columnReply_ends h hq

end Sys2Proof.Machine
end

section
/-! The special values of the column functions (R172). -/

namespace Sys2Proof.Machine

theorem columnFn_nan {op : Nat} {x : Word} (hlo : 0x70 ≤ op) (hhi : op ≤ 0x79) (h : F x = .nan) : columnFn op x = canonNaN := by
  interval_cases op <;> simp only [columnFn, fnRcp, fnSqrt, fnRsq, fnExp2, fnLog2, fnSin, fnCos, fnTanh, fnSigm, fnErf, h]

theorem FV.isNan_iff (v : FV) : v.isNan = true ↔ v = .nan := by cases v <;> simp [FV.isNan]

theorem fnRcp_fin {x : Word} {s : Bool} {m : Nat} {e : Int} (h : F x = .fin s m e) (hm : m ≠ 0) : fnRcp x = w32 (fp32.roundRat 0 s 1 m (-e)) := by
  simp only [fnRcp, h, if_neg hm]

/-- Settles O20: the table by evaluation, a NaN by the functions' first case, XRCP by its definition on a nonzero value. -/
theorem columnFunctionSpecialValues : Obligations.ColumnFunctionSpecialValues :=
  ⟨by decide, fun _ _ hlo hhi h => columnFn_nan hlo hhi ((FV.isNan_iff _).1 h), fun _ _ _ _ h hm => fnRcp_fin h hm⟩

end Sys2Proof.Machine
end

section
/-! Residues (R163 to R169): the channel words and what the instructions make of them, and the integer that a triple stands for. -/

namespace Sys2Proof.Machine

/-! ## Instructions on words with their poison (R106) -/

theorem actsAs_aluP1 {mk : Fields → Instr} {opc cyc : Nat} {g : Fields → PWord → PWord} {h : Thread → Fields → Nat → PWord}
    (hx : ∀ f s, exec (mk f) s = s.aluP1 f opc cyc (g f)) (hg : ∀ t f l, g f (t.aW f l) = h t f l) :
    ActsAs mk (fun _ => { opc := opc, b := false, cyc := cyc }) (fun t f => .val ((List.range t.width).map (h t f))) := by
  refine actsAs_pure hx (fun t f _ => ?_) (fun _ _ => rfl)
  simp only [mapP1_lanes, hg]

theorem actsAs_aluP2 {mk : Fields → Instr} {opc cyc : Nat} {g : Fields → PWord → PWord → PWord} {h : Thread → Fields → Nat → PWord}
    (hx : ∀ f s, exec (mk f) s = s.aluP2 f opc cyc (g f)) (hg : ∀ t f l, g f (t.aW f l) (t.bW f l) = h t f l) :
    ActsAs mk (fun _ => { opc := opc, cyc := cyc }) (fun t f => .val ((List.range t.width).map (h t f))) := by
  refine actsAs_pure hx (fun t f _ => ?_) (fun _ _ => rfl)
  simp only [mapP2_lanes, hg]

theorem actsAs_aluP3 {mk : Fields → Instr} {opc cyc : Nat} {g : Fields → PWord → PWord → PWord → PWord} {h : Thread → Fields → Nat → PWord}
    (hx : ∀ f s, exec (mk f) s = s.aluP3 f opc cyc (g f)) (hg : ∀ t f l, g f (t.aW f l) (t.bW f l) (t.zW l) = h t f l) :
    ActsAs mk (fun _ => { opc := opc, cyc := cyc }) (fun t f => .val ((List.range t.width).map (h t f))) := by
  refine actsAs_pure hx (fun t f _ => ?_) (fun _ _ => rfl)
  simp only [mapP3_lanes, hg]

/-! ## Channel words (R165) -/

/-- R165: the channel that a word names, its residue, and whether the word is canonical. -/
def chanOf (x : Word) : Nat := Zx x / 2 ^ 30
def resOf (x : Word) : Nat := Zx x % 2 ^ 17
def chanOk (x : Word) : Bool := decide (chanOf x ≤ 2 ∧ Zx x / 2 ^ 17 % 2 ^ 13 = 0 ∧ resOf x < modulus (chanOf x))

theorem fld_top (x : Word) {lo n : Nat} (h : lo + n = 32) : fld x lo n = Zx x / 2 ^ lo :=
  Nat.mod_eq_of_lt (Nat.div_lt_of_lt_mul (by rw [← pow_add, h]; exact x.isLt))

theorem chan_eq (x : Word) : chan x = if chanOk x then some (chanOf x, resOf x) else none := by
  simp only [chan, chanOk, decide_eq_true_eq, fld_top x (show 30 + 2 = 32 from rfl), fld_low]
  rfl

/-! ## RENC (R167) -/

/-- R167: the channel word of the number n, scaled, under the literal l. -/
def rencWord (l : Word) (n : Int) (pois : Bool) : PWord :=
  ⟨w32 (l.toNat % 4 * 2 ^ 30 + ((n * 2 ^ (l.toNat / 16 % 64)) % (modulus (l.toNat % 4) : Int)).toNat), pois⟩

/-- R167: the number that the kind k of input takes from x for channel j, and whether the input is poisoned. -/
def rencPick (j : Nat) (x : Word) (k : Nat) : Int × Bool :=
  match k with
  | 0 => (Sx x, false)
  | 1 => ((Zx x : Int), false)
  | 2 => if j = 0 then (((Zx x % 2 ^ 16 : Nat) : Int), false) else (((Zx x / 2 ^ 16 : Nat) : Int), Zx x / 2 ^ 16 == 65535)
  | _ => (((Zx x % 2 ^ 17 : Nat) : Int), decide (2 ^ 17 ≤ Zx x ∨ 65536 < Zx x))

theorem beyond_residue (x : Word) : (bit x 31 || fld x 17 14 != 0 || decide (65536 < fld x 0 17)) = decide (2 ^ 17 ≤ Zx x ∨ 65536 < Zx x) := by
  have hx : x.toNat < 2 ^ 32 := x.isLt
  rw [Bool.eq_iff_iff, decide_eq_true_iff]
  simp only [Bool.or_eq_true, decide_eq_true_eq, bit, beq_iff_eq, bne_iff_ne]
  simp only [fld, Zx]
  omega

theorem rencIn_eq (l x : Word) : rencIn l x = rencPick (l.toNat % 4) x (l.toNat / 4 % 4) := by
  rw [rencIn, beyond_residue, fld_top x (show 16 + 16 = 32 from rfl), fld_low, fld_low, fld_low]
  rfl

theorem fnRenc_pick (l : Word) (x : PWord) : fnRenc l x =
    let n := rencPick (l.toNat % 4) x.w (l.toNat / 4 % 4)
    if n.2 then ⟨0, true⟩ else rencWord l n.1 x.pois := by
  rw [fnRenc, rencIn_eq, fld_low]
  rfl

theorem fnRenc_eq (l : Word) (x : PWord) : fnRenc l x = match l.toNat / 4 % 4 with
    | 0 => rencWord l (Sx x.w) x.pois
    | 1 => rencWord l (Zx x.w) x.pois
    | 2 => if l.toNat % 4 = 0 then rencWord l (Zx x.w % 2 ^ 16 : Nat) x.pois
           else if Zx x.w / 2 ^ 16 = 65535 then ⟨0, true⟩ else rencWord l (Zx x.w / 2 ^ 16 : Nat) x.pois
    | _ => if 2 ^ 17 ≤ Zx x.w ∨ 65536 < Zx x.w then ⟨0, true⟩ else rencWord l (Zx x.w) x.pois := by
  rw [fnRenc_pick]
  match l.toNat / 4 % 4 with
  | 0 | 1 => rfl
  | 2 =>
    simp only [rencPick]
    split
    · rfl
    · simp only [beq_iff_eq]
  | k + 3 =>
    simp only [rencPick, decide_eq_true_eq]
    split
    · rfl
    · rename_i h
      rw [Nat.mod_eq_of_lt (by omega)]

/-! ## RADD and RMUL (R168) -/

theorem onChan_eq (g : Nat → Nat → Nat) (x y : PWord) : onChan g x y =
    if chanOk x.w && chanOk y.w && chanOf x.w == chanOf y.w then
      ⟨w32 (chanOf x.w * 2 ^ 30 + g (resOf x.w) (resOf y.w) % modulus (chanOf x.w)), x.pois || y.pois⟩ else ⟨0, true⟩ := by
  unfold onChan
  rw [chan_eq, chan_eq]
  cases chanOk x.w <;> cases chanOk y.w <;> simp [PWord.bad, chanWord]

theorem fnRchk_eq (x : Word) : fnRchk x = if chanOk x then 1 else 0 := by
  rw [fnRchk, chan_eq]
  cases chanOk x <;> rfl

/-! ## RDEC (R169) -/

theorem chan_eq_some_iff (x : Word) (k r : Nat) : chan x = some (k, r) ↔ chanOk x = true ∧ chanOf x = k ∧ resOf x = r := by
  rw [chan_eq]
  split <;> simp [*]

/-- R169: the three operands are words of channels 0, 1 and 2. -/
def rdecOk (x y z : Word) : Bool := chanOk x && chanOk y && chanOk z && chanOf x == 0 && chanOf y == 1 && chanOf z == 2

theorem rdecOk_iff (x y z : Word) : rdecOk x y z = true ↔
    chan x = some (0, resOf x) ∧ chan y = some (1, resOf y) ∧ chan z = some (2, resOf z) := by
  simp only [chan_eq_some_iff, rdecOk, Bool.and_eq_true, beq_iff_eq, and_true]
  tauto

/-- R169: the form of the number n that the literal l asks for. -/
def rdecWord (l : Word) (n : Int) : Word :=
  match l.toNat % 4 with
  | 0 => wrap32 n
  | 1 => wrap32 (n / 2 ^ 32)
  | 2 => sat32 n
  | _ => rnd32 (l.toNat / 16 % 4) (.fin (decide (n < 0)) n.natAbs ((((l.toNat / 256 % 256 + 128) % 256 : Nat) : Int) - 128))

theorem fnRdec_of_ok {x y z : PWord} {a b c : Nat} (l : Word) (hx : chan x.w = some (0, a)) (hy : chan y.w = some (1, b)) (hz : chan z.w = some (2, c)) :
    fnRdec l x y z = ⟨rdecWord l (crtDecode a b c), x.pois || y.pois || z.pois⟩ := by
  have hexp : sxN 8 (fld l 8 8) = (((l.toNat / 256 % 256 + 128) % 256 : Nat) : Int) - 128 := byteS_eq l 1
  simp only [fnRdec, hx, hy, hz, hexp, fld_low]
  rfl

theorem fnRdec_eq (l : Word) (x y z : PWord) : fnRdec l x y z =
    if rdecOk x.w y.w z.w then ⟨rdecWord l (crtDecode (resOf x.w) (resOf y.w) (resOf z.w)), x.pois || y.pois || z.pois⟩ else ⟨0, true⟩ := by
  split
  · rename_i h
    obtain ⟨hx, hy, hz⟩ := (rdecOk_iff ..).1 h
    exact fnRdec_of_ok l hx hy hz
  · rename_i h
    unfold fnRdec
    split
    · rename_i hx hy hz
      obtain ⟨hxo, hxk, -⟩ := (chan_eq_some_iff ..).1 hx
      obtain ⟨hyo, hyk, -⟩ := (chan_eq_some_iff ..).1 hy
      obtain ⟨hzo, hzk, -⟩ := (chan_eq_some_iff ..).1 hz
      exact absurd (by rw [rdecOk, hxo, hyo, hzo, hxk, hyk, hzk]; rfl) h
    · rfl

/-! ## Triples (R163, R166) -/

/-- R166: the two digits by which the residues modulo 65535 and 65537 enter the number. -/
def crtT1 (a0 a1 : Nat) : Nat := (a1 + 65535 * 2 - a0 % 65535) % 65535
def crtT2 (a0 a1 a2 : Nat) : Nat := ((a2 + 65537 * 2 - a0 % 65537 + crtT1 a0 a1) * 32769) % 65537

theorem crtX_eq (a0 a1 a2 : Nat) : crtX a0 a1 a2 = a0 + 65536 * (crtT1 a0 a1 + 65535 * crtT2 a0 a1 a2) := rfl

theorem crtX_lt {a0 : Nat} (a1 a2 : Nat) (h : a0 < 65536) : crtX a0 a1 a2 < rnsM := by
  have h1 : crtT1 a0 a1 < 65535 := Nat.mod_lt _ (by decide)
  have h2 : crtT2 a0 a1 a2 < 65537 := Nat.mod_lt _ (by decide)
  rw [crtX_eq, rnsM]
  omega

theorem crtX_mod0 {a0 : Nat} (a1 a2 : Nat) (h : a0 < 65536) : crtX a0 a1 a2 % 65536 = a0 := by
  rw [crtX_eq, Nat.add_mul_mod_self_left, Nat.mod_eq_of_lt h]

theorem crtX_mod1 {a0 a1 : Nat} (a2 : Nat) (h1 : a1 < 65535) : crtX a0 a1 a2 % 65535 = a1 := by
  have hX : crtX a0 a1 a2 = a0 + crtT1 a0 a1 + 65535 * (crtT1 a0 a1 + 65536 * crtT2 a0 a1 a2) := by rw [crtX_eq]; ring
  rw [hX, Nat.add_mul_mod_self_left, crtT1]
  omega

theorem crtX_mod2 {a0 a2 : Nat} (a1 : Nat) (h0 : a0 < 65536) (h2 : a2 < 65537) : crtX a0 a1 a2 % 65537 = a2 := by
  have h1 : crtT1 a0 a1 < 65535 := Nat.mod_lt _ (by decide)
  have hmod0 : a0 % 65537 = a0 := Nat.mod_eq_of_lt (by omega)
  -- twice the second digit is what the two others leave of the residue
  have htwice : 2 * crtT2 a0 a1 a2 % 65537 = (a2 + 65537 * 2 - a0 + crtT1 a0 a1) % 65537 := by
    rw [crtT2, hmod0, Nat.mul_mod_mod, show 2 * ((a2 + 65537 * 2 - a0 + crtT1 a0 a1) * 32769)
      = (a2 + 65537 * 2 - a0 + crtT1 a0 a1) + 65537 * (a2 + 65537 * 2 - a0 + crtT1 a0 a1) by ring, Nat.add_mul_mod_self_left]
  rw [crtX_eq]
  generalize crtT1 a0 a1 = t1 at *
  generalize crtT2 a0 a1 a2 = t2 at *
  have hX : a0 + 65536 * (t1 + 65535 * t2) + t1 = a0 + 2 * t2 + 65537 * (t1 + 65534 * t2) := by ring
  omega

/-- The three moduli have no common factor, so a number that each divides is a multiple of their product (R163). -/
theorem rnsM_dvd {n : Int} (h0 : (65536 : Int) ∣ n) (h1 : (65535 : Int) ∣ n) (h2 : (65537 : Int) ∣ n) : (281474976645120 : Int) ∣ n := by
  have h01 : (65536 * 65535 : Int) ∣ n := IsCoprime.mul_dvd (Int.isCoprime_iff_gcd_eq_one.2 (by decide)) h0 h1
  have h012 : (65536 * 65535 * 65537 : Int) ∣ n := IsCoprime.mul_dvd (Int.isCoprime_iff_gcd_eq_one.2 (by decide)) h01 h2
  exact h012

theorem emod_toNat_cast (k : Nat) [NeZero k] (n : Int) : ((n % (k : Int)).toNat : Int) = n % k :=
  Int.toNat_of_nonneg (Int.emod_nonneg n (Int.natCast_ne_zero.2 (NeZero.ne k)))

theorem emod_toNat_inj (k : Nat) [NeZero k] (m n : Int) : (m % (k : Int)).toNat = (n % (k : Int)).toNat ↔ (k : Int) ∣ m - n := by
  rw [← Int.natCast_inj, emod_toNat_cast, emod_toNat_cast]
  exact eq_comm.trans Int.modEq_iff_dvd

theorem emod_toNat_add (k : Nat) [NeZero k] (m n : Int) :
    ((m % (k : Int)).toNat + (n % (k : Int)).toNat) % k = ((m + n) % (k : Int)).toNat := by
  rw [← Int.natCast_inj, Int.natCast_emod, Int.natCast_add, emod_toNat_cast, emod_toNat_cast, emod_toNat_cast, ← Int.add_emod]

theorem emod_toNat_mul (k : Nat) [NeZero k] (m n : Int) :
    ((m % (k : Int)).toNat * (n % (k : Int)).toNat) % k = ((m * n) % (k : Int)).toNat := by
  rw [← Int.natCast_inj, Int.natCast_emod, Int.natCast_mul, emod_toNat_cast, emod_toNat_cast, emod_toNat_cast, ← Int.mul_emod]

theorem Tri.ofInt_add (m n : Int) : (Tri.ofInt m).add (Tri.ofInt n) = Tri.ofInt (m + n) :=
  Tri.mk.injEq .. |>.mpr ⟨emod_toNat_add 65536 m n, emod_toNat_add 65535 m n, emod_toNat_add 65537 m n⟩

theorem Tri.ofInt_mul (m n : Int) : (Tri.ofInt m).mul (Tri.ofInt n) = Tri.ofInt (m * n) :=
  Tri.mk.injEq .. |>.mpr ⟨emod_toNat_mul 65536 m n, emod_toNat_mul 65535 m n, emod_toNat_mul 65537 m n⟩

theorem Tri.ofInt_eq_iff (m n : Int) : Tri.ofInt m = Tri.ofInt n ↔ (281474976645120 : Int) ∣ m - n := by
  have h0 := emod_toNat_inj 65536 m n
  have h1 := emod_toNat_inj 65535 m n
  have h2 := emod_toNat_inj 65537 m n
  rw [Tri.ofInt, Tri.ofInt, Tri.mk.injEq]
  constructor
  · intro ⟨e0, e1, e2⟩
    exact rnsM_dvd (h0.1 e0) (h1.1 e1) (h2.1 e2)
  · intro h
    exact ⟨h0.2 (dvd_trans (by decide) h), h1.2 (dvd_trans (by decide) h), h2.2 (dvd_trans (by decide) h)⟩

theorem dvd_sub_of_mod (k : Nat) [NeZero k] {X : Nat} {n : Int} (h : X % k = (n % (k : Int)).toNat) : (k : Int) ∣ X - n := by
  rw [← Int.natCast_inj, emod_toNat_cast, Int.natCast_emod] at h
  exact Int.modEq_iff_dvd.1 h.symm

theorem emod_toNat_lt (k : Nat) [NeZero k] (n : Int) : (n % (k : Int)).toNat < k := by
  rw [← Int.ofNat_lt, emod_toNat_cast]
  exact Int.emod_lt_of_pos n (Int.natCast_pos.2 (NeZero.pos k))

/-- R166: the number rebuilt from a triple of n differs from n by a multiple of M. -/
theorem crtX_ofInt (n : Int) : (281474976645120 : Int) ∣ (crtX (Tri.ofInt n).c0 (Tri.ofInt n).c1 (Tri.ofInt n).c2 : Nat) - n := by
  have hc0 : (Tri.ofInt n).c0 < 65536 := emod_toNat_lt 65536 n
  have hc1 : (Tri.ofInt n).c1 < 65535 := emod_toNat_lt 65535 n
  have hc2 : (Tri.ofInt n).c2 < 65537 := emod_toNat_lt 65537 n
  exact rnsM_dvd (dvd_sub_of_mod 65536 (crtX_mod0 _ _ hc0)) (dvd_sub_of_mod 65535 (crtX_mod1 _ hc1)) (dvd_sub_of_mod 65537 (crtX_mod2 _ hc0 hc2))

theorem Tri.int_ofInt {n : Int} (hlo : -140737488322560 ≤ n) (hhi : n ≤ 140737488322559) : (Tri.ofInt n).int = n := by
  have hdvd := crtX_ofInt n
  have hlt : crtX (Tri.ofInt n).c0 (Tri.ofInt n).c1 (Tri.ofInt n).c2 < rnsM := crtX_lt _ _ (emod_toNat_lt 65536 n)
  rw [Tri.int, crtDecode]
  generalize crtX (Tri.ofInt n).c0 (Tri.ofInt n).c1 (Tri.ofInt n).c2 = X at *
  rw [rnsM] at *
  split <;> omega

/-- Settles O14: each instruction by its word function on canonical channel words, the triples by the Chinese remainder theorem. -/
theorem residueInstructionResults : Obligations.ResidueInstructionResults := by
  refine ⟨⟨?renc, ?radd, ?rmul, ?rchk, ?rdec⟩, fun n => Tri.int_ofInt, Tri.ofInt_add, Tri.ofInt_mul, Tri.ofInt_eq_iff⟩
  case renc => exact actsAs_aluP1 (fun _ _ => rfl) (fun t f l => fnRenc_eq f.lit (t.aW f l))
  case radd | rmul => exact actsAs_aluP2 (fun _ _ => rfl) (fun t f l => onChan_eq _ (t.aW f l) (t.bW f l))
  case rchk => exact actsAs_alu1 (fun _ _ => rfl) (fun _ => fnRchk_eq)
  case rdec => exact actsAs_aluP3 (fun _ _ => rfl) (fun t f l => fnRdec_eq f.lit (t.aW f l) (t.bW f l) (t.zW l))

end Sys2Proof.Machine
end

section
/-! Rounding to FP32 of the values that it holds (R148, R150): such a value is its own rounding in every mode. -/

namespace Sys2Proof.Machine

/-! ## Values of a format (R148) -/

/-- R148: the fraction and the exponent of a finite value of a format lie in its ranges. -/
theorem Fmt.val_fin {g : Fmt} {x n : Nat} {s : Bool} {e : Int} (h : g.val x = .fin s n e) :
    n < 2 ^ (g.t + 1) ∧ 1 ≤ e + g.bias + g.t ∧ e + g.bias + g.t ≤ max 1 (g.maxP / 2 ^ g.t : Nat) := by
  have hT := Nat.mod_lt (x % 2 ^ (g.w - 1)) (Nat.two_pow_pos g.t)
  have hpow : 2 ^ (g.t + 1) = 2 ^ g.t + 2 ^ g.t := by rw [pow_succ, Nat.mul_two]
  unfold Fmt.val at h
  simp only at h
  split_ifs at h with hb hE
  · obtain ⟨-, rfl, rfl⟩ := FV.fin.inj h
    exact ⟨by omega, by omega, by omega⟩
  · obtain ⟨-, rfl, rfl⟩ := FV.fin.inj h
    have hmax := Nat.div_le_div_right (c := 2 ^ g.t) hb
    generalize x % 2 ^ (g.w - 1) / 2 ^ g.t = E at *
    exact ⟨by omega, by omega, by omega⟩

/-- R148: the values n × 2^e that FP32 holds. -/
structure Fp32Holds (n : Nat) (e : Int) : Prop where
  frac : n < 2 ^ 24
  least : -149 ≤ e
  most : e ≤ 104

theorem fp32Holds_of_val {g : Fmt} (hg : g ∈ [fp32, e4m3, e5m2]) {x n : Nat} {s : Bool} {e : Int} (h : g.val x = .fin s n e) :
    Fp32Holds n e := by
  obtain ⟨hn, hlo, hhi⟩ := Fmt.val_fin h
  simp only [List.mem_cons, List.not_mem_nil, or_false] at hg
  rcases hg with rfl | rfl | rfl <;> simp only [fp32, e4m3, e5m2] at hn hlo hhi <;> exact ⟨by omega, by omega, by omega⟩

/-! ## Exact quotients and exponents in range (R150) -/

/-- R150: a quotient by one is exact, so no mode changes it. -/
theorem roundQ_one (mode : Nat) (neg : Bool) (n : Nat) : roundQ mode neg n 1 = n := by
  simp only [roundQ, Nat.div_one, Nat.mod_one]
  split <;> simp

theorem log2_le_of_lt {n k : Nat} (h : n < 2 ^ (k + 1)) : Nat.log2 n ≤ k := by
  by_cases hn : n = 0
  · subst hn; exact Nat.zero_le k
  · exact Nat.le_of_lt_succ ((Nat.log2_lt hn).2 h)

theorem clampExp_of_holds {n : Nat} {e : Int} (h : Fp32Holds n e) (hn : n ≠ 0) : clampExp n e = (n, e) := by
  obtain ⟨hfrac, hlo, hhi⟩ := h
  have hlog := log2_le_of_lt hfrac
  simp only [clampExp, if_neg hn]
  rw [if_neg (by omega), if_neg (by omega)]

/-! ## The rounding of a value that FP32 holds -/

/-- R150: the exponent of the last place of n × 2^e in FP32. -/
def ulpExp (n : Nat) (e : Int) : Int := max ((Nat.log2 n : Int) + e) (-126) - 23

theorem roundMag_fp32 {n : Nat} {e : Int} (h : Fp32Holds n e) (hn : n ≠ 0) (mode : Nat) (neg : Bool) :
    fp32.roundMag mode neg n 1 e = (ulpExp n e + 149).toNat * 2 ^ 23 + n * 2 ^ (e - ulpExp n e).toNat := by
  obtain ⟨hfrac, hlo, hhi⟩ := h
  have hlog := log2_le_of_lt hfrac
  have hself := Nat.log2_self_le hn
  have hlg : (Nat.log2 n : Int) - (Nat.log2 1 : Nat) + e = Nat.log2 n + e := by rw [show Nat.log2 1 = 0 from rfl]; omega
  have hlow : ¬n < 1 * 2 ^ ((Nat.log2 n : Int) + e - e).toNat := by
    rw [Int.add_sub_cancel, Int.toNat_natCast, Nat.one_mul]
    exact Nat.not_lt.2 hself
  have hpos : 0 ≤ (Nat.log2 n : Int) + e - e := by omega
  have hulp : max ((Nat.log2 n : Int) + e) (1 - (127 : Nat)) - (23 : Nat) = ulpExp n e := rfl
  have hsh : 0 ≤ e - ulpExp n e := by rw [ulpExp]; omega
  simp only [Fmt.roundMag, if_neg hn, hlg, if_pos hpos, decide_eq_false hlow, fp32, Bool.false_eq_true, if_false, hulp, if_pos hsh, roundQ_one]
  congr 3
  omega

/-- A pattern with exponent field k + 1, or 0 for k = 0, counts its significand 2^k times. -/
theorem fpUnits_scaled {k q : Nat} (hq : q < 2 ^ 24) (hk : k = 0 ∨ 2 ^ 23 ≤ q) : fpUnits (k * 2 ^ 23 + q) = q * 2 ^ k := by
  by_cases hsub : q < 2 ^ 23
  · obtain rfl : k = 0 := by omega
    rw [fpUnits, if_pos (by omega)]
    omega
  · have hE : (k * 2 ^ 23 + q) / 2 ^ 23 = k + 1 := by omega
    have hT : 2 ^ 23 + (k * 2 ^ 23 + q) % 2 ^ 23 = q := by omega
    rw [fpUnits, hE, hT, if_neg (Nat.succ_ne_zero k), Nat.add_sub_cancel]

theorem significand_bounds {n : Nat} {e : Int} (h : Fp32Holds n e) (hn : n ≠ 0) :
    n * 2 ^ (e - ulpExp n e).toNat < 2 ^ 24 ∧ ((ulpExp n e + 149).toNat = 0 ∨ 2 ^ 23 ≤ n * 2 ^ (e - ulpExp n e).toNat) := by
  have hself := Nat.log2_self_le hn
  have hnext := Nat.lt_log2_self (n := n)
  have hlog := log2_le_of_lt h.frac
  have hshift : (e - ulpExp n e).toNat ≤ 23 - Nat.log2 n := by rw [ulpExp]; omega
  constructor
  · calc n * 2 ^ (e - ulpExp n e).toNat
      _ < 2 ^ (Nat.log2 n + 1) * 2 ^ (e - ulpExp n e).toNat := Nat.mul_lt_mul_of_pos_right hnext (Nat.two_pow_pos _)
      _ = 2 ^ (Nat.log2 n + 1 + (e - ulpExp n e).toNat) := (pow_add ..).symm
      _ ≤ 2 ^ 24 := Nat.pow_le_pow_right (by decide) (by omega)
  · by_cases hsub : (Nat.log2 n : Int) + e ≤ -126
    · left
      rw [ulpExp]
      omega
    · right
      have hfull : Nat.log2 n + (e - ulpExp n e).toNat = 23 := by rw [ulpExp]; omega
      calc 2 ^ 23
        _ = 2 ^ Nat.log2 n * 2 ^ (e - ulpExp n e).toNat := by rw [← pow_add, hfull]
        _ ≤ n * 2 ^ (e - ulpExp n e).toNat := Nat.mul_le_mul_right _ hself

/-- R150: a value that FP32 holds rounds to the pattern of its magnitude, in every mode. -/
theorem rnd32_of_holds {n : Nat} {e : Int} (h : Fp32Holds n e) : ∃ b, b < 0x7F800000 ∧ fpUnits b = n * 2 ^ (e + 149).toNat
    ∧ ∀ mode s, rnd32 mode (.fin s n e) = w32 (fp32.signed s b) := by
  by_cases hn : n = 0
  · subst hn
    exact ⟨0, by decide, (Nat.zero_mul _).symm, fun _ _ => rfl⟩
  · obtain ⟨hq, hk⟩ := significand_bounds h hn
    have hlog := log2_le_of_lt h.frac
    have hmost := h.most
    have hleast := h.least
    have hk253 : (ulpExp n e + 149).toNat ≤ 253 := by rw [ulpExp]; omega
    have hb : (ulpExp n e + 149).toNat * 2 ^ 23 + n * 2 ^ (e - ulpExp n e).toNat < 0x7F800000 := by omega
    refine ⟨_, hb, ?_, fun mode s => ?_⟩
    · rw [fpUnits_scaled hq hk, Nat.mul_assoc, ← pow_add]
      congr 2
      rw [ulpExp]
      omega
    · simp only [rnd32, Fmt.round, clampExp_of_holds h hn, Fmt.roundRat, roundMag_fp32 h hn]
      rw [if_neg]
      exact Nat.not_lt.2 (Nat.le_of_lt_succ hb)

/-! ## Signed patterns -/

theorem fpMag_signed {b : Nat} (hb : b < 2 ^ 31) (s : Bool) : fpMag (w32 (fp32.signed s b)) = b := by
  cases s <;> simp only [fpMag, Fmt.signed, fp32, Bool.false_eq_true, if_false, if_true] <;> rw [w32_toNat (by omega)] <;> omega

theorem msb_signed {b : Nat} (hb : b < 2 ^ 31) (s : Bool) : (w32 (fp32.signed s b)).msb = s := by
  rw [BitVec.msb_eq_decide]
  cases s <;> simp only [Fmt.signed, fp32, Bool.false_eq_true, if_false, if_true, decide_eq_true_eq, decide_eq_false_iff_not] <;>
    rw [w32_toNat (by omega)] <;> omega

theorem signed_fpMag (x : Word) : w32 (fp32.signed x.msb (fpMag x)) = x := by
  have hx := x.isLt
  have hmag := fpMag_eq x
  refine (congrArg w32 ?_).trans (w32_toNat_self x)
  rw [BitVec.msb_eq_decide] at *
  simp only [Fmt.signed, fp32, decide_eq_true_eq] at *
  split <;> simp_all

theorem signedMag_inj {s : Bool} {a b : Nat} : signedMag s a = signedMag s b ↔ a = b := by
  cases s <;> simp [signedMag]

/-! ## Format values are their own rounding (R150) -/

theorem rnd32_inf (mode : Nat) (s : Bool) : rnd32 mode (.inf s) = w32 (fp32.signed s 0x7F800000) := rfl

/-- R150: an FP32 value that is no NaN is its own rounding. -/
theorem rnd32_F (mode : Nat) {x : Word} (h : (F x).isNan = false) : rnd32 mode (F x) = x := by
  rw [F_isNan, fpNan, decide_eq_false_iff_not, Nat.not_lt] at h
  rcases Nat.lt_or_eq_of_le h with hfin | hinf
  · obtain ⟨m, e, hF, -, hu⟩ := F_fin hfin
    obtain ⟨b, hb, hunits, hround⟩ := rnd32_of_holds (fp32Holds_of_val (List.mem_cons_self ..) hF)
    have hmag : b = fpMag x := fpUnits_strictMono.injective (by rw [hunits]; exact signedMag_inj.1 hu)
    rw [hF, hround, hmag, signed_fpMag]
  · rw [F_inf hinf, rnd32_inf, ← hinf, signed_fpMag]

/-- R148, R150: a value of E4M3 or E5M2 that is no NaN is the value of its rounding to FP32. -/
theorem F_rnd32_eq {g : Fmt} (hg : g ∈ [fp32, e4m3, e5m2]) (mode : Nat) {p : Nat} (h : (g.val p).isNan = false) :
    (F (rnd32 mode (g.val p))).eq (g.val p) = true ∧ (F (rnd32 mode (g.val p))).sgn = (g.val p).sgn := by
  cases hv : g.val p with
  | nan => rw [hv] at h; cases h
  | inf s =>
    rw [rnd32_inf, F_inf (fpMag_signed (by decide) s), msb_signed (by decide)]
    cases s <;> exact ⟨rfl, rfl⟩
  | fin s n e =>
    have hold := fp32Holds_of_val hg hv
    obtain ⟨b, hb, hunits, hround⟩ := rnd32_of_holds hold
    have hmag := fpMag_signed (Nat.lt_trans hb (by decide)) s
    obtain ⟨m, k, hF, hk, hu⟩ := F_fin (x := w32 (fp32.signed s b)) (by rw [hmag]; exact hb)
    rw [hmag, msb_signed (Nat.lt_trans hb (by decide)), hunits] at hu
    rw [hround, hF, msb_signed (Nat.lt_trans hb (by decide))]
    refine ⟨?_, rfl⟩
    have hsame : finUnits s m k = finUnits s n e := hu
    simp [FV.eq, FV.isNan, fin_lt_fin hk hold.least, fin_lt_fin hold.least hk, hsame]

/-- Settles O13: FP32 by `rnd32_F`, the two 8-bit formats by `F_rnd32_eq`. -/
theorem roundingKeepsFormatValues : Obligations.RoundingKeepsFormatValues :=
  ⟨fun mode _ h => rnd32_F mode h, fun _ hg mode _ _ _ h => F_rnd32_eq (List.mem_cons_of_mem _ hg) mode h⟩

end Sys2Proof.Machine
end

section
/-! The FP32 instructions (R150, R154, R155): signs and classes of patterns, the cases of a quotient and of a fraction, the four modes. -/

namespace Sys2Proof.Machine

/-! ## Instructions whose function the literal picks (R105, R106) -/

theorem actsAs_lanes1 {mk : Fields → Instr} {opc cyc : Nat} {g h : Fields → Word → Word}
    (hx : ∀ f s, exec (mk f) s = s.alu1 f opc cyc (g f)) (hg : ∀ f x, g f x = h f x) :
    ActsAs mk (fun _ => { opc := opc, b := false, cyc := cyc }) (lanes1 h) := by
  refine actsAs_pure hx (fun t f _ => ?_) (fun _ _ => rfl)
  simp only [map1_lanes, lanes1, hg]

theorem actsAs_lanes2 {mk : Fields → Instr} {opc cyc : Nat} {g h : Fields → Word → Word → Word}
    (hx : ∀ f s, exec (mk f) s = s.alu2 f opc cyc (g f)) (hg : ∀ f x y, g f x y = h f x y) :
    ActsAs mk (fun _ => { opc := opc, cyc := cyc }) (lanes2 h) := by
  refine actsAs_pure hx (fun t f _ => ?_) (fun _ _ => rfl)
  simp only [map2_lanes, lanes2, hg]

theorem actsAs_lanes3 {mk : Fields → Instr} {opc cyc : Nat} {g h : Fields → Word → Word → Word → Word}
    (hx : ∀ f s, exec (mk f) s = s.alu3 f opc cyc (g f)) (hg : ∀ f x y z, g f x y z = h f x y z) :
    ActsAs mk (fun _ => { opc := opc, cyc := cyc }) (lanes3 h) := by
  refine actsAs_pure hx (fun t f _ => ?_) (fun _ _ => rfl)
  simp only [map3_lanes, lanes3, hg]

theorem modeOf_eq (f : Fields) : modeOf f = if f.selA = .lit ∨ f.selB = .lit then 0 else f.lit.toNat % 4 := by
  rw [modeOf, fld_low]
  rfl

/-! ## Signs of patterns (R149, R154) -/

theorem fpMag_eq_and (x : Word) : fpMag x = (x &&& 0x7FFFFFFF).toNat := (Nat.and_two_pow_sub_one_eq_mod x.toNat 31).symm

/-- A pattern without its sign decides whether it is a NaN. -/
theorem canon_eq {x y : Word} (h : y &&& 0x7FFFFFFF = x &&& 0x7FFFFFFF) : canon y = if fpNan x then 0x7FC00000 else y := by
  rw [canon, F_isNan, fpNan, fpNan, fpMag_eq_and, h, ← fpMag_eq_and]
  rfl

/-- Bits outside a mask do not matter under it. -/
theorem and_of_disjoint {b m : Word} (a : Word) (h : b &&& m = 0) : (a ^^^ b) &&& m = a &&& m ∧ (a ||| b) &&& m = a &&& m := by
  have hbit : ∀ i (hi : i < 32), (b[i] && m[i]) = false := fun i hi => by rw [← BitVec.getElem_and, h]; exact BitVec.getElem_zero hi
  have hbool : ∀ a b m : Bool, (b && m) = false → ((a ^^ b) && m) = (a && m) ∧ ((a || b) && m) = (a && m) := by decide
  constructor <;> ext i hi <;> simp only [BitVec.getElem_and, BitVec.getElem_xor, BitVec.getElem_or]
  · exact (hbool _ _ _ (hbit i hi)).1
  · exact (hbool _ _ _ (hbit i hi)).2

theorem fnFabs_eq (x : Word) : fnFabs x = if fpNan x then 0x7FC00000 else x &&& 0x7FFFFFFF :=
  canon_eq (by rw [BitVec.and_assoc, BitVec.and_self])

theorem fnFneg_eq (x : Word) : fnFneg x = if fpNan x then 0x7FC00000 else x ^^^ 0x80000000 :=
  canon_eq (and_of_disjoint x (by decide)).1

theorem fnFcpys_eq (x y : Word) : fnFcpys x y = if fpNan x then 0x7FC00000 else (x &&& 0x7FFFFFFF) ||| (y &&& 0x80000000) :=
  canon_eq (by rw [(and_of_disjoint _ (by rw [BitVec.and_assoc]; exact BitVec.and_zero)).2, BitVec.and_assoc, BitVec.and_self])

theorem w32_minP (u x : Word) : w32 (fp32.minP u.toNat x.toNat) = if fpNan u || fpNan x then 0x7FC00000
    else if (F u).lt (F x) then u else if (F x).lt (F u) then x else if u.msb then u else x := by
  have hdef : fp32.minP u.toNat x.toNat = if (F u).isNan || (F x).isNan then 0x7FC00000
      else if (F u).lt (F x) then u.toNat else if (F x).lt (F u) then x.toNat else if (F u).sgn then u.toNat else x.toNat := rfl
  rw [hdef, F_isNan, F_isNan]
  split
  · rfl
  · rename_i hn
    have hu : fpNan u = false := Bool.eq_false_iff.2 (fun h => hn (by rw [h, Bool.true_or]))
    rw [F_sgn hu, apply_ite w32, apply_ite w32, apply_ite w32, w32_toNat_self, w32_toNat_self]

/-! ## Scaling and classes (R154, R155) -/

theorem fnFscale_eq (m : Nat) (x y : Word) : fnFscale m x y = match F x with
    | .fin s n e => if n = 0 then x else rnd32 m (.fin s n (e + Sx y))
    | v => rnd32 0 v := by
  rw [fnFscale]
  cases F x <;> rfl

theorem bit_top (x : Word) : bit x 31 = x.msb := by
  rw [bit_eq_getLsbD, BitVec.msb_eq_getLsbD_last]

theorem fld_exponent (x : Word) : fld x 23 8 = fpMag x / 2 ^ 23 := by
  simp only [fld, fpMag]
  omega

theorem fld_fraction (x : Word) : fld x 0 23 = fpMag x % 2 ^ 23 := by
  simp only [fld, fpMag]
  omega

/-- R155: the bit that FCLASS sets. -/
def classBit (neg : Bool) (m : Nat) : Nat :=
  if m = 0x7F800000 then (if neg then 0 else 7)
  else if 0x7FC00000 ≤ m then 9 else if 0x7F800000 < m then 8
  else if m = 0 then (if neg then 3 else 4)
  else if m < 2 ^ 23 then (if neg then 2 else 5) else (if neg then 1 else 6)

/-- R155: the class by the exponent field, then by the fraction field, is the class by the ranges of the magnitude. -/
theorem classBit_fields {m : Nat} (h : m < 2 ^ 31) (s : Bool) : (if m / 2 ^ 23 = 255 then (if m % 2 ^ 23 = 0 then (if s then 0 else 7)
      else if 2 ^ 22 ≤ m % 2 ^ 23 then 9 else 8)
    else if m / 2 ^ 23 = 0 then (if m % 2 ^ 23 = 0 then (if s then 3 else 4) else if s then 2 else 5) else if s then 1 else 6) = classBit s m := by
  unfold classBit
  by_cases hspecial : 0x7F800000 ≤ m
  · rw [if_pos (show m / 2 ^ 23 = 255 by omega)]
    by_cases hinf : m = 0x7F800000
    · rw [if_pos (show m % 2 ^ 23 = 0 by omega), if_pos hinf]
    · rw [if_neg (show ¬m % 2 ^ 23 = 0 by omega), if_neg hinf]
      by_cases hquiet : 0x7FC00000 ≤ m
      · rw [if_pos (show 2 ^ 22 ≤ m % 2 ^ 23 by omega), if_pos hquiet]
      · rw [if_neg (show ¬2 ^ 22 ≤ m % 2 ^ 23 by omega), if_neg hquiet, if_pos (show 0x7F800000 < m by omega)]
  · rw [if_neg (show ¬m / 2 ^ 23 = 255 by omega), if_neg (show ¬m = 0x7F800000 by omega), if_neg (show ¬0x7FC00000 ≤ m by omega),
      if_neg (show ¬0x7F800000 < m by omega)]
    by_cases hsub : m < 2 ^ 23
    · rw [if_pos (show m / 2 ^ 23 = 0 by omega), if_pos hsub, Nat.mod_eq_of_lt hsub]
    · rw [if_neg (show ¬m / 2 ^ 23 = 0 by omega), if_neg hsub, if_neg (show ¬m = 0 by omega)]

theorem fnFclass_eq (x : Word) : fnFclass x = w32 (2 ^ classBit x.msb (fpMag x)) := by
  have hquiet : bit x 22 = decide (2 ^ 22 ≤ fpMag x % 2 ^ 23) := by
    rw [Bool.eq_iff_iff, decide_eq_true_iff]
    simp only [bit, fld, fpMag, beq_iff_eq]
    omega
  simp only [fnFclass, bit_top, fld_exponent, fld_fraction, hquiet, decide_eq_true_eq]
  exact congrArg (fun k => w32 (2 ^ k)) (classBit_fields (Nat.mod_lt _ (by decide)) x.msb)

/-! ## FFRACT (R154) -/

theorem w32_signed_zero (x : Word) : w32 (fp32.signed x.msb 0) = x &&& 0x80000000 := by
  have hand : (x &&& 0x80000000).toNat = x.msb.toNat * 2 ^ 31 := by
    rw [BitVec.toNat_and, BitVec.msb_eq_getLsbD_last, BitVec.getLsbD]
    exact Nat.and_two_pow x.toNat 31
  refine BitVec.eq_of_toNat_eq ?_
  rw [hand]
  cases x.msb <;> rfl

theorem FV.add_fin (m : Nat) (s r : Bool) (a b : Nat) (e g : Int) : ∃ t k h, (FV.fin s a e).add m (.fin r b g) = .fin t k h := by
  simp only [FV.add]
  split_ifs <;> exact ⟨_, _, _, rfl⟩

theorem FV.toInt_fin (m : Nat) (s : Bool) (n : Nat) (e : Int) : ∃ k g, (FV.fin s n e).toInt m = .fin s k g := by
  rw [FV.toInt]
  split <;> exact ⟨_, _, rfl⟩

/-- A finite value less its integer is a finite value. -/
theorem fraction_fin (m : Nat) (s : Bool) (n : Nat) (e : Int) :
    ∃ r k g, (FV.fin s n e).add 0 ((FV.fin s n e).toInt m).neg = .fin r k g := by
  obtain ⟨k, g, h⟩ := FV.toInt_fin m s n e
  rw [h]
  exact FV.add_fin ..

theorem F_fin_sign {x : Word} {s : Bool} {n : Nat} {e : Int} (h : F x = .fin s n e) : s = x.msb := by
  have hn : fpNan x = false := by rw [← F_isNan, h]; rfl
  rw [← F_sgn hn, h]
  rfl

theorem fnFfract_fin {m : Nat} {x : Word} {s r : Bool} {n k : Nat} {e g : Int} (h : F x = .fin s n e)
    (hd : (F x).add 0 ((F x).toInt m).neg = .fin r k g) : fnFfract m x = if k = 0 then x &&& 0x80000000
      else if rnd32 2 (.fin r k g) = rnd32 3 (.fin r k g) then rnd32 2 (.fin r k g) else Config.fractInexact m x := by
  rw [h] at hd
  simp only [fnFfract, h, hd]
  rw [F_fin_sign h, w32_signed_zero]

theorem fnFfract_special {m : Nat} {x : Word} (h : ∀ s n e, F x ≠ .fin s n e) : fnFfract m x = 0x7FC00000 := by
  unfold fnFfract
  split
  · rename_i hF; exact absurd hF (h _ _ _)
  · rfl

/-- R154: what FFRACT returns on a finite value: the fraction's zero, or the fraction where it is exact. -/
theorem fnFfract_cases {m : Nat} {x : Word} {s : Bool} {n : Nat} {e : Int} (h : F x = .fin s n e) :
    ∃ r k g, (F x).add 0 ((F x).toInt m).neg = .fin r k g ∧ (k = 0 → fnFfract m x = x &&& 0x80000000)
      ∧ (∀ y, k ≠ 0 → rnd32 2 (.fin r k g) = y → rnd32 3 (.fin r k g) = y → fnFfract m x = y) := by
  obtain ⟨r, k, g, hd⟩ := fraction_fin m s n e
  rw [← h] at hd
  have hfract := fnFfract_fin h hd
  refine ⟨r, k, g, hd, fun hk => hfract.trans (if_pos hk), fun y hk hup hdown => hfract.trans ?_⟩
  rw [if_neg hk, if_pos (hup.trans hdown.symm), hup]

/-! ## FDIV (R154) -/

theorem fdiv32_nan {m : Nat} {x y : FV} (h : x = .nan ∨ y = .nan) : fdiv32 m x y = 0x7FC00000 := by
  rcases h with rfl | rfl
  · rfl
  · cases x <;> rfl

theorem w32_inf (m : Nat) (s : Bool) : w32 (fp32.round m (.inf s)) = if s then 0xFF800000 else 0x7F800000 := by cases s <;> rfl

theorem ite_bne {α : Type} (s r : Bool) (a b : α) : (if (s != r) = true then a else b) = if s = r then b else a := by
  cases s <;> cases r <;> rfl

theorem fdiv32_inf_fin (m : Nat) (s r : Bool) (n : Nat) (g : Int) :
    fdiv32 m (.inf s) (.fin r n g) = if s = r then 0x7F800000 else 0xFF800000 := by
  rw [fdiv32, w32_inf, ite_bne]

theorem fdiv32_fin_inf (m : Nat) (s r : Bool) (n : Nat) (e : Int) :
    fdiv32 m (.fin s n e) (.inf r) = if s = r then 0 else 0x80000000 := by
  cases s <;> cases r <;> rfl

theorem fdiv32_fin {m : Nat} {s r : Bool} {n k : Nat} {e g : Int} : fdiv32 m (.fin s n e) (.fin r k g) =
    if k = 0 then (if n = 0 then 0x7FC00000 else if s = r then 0x7F800000 else 0xFF800000)
    else w32 (fp32.roundRat m (s != r) n k (e - g)) := by
  rw [fdiv32, w32_inf, ite_bne]
  rfl

/-! ## The modes (R150) -/

theorem roundQ_nearest (neg : Bool) (n d : Nat) :
    roundQ 0 neg n d = if 2 * (n % d) < d ∨ 2 * (n % d) = d ∧ n / d % 2 = 0 then n / d else n / d + 1 := by
  simp only [roundQ, Bool.or_eq_true, Bool.and_eq_true, decide_eq_true_eq, beq_iff_eq]
  generalize n / d = q
  generalize n % d = r
  split_ifs
  · omega
  · rfl
  · rfl
  · omega

theorem roundQ_truncate (neg : Bool) (n d : Nat) : roundQ 1 neg n d = n / d := rfl

theorem roundQ_up (neg : Bool) (n d : Nat) : roundQ 2 neg n d = if n % d = 0 ∨ neg = true then n / d else n / d + 1 := by
  cases neg <;> simp [roundQ]

theorem roundQ_down (neg : Bool) (n d : Nat) : roundQ 3 neg n d = if n % d = 0 ∨ neg = false then n / d else n / d + 1 := by
  cases neg <;> simp [roundQ]

end Sys2Proof.Machine
end

section
/-! The packed and the conversion instructions (R156 to R162): patterns fit their formats, each half on its own, one element of each
kind of conversion, the bytes of the FP8 formats. -/

namespace Sys2Proof.Machine

/-! ## Patterns fit their formats (R148) -/

/-- R148: the special patterns of a format fit its width. -/
structure Fmt.Fits (g : Fmt) : Prop where
  wide : 0 < g.w
  max : g.maxP < 2 ^ (g.w - 1)
  nan : g.nan < 2 ^ g.w
  inf : ∀ b ∈ g.inf, b < 2 ^ (g.w - 1)

theorem fits_bf16 : bf16.Fits := ⟨by decide, by decide, by decide, by decide⟩
theorem fits_fp16 : fp16.Fits := ⟨by decide, by decide, by decide, by decide⟩
theorem fits_e4m3 : e4m3.Fits := ⟨by decide, by decide, by decide, by decide⟩
theorem fits_e5m2 : e5m2.Fits := ⟨by decide, by decide, by decide, by decide⟩

section Fits
variable {g : Fmt} (h : g.Fits)
include h

theorem Fmt.Fits.signed_lt {b : Nat} (hb : b < 2 ^ (g.w - 1)) (s : Bool) : g.signed s b < 2 ^ g.w := by
  have hpow : 2 ^ g.w = 2 * 2 ^ (g.w - 1) := by rw [← pow_succ', Nat.sub_add_cancel h.wide]
  cases s <;> simp only [Fmt.signed, Bool.false_eq_true, if_false, if_true] <;> omega

theorem Fmt.Fits.infinity_lt (s : Bool) : (match g.inf with | some b => g.signed s b | none => g.nan) < 2 ^ g.w := by
  cases hi : g.inf with
  | none => exact h.nan
  | some b => exact h.signed_lt (h.inf b hi) s

theorem Fmt.Fits.over_lt (mode : Nat) (s : Bool) : g.over mode s < 2 ^ g.w := by
  have hcases : ∀ c : Bool, (if c then (match g.inf with | some b => g.signed s b | none => g.nan) else g.signed s g.maxP) < 2 ^ g.w := fun c => by
    cases c
    · exact h.signed_lt h.max s
    · exact h.infinity_lt s
  exact hcases _

theorem Fmt.Fits.round_lt (mode : Nat) (v : FV) : g.round mode v < 2 ^ g.w := by
  cases v with
  | nan => exact h.nan
  | inf s => exact h.infinity_lt s
  | fin s m e =>
    simp only [Fmt.round, Fmt.roundRat]
    split
    · exact h.over_lt mode s
    · rename_i hb
      exact h.signed_lt (Nat.lt_of_le_of_lt (Nat.not_lt.1 hb) h.max) s

theorem Fmt.Fits.minP_lt {x y : Nat} (hx : x < 2 ^ g.w) (hy : y < 2 ^ g.w) : g.minP x y < 2 ^ g.w := by
  have := h.nan
  simp only [Fmt.minP]
  split_ifs <;> assumption

theorem Fmt.Fits.maxV_lt {x y : Nat} (hx : x < 2 ^ g.w) (hy : y < 2 ^ g.w) : g.maxV x y < 2 ^ g.w := by
  have := h.nan
  simp only [Fmt.maxV]
  split_ifs <;> assumption

end Fits

/-! ## Halves (R156, R157) -/

/-- R156: the format of the halves that a literal names. -/
def halfFmt (l : Word) : Fmt := if l.getLsbD 2 then fp16 else bf16

theorem hFmt_eq (l : Word) : hFmt l = halfFmt l := by
  rw [hFmt, bit_eq_getLsbD]
  rfl

theorem hMode_eq (l : Word) : hMode l = l.toNat % 4 := fld_low l 2

theorem half_low (x : Word) : half x 0 = x.toNat % 2 ^ 16 := fld_low x 16

theorem half_high (x : Word) : half x 1 = x.toNat / 2 ^ 16 := fld_top x (show 16 + 16 = 32 from rfl)

theorem halfFmt_fits (l : Word) : (halfFmt l).Fits := by
  unfold halfFmt
  split
  · exact fits_fp16
  · exact fits_bf16

theorem halfFmt_w (l : Word) : (halfFmt l).w = 16 := by
  unfold halfFmt
  split <;> rfl

theorem packH_eq {a b : Nat} (ha : a < 2 ^ 16) (hb : b < 2 ^ 16) : packH a b = w32 (a + 2 ^ 16 * b) := by
  have ha' : a % 65536 = a := Nat.mod_eq_of_lt ha
  have hb' : b % 65536 = b := Nat.mod_eq_of_lt hb
  change _ = w32 (a + 65536 * b)
  rw [packH, ha', hb', Nat.mul_comm]

theorem halfFmt_round_lt (l : Word) (mode : Nat) (v : FV) : (halfFmt l).round mode v < 2 ^ 16 := by
  have h := (halfFmt_fits l).round_lt mode v
  rwa [halfFmt_w] at h

/-- R157: a result per half, each rounded once. -/
theorem perHalf_eq (l : Word) (g : FV → FV → FV → FV) (x y z : Word) : perHalf l g x y z =
    let r := fun (n : Word → Nat) => (halfFmt l).round (l.toNat % 4) (g ((halfFmt l).val (n x)) ((halfFmt l).val (n y)) ((halfFmt l).val (n z)))
    w32 (r (fun w => w.toNat % 2 ^ 16) + 2 ^ 16 * r (fun w => w.toNat / 2 ^ 16)) := by
  simp only [perHalf, half_low, half_high, hMode_eq, hFmt_eq]
  exact packH_eq (halfFmt_round_lt ..) (halfFmt_round_lt ..)

theorem perHalfP_eq {g : Fmt → Nat → Nat → Nat} {l : Word} (hg : ∀ a b, a < 2 ^ 16 → b < 2 ^ 16 → g (halfFmt l) a b < 2 ^ 16) (x y : Word) :
    perHalfP l g x y = w32 (g (halfFmt l) (x.toNat % 2 ^ 16) (y.toNat % 2 ^ 16)
      + 2 ^ 16 * g (halfFmt l) (x.toNat / 2 ^ 16) (y.toNat / 2 ^ 16)) := by
  have hx := x.isLt
  have hy := y.isLt
  simp only [perHalfP, half_low, half_high, hFmt_eq]
  exact packH_eq (hg _ _ (by omega) (by omega)) (hg _ _ (by omega) (by omega))

theorem hmin_eq (l x y : Word) : perHalfP l Fmt.minP x y = w32 ((halfFmt l).minP (x.toNat % 2 ^ 16) (y.toNat % 2 ^ 16)
    + 2 ^ 16 * (halfFmt l).minP (x.toNat / 2 ^ 16) (y.toNat / 2 ^ 16)) := by
  refine perHalfP_eq (fun a b ha hb => ?_) x y
  have h := (halfFmt_fits l).minP_lt (x := a) (y := b)
  rw [halfFmt_w] at h
  exact h ha hb

theorem hmax_eq (l x y : Word) : perHalfP l Fmt.maxV x y = w32 ((halfFmt l).maxV (x.toNat % 2 ^ 16) (y.toNat % 2 ^ 16)
    + 2 ^ 16 * (halfFmt l).maxV (x.toNat / 2 ^ 16) (y.toNat / 2 ^ 16)) := by
  refine perHalfP_eq (fun a b ha hb => ?_) x y
  have h := (halfFmt_fits l).maxV_lt (x := a) (y := b)
  rw [halfFmt_w] at h
  exact h ha hb

theorem negHalf_eq (g : Fmt) {a : Nat} (ha : a < 2 ^ 16) (b : Nat) :
    negHalf g a b = if (g.val a).isNan then g.nan else (a + 2 ^ 15) % 2 ^ 16 := by
  unfold negHalf
  split
  · rfl
  · split <;> omega

theorem hneg_eq (l x : Word) : perHalfP l negHalf x 0 =
    let r := fun (a : Nat) => if ((halfFmt l).val a).isNan then (halfFmt l).nan else (a + 2 ^ 15) % 2 ^ 16
    w32 (r (x.toNat % 2 ^ 16) + 2 ^ 16 * r (x.toNat / 2 ^ 16)) := by
  have hx := x.isLt
  have hnan := (halfFmt_fits l).nan
  rw [halfFmt_w] at hnan
  rw [perHalfP_eq, negHalf_eq _ (by omega), negHalf_eq _ (by omega)]
  intro a b ha _
  rw [negHalf_eq _ ha]
  split
  · exact hnan
  · exact Nat.mod_lt _ (by decide)

theorem fnHdot_eq (l x y z : Word) : fnHdot l x y z =
    let v := fun (w : Word) (h : Word → Nat) => (halfFmt l).val (h w)
    let lo := fun (w : Word) => w.toNat % 2 ^ 16
    let hi := fun (w : Word) => w.toNat / 2 ^ 16
    rnd32 (l.toNat % 4) (((F z).add (l.toNat % 4) ((v x lo).mul (v y lo))).add (l.toNat % 4) ((v x hi).mul (v y hi))) := by
  simp only [fnHdot, half_low, half_high, hMode_eq, hFmt_eq]

end Sys2Proof.Machine
end

section
/-! The conversions (R158 to R162): one element of each kind, the byte of CVTQ8 with its overflow choices, CVTE8 and BSCAL. -/

namespace Sys2Proof.Machine

/-! ## Element formats (R158) -/

/-- R158: the integer codes with their widths and signs, and the floating codes with their formats. -/
def intCodes : List (Nat × Nat × Bool) := [(0, 32, true), (1, 32, false), (2, 16, true), (3, 16, false), (4, 8, true), (5, 8, false), (6, 4, true)]
def floatCodes : List (Nat × Fmt) := [(7, fp32), (8, bf16), (9, fp16), (10, e4m3), (11, e5m2)]

/-- The low w bits of x as an integer, and the least and the greatest of such integers. -/
def intAt (w : Nat) (signed : Bool) (x : Nat) : Int :=
  if signed ∧ 2 ^ (w - 1) ≤ x % 2 ^ w then ((x % 2 ^ w : Nat) : Int) - 2 ^ w else ((x % 2 ^ w : Nat) : Int)
def leastInt (w : Nat) (signed : Bool) : Int := if signed then -(2 ^ (w - 1) : Int) else 0
def mostInt (w : Nat) (signed : Bool) : Int := if signed then (2 ^ (w - 1) : Int) - 1 else (2 ^ w : Int) - 1

theorem intCodes_facts : ∀ p ∈ intCodes, cvtFmt p.1 = none ∧ cvtWidth p.1 = p.2.1 ∧ cvtSigned p.1 = p.2.2
    ∧ cvtRange p.1 = (leastInt p.2.1 p.2.2, mostInt p.2.1 p.2.2) := by decide

theorem floatCodes_facts : ∀ g ∈ floatCodes, cvtFmt g.1 = some g.2 ∧ (g.2.inf = none ↔ g.2 = e4m3) ∧ g.2.maxP / 2 ^ g.2.t ≤ 4096 := by decide

theorem sxN_eq (w x : Nat) : sxN w x = intAt w true x := by
  rw [sxN, intAt]
  push_cast
  simp only [true_and]

theorem cvtIntIn_eq {p : Nat × Nat × Bool} (hp : p ∈ intCodes) (x : Nat) : cvtIntIn p.1 x = intAt p.2.1 p.2.2 x := by
  obtain ⟨-, hw, hs, -⟩ := intCodes_facts p hp
  rw [cvtIntIn, hw, hs, sxN_eq]
  cases p.2.2 <;> simp [intAt]

/-! ## Into an integer (R159) -/

theorem intAt_unsigned_emod (w : Nat) (n : Int) : intAt w false (n % (2 ^ w : Int)).toNat = n % (2 ^ w : Int) := by
  have hcast := emod_toNat_cast (2 ^ w) n
  push_cast at hcast
  rw [intAt, if_neg (by simp), Int.natCast_emod, hcast]
  push_cast
  exact Int.emod_emod ..

theorem cvtElem_int_int {p q : Nat × Nat × Bool} (hp : p ∈ intCodes) (hq : q ∈ intCodes) (m x : Nat) (sat : Bool) :
    cvtElem p.1 q.1 m sat x = if sat then min (max (intAt p.2.1 p.2.2 x) (leastInt q.2.1 q.2.2)) (mostInt q.2.1 q.2.2)
      else intAt q.2.1 q.2.2 (intAt p.2.1 p.2.2 x % (2 ^ q.2.1 : Int)).toNat := by
  obtain ⟨hpf, -, -, -⟩ := intCodes_facts p hp
  obtain ⟨hqf, hqw, hqs, hqr⟩ := intCodes_facts q hq
  simp only [cvtElem, hpf, hqf, hqr, hqs, hqw, cvtIntIn_eq hp, sxN_eq, Nat.cast_pow, Nat.cast_ofNat]
  congr 1
  cases hs : q.2.2
  · exact (intAt_unsigned_emod ..).symm
  · rfl

/-- A finite value of a format rounded to an integer (R150, R159). -/
theorem toInt_int {s : Bool} {n : Nat} {e : Int} (he : e ≤ 4096) (m : Nat) : ((FV.fin s n e).toInt m).int =
    let a : Nat := if 0 ≤ e then n * 2 ^ e.toNat else roundQ m s n (2 ^ (-e).toNat)
    if s then -(a : Int) else a := by
  simp only [FV.toInt]
  split
  · rename_i h
    simp only [FV.int, if_pos h, Int.min_eq_left he]
  · simp [FV.int]

theorem cvtElem_float_int {g : Nat × Fmt} {q : Nat × Nat × Bool} (hg : g ∈ floatCodes) (hq : q ∈ intCodes) (m x : Nat) (sat : Bool) :
    cvtElem g.1 q.1 m sat x = match g.2.val (x % 2 ^ g.2.w) with
    | .nan => 0
    | .inf s => if s then leastInt q.2.1 q.2.2 else mostInt q.2.1 q.2.2
    | .fin s n e =>
      let a : Nat := if 0 ≤ e then n * 2 ^ e.toNat else roundQ m s n (2 ^ (-e).toNat)
      min (max (if s then -(a : Int) else a) (leastInt q.2.1 q.2.2)) (mostInt q.2.1 q.2.2) := by
  obtain ⟨hgf, -, hexp⟩ := floatCodes_facts g hg
  obtain ⟨hqf, -, -, hqr⟩ := intCodes_facts q hq
  simp only [cvtElem, hgf, hqf, hqr]
  cases hv : g.2.val (x % 2 ^ g.2.w) with
  | nan => rfl
  | inf s => rfl
  | fin s n e =>
    obtain ⟨-, -, htop⟩ := Fmt.val_fin hv
    simp only [toInt_int (show e ≤ 4096 by omega)]

/-! ## Into a floating format (R150, R159) -/

/-- R159: a value rounded into a format, an overflow saturated where the literal says so. -/
def roundInto (g : Fmt) (m : Nat) (sat : Bool) (v : FV) : Int :=
  match v with
  | .inf s => if sat ∧ g = e4m3 then g.signed s g.maxP else g.round m v
  | .fin s n e =>
    let c := clampExp n e
    if sat ∧ g.maxP < g.roundMag m s c.1 1 c.2 then g.signed s g.maxP else g.round m v
  | .nan => g.nan

theorem cvtToFloat_eq {g : Fmt} (hinf : g.inf = none ↔ g = e4m3) (v : FV) (m : Nat) (sat : Bool) :
    (cvtToFloat g v m sat : Int) = roundInto g m sat v := by
  cases v with
  | nan => rfl
  | inf s =>
    simp only [cvtToFloat, roundInto, Fmt.round, ← hinf]
    cases g.inf with
    | some b => simp only [reduceCtorEq, and_false, if_false]
    | none => simp only [and_true, Nat.cast_ite]
  | fin s n e =>
    simp only [cvtToFloat, roundInto, Fmt.round, Fmt.roundRat]
    by_cases hover : g.maxP < g.roundMag m s (clampExp n e).1 1 (clampExp n e).2
    · simp only [hover, if_true, and_true, Nat.cast_ite]
    · simp only [hover, if_false, and_false]

theorem cvtElem_int_float {p : Nat × Nat × Bool} {h : Nat × Fmt} (hp : p ∈ intCodes) (hh : h ∈ floatCodes) (m x : Nat) (sat : Bool) :
    cvtElem p.1 h.1 m sat x = roundInto h.2 m sat (FV.ofInt (intAt p.2.1 p.2.2 x)) := by
  obtain ⟨hpf, -, -, -⟩ := intCodes_facts p hp
  obtain ⟨hhf, hinf, -⟩ := floatCodes_facts h hh
  simp only [cvtElem, hpf, hhf, cvtIntIn_eq hp, cvtToFloat_eq hinf]

theorem cvtElem_float_float {g h : Nat × Fmt} (hg : g ∈ floatCodes) (hh : h ∈ floatCodes) (m x : Nat) (sat : Bool) :
    cvtElem g.1 h.1 m sat x = roundInto h.2 m sat (g.2.val (x % 2 ^ g.2.w)) := by
  obtain ⟨hgf, -, -⟩ := floatCodes_facts g hg
  obtain ⟨hhf, hinf, -⟩ := floatCodes_facts h hh
  simp only [cvtElem, hgf, hhf, cvtToFloat_eq hinf]

/-! ## CVT (R158, R159) -/

theorem fnCvt_eq (l x : Word) : fnCvt l x = wrap32 (cvtElem (l.toNat % 16) (l.toNat / 16 % 16) (l.toNat / 256 % 4) (l.getLsbD 10)
    (Zx x / 2 ^ (cvtWidth (l.toNat % 16) * (l.toNat / 2048 % 8)))) := by
  rw [fnCvt, bit_eq_getLsbD, fld_low]
  rfl

/-! ## The FP8 formats (R160, R161) -/

/-- R160, R161: the FP8 format that a literal names. -/
def fp8Fmt (l : Word) : Fmt := if l.getLsbD 0 then e5m2 else e4m3

theorem fp8_eq (l : Word) : fp8 l = fp8Fmt l := by
  rw [fp8, bit_eq_getLsbD]
  rfl

theorem fp8Fmt_fits (l : Word) : (fp8Fmt l).Fits := by
  unfold fp8Fmt
  split
  · exact fits_e5m2
  · exact fits_e4m3

theorem fp8Fmt_w (l : Word) : (fp8Fmt l).w = 8 := by
  unfold fp8Fmt
  split <;> rfl

/-- R160: the product is no finite value, or rounds beyond the format. -/
def cvtq8Bad (g : Fmt) (m : Nat) (v : FV) : Bool :=
  match v with
  | .nan => true
  | .inf _ => true
  | .fin s n e => let c := clampExp n e; decide (g.maxP < g.roundMag m s c.1 1 c.2)

/-- R160: the byte of the product v under the overflow choice ovf. -/
def cvtq8Put (g : Fmt) (m ovf : Nat) (v : FV) : Nat :=
  match v with
  | .nan => g.nan
  | .inf s => if ovf = 0 then g.signed s g.maxP else g.round m v
  | .fin s _ _ => if cvtq8Bad g m v ∧ ovf = 0 then g.signed s g.maxP else g.round m v

theorem cvtq8Put_lt {g : Fmt} (h : g.Fits) (m ovf : Nat) (v : FV) : cvtq8Put g m ovf v < 2 ^ g.w := by
  cases v with
  | nan => exact h.nan
  | inf s =>
    simp only [cvtq8Put]
    split
    · exact h.signed_lt h.max s
    · exact h.round_lt ..
  | fin s n e =>
    simp only [cvtq8Put]
    split
    · exact h.signed_lt h.max s
    · exact h.round_lt ..

theorem cvtq8Byte_eq (l x y : Word) : cvtq8Byte l x y =
    if cvtq8Bad (fp8Fmt l) (l.toNat / 8 % 4) ((F x).mul (F y)) ∧ l.toNat / 2 % 4 = 2 then none
    else some (cvtq8Put (fp8Fmt l) (l.toNat / 8 % 4) (l.toNat / 2 % 4) ((F x).mul (F y))) := by
  have hm : fld l 3 2 = l.toNat / 8 % 4 := rfl
  have ho : fld l 1 2 = l.toNat / 2 % 4 := rfl
  rw [cvtq8Byte, fp8_eq, hm, ho]
  generalize fp8Fmt l = g
  generalize l.toNat / 8 % 4 = m
  generalize l.toNat / 2 % 4 = ovf
  cases (F x).mul (F y) with
  | nan => simp [cvtq8Bad, cvtq8Put]
  | inf s =>
    simp only [cvtq8Bad, cvtq8Put, true_and]
    split_ifs <;> rfl
  | fin s n e =>
    simp only [cvtq8Bad, cvtq8Put, Fmt.round, Fmt.roundRat, decide_eq_true_eq]
    split_ifs <;> simp_all

theorem setByte_eq {b : Nat} (hb : b < 256) (z : Word) (k : Nat) :
    setByte z k b = (z &&& ~~~(w32 (255 * 256 ^ k))) ||| w32 (b * 256 ^ k) := by
  have hpow : 2 ^ (8 * k) = 256 ^ k := by rw [pow_mul]; rfl
  rw [setByte, hpow, Nat.mod_eq_of_lt hb]

theorem fnCvtq8_eq (l : Word) (x y z : PWord) : fnCvtq8 l x y z =
    let k := l.toNat / 32 % 4
    let put := fun (b : Nat) => (z.w &&& ~~~(w32 (255 * 256 ^ k))) ||| w32 (b * 256 ^ k)
    let v := (F x.w).mul (F y.w)
    if cvtq8Bad (fp8Fmt l) (l.toNat / 8 % 4) v ∧ l.toNat / 2 % 4 = 2 then ⟨put 0, true⟩
    else ⟨put (cvtq8Put (fp8Fmt l) (l.toNat / 8 % 4) (l.toNat / 2 % 4) v), x.pois || y.pois || z.pois⟩ := by
  have hk : fld l 5 2 = l.toNat / 32 % 4 := rfl
  have hput := cvtq8Put_lt (fp8Fmt_fits l) (l.toNat / 8 % 4) (l.toNat / 2 % 4) ((F x.w).mul (F y.w))
  rw [fp8Fmt_w] at hput
  simp only [fnCvtq8, cvtq8Byte_eq, hk]
  by_cases hbad : cvtq8Bad (fp8Fmt l) (l.toNat / 8 % 4) ((F x.w).mul (F y.w)) = true ∧ l.toNat / 2 % 4 = 2
  · simp only [if_pos hbad, setByte_eq (show 0 < 256 by decide)]
  · simp only [if_neg hbad, setByte_eq hput]

theorem fnCvte8_eq (l x y : Word) : fnCvte8 l x y =
    rnd32 (l.toNat / 8 % 4) (((fp8Fmt l).val (Zx x / 256 ^ (l.toNat / 2 % 4) % 256)).mul (F y)) := by
  rw [fnCvte8, fp8_eq, fld_byte]
  rfl

theorem fnBscal_eq (l x : Word) : fnBscal l x = match F x with
    | .fin _ m e =>
      if m = 0 then 0x3F800000 else
      let k := min (max ((if l.getLsbD 0 then 15 else 8) - (e + (Nat.log2 m : Int)) - (l.toNat / 2 % 4 : Nat)) (-126)) 127
      rnd32 0 (.fin false 1 (if l.getLsbD 3 then -k else k))
    | _ => 0x7FC00000 := by
  have hf : fld l 1 2 = l.toNat / 2 % 4 := rfl
  rw [fnBscal, emax, bit_eq_getLsbD, bit_eq_getLsbD, hf]
  rfl

/-- Settles O12: each instruction takes its function lane by lane; what each function's value is, the lemmas above. -/
theorem floatInstructionResults : Obligations.FloatInstructionResults := by
  refine ⟨⟨?fadd, ?fsub, ?fmul, ?fma, ?fms, ?fnma, ?fmin, ?fmax, ?fabs, ?fneg, ?fcpys, ?frint, ?fscale, ?fclass, ?fdiv, ?ffract,
      fun m x s n e h => fnFfract_cases h, fun m x h => fnFfract_special h, fun m x y => ?quotient, fun neg n d _ => ?modes⟩,
    ⟨?hadd, ?hsub, ?hmul, ?hfma, ?hmin, ?hmax, ?hdot, ?hneg⟩, ?cvt, fun m x sat => ⟨?intInt, ?intFloat, ?floatFloat, ?floatInt⟩,
    ?cvtq8, ?cvte8, ?bscal⟩
  case fadd | fsub | fmul => exact actsAs_lanes2 (fun _ _ => rfl) (fun f x y => by rw [modeOf_eq]; rfl)
  case fma | fms | fnma => exact actsAs_lanes3 (fun _ _ => rfl) (fun f x y z => by rw [modeOf_eq]; rfl)
  case fmin => exact actsAs_alu2 (fun _ _ => rfl) (fun _ => w32_minP)
  case fmax => exact actsAs_alu2 (fun _ _ => rfl) (fun _ => w32_maxV)
  case fabs => exact actsAs_alu1 (fun _ _ => rfl) (fun _ => fnFabs_eq)
  case fneg => exact actsAs_alu1 (fun _ _ => rfl) (fun _ => fnFneg_eq)
  case fcpys => exact actsAs_alu2 (fun _ _ => rfl) (fun _ => fnFcpys_eq)
  case frint => exact actsAs_lanes1 (fun _ _ => rfl) (fun f x => by rw [modeOf_eq]; rfl)
  case ffract => exact actsAs_lanes1 (fun _ _ => rfl) (fun f x => congrArg (fnFfract · x) (modeOf_eq f))
  case fscale => exact actsAs_lanes2 (fun _ _ => rfl) (fun f x y => by rw [modeOf_eq]; exact fnFscale_eq ..)
  case fclass => exact actsAs_alu1 (fun _ _ => rfl) (fun _ => fnFclass_eq)
  case fdiv => exact actsAs_lanes2 (fun _ _ => rfl) (fun f x y => by rw [modeOf_eq]; rfl)
  case quotient =>
    refine ⟨fdiv32_nan, ?_, ?_, ?_, ?_⟩
    · rintro s r rfl rfl; rfl
    · rintro s r n g rfl rfl; exact fdiv32_inf_fin ..
    · rintro s n e r rfl rfl; exact fdiv32_fin_inf ..
    · rintro s n e r k g rfl rfl
      rw [fdiv32_fin]
      exact ⟨fun hk hn => by rw [if_pos hk, if_pos hn], fun hk hn => by rw [if_pos hk, if_neg hn], fun hk => if_neg hk⟩
  case modes => exact ⟨rfl, roundQ_up neg n d, roundQ_down neg n d, roundQ_nearest neg n d⟩
  case hmul => exact actsAs_lanes2 (fun _ _ => rfl) (fun f x y => perHalf_eq ..)
  case hadd | hsub => exact actsAs_lanes2 (fun _ _ => rfl) (fun f x y => by rw [hMode_eq]; exact perHalf_eq ..)
  case hfma => exact actsAs_lanes3 (fun _ _ => rfl) (fun f x y z => by rw [hMode_eq]; exact perHalf_eq ..)
  case hmin => exact actsAs_lanes2 (fun _ _ => rfl) (fun f => hmin_eq f.lit)
  case hmax => exact actsAs_lanes2 (fun _ _ => rfl) (fun f => hmax_eq f.lit)
  case hdot => exact actsAs_lanes3 (fun _ _ => rfl) (fun f => fnHdot_eq f.lit)
  case hneg => exact actsAs_lanes1 (fun _ _ => rfl) (fun f => hneg_eq f.lit)
  case cvt => exact actsAs_lanes1 (fun _ _ => rfl) (fun f => fnCvt_eq f.lit)
  case intInt => exact fun p hp q hq => cvtElem_int_int hp hq m x sat
  case intFloat => exact fun p hp h hh => cvtElem_int_float hp hh m x sat
  case floatFloat => exact fun g hg h hh => cvtElem_float_float hg hh m x sat
  case floatInt =>
    rintro g hg q hq v rfl
    have hconv := cvtElem_float_int hg hq m x sat
    exact ⟨fun hv => by rw [hconv, hv], fun s hv => by rw [hconv, hv]; rfl, fun s n e hv => by rw [hconv, hv]; rfl⟩
  case cvtq8 => exact actsAs_aluP3 (fun _ _ => rfl) (fun t f l => fnCvtq8_eq f.lit (t.aW f l) (t.bW f l) (t.zW l))
  case cvte8 => exact actsAs_lanes2 (fun _ _ => rfl) (fun f => fnCvte8_eq f.lit)
  case bscal => exact actsAs_lanes1 (fun _ _ => rfl) (fun f => fnBscal_eq f.lit)

end Sys2Proof.Machine
end

section
/-! Accumulator entries (R181 to R183): what adding a block leaves of an entry, by whether its bound stays within the fold limit,
and that its triple is exact within the bound. -/

namespace Sys2Proof.Machine

/-! ## Bounds and triples -/

/-- R182: a bound of more than lam bits. -/
theorem lt_bitLen (lam n : Nat) : lam < bitLen n ↔ 2 ^ lam ≤ n := by
  unfold bitLen
  split
  · next h => simp [h]
  · next h => rw [Nat.lt_succ_iff, Nat.le_log2 h]

/-- R163, R166: a canonical triple is the triple of the number it stands for. -/
theorem Tri.ofInt_int {t : Tri} (h0 : t.c0 < 65536) (h1 : t.c1 < 65535) (h2 : t.c2 < 65537) : Tri.ofInt t.int = t := by
  have hX : Tri.ofInt (crtX t.c0 t.c1 t.c2 : Nat) = t :=
    Tri.mk.injEq .. |>.mpr ⟨crtX_mod0 _ _ h0, crtX_mod1 _ h1, crtX_mod2 _ h0 h2⟩
  refine Eq.trans ((Tri.ofInt_eq_iff _ _).2 ?_) hX
  rw [Tri.int, crtDecode, rnsM]
  split <;> omega

/-- A triple stands for every number that a bound of 46 bits allows (R181). -/
theorem Tri.int_ofInt_of_bound {n : Int} {u : Nat} (hn : n.natAbs ≤ u) (hu : u < 2 ^ 46) : (Tri.ofInt n).int = n :=
  Tri.int_ofInt (by omega) (by omega)

/-- R182: the bound of the sum that an entry takes. -/
theorem natAbs_scaled_add_le {S : Int} {u : Nat} (h : S.natAbs ≤ u) (P : Int) (d s : Nat) :
    (S * 2 ^ d + P * 2 ^ s).natAbs ≤ u * 2 ^ d + P.natAbs * 2 ^ s := by
  have hpow : ∀ (n : Int) (k : Nat), (n * 2 ^ k).natAbs = n.natAbs * 2 ^ k := fun n k => by rw [Int.natAbs_mul, Int.natAbs_pow]; rfl
  calc (S * 2 ^ d + P * 2 ^ s).natAbs ≤ (S * 2 ^ d).natAbs + (P * 2 ^ s).natAbs := Int.natAbs_add_le _ _
    _ = S.natAbs * 2 ^ d + P.natAbs * 2 ^ s := by rw [hpow, hpow]
    _ ≤ u * 2 ^ d + P.natAbs * 2 ^ s := Nat.add_le_add_right (Nat.mul_le_mul_right _ h) _

/-! ## Entries -/

/-- An entry that R181 allows: its triple is canonical and stands for at most U, which has 46 bits. -/
structure AccEnt.Sound (a : AccEnt) : Prop where
  c0 : a.c0 < 65536
  c1 : a.c1 < 65535
  c2 : a.c2 < 65537
  bound : a.tri.int.natAbs ≤ a.u
  small : a.u < 2 ^ 46

theorem AccEnt.Sound.tri_ofInt {a : AccEnt} (h : a.Sound) : a.tri = Tri.ofInt a.tri.int := (Tri.ofInt_int h.c0 h.c1 h.c2).symm

theorem AccEnt.tri_setTri (a : AccEnt) (t : Tri) : (a.setTri t).tri = t := rfl

section AddBlock
variable {a : AccEnt} {lam : Nat} {P eP : Int}

theorem AccEnt.start_int (hP : P.natAbs ≤ 2 ^ 33) (b : AccEnt) (eP : Int) : (b.start P eP).tri.int = P :=
  Tri.int_ofInt_of_bound hP (by decide)

/-- R182: the sum that the entry holds stays exact while its bound has 46 bits. -/
theorem AccEnt.Sound.sum_int (h : a.Sound) {d s : Nat} (hu : a.u * 2 ^ d + P.natAbs * 2 ^ s < 2 ^ 46) :
    ((a.tri.mul (Tri.ofInt (2 ^ d))).add ((Tri.ofInt P).mul (Tri.ofInt (2 ^ s)))).int = a.tri.int * 2 ^ d + P * 2 ^ s := by
  conv => lhs; rw [h.tri_ofInt]
  rw [Tri.ofInt_mul, Tri.ofInt_mul, Tri.ofInt_add]
  exact Tri.int_ofInt_of_bound (natAbs_scaled_add_le h.bound P d s) hu

theorem AccEnt.addBlock_none (a : AccEnt) (lam : Nat) (pinned : Bool) (eP : Int) (integer : Bool) :
    a.addBlock lam pinned 0 eP integer = (a, false) := if_pos rfl

theorem AccEnt.addBlock_pinned (hP : P ≠ 0) (integer : Bool) : a.addBlock lam true P eP integer = a.addPinned lam P eP :=
  (if_neg hP).trans (if_pos rfl)

theorem AccEnt.addBlock_start (hP : P ≠ 0) (hu : a.u = 0) (integer : Bool) :
    a.addBlock lam false P eP integer = (a.start P eP, false) :=
  (if_neg hP).trans (if_pos hu)

theorem AccEnt.addBlock_over (hP : P ≠ 0) (hu : a.u ≠ 0)
    (h : 2 ^ lam ≤ a.u * 2 ^ (a.beta - eP).toNat + P.natAbs * 2 ^ (eP - a.beta).toNat) (integer : Bool) :
    a.addBlock lam false P eP integer = if integer then ({ a with pois := true }, true) else (a.fold.start P eP, false) :=
  (if_neg hP).trans ((if_neg hu).trans (if_pos ((lt_bitLen ..).2 h)))

theorem AccEnt.addBlock_within (hP : P ≠ 0) (hu : a.u ≠ 0)
    (h : a.u * 2 ^ (a.beta - eP).toNat + P.natAbs * 2 ^ (eP - a.beta).toNat < 2 ^ lam) (integer : Bool) :
    a.addBlock lam false P eP integer =
      ({ a.setTri ((a.tri.mul (Tri.ofInt (2 ^ (a.beta - eP).toNat))).add ((Tri.ofInt P).mul (Tri.ofInt (2 ^ (eP - a.beta).toNat)))) with
          beta := min a.beta eP, u := a.u * 2 ^ (a.beta - eP).toNat + P.natAbs * 2 ^ (eP - a.beta).toNat }, false) :=
  (if_neg hP).trans ((if_neg hu).trans (if_neg (fun hl => Nat.not_le.2 h ((lt_bitLen ..).1 hl))))

/-- R182: U bounds what the triple stands for, before and after a block. -/
theorem AccEnt.Sound.addBlock_bound (h : a.Sound) (hlam : lam ≤ 46) (hP : P.natAbs ≤ 2 ^ 33) (eP : Int) :
    (a.addBlock lam false P eP false).1.tri.int.natAbs ≤ (a.addBlock lam false P eP false).1.u := by
  by_cases hP0 : P = 0
  · subst hP0
    rw [addBlock_none]
    exact h.bound
  by_cases hu : a.u = 0
  · rw [addBlock_start hP0 hu, start_int hP]
    exact le_rfl
  rcases Nat.lt_or_ge (a.u * 2 ^ (a.beta - eP).toNat + P.natAbs * 2 ^ (eP - a.beta).toNat) (2 ^ lam) with hin | hover
  · rw [addBlock_within hP0 hu hin]
    refine le_trans (le_of_eq (congrArg Int.natAbs (h.sum_int ?_))) (natAbs_scaled_add_le h.bound P _ _)
    exact hin.trans_le (Nat.pow_le_pow_right (by decide) hlam)
  · rw [addBlock_over hP0 hu hover]
    exact le_of_eq (congrArg Int.natAbs (start_int hP ..))

/-! ## Pinned rows (R183) -/

/-- R183: the block on the base of its row, rounded where it lies below. -/
def AccEnt.onBase (a : AccEnt) (P eP : Int) : Int := if eP < a.beta then rneShift (decide (P < 0)) P.natAbs (eP - a.beta) else P

theorem AccEnt.onBase_exact (P : Int) (h : a.beta ≤ eP) : a.onBase P eP = P := if_neg (Int.not_lt.2 h)

theorem AccEnt.addPinned_none (h : a.onBase P eP = 0) : a.addPinned lam P eP = (a, false) := if_pos h

theorem AccEnt.addPinned_over (hq : a.onBase P eP ≠ 0) (h : 2 ^ lam ≤ a.u + (a.onBase P eP).natAbs * 2 ^ (eP - a.beta).toNat) :
    a.addPinned lam P eP = ({ a with pois := true }, true) :=
  (if_neg hq).trans (if_pos ((lt_bitLen ..).2 h))

theorem AccEnt.addPinned_within (hq : a.onBase P eP ≠ 0) (h : a.u + (a.onBase P eP).natAbs * 2 ^ (eP - a.beta).toNat < 2 ^ lam) :
    a.addPinned lam P eP =
      ({ a.setTri (a.tri.add ((Tri.ofInt (a.onBase P eP)).mul (Tri.ofInt (2 ^ (eP - a.beta).toNat)))) with
          u := a.u + (a.onBase P eP).natAbs * 2 ^ (eP - a.beta).toNat }, false) :=
  (if_neg hq).trans (if_neg (fun hl => Nat.not_le.2 h ((lt_bitLen ..).1 hl)))

theorem AccEnt.Sound.pinned_int (h : a.Sound) {q : Int} {s : Nat} (hu : a.u + q.natAbs * 2 ^ s < 2 ^ 46) :
    (a.tri.add ((Tri.ofInt q).mul (Tri.ofInt (2 ^ s)))).int = a.tri.int + q * 2 ^ s := by
  conv => lhs; rw [h.tri_ofInt]
  rw [Tri.ofInt_mul, Tri.ofInt_add]
  refine Tri.int_ofInt_of_bound ?_ hu
  simpa using natAbs_scaled_add_le h.bound q 0 s

/-- R183: a pinned row keeps its base and its fold register, and U bounds its triple. -/
theorem AccEnt.Sound.addPinned_keeps (h : a.Sound) (hlam : lam ≤ 46) (P eP : Int) :
    (a.addPinned lam P eP).1.beta = a.beta ∧ (a.addPinned lam P eP).1.f = a.f
      ∧ (a.addPinned lam P eP).1.tri.int.natAbs ≤ (a.addPinned lam P eP).1.u := by
  by_cases hq : a.onBase P eP = 0
  · rw [addPinned_none hq]
    exact ⟨rfl, rfl, h.bound⟩
  rcases Nat.lt_or_ge (a.u + (a.onBase P eP).natAbs * 2 ^ (eP - a.beta).toNat) (2 ^ lam) with hin | hover
  · rw [addPinned_within hq hin]
    have hint := h.pinned_int (hin.trans_le (Nat.pow_le_pow_right (by decide) hlam))
    refine ⟨rfl, rfl, le_trans (le_of_eq (congrArg Int.natAbs hint)) ?_⟩
    simpa using natAbs_scaled_add_le h.bound (a.onBase P eP) 0 (eP - a.beta).toNat
  · rw [addPinned_over hq hover]
    exact ⟨rfl, rfl, h.bound⟩

/-- R183: a block at or above the base of its row is added exactly. -/
theorem AccEnt.Sound.addPinned_int (h : a.Sound) (hlam : lam ≤ 46) (he : a.beta ≤ eP)
    (hin : a.u + P.natAbs * 2 ^ (eP - a.beta).toNat < 2 ^ lam) :
    (a.addPinned lam P eP).1.tri.int = a.tri.int + P * 2 ^ (eP - a.beta).toNat := by
  have hbase := onBase_exact (a := a) P he
  by_cases hP : P = 0
  · rw [addPinned_none (hbase.trans hP), hP, zero_mul, add_zero]
  · rw [addPinned_within (by rwa [hbase]) (by rwa [hbase]), hbase]
    exact h.pinned_int (hin.trans_le (Nat.pow_le_pow_right (by decide) hlam))

end AddBlock

/-- Settles O37: a block by whether the entry starts, holds it within the limit or folds; a pinned row likewise on its base. -/
theorem accumulatorAddsExactly : Obligations.AccumulatorAddsExactly := by
  intro a lam P eP hlam hP hbound hsmall h0 h1 h2 n p
  have ha : a.Sound := ⟨h0, h1, h2, hbound, hsmall⟩
  refine ⟨ha.addBlock_bound hlam hP eP, fun hP0 hu => ?added, ?pinned⟩
  case added =>
    intro s d u
    refine ⟨fun hin => ?_, fun hover => ?_, fun hover => AccEnt.addBlock_over hP0 hu hover true⟩
    · have hn : n = _ := AccEnt.addBlock_within hP0 hu hin false
      rw [hn]
      exact ⟨rfl, rfl, rfl, rfl, ha.sum_int (hin.trans_le (Nat.pow_le_pow_right (by decide) hlam))⟩
    · have hn : n = _ := AccEnt.addBlock_over hP0 hu hover false
      rw [hn]
      exact ⟨rfl, rfl, rfl, AccEnt.start_int hP .., rfl, rfl⟩
  case pinned =>
    by_cases hP0 : P = 0
    · have hp : p = (a, false) := by rw [show p = a.addBlock lam true P eP false from rfl, hP0, AccEnt.addBlock_none]
      rw [hp, hP0, zero_mul, add_zero]
      exact ⟨rfl, rfl, ha.bound, fun _ _ => rfl⟩
    · have hp : p = a.addPinned lam P eP := AccEnt.addBlock_pinned hP0 false
      rw [hp]
      obtain ⟨hbeta, hf, hle⟩ := ha.addPinned_keeps hlam P eP
      exact ⟨hbeta, hf, hle, ha.addPinned_int hlam⟩

end Sys2Proof.Machine
end

section
/-! Matrix instructions (R185, R189, R192): what each of the group uses of its operands, the checks of issue, and what queueing,
refusing and reading an entry leave. -/

namespace Sys2Proof.Machine

/-! ## What an instruction of the group uses (R192) -/

/-- An instruction that is queued: its opcode and name, whether it uses A and B, its row count where it uses rows, its limit of A. -/
abbrev MxOp := Nat × (Fields → Instr) × Bool × Bool × Option Nat × Bool

abbrev MxOp.opc (o : MxOp) : Nat := o.1
abbrev MxOp.mk (o : MxOp) : Fields → Instr := o.2.1
abbrev MxOp.usesA (o : MxOp) : Bool := o.2.2.1
abbrev MxOp.usesB (o : MxOp) : Bool := o.2.2.2.1
abbrev MxOp.nr (o : MxOp) : Option Nat := o.2.2.2.2.1
abbrev MxOp.limit (o : MxOp) : Bool := o.2.2.2.2.2

/-- R192, R194 to R201: the queued instructions, by the form that the literal picks. -/
def mxOps (f : Fields) (A B : PWord) : List MxOp :=
  let kind := fld f.lit 9 2
  let low := fld B.w 0 10
  [(0xD0, .mload, true, decide (fld f.lit 0 3 < 5), none, true), (0xD1, .mma, true, true, some low, true),
   (0xD2, .mmas, true, true, some low, true), (0xD3, .mlut, true, true, some low, true),
   (0xD4, .munf, true, true, some low, true), (0xD5, .mdrn, true, true, some low, true),
   (0xD6, .mzero, false, true, some low, true),
   (0xD7, .mscl, kind != 3, kind == 0 || kind == 3,
     (if kind = 0 then some low else if kind = 3 then some (fld B.w 8 10) else none), true),
   (0xD9, .mfold, false, true, some low, true)]
  ++ (if kind = 3 then [] else
    [(0xD8, .mbnd, kind != 1, decide (kind ≤ 1), (if kind ≤ 1 then some low else none),
      if kind = 0 then decide (-512 ≤ A.w.toInt ∧ A.w.toInt ≤ 511) else if kind = 2 then decide (34 ≤ A.w.toNat ∧ A.w.toNat ≤ 46)
      else true)])

/-- The model's checks of issue read such an instruction alike. -/
structure MxMeans (f : Fields) (a b : Word) (o : MxOp) : Prop where
  exec : ∀ s, exec (o.mk f) s = s.mxInstr f o.opc
  use : mxUse o.opc f.lit = ⟨o.usesA, o.usesB, o.nr.isSome⟩
  rows : ∀ n, o.nr = some n → mxRows o.opc f.lit b = n
  limit : mxLimit o.opc f.lit a = o.limit

/-- R198: MSCL by the form that the literal picks. -/
theorem mscl_means (f : Fields) (a : Word) (B : PWord) : MxMeans f a B.w
    (0xD7, .mscl, fld f.lit 9 2 != 3, fld f.lit 9 2 == 0 || fld f.lit 9 2 == 3,
     (if fld f.lit 9 2 = 0 then some (fld B.w 0 10) else if fld f.lit 9 2 = 3 then some (fld B.w 8 10) else none), true) := by
  refine ⟨fun _ => rfl, ?_, fun n hn => ?_, rfl⟩
  · by_cases h0 : fld f.lit 9 2 = 0
    · simp [mxUse, MxOp.nr, h0]
    · by_cases h3 : fld f.lit 9 2 = 3 <;> simp [mxUse, MxOp.nr, h0, h3]
  · by_cases h3 : fld f.lit 9 2 = 3
    · simpa [mxRows, MxOp.nr, h3] using hn
    · by_cases h0 : fld f.lit 9 2 = 0
      · simpa [mxRows, MxOp.nr, h0] using hn
      · simp [MxOp.nr, h0, h3] at hn

/-- R201: MBND by the form that the literal picks. -/
theorem mbnd_means {f : Fields} (A B : PWord) (h3 : fld f.lit 9 2 ≠ 3) : MxMeans f A.w B.w
    (0xD8, .mbnd, fld f.lit 9 2 != 1, decide (fld f.lit 9 2 ≤ 1), (if fld f.lit 9 2 ≤ 1 then some (fld B.w 0 10) else none),
      if fld f.lit 9 2 = 0 then decide (-512 ≤ A.w.toInt ∧ A.w.toInt ≤ 511)
      else if fld f.lit 9 2 = 2 then decide (34 ≤ A.w.toNat ∧ A.w.toNat ≤ 46) else true) := by
  refine ⟨fun _ => if_pos h3, ?_, fun n hn => ?_, ?_⟩
  · by_cases h1 : fld f.lit 9 2 ≤ 1 <;> simp [mxUse, MxOp.nr, h1]
  · by_cases h1 : fld f.lit 9 2 ≤ 1
    · simpa [mxRows, MxOp.nr, h1] using hn
    · simp [MxOp.nr, h1] at hn
  · have hlt : fld f.lit 9 2 < 4 := Nat.mod_lt _ (by decide)
    obtain h | h | h : fld f.lit 9 2 = 0 ∨ fld f.lit 9 2 = 1 ∨ fld f.lit 9 2 = 2 := by omega
    all_goals rw [mxLimit, h]; rfl

theorem mxOp_means {f : Fields} {A B : PWord} {o : MxOp} (ho : o ∈ mxOps f A B) : MxMeans f A.w B.w o := by
  have hrows : ∀ n, some (fld B.w 0 10) = some n → fld B.w 0 10 = n := fun n h => Option.some.inj h
  revert o
  simp only [mxOps, List.forall_mem_append, List.forall_mem_cons]
  refine ⟨⟨?load, ?_, ?_, ?_, ?_, ?_, ?_, mscl_means f A.w B, ?_, fun _ h => absurd h List.not_mem_nil⟩, ?mbnd⟩
  case load => exact ⟨fun _ => rfl, rfl, fun n h => (Option.some_ne_none n h.symm).elim, rfl⟩
  case mbnd =>
    split
    · exact fun _ h => absurd h List.not_mem_nil
    · next h3 => exact List.forall_mem_singleton.2 (mbnd_means A B h3)
  all_goals exact ⟨fun _ => rfl, rfl, hrows, rfl⟩

/-! ## The checks of issue (R189) -/

section Checked
variable {s : State} {t : Thread} {f : Fields} {o : MxOp} {e : Nat} (k : Nat → Body)

theorem mxBad_lanes (t : Thread) (f : Fields) : mxBad t f = .val ((List.range t.width).map (fun l => ⟨(t.aW f l).w, true⟩)) := by
  rw [mxBad, as_lanes, List.map_map]
  rfl

/-- R189: the operands that the instruction uses carry no poison. -/
structure MxClean (t : Thread) (f : Fields) (o : MxOp) : Prop where
  lanes : t.selLanes ≠ []
  a : o.usesA = true → (t.a0 f).pois = false
  b : o.usesB = true → (t.b0 f).pois = false

/-- R189: the row range lies in the element's 512 rows. -/
def rowsFit (f : Fields) (o : MxOp) : Prop := ∀ n, o.nr = some n → n ≠ 0 ∧ fld f.lit 0 9 + n ≤ 512

theorem mxChecked_outside (hc : MxClean t f o) (he : ∀ e, t.src.site ≠ .elem e) : s.mxChecked t f o.opc k = s.mxRefuse t f o.opc 1 := by
  have hlanes : t.selLanes.isEmpty = false := List.isEmpty_eq_false_iff.2 hc.lanes
  unfold State.mxChecked
  cases h : t.src.site with
  | elem e => exact absurd h (he e)
  | tile n | syrad n => simp only [hlanes, Bool.false_eq_true, if_false]

variable (hm : MxMeans f (t.a0 f).w (t.b0 f).w o) (hc : MxClean t f o)
include hm hc

/-- On an element's control cell the check is of the rows and then of A. -/
theorem mxChecked_elem (he : t.src.site = .elem e) : s.mxChecked t f o.opc k =
    if o.nr.isSome && (mxRows o.opc f.lit (t.b0 f).w == 0 || decide (512 < fld f.lit 0 9 + mxRows o.opc f.lit (t.b0 f).w)) then
      s.mxRefuse t f o.opc 2
    else if !o.limit then s.mxRefuse t f o.opc 6 else k e := by
  have hpois : (o.usesA && (t.a0 f).pois || o.usesB && (t.b0 f).pois) = false := by
    rw [Bool.or_eq_false_iff, Bool.and_eq_false_imp, Bool.and_eq_false_imp]
    exact ⟨hc.a, hc.b⟩
  have hlanes : t.selLanes.isEmpty = false := List.isEmpty_eq_false_iff.2 hc.lanes
  simp only [State.mxChecked, he, hm.use, hm.limit, hpois, hlanes, Bool.false_eq_true, if_false]

theorem mxChecked_rows (he : t.src.site = .elem e) {n : Nat} (hn : o.nr = some n) (h : n = 0 ∨ 512 < fld f.lit 0 9 + n) :
    s.mxChecked t f o.opc k = s.mxRefuse t f o.opc 2 := by
  rw [mxChecked_elem k hm hc he, hm.rows n hn, hn]
  exact if_pos (by simpa using h)

theorem mxChecked_fits (he : t.src.site = .elem e) (hrows : rowsFit f o) :
    s.mxChecked t f o.opc k = if !o.limit then s.mxRefuse t f o.opc 6 else k e := by
  rw [mxChecked_elem k hm hc he]
  refine if_neg ?_
  cases hn : o.nr with
  | none => simp
  | some n =>
    obtain ⟨h0, h512⟩ := hrows n hn
    rw [hm.rows n hn]
    simp [h0, h512]

end Checked

/-! ## Queueing and refusing (R185, R189) -/

theorem modThr_eq_setThr {s : State} {u : Nat} {t : Thread} (h : s.thr? u = some t) (g : Thread → Thread) : s.modThr u g = s.setThr u (g t) := by
  have ht : tget s.threads u = some t := h
  simp only [State.modThr, tmod, ht]
  rfl

section Performs
variable {s b : State} {u e : Nat} {t k : Thread} {f : Fields} {o : MxOp}
  (hm : MxMeans f (t.a0 f).w (t.b0 f).w o) (hc : MxClean t f o)
  (hi : Issues s u t f { opc := o.opc, b := o.usesB, ctr := some .mx, counts := fun t => t.queuesMx f o.opc })
include hm hi

/-- R189, R203: an instruction that fails its checks raises the "matrix operand" fault and poisons `v`. -/
theorem mxInstr_refuses {reason : Nat} (h : ∀ k, s.mxChecked t f o.opc k = s.mxRefuse t f o.opc reason)
    (hk : (s.raise (t.who o.opc) 0x0109 ((t.who o.opc).details203 reason 0)).thr? u = some k) (hend : k.ending = false)
    (hr : Room s (s.raise (t.who o.opc) 0x0109 ((t.who o.opc).details203 reason 0)) t k f (mxBad t f)) :
    Performs (o.mk f) s u f (s.raise (t.who o.opc) 0x0109 ((t.who o.opc).details203 reason 0)) k (mxBad t f) := by
  refine exec_performs (hm.exec s) ?_ (h _) hk hend rfl hr
  rw [hm.use]
  exact hi

include hc

/-- R185: an instruction that passes them joins the queue, counts in `nmx` and gives A. -/
theorem mxInstr_queues (he : t.src.site = .elem e) (hrows : rowsFit f o) (hlimit : o.limit = true) (hfree : (s.elem e).busy < 16)
    (hk : k = { t with nmx := t.nmx + 1 })
    (hb : b = (((s.bump).setElem e { s.elem e with queue := (s.elem e).queue ++
      [newMx o.opc f.lit (t.a0 f).w (t.b0 f).w u (t.who o.opc) s.fresh (s.cmdGate u)] }).setThr u k).postEv .matrixQueueStart { a := e })
    (hr : Room s b t k f (.val (t.as f))) : Performs (o.mk f) s u f b k (.val (t.as f)) := by
  subst hb hk
  have hthr := thr_setThr ((s.bump).setElem e { s.elem e with queue := (s.elem e).queue ++
      [newMx o.opc f.lit (t.a0 f).w (t.b0 f).w u (t.who o.opc) s.fresh (s.cmdGate u)] }) u { t with nmx := t.nmx + 1 }
  refine exec_performs (hm.exec s) ?_ ?_ hthr hi.going rfl hr
  · rw [hm.use]
    exact hi
  · rw [mxChecked_fits _ hm hc he hrows, hlimit, if_neg (by decide), if_neg (Nat.not_le.2 hfree)]
    exact congrArg (fun z => Body.ok (State.postEv z .matrixQueueStart { a := e }) (.val (t.as f)))
      (modThr_eq_setThr (s := s.bump.setElem e _) hi.thr _)

end Performs

/-! ## MBND's read form (R201) -/

theorem mbnd_reads {s : State} {u e : Nat} {t : Thread} {f : Fields} (hkind : fld f.lit 9 2 = 3) (hlanes : t.selLanes ≠ [])
    (hi : Issues s u t f { opc := 0xD8, b := false, cyc := 4 }) (ha : (t.a0 f).pois = false) (he : t.src.site = .elem e)
    (hq : (s.elem e).queue = []) (hrun : (s.elem e).running = none) {res : Eff}
    (hE : res = .val (t.all ⟨(s.elem e).stateWord (fld f.lit 0 9) (fld (t.a0 f).w 0 7), false⟩)) (hr : Room s s t t f res) :
    Performs (.mbnd f) s u f s t res := by
  subst hE
  refine exec_performs (if_neg (not_not.2 hkind)) hi ?_ hi.thr hi.going rfl hr
  have huse : mxUse 0xD8 f.lit = ⟨true, false, false⟩ := by simp [mxUse, hkind]
  have hlimit : mxLimit 0xD8 f.lit (t.a0 f).w = true := by simp [mxLimit, hkind]
  have hbusy : (s.elem e).busy = 0 := by rw [Elem.busy, hq, hrun]; rfl
  simp only [State.mxChecked, he, huse, hlimit, ha, hbusy, List.isEmpty_eq_false_iff.2 hlanes, Bool.and_false, Bool.false_and, Bool.or_false,
    Bool.false_eq_true, if_false, Bool.not_true, ne_eq, not_true]
  rfl

/-- Settles O36: each queued form by what the checks of issue read of it, MBND's read form by itself. -/
theorem matrixInstructionResults : Obligations.MatrixInstructionResults := by
  intro s u t f hlanes A B r kind low ops bad
  refine ⟨fun o ho => ?queued, fun hkind hi ha e he hq hrun => ?read⟩
  case queued =>
    intro opc mk usesA usesB nr hi ha hb refuses
    have hm : MxMeans f A.w B.w o := mxOp_means ho
    have hc : MxClean t f o := ⟨hlanes, ha, hb⟩
    have hrefuses : ∀ reason, (∀ k, s.mxChecked t f opc k = s.mxRefuse t f opc reason) → refuses reason := by
      intro reason h k hk hend hr
      rw [show bad = mxBad t f from (mxBad_lanes t f).symm] at hr ⊢
      exact mxInstr_refuses hm hi h hk hend hr
    refine ⟨fun e he => ⟨fun hrows hlimit hfree => ?_, fun n hn h => ?_, fun hrows hlimit => ?_⟩, fun he => ?_⟩
    · intro m k b res hr
      rw [show res = .val (t.as f) from congrArg Eff.val (as_lanes t f).symm] at hr ⊢
      exact mxInstr_queues hm hc hi he hrows hlimit hfree rfl rfl hr
    · exact hrefuses 2 (fun k => mxChecked_rows k hm hc he hn h)
    · refine hrefuses 6 (fun k => ?_)
      rw [mxChecked_fits k hm hc he hrows, show MxOp.limit o = false from hlimit]
      rfl
    · exact hrefuses 1 (fun k => mxChecked_outside k hc he)
  case read => exact mbnd_reads hkind hlanes hi ha he hq hrun rfl

end Sys2Proof.Machine
end

section
/-! Matrix elements as they run (R185, R188, R194, R198, R201): an element takes up its queue's first instruction, runs the
running one's next unit, and lets one that is done leave. -/

namespace Sys2Proof.Machine

/-! ## What the shared operations leave of the elements -/

theorem State.elem_congr {s s' : State} (h : s'.elems = s.elems) (e : Nat) : s'.elem e = s.elem e := by simp [State.elem, h]

theorem elems_charge (s : State) (p r die : Nat) (i : Item) (n : Nat) : (s.charge p r die i n).elems = s.elems :=
  (keeps_charge s 0 p r die i n).same .elems (by decide)

theorem mem_charge (s : State) (p r die : Nat) (i : Item) (n : Nat) : (s.charge p r die i n).mem = s.mem :=
  (keeps_charge s 0 p r die i n).same .mem (by decide)

theorem elems_retest (s : State) (x : Site) : (s.retest x).elems = s.elems := foldl_same State.elems _ (fun _ _ => by rfl) _ s
theorem mem_retest (s : State) (x : Site) : (s.retest x).mem = s.mem := foldl_same State.mem _ (fun _ _ => by rfl) _ s

/-- R212: a counter falls in its thread alone. -/
theorem keeps_fall (s : State) (u : Nat) (c : Ctr) : Keeps [] u s (s.fall u c) := by
  unfold State.fall
  split
  · exact Keeps.refl ..
  · split
    · exact (keeps_setThr ..).trans (keeps_postEv ..)
    · exact keeps_setThr ..

theorem elems_fall (s : State) (u : Nat) (c : Ctr) : (s.fall u c).elems = s.elems := (keeps_fall s u c).same .elems (by decide)
theorem mem_fall (s : State) (u : Nat) (c : Ctr) : (s.fall u c).mem = s.mem := (keeps_fall s u c).same .mem (by decide)

theorem fall_thr {s : State} {u : Nat} {t : Thread} (h : s.thr? u = some t) (c : Ctr) : (s.fall u c).thr? u = some (t.subCtr c) := by
  unfold State.fall
  simp only [h]
  split <;> exact thr_setThr ..

/-- R190: the record of a read above the stage is in the partition's words. -/
theorem noteOob_parts (s : State) (w : Who) (reads : List (Nat × Nat)) : ∃ ps, s.noteOob w reads = { s with parts := ps } := by
  unfold State.noteOob State.modPart
  split
  · exact ⟨s.parts, rfl⟩
  · split
    · exact ⟨s.parts, rfl⟩
    · exact ⟨_, rfl⟩

/-! ## Tables -/

section Tables
variable {κ α : Type} [DecidableEq κ]

theorem tget_filter_key (t : Tbl κ α) (p : κ → Bool) (k : κ) : tget (t.filter (fun e => p e.1)) k = if p k then tget t k else none := by
  induction t with
  | nil => simp [tget]
  | cons e t ih =>
    obtain ⟨j, a⟩ := e
    by_cases hj : j = k
    · subst hj
      cases hp : p j <;> simp_all [tget]
    · cases hp : p j <;> simp_all [tget]

/-- A table after one write to each of the first n places. -/
theorem tget_writes (t : Tbl Nat α) (g : Nat → α) (n k : Nat) :
    tget ((List.range n).foldl (fun t i => tset t i (g i)) t) k = if k < n then some (g k) else tget t k := by
  induction n with
  | zero => rfl
  | succ n ih =>
    rw [List.range_succ, List.foldl_concat, tget_tset, ih]
    by_cases hk : k = n
    · subst hk
      simp
    · simp only [hk, if_false]
      congr 1
      exact propext (by omega)

end Tables

/-! ## Rows (R201) -/

/-- R201: MZERO of one row leaves zeros at the row's base, and every other row as it was. -/
theorem ent_zeroRow (v : Elem) (i j : Nat) {n : Nat} (hn : n < 128) :
    (v.zeroRow i).ent j n = if j = i then .zero (tgetD v.pins j 0) else v.ent j n := by
  have hrow : (j * 128 + n) / 128 = j := by omega
  have hget : tget (v.zeroRow i).acc (j * 128 + n) = if decide ((j * 128 + n) / 128 ≠ i) then tget v.acc (j * 128 + n) else none :=
    tget_filter_key v.acc (fun k => decide (k / 128 ≠ i)) _
  rw [hrow] at hget
  unfold Elem.ent tgetD
  rw [hget]
  by_cases h : j = i <;> simp [h] <;> rfl

/-- R201: the rows that MZERO clears. -/
def Elem.zeroRows (v : Elem) (rows : List Nat) : Elem := rows.foldl (fun v i => v.zeroRow i) v

theorem pins_zeroRows (v : Elem) (rows : List Nat) : (v.zeroRows rows).pins = v.pins := by
  induction rows generalizing v with
  | nil => rfl
  | cons i rows ih => exact ih (v.zeroRow i)

theorem ent_zeroRows (v : Elem) (rows : List Nat) (j : Nat) {n : Nat} (hn : n < 128) :
    (v.zeroRows rows).ent j n = if j ∈ rows then .zero (tgetD v.pins j 0) else v.ent j n := by
  induction rows generalizing v with
  | nil => simp [Elem.zeroRows]
  | cons i rows ih =>
    have hstep : (v.zeroRows (i :: rows)).ent j n = if j ∈ rows then .zero (tgetD v.pins j 0) else (v.zeroRow i).ent j n := ih (v.zeroRow i)
    rw [hstep, ent_zeroRow v i j hn]
    by_cases hj : j ∈ rows <;> by_cases hi : j = i <;> simp [hj, hi]

theorem mem_span (m : MxInstr) (j : Nat) : j ∈ m.span ↔ m.r ≤ j ∧ j < m.r + m.nr := by
  simp only [MxInstr.span, List.mem_map, List.mem_range]
  exact ⟨fun ⟨i, hi, hj⟩ => by omega, fun h => ⟨j - m.r, by omega, by omega⟩⟩

/-- R201: the entries of an element after MZERO's unit. -/
theorem ent_mzero {m : MxInstr} (hop : m.op = 0xD6) (v : Elem) (i : Nat) {n : Nat} (hn : n < 128) : (v.zeroRows m.span).ent i n =
    if fld m.lit 0 9 ≤ i ∧ i < fld m.lit 0 9 + fld m.b 0 10 then .zero (tgetD v.pins i 0) else v.ent i n := by
  have hnr : m.nr = fld m.b 0 10 := by simp [MxInstr.nr, hop, mxUse, mxRows]
  rw [ent_zeroRows v m.span i hn]
  simp only [mem_span, hnr, MxInstr.r]

/-! ## The column scales (R198) -/

/-- R198: the column scales that MSCL reads. -/
def Elem.loadCs (v : Elem) (A : Nat) : Elem := { v with cs := (List.range 128).foldl (fun t i => tset t i (wordAt (v.read A 512) i)) v.cs }

theorem acc_loadCs (v : Elem) (A : Nat) : (v.loadCs A).acc = v.acc := by rw [Elem.loadCs]
theorem rs_loadCs (v : Elem) (A : Nat) : (v.loadCs A).rs = v.rs := by rw [Elem.loadCs]

theorem cs_loadCs (v : Elem) (A : Nat) {n : Nat} (hn : n < 128) :
    tget (v.loadCs A).cs n = some (w32 (leNat (((v.read A 512).drop (4 * n)).take 4))) := by
  unfold Elem.loadCs
  rw [tget_writes, if_pos hn, wordAt]

/-! ## The next unit (R188) -/

/-- R188: the running instruction m of element e has done its last unit, which leaves the element's own state as v. -/
structure Finishes (s s' : State) (e : Nat) (v : Elem) (m : MxInstr) : Prop where
  elem : s'.elem e = { v with running := some { m with done := true } }
  mem : s'.mem = s.mem
  threads : s'.threads = s.threads
  agenda : s'.agenda = s.agenda ++ [.ev .matrixInstructionFinish { a := e }]

theorem mxDone_finishes {s b : State} {e : Nat} {v : Elem} (m : MxInstr) (he : b.elem e = v) (hm : b.mem = s.mem) (ht : b.threads = s.threads)
    (ha : b.agenda = s.agenda) : Finishes s (b.mxDone e m) e v m := by
  refine ⟨?_, hm, ht, congrArg (· ++ [Act.ev .matrixInstructionFinish { a := e }]) ha⟩
  rw [← he]
  exact (State.setElem_elem ..).trans (if_pos rfl)

theorem setElem_mxDone_finishes (s : State) (e : Nat) (v : Elem) (m : MxInstr) : Finishes s ((s.setElem e v).mxDone e m) e v m :=
  mxDone_finishes m ((State.setElem_elem ..).trans (if_pos rfl)) rfl rfl rfl

section Unit
variable {s : State} {m : MxInstr} (hrun : (s.elem s.subj.a).running = some m) (hdone : m.done = false) (hpark : m.parked = none)
  (hidle : s.arrayIdle s.subj.a m.who.part = false)
include hrun hdone hpark hidle

theorem matrixQueueStart_runs : exec .matrixQueueStart s = .next (s.runMx s.subj.a m) := by
  have hexec : exec .matrixQueueStart s = execMatrixQueueStart s := rfl
  rw [hexec, execMatrixQueueStart]
  simp only [hrun, hdone, hpark, hidle, Option.isSome_none, Bool.or_false, Bool.false_eq_true, if_false]

/-- R201: MZERO clears its rows in one unit. -/
theorem mzero_runs (hop : m.op = 0xD6) : ∃ s', exec .matrixQueueStart s = .next s'
    ∧ Finishes s s' s.subj.a ((s.elem s.subj.a).zeroRows m.span) m := by
  refine ⟨_, matrixQueueStart_runs hrun hdone hpark hidle, ?_⟩
  unfold State.runMx
  rw [hop]
  exact setElem_mxDone_finishes ..

/-- R198: MSCL's column form writes every column's scale in one unit. -/
theorem mscl_columns_runs (hop : m.op = 0xD7) (hkind : fld m.lit 9 2 = 1) : ∃ s', exec .matrixQueueStart s = .next s'
    ∧ Finishes s s' s.subj.a ((s.elem s.subj.a).loadCs m.a.toNat) m := by
  refine ⟨_, matrixQueueStart_runs hrun hdone hpark hidle, ?_⟩
  have hunit : s.runMx s.subj.a m = ((s.setElem s.subj.a ((s.elem s.subj.a).loadCs m.a.toNat)).noteOob m.who [(m.a.toNat, 512)]).mxDone
      s.subj.a m := by
    unfold State.runMx
    rw [hop]
    simp only [State.runMscl, hkind]
    rfl
  obtain ⟨ps, hps⟩ := noteOob_parts (s.setElem s.subj.a ((s.elem s.subj.a).loadCs m.a.toNat)) m.who [(m.a.toNat, 512)]
  rw [hunit, hps]
  exact mxDone_finishes m ((State.setElem_elem ..).trans (if_pos rfl)) rfl rfl rfl

/-- R201: MBND's limit form writes the fold limit in one unit. -/
theorem mbnd_limit_runs (hop : m.op = 0xD8) (hkind : fld m.lit 9 2 = 2) : ∃ s', exec .matrixQueueStart s = .next s'
    ∧ Finishes s s' s.subj.a { s.elem s.subj.a with lam := m.a.toNat } m := by
  refine ⟨_, matrixQueueStart_runs hrun hdone hpark hidle, ?_⟩
  unfold State.runMx
  rw [hop]
  simp only [State.runMbnd, hkind]
  exact setElem_mxDone_finishes ..

end Unit

/-! ## Taking up and leaving (R185) -/

theorem matrixQueueStart_takes {s : State} {m : MxInstr} {q : List MxInstr} (hrun : (s.elem s.subj.a).running = none)
    (hq : (s.elem s.subj.a).queue = m :: q) (hidle : s.arrayIdle s.subj.a m.who.part = false) (hstart : s.mxMayStart s.subj.a m = true) :
    ∃ s', exec .matrixQueueStart s = .next s' ∧ s'.elem s.subj.a = { s.elem s.subj.a with queue := q, running := some m } ∧ s'.mem = s.mem
      ∧ s'.threads = s.threads ∧ s'.agenda = s.agenda ++ [.ev .matrixQueueStart { a := s.subj.a }] := by
  have hexec : exec .matrixQueueStart s = execMatrixQueueStart s := rfl
  rw [hexec, execMatrixQueueStart]
  simp only [hrun, hq, hidle, hstart, Bool.not_true, Bool.or_false, Bool.false_eq_true, if_false]
  refine ⟨_, rfl, (State.setElem_elem ..).trans (if_pos rfl), mem_charge .., threads_charge .., ?_⟩
  exact congrArg (· ++ [Act.ev .matrixQueueStart { a := s.subj.a }]) (State.modPart_agenda ..)

/-- R185: an instruction that is done, with no write of it outstanding, leaves the element, and its thread's `nmx` falls. -/
theorem matrixInstructionFinish_leaves {s : State} {m : MxInstr} {t : Thread} (hrun : (s.elem s.subj.a).running = some m) (hdone : m.done = true)
    (hrefused : m.refused = none) (hsent : m.sent = [])
    (howed : s.owingAt (.elem s.subj.a) (max 1 (m.drain.elim 0 (fun d => d.rel))) m.owed = false) (hthr : s.thr? m.uid = some t) :
    ∃ s' o, exec .matrixInstructionFinish s = .next s' ∧ s'.elem s.subj.a = { s.elem s.subj.a with running := none } ∧ s'.mem = s.mem
      ∧ s'.thr? m.uid = some ({ t with mxOwed := o }.subCtr .mx) := by
  have hexec : exec .matrixInstructionFinish s = execMatrixInstructionFinish s := rfl
  rw [hexec, execMatrixInstructionFinish]
  simp only [hrun, hdone, hrefused, hsent, howed, Option.isSome_none, List.any_nil, Bool.or_false, Bool.not_true, Bool.false_eq_true, if_false]
  generalize hb : State.modThr _ _ _ = b
  have helem : b.elem s.subj.a = { s.elem s.subj.a with running := none } := by
    rw [← hb]
    exact (State.setElem_elem ..).trans (if_pos rfl)
  have hmem : b.mem = s.mem := by rw [← hb]; rfl
  obtain ⟨o, hbthr⟩ : ∃ o, b.thr? m.uid = some { t with mxOwed := o } := by
    rw [← hb, State.modThr_thr, if_pos rfl]
    exact ⟨_, congrArg (Option.map _) hthr⟩
  refine ⟨_, o, rfl, ?_, ?_, ?_⟩
  · exact (State.elem_congr ((elems_retest ..).trans (elems_fall ..)) _).trans helem
  · exact (mem_retest ..).trans ((mem_fall ..).trans hmem)
  · exact ((threadsStay_retest ..).thr _).trans (fall_thr hbthr .mx)

/-- Settles O38: the queue's first instruction is taken up, the three units each finish their instruction, a finished one leaves. -/
theorem matrixEvents : Obligations.MatrixEvents := by
  intro s e v
  refine ⟨fun m q hrun hq hidle hstart => matrixQueueStart_takes hrun hq hidle hstart, fun m hrun hdone hpark hidle => ?unit,
    fun m t hrun hdone hrefused hsent howed hthr => ?leaves⟩
  case unit =>
    intro off ends
    refine ⟨fun hop => ?_, fun hop hkind => ?_, fun hop hkind => ?_⟩
    · obtain ⟨s', hexec, hfin⟩ := mzero_runs hrun hdone hpark hidle hop
      exact ⟨s', v.zeroRows m.span, hexec, ⟨hfin.elem, hfin.mem, hfin.threads, hfin.agenda⟩, pins_zeroRows .., fun i _ => ent_mzero hop v i⟩
    · obtain ⟨s', hexec, hfin⟩ := mscl_columns_runs hrun hdone hpark hidle hop hkind
      generalize hv : (s.elem s.subj.a).loadCs m.a.toNat = v' at hfin
      refine ⟨s', v', hexec, hfin.elem, ?_, ?_, hfin.mem, fun n hn => ?_⟩
      · rw [← hv, acc_loadCs]
      · rw [← hv, rs_loadCs]
      · rw [← hv, cs_loadCs _ _ hn]
    · obtain ⟨s', hexec, hfin⟩ := mbnd_limit_runs hrun hdone hpark hidle hop hkind
      exact ⟨s', hexec, hfin.elem, hfin.mem, hfin.threads, hfin.agenda⟩
  case leaves =>
    obtain ⟨s', o, hexec, helem, hmem, hk⟩ := matrixInstructionFinish_leaves hrun hdone hrefused hsent howed hthr
    exact ⟨s', _, hexec, helem, hmem, hk, rfl, rfl, rfl, rfl, rfl⟩

end Sys2Proof.Machine
end

section
/-! Holds and slots (R205 to R208, R212, R249): what issue asks of each opcode, that an instruction which must hold changes
nothing, and that one without its slots is suspended at its own slot. -/

namespace Sys2Proof.Machine

/-! ## What issue asks of an opcode (R109, R212) -/

/-- R109: the instructions that have no operand B. -/
def oneSource : List Nat :=
  [0x00, 0x01, 0x02, 0x03, 0x04, 0x05, 0x06, 0x07, 0x09, 0x0A, 0x0B, 0x0F, 0x16, 0x17, 0x24, 0x25, 0x26, 0x48, 0x49,
    0x4B, 0x4D, 0x4F, 0x57, 0x60, 0x63, 0x64, 0x68, 0x70, 0x71, 0x72, 0x73, 0x74, 0x75, 0x76, 0x77, 0x78, 0x79, 0x80, 0x81, 0x83,
    0x84, 0x88, 0x89, 0x8D, 0x90, 0x91, 0x92, 0x93, 0x94, 0x95, 0x96, 0x97, 0x98, 0x99, 0xA0, 0xA4, 0xA6, 0xA7, 0xBA, 0xC0, 0xC1,
    0xC2, 0xC4, 0xC5, 0xC9, 0xCA, 0xCB, 0xE0, 0xE1, 0xE2, 0xE3, 0xE4, 0xF1, 0xF2, 0xF4, 0xF6, 0xF7, 0xF8, 0xF9, 0xFA, 0xFC]

/-- R109: the instructions that have no operand A. -/
def noSource : List Nat := [0x00, 0x02, 0x03, 0x05, 0x06, 0x84, 0x99, 0xA6, 0xBA, 0xC5, 0xCA]

/-- R109: an opcode with a literal uses operand A. -/
def usesSrcA (op : Nat) (l : Word) : Bool :=
  if noSource.contains op then false
  else match op with
    | 0x88 => bit l 3
    | 0xF4 => bit l 25
    | 0xEB => fld l 3 2 != 3
    | _ => true

/-- R109: an opcode with a literal uses operand B. -/
def usesSrcB (op : Nat) (l : Word) : Bool :=
  if oneSource.contains op then false
  else match op with
    | 0x0E => !bit l 0
    | 0xC3 => bit l 6
    | 0xC6 => bit l 10
    | 0xF5 => bit l 25
    | _ => (mxUse op l).b

/-- R212: the outstanding counter of an opcode, and whether a thread's instruction counts in it. -/
def counterOf (op : Nat) (f : Fields) (t : Thread) : Option (Ctr × Bool) :=
  match op with
  | 0xA0 | 0xA5 => some (.ld, t.anyLane)
  | 0xA2 => some (.ld, !(t.b0 f).pois && t.anyLane)
  | 0xE5 | 0xE6 | 0xE7 | 0xEA | 0xEC | 0xED | 0xEE => some (.ld, t.tileLane)
  | 0xA1 | 0xA9 | 0xB0 | 0xB1 | 0xB2 | 0xB3 | 0xB4 | 0xB5 | 0xB6 | 0xB7 | 0xB8 | 0xB9 => some (.st, t.anyLane)
  | 0xA3 => some (.st, !(t.b0 f).pois && t.anyLane)
  | 0xEB => if fld f.lit 3 2 = 3 then some (.st, t.tileLane) else none
  | 0xC0 | 0xC1 => some (.cp, !(t.a0 f).pois && !t.selLanes.isEmpty)
  | 0xC6 => if bit f.lit 6 then some (.cp, t.forks f) else none
  | 0xD8 => if fld f.lit 9 2 = 3 then none else some (.mx, t.queuesMx f op)
  | _ => if 0xD0 ≤ op ∧ op ≤ 0xDF then some (.mx, t.queuesMx f op) else none

/-- What issue knows of an instruction (`Form`) is what its opcode and literal say. -/
structure FormOf (op : Nat) (f : Fields) (m : Form) : Prop where
  opc : m.opc = op
  srcA : m.a = usesSrcA op f.lit
  srcB : m.b = usesSrcB op f.lit
  counter : ∀ t, m.ctr.map (fun c => (c, m.counts t)) = counterOf op f t

theorem fork_form (f : Fields) : FormOf 0xC6 f
    { opc := 0xC6, b := bit f.lit 10, ctr := if bit f.lit 6 then some .cp else none, counts := (·.forks f) } :=
  ⟨rfl, rfl, rfl, fun _ => apply_ite (Option.map _) ..⟩

theorem tblnd_form (f : Fields) (cyc : Nat) : FormOf 0xEB f
    { opc := 0xEB, a := fld f.lit 3 2 != 3, lf := fld f.lit 3 2 != 3, ctr := if fld f.lit 3 2 = 3 then some .st else none,
      counts := Thread.tileLane, cyc := cyc } :=
  ⟨rfl, rfl, rfl, fun _ => apply_ite (Option.map _) ..⟩

/-- R201: MBND's read form is no queued one. -/
theorem mbnd_instr (f : Fields) (s : State) : ∃ m body, exec (.mbnd f) s = s.instr f m body ∧ FormOf 0xD8 f m := by
  have hexec : exec (.mbnd f) s = execMbnd f s := rfl
  by_cases h : fld f.lit 9 2 = 3
  · refine ⟨_, _, hexec.trans (if_neg (not_not.2 h)), rfl, rfl, ?_, fun _ => ?_⟩
    · simp [usesSrcB, oneSource, mxUse, h]
    · simp [counterOf, h]
  · refine ⟨_, _, hexec.trans (if_pos h), rfl, rfl, rfl, fun _ => ?_⟩
    simp [counterOf, h]

/-- Every instruction issues through `State.instr`, as its opcode and its literal say. -/
theorem exec_instr {i : Instr} {op : Nat} {f : Fields} (ho : i.opcode? = some op) (hf : i.fields? = some f) (s : State) :
    ∃ m body, exec i s = s.instr f m body ∧ FormOf op f m := by
  cases i
  case fork => cases ho; cases hf; exact ⟨_, _, rfl, fork_form _⟩
  case tblnd => cases ho; cases hf; exact ⟨_, _, rfl, tblnd_form _ _⟩
  case mbnd => cases ho; cases hf; exact mbnd_instr _ s
  case nop | mov | jmp | brp | pblk | steer | ptest | add | sub | addss | addzs | subss | subzs | neg | abs | and | or | xor | andn | lea |
      mul | mulh | mulhz | shl | shr | sar | rotl | clz | popc | brev | bfx | bfi | div | divz | rem | dot4 | dot4z | dot8 | bytep |
      cmpeq | cmpne | cmplt | cmple | cmpltz | cmplez | min | max | minz | maxz | sel | clamp | fcmpeq | fcmplt | fcmple | fcmpun | fadd |
      fsub | fmul | fma | fms | fnma | fmin | fmax | fabs | fneg | fcpys | frint | fscale | fclass | fdiv | ffract | hadd | hsub | hmul |
      hfma | hmin | hmax | hdot | hneg | cvt | cvtq8 | cvte8 | bscal | renc | rdec | radd | rmul | rchk | lane | bcast | perm | shfl |
      vote | cmpct =>
    cases ho; cases hf; exact ⟨_, _, show s.pureInstr f _ _ = _ from rfl, ⟨rfl, rfl, rfl, fun _ => rfl⟩⟩
  case lfld => cases ho; cases hf; exact ⟨_, _, (rfl : execLfld f s = _), ⟨rfl, rfl, rfl, fun _ => rfl⟩⟩
  case lfst => cases ho; cases hf; exact ⟨_, _, (rfl : execLfst f s = _), ⟨rfl, rfl, rfl, fun _ => rfl⟩⟩
  case lfldx => cases ho; cases hf; exact ⟨_, _, (rfl : execLfldx f s = _), ⟨rfl, rfl, rfl, fun _ => rfl⟩⟩
  case lfstx => cases ho; cases hf; exact ⟨_, _, (rfl : execLfstx f s = _), ⟨rfl, rfl, rfl, fun _ => rfl⟩⟩
  case prf => cases ho; cases hf; exact ⟨_, _, (rfl : execPrf f s = _), ⟨rfl, rfl, rfl, fun _ => rfl⟩⟩
  case edgef => cases ho; cases hf; exact ⟨_, _, (rfl : execEdgef f s = _), ⟨rfl, rfl, rfl, fun _ => rfl⟩⟩
  case scanadd => cases ho; cases hf; exact ⟨_, _, (rfl : s.reduceInstr f 0x96 = _), ⟨rfl, rfl, rfl, fun _ => rfl⟩⟩
  case scanxadd => cases ho; cases hf; exact ⟨_, _, (rfl : s.reduceInstr f 0x97 = _), ⟨rfl, rfl, rfl, fun _ => rfl⟩⟩
  case scanfadd => cases ho; cases hf; exact ⟨_, _, (rfl : s.reduceInstr f 0x98 = _), ⟨rfl, rfl, rfl, fun _ => rfl⟩⟩
  all_goals
    cases ho <;> cases hf <;>
    exact ⟨_, _, show s.instr f _ _ = _ from rfl, ⟨rfl, rfl, rfl, fun _ => rfl⟩⟩

/-! ## Holds (R212, R249) -/

section Holds
variable {t : Thread} {f : Fields} {m : Form} {r : Reg} {a : Nat}

theorem blocked_of_pending (hp : (r, a) ∈ t.pend) (hr : r ∈ (if m.a then (selReg f.selA).toList else [])
    ++ (if m.b || f.tag == .call then (selReg f.selB).toList else []) ++ dstRegs f) : t.blocked f m = true := by
  have hany : ((if m.a then (selReg f.selA).toList else []) ++ (if m.b || f.tag == .call then (selReg f.selB).toList else [])
      ++ dstRegs f).any (fun r => t.pend.any (fun e => e.1 == r)) = true :=
    List.any_eq_true.2 ⟨r, hr, List.any_eq_true.2 ⟨_, hp, beq_self_eq_true r⟩⟩
  unfold Thread.blocked
  simp only [hany, Bool.true_or]

theorem blocked_of_dst (hr : r ∈ dstRegs f) (hp : (r, a) ∈ t.pend) : t.blocked f m = true :=
  blocked_of_pending hp (List.mem_append_right _ hr)

theorem blocked_of_srcA (ha : m.a = true) (hr : selReg f.selA = some r) (hp : (r, a) ∈ t.pend) : t.blocked f m = true :=
  blocked_of_pending hp (List.mem_append_left _ (List.mem_append_left _ (by simp [ha, hr])))

theorem blocked_of_srcB (hb : m.b = true ∨ f.tag = .call) (hr : selReg f.selB = some r) (hp : (r, a) ∈ t.pend) : t.blocked f m = true :=
  blocked_of_pending hp (List.mem_append_left _ (List.mem_append_right _ (by simp [hb, hr])))

/-- R212: a counter at 255 that the instruction would raise. -/
theorem blocked_of_counter {c : Ctr} (hm : m.ctr.map (fun c => (c, m.counts t)) = some (c, true)) (hc : 255 ≤ t.ctr c) :
    t.blocked f m = true := by
  obtain ⟨c', hctr, heq⟩ := Option.map_eq_some_iff.1 hm
  obtain ⟨rfl, hcounts⟩ := Prod.mk.inj heq
  simp [Thread.blocked, hctr, hcounts, hc]

end Holds

theorem instr_blocked {s : State} {u : Nat} {t : Thread} {f : Fields} {m : Form} {body : Nat → Thread → Body} (hu : s.curUid = some u)
    (ht : s.thr? u = some t) (hend : t.ending = false) (hok : fieldsOk m.opc f = true) (hb : t.blocked f m = true) :
    s.instr f m body = .next s := by
  simp only [State.instr, hu, ht, hok, hend, hb, Bool.not_true, Bool.false_and, Bool.false_eq_true, if_false, if_true]

/-! ## Slots (R205 to R208) -/

/-- R207: an instruction without its slots is suspended at its own slot, with no part of its effect done. -/
theorem issue_noSlot {s b : State} {u : Nat} {t k : Thread} {f : Fields} (m : Form) {e : Eff} (ht : s.thr? u = some t) (hk : b.thr? u = some k)
    (hs : e.susp = none) (hr : (b.reserveAll ((s.emits b t k f e).ents.flatMap (fun d => d.resv))).isNone = true) :
    s.issue u f m b e = s.noSlot u := by
  have hp : s.emits b t k f e = if e.mute then ⟨[], none⟩ else b.planFor (if e.ctl then { k.commit f e with kind := .control } else k.commit f e) f
      (s.contWord t f) (some (e.scene (((k.commit f e).lanes.map (fun x => x.v)).headD .zero))) := by unfold State.emits; rfl
  rw [Option.isNone_iff_eq_none, hp] at hr
  unfold State.issue
  simp only [hk, ht, hs, Option.isSome_none, Bool.false_eq_true, if_false, hr]

theorem noSlot_suspends {s : State} {u : Nat} {t : Thread} (ht : s.thr? u = some t) :
    (∃ sl su, (s.noSlot u).thr? u = some { t with stat := .reserve, slot := sl, susp := su })
      ∧ Keeps [] u s (s.noSlot u) ∧ Act.ev .reservationReady { a := u } ∈ (s.noSlot u).agenda :=
  ⟨State.suspend_stat .reserve ht, (keeps_suspend ..).trans (keeps_postEv ..), List.mem_append_right _ (List.mem_singleton_self _)⟩

theorem reserve_queue_isSome (s : State) (ag : Agent) (port : Nat) (ctl : Bool) : (s.reserve (.queue ag port) ctl).isSome = true
    ↔ (if ctl then 1 else 3) ≤ 8 - (((s.cell ag).queue port).length + tgetD (s.cell ag).qresv port 0) :=
  Option.isSome_ite (p := _ ≤ (s.cell ag).qfree port)

theorem reserve_egress_isSome (s : State) (x : Site) (c ctl : Bool) : (s.reserve (.egress x c) ctl).isSome = true
    ↔ (s.site x).egress.length + (s.site x).egResv < (if ctl then 64 else 56) := by
  simp [State.reserve, Option.isSome_ite]

/-! ## The conditions of the statement -/

theorem usesSrcA_of {op : Nat} {l : Word} (hop : op ∉ noSource) (hv : op = 0x88 → bit l 3 = true) (hg : op = 0xF4 → bit l 25 = true)
    (ht : op = 0xEB → fld l 3 2 ≠ 3) : usesSrcA op l = true := by
  unfold usesSrcA
  rw [if_neg (by simpa using hop)]
  split
  · exact hv rfl
  · exact hg rfl
  · exact bne_iff_ne.2 (ht rfl)
  · rfl

/-- R192: outside group 0xD nothing takes operand B away. -/
theorem mxUse_b {op : Nat} {l : Word} (h : ¬(0xD0 ≤ op ∧ op ≤ 0xDF)) : (mxUse op l).b = true := by
  unfold mxUse
  split
  case h_1 | h_4 | h_5 => exact absurd (by decide) h
  all_goals rfl

theorem usesSrcB_of {op : Nat} {l : Word} (hop : op ∉ oneSource) (hg : op = 0x0E → bit l 0 = false) (hs : op = 0xC3 → bit l 6 = true)
    (hf : op = 0xC6 → bit l 10 = true) (hw : op = 0xF5 → bit l 25 = true) (hm : 0xD0 ≤ op ∧ op ≤ 0xDF → (mxUse op l).b = true) :
    usesSrcB op l = true := by
  unfold usesSrcB
  rw [if_neg (by simpa using hop)]
  split
  · rw [hg rfl]; rfl
  · exact hs rfl
  · exact hf rfl
  · exact hw rfl
  · by_cases h : 0xD0 ≤ op ∧ op ≤ 0xDF
    · exact hm h
    · exact mxUse_b h

section Counters
variable {op : Nat} {f : Fields} {t : Thread} (hl : t.selLanes ≠ [])
include hl

theorem anyLane_of : t.anyLane = true := by simp [Thread.anyLane, hl]

theorem counterOf_ld (h : op ∈ [0xA0, 0xA5] ∨ op ∈ [0xE5, 0xE6, 0xE7, 0xEA, 0xEC, 0xED, 0xEE] ∧ isTile t.src.site = true
    ∨ op = 0xA2 ∧ (t.b0 f).pois = false) : counterOf op f t = some (.ld, true) := by
  have hany := anyLane_of hl
  simp only [List.mem_cons, List.not_mem_nil, or_false] at h
  rcases h with (rfl | rfl) | ⟨rfl | rfl | rfl | rfl | rfl | rfl | rfl, htile⟩ | ⟨rfl, hb⟩ <;> simp [counterOf, Thread.tileLane, *]

theorem counterOf_st (h : op ∈ [0xA1, 0xA9, 0xB0, 0xB1, 0xB2, 0xB3, 0xB4, 0xB5, 0xB6, 0xB7, 0xB8, 0xB9] ∨ op = 0xA3 ∧ (t.b0 f).pois = false
    ∨ op = 0xEB ∧ fld f.lit 3 2 = 3 ∧ isTile t.src.site = true) : counterOf op f t = some (.st, true) := by
  have hany := anyLane_of hl
  simp only [List.mem_cons, List.not_mem_nil, or_false] at h
  rcases h with (rfl | rfl | rfl | rfl | rfl | rfl | rfl | rfl | rfl | rfl | rfl | rfl) | ⟨rfl, hb⟩ | ⟨rfl, hform, htile⟩ <;>
    simp [counterOf, Thread.tileLane, *]

theorem counterOf_cp (h : op ∈ [0xC0, 0xC1] ∧ (t.a0 f).pois = false ∨ op = 0xC6 ∧ bit f.lit 6 = true ∧ (t.a0 f).pois = false
    ∧ (bit f.lit 10 = true → (t.b0 f).pois = false ∧ t.z0.pois = false)) : counterOf op f t = some (.cp, true) := by
  simp only [List.mem_cons, List.not_mem_nil, or_false] at h
  rcases h with ⟨rfl | rfl, ha⟩ | ⟨rfl, hchain, ha, htask⟩
  · simp [counterOf, ha, hl]
  · simp [counterOf, ha, hl]
  · cases hb : bit f.lit 10
    · simp [counterOf, Thread.forks, hchain, ha, hb, hl]
    · obtain ⟨hB, hz⟩ := htask hb
      simp [counterOf, Thread.forks, hchain, ha, hB, hz, hl]

end Counters

theorem counterOf_mx {op : Nat} {f : Fields} {t : Thread} (hlo : 0xD0 ≤ op) (hhi : op ≤ 0xDF) (hk : op = 0xD8 → fld f.lit 9 2 ≠ 3)
    (hq : t.queuesMx f op = true) : counterOf op f t = some (.mx, true) := by
  interval_cases op <;> simp_all [counterOf]

/-- Settles O8: a hold by what its opcode's form says of operands and counters, a suspension by the slots that are not there. -/
theorem holdsAndFullSlots : Obligations.HoldsAndFullSlots := by
  refine ⟨?holds, ?full, reserve_queue_isSome, reserve_egress_isSome⟩
  case holds =>
    intro i op f s u t ho hf hu ht hend hok usesA oneSrc usesB
    obtain ⟨m, body, hx, hm⟩ := exec_instr ho hf s
    have hold : t.blocked f m = true → exec i s = .next s := fun hb =>
      hx.trans (instr_blocked hu ht hend (by rw [hm.opc]; exact hok) hb)
    have full : ∀ {c}, counterOf op f t = some (c, true) → 255 ≤ t.ctr c → exec i s = .next s := fun hc h255 =>
      hold (blocked_of_counter ((hm.counter t).trans hc) h255)
    refine ⟨fun r hr a hp => hold (blocked_of_dst hr hp), fun ⟨hop, hv, hg, htb⟩ r a hr hp => ?_, fun hB r a hr hp => ?_,
      fun hl => ⟨fun h => full (counterOf_ld hl h), fun h => full (counterOf_st hl h), fun h => full (counterOf_cp hl h)⟩,
      fun hlo hhi hk hq => full (counterOf_mx hlo hhi hk hq)⟩
    · exact hold (blocked_of_srcA (hm.srcA.trans (usesSrcA_of hop hv hg htb)) hr hp)
    · refine hold (blocked_of_srcB (hB.imp_left ?_) hr hp)
      rintro ⟨hop, hg, hs, hfk, hw, hmx⟩
      exact hm.srcB.trans (usesSrcB_of hop hg hs hfk hw (fun h => (hmx h).1))
  case full =>
    intro s b u t k f m e ht hk hs hr
    rw [issue_noSlot m ht hk hs hr]
    obtain ⟨⟨sl, su, hthr⟩, hkeeps, hagenda⟩ := noSlot_suspends ht
    exact ⟨.reserve, sl, su, hthr, rfl, hkeeps, hagenda⟩

end Sys2Proof.Machine
end

section
/-! Engine instructions (R210, R222, R224, R235 to R238): the slot that a copy or a chain takes, the task packet of a FORK, and
what CPCNL cancels. -/

namespace Sys2Proof.Machine

/-! ## The slots of an engine (R222, R235) -/

/-- R222: slot n is free and no lower one is. -/
def LowestFree {α : Type} (t : Tbl Nat α) (n : Nat) : Prop := tget t n = none ∧ ∀ j, j < n → (tget t j).isSome = true

theorem LowestFree.find {α : Type} {t : Tbl Nat α} {n m : Nat} (h : LowestFree t n) (hn : n < m) :
    (List.range m).find? (fun i => (tget t i).isNone) = some n := by
  rw [List.find?_range_eq_some]
  refine ⟨by rw [h.1]; rfl, List.mem_range.2 hn, fun j hj => ?_⟩
  rw [Bool.not_eq_true', Option.isNone_eq_false_iff]
  exact h.2 j hj

/-- R235: the state in which slot n of a copy engine has the copy of a descriptor. -/
def State.copyIn (s : State) (x : Site) (n : Nat) (desc : Int) (iss : Issuer) (w : Who) (gate : List Nat) : State :=
  ((s.bump).setSite x { s.site x with copies := tset (s.site x).copies n (newCopy desc iss w (tgetD (s.site x).copyGens n 0) gate s.fresh) }).postEv
    .copyDescriptorRead { site := x, a := n }

theorem startCopy_some {s : State} {x : Site} {n : Nat} (hn : n < 1024) (h : LowestFree (s.site x).copies n) (desc : Int) (iss : Issuer) (w : Who)
    (gate : List Nat) : s.startCopy x desc iss w gate
      = some (s.copyIn x n desc iss w gate, n, copyHandle n (tgetD (s.site x).copyGens n 0)) := by
  have hfind : freeCopy (s.site x) = some n := h.find hn
  unfold State.startCopy
  dsimp only
  rw [hfind]
  rfl

/-- R235, R238: a chain as it starts at address va. -/
def newChain (s : State) (x : Site) (n : Nat) (va : Int) (u : Nat) (w : Who) (fork : Option Nat) : CbChain :=
  { fetch := some (BitVec.ofInt 64 va), window := [], stack := [], who := w, uid := u, gen := tgetD (s.site x).chainGens n 0, gate := s.cmdGate u,
    copies := [], owed := [], fork := fork, testing := none, retest := 0, stopped := false, parked := none, ended := false }

/-- R235: the state in which slot n of an engine has the chain at an address. -/
def State.chainIn (s : State) (x : Site) (n : Nat) (va : Int) (u : Nat) (w : Who) (fork : Option Nat) : State :=
  (s.setSite x { s.site x with chains := tset (s.site x).chains n (newChain s x n va u w fork) }).postEv .commandBlockFetch { site := x, a := n }

theorem startChain_some {s : State} {x : Site} {n : Nat} (hn : n < 16) (h : LowestFree (s.site x).chains n) (va : Int) (u : Nat) (w : Who)
    (fork : Option Nat) : s.startChain x va u w (s.cmdGate u) fork
      = some (s.chainIn x n va u w fork, n, cbHandle n (tgetD (s.site x).chainGens n 0)) := by
  have hfind : freeCbSlot (s.site x) = some n := h.find hn
  simp only [State.startChain, hfind]
  rfl

/-! ## COPY, CBLK and FORK (R235, R237, R238) -/

/-- An instruction that raises no counter issues whatever else its form says of counting (R212). -/
theorem Issues.withCounts {s : State} {u : Nat} {t : Thread} {f : Fields} {m : Form} (h : Issues s u t f m) (hm : m.ctr = none)
    (g : Thread → Bool) : Issues s u t f { m with counts := g } :=
  ⟨h.runs, h.thr, h.legal, h.going, by have := h.free; simpa [Thread.blocked, hm] using this⟩

section Starts
variable {s b : State} {u n : Nat} {t k : Thread} {f : Fields} (hl : t.selLanes ≠ [])
include hl

theorem copy_starts (hi : Issues s u t f { opc := 0xC0, b := false, ctr := some .cp, counts := fun t => !(t.a0 f).pois && !t.selLanes.isEmpty })
    (ha : (t.a0 f).pois = false) (hn : n < 1024) (hfree : LowestFree (s.site t.src.site).copies n) (hk : k = t.addCtr .cp)
    (hb : b = (s.copyIn t.src.site n (s.baseOf t (fld f.lit 0 3) + ((t.a0 f).w.toNat : Int)) (.thread u) (t.who 0xC0) (s.cmdGate u)).setThr u k)
    {e : Eff} (he : e = .val (t.all (.ok (copyHandle n (tgetD (s.site t.src.site).copyGens n 0))))) (hr : Room s b t k f e) :
    Performs (.copy f) s u f b k e := by
  subst hk hb he
  refine exec_performs rfl hi ?_ (thr_setThr ..) hi.going rfl hr
  have hthr : (s.copyIn t.src.site n (s.baseOf t (fld f.lit 0 3) + ((t.a0 f).w.toNat : Int)) (.thread u) (t.who 0xC0) (s.cmdGate u)).thr? u = some t := hi.thr
  simp only [ha, List.isEmpty_eq_false_iff.2 hl, Zx, startCopy_some hn hfree, modThr_eq_setThr hthr, Bool.false_eq_true, if_false]

theorem cblk_starts (hi : Issues s u t f { opc := 0xC1, b := false, ctr := some .cp, counts := fun t => !(t.a0 f).pois && !t.selLanes.isEmpty })
    (ha : (t.a0 f).pois = false) (hn : n < 16) (hfree : LowestFree (s.site t.src.site).chains n) (hk : k = t.addCtr .cp)
    (hb : b = (s.chainIn t.src.site n (s.baseOf t (fld f.lit 0 3) + ((t.a0 f).w.toNat : Int)) u (t.who 0xC1) none).setThr u k)
    {e : Eff} (he : e = .val (t.all (.ok (cbHandle n (tgetD (s.site t.src.site).chainGens n 0))))) (hr : Room s b t k f e) :
    Performs (.cblk f) s u f b k e := by
  subst hk hb he
  refine exec_performs rfl hi ?_ (thr_setThr ..) hi.going rfl hr
  have hthr : (s.chainIn t.src.site n (s.baseOf t (fld f.lit 0 3) + ((t.a0 f).w.toNat : Int)) u (t.who 0xC1) none).thr? u = some t := hi.thr
  simp only [ha, List.isEmpty_eq_false_iff.2 hl, Zx, startChain_some hn hfree, modThr_eq_setThr hthr, Bool.false_eq_true, if_false]

/-- The state in which a FORK has started its chain in slot n, and thread u is as it then goes on. -/
def State.forked (s : State) (u : Nat) (t : Thread) (f : Fields) (n : Nat) (k : Thread) : State :=
  (s.chainIn t.src.site n (s.baseOf t (fld f.lit 7 3) + ((t.a0 f).w.toNat : Int)) u (t.who 0xC6) (some (fld f.lit 0 6))).setThr u k

/-- R238: a FORK whose operands are not poisoned starts its chain, then sends its task packet. -/
theorem fork_starts (hchain : bit f.lit 6 = true) {task : Bool} (htask : bit f.lit 10 = task)
    (hi : Issues s u t f { opc := 0xC6, b := task, ctr := some .cp, counts := (·.forks f) }) (ha : (t.a0 f).pois = false)
    (hbz : task = true → (t.b0 f).pois = false ∧ t.z0.pois = false) (hn : n < 16) (hfree : LowestFree (s.site t.src.site).chains n)
    (hsent : (if task then (s.forked u t f n (t.addCtr .cp)).sendTask t (t.b0 f).w t.z0 else some (s.forked u t f n (t.addCtr .cp))) = some b)
    (hk : b.thr? u = some k) (hend : k.ending = false)
    {e : Eff} (he : e = .val (t.all (.ok (cbHandle n (tgetD (s.site t.src.site).chainGens n 0))))) (hr : Room s b t k f e) :
    Performs (.fork f) s u f b k e := by
  subst he
  have hx : exec (.fork f) s = execFork f s := rfl
  rw [execFork, hchain, htask] at hx
  refine exec_performs hx hi ?_ hk hend rfl hr
  have hthr : (s.chainIn t.src.site n (s.baseOf t (fld f.lit 7 3) + ((t.a0 f).w.toNat : Int)) u (t.who 0xC6) (some (fld f.lit 0 6))).thr? u = some t := hi.thr
  have hclean : (task && ((t.b0 f).pois || t.z0.pois)) = false := by
    cases task
    · rfl
    · obtain ⟨hB, hz⟩ := hbz rfl
      rw [hB, hz]; rfl
  unfold State.forked at hsent
  simp only [ha, hclean, List.isEmpty_eq_false_iff.2 hl, Zx, startChain_some hn hfree, modThr_eq_setThr hthr, Option.map_some, hsent,
    Bool.and_false, Bool.or_false, Bool.false_eq_true, if_false, if_true]

/-- R238: a FORK without a chain sends its task packet alone, and its result is A. -/
theorem fork_sends (hchain : bit f.lit 6 = false) (htask : bit f.lit 10 = true) (hi : Issues s u t f { opc := 0xC6 })
    (hB : (t.b0 f).pois = false) (hz : t.z0.pois = false) (hsent : s.sendTask t (t.b0 f).w t.z0 = some b) (hk : b.thr? u = some k)
    (hend : k.ending = false) (hr : Room s b t k f (.val (t.all (t.a0 f)))) : Performs (.fork f) s u f b k (.val (t.all (t.a0 f))) := by
  have hx : exec (.fork f) s = execFork f s := rfl
  rw [execFork, hchain, htask] at hx
  refine exec_performs hx (hi.withCounts rfl _) ?_ hk hend rfl hr
  simp only [hB, hz, List.isEmpty_eq_false_iff.2 hl, hsent, Bool.false_and, Bool.and_false, Bool.or_false, Bool.false_eq_true, if_false, if_true]

end Starts

/-- R238: the task packet waits in a slot of the egress buffer, bound for its element. -/
theorem sendTask_some {s s1 : State} {t : Thread} {B : Word} {z : PWord} {n : Nat} (hn : n = 96 * fld B 23 2 + fld B 16 7) (hlt : fld B 16 7 < 96)
    (howns : s.owns t.part (.elem n) = true) (hs : s.reserve (.egress t.src.site false) false = some s1) :
    s.sendTask t B z = some (((s1.bump).modSite t.src.site (fun v =>
      { v with egress := v.egress ++ [t.task s.fresh n (fld B 8 8) z], egResv := v.egResv - 1 })).postEv
        .tokenEgressDepart { site := t.src.site, a := s.fresh }) := by
  have hfresh : s1.fresh = s.fresh := by
    simp only [State.reserve, Option.ite_none_right_eq_some, Option.some.injEq] at hs
    rw [← hs.2, State.setSite_fresh]
  subst hn
  simp only [State.sendTask, Nat.not_le.2 hlt, howns, hs, hfresh, decide_false, Bool.not_true, Bool.or_false, Bool.false_eq_true, if_false]
  rfl

/-! ## Cancelling (R236) -/

theorem cancelCopy_site (s : State) (x : Site) (n : Nat) : (s.cancelCopy x n).site x
    = { s.site x with copies := tmod (s.site x).copies n (fun c => { c with cancelled := true }) } := by
  unfold State.cancelCopy
  rw [State.site_congr (State.postEv_sites ..), State.modSite_site, if_pos rfl]

/-- R236: cancelling copies leaves the chains, and cancels each copy of the list. -/
theorem cancelCopies_site (x : Site) (ks : List Nat) (s : State) :
    ((ks.foldl (fun s k => s.cancelCopy x k) s).site x).chains = (s.site x).chains
    ∧ ∀ k y, tget ((ks.foldl (fun s k => s.cancelCopy x k) s).site x).copies k = some y →
      (k ∈ ks → y.cancelled = true) ∧ ((∀ z, tget (s.site x).copies k = some z → z.cancelled = true) → y.cancelled = true) := by
  induction ks generalizing s with
  | nil => exact ⟨rfl, fun k y hy => ⟨fun h => absurd h List.not_mem_nil, fun h => h y hy⟩⟩
  | cons n ks ih =>
    obtain ⟨hchains, hcopies⟩ := ih (s.cancelCopy x n)
    have hsite := cancelCopy_site s x n
    have hone : ∀ k z, tget ((s.cancelCopy x n).site x).copies k = some z →
        k = n ∨ (∀ z, tget (s.site x).copies k = some z → z.cancelled = true) → z.cancelled = true := by
      intro k z hz hk
      rw [hsite, tget_tmod] at hz
      split at hz
      · obtain ⟨c, -, rfl⟩ := Option.map_eq_some_iff.1 hz
        rfl
      · rename_i hne
        exact hk.elim (fun h => absurd h hne) (fun h => h z hz)
    refine ⟨hchains.trans (by rw [hsite]), fun k y hy => ⟨fun hk => ?_, fun hold => ?_⟩⟩
    · rcases List.mem_cons.1 hk with rfl | hk
      · exact (hcopies k y hy).2 (fun z hz => hone k z hz (.inl rfl))
      · exact (hcopies k y hy).1 hk
    · exact (hcopies k y hy).2 (fun z hz => hone k z hz (.inr hold))

theorem cancelChain_site {s : State} {x : Site} {n : Nat} {c : CbChain} (hc : tget (s.site x).chains n = some c) :
    tget ((s.cancelChain x n).site x).chains n = some { c with stopped := true, testing := none }
    ∧ ∀ k ∈ c.copies, ∀ y, tget ((s.cancelChain x n).site x).copies k = some y → y.cancelled = true := by
  have hdef : ∀ y, (s.cancelChain x n).site y = (c.copies.foldl (fun s k => s.cancelCopy x k)
      (s.modSite x (fun v => { v with chains := tset v.chains n { c with stopped := true, testing := none } }))).site y := by
    intro y
    simp only [State.cancelChain, hc]
    rfl
  rw [hdef]
  obtain ⟨hchains, hcopies⟩ := cancelCopies_site x c.copies
    (s.modSite x (fun v => { v with chains := tset v.chains n { c with stopped := true, testing := none } }))
  refine ⟨?_, fun k hk y hy => (hcopies k y hy).1 hk⟩
  rw [hchains, State.modSite_site, if_pos rfl, tget_tset_same]

theorem cancelCopy_eq {s : State} {x : Site} {n : Nat} {c : Copy} (hc : tget (s.site x).copies n = some c) : s.cancelCopy x n
    = (s.setSite x { s.site x with copies := tset (s.site x).copies n { c with cancelled := true } }).postEv .copyComplete { site := x, a := n } := by
  simp only [State.cancelCopy, State.modSite, tmod, hc]

theorem cancelCopy_threads (s : State) (x : Site) (n : Nat) : (s.cancelCopy x n).threads = s.threads := rfl

theorem cancelChain_threads (s : State) (x : Site) (n : Nat) : (s.cancelChain x n).threads = s.threads := by
  unfold State.cancelChain
  split
  · rfl
  · rw [State.postEv_threads, threads_foldl _ (fun s k => cancelCopy_threads s x k), State.modSite_threads]

theorem running_iff {s : State} {x : Site} {n : Nat} :
    s.running x n = true ↔ ∃ y, tget (s.site x).copies n = some y ∧ y.cancelled = false ∧ y.failed = false := by
  unfold State.running
  cases tget (s.site x).copies n <;> simp

section Cancel
variable {s : State} {u : Nat} {t : Thread} {f : Fields} (hi : Issues s u t f { opc := 0xC2, b := false }) (hl : t.selLanes ≠ [])
  (ha : (t.a0 f).pois = false)
include hi hl ha

/-- What CPCNL gives: A, and in `p` whether it cancelled something. -/
def cpcnlEff (t : Thread) (f : Fields) (b : Bool) : Eff := .valP (t.all (t.a0 f)) (allP t b)

theorem cpcnl_copy (hh : fld (t.a0 f).w 30 2 = 0) {c : Copy} (hc : tget (s.site t.src.site).copies (fld (t.a0 f).w 16 10) = some c)
    (hg : (t.a0 f).w = copyHandle (fld (t.a0 f).w 16 10) c.gen) (hcan : c.cancelled = false) (hfail : c.failed = false)
    (hr : Room s (s.cancelCopy t.src.site (fld (t.a0 f).w 16 10)) t t f (cpcnlEff t f true)) :
    Performs (.cpcnl f) s u f (s.cancelCopy t.src.site (fld (t.a0 f).w 16 10)) t (cpcnlEff t f true) := by
  refine exec_performs rfl hi ?_ hi.thr hi.going rfl hr
  simp only [ha, List.isEmpty_eq_false_iff.2 hl, hh, hc, ← hg, hcan, hfail, Bool.not_false, and_self, Bool.false_eq_true, if_false, if_true]
  rfl

theorem cpcnl_noCopy (hh : fld (t.a0 f).w 30 2 = 0) (hc : tget (s.site t.src.site).copies (fld (t.a0 f).w 16 10) = none)
    (hr : Room s s t t f (cpcnlEff t f false)) : Performs (.cpcnl f) s u f s t (cpcnlEff t f false) := by
  refine exec_performs rfl hi ?_ hi.thr hi.going rfl hr
  simp only [ha, List.isEmpty_eq_false_iff.2 hl, hh, hc, Bool.false_eq_true, if_false, if_true]
  rfl

theorem cpcnl_chain (hh : fld (t.a0 f).w 30 2 ≠ 0) {c : CbChain} (hc : tget (s.site t.src.site).chains (fld (t.a0 f).w 16 10) = some c)
    (hg : (t.a0 f).w = cbHandle (fld (t.a0 f).w 16 10) c.gen)
    (hruns : c.stopped = false ∨ ∃ k ∈ c.copies, ∃ y, tget (s.site t.src.site).copies k = some y ∧ y.cancelled = false ∧ y.failed = false)
    (hr : Room s (s.cancelChain t.src.site (fld (t.a0 f).w 16 10)) t t f (cpcnlEff t f true)) :
    Performs (.cpcnl f) s u f (s.cancelChain t.src.site (fld (t.a0 f).w 16 10)) t (cpcnlEff t f true) := by
  have hcond : (!c.stopped) = true ∨ c.copies.any (s.running t.src.site) = true := by
    simpa only [Bool.not_eq_true', List.any_eq_true, running_iff] using hruns
  refine exec_performs rfl hi ?_ ((State.thr_congr (cancelChain_threads ..) u).trans hi.thr) hi.going rfl hr
  simp only [ha, List.isEmpty_eq_false_iff.2 hl, hh, hc, ← hg, hcond, true_and, Bool.false_eq_true, if_false, if_true]
  rfl

/-- R236: a chain that has stopped, with no copy still running, has nothing to cancel. -/
theorem cpcnl_stoppedChain (hh : fld (t.a0 f).w 30 2 ≠ 0) {c : CbChain} (hc : tget (s.site t.src.site).chains (fld (t.a0 f).w 16 10) = some c)
    (hstop : c.stopped = true) (hruns : ¬∃ k ∈ c.copies, ∃ y, tget (s.site t.src.site).copies k = some y ∧ y.cancelled = false ∧ y.failed = false)
    (hr : Room s s t t f (cpcnlEff t f false)) : Performs (.cpcnl f) s u f s t (cpcnlEff t f false) := by
  have hcond : ¬((!c.stopped) = true ∨ c.copies.any (s.running t.src.site) = true) := by
    rw [hstop]
    simpa only [Bool.not_true, Bool.false_eq_true, false_or, List.any_eq_true, running_iff] using hruns
  refine exec_performs rfl hi ?_ hi.thr hi.going rfl hr
  simp only [ha, List.isEmpty_eq_false_iff.2 hl, hh, hc, hcond, and_false, Bool.false_eq_true, if_false]
  rfl

theorem cpcnl_noChain (hh : fld (t.a0 f).w 30 2 ≠ 0) (hc : tget (s.site t.src.site).chains (fld (t.a0 f).w 16 10) = none)
    (hr : Room s s t t f (cpcnlEff t f false)) : Performs (.cpcnl f) s u f s t (cpcnlEff t f false) := by
  refine exec_performs rfl hi ?_ hi.thr hi.going rfl hr
  simp only [ha, List.isEmpty_eq_false_iff.2 hl, hh, hc, Bool.false_eq_true, if_false]
  rfl

end Cancel

/-- Settles O35: each instruction from the slot that it takes or the handle that it cancels. -/
theorem engineInstructionResults : Obligations.EngineInstructionResults := by
  refine ⟨⟨?edgef, ?control⟩, ?starts, ?chain, ?cancel⟩
  case edgef =>
    intro s u t f hi hr
    exact exec_performs (m := { opc := 0xCB, b := false }) (body := fun _ t => .ok s { v := some (t.as f), ctl := true }) rfl hi
      (by rw [as_lanes]) hi.thr hi.going rfl hr
  case control =>
    intro s b t k f e hctl hmute
    simp only [State.emits, hctl, hmute, if_true, Bool.false_eq_true, if_false]
  case starts =>
    intro s u t f hl A B x v k all addr counts
    refine ⟨fun hi ha n hn hnone hlow hr => copy_starts hl hi ha hn ⟨hnone, hlow⟩ rfl rfl rfl hr, fun n hn hnone hlow => ?chains,
      fun hchain htask hi hB hz b hsent k' hk hend hr => fork_sends hl hchain htask hi hB hz hsent hk hend hr,
      fun hlt howns s1 hs => sendTask_some rfl hlt howns hs⟩
    have hfree : LowestFree v.chains n := ⟨hnone, hlow⟩
    refine ⟨fun hi ha hr => cblk_starts hl hi ha hn hfree rfl rfl rfl hr, fun hchain htask hi ha hr => ?_,
      fun hchain htask hi ha hB hz b hsent k' hk hend hr => ?_⟩
    · exact fork_starts hl hchain htask hi ha (fun h => Bool.noConfusion h) hn hfree rfl (thr_setThr ..) hi.going rfl hr
    · exact fork_starts hl hchain htask hi ha (fun _ => ⟨hB, hz⟩) hn hfree hsent hk hend rfl hr
  case chain =>
    intro s x n c hc
    obtain ⟨hchain, hcopies⟩ := cancelChain_site hc
    exact ⟨⟨_, hchain, rfl, rfl, rfl⟩, hcopies⟩
  case cancel =>
    intro s u t f hi hl ha h x n e
    refine ⟨fun hh => ⟨fun c hc hg hcan hfail hr => ?_, fun hc hr => cpcnl_noCopy hi hl ha hh hc hr⟩, fun hh => ⟨fun c hc hg =>
      ⟨fun hruns hr => cpcnl_chain hi hl ha hh hc hg hruns hr, fun hstop hruns hr => cpcnl_stoppedChain hi hl ha hh hc hstop hruns hr⟩,
      fun hc hr => cpcnl_noChain hi hl ha hh hc hr⟩⟩
    have hperf := cpcnl_copy hi hl ha hh hc hg hcan hfail
    rw [cancelCopy_eq hc] at hperf
    exact hperf hr

end Sys2Proof.Machine
end

section
/-! A token that leaves its tile's egress buffer (R208, R342): the tiles of the tokens that stay behind it are chosen in the same
step, where they are open. -/

namespace Sys2Proof.Machine

/-- R342: the tokens of a buffer, each with its tile where one of its stage is open. -/
def State.resolved (s : State) (ks : List Token) : List Token := ks.map (fun m => (s.resolve m).getD m)

/-- R348: counting a token that crosses to another die changes launches alone. -/
theorem countSent_launches (s : State) (k : Token) : ∃ ls, s.countSent k = { s with launches := ls } := by
  unfold State.countSent
  dsimp only
  split
  · exact ⟨s.launches, rfl⟩
  · exact ⟨_, rfl⟩

/-- R208: the state in which a token has left the current site's egress buffer for the fabric. -/
def State.onFabric (s : State) (k : Token) : State :=
  { s.setSite s.subj.site { s.site s.subj.site with egress := without (s.resolved (s.site s.subj.site).egress) k.id } with
    fabric := s.fabric ++ [k] }

/-- R208, R342: where a token leaves, the tokens that stay are those of the buffer with their tiles chosen. -/
theorem tokenEgressDepart_egress {s : State} {k : Token} (hfind : (s.site s.subj.site).egress.find? (fun m => m.id = s.subj.a) = some k)
    (hres : k.unres = none) (hidle : s.idleSite s.subj.site = false) (haway : s.away k.dst k.inv = false) (htask : s.taskWaits k = false)
    (hfirst : k.first (s.resolved (s.site s.subj.site).egress) = true) (hclear : s.clearAhead k (s.resolved (s.site s.subj.site).egress) = true) :
    ∃ s', exec .tokenEgressDepart s = .next s'
      ∧ (s'.site s.subj.site).egress = without (s.resolved (s.site s.subj.site).egress) k.id := by
  have hx : exec .tokenEgressDepart s = execTokenEgressDepart s := rfl
  have hk : s.resolve k = some k := by simp only [State.resolve, hres]
  unfold State.resolved at hfirst hclear
  rw [hx]
  simp only [execTokenEgressDepart, hfind, hk, hidle, haway, htask, hfirst, hclear, Bool.not_true, Bool.or_false, Bool.false_eq_true, if_false]
  obtain ⟨ls, hls⟩ := countSent_launches (s.onFabric k) k
  refine ⟨((s.onFabric k).countSent k).postEv .tokenIngressArrival { a := k.id }, rfl, ?_⟩
  rw [hls]
  exact congrArg SiteSt.egress ((State.setSite_site ..).trans (if_pos rfl))

namespace HeldBehind

/-- A data token of partition 0 from cell 0 of tile 0. -/
def token (id : Nat) (dst : Site) (unres : Option (Nat × Nat)) : Token :=
  { id := id, tag := ⟨0, 0, 0, 0, 0, 1, 0, .data, 0⟩, data := [.zero], dst := dst, cell := 0, fslot := 0, src := ⟨.tile 0, 0⟩, part := 0, region := 0,
    inv := 0, held := false, unres := unres, at_ := 0 }

/-- The token that leaves, for tile 1. -/
def leaving : Token := token 1 (.tile 1) none

/-- The token behind it, which waits for a tile of stage 1 on die 0. -/
def waiting : Token := token 2 (.tile 0) (some (0, 1))

/-- Tile 0 with both tokens in its egress buffer, and tile 1, of stage 1 of the same partition, open. -/
def state : State :=
  { State.reset with
    subj := { site := .tile 0, a := 1 }
    sites := [(.tile 0, { SiteSt.reset with part := some 0, valid := true, egress := [leaving, waiting] }),
      (.tile 1, { SiteSt.reset with part := some 0, valid := true, stage := 1 })]
    parts := [(0, { Part.reset with tiles := [0, 1] })] }

theorem waiting_resolves : state.resolved [leaving, waiting] = [leaving, token 2 (.tile 1) none] := by decide

end HeldBehind

/-- Refutes O44: the statement has the rest of the egress buffer stay as it was when a token leaves, but the step chooses the tile of a
token behind it that waits for an open tile of its stage (R342), and that token is then bound for this tile. -/
theorem not_tokenTransport : ¬ Obligations.TokenTransport := by
  intro h
  obtain ⟨hdepart, -⟩ := h HeldBehind.state HeldBehind.leaving rfl
  obtain ⟨s', hexec, hegress, -⟩ := hdepart rfl rfl rfl rfl rfl rfl rfl
  obtain ⟨s'', hexec', hegress'⟩ := tokenEgressDepart_egress (s := HeldBehind.state) (k := HeldBehind.leaving) rfl rfl rfl rfl rfl rfl rfl
  obtain rfl : s' = s'' := Host.Outcome.next.inj (hexec.symm.trans hexec')
  have hrest : without (HeldBehind.state.resolved [HeldBehind.leaving, HeldBehind.waiting]) 1 = [HeldBehind.waiting] := hegress'.symm.trans hegress
  rw [HeldBehind.waiting_resolves] at hrest
  exact absurd hrest (by decide)

end Sys2Proof.Machine
end

section
/-! Command-block chains (R224 to R228, R423 to R425): the fetch of a block, the block at the head of the window, tests that
wait or skip, and the chain's end. -/

namespace Sys2Proof.Machine

/-! ## A semaphore's new value (R229) -/

theorem State.retest_sites (s : State) (x : Site) : (s.retest x).sites = s.sites := foldl_same State.sites _ (fun _ _ => by rfl) _ s

theorem State.retestChains_sites (s : State) (x : Site) : (s.retestChains x).sites = s.sites :=
  foldl_same State.sites _ (fun _ _ => by rfl) _ s

theorem State.retestChains_mem (s : State) (x : Site) : (s.retestChains x).mem = s.mem := foldl_same State.mem _ (fun _ _ => by rfl) _ s

theorem State.setSem_site (s : State) (x y : Site) (k : Nat) (v : Word) :
    (s.setSem x k v).site y = if y = x then { s.site x with sems := tset (s.site x).sems k v } else s.site y := by
  have hsites : (s.setSem x k v).sites = (s.modSite x (fun z => { z with sems := tset z.sems k v })).sites :=
    (State.retestChains_sites ..).trans (State.retest_sites ..)
  rw [State.site_congr hsites, State.modSite_site]

@[simp] theorem State.setSem_mem (s : State) (x : Site) (k : Nat) (v : Word) : (s.setSem x k v).mem = s.mem :=
  (State.retestChains_mem ..).trans (mem_retest ..)

/-- Setting a semaphore gives it its value and leaves every other. -/
theorem State.setSem_sem (s : State) (x y : Site) (k j : Nat) (v : Word) :
    (s.setSem x k v).sem y j = if y = x ∧ j = k then v else s.sem y j := by
  unfold State.sem
  rw [State.setSem_site]
  by_cases hy : y = x
  · subst hy
    simp only [if_true, tgetD_tset, true_and]
  · simp only [hy, if_false, false_and]

theorem semBusy_eq_false {s : State} {x : Site} {k : Nat} : s.semBusy x k = false ↔ s.semReady x k = [] := by
  simp only [State.semBusy, Bool.not_eq_false', List.isEmpty_iff]

/-- R229: an addition takes effect at once, or is queued behind the waits that are ready. -/
theorem addSem_eq (s : State) (x : Site) (k : Nat) (v : Word) (inv : Nat) : s.addSem x k v inv
    = if s.semReady x k = [] then s.setSem x k (s.sem x k + v) else s.queueSem x k v false [] 0 inv := by
  unfold State.addSem
  by_cases h : s.semReady x k = []
  · rw [semBusy_eq_false.2 h, if_pos h]
    rfl
  · rw [(Bool.not_eq_false _).mp (fun hb => h (semBusy_eq_false.1 hb)), if_neg h]
    rfl

/-! ## Waits of a semaphore (R229) -/

section Tables
variable {κ α : Type} [DecidableEq κ]

theorem mem_tset {t : Tbl κ α} {k : κ} {a : α} {e : κ × α} (h : e ∈ tset t k a) : e = (k, a) ∨ e ∈ t := by
  induction t with
  | nil => exact .inl (List.mem_singleton.1 h)
  | cons d t ih =>
    obtain ⟨j, b⟩ := d
    unfold tset at h
    split at h
    · next hj => exact (List.mem_cons.1 h).imp (hj ▸ ·) (List.mem_cons_of_mem _)
    · rcases List.mem_cons.1 h with rfl | h
      · exact .inr List.mem_cons_self
      · exact (ih h).imp_right (List.mem_cons_of_mem _)

theorem mem_of_tget {t : Tbl κ α} {k : κ} {a : α} (h : tget t k = some a) : (k, a) ∈ t := by
  induction t with
  | nil => cases h
  | cons d t ih =>
    obtain ⟨j, b⟩ := d
    unfold tget at h
    split at h
    · next hj => cases h; subst hj; exact List.mem_cons_self
    · exact List.mem_cons_of_mem _ (ih h)

end Tables

/-- R229: a semaphore without a satisfied wait has none either where a thread has changed in nothing that a wait is found by. -/
theorem semReady_setThr {s : State} {u : Nat} {t t' : Thread} {x : Site} {k : Nat} (hu : s.thr? u = some t) (hsrc : t'.src = t.src)
    (hstat : t'.stat = t.stat) (hwait : t'.wait = t.wait) (h : s.semReady x k = []) : (s.setThr u t').semReady x k = [] := by
  unfold State.semReady at h ⊢
  rw [List.filter_eq_nil_iff] at h ⊢
  intro e he
  rcases mem_tset he with rfl | he
  · rw [hsrc, hstat, hwait]
    exact h _ (mem_of_tget hu)
  · exact h e he

theorem semReady_congr {s s' : State} (hthreads : s'.threads = s.threads) {x : Site} {k : Nat} (hsem : s'.sem x k = s.sem x k) :
    s'.semReady x k = s.semReady x k := by
  unfold State.semReady
  rw [hthreads, hsem]

/-! ## The fetch of a block (R226, R423) -/

/-- R226: a read that its page and its line serve, with no uncorrectable error under it. -/
theorem cbRead_ok {s s1 : State} {x : Site} {n : Nat} {c : CbChain} {va : Int} {k pa r : Nat} (again : State → State)
    (hx : s.engXlate c.who.part x va false 0 = .ok pa r) (hap : isAperture pa = false)
    (ht : s.engTouch c.who.part c.who.region x 4 0 pa r = some s1) (hb : s1.badAt pa k = false) :
    s.cbRead x n c va k 4 again = .ok s1 (s1.engRead x 4 pa k) := by
  have hbad : s1.engBad x 4 pa k = false := hb
  simp only [State.cbRead, hx, hap, ht, hbad, Bool.false_eq_true, if_false]

theorem State.setCb_cb (s : State) (x : Site) (n : Nat) (c : CbChain) : (s.setCb x n c).cb? x n = some c := by
  simp only [State.cb?, State.setCb, State.modSite_site, if_true, tget_tset_same]

theorem State.callHead_sites (s : State) (x : Site) (n : Nat) (c : CbChain) : (s.callHead x n c).sites = s.sites := by
  unfold State.callHead
  split <;> rfl

/-- The chain once the block at its link stands in its empty window. -/
def CbChain.fetched (c : CbChain) (b : Block) (more : Bool) : CbChain :=
  { c with window := [b], fetch := if more then some (BitVec.ofNat 64 b.next) else none }

/-- R423: the block that an aligned link names enters the empty window. -/
theorem cbFetch_enters {s s1 : State} {x : Site} {n : Nat} {c : CbChain} {l : DWord} {pa r : Nat} (hwin : c.window = []) (hl : l.toNat % 64 = 0)
    (hx : s.engXlate c.who.part x l.toInt false 0 = .ok pa r) (hap : isAperture pa = false)
    (ht : s.engTouch c.who.part c.who.region x 4 0 pa r = some s1) (hb : s1.badAt pa 64 = false) :
    ∃ more, (s.cbFetch x n c l).cb? x n = some (c.fetched ⟨l.toInt, s1.engRead x 4 pa 64⟩ more) := by
  have hcb : ∀ c', ((s1.setCb x n c').callHead x n c').cb? x n = some c' := fun c' => by
    unfold State.cb?
    rw [State.site_congr (State.callHead_sites ..)]
    exact State.setCb_cb ..
  unfold State.cbFetch
  simp only [hl, cbRead_ok _ hx hap ht hb, hwin, List.nil_append, ne_eq, not_true_eq_false, if_false, if_true]
  split
  · exact ⟨true, hcb (c.fetched _ true)⟩
  · exact ⟨false, hcb (c.fetched _ false)⟩

section Chain
variable {s : State} {c : CbChain} (hc : s.cb? s.subj.site s.subj.a = some c) (hstop : c.stopped = false) (hpark : c.parked = none)
  (hidle : s.copyIdle s.subj.site c.who.part = false)
include hc hstop hpark hidle

theorem commandBlockFetch_fetches {l : DWord} (hb : s.subj.b = 0) (hend : c.ended = false) (hgate : s.gateOpen c.gate = true) (hwin : c.window = [])
    (hl : c.fetch = some l) : exec .commandBlockFetch s = .next (s.cbFetch s.subj.site s.subj.a c l) := by
  have hx : exec .commandBlockFetch s = execCommandBlockFetch s := rfl
  rw [hx]
  simp [execCommandBlockFetch, hc, hstop, hpark, hidle, hb, hend, hgate, hwin, hl]

/-! ## The block at the head of the window (R224, R225) -/

/-- R225: the event of each kind of block. -/
def kindEvent : Nat → Instr
  | 0 => .linkBlock
  | 1 => .copyBlock
  | 2 => .semaphoreBlock
  | 3 => .testBlock
  | 4 => .loopBlock
  | 5 => .callBlock
  | 6 => .returnBlock
  | _ => .fetchFenceBlock

omit hc hstop hpark hidle in
theorem blockEvent_of_ok {p : Nat} {x : Site} {b : Block} (h : s.blockOk p x b = true) : s.blockEvent p x b = kindEvent b.kind := by
  simp only [State.blockEvent, h, Bool.not_true, Bool.false_eq_true, if_false]
  rfl

/-- A well-formed block of a kind is next to run and waits for nothing: its copies under a wait bit have completed, and a kind whose
links are fetched ahead has its window complete. -/
def HeadRuns (s : State) (c : CbChain) (b : Block) (kind : Nat) : Prop :=
  (∃ w, c.window = b :: w) ∧ c.ended = false ∧ c.testing = none ∧ s.blockOk c.who.part s.subj.site b = true ∧ b.kind = kind
    ∧ (b.waits = true → c.copies = []) ∧ (kind ≤ 2 → c.complete = true)

/-- R224, R423: a block that is next to run, and waits for nothing, runs as its event. -/
theorem cbRun_runs (i : Instr) {kind : Nat} (hi : kindEvent kind = i) {b : Block} (hhead : HeadRuns s c b kind)
    (body : Site → Nat → CbChain → Block → State) : s.cbRun i body = .next (body s.subj.site s.subj.a c b) := by
  obtain ⟨⟨w, hwin⟩, hend, htest, hok, hkind, hwaits, hahead⟩ := hhead
  have hev : s.blockEvent c.who.part s.subj.site b = i := (blockEvent_of_ok hok).trans (hkind ▸ hi)
  have hnowait : (b.waits && !c.copies.isEmpty) = false := by
    cases h : b.waits
    · rfl
    · rw [hwaits h]; rfl
  have hcomplete : (b.ahead && !c.complete) = false := by
    by_cases h : kind ≤ 2
    · rw [hahead h, Bool.not_true, Bool.and_false]
    · rw [Block.ahead, hkind, decide_eq_false h, Bool.false_and]
  simp only [State.cbRun, hc, hstop, hpark, hidle, hend, htest, hwin, hev, hnowait, hcomplete, Option.isSome_none, Bool.or_false, ne_eq,
    not_true_eq_false, Bool.false_eq_true, if_false]

omit hc hstop hpark hidle in
/-- R225: after the last block of a chain, with no fetch in flight, the chain ends. -/
theorem cbNext_last {r : State} {x : Site} {n : Nat} {d : CbChain} {b : Block} (h : d.window = [b] ∧ d.fetch = none) :
    r.cbNext x n d = r.cbGo x n d 0 := by
  obtain ⟨hwin, hfetch⟩ := h
  simp only [State.cbNext, hwin, hfetch, List.drop_succ_cons, List.drop_zero]

theorem linkBlock_ends {b : Block} (hhead : HeadRuns s c b 0) (hlast : c.window = [b] ∧ c.fetch = none) :
    exec .linkBlock s = .next (s.cbGo s.subj.site s.subj.a c 0) :=
  (cbRun_runs hc hstop hpark hidle .linkBlock rfl hhead (fun x n c _ => s.cbNext x n c)).trans (congrArg _ (cbNext_last hlast))

theorem copyBlock_starts {b : Block} {k : Nat} {s1 : State} {h : Word} (hhead : HeadRuns s c b 1) (hlast : c.window = [b] ∧ c.fetch = none)
    (hs : s.startCopy s.subj.site (linkVa (b.q 0x18 8)) (.chain s.subj.a) c.who [] = some (s1, k, h)) :
    exec .copyBlock s = .next (s1.cbGo s.subj.site s.subj.a { c with copies := c.copies ++ [k] } 0) := by
  have hx : exec .copyBlock s = execCopyBlock s := rfl
  have hnext : s1.cbNext s.subj.site s.subj.a { c with copies := c.copies ++ [k] } = s1.cbGo s.subj.site s.subj.a { c with copies := c.copies ++ [k] } 0 :=
    cbNext_last hlast
  rw [hx, execCopyBlock, cbRun_runs hc hstop hpark hidle .copyBlock rfl hhead, hs]
  exact congrArg _ hnext

/-- R225: the site of a semaphore block's semaphore. -/
def semSite (x : Site) (w : Nat) : Site := if nfld w 15 1 = 1 then .tile (nfld w 6 9) else x

/-- R225: the value that a semaphore block gives its semaphore. -/
def semValue (s : State) (y : Site) (w : Nat) (v : Word) : Word := if nfld w 16 2 = 1 then v else s.sem y (nfld w 0 6) + v

theorem semaphoreBlock_sets {b : Block} (hhead : HeadRuns s c b 2) (hlast : c.window = [b] ∧ c.fetch = none)
    (haway : s.away (semSite s.subj.site (b.q 0x18 4)) c.who.inv = false)
    (hready : s.semReady (semSite s.subj.site (b.q 0x18 4)) (nfld (b.q 0x18 4) 0 6) = []) (hrel : nfld (b.q 0x18 4) 18 3 = 0) :
    exec .semaphoreBlock s = .next ((s.setSem (semSite s.subj.site (b.q 0x18 4)) (nfld (b.q 0x18 4) 0 6)
      (semValue s (semSite s.subj.site (b.q 0x18 4)) (b.q 0x18 4) (w32 (b.q 0x1C 4)))).cbGo s.subj.site s.subj.a c 0) := by
  have hx : exec .semaphoreBlock s = execSemaphoreBlock s := rfl
  have hbusy := semBusy_eq_false.2 hready
  unfold semSite at haway hbusy
  rw [hx, execSemaphoreBlock, cbRun_runs hc hstop hpark hidle .semaphoreBlock rfl hhead]
  simp only [haway, hbusy, hrel, bne_self_eq_false, Bool.false_and, Bool.or_false, Bool.false_eq_true, if_false]
  exact congrArg _ (cbNext_last hlast)

/-! ## Tests (R225, R424) -/

omit hc hstop hpark hidle in
/-- R225: a test of a semaphore reads it at once. -/
theorem testValue_sem {x : Site} {n : Nat} {b : Block} (hsem : nfld (b.q 0x18 4) 0 1 = 0) (again : State → State) :
    s.testValue x n c b again = .ok s (leBytes 4 (s.sem x (nfld (b.q 0x18 4) 6 6)).toNat) := by
  simp only [State.testValue, hsem, if_true]

/-- R225: whether the value of the semaphore that a test names passes it. -/
def semTest (s : State) (x : Site) (b : Block) : Bool :=
  testHolds (nfld (b.q 0x18 4) 1 3) (s.sem x (nfld (b.q 0x18 4) 6 6) &&& w32 (b.q 0x28 4)) (w32 (b.q 0x2C 4))

omit hc hstop hpark hidle in
theorem holds_sem (x : Site) (b : Block) : b.holds (leBytes 4 (s.sem x (nfld (b.q 0x18 4) 6 6)).toNat) = semTest s x b := by
  have hword : w32 (leNat (leBytes 4 (s.sem x (nfld (b.q 0x18 4) 6 6)).toNat)) = s.sem x (nfld (b.q 0x18 4) 6 6) := by
    have hlt : (s.sem x (nfld (b.q 0x18 4) 6 6)).toNat < 256 ^ 4 := (s.sem x (nfld (b.q 0x18 4) 6 6)).isLt
    rw [leNat_leBytes, Nat.mod_eq_of_lt hlt]
    exact BitVec.ofNat_toNat _ _
  unfold Block.holds
  rw [hword]
  rfl

omit hc hstop hpark hidle in
theorem runTest_sem {x : Site} {n : Nat} {b : Block} (hsem : nfld (b.q 0x18 4) 0 1 = 0) (again : State → State) (waiting : Bool) :
    s.runTest x n c b again waiting = if semTest s x b then s.cbGo x n c b.next else if waiting then again s else s.testFalse x n c b again := by
  simp only [State.runTest, testValue_sem hsem, holds_sem]

theorem testBlock_runs {b : Block} (hhead : HeadRuns s c b 3) : exec .testBlock s = .next (if c.skipping then
      s.skipBlock s.subj.site s.subj.a c b (fun s' => s'.postEv .testBlock { site := s.subj.site, a := s.subj.a, b := 1 })
    else s.runTest s.subj.site s.subj.a c b (fun s' => s'.postEv .testBlock { site := s.subj.site, a := s.subj.a, b := 1 }) false) := by
  have hx : exec .testBlock s = execTestBlock s := rfl
  rw [hx, execTestBlock, cbRun_runs hc hstop hpark hidle .testBlock rfl hhead]

/-- R225: a test of a semaphore that holds goes on at its link. -/
theorem testBlock_holds {b : Block} (hhead : HeadRuns s c b 3) (hskip : c.skipping = false) (hsem : nfld (b.q 0x18 4) 0 1 = 0)
    (hholds : semTest s s.subj.site b = true) : exec .testBlock s = .next (s.cbGo s.subj.site s.subj.a c b.next) := by
  rw [testBlock_runs hc hstop hpark hidle hhead]
  simp only [hskip, runTest_sem hsem, hholds, Bool.false_eq_true, if_false, if_true]

theorem testBlock_alternate {b : Block} (hhead : HeadRuns s c b 3) (hskip : c.skipping = false) (hsem : nfld (b.q 0x18 4) 0 1 = 0)
    (hfails : semTest s s.subj.site b = false) (halt : nfld (b.q 0x18 4) 4 2 = 0) :
    exec .testBlock s = .next (s.cbGo s.subj.site s.subj.a c b.alt) := by
  rw [testBlock_runs hc hstop hpark hidle hhead]
  simp only [hskip, runTest_sem hsem, hfails, State.testFalse, halt, Bool.false_eq_true, if_false]

/-- R424: a chain that skips takes the link of the block that it skips. -/
theorem testBlock_skips {b : Block} {pa r : Nat} {s1 : State} (hhead : HeadRuns s c b 3) (hskip : c.skipping = true) (hnext : b.next ≠ 0)
    (hx : s.engXlate c.who.part s.subj.site (linkVa b.next) false 0 = .ok pa r) (hap : isAperture pa = false)
    (ht : s.engTouch c.who.part c.who.region s.subj.site 4 0 pa r = some s1) (hb : s1.badAt pa 64 = false)
    (hset : s.setCb s.subj.site s.subj.a c = s) (hl : (Block.mk 0 (s1.engRead s.subj.site 4 pa 64)).next % 64 = 0) :
    exec .testBlock s = .next (s1.cbGo s.subj.site s.subj.a c (Block.mk 0 (s1.engRead s.subj.site 4 pa 64)).next) := by
  have hsame : { c with skipping := true } = c := by rw [← hskip]
  rw [testBlock_runs hc hstop hpark hidle hhead]
  simp only [hskip, State.skipBlock, hnext, hsame, hset, cbRead_ok _ hx hap ht hb, hl, ne_eq, not_true_eq_false, if_false, if_true]

section Waiting
variable {b : Block} {w : List Block} (hwin : c.window = b :: w) (hsem : nfld (b.q 0x18 4) 0 1 = 0)
include hwin hsem

theorem testBlockRetest_tests (htest : c.testing.isSome = true) : exec .testBlockRetest s
    = .next (if semTest s s.subj.site b then s.cbGo s.subj.site s.subj.a c b.next else s) := by
  have hx : exec .testBlockRetest s = execTestBlockRetest s := rfl
  obtain ⟨d, hd⟩ := Option.isSome_iff_exists.1 htest
  rw [hx]
  simp [execTestBlockRetest, hc, hd, hwin, hstop, hpark, hidle, hsem, runTest_sem hsem]

theorem testBlockTimeout_goes {d : Nat} (htest : c.testing = some (some d)) (hd : d ≤ s.work c.who.part) : exec .testBlockTimeout s
    = .next (s.cbGo s.subj.site s.subj.a c (if semTest s s.subj.site b then b.next else b.alt)) := by
  have hx : exec .testBlockTimeout s = execTestBlockTimeout s := rfl
  have hlate : ¬s.work c.who.part < d := Nat.not_lt.2 hd
  rw [hx]
  simp [execTestBlockTimeout, hc, htest, hwin, hstop, hpark, hidle, hlate, testValue_sem hsem, holds_sem]

end Waiting

/-! ## Loops, calls, returns and fences (R225, R226) -/

theorem loopBlock_runs {b : Block} (hhead : HeadRuns s c b 4) : exec .loopBlock s = .next (if b.q 0x18 4 = 0 then
      s.cbGo s.subj.site s.subj.a c b.next
    else if 4 ≤ c.stack.length then s.cbFault s.subj.site s.subj.a c b.va
    else s.cbGo s.subj.site s.subj.a { c with stack := .loop (BitVec.ofNat 64 b.next) (BitVec.ofNat 64 b.body) (b.q 0x18 4) :: c.stack } b.body) := by
  have hx : exec .loopBlock s = execLoopBlock s := rfl
  rw [hx, execLoopBlock, cbRun_runs hc hstop hpark hidle .loopBlock rfl hhead]

/-- R423: a call's pointer is read as the block runs. -/
theorem callBlock_calls {b : Block} {pa r : Nat} {s1 : State} (hhead : HeadRuns s c b 5) (hroom : c.stack.length < 4)
    (hx : s.engXlate c.who.part s.subj.site (linkVa b.body) false 0 = .ok pa r) (hap : isAperture pa = false)
    (ht : s.engTouch c.who.part c.who.region s.subj.site 4 0 pa r = some s1) (hb : s1.badAt pa 8 = false)
    (hl : leNat (s1.engRead s.subj.site 4 pa 8) % 64 = 0) : exec .callBlock s
      = .next (s1.cbGo s.subj.site s.subj.a { c with stack := .call (BitVec.ofNat 64 b.next) :: c.stack } (leNat (s1.engRead s.subj.site 4 pa 8))) := by
  have hrun : exec .callBlock s = execCallBlock s := rfl
  rw [hrun, execCallBlock, cbRun_runs hc hstop hpark hidle .callBlock rfl hhead]
  simp only [Nat.not_le.2 hroom, cbRead_ok _ hx hap ht hb, hl, ne_eq, not_true_eq_false, if_false]

section Return
variable {b : Block} (hhead : HeadRuns s c b 6)
include hhead

/-- R226: a return without a call or a loop to return to. -/
theorem returnBlock_faults (hstack : c.stack = []) : exec .returnBlock s = .next (s.cbFault s.subj.site s.subj.a c b.va) := by
  have hx : exec .returnBlock s = execReturnBlock s := rfl
  rw [hx, execReturnBlock, cbRun_runs hc hstop hpark hidle .returnBlock rfl hhead, hstack]

theorem returnBlock_returns {l : DWord} {r : List RetEnt} (hstack : c.stack = .call l :: r) :
    exec .returnBlock s = .next (s.cbGo s.subj.site s.subj.a { c with stack := r } l.toNat) := by
  have hx : exec .returnBlock s = execReturnBlock s := rfl
  rw [hx, execReturnBlock, cbRun_runs hc hstop hpark hidle .returnBlock rfl hhead, hstack]

/-- R225: the last round of a loop goes on behind it, every other at its body. -/
theorem returnBlock_loops {l body : DWord} {k : Nat} {r : List RetEnt} (hstack : c.stack = .loop l body k :: r) : exec .returnBlock s
    = .next (if 1 < k then s.cbGo s.subj.site s.subj.a { c with stack := .loop l body (k - 1) :: r } body.toNat
      else s.cbGo s.subj.site s.subj.a { c with stack := r } l.toNat) := by
  have hx : exec .returnBlock s = execReturnBlock s := rfl
  rw [hx, execReturnBlock, cbRun_runs hc hstop hpark hidle .returnBlock rfl hhead, hstack]

end Return

theorem fetchFenceBlock_goes {b : Block} (hhead : HeadRuns s c b 7) (hcopies : c.copies = []) :
    exec .fetchFenceBlock s = .next (s.cbGo s.subj.site s.subj.a c b.next) := by
  have hx : exec .fetchFenceBlock s = execFetchFenceBlock s := rfl
  rw [hx, execFetchFenceBlock, cbRun_runs hc hstop hpark hidle .fetchFenceBlock rfl hhead]
  simp only [hcopies, ne_eq, not_true_eq_false, if_false]

end Chain

/-! ## The end of a chain (R228, R238) -/

/-- R228: the state in which an ended chain has left its slot n of engine x. -/
def State.slotLeft (s : State) (x : Site) (n : Nat) (c : CbChain) : State :=
  (s.modSite x (fun v => { v with chains := tdel v.chains n, chainGens := tset v.chainGens n (c.gen + 1) })).modFences x
    (fun e => if e.chains.contains (x, n, c.gen.toNat) then { e with owed := e.owed ++ c.owed } else e)

/-- R228: the state in which it no longer counts in the `ncp` of its thread. -/
def State.leaveChain (s : State) (x : Site) (n : Nat) (c : CbChain) : State :=
  (((s.slotLeft x n c).modThr c.uid (fun t => { t with cpOwed := (s.slotLeft x n c).unacked (t.cpOwed ++ c.owed) })).fall c.uid .cp).retest x

theorem chainEnd_leaves {s : State} {c : CbChain} (hc : s.cb? s.subj.site s.subj.a = some c) (hend : c.ended = true) (hstop : c.stopped = false)
    (hcopies : c.copies = []) : exec .chainEnd s
      = .next ((s.leaveChain s.subj.site s.subj.a c).forkDone s.subj.site s.subj.a c) := by
  have hx : exec .chainEnd s = execChainEnd s := rfl
  rw [hx]
  simp only [execChainEnd, hc, hend, hstop, hcopies, Bool.true_or, Bool.not_true, ne_eq, not_true_eq_false, Bool.false_eq_true, if_false]
  rfl

theorem State.modFences_sites (s : State) (x : Site) (g : FenceEnt → FenceEnt) : (s.modFences x g).sites = s.sites := rfl

theorem slotLeft_site (s : State) (x y : Site) (n : Nat) (c : CbChain) : (s.slotLeft x n c).site y = if y = x then
      { s.site x with chains := tdel (s.site x).chains n, chainGens := tset (s.site x).chainGens n (c.gen + 1) } else s.site y :=
  (State.site_congr (State.modFences_sites ..) y).trans (State.modSite_site ..)

theorem State.fall_sites (s : State) (u : Nat) (c : Ctr) : (s.fall u c).sites = s.sites := by
  unfold State.fall
  split
  · rfl
  · split <;> rfl

theorem leaveChain_site (s : State) (x y : Site) (n : Nat) (c : CbChain) : (s.leaveChain x n c).site y = (s.slotLeft x n c).site y :=
  State.site_congr ((State.retest_sites ..).trans (State.fall_sites ..)) y

theorem leaveChain_mem (s : State) (x : Site) (n : Nat) (c : CbChain) : (s.leaveChain x n c).mem = s.mem :=
  (mem_retest ..).trans (mem_fall ..)

theorem leaveChain_sem (s : State) (x y : Site) (n j : Nat) (c : CbChain) : (s.leaveChain x n c).sem y j = s.sem y j := by
  unfold State.sem
  rw [leaveChain_site, slotLeft_site]
  split
  · next h => rw [h]
  · rfl

section Leave
variable {s : State} {c : CbChain} {t : Thread} (ht : s.thr? c.uid = some t)
include ht

/-- R228: the thread owes what the chain owed, and one copy less is outstanding. -/
def leftThread (s : State) (x : Site) (n : Nat) (c : CbChain) (t : Thread) : Thread :=
  { t with cpOwed := (s.slotLeft x n c).unacked (t.cpOwed ++ c.owed), ncp := t.ncp - 1 }

/-- A fall of a counter and the tests that follow it leave every other thread as it was. -/
theorem leaveChain_threads (x : Site) (n : Nat) : (s.leaveChain x n c).threads
    = ((s.setThr c.uid { t with cpOwed := (s.slotLeft x n c).unacked (t.cpOwed ++ c.owed) }).setThr c.uid (leftThread s x n c t)).threads := by
  have hslot : (s.slotLeft x n c).thr? c.uid = some t := ht
  have hretest : (s.leaveChain x n c).threads = (((s.slotLeft x n c).modThr c.uid
      (fun t => { t with cpOwed := (s.slotLeft x n c).unacked (t.cpOwed ++ c.owed) })).fall c.uid .cp).threads :=
    (threadsStay_retest ..).threads
  rw [hretest, modThr_eq_setThr hslot]
  unfold State.fall
  rw [thr_setThr]
  dsimp only
  split
  · rfl
  · rfl

theorem leaveChain_thr (x : Site) (n : Nat) : (s.leaveChain x n c).thr? c.uid = some (leftThread s x n c t) :=
  (State.thr_congr (leaveChain_threads ht x n) _).trans (thr_setThr ..)

theorem leaveChain_semReady {x y : Site} {n j : Nat} (h : s.semReady y j = []) : (s.leaveChain x n c).semReady y j = [] := by
  rw [semReady_congr (leaveChain_threads ht x n) (leaveChain_sem ..)]
  exact semReady_setThr (thr_setThr ..) rfl rfl rfl (semReady_setThr ht rfl rfl rfl h)

end Leave

/-- R238: what the rendezvous of a FORK on a tile leaves: the slots of the engine, memory and threads as they are, its semaphore raised
by one. -/
theorem forkDone_sem {s : State} {x : Site} (n : Nat) {c : CbChain} (hx : isElem x = false) (hready : ∀ j, c.fork = some j → s.semReady x j = []) :
    ((s.forkDone x n c).site x).chains = (s.site x).chains ∧ ((s.forkDone x n c).site x).chainGens = (s.site x).chainGens
    ∧ (s.forkDone x n c).mem = s.mem ∧ (s.forkDone x n c).threads = s.threads
    ∧ ∀ j, (s.forkDone x n c).sem x j = if c.fork = some j then s.sem x j + 1 else s.sem x j := by
  unfold State.forkDone
  cases hf : c.fork with
  | none => exact ⟨rfl, rfl, rfl, rfl, fun j => rfl⟩
  | some k =>
    simp only [hx, addSem_eq, hready k hf, Bool.false_eq_true, if_false, State.setSem_site, if_true, State.setSem_mem, State.setSem_threads,
      State.setSem_sem, true_and, Option.some.injEq]
    intro j
    by_cases hj : j = k
    · subst hj
      simp only [if_true]
    · simp only [hj, Ne.symm hj, if_false]

/-- Settles O47: each block from the run of the window's head, a fetch and a skip from a read that is served, and the end of the chain. -/
theorem commandBlockEvents : Obligations.CommandBlockEvents := by
  intro s c x n hc hstop hpark hidle go head last
  refine ⟨?fetch, fun b hhead hlast => linkBlock_ends hc hstop hpark hidle hhead hlast,
    fun b k s1 h hhead hlast hs => copyBlock_starts hc hstop hpark hidle hhead hlast hs, ?semaphore, ?test, ?skip, ?loop, ?call, ?ret,
    fun b hhead hcopies => fetchFenceBlock_goes hc hstop hpark hidle hhead hcopies, ?ends⟩
  case fetch =>
    intro l hb hend hgate hwin hl
    have hx := commandBlockFetch_fetches hc hstop hpark hidle hb hend hgate hwin hl
    refine ⟨fun hmis => hx.trans (congrArg _ (if_pos hmis)), fun pa r s1 hal hxl hap ht hbad _ => ?_⟩
    obtain ⟨more, hcb⟩ := cbFetch_enters hwin hal hxl hap ht hbad
    exact ⟨_, _, hx, hcb, rfl, rfl, rfl⟩
  case semaphore =>
    intro b hhead hlast w y v haway hready hrel
    rw [semaphoreBlock_sets hc hstop hpark hidle hhead hlast haway hready hrel]
    unfold semValue
    split <;> rfl
  case test =>
    intro b hb hsem v k holds
    have hwin : ∃ w, c.window = b :: w := hb.elim (·.1) (·.1)
    obtain ⟨w, hwin⟩ := hwin
    refine ⟨fun hhead hskip hholds => testBlock_holds hc hstop hpark hidle hhead hskip hsem hholds,
      fun hhead hskip hfails halt => testBlock_alternate hc hstop hpark hidle hhead hskip hsem hfails halt,
      fun htest hholds => ?_, fun htest hfails => ?_, fun d htest hd => testBlockTimeout_goes hc hstop hpark hidle hwin hsem htest hd⟩
    · rw [testBlockRetest_tests hc hstop hpark hidle hwin hsem htest]
      exact congrArg _ (if_pos hholds)
    · rw [testBlockRetest_tests hc hstop hpark hidle hwin hsem htest]
      exact congrArg _ (if_neg (Bool.eq_false_iff.1 hfails))
  case skip =>
    intro b pa r s1 hhead hskip hnext hx hap ht hb _ hset l hl
    exact testBlock_skips hc hstop hpark hidle hhead hskip hnext hx hap ht hb hset hl
  case loop =>
    intro b hhead
    rw [loopBlock_runs hc hstop hpark hidle hhead]
    exact ⟨fun h0 => congrArg _ (if_pos h0), fun h0 hroom => congrArg _ ((if_neg h0).trans (if_neg (Nat.not_le.2 hroom))),
      fun h0 hfull => congrArg _ ((if_neg h0).trans (if_pos hfull))⟩
  case call =>
    intro b pa r s1 hhead hroom hx hap ht hb l hl
    exact callBlock_calls hc hstop hpark hidle hhead hroom hx hap ht hb hl
  case ret =>
    intro b hhead
    refine ⟨fun hstack => returnBlock_faults hc hstop hpark hidle hhead hstack,
      fun l r hstack => returnBlock_returns hc hstop hpark hidle hhead hstack, fun l body k r hstack hk => ?_, fun l body k r hstack hk => ?_⟩
    · rw [returnBlock_loops hc hstop hpark hidle hhead hstack, if_pos hk]
      rfl
    · rw [returnBlock_loops hc hstop hpark hidle hhead hstack, if_neg (Nat.not_lt.2 hk)]
      rfl
  case ends =>
    intro t hend hcopies ht helem hready
    obtain ⟨hchains, hgens, hmem, hthreads, hsem⟩ := forkDone_sem (s := s.leaveChain x n c) n helem
      (fun j hj => leaveChain_semReady ht (hready j hj))
    have hsite : (s.leaveChain x n c).site x
        = { s.site x with chains := tdel (s.site x).chains n, chainGens := tset (s.site x).chainGens n (c.gen + 1) } :=
      (leaveChain_site ..).trans ((slotLeft_site ..).trans (if_pos rfl))
    refine ⟨_, leftThread s x n c t, chainEnd_leaves hc hend hstop hcopies, ?_, ?_, hmem.trans (leaveChain_mem ..),
      (State.thr_congr hthreads _).trans (leaveChain_thr ht x n), rfl, rfl, fun j => ?_⟩
    · unfold State.cb?
      rw [hchains, hsite]
      exact tget_tdel_same ..
    · rw [hgens, hsite]
      exact tget_tset_same ..
    · rw [hsem, leaveChain_sem]

end Sys2Proof.Machine
end

section
/-! Semaphore and package-queue instructions at issue, and the events that carry them out later (R229 to R233, R235, R239 to
R241). -/

namespace Sys2Proof.Machine

/-! ## Semaphore operations (R229, R231) -/

/-- R231: what SEMI does to its semaphore, by its release scope. -/
theorem semOp_eq (s : State) (x y : Site) (k : Nat) (v : Word) (rel u : Nat) (t : Thread) : s.semOp x y k v rel u t
    = if rel = 0 ∨ 4 < rel then
        (if x = y ∧ s.semReady y k = [] then s.setSem y k (s.sem y k + v) else s.queueSem y k v false [] 0 t.inv)
      else s.queueSem y k v false (s.relCover u) rel t.inv u t.seq := by
  unfold State.semOp relScope
  by_cases hrel : rel = 0 ∨ 4 < rel
  · simp only [hrel, if_true]
    by_cases hxy : x = y
    · subst hxy
      simp only [if_true, true_and]
      exact addSem_eq ..
    · simp only [hxy, if_false, false_and]
  · simp only [hrel, if_false]

theorem semOp_threads (s : State) (x y : Site) (k : Nat) (v : Word) (rel u : Nat) (t : Thread) : (s.semOp x y k v rel u t).threads = s.threads := by
  rw [semOp_eq]
  split
  · split
    · exact State.setSem_threads ..
    · rfl
  · rfl

theorem reaches_iff (s : State) (p : Nat) (y : Site) : s.reaches p y = true ↔ s.owns p y = true ∨ p = sysPart ∧ isTile y = true := by
  simp only [State.reaches, Bool.or_eq_true, Bool.and_eq_true, beq_iff_eq]

/-! ## Semaphore instructions (R230, R235) -/

/-- An instruction whose body holds changes nothing. -/
theorem exec_holds {i : Instr} {s : State} {u : Nat} {t : Thread} {f : Fields} {m : Form} {body : Nat → Thread → Body}
    (hx : exec i s = s.instr f m body) (hi : Issues s u t f m) (hb : body u t = .hold s) : exec i s = .next s := by
  rw [hx, instr_issues hi, hb]

section Issue
variable {s : State} {u : Nat} {t : Thread} {f : Fields}

section Semi
variable (hi : Issues s u t f { opc := 0xC3, b := bit f.lit 6 }) (hl : t.selLanes ≠ []) (ha : (t.a0 f).pois = false)
include hi hl ha

/-- R231: SEMI of its own tile. -/
theorem semi_own (hloc : bit f.lit 6 = false) (hx : isElem t.src.site = false)
    (hr : Room s (s.semOp t.src.site t.src.site (fld f.lit 0 6) (t.a0 f).w (fld f.lit 7 3) u t) t t f (.val (t.all (t.a0 f)))) :
    Performs (.semi f) s u f (s.semOp t.src.site t.src.site (fld f.lit 0 6) (t.a0 f).w (fld f.lit 7 3) u t) t (.val (t.all (t.a0 f))) := by
  refine exec_performs rfl hi ?_ ((State.thr_congr (semOp_threads ..) u).trans hi.thr) hi.going rfl hr
  simp only [List.isEmpty_eq_false_iff.2 hl, ha, hloc, hx, Bool.not_false, Bool.false_and, Bool.and_false, Bool.or_false, Bool.false_eq_true, if_false]

section Remote
variable (hrem : bit f.lit 6 = true) (hB : (t.b0 f).pois = false)
include hrem hB

/-- R231: SEMI of a tile that operand B names. -/
theorem semi_remote (hreach : s.reaches t.part (.tile (fld (t.b0 f).w 0 9)) = true)
    (hr : Room s (s.semOp t.src.site (.tile (fld (t.b0 f).w 0 9)) (fld f.lit 0 6) (t.a0 f).w (fld f.lit 7 3) u t) t t f (.val (t.all (t.a0 f)))) :
    Performs (.semi f) s u f (s.semOp t.src.site (.tile (fld (t.b0 f).w 0 9)) (fld f.lit 0 6) (t.a0 f).w (fld f.lit 7 3) u t) t
      (.val (t.all (t.a0 f))) := by
  refine exec_performs rfl hi ?_ ((State.thr_congr (semOp_threads ..) u).trans hi.thr) hi.going rfl hr
  simp only [List.isEmpty_eq_false_iff.2 hl, ha, hrem, hB, tileOfBits, hreach, Bool.not_true, Bool.false_and, Bool.and_false, Bool.or_false,
    Bool.false_eq_true, if_false, if_true]

theorem semi_outside (hreach : s.reaches t.part (.tile (fld (t.b0 f).w 0 9)) = false) {b : State}
    (hb : b = s.raise (t.who 0xC3) 0x010F ((t.who 0xC3).details 0 [w32 (fld f.lit 0 6), w32 (fld (t.b0 f).w 0 9)])) {k : Thread}
    (hk : b.thr? u = some k) (hend : k.ending = false) (hr : Room s b t k f (.val (t.all (t.a0 f)))) :
    Performs (.semi f) s u f b k (.val (t.all (t.a0 f))) := by
  subst hb
  refine exec_performs rfl hi ?_ hk hend rfl hr
  simp only [List.isEmpty_eq_false_iff.2 hl, ha, hrem, hB, tileOfBits, hreach, Bool.not_true, Bool.not_false, Bool.false_and, Bool.and_true,
    Bool.and_false, Bool.or_false, Bool.false_eq_true, if_false, if_true]

end Remote

end Semi

section Own
variable (hl : t.selLanes ≠ []) (hx : isElem t.src.site = false)
include hl hx

theorem semset_sets (hi : Issues s u t f { opc := 0xC4, b := false }) (ha : (t.a0 f).pois = false) (hready : s.semReady t.src.site (fld f.lit 0 6) = [])
    (hr : Room s (s.setSem t.src.site (fld f.lit 0 6) (t.a0 f).w) t t f (.val (t.all (t.a0 f)))) :
    Performs (.semset f) s u f (s.setSem t.src.site (fld f.lit 0 6) (t.a0 f).w) t (.val (t.all (t.a0 f))) := by
  refine exec_performs rfl hi ?_ ((State.thr_congr (State.setSem_threads ..) u).trans hi.thr) hi.going rfl hr
  simp only [List.isEmpty_eq_false_iff.2 hl, hx, ha, semBusy_eq_false.2 hready, Bool.false_eq_true, if_false]

theorem semset_poisoned (hi : Issues s u t f { opc := 0xC4, b := false }) (ha : (t.a0 f).pois = true) (hr : Room s s t t f (.val (badV t))) :
    Performs (.semset f) s u f s t (.val (badV t)) := by
  refine exec_performs rfl hi ?_ hi.thr hi.going rfl hr
  simp only [List.isEmpty_eq_false_iff.2 hl, hx, ha, Bool.false_eq_true, if_false, if_true]

theorem semrd_reads (hi : Issues s u t f { opc := 0xC5, a := false, b := false }) (hready : s.semReady t.src.site (fld f.lit 0 6) = [])
    (hr : Room s s t t f (.val (t.all (.ok (s.sem t.src.site (fld f.lit 0 6)))))) :
    Performs (.semrd f) s u f s t (.val (t.all (.ok (s.sem t.src.site (fld f.lit 0 6))))) := by
  refine exec_performs rfl hi ?_ hi.thr hi.going rfl hr
  simp only [List.isEmpty_eq_false_iff.2 hl, hx, semBusy_eq_false.2 hready, Bool.false_eq_true, if_false]

end Own

/-! ## On an element (R230) -/

section Element
variable (hx : isElem t.src.site = true) {k : Thread} (hend : k.ending = false)
include hx hend

theorem semi_element (hl : t.selLanes ≠ []) (hi : Issues s u t f { opc := 0xC3, b := false }) (hloc : bit f.lit 6 = false)
    (hk : (s.semFault t 0xC3 [w32 (fld f.lit 0 6)]).thr? u = some k) (hr : Room s (s.semFault t 0xC3 [w32 (fld f.lit 0 6)]) t k f (.val (badV t))) :
    Performs (.semi f) s u f (s.semFault t 0xC3 [w32 (fld f.lit 0 6)]) k (.val (badV t)) := by
  have hi' : Issues s u t f { opc := 0xC3, b := bit f.lit 6 } := by rw [hloc]; exact hi
  refine exec_performs rfl hi' ?_ hk hend rfl hr
  simp only [List.isEmpty_eq_false_iff.2 hl, hloc, hx, Bool.not_false, Bool.and_self, Bool.false_eq_true, if_false, if_true]

theorem semset_element (hl : t.selLanes ≠ []) (hi : Issues s u t f { opc := 0xC4, b := false })
    (hk : (s.semFault t 0xC4 [w32 (fld f.lit 0 6)]).thr? u = some k) (hr : Room s (s.semFault t 0xC4 [w32 (fld f.lit 0 6)]) t k f (.val (badV t))) :
    Performs (.semset f) s u f (s.semFault t 0xC4 [w32 (fld f.lit 0 6)]) k (.val (badV t)) := by
  refine exec_performs rfl hi ?_ hk hend rfl hr
  simp only [List.isEmpty_eq_false_iff.2 hl, hx, Bool.false_eq_true, if_false, if_true]

theorem semrd_element (hl : t.selLanes ≠ []) (hi : Issues s u t f { opc := 0xC5, a := false, b := false })
    (hk : (s.semFault t 0xC5 [w32 (fld f.lit 0 6)]).thr? u = some k) (hr : Room s (s.semFault t 0xC5 [w32 (fld f.lit 0 6)]) t k f (.val (badV t))) :
    Performs (.semrd f) s u f (s.semFault t 0xC5 [w32 (fld f.lit 0 6)]) k (.val (badV t)) := by
  refine exec_performs rfl hi ?_ hk hend rfl hr
  simp only [List.isEmpty_eq_false_iff.2 hl, hx, Bool.false_eq_true, if_false, if_true]

theorem rdzv_element (hi : Issues s u t f { opc := 0xC7 }) (hk : (s.semFault t 0xC7 [w32 (fld f.lit 0 6)]).thr? u = some k)
    (hr : Room s (s.semFault t 0xC7 [w32 (fld f.lit 0 6)]) t k f (.valP (badV t) (allP t false))) :
    Performs (.rdzv f) s u f (s.semFault t 0xC7 [w32 (fld f.lit 0 6)]) k (.valP (badV t) (allP t false)) :=
  exec_performs rfl hi (if_pos hx) hk hend rfl hr

end Element

/-! ## RDZV (R235) -/

section Rdzv
variable (hi : Issues s u t f { opc := 0xC7 }) (hx : isElem t.src.site = false)
include hi hx

theorem rdzv_poisoned (hB : (t.b0 f).pois = true) (hr : Room s s t t f (qFail t)) : Performs (.rdzv f) s u f s t (qFail t) :=
  exec_performs rfl hi ((if_neg (Bool.eq_false_iff.1 hx)).trans (if_pos hB)) hi.thr hi.going rfl hr

variable (hB : (t.b0 f).pois = false) (hready : s.semReady t.src.site (fld f.lit 0 6) = [])
include hB hready

/-- R229: what a RDZV does at a semaphore without ready waits. -/
theorem rdzv_exec {b : State} {e : Eff} (hw : s.waitOn u t f 0xC7 (.rdzv (fld f.lit 0 6) (t.b0 f).w) (t.a0 f)
      (s.takeRdzv t (fld f.lit 0 6) (t.b0 f).w) (.val (t.all .zero)) = .ok b e) :
    exec (.rdzv f) s = .next (s.issue u f { opc := 0xC7 } b e) := by
  have hexec : exec (.rdzv f) s = s.instr f { opc := 0xC7 } _ := rfl
  rw [hexec, instr_issues hi]
  simp only [hx, hB, semBusy_eq_false.2 hready, Bool.false_eq_true, if_false, hw]

theorem rdzv_takes (h : (t.b0 f).w.toNat ≤ (s.sem t.src.site (fld f.lit 0 6)).toNat) {b : State}
    (hb : b = s.setSem t.src.site (fld f.lit 0 6) (s.sem t.src.site (fld f.lit 0 6) - (t.b0 f).w)) {e : Eff}
    (he : e = .valP (t.all (.ok (s.sem t.src.site (fld f.lit 0 6)))) (allP t true)) (hr : Room s b t t f e) : Performs (.rdzv f) s u f b t e := by
  subst hb he
  exact ⟨_, rdzv_exec hi hx hB hready ((congrArg (s.waitOn u t f _ _ _ · _) (takeRdzv_some h)).trans (waitOn_won _)),
    issue_completes hi.thr ((State.thr_congr (State.setSem_threads ..) u).trans hi.thr) hi.going rfl hr⟩

variable (h : (s.sem t.src.site (fld f.lit 0 6)).toNat < (t.b0 f).w.toNat)
include h

theorem rdzv_fails (hT : (t.a0 f).pois = true ∨ (t.a0 f).w = 0) (hr : Room s s t t f (qFail t)) : Performs (.rdzv f) s u f s t (qFail t) :=
  ⟨_, rdzv_exec hi hx hB hready ((congrArg (s.waitOn u t f _ _ _ · _) (takeRdzv_none h)).trans (waitOn_lost hT)),
    issue_completes hi.thr hi.thr hi.going rfl hr⟩

theorem rdzv_waits (hp : (t.a0 f).pois = false) (hw : (t.a0 f).w ≠ 0) {dl : Option Nat} (hd : dl = s.deadline t (t.a0 f)) {k : Thread}
    (hk : k = t.waiting (.rdzv (fld f.lit 0 6) (t.b0 f).w) dl f 0xC7) {b : State} (hb : b = s.withWaiter u k dl) (hr : RoomLate s b t k f) :
    Parks (.rdzv f) s u b k .wait := by
  subst hd hk hb
  exact ⟨_, rdzv_exec hi hx hB hready ((congrArg (s.waitOn u t f _ _ _ · _) (takeRdzv_none h)).trans (waitOn_suspends hp hw)),
    issue_parks hi.thr (withWaiter_thr ..) hr⟩

end Rdzv

/-! ## Package queues: what an instruction meets (R232, R240) -/

/-- R232: nothing writable is mapped at a descriptor, or no die serves it. -/
def QueueLost (s : State) (p : Nat) (x : Site) (desc : Int) : Prop :=
  s.hwXlate p x desc true = none ∨ ∃ pa, s.hwXlate p x desc true = some pa ∧ s.served pa = false

theorem qdesc_none {p : Nat} {x : Site} {desc : Int} (h : QueueLost s p x desc) : s.qdesc? p x desc = none := by
  rcases h with h | ⟨pa, h, hs⟩
  · simp only [State.qdesc?, h]
  · simp only [State.qdesc?, h, hs, Bool.false_eq_true, if_false]

/-- R240: the state in which a queue instruction has raised its "queue operand" fault. -/
def State.queueOperand (s : State) (t : Thread) (opc : Nat) (desc : Int) : State :=
  s.raise (t.who opc) 0x0110 ((t.who opc).details 0 [w32 (BitVec.ofInt 64 desc).toNat, w32 ((BitVec.ofInt 64 desc).toNat / 2 ^ 32)])

theorem live_eq_false {q : QDesc} (h : q.ok = false ∨ q.state ≠ 1) : q.live = false := by
  rw [Bool.eq_false_iff, ne_eq, QDesc.live_iff]
  rintro ⟨hok, hst⟩
  exact h.elim (fun h => Bool.noConfusion (h.symm.trans hok)) (fun h => h hst)

/-! ## QPUSH (R239, R240) -/

section Qpush
variable (hi : Issues s u t f { opc := 0xC8 })
include hi

theorem qpush_misaligned (hal : s.queueAddr t f.lit % 64 ≠ 0) {k : Thread} (hk : (s.queueOperand t 0xC8 (s.queueAddr t f.lit)).thr? u = some k)
    (hend : k.ending = false) (hr : Room s (s.queueOperand t 0xC8 (s.queueAddr t f.lit)) t k f (qFail t)) :
    Performs (.qpush f) s u f (s.queueOperand t 0xC8 (s.queueAddr t f.lit)) k (qFail t) :=
  exec_performs rfl hi (if_pos hal) hk hend rfl hr

variable (hal : s.queueAddr t f.lit % 64 = 0)
include hal

theorem qpush_held (hh : s.pkgQueueHeld t.part t.src.site (s.queueAddr t f.lit) t.selLanes.length = true) : exec (.qpush f) s = .next s :=
  exec_holds rfl hi ((if_neg (not_not.2 hal)).trans (if_pos hh))

variable (hh : s.pkgQueueHeld t.part t.src.site (s.queueAddr t f.lit) t.selLanes.length = false)
include hh

theorem qpush_lost (hlost : QueueLost s t.part t.src.site (s.queueAddr t f.lit)) (hr : Room s s t t f (qFail t)) :
    Performs (.qpush f) s u f s t (qFail t) := by
  refine exec_performs rfl hi ?_ hi.thr hi.going rfl hr
  simp only [hal, hh, qdesc_none hlost, ne_eq, not_true_eq_false, Bool.false_eq_true, if_false]

section Mapped
variable {pa : Nat} (hx : s.hwXlate t.part t.src.site (s.queueAddr t f.lit) true = some pa) (hserved : s.served pa = true)
include hx hserved

theorem qpush_dead (hl : (qdescAt s.mem pa).ok = false ∨ (qdescAt s.mem pa).state ≠ 1) (hr : Room s s t t f (qFail t)) :
    Performs (.qpush f) s u f s t (qFail t) := by
  refine exec_performs rfl hi ?_ hi.thr hi.going rfl hr
  simp only [hal, hh, qdesc_some hx hserved, live_eq_false hl, ne_eq, not_true_eq_false, Bool.not_false, Bool.false_eq_true, if_false, if_true]

variable (hl : (qdescAt s.mem pa).ok = true ∧ (qdescAt s.mem pa).state = 1)
include hl

/-- R240: more entries than the queue could ever take. -/
theorem qpush_tooMany (hbig : (qdescAt s.mem pa).tooMany t.selLanes.length (bit f.lit 4) = true) {k : Thread}
    (hk : (s.queueOperand t 0xC8 (s.queueAddr t f.lit)).thr? u = some k) (hend : k.ending = false)
    (hr : Room s (s.queueOperand t 0xC8 (s.queueAddr t f.lit)) t k f (qFail t)) :
    Performs (.qpush f) s u f (s.queueOperand t 0xC8 (s.queueAddr t f.lit)) k (qFail t) := by
  refine exec_performs rfl hi ?_ hk hend rfl hr
  simp only [hal, hh, qdesc_some hx hserved, (QDesc.live_iff _).2 hl, hbig, ne_eq, not_true_eq_false, Bool.not_true, Bool.false_eq_true, if_false,
    if_true]
  rfl

variable (hfit : (qdescAt s.mem pa).tooMany t.selLanes.length (bit f.lit 4) = false)
include hfit

/-- R255: the first poisoned lane's entry, and the mask of all of them, are in the record. -/
theorem qpush_poisoned {l : Nat} {ls : List Nat} (hbad : t.selLanes.filter (fun l => (t.aW f l).pois) = l :: ls) {b : State}
    (hb : b = s.raise (t.who 0xC8) 0x0112 ((t.who 0xC8).poisonRecord (t.laneAgent l) 4
      ((BitVec.ofNat 64 (qdescAt s.mem pa).ring).toInt
        + ((4 * (((qdescAt s.mem pa).tail + (t.selLanes.takeWhile (· ≠ l)).length) % 2 ^ (qdescAt s.mem pa).m) : Nat) : Int)) (maskOf (l :: ls))))
    {k : Thread} (hk : b.thr? u = some k) (hend : k.ending = false) (hr : Room s b t k f (qFail t)) : Performs (.qpush f) s u f b k (qFail t) := by
  subst hb
  have hbad' : t.selLanes.filter (fun l => ((t.as f).getD l .zero).pois) = l :: ls := hbad
  refine exec_performs rfl hi ?_ hk hend rfl hr
  simp only [hal, hh, qdesc_some hx hserved, (QDesc.live_iff _).2 hl, hfit, hbad', ne_eq, not_true_eq_false, Bool.not_true, Bool.false_eq_true,
    if_false]

variable (hclean : ∀ l ∈ t.selLanes, (t.aW f l).pois = false)
include hclean

omit hi hal hh hx hserved hl hfit in
theorem noPoison : t.selLanes.filter (fun l => ((t.as f).getD l .zero).pois) = [] :=
  List.filter_eq_nil_iff.2 (fun l hm => Bool.eq_false_iff.1 (hclean l hm))

/-- R239: with release, earlier accesses perform first. -/
theorem qpush_behind (hrel : bit f.lit 3 = true) (hdone : s.allDone u 3 = false) : exec (.qpush f) s = .next s := by
  refine exec_holds rfl hi ?_
  simp only [hal, hh, qdesc_some hx hserved, (QDesc.live_iff _).2 hl, hfit, noPoison hclean, hrel, hdone, ne_eq, not_true_eq_false, Bool.not_true,
    Bool.not_false, Bool.and_self, Bool.false_eq_true, if_false, if_true]

variable (hrel : bit f.lit 3 = true → s.allDone u 3 = true)
include hrel

omit hi hal hh hx hserved hl hfit hclean in
theorem released : (bit f.lit 3 && !s.allDone u 3) = false := by
  cases h : bit f.lit 3
  · rfl
  · rw [hrel h]; rfl

/-- R239: a QPUSH that its queue takes at once. -/
theorem qpush_done {b : State} {ws : List Word}
    (hq : s.qPush t.part t.src.site (s.queueAddr t f.lit) (t.selWords (t.as f)) (bit f.lit 4) = .done b ws) (hk : b.thr? u = some t) {e : Eff}
    (he : e = .valP (t.as f) (allP t true)) (hr : Room s b t t f e) : Performs (.qpush f) s u f b t e := by
  subst he
  refine exec_performs rfl hi ?_ hk hi.going rfl hr
  simp only [hal, hh, qdesc_some hx hserved, (QDesc.live_iff _).2 hl, hfit, noPoison hclean, released hrel, hq, ne_eq, not_true_eq_false,
    Bool.not_true, Bool.false_eq_true, if_false]

/-- R240: a QPUSH whose test fails at issue waits, or fails with it. -/
theorem qpush_exec {b : State} {e : Eff}
    (hq : s.qPush t.part t.src.site (s.queueAddr t f.lit) (t.selWords (t.as f)) (bit f.lit 4) = .wait)
    (hw : s.waitOn u t f 0xC8 (.push (s.queueAddr t f.lit) (t.selWords (t.as f)) (bit f.lit 4)) (t.b0 f) none (.val (t.as f)) = .ok b e) :
    exec (.qpush f) s = .next (s.issue u f { opc := 0xC8 } b e) := by
  have hexec : exec (.qpush f) s = s.instr f { opc := 0xC8 } _ := rfl
  rw [hexec, instr_issues hi]
  simp only [hal, hh, qdesc_some hx hserved, (QDesc.live_iff _).2 hl, hfit, noPoison hclean, released hrel, hq, hw, ne_eq, not_true_eq_false,
    Bool.not_true, Bool.false_eq_true, if_false]

variable (hlanes : t.selLanes ≠ [])
include hlanes

omit hi hal hh hx hserved hl hfit hclean hrel in
theorem selWords_ne : t.selWords (t.as f) ≠ [] := fun h => hlanes (List.map_eq_nil_iff.1 h)

omit hi hal hh hx hserved hl hfit hclean hrel hlanes in
theorem selWords_length : (t.selWords (t.as f)).length = t.selLanes.length := List.length_map ..

theorem qpush_pushes (hroom : (t.selLanes.length + if bit f.lit 4 then 0 else 2) ≤ (qdescAt s.mem pa).free) {as : List Nat}
    (hring : RingAt s t.part t.src.site (qdescAt s.mem pa) (qdescAt s.mem pa).tail t.selLanes.length as) {b : State}
    (hb : b = s.pushed t.part t.src.site (s.queueAddr t f.lit) pa as (t.selWords (t.as f))) {e : Eff} (he : e = .valP (t.as f) (allP t true))
    (hr : Room s b t t f e) : Performs (.qpush f) s u f b t e := by
  subst hb
  rw [← selWords_length (f := f)] at hroom hring
  have hh' : s.pkgQueueHeld t.part t.src.site (s.queueAddr t f.lit) (t.selWords (t.as f)).length = false := by rw [selWords_length]; exact hh
  exact qpush_done hi hal hh hx hserved hl hfit hclean hrel (qPush_done hx hserved hh' (selWords_ne hlanes) hl hroom hring)
    ((State.thr_congr (State.pushed_threads ..) u).trans hi.thr) he hr

variable (hfull : (qdescAt s.mem pa).free < t.selLanes.length + if bit f.lit 4 then 0 else 2)
include hfull

omit hi hal hfit hclean hrel in
theorem qpush_unmet : s.qPush t.part t.src.site (s.queueAddr t f.lit) (t.selWords (t.as f)) (bit f.lit 4) = .wait := by
  have hh' : s.pkgQueueHeld t.part t.src.site (s.queueAddr t f.lit) (t.selWords (t.as f)).length = false := by rw [selWords_length]; exact hh
  exact qPush_wait hx hserved hh' (selWords_ne hlanes) hl (by rw [selWords_length]; exact hfull)

theorem qpush_fails (hT : (t.b0 f).pois = true ∨ (t.b0 f).w = 0) {e : Eff} (he : e = .valP (t.as f) (allP t false)) (hr : Room s s t t f e) :
    Performs (.qpush f) s u f s t e := by
  subst he
  exact ⟨_, qpush_exec hi hal hh hx hserved hl hfit hclean hrel (qpush_unmet hh hx hserved hl hlanes hfull) (waitOn_lost hT),
    issue_completes hi.thr hi.thr hi.going rfl hr⟩

theorem qpush_waits (hp : (t.b0 f).pois = false) (hw : (t.b0 f).w ≠ 0) {dl : Option Nat} (hd : dl = s.deadline t (t.b0 f)) {k : Thread}
    (hk : k = t.waiting (.push (s.queueAddr t f.lit) (t.selWords (t.as f)) (bit f.lit 4)) dl f 0xC8) {b : State} (hb : b = s.withWaiter u k dl)
    (hr : RoomLate s b t k f) : Parks (.qpush f) s u b k .wait := by
  subst hd hk hb
  exact ⟨_, qpush_exec hi hal hh hx hserved hl hfit hclean hrel (qpush_unmet hh hx hserved hl hlanes hfull) (waitOn_suspends hp hw),
    issue_parks hi.thr (withWaiter_thr ..) hr⟩

end Mapped

end Qpush

/-! ## QPOP (R240, R241) -/

section Qpop
variable (hi : Issues s u t f { opc := 0xC9, b := false })
include hi

theorem qpop_misaligned (hal : s.queueAddr t f.lit % 64 ≠ 0) {k : Thread} (hk : (s.queueOperand t 0xC9 (s.queueAddr t f.lit)).thr? u = some k)
    (hend : k.ending = false) (hr : Room s (s.queueOperand t 0xC9 (s.queueAddr t f.lit)) t k f (qFail t)) :
    Performs (.qpop f) s u f (s.queueOperand t 0xC9 (s.queueAddr t f.lit)) k (qFail t) :=
  exec_performs rfl hi (if_pos hal) hk hend rfl hr

variable (hal : s.queueAddr t f.lit % 64 = 0)
include hal

theorem qpop_held (hh : s.pkgQueueHeld t.part t.src.site (s.queueAddr t f.lit) t.selLanes.length = true) : exec (.qpop f) s = .next s :=
  exec_holds rfl hi ((if_neg (not_not.2 hal)).trans (if_pos hh))

variable (hh : s.pkgQueueHeld t.part t.src.site (s.queueAddr t f.lit) t.selLanes.length = false)
include hh

theorem qpop_lost (hlost : QueueLost s t.part t.src.site (s.queueAddr t f.lit)) (hr : Room s s t t f (qFail t)) :
    Performs (.qpop f) s u f s t (qFail t) := by
  refine exec_performs rfl hi ?_ hi.thr hi.going rfl hr
  simp only [hal, hh, qdesc_none hlost, ne_eq, not_true_eq_false, Bool.false_eq_true, if_false]

section Mapped
variable {pa : Nat} (hx : s.hwXlate t.part t.src.site (s.queueAddr t f.lit) true = some pa) (hserved : s.served pa = true)
include hx hserved

theorem qpop_dead (hl : (qdescAt s.mem pa).ok = false ∨ (qdescAt s.mem pa).state ≠ 1) (hr : Room s s t t f (qFail t)) :
    Performs (.qpop f) s u f s t (qFail t) := by
  refine exec_performs rfl hi ?_ hi.thr hi.going rfl hr
  simp only [hal, hh, qdesc_some hx hserved, live_eq_false hl, ne_eq, not_true_eq_false, Bool.not_false, Bool.false_eq_true, if_false, if_true]

variable (hl : (qdescAt s.mem pa).ok = true ∧ (qdescAt s.mem pa).state = 1)
include hl

theorem qpop_tooMany (hbig : (qdescAt s.mem pa).tooMany t.selLanes.length false = true) {k : Thread}
    (hk : (s.queueOperand t 0xC9 (s.queueAddr t f.lit)).thr? u = some k) (hend : k.ending = false)
    (hr : Room s (s.queueOperand t 0xC9 (s.queueAddr t f.lit)) t k f (qFail t)) :
    Performs (.qpop f) s u f (s.queueOperand t 0xC9 (s.queueAddr t f.lit)) k (qFail t) := by
  refine exec_performs rfl hi ?_ hk hend rfl hr
  simp only [hal, hh, qdesc_some hx hserved, (QDesc.live_iff _).2 hl, hbig, ne_eq, not_true_eq_false, Bool.not_true, Bool.false_eq_true, if_false,
    if_true]
  rfl

variable (hfit : (qdescAt s.mem pa).tooMany t.selLanes.length false = false)
include hfit

/-- R241: entry h goes to the h-th selected lane. -/
theorem qpop_pops (hlanes : t.selLanes ≠ []) (hused : t.selLanes.length ≤ (qdescAt s.mem pa).used) {as : List Nat}
    (hring : RingAt s t.part t.src.site (qdescAt s.mem pa) (qdescAt s.mem pa).head t.selLanes.length as) {b : State}
    (hb : b = s.poppedTo t.part t.src.site (s.queueAddr t f.lit) pa t.selLanes.length) {e : Eff}
    (he : e = .valP (t.popped (as.map s.rdW)) (allP t true)) (hr : Room s b t t f e) : Performs (.qpop f) s u f b t e := by
  subst hb he
  refine exec_performs rfl hi ?_ ((State.thr_congr (State.poppedTo_threads ..) u).trans hi.thr) hi.going rfl hr
  simp only [hal, hh, qdesc_some hx hserved, (QDesc.live_iff _).2 hl, hfit,
    qPop_done hx hserved hh (fun h => hlanes (List.length_eq_zero_iff.1 h)) hl hused hring, ne_eq, not_true_eq_false, Bool.not_true,
    Bool.false_eq_true, if_false]

variable (hempty : (qdescAt s.mem pa).used < t.selLanes.length)
include hempty

theorem qpop_exec {b : State} {e : Eff}
    (hw : s.waitOn u t f 0xC9 (.pop (s.queueAddr t f.lit)) (t.a0 f) none (.val (t.all .zero)) = .ok b e) :
    exec (.qpop f) s = .next (s.issue u f { opc := 0xC9, b := false } b e) := by
  have hexec : exec (.qpop f) s = s.instr f { opc := 0xC9, b := false } _ := rfl
  rw [hexec, instr_issues hi]
  simp only [hal, hh, qdesc_some hx hserved, (QDesc.live_iff _).2 hl, hfit, qPop_wait hx hserved hh hl hempty, hw, ne_eq, not_true_eq_false,
    Bool.not_true, Bool.false_eq_true, if_false]

theorem qpop_fails (hT : (t.a0 f).pois = true ∨ (t.a0 f).w = 0) (hr : Room s s t t f (qFail t)) : Performs (.qpop f) s u f s t (qFail t) :=
  ⟨_, qpop_exec hi hal hh hx hserved hl hfit hempty (waitOn_lost hT), issue_completes hi.thr hi.thr hi.going rfl hr⟩

theorem qpop_waits (hp : (t.a0 f).pois = false) (hw : (t.a0 f).w ≠ 0) {dl : Option Nat} (hd : dl = s.deadline t (t.a0 f)) {k : Thread}
    (hk : k = t.waiting (.pop (s.queueAddr t f.lit)) dl f 0xC9) {b : State} (hb : b = s.withWaiter u k dl) (hr : RoomLate s b t k f) :
    Parks (.qpop f) s u b k .wait := by
  subst hd hk hb
  exact ⟨_, qpop_exec hi hal hh hx hserved hl hfit hempty (waitOn_suspends hp hw), issue_parks hi.thr (withWaiter_thr ..) hr⟩

end Mapped

end Qpop

/-! ## QFREE (R233, R235) -/

section Qfree
variable (hi : Issues s u t f { opc := 0xCA, a := false, b := false }) (hlanes : t.selLanes ≠ [])
include hi hlanes

theorem qfree_misaligned (hal : s.queueAddr t f.lit % 64 ≠ 0) {k : Thread} (hk : (s.queueOperand t 0xCA (s.queueAddr t f.lit)).thr? u = some k)
    (hend : k.ending = false) (hr : Room s (s.queueOperand t 0xCA (s.queueAddr t f.lit)) t k f (qFail t)) :
    Performs (.qfree f) s u f (s.queueOperand t 0xCA (s.queueAddr t f.lit)) k (qFail t) := by
  refine exec_performs rfl hi ?_ hk hend rfl hr
  simp only [List.isEmpty_eq_false_iff.2 hlanes, hal, ne_eq, not_false_eq_true, Bool.false_eq_true, if_false, if_true]
  rfl

variable (hal : s.queueAddr t f.lit % 64 = 0) (hh : s.pkgQueueHeld t.part t.src.site (s.queueAddr t f.lit) 0 = false)
include hal hh

theorem qfree_lost (hlost : QueueLost s t.part t.src.site (s.queueAddr t f.lit)) (hr : Room s s t t f (qFail t)) :
    Performs (.qfree f) s u f s t (qFail t) := by
  refine exec_performs rfl hi ?_ hi.thr hi.going rfl hr
  simp only [List.isEmpty_eq_false_iff.2 hlanes, hal, hh, qdesc_none hlost, ne_eq, not_true_eq_false, Bool.false_eq_true, if_false]

variable {pa : Nat} (hx : s.hwXlate t.part t.src.site (s.queueAddr t f.lit) true = some pa) (hserved : s.served pa = true)
include hx hserved

theorem qfree_reports (hform : bit f.lit 4 = false) {b : State}
    (hb : b = if (qdescAt s.mem pa).live then s.knowQueue ⟨t.part, queueVia t.part t.src.site, s.queueAddr t f.lit, pa⟩ else s) {e : Eff}
    (he : e = .valP (t.all (.ok (w32 (2 ^ (qdescAt s.mem pa).m - (qdescAt s.mem pa).used - 2)))) (allP t (qdescAt s.mem pa).live))
    (hr : Room s b t t f e) : Performs (.qfree f) s u f b t e := by
  subst hb he
  have hthr : (if (qdescAt s.mem pa).live then s.knowQueue ⟨t.part, queueVia t.part t.src.site, s.queueAddr t f.lit, pa⟩ else s).threads
      = s.threads := by
    split
    · exact State.knowQueue_threads ..
    · rfl
  refine exec_performs rfl hi ?_ ((State.thr_congr hthr u).trans hi.thr) hi.going rfl hr
  simp only [List.isEmpty_eq_false_iff.2 hlanes, hal, hh, qdesc_some hx hserved, hform, ne_eq, not_true_eq_false, Bool.false_eq_true, if_false]

theorem qfree_kills (hform : bit f.lit 4 = true) {b : State}
    (hb : b = if (qdescAt s.mem pa).live then s.killQueue ⟨t.part, queueVia t.part t.src.site, s.queueAddr t f.lit, pa⟩ 1 else s) {e : Eff}
    (he : e = .valP (t.all .zero) (allP t (qdescAt s.mem pa).live)) {k : Thread} (hk : b.thr? u = some k) (hend : k.ending = false)
    (hr : Room s b t k f e) : Performs (.qfree f) s u f b k e := by
  subst hb he
  refine exec_performs rfl hi ?_ hk hend rfl hr
  simp only [List.isEmpty_eq_false_iff.2 hlanes, hal, hh, qdesc_some hx hserved, hform, ne_eq, not_true_eq_false, Bool.false_eq_true, if_false,
    if_true]

end Qfree

end Issue

/-! ## Operations that arrive later (R231, R233) -/

theorem State.setSem_semOps (s : State) (x : Site) (k : Nat) (v : Word) : (s.setSem x k v).semOps = s.semOps :=
  (foldl_same State.semOps _ (fun _ _ => by rfl) _ _).trans (foldl_same State.semOps _ (fun _ _ => by rfl) _ _)

section Arrives
variable {s : State} {o : SemOp} (ho : tget s.semOps s.subj.a = some o) (haway : s.away o.site o.inv = false)
include ho haway

omit haway in
/-- R231: an operation waits for the accesses that it releases. -/
theorem remoteSemaphoreAdd_waits (hgate : o.gate.any (fun a => !s.performed a o.scope) = true) :
    exec .remoteSemaphoreAdd s = .next (s.postEv .remoteSemaphoreAdd { a := s.subj.a }) := by
  have hx : exec .remoteSemaphoreAdd s = execRemoteSemaphoreAdd s := rfl
  rw [hx]
  simp only [execRemoteSemaphoreAdd, ho, hgate, Bool.or_true, Bool.true_or, if_true]

theorem remoteSemaphoreAdd_arrives (hgate : ∀ a ∈ o.gate, s.performed a o.scope = true) (howed : s.owingAt o.site o.scope o.owed = false)
    (hready : s.semReady o.site o.sem = [])
    (hfirst : ∀ e ∈ s.semOps, o.uid ≠ 0 → o.scope ≠ 0 → e.2.uid = o.uid → e.2.scope ≠ 0 → s.subj.a ≤ e.1) :
    exec .remoteSemaphoreAdd s = .next ({ s with semOps := tdel s.semOps s.subj.a }.setSem o.site o.sem
      (if o.set then o.val else s.sem o.site o.sem + o.val)) := by
  have hx : exec .remoteSemaphoreAdd s = execRemoteSemaphoreAdd s := rfl
  have hopen : o.gate.any (fun a => !s.performed a o.scope) = false :=
    List.any_eq_false.2 (fun a ha => by rw [hgate a ha]; exact Bool.false_ne_true)
  have hnone : s.semOps.any (fun e => decide (o.uid ≠ 0 ∧ o.scope ≠ 0 ∧ e.2.uid = o.uid ∧ e.2.scope ≠ 0 ∧ e.1 < s.subj.a)) = false := by
    refine List.any_eq_false.2 (fun e he => ?_)
    rw [decide_eq_true_eq]
    rintro ⟨hu, hs, heu, hes, hlt⟩
    exact absurd hlt (Nat.not_lt.2 (hfirst e he hu hs heu hes))
  rw [hx]
  simp only [execRemoteSemaphoreAdd, ho, haway, hopen, howed, hnone, semBusy_eq_false.2 hready, Bool.false_and, Bool.or_self, Bool.false_eq_true,
    if_false]
  rfl

end Arrives

/-! ## A push of the hardware (R233) -/

/-- The state without the hardware's push that is being carried out. -/
def State.pushTaken (s : State) : State := { s with pqOps := tdel s.pqOps s.subj.a }

theorem walkFrom_pushTaken (s : State) (p va : Nat) (level table : Nat) : s.pushTaken.walkFrom p va level table = s.walkFrom p va level table := by
  induction level generalizing table with
  | zero => rfl
  | succ n ih => rw [State.walkFrom, State.walkFrom]; simp only [ih]; rfl

/-- Pushes that are on their way have no part in a translation. -/
theorem walk_pushTaken (s : State) (p : Nat) (x : Site) (ea : Int) : s.pushTaken.walk p x ea = s.walk p x ea := walkFrom_pushTaken ..

theorem hwXlate_pushTaken (s : State) (p : Nat) (x : Site) (ea : Int) (wr : Bool) : s.pushTaken.hwXlate p x ea wr = s.hwXlate p x ea wr := by
  unfold State.hwXlate
  rw [walk_pushTaken]
  rfl

theorem hwHolds_pushTaken (s : State) (p : Nat) (x : Site) (ea : Int) : s.pushTaken.hwHolds p x ea = s.hwHolds p x ea := by
  unfold State.hwHolds
  rw [walk_pushTaken]
  rfl

theorem pkgQueueHeld_pushTaken (s : State) (p : Nat) (x : Site) (desc : Int) (n : Nat) :
    s.pushTaken.pkgQueueHeld p x desc n = s.pkgQueueHeld p x desc n := by
  have hdesc : s.pushTaken.qdesc? p x desc = s.qdesc? p x desc := by
    unfold State.qdesc?
    rw [hwXlate_pushTaken]
    rfl
  unfold State.pkgQueueHeld
  simp only [hdesc, hwHolds_pushTaken]

/-- R233: a push that its queue takes is one step. -/
theorem packageQueueOperation_pushes {s b : State} {o : PqOp} {ws : List Word} (ho : tget s.pqOps s.subj.a = some o)
    (hh : s.pkgQueueHeld o.part o.via o.desc o.words.length = false) (hq : s.pushTaken.qPush o.part o.via o.desc o.words true = .done b ws) :
    exec .packageQueueOperation s = .next b := by
  have hx : exec .packageQueueOperation s = execPackageQueueOperation s := rfl
  have hq' : ({ s with pqOps := tdel s.pqOps s.subj.a } : State).qPush o.part o.via o.desc o.words true = .done b ws := hq
  rw [hx]
  simp only [execPackageQueueOperation, ho, hh, hq', Bool.false_eq_true, if_false]

/-- Settles O34, instruction by instruction from what each meets, and event by event. -/
theorem semaphoreAndQueueResults : Obligations.SemaphoreAndQueueResults := by
  refine ⟨⟨fun s x k j v => by rw [State.setSem_sem]; simp only [true_and], ?semaphores⟩, ?queues, ?arrives, ?pushes⟩
  case semaphores =>
    intro s u t f k x A B all P faults
    refine ⟨?semi, ?semset, fun hi hx hl hready hr => semrd_reads hl hx hi hready hr, ?element, ?rdzv⟩
    case semi =>
      intro hi hl ha e rel y
      refine ⟨?_, fun p y => reaches_iff s p y, fun hrem hB hreach k' hk hend hr => semi_outside hi hl ha hrem hB hreach rfl hk hend hr⟩
      intro hto b hr
      have hb : b = s.semOp x y k A.w rel u t := (semOp_eq ..).symm
      rw [hb] at hr ⊢
      by_cases hrem : bit f.lit 6 = true
      · have hy : y = .tile (fld B.w 0 9) := if_pos hrem
        rw [if_pos hrem] at hto
        rw [hy] at hto hr ⊢
        exact semi_remote hi hl ha hrem hto.1 hto.2 hr
      · have hy : y = x := if_neg hrem
        rw [if_neg hrem] at hto
        rw [hy] at hr ⊢
        exact semi_own hi hl ha (Bool.eq_false_iff.2 hrem) hto hr
    case semset =>
      intro hi hx
      exact ⟨fun ha hl hready hr => semset_sets hl hx hi ha hready hr, fun ha hl hr => semset_poisoned hl hx hi ha hr⟩
    case element =>
      intro hx hl
      exact ⟨fun hi hloc k' hk hend hr => semi_element hx hend hl hi hloc hk hr, fun hi k' hk hend hr => semset_element hx hend hl hi hk hr,
        fun hi k' hk hend hr => semrd_element hx hend hl hi hk hr, fun hi k' hk hend hr => rdzv_element hx hend hi hk hr⟩
    case rdzv =>
      intro hi hx zero
      exact ⟨fun hB hr => rdzv_poisoned hi hx hB hr, fun hB hready h hr => rdzv_takes hi hx hB hready h rfl rfl hr,
        fun hB hready h hT hr => rdzv_fails hi hx hB hready h hT hr,
        fun hB hready h hp hw hr => rdzv_waits hi hx hB hready h hp hw rfl rfl rfl hr⟩
  case queues =>
    intro s u t f hlanes desc n ws P fail ea id known ring faults fails lost
    refine ⟨fun hi => ⟨fun hal hh => qpush_held hi hal hh, fun hal hh hlost hr => qpush_lost hi hal hh hlost hr, ?push,
        fun hal k hk hend hr => qpush_misaligned hi hal hk hend hr⟩, fun hi hal k hk hend hr => qpop_misaligned hi hal hk hend hr,
      fun hi hal hh => qpop_held hi hal hh, fun hi hal hh hlost hr => qpop_lost hi hal hh hlost hr, ?pop,
      fun hi => ⟨fun hal k hk hend hr => qfree_misaligned hi hlanes hal hk hend hr, fun hal hh hlost hr => qfree_lost hi hlanes hal hh hlost hr⟩, ?free⟩
    case push =>
      intro pa hal hh hx hserved q
      refine ⟨fun hl hr => qpush_dead hi hal hh hx hserved hl hr, fun hok hst => ?_⟩
      have hl : q.ok = true ∧ q.state = 1 := ⟨hok, hst⟩
      have hfits : ∀ {m : Nat}, m = n + (if bit f.lit 4 then 0 else 2) → m ≤ 2 ^ q.m → q.tooMany n (bit f.lit 4) = false := fun hm hle =>
        decide_eq_false (Nat.not_lt.2 (hm ▸ hle))
      refine ⟨fun hbig k hk hend hr => qpush_tooMany hi hal hh hx hserved hl (decide_eq_true hbig) hk hend hr,
        fun l ls hfit hbad k hk hend hr => qpush_poisoned hi hal hh hx hserved hl (hfits rfl hfit) hbad rfl hk hend hr,
        fun hfit hclean hrel hdone => qpush_behind hi hal hh hx hserved hl (hfits rfl hfit) hclean hrel hdone, fun hfit hclean hrel => ?_⟩
      refine ⟨fun hfull hT hr => qpush_fails hi hal hh hx hserved hl (hfits rfl hfit) hclean hrel hlanes hfull hT rfl hr, fun hroom as hring hr => ?_,
        fun hfull hp hw hr => qpush_waits hi hal hh hx hserved hl (hfits rfl hfit) hclean hrel hlanes hfull hp hw rfl rfl rfl hr⟩
      obtain ⟨hlen, has, hmap⟩ := hring
      refine qpush_pushes hi hal hh hx hserved hl (hfits rfl hfit) hclean hrel hlanes hroom ⟨hlen, has, hmap⟩ ?_ rfl hr
      rw [State.pushed, selWords_length]
      rfl
    case pop =>
      intro hi pa hal hh hx hserved q
      have hfits : n + 2 ≤ 2 ^ q.m → q.tooMany n false = false := fun hle => decide_eq_false (Nat.not_lt.2 hle)
      refine ⟨fun hok hst hbig k hk hend hr => qpop_tooMany hi hal hh hx hserved ⟨hok, hst⟩ (decide_eq_true hbig) hk hend hr,
        fun hok hst hfit hempty hT hr => qpop_fails hi hal hh hx hserved ⟨hok, hst⟩ (hfits hfit) hempty hT hr,
        fun hok hst hfit hused as hring hr => ?_,
        fun hok hst hfit hempty hp hw hr => qpop_waits hi hal hh hx hserved ⟨hok, hst⟩ (hfits hfit) hempty hp hw rfl rfl rfl hr,
        fun hl hr => qpop_dead hi hal hh hx hserved hl hr⟩
      obtain ⟨hlen, has, hmap⟩ := hring
      exact qpop_pops hi hal hh hx hserved ⟨hok, hst⟩ (hfits hfit) hlanes hused ⟨hlen, has, hmap⟩ rfl rfl hr
    case free =>
      intro hi pa hal hh hx hserved q live
      exact ⟨fun hform hr => qfree_reports hi hlanes hal hh hx hserved hform rfl rfl hr,
        fun hform k hk hend hr => qfree_kills hi hlanes hal hh hx hserved hform rfl rfl hk hend hr⟩
  case arrives =>
    intro s o ho haway
    refine ⟨fun hgate => remoteSemaphoreAdd_waits ho hgate, fun hgate howed hready hfirst =>
      ⟨_, remoteSemaphoreAdd_arrives ho haway hgate howed hready hfirst, ?_, State.setSem_mem .., ?_, fun x k hne => ?_⟩⟩
    · rw [State.setSem_semOps]
      exact tget_tdel_same ..
    · rw [State.setSem_sem]
      exact if_pos ⟨rfl, rfl⟩
    · rw [State.setSem_sem]
      exact if_neg (fun h => hne (Prod.ext h.1 h.2))
  case pushes =>
    intro s o pa as ho hwords hh hx q s1 n id known hok hst hroom hlen hserved has hmap
    have hring : RingAt s.pushTaken o.part o.via q q.tail o.words.length as :=
      ⟨hlen, has, fun j hj => (hwXlate_pushTaken ..).trans (hmap j hj)⟩
    exact packageQueueOperation_pushes ho hh (qPush_done (s := s.pushTaken) (ctl := true) ((hwXlate_pushTaken ..).trans hx) hserved
      ((pkgQueueHeld_pushTaken ..).trans hh) hwords ⟨hok, hst⟩ hroom hring)

end Sys2Proof.Machine
end

section
/-! The lanes of a memory access (R243, R254, R256): the check that decides a lane at once, and what the lanes of an instruction
leave in its access. -/

namespace Sys2Proof.Machine

theorem laneFault_eq (pois : Bool) (ea : Int) (n : Nat) : laneFault pois ea n =
    if pois then some 0 else if ea < -(2 ^ 56) ∨ 2 ^ 56 ≤ ea then some 1 else if ea % n ≠ 0 then some 2 else none := by
  have hrange : (!inRange57 ea) = decide (ea < -(2 ^ 56) ∨ 2 ^ 56 ≤ ea) := by
    rw [inRange57, ← decide_not, decide_eq_decide]
    omega
  simp only [laneFault, hrange, decide_eq_true_eq]

theorem addLane_op (x : Access) (m : LaneAcc) (bad : Option Nat) : (x.addLane m bad).op = x.op := by
  unfold Access.addLane
  cases bad with
  | none => rfl
  | some r => dsimp only; split <;> rfl

section AddLanes
variable (lane : Nat → LaneAcc) (bad : Nat → Option Nat)

/-- R253, R254: lanes added one by one, each with its check. -/
def Access.addLanes (x : Access) (ls : List Nat) : Access := ls.foldl (fun x l => x.addLane (lane l) (bad l)) x

/-- R254: a lane as its check leaves it. -/
def checkedLane (l : Nat) : LaneAcc := if bad l = none then lane l else { lane l with st := .done, pois := true }

variable {lane bad}

theorem addLanes_cons (x : Access) (l : Nat) (ls : List Nat) :
    x.addLanes lane bad (l :: ls) = (x.addLane (lane l) (bad l)).addLanes lane bad ls := rfl

/-- R254: every lane is listed, decided where its check fails, and each failure stands with its reason. -/
theorem addLanes_checked {x : Access} (hop : x.op ≠ .prf) (ls : List Nat) :
    (x.addLanes lane bad ls).lanes = x.lanes ++ ls.map (checkedLane lane bad)
    ∧ (x.addLanes lane bad ls).fails = x.fails ++ ls.filterMap (fun l => (bad l).map (fun r => ((lane l).lane, r))) := by
  induction ls generalizing x with
  | nil => exact ⟨(List.append_nil _).symm, (List.append_nil _).symm⟩
  | cons l ls ih =>
    obtain ⟨hlanes, hfails⟩ := ih (x := x.addLane (lane l) (bad l)) (by rwa [addLane_op])
    rw [addLanes_cons, hlanes, hfails]
    cases h : bad l <;> simp [Access.addLane, checkedLane, h, hop]

/-- R256: a prefetch lists the lanes that pass alone. -/
theorem addLanes_prefetch {x : Access} (hop : x.op = .prf) (ls : List Nat) :
    (x.addLanes lane bad ls).lanes = x.lanes ++ (ls.filter (fun l => bad l = none)).map lane
    ∧ (x.addLanes lane bad ls).fails = x.fails := by
  induction ls generalizing x with
  | nil => exact ⟨(List.append_nil _).symm, rfl⟩
  | cons l ls ih =>
    obtain ⟨hlanes, hfails⟩ := ih (x := x.addLane (lane l) (bad l)) (by rwa [addLane_op])
    rw [addLanes_cons, hlanes, hfails]
    cases h : bad l <;> simp [Access.addLane, h, hop]

theorem checkedLane_lane (l : Nat) : (checkedLane lane bad l).lane = (lane l).lane := by
  unfold checkedLane
  split <;> rfl

/-- Every lane of the result was there, or is one of those added. -/
theorem addLanes_mem {x : Access} {ls : List Nat} {m : LaneAcc} (hm : m ∈ (x.addLanes lane bad ls).lanes) :
    m ∈ x.lanes ∨ ∃ k ∈ ls, m.lane = (lane k).lane := by
  by_cases hop : x.op = .prf
  · rw [(addLanes_prefetch hop ls).1] at hm
    refine (List.mem_append.1 hm).imp_right fun h => ?_
    obtain ⟨k, hk, rfl⟩ := List.mem_map.1 h
    exact ⟨k, (List.mem_filter.1 hk).1, rfl⟩
  · rw [(addLanes_checked hop ls).1] at hm
    refine (List.mem_append.1 hm).imp_right fun h => ?_
    obtain ⟨k, hk, rfl⟩ := List.mem_map.1 h
    exact ⟨k, hk, checkedLane_lane k⟩

end AddLanes

/-- R243: the lanes of a memory instruction are its selected lanes, checked one by one. -/
theorem fill_eq_addLanes (x : Access) (t : Thread) (f : Fields) (base : Int) (n : Nat) (usesB usesZ : Bool)
    (g : Nat → Int → PWord → PWord → LaneAcc × Bool) : x.fill t f base n usesB usesZ g =
      x.addLanes (fun l => (g l (eaOf base (t.aW f l).w n) (t.bW f l) (t.zW l)).1)
        (fun l => laneFault ((t.aW f l).pois || (usesB && (t.bW f l).pois) || (usesZ && (t.zW l).pois)
          || (g l (eaOf base (t.aW f l).w n) (t.bW f l) (t.zW l)).2) (eaOf base (t.aW f l).w n) n) t.selLanes := rfl

/-- Settles O24: an access takes its selected lanes one by one, each by its check. -/
theorem accessLaneAddressesAndChecks : Obligations.AccessLaneAddressesAndChecks := by
  intro x t f base n usesB usesZ g ea lane pois bad y
  have hy : y = x.addLanes (fun l => (lane l).1) bad t.selLanes :=
    (fill_eq_addLanes x t f base n usesB usesZ g).trans (congrArg (fun c => x.addLanes _ c t.selLanes) (funext fun l => laneFault_eq ..))
  rw [hy]
  exact ⟨fun hop => addLanes_checked hop _, fun hop => addLanes_prefetch hop _, fun _ _ _ hm => addLanes_mem hm⟩

end Sys2Proof.Machine
end

section
/-! The values that atomics leave in memory (R258, R259): minima and maxima of words, and the sums of stored triples. -/

namespace Sys2Proof.Machine

/-! ## Words -/

theorem apply_minUnsigned (x y : Word) (z : Nat) : (AtKind.min true).apply x.toNat y.toNat z = min x.toNat y.toNat := by
  simp only [AtKind.apply, w32_toNat_self, Zx, if_true, decide_eq_true_eq, Nat.min_def]

theorem apply_maxUnsigned (x y : Word) (z : Nat) : (AtKind.max true).apply x.toNat y.toNat z = max x.toNat y.toNat := by
  simp only [AtKind.apply, w32_toNat_self, Zx, if_true, decide_eq_true_eq, Nat.max_def]
  split <;> split <;> omega

theorem apply_minSigned (x y : Word) (z : Nat) : w32 ((AtKind.min false).apply x.toNat y.toNat z) = wrap32 (min x.toInt y.toInt) := by
  simp only [AtKind.apply, w32_toNat_self, Sx, Bool.false_eq_true, if_false, decide_eq_true_eq]
  by_cases h : x.toInt ≤ y.toInt
  · rw [if_pos h, min_eq_left h, w32_toNat_self]
    exact (wrap32_Sx x).symm
  · rw [if_neg h, min_eq_right (le_of_not_ge h), w32_toNat_self]
    exact (wrap32_Sx y).symm

theorem apply_maxSigned (x y : Word) (z : Nat) : w32 ((AtKind.max false).apply x.toNat y.toNat z) = wrap32 (max x.toInt y.toInt) := by
  simp only [AtKind.apply, w32_toNat_self, Sx, Bool.false_eq_true, if_false, decide_eq_true_eq]
  by_cases h : y.toInt ≤ x.toInt
  · rw [if_pos h, max_eq_left h, w32_toNat_self]
    exact (wrap32_Sx x).symm
  · rw [if_neg h, max_eq_right (le_of_not_ge h), w32_toNat_self]
    exact (wrap32_Sx y).symm

theorem apply_cas (x y z : Word) : AtKind.cas.apply x.toNat y.toNat z.toNat = if x = z then y.toNat else x.toNat := by
  simp only [AtKind.apply, w32_toNat_self, BitVec.toNat_inj]

/-! ## Stored triples (R164, R259) -/

/-- Each residue is below its modulus. -/
structure Tri.Canonical (t : Tri) : Prop where
  c0 : t.c0 < 65536
  c1 : t.c1 < 65535
  c2 : t.c2 < 65537

theorem Tri.ofInt_canonical (n : Int) : (Tri.ofInt n).Canonical := ⟨emod_toNat_lt 65536 n, emod_toNat_lt 65535 n, emod_toNat_lt 65537 n⟩

/-- R164: a stored triple reads back, with its poison. -/
theorem tri64_store {t : Tri} (h : t.Canonical) (pois : Bool) : tri64 (t.store pois) = (t, pois) := by
  obtain ⟨a, b, c⟩ := t
  obtain ⟨h0, h1, h2⟩ := h
  dsimp only at h0 h1 h2
  have hx : Tri.store ⟨a, b, c⟩ pois = a + b * 65536 + c * 4294967296 + (if pois then 9223372036854775808 else 0) := rfl
  have hfields : nfld (Tri.store ⟨a, b, c⟩ pois) 0 16 = a ∧ nfld (Tri.store ⟨a, b, c⟩ pois) 16 16 = b
      ∧ nfld (Tri.store ⟨a, b, c⟩ pois) 32 17 = c ∧ nfld (Tri.store ⟨a, b, c⟩ pois) 49 14 = 0
      ∧ nfld (Tri.store ⟨a, b, c⟩ pois) 63 1 = if pois then 1 else 0 := by
    rw [hx]
    simp only [nfld, Nat.reducePow]
    cases pois
    · simp only [Bool.false_eq_true, if_false]
      omega
    · simp only [if_true]
      omega
  obtain ⟨f0, f1, f2, f3, f4⟩ := hfields
  have hb : ¬65534 < b := by omega
  have hc : ¬65536 < c := by omega
  simp only [tri64, f0, f1, f2, f3, f4, hb, hc]
  cases pois <;> rfl

/-- R259: canonical triples without poison add residue by residue. -/
theorem apply_tri_clean {a b : Tri} (ha : a.Canonical) (hb : b.Canonical) (z : Nat) :
    AtKind.tri.apply (a.store false) (b.store false) z = (a.add b).store false := by
  simp only [AtKind.apply, tri64_store ha, tri64_store hb, Bool.false_eq_true, if_false]
  rfl

/-- R259: a poisoned triple in memory stays as it is. -/
theorem apply_tri_poisoned {a : Tri} (ha : a.Canonical) (b z : Nat) : AtKind.tri.apply (a.store true) b z = a.store true := by
  have hor : Nat.lor (a.store true) (2 ^ 63) = a.store true := by
    have hlt : a.c0 + a.c1 * 2 ^ 16 + a.c2 * 2 ^ 32 < 2 ^ 63 := by
      obtain ⟨h0, h1, h2⟩ := ha
      omega
    have hstore : a.store true = 2 ^ 63 ||| (a.c0 + a.c1 * 2 ^ 16 + a.c2 * 2 ^ 32) :=
      (Nat.add_comm _ _).trans (by simpa using Nat.two_pow_add_eq_or_of_lt hlt 1)
    show a.store true ||| 2 ^ 63 = a.store true
    rw [hstore, Nat.or_comm (2 ^ 63), Nat.or_assoc, Nat.or_self]
  simp only [AtKind.apply, tri64_store ha, if_true]
  exact hor

/-- Settles O26, kind by kind. -/
theorem atomicOperations : Obligations.AtomicOperations := by
  refine ⟨fun x y z => ?words, fun m n z => ?clean, fun m n z => apply_tri_poisoned (Tri.ofInt_canonical m) _ z⟩
  case words =>
    refine ⟨?_, apply_minUnsigned x y _, apply_maxUnsigned x y _, apply_minSigned x y _, apply_maxSigned x y _, ?_, ?_, ?_, ?_,
      apply_cas x y z, fun m => ?_⟩ <;> simp only [AtKind.apply, w32_toNat_self]
    exact BitVec.toNat_add x y
  case clean =>
    rw [apply_tri_clean (Tri.ofInt_canonical m) (Tri.ofInt_canonical n), Tri.ofInt_add]

end Sys2Proof.Machine
end

section
/-! STBAR, FENCE and FWAIT (R247, R285 to R289): the accesses that a barrier waits for, the entry that a fence takes, and each
end of a wait for one. -/

namespace Sys2Proof.Machine

/-! ## Fields of a literal -/

theorem getLsbD_ofNat_fld (x : Word) (lo : Nat) {n j : Nat} : (BitVec.ofNat n (fld x lo n)).getLsbD j = (x.getLsbD (lo + j) && decide (j < n)) := by
  rw [BitVec.getLsbD_ofNat, fld, Nat.testBit_mod_two_pow, Nat.testBit_div_two_pow, Nat.add_comm j lo]
  cases decide (j < n) <;> simp [BitVec.getLsbD]

theorem ofNat_fld_eq_zero (x : Word) (lo n : Nat) : BitVec.ofNat n (fld x lo n) = 0 ↔ fld x lo n = 0 := by
  rw [← BitVec.toNat_inj, BitVec.toNat_ofNat, Nat.mod_eq_of_lt (fld_lt x lo n)]
  simp

/-- The values of `v`, lane by lane. -/
theorem zs_lanes (t : Thread) : t.zs = (List.range t.width).map t.zW := by
  have h := map_range_getD t.zs PWord.zero id
  rwa [List.map_id, zs_length] at h

section Instructions
variable {s : State} {u : Nat} {t : Thread} {f : Fields}

/-! ## STBAR (R247) -/

/-- R247: the thread's earlier accesses, of the streams that an STBAR awaits, that have not performed at its scope. -/
theorem pendingIn_eq (s : State) (u : Nat) (x : Word) (scope : Nat) : s.pendingIn u (BitVec.ofNat 4 (fld x 4 4)) scope
    = (s.accs.filter (fun e => e.2.uid == u && e.2.op != .prf
      && (match e.2.stream with | none => false | some j => x.getLsbD (4 + j) && decide (j < 4)) && !s.accDone e.2 scope)).map (fun e => e.1) := by
  unfold State.pendingIn
  refine congrArg (List.map _) (List.filter_congr fun e _ => ?_)
  cases e.2.stream with
  | none => rfl
  | some j => simp only [getLsbD_ofNat_fld]

theorem stbar_performs (hi : Issues s u t f { opc := 0xA6, a := false, b := false }) (hl : t.selLanes ≠ []) {accs : List Nat}
    (haccs : s.pendingIn u (BitVec.ofNat 4 (fld f.lit 4 4)) (fld f.lit 8 3) = accs) {live gates : List StGate}
    (hlive : live = t.stgates.filter (fun g => g.accs.any (fun a => !s.performed a g.scope)))
    (hgates : gates = if fld f.lit 0 4 = 0 ∨ accs = [] then live else live ++ [⟨BitVec.ofNat 4 (fld f.lit 0 4), accs, fld f.lit 8 3⟩])
    {k : Thread} (hk : k = { t with stgates := gates }) {e : Eff} (he : e = .val t.zs) (hr : Room s (s.setThr u k) t k f e) :
    Performs (.stbar f) s u f (s.setThr u k) k e := by
  have hsel : t.selLanes.isEmpty = false := by simpa using hl
  have hx : exec (.stbar f) s = execStbar f s := rfl
  subst he
  refine exec_performs hx hi ?_ (thr_setThr ..) (by rw [hk]; exact hi.going) rfl hr
  subst hk hgates hlive
  simp only [haccs, hsel, Bool.false_eq_true, if_false, ofNat_fld_eq_zero]
  split <;> rfl

/-! ## FENCE (R287) -/

/-- The result of FENCE and FWAIT: one word and one `p` in every lane. -/
def fenceEff (t : Thread) (w : PWord) (p : Bool) : Eff := { v := some (List.replicate t.width w), p := some (List.replicate t.width p) }

theorem fence_full (hi : Issues s u t f { opc := 0xBA, a := false, b := false }) (hl : t.selLanes ≠ [])
    (hfull : ∀ n, n < 16 → ∃ e, tget (s.cell t.src).fences n = some e ∧ e.owner ≠ none) (hr : Room s s t t f (fenceEff t .zero false)) :
    Performs (.fence f) s u f s t (fenceEff t .zero false) := by
  have hsel : t.selLanes.isEmpty = false := by simpa using hl
  have hx : exec (.fence f) s = execFence f s := rfl
  have hnone : (List.range 16).find? (fun n => (tgetD (s.cell t.src).fences n .reset).owner.isNone) = none := by
    rw [List.find?_range_eq_none]
    intro n hn
    obtain ⟨e, he, howner⟩ := hfull n hn
    simpa [tgetD, he] using Option.isSome_iff_ne_none.2 howner
  refine exec_performs hx hi ?_ hi.thr hi.going rfl hr
  simp only [hsel, hnone, Bool.false_eq_true, if_false]
  rfl

theorem fence_takes (hi : Issues s u t f { opc := 0xBA, a := false, b := false }) (hl : t.selLanes ≠ []) {n : Nat} (hn : n < 16)
    (hfree : (tgetD (s.cell t.src).fences n FenceEnt.reset).owner = none)
    (hlow : ∀ j, j < n → (tgetD (s.cell t.src).fences j FenceEnt.reset).owner ≠ none) {g : BitVec 12}
    (hg : g = (tgetD (s.cell t.src).fences n FenceEnt.reset).gen + 1) {b : State}
    (hb : b = s.setCell t.src { s.cell t.src with fences := tset (s.cell t.src).fences n { s.fenceSet u t f.lit with gen := g } })
    (hr : Room s b t t f (fenceEff t ⟨w32 (t.src.cell * 2 ^ 16 + g.toNat * 2 ^ 4 + n), false⟩ true)) :
    Performs (.fence f) s u f b t (fenceEff t ⟨w32 (t.src.cell * 2 ^ 16 + g.toNat * 2 ^ 4 + n), false⟩ true) := by
  have hsel : t.selLanes.isEmpty = false := by simpa using hl
  have hx : exec (.fence f) s = execFence f s := rfl
  have hfind : (List.range 16).find? (fun n => (tgetD (s.cell t.src).fences n .reset).owner.isNone) = some n := by
    rw [List.find?_range_eq_some]
    refine ⟨by simp [hfree], List.mem_range.2 hn, fun j hj => ?_⟩
    simpa using Option.isSome_iff_ne_none.2 (hlow j hj)
  subst hg hb
  refine exec_performs hx hi ?_ hi.thr hi.going rfl hr
  simp only [hsel, hfind, Bool.false_eq_true, if_false]
  rfl

/-! ## FWAIT (R289) -/

section Fwait
variable (hi : Issues s u t f { opc := 0xBB })
include hi

theorem fwait_poisoned (ha : (t.a0 f).pois = true) (hr : Room s s t t f (fenceEff t ⟨0, true⟩ false)) :
    Performs (.fwait f) s u f s t (fenceEff t ⟨0, true⟩ false) := by
  have hx : exec (.fwait f) s = execFwait f s := rfl
  refine exec_performs hx hi ?_ hi.thr hi.going rfl hr
  simp only [ha, if_true]
  rfl

/-- R286: an FWAIT's word names entry n, which its thread owns. -/
structure FenceNamed (s : State) (u : Nat) (t : Thread) (a : Word) (e : FenceEnt) : Prop where
  entry : tget (s.cell t.src).fences (fld a 0 4) = some e
  owner : e.owner = some u
  word : a = w32 (t.src.cell * 2 ^ 16 + e.gen.toNat * 2 ^ 4 + fld a 0 4)
  ne_zero : a ≠ 0

omit hi in
theorem FenceNamed.eq_some {a : Word} {e : FenceEnt} (h : FenceNamed s u t a e) : s.fenceNamed u t a = some (fld a 0 4) := by
  have hcond : e.owner = some u ∧ a = fenceWord t.src.cell e.gen (fld a 0 4) ∧ a ≠ 0 := ⟨h.owner, h.word, h.ne_zero⟩
  simp only [State.fenceNamed, h.entry]
  exact if_pos hcond

omit hi in
theorem fenceNamed_eq_none {a : Word} (h : ∀ e, ¬FenceNamed s u t a e) : s.fenceNamed u t a = none := by
  unfold State.fenceNamed
  dsimp only
  split
  · rfl
  · next e he => exact if_neg fun ⟨howner, hword, hne⟩ => h e ⟨he, howner, hword, hne⟩

theorem fwait_unnamed (ha : (t.a0 f).pois = false) (h : ∀ e, ¬FenceNamed s u t (t.a0 f).w e) (hr : Room s s t t f (fenceEff t .zero false)) :
    Performs (.fwait f) s u f s t (fenceEff t .zero false) := by
  have hx : exec (.fwait f) s = execFwait f s := rfl
  refine exec_performs hx hi ?_ hi.thr hi.going rfl hr
  simp only [ha, fenceNamed_eq_none h, Bool.false_eq_true, if_false]
  rfl

variable (ha : (t.a0 f).pois = false) {e : FenceEnt} (hn : FenceNamed s u t (t.a0 f).w e)
include ha hn

theorem fwait_done (hd : s.fenceDone t.src.site e = true) {b : State}
    (hb : b = s.setCell t.src { s.cell t.src with fences := tset (s.cell t.src).fences (fld (t.a0 f).w 0 4) { e with owner := none } }) {r : Eff}
    (hE : r = if e.faulted then fenceEff t ⟨3, false⟩ false else fenceEff t ⟨1, false⟩ true) (hr : Room s b t t f r) :
    Performs (.fwait f) s u f b t r := by
  have hx : exec (.fwait f) s = execFwait f s := rfl
  have hend : s.fenceEnd t (fld (t.a0 f).w 0 4) = some (b, r) := by
    subst hb hE
    simp only [State.fenceEnd, hn.entry, hd, if_true]
    rfl
  refine exec_performs hx hi ?_ (by subst hb; exact hi.thr) hi.going (by subst hE; split <;> rfl) hr
  simp only [ha, hn.eq_some, hend, Bool.false_eq_true, if_false]

variable (hd : s.fenceDone t.src.site e = false)
include hd

omit hi ha in
theorem fenceEnd_none : s.fenceEnd t (fld (t.a0 f).w 0 4) = none := by
  simp only [State.fenceEnd, hn.entry, hd, Bool.false_eq_true, if_false]

theorem fwait_fails (hT : (t.b0 f).pois = true ∨ (t.b0 f).w = 0) (hr : Room s s t t f (fenceEff t .zero false)) :
    Performs (.fwait f) s u f s t (fenceEff t .zero false) := by
  have hx : exec (.fwait f) s = execFwait f s := rfl
  refine exec_performs hx hi ?_ hi.thr hi.going rfl hr
  simp only [ha, hn.eq_some, fenceEnd_none hn hd, Bool.false_eq_true, if_false]
  exact waitOn_lost hT

theorem fwait_waits (hp : (t.b0 f).pois = false) (hw : (t.b0 f).w ≠ 0) {k : Thread}
    (hk : k = t.waiting (.fence (fld (t.a0 f).w 0 4)) (s.deadline t (t.b0 f)) f 0xBB) {b : State} (hb : b = s.withWaiter u k (s.deadline t (t.b0 f)))
    (hr : RoomLate s b t k f) : Parks (.fwait f) s u b k .wait := by
  have hx : exec (.fwait f) s = execFwait f s := rfl
  subst hb hk
  refine exec_parks hx hi ?_ (withWaiter_thr ..) hr
  simp only [ha, hn.eq_some, fenceEnd_none hn hd, Bool.false_eq_true, if_false]
  exact waitOn_suspends hp hw

end Fwait

end Instructions

/-- Settles O27, instruction by instruction. -/
theorem barrierAndFenceResults : Obligations.BarrierAndFenceResults := by
  refine ⟨?stbar, fun s u t f => ⟨?fence, ?fwait⟩⟩
  case stbar =>
    intro s u t f hi hl scope accs live gates k e hr
    have hval : e = .val t.zs := congrArg Eff.val (zs_lanes t).symm
    exact stbar_performs hi hl (pendingIn_eq ..) rfl rfl rfl hval hr
  case fence =>
    exact fun hi hl => ⟨fun hfull hr => fence_full hi hl hfull hr, fun n hn hfree hlow hr => fence_takes hi hl hn hfree hlow rfl rfl hr⟩
  case fwait =>
    intro hi a T n named
    refine ⟨fun ha hr => fwait_poisoned hi ha hr, fun ha hun hr => fwait_unnamed hi ha (fun e he => hun ⟨e, he.entry, he.owner, he.ne_zero, he.word⟩) hr,
      fun e ha hne hent howner hword => ?_⟩
    have hn : FenceNamed s u t (t.a0 f).w e := ⟨hent, howner, hword, hne⟩
    exact ⟨fun hd hr => fwait_done hi ha hn hd rfl rfl hr, fun hd hT hr => fwait_fails hi ha hn hd hT hr,
      fun hd hp hw hr => fwait_waits hi ha hn hd hp hw rfl rfl hr⟩

end Sys2Proof.Machine
end

section
/-! Accesses at memory (R252, R258, R268, R291 to R301): what settling an access, reading at a home or at a replica, and writing at a
home leave of memory, of the accesses and of the lines and collapses of the slices. -/

namespace Sys2Proof.Machine

/-! ## What operations of the slices change -/

/-- s' is s but for its slices and caches, the activities to come and the next fresh number. -/
def OnlyCoh (s s' : State) : Prop := ∃ c g n, s' = { s with coh := c, agenda := g, fresh := n }

theorem OnlyCoh.refl (s : State) : OnlyCoh s s := ⟨_, _, _, rfl⟩

theorem OnlyCoh.trans {s s' s'' : State} (h : OnlyCoh s s') (h' : OnlyCoh s' s'') : OnlyCoh s s'' := by
  obtain ⟨c, g, n, rfl⟩ := h
  obtain ⟨c', g', n', rfl⟩ := h'
  exact ⟨c', g', n', rfl⟩

theorem OnlyCoh.mem {s s' : State} (h : OnlyCoh s s') : s'.mem = s.mem := by
  obtain ⟨c, g, n, rfl⟩ := h
  rfl

theorem OnlyCoh.accs {s s' : State} (h : OnlyCoh s s') : s'.accs = s.accs := by
  obtain ⟨c, g, n, rfl⟩ := h
  rfl

theorem OnlyCoh.acc {s s' : State} (h : OnlyCoh s s') (a : Nat) : s'.acc? a = s.acc? a := by rw [State.acc?, State.acc?, h.accs]

theorem OnlyCoh.badAt {s s' : State} (h : OnlyCoh s s') (a n : Nat) : s'.badAt a n = s.badAt a n := by
  obtain ⟨c, g, k, rfl⟩ := h
  rfl

theorem OnlyCoh.queuesIn {s s' : State} (h : OnlyCoh s s') (m : List Host.Cell) (line : Nat) : s'.queuesIn m line = s.queuesIn m line := by
  obtain ⟨c, g, n, rfl⟩ := h
  rfl

/-! ## Collapses (R296) -/

theorem onlyCoh_sendColl (s : State) (line h : Nat) : OnlyCoh s (s.sendColl line h).1 := by
  unfold State.sendColl
  dsimp only
  split <;> exact ⟨_, _, _, rfl⟩

theorem sendColl_lines (s : State) (line h : Nat) : (s.sendColl line h).1.coh.lines = s.coh.lines := by
  unfold State.sendColl
  dsimp only
  split <;> rfl

theorem sendColl_colls (s : State) (line h : Nat) :
    ∃ c, (s.sendColl line h).1.coh.colls = s.coh.colls ++ [c] ∧ c.die = h ∧ c.line = line ∧ c.arrived = false := by
  unfold State.sendColl
  dsimp only
  split <;> exact ⟨_, rfl, rfl, rfl, rfl⟩

/-- R296: one collapse of a line to each of these holders. -/
def sendColls (line : Nat) (r : State × List Nat) (hs : List Nat) : State × List Nat :=
  hs.foldl (fun r h => let q := r.1.sendColl line h; (q.1, r.2 ++ [q.2])) r

/-- A collapse of a line is on its way to a holder. -/
def Collapsing (s : State) (line h : Nat) : Prop := ∃ c ∈ s.coh.colls, c.die = h ∧ c.line = line ∧ c.arrived = false

/-- What sending collapses of a line does. -/
structure Sends (s s' : State) (line : Nat) (hs : List Nat) : Prop where
  only : OnlyCoh s s'
  lines : s'.coh.lines = s.coh.lines
  keeps : ∀ c ∈ s.coh.colls, c ∈ s'.coh.colls
  sent : ∀ h ∈ hs, Collapsing s' line h

theorem sendColls_sends (line : Nat) (hs : List Nat) (r : State × List Nat) : Sends r.1 (sendColls line r hs).1 line hs := by
  induction hs generalizing r with
  | nil => exact ⟨.refl _, rfl, fun _ h => h, fun _ h => absurd h List.not_mem_nil⟩
  | cons h hs ih =>
    have hrest := ih ((r.1.sendColl line h).1, r.2 ++ [(r.1.sendColl line h).2])
    obtain ⟨c, hcolls, hc⟩ := sendColl_colls r.1 line h
    have hold : ∀ d ∈ r.1.coh.colls, d ∈ (r.1.sendColl line h).1.coh.colls := fun d hd => hcolls ▸ List.mem_append_left _ hd
    have hnew : c ∈ (r.1.sendColl line h).1.coh.colls := hcolls ▸ List.mem_append_right _ (List.mem_singleton_self c)
    refine ⟨(onlyCoh_sendColl ..).trans hrest.only, hrest.lines.trans (sendColl_lines ..), fun d hd => hrest.keeps d (hold d hd), fun k hk => ?_⟩
    rcases List.mem_cons.1 hk with rfl | hk
    · exact ⟨c, hrest.keeps c hnew, hc⟩
    · exact hrest.sent k hk

theorem collapseLine_eq {s : State} {line : Nat} {x : Line} (hx : tget s.coh.lines line = some x) : s.collapseLine line
    = sendColls line ({ s with coh := { s.coh with lines := tset s.coh.lines line { x with holders := [] } } }, s.collsOf line) x.holders := by
  simp only [State.collapseLine, hx]
  rfl

theorem onlyCoh_collapseLine (s : State) (line : Nat) : OnlyCoh s (s.collapseLine line).1 := by
  cases hx : tget s.coh.lines line with
  | none =>
    simp only [State.collapseLine, hx]
    exact .refl s
  | some x =>
    rw [collapseLine_eq hx]
    exact OnlyCoh.trans (s' := { s with coh := { s.coh with lines := tset s.coh.lines line { x with holders := [] } } }) ⟨_, _, _, rfl⟩
      (sendColls_sends line x.holders _).only

/-! ## Reads at a home (R252, R294, R297) -/

theorem onlyCoh_sendFill (s : State) (die line acc : Nat) : OnlyCoh s (s.sendFill die line acc) := by
  unfold State.sendFill
  dsimp only
  split
  · split
    · exact .refl s
    · split
      · exact OnlyCoh.trans ⟨_, _, _, rfl⟩ (onlyCoh_collapseLine ..)
      · exact ⟨_, _, _, rfl⟩
  · exact .refl s

/-- A first-level cache changes, and what services have read for its tile. -/
structure OnlyL1 (s s' : State) : Prop where
  only : OnlyCoh s s'
  regs : s'.coh.regs = s.coh.regs
  slices : s'.coh.slices = s.coh.slices

theorem OnlyL1.refl (s : State) : OnlyL1 s s := ⟨.refl s, rfl, rfl⟩

theorem OnlyL1.trans {s s' s'' : State} (h : OnlyL1 s s') (h' : OnlyL1 s' s'') : OnlyL1 s s'' :=
  ⟨h.only.trans h'.only, h'.regs.trans h.regs, h'.slices.trans h.slices⟩

theorem onlyL1_noteNewer (s : State) (x : Site) (pa : Nat) (bs : List Byte) (mask : List Bool) : OnlyL1 s (s.noteNewer x pa bs mask) := by
  cases x with
  | tile n => exact ⟨⟨_, _, _, rfl⟩, rfl, rfl⟩
  | elem n => exact .refl s
  | syrad n => exact .refl s

theorem onlyL1_l1After (s : State) (x : Access) (pa : Nat) : OnlyL1 s (s.l1After x pa) := by
  unfold State.l1After
  dsimp only
  split
  · exact OnlyL1.trans (s' := s.setL1 _ _ _) ⟨⟨_, _, _, rfl⟩, rfl, rfl⟩ (onlyL1_noteNewer ..)
  · split
    · exact OnlyL1.trans (s' := s.dropL1 _ _) ⟨⟨_, _, _, rfl⟩, rfl, rfl⟩ (onlyL1_noteNewer ..)
    · exact .refl s

/-- A line that its slice holds needs no fetch. -/
theorem laneLine_present {s : State} {x : Access} {m : LaneAcc} (a l : Nat) (h : (tget s.coh.lines (lineOf m.pa)).isSome = true) :
    s.laneLine a l x m = some s := by
  have hnone : (tget s.coh.lines (lineOf m.pa)).isNone = false := by simpa using h
  simp only [State.laneLine, State.lineIn, hnone, h, Bool.false_and, Bool.false_eq_true, if_false, if_true]

/-! ## An access settles (R212, R249) -/

/-- Memory and the slices are as before. -/
structure CohStays (s s' : State) : Prop where
  mem : s'.mem = s.mem
  coh : s'.coh = s.coh

theorem CohStays.refl (s : State) : CohStays s s := ⟨rfl, rfl⟩

theorem CohStays.trans {s s' s'' : State} (h : CohStays s s') (h' : CohStays s' s'') : CohStays s s'' := ⟨h'.mem.trans h.mem, h'.coh.trans h.coh⟩

theorem cohStays_nudge (s : State) (u : Nat) : CohStays s (s.nudge u) := by
  unfold State.nudge
  split
  · exact .refl s
  · split <;> exact ⟨rfl, rfl⟩

theorem nudge_acc (s : State) (u a : Nat) : (s.nudge u).acc? a = s.acc? a := by
  unfold State.nudge
  split
  · rfl
  · split <;> rfl

theorem cohStays_retire (s : State) (a : Nat) (x : Access) : CohStays s (s.retire a x) := by
  unfold State.retire
  dsimp only
  split
  · exact ⟨rfl, rfl⟩
  · next c _ =>
    have hfall := keeps_fall (s.modAcc a (fun x => { x with retired := true })) x.uid c
    exact CohStays.trans ⟨rfl, rfl⟩ ⟨hfall.same .mem (by decide), hfall.same .coh (by decide)⟩

/-- R254: an access without failures has no record to write. -/
theorem addressRecord_clean {x : Access} (hf : x.fails = []) (s : State) (a : Nat) : s.addressRecord a x = s := by
  simp only [State.addressRecord, hf, List.filter_nil, List.find?_nil, List.findSome?_eq_none_iff.2 (fun _ _ => rfl)]

theorem cohStays_settleAcc {s : State} {a : Nat} {x : Access} (hx : s.acc? a = some x) (hf : x.fails = []) : CohStays s (s.settleAcc a) := by
  unfold State.settleAcc
  simp only [hx, addressRecord_clean hf]
  split
  · split
    · exact .refl s
    · exact cohStays_retire ..
  · generalize hs : (if x.retired = true then s else _) = s1
    have h1 : CohStays s s1 := by
      subst hs
      split
      · exact .refl s
      · split
        · split
          · exact .refl s
          · split
            · exact ⟨rfl, rfl⟩
            · exact cohStays_retire ..
        · split
          · exact cohStays_retire ..
          · exact .refl s
        · exact cohStays_retire ..
        · exact ⟨rfl, rfl⟩
    refine h1.trans ?_
    split
    · exact .refl s1
    · split
      · exact CohStays.trans (s' := { s1 with accs := tdel s1.accs a }) ⟨rfl, rfl⟩ (cohStays_nudge ..)
      · exact cohStays_nudge ..

/-- An operation whose data return: a read or an atomic. -/
def AccOp.returning (op : AccOp) : Prop := op.counter = some .ld ∨ op.isAtomic = true

theorem AccOp.returning_ne {op : AccOp} (h : op.returning) : op ≠ .st ∧ op ≠ .stm ∧ op ≠ .prf := by
  refine ⟨?_, ?_, ?_⟩ <;> rintro rfl <;> exact absurd h (by simp [AccOp.returning, AccOp.counter, AccOp.isAtomic])

/-- R249: such an access stays listed until its data return. -/
theorem settleAcc_returning {s : State} {a : Nat} {x : Access} (hx : s.acc? a = some x) (hf : x.fails = []) (hret : x.retired = false)
    (hop : x.op.returning) : (s.settleAcc a).acc? a = some x := by
  obtain ⟨hst, hstm, hprf⟩ := AccOp.returning_ne hop
  have hplain : x.plainStore = false := by simp [Access.plainStore, hst, hstm]
  have hpost : (s.postEv .loadDataReturn { a := a }).acc? a = some x := hx
  cases hcase : x.op
  case st => exact absurd hcase hst
  case stm => exact absurd hcase hstm
  case prf => exact absurd hcase hprf
  all_goals
    simp only [State.settleAcc, hx, addressRecord_clean hf, hret, hplain, hcase, hpost, Bool.false_and, Bool.not_false, Bool.or_true,
      Bool.false_eq_true, if_false, if_true]
    split
    · exact hx
    · exact (nudge_acc ..).trans hpost

/-! ## A lane is decided -/

/-- The lanes of an access with one of them changed. -/
def Access.withLane (x : Access) (l : Nat) (g : LaneAcc → LaneAcc) : Access := { x with lanes := x.lanes.map (fun m => if m.lane = l then g m else m) }

theorem modLane_acc {s : State} {a : Nat} {x : Access} (hx : s.acc? a = some x) (l : Nat) (g : LaneAcc → LaneAcc) :
    (s.modLane a l g).acc? a = some (x.withLane l g) :=
  (State.modAcc_acc ..).trans ((if_pos rfl).trans (congrArg (Option.map _) hx))

theorem withLane_lane {x : Access} {l : Nat} {m : LaneAcc} (hm : x.lane? l = some m) {g : LaneAcc → LaneAcc} (hg : ∀ m, (g m).lane = m.lane) :
    (x.withLane l g).lane? l = some (g m) := by
  have hpred : ((fun k : LaneAcc => decide (k.lane = l)) ∘ fun k => if k.lane = l then g k else k) = fun k => decide (k.lane = l) := by
    funext k
    by_cases hk : k.lane = l <;> simp [hk, hg]
  have hlane : m.lane = l := by simpa using List.find?_some hm
  unfold Access.lane? at hm ⊢
  rw [Access.withLane, List.find?_map, hpred, hm, Option.map_some, if_pos hlane]

section FinishLane
variable {s : State} {a l : Nat} {x : Access} (hx : s.acc? a = some x) (hf : x.fails = []) (got : List Byte) (pois : Bool) (acks : List Nat)
include hx hf

theorem cohStays_finishLane : CohStays s (s.finishLane a l got pois acks) :=
  CohStays.trans (s' := s.modLane a l _) ⟨rfl, rfl⟩ (cohStays_settleAcc (modLane_acc hx l _) hf)

/-- R252, R258: the lane of a read or an atomic has its bytes, and its access waits for their return. -/
theorem finishLane_returning (hret : x.retired = false) (hop : x.op.returning) {m : LaneAcc} (hm : x.lane? l = some m) :
    ∃ y, (s.finishLane a l got pois acks).acc? a = some y ∧ y.lane? l = some { m with st := .done, got := got, pois := pois, acks := acks } :=
  ⟨_, settleAcc_returning (modLane_acc hx l _) hf hret hop, withLane_lane hm (fun _ => rfl)⟩

end FinishLane

/-! ## A read lane performs (R252, R294, R298) -/

section Reads
variable {s : State} {a l : Nat} {x : Access} {m : LaneAcc} (hx : s.acc? a = some x) (hm : x.lane? l = some m) (hst : m.st = .todo)
  (hmay : s.mayPerform x m = true) {n : Nat} (hplace : s.place m.pa = .slice n)
include hx hm hst hmay hplace

/-- R252: a read that no first-level cache serves, of a line that its home holds without an error, takes its bytes there. -/
theorem sliceRead_serves (via : Bool) (hmiss : s.l1Hit x m.pa = none) (hline : (tget s.coh.lines (lineOf m.pa)).isSome = true)
    (hbad : s.badAt m.pa m.size = false) (hrep : x.replicable = false) :
    ∃ s1, OnlyCoh s s1 ∧ s.sliceRead a l via = s1.finishLane a l (rdN s.mem m.pa m.size) false [] := by
  generalize hs1 : (if via then s.sendFill (nearest (dieOf x.who.ag.site)) (lineOf m.pa) a else s).markSeen x.uid (nearest (dieOf x.who.ag.site)) (lineOf m.pa)
    = s1
  have h1 : OnlyCoh s s1 := by
    subst hs1
    refine OnlyCoh.trans ?_ ⟨_, _, _, rfl⟩
    split
    · exact onlyCoh_sendFill ..
    · exact .refl s
  refine ⟨s1.l1After x m.pa, h1.trans (onlyL1_l1After ..).only, ?_⟩
  simp only [State.sliceRead, State.readAtHome, hx, hm, hst, hmay, hplace, hmiss, laneLine_present a l hline, hrep, Bool.not_true, Bool.false_eq_true,
    ne_eq, not_true_eq_false, if_false, hs1, h1.badAt, hbad, h1.mem]

end Reads

/-- R298: a tracked region with a read from a die counted. -/
def RegEnt.counted (g : RegEnt) (near tick : Nat) : RegEnt := { g with reads := tset g.reads near (tgetD g.reads near 0 + 1), last := tick }

theorem countRead_tracked {s : State} {home region : Nat} {g : RegEnt} (hg : tget s.coh.regs (home, region) = some g) (near : Nat) :
    s.countRead home region near = s.setReg home region (g.counted near s.tick) := by
  have hadmit : s.admitReg home region = s := by simp only [State.admitReg, hg, Option.isSome_some, Bool.true_or, if_true]
  have hent : s.regEnt home region = g := by simp only [State.regEnt, tgetD, hg, Option.getD_some]
  simp only [State.countRead, hadmit, hent]
  rfl

/-- R294, R298: the state in which a replica has been hit. -/
def State.replicaHit (s : State) (x : Access) (m : LaneAcc) (g : RegEnt) : State :=
  let near := nearest (dieOf x.who.ag.site)
  (s.setReg (memDie m.pa) (regionOf m.pa) (g.counted near s.tick)).modSlice (s.replicaSlice near (lineOf m.pa)) (fun v => { v with rhit := v.rhit + 1 })

theorem replicaHit_regs (s : State) (x : Access) (m : LaneAcc) (g : RegEnt) : tget (s.replicaHit x m g).coh.regs (memDie m.pa, regionOf m.pa)
    = some (g.counted (nearest (dieOf x.who.ag.site)) s.tick) := tget_tset_same ..

theorem replicaHit_rhit (s : State) (x : Access) (m : LaneAcc) (g : RegEnt) :
    ((s.replicaHit x m g).slice (s.replicaSlice (nearest (dieOf x.who.ag.site)) (lineOf m.pa))).rhit
      = (s.slice (s.replicaSlice (nearest (dieOf x.who.ag.site)) (lineOf m.pa))).rhit + 1 :=
  congrArg SliceSt.rhit ((tgetD_tset ..).trans (if_pos rfl))

section Replica
variable {s : State} {a l : Nat} {x : Access} {m : LaneAcc} (hx : s.acc? a = some x) (hm : x.lane? l = some m) (hst : m.st = .todo)
  (hmay : s.mayPerform x m = true) {n : Nat} (hplace : s.place m.pa = .slice n)
include hx hm hst hmay hplace

/-- R294: a read takes its bytes from its nearest die's replica, where no collapse of the line is owed and no error lies under it. -/
theorem replicaRead_serves (hnear : nearest (dieOf x.who.ag.site) ≠ memDie m.pa) {r : Replica}
    (hr : tget s.coh.replicas (nearest (dieOf x.who.ag.site), lineOf m.pa) = some r) (hbad : ∀ b ∈ r.bad, b < m.pa ∨ m.pa + m.size ≤ b)
    (hcolls : ∀ c ∈ s.coh.colls, c.die = nearest (dieOf x.who.ag.site) → c.line ≠ lineOf m.pa) {g : RegEnt}
    (hg : tget s.coh.regs (memDie m.pa, regionOf m.pa) = some g) :
    ∃ s1, OnlyL1 (s.replicaHit x m g) s1 ∧ s.replicaRead a l = s1.finishLane a l ((r.bytes.drop (m.pa % 128)).take m.size) false [] := by
  refine ⟨if x.fills then (s.replicaHit x m g).l1After x m.pa else s.replicaHit x m g, ?_, ?_⟩
  · split
    · exact onlyL1_l1After ..
    · exact .refl _
  have howed : s.coh.colls.filter (fun c => c.die = nearest (dieOf x.who.ag.site) ∧ c.line = lineOf m.pa) = [] :=
    List.filter_eq_nil_iff.2 fun c hc => by simpa using hcolls c hc
  have herr : r.bad.any (fun b => decide (m.pa ≤ b ∧ b < m.pa + m.size)) = false :=
    List.any_eq_false.2 fun b hb => by have := hbad b hb; simp only [decide_eq_true_eq]; omega
  have hr' : tget (s.setReg (memDie m.pa) (regionOf m.pa) (g.counted (nearest (dieOf x.who.ag.site)) s.tick)).coh.replicas
    (nearest (dieOf x.who.ag.site), lineOf m.pa) = some r := hr
  have howed' : (s.setReg (memDie m.pa) (regionOf m.pa) (g.counted (nearest (dieOf x.who.ag.site)) s.tick)).coh.colls.filter
    (fun c => c.die = nearest (dieOf x.who.ag.site) ∧ c.line = lineOf m.pa) = [] := howed
  simp only [State.replicaRead, hx, hm, hst, hmay, hplace, hnear, countRead_tracked hg, hr', howed', List.any_nil, herr, Bool.not_true,
    Bool.false_eq_true, ne_eq, not_true_eq_false, if_false]
  rfl

end Replica

/-! ## A write at a home (R268, R296) -/

/-- R268, R296: the line of a write is dirty and without replicas, and every replica that it had is sent a collapse. -/
structure Collapses (s : State) (line : Nat) (holders : List Nat) : Prop where
  cleared : ∃ l, tget s.coh.lines line = some l ∧ l.holders = [] ∧ l.dirty = true
  sent : ∀ h ∈ holders, Collapsing s line h

theorem collapseLine_collapses {s : State} {line : Nat} {x : Line} (hx : tget s.coh.lines line = some x) (hdirty : x.dirty = true) :
    Collapses (s.collapseLine line).1 line x.holders := by
  rw [collapseLine_eq hx]
  have hsends := sendColls_sends line x.holders
    ({ s with coh := { s.coh with lines := tset s.coh.lines line { x with holders := [] } } }, s.collsOf line)
  refine ⟨⟨_, (congrArg (fun t => tget t line) hsends.lines).trans (tget_tset_same ..), rfl, hdirty⟩, hsends.sent⟩

/-- R232: with no live queue in the line, a write kills none. -/
theorem killChanged_none {s : State} {old : List Host.Cell} {line : Nat} (h : s.queuesIn old line = []) : s.killChanged old line = s := by
  simp only [State.killChanged, h, List.foldl_nil]

/-- R302: what a write leaves of the caches before its line collapses. -/
def State.written (s : State) (own : Option Site) (pa : Nat) (bs : List Byte) (mask : List Bool) : State :=
  let s := { s with mem := wrMasked s.mem pa bs mask,
                    memBad := s.memBad.filter (fun a => !(decide (pa ≤ a) && mask.getD (a - pa) false)) }.closeWindows (lineOf pa)
  match own with
  | none => s
  | some x => (s.patchL1 x pa bs mask).noteNewer x pa bs mask

theorem writeHome_eq (s : State) (own : Option Site) (pa : Nat) (bs : List Byte) (mask : List Bool) : (s.writeHome own pa bs mask).1
    = (((s.written own pa bs mask).soil (lineOf pa)).collapseLine (lineOf pa)).1.killChanged s.mem (lineOf pa) := rfl

section WriteHome
variable {s : State} {pa : Nat} {x : Line} (hx : tget s.coh.lines (lineOf pa) = some x) (hq : s.queuesIn s.mem (lineOf pa) = [])
  (own : Option Site) (bs : List Byte) (mask : List Bool)

/-- What `written` leaves: memory with the bytes, the lines and the accesses. -/
structure Written (s s' : State) (pa : Nat) (bs : List Byte) (mask : List Bool) : Prop where
  mem : s'.mem = wrMasked s.mem pa bs mask
  lines : s'.coh.lines = s.coh.lines
  accs : s'.accs = s.accs
  queues : s'.queues = s.queues
  parts : s'.parts = s.parts
  tick : s'.tick = s.tick

theorem written_written : Written s (s.written own pa bs mask) pa bs mask := by
  cases own with
  | none => exact ⟨rfl, rfl, rfl, rfl, rfl, rfl⟩
  | some y => cases y <;> exact ⟨rfl, rfl, rfl, rfl, rfl, rfl⟩

theorem queuesIn_congr {s s' : State} (hq : s'.queues = s.queues) (hp : s'.parts = s.parts) (ht : s'.tick = s.tick) (m : List Host.Cell) (line : Nat) :
    s'.queuesIn m line = s.queuesIn m line := by
  simp only [State.queuesIn, State.unusedQueues, hq, hp, ht]

include hx hq

/-- R268, R296: a write at its home. -/
theorem writeHome_performs : (s.writeHome own pa bs mask).1.mem = wrMasked s.mem pa bs mask ∧ (s.writeHome own pa bs mask).1.accs = s.accs
    ∧ Collapses (s.writeHome own pa bs mask).1 (lineOf pa) x.holders := by
  have hw := written_written (s := s) (pa := pa) own bs mask
  generalize hs1 : s.written own pa bs mask = s1 at hw
  have hline : tget (s1.soil (lineOf pa)).coh.lines (lineOf pa) = some { x with dirty := true } := by
    have hmod : tget (s1.soil (lineOf pa)).coh.lines (lineOf pa) = (tget s1.coh.lines (lineOf pa)).map (fun l => { l with dirty := true }) :=
      (tget_tmod ..).trans (if_pos rfl)
    rw [hmod, hw.lines, hx]
    rfl
  have honly := onlyCoh_collapseLine (s1.soil (lineOf pa)) (lineOf pa)
  have hnone : ((s1.soil (lineOf pa)).collapseLine (lineOf pa)).1.queuesIn s.mem (lineOf pa) = [] := by
    rw [honly.queuesIn]
    exact (queuesIn_congr hw.queues hw.parts hw.tick ..).trans hq
  rw [writeHome_eq, hs1, killChanged_none hnone]
  exact ⟨honly.mem.trans hw.mem, honly.accs.trans hw.accs, collapseLine_collapses (x := { x with dirty := true }) hline rfl⟩

end WriteHome

/-- R246, R258: the lower lanes of an atomic's line are done before a lane of it may perform. -/
theorem lower_done {s : State} {x : Access} {m : LaneAcc} (hst : m.st = .todo) (hmay : s.mayPerform x m = true) {o : LaneAcc} (ho : o ∈ x.lanes) (hat : x.op.isAtomic = true)
    (hlow : o.lane < m.lane) (hpl : o.placed = true) (hline : lineOf o.pa = lineOf m.pa) : o.st = .done := by
  have hnone : x.lanes.any (x.lower m) = false := by
    simp only [State.mayPerform, Bool.and_eq_true, Bool.not_eq_true'] at hmay
    exact hmay.1.2
  have hlower := List.any_eq_false.1 hnone o ho
  have hplaced : m.placed = true := by simp [LaneAcc.placed, hst]
  have hshares : o.shares m = true := by simp [LaneAcc.shares, hplaced, hpl, hline]
  by_contra hne
  exact hlower (by simp [Access.lower, hlow, hne, hat, hshares])

section Writes
variable {s : State} {a l : Nat} {x : Access} {m : LaneAcc} (hx : s.acc? a = some x) (hm : x.lane? l = some m) (hst : m.st = .todo)
  (hmay : s.mayPerform x m = true) {n : Nat} (hplace : s.place m.pa = .slice n) {ln : Line} (hln : tget s.coh.lines (lineOf m.pa) = some ln)

include hx hm hst hmay hplace hln

theorem writePerform_serves : s.writePerform a l = (s.writeHome (some x.who.ag.site) m.pa m.bytes m.mask).1.finishLane a l [] false
    (s.writeHome (some x.who.ag.site) m.pa m.bytes m.mask).2 := by
  simp only [State.writePerform, hx, hm, hst, hmay, hplace, laneLine_present a l (Option.isSome_iff_exists.2 ⟨ln, hln⟩), Bool.not_true, Bool.false_eq_true,
    ne_eq, not_true_eq_false, if_false]

theorem atomicPerform_serves {k : AtKind} (hop : x.op = .atomic k) (hbad : s.badAt m.pa m.size = false) {old new : List Byte}
    (hold : old = rdN s.mem m.pa m.size) (hnew : new = leBytes m.size (k.apply (leNat old) (leNat m.bytes) m.z.toNat)) :
    s.atomicPerform a l = (s.writeHome (some x.who.ag.site) m.pa new (fullMask new)).1.finishLane a l old false
      (s.writeHome (some x.who.ag.site) m.pa new (fullMask new)).2 := by
  subst hnew hold
  simp only [State.atomicPerform, hx, hm, hop, hst, hmay, hplace, laneLine_present a l (Option.isSome_iff_exists.2 ⟨ln, hln⟩), hbad, Bool.not_true,
    Bool.false_eq_true, ne_eq, not_true_eq_false, if_false]

omit hm hst hmay hplace in
/-- R268, R296, R258: what a lane that writes at its home and is then decided leaves. -/
theorem write_finishes (hq : s.queuesIn s.mem (lineOf m.pa) = []) (hf : x.fails = []) (own : Option Site) (bs : List Byte) (mask : List Bool)
    (got : List Byte) (acks : List Nat) {s' : State} (hs' : s' = (s.writeHome own m.pa bs mask).1.finishLane a l got false acks) :
    s'.mem = wrMasked s.mem m.pa bs mask ∧ Collapses s' (lineOf m.pa) ln.holders := by
  obtain ⟨hmem, haccs, hcoll⟩ := writeHome_performs hln hq own bs mask
  have hacc : (s.writeHome own m.pa bs mask).1.acc? a = some x := by rw [State.acc?, haccs]; exact hx
  have hstays := cohStays_finishLane (l := l) hacc hf got false acks
  subst hs'
  obtain ⟨⟨l', hl', hholders, hdirty⟩, hsent⟩ := hcoll
  exact ⟨hstays.mem.trans hmem, ⟨l', hstays.coh ▸ hl', hholders, hdirty⟩, fun h hh => by unfold Collapsing; rw [hstays.coh]; exact hsent h hh⟩

end Writes

/-- Settles O28: a read at its home or its replica, a store and an atomic at their home. -/
theorem accessesPerform : Obligations.AccessesPerform := by
  refine ⟨?reads, ?writes⟩
  case' reads =>
    intro s x m hx hm hst hmay hop hret hf a reads
    refine ⟨?home, ?replica⟩
  case' writes =>
    intro s x m hx hm hst hmay ⟨n, hplace⟩ ln hln hq hf
    refine ⟨fun o ho hat hlow hpl hline => lower_done hst hmay ho hat hlow hpl hline, ?store, ?atomic⟩
  case home =>
    rintro ⟨n, hplace⟩ hmiss hline hbad hrep
    obtain ⟨s1, honly, hread⟩ := sliceRead_serves hx hm hst hmay hplace (s.subj.c == 1) hmiss hline hbad hrep
    have hacc : s1.acc? a = some x := (honly.acc a).trans hx
    exact ⟨_, congrArg Host.Outcome.next hread, finishLane_returning hacc hf _ _ _ hret (.inl hop) hm,
      (cohStays_finishLane hacc hf ..).mem.trans honly.mem⟩
  case replica =>
    rintro hrep hnear ⟨n, hplace⟩ r hr hbad hcolls g hg near k
    obtain ⟨s1, hl1, hread⟩ := replicaRead_serves hx hm hst hmay hplace hnear hr hbad hcolls hg
    have hacc : s1.acc? a = some x := (hl1.only.acc a).trans hx
    have hstays := cohStays_finishLane (l := s.subj.b) hacc hf ((r.bytes.drop (m.pa % 128)).take m.size) false []
    refine ⟨_, g.counted near s.tick, congrArg Host.Outcome.next hread,
      ⟨finishLane_returning hacc hf _ _ _ hret (.inl hop) hm, hstays.mem.trans hl1.only.mem⟩, ?_, (tgetD_tset ..).trans (if_pos rfl),
      fun d hd => (tgetD_tset ..).trans (if_neg hd), rfl, rfl, ?_⟩
    · rw [hstays.coh, hl1.regs]
      exact replicaHit_regs ..
    · rw [State.slice, hstays.coh, hl1.slices]
      exact replicaHit_rhit ..
  case store =>
    intro hop
    obtain ⟨hmem, hline, hsent⟩ := write_finishes hx hln hq hf _ m.bytes m.mask [] _ rfl
    exact ⟨_, congrArg Host.Outcome.next (writePerform_serves hx hm hst hmay hplace hln), hmem, hline, hsent⟩
  case atomic =>
    intro k hop hbad old new
    obtain ⟨hmem, hline, hsent⟩ := write_finishes hx hln hq hf _ new (fullMask new) old _ rfl
    have hserve := atomicPerform_serves hx hm hst hmay hplace hln hop hbad (old := old) rfl (new := new) rfl
    obtain ⟨-, haccs, -⟩ := writeHome_performs hln hq (some x.who.ag.site) new (fullMask new)
    have hacc : (s.writeHome (some x.who.ag.site) m.pa new (fullMask new)).1.acc? s.subj.a = some x := by rw [State.acc?, haccs]; exact hx
    have hat : x.op.returning := .inr (by rw [hop]; rfl)
    by_cases hret : x.retired = false
    · obtain ⟨y, hy, hlane⟩ := finishLane_returning hacc hf old false (s.writeHome (some x.who.ag.site) m.pa new (fullMask new)).2 hret hat hm
      exact ⟨_, y, congrArg Host.Outcome.next hserve, hmem, ⟨hline, hsent⟩, fun _ => ⟨hy, _, hlane, rfl, rfl⟩⟩
    · exact ⟨_, x, congrArg Host.Outcome.next hserve, hmem, ⟨hline, hsent⟩, fun h => absurd h hret⟩

end Sys2Proof.Machine
end

section
/-! LDMC (R257, R302 to R304, R420, R421): the lines of an instruction, the arrival of its request at a slice, the lines that the
service reads and sends, and their arrival at the tiles. -/

namespace Sys2Proof.Machine

/-! ## The lines of an instruction (R243, R257) -/

/-- A line of 128 bytes whose address is aligned and in range passes its checks. -/
theorem laneFault_line {ea : Int} (hal : ea % 128 = 0) (hlo : -(2 ^ 56) ≤ ea) (hhi : ea < 2 ^ 56) : laneFault false ea 128 = none := by
  rw [laneFault_eq, if_neg Bool.false_ne_true, if_neg (by omega), if_neg (by omega)]

theorem addLane_none (x : Access) (m : LaneAcc) : x.addLane m none = { x with lanes := x.lanes ++ [m] } := rfl

theorem foldl_addLane_none (g : Nat → LaneAcc) (l : List Nat) (x : Access) :
    l.foldl (fun x i => x.addLane (g i) none) x = { x with lanes := x.lanes ++ l.map g } := by
  induction l generalizing x with
  | nil => simp
  | cons i l ih =>
    rw [List.foldl_cons, ih, addLane_none]
    simp

/-- R257: the lines of an LDMC that are all aligned and in range are its lanes. -/
theorem mcFill_lines {x : Access} {ea : Int} {n : Nat} (hlanes : x.lanes = []) (hal : ea % 128 = 0) (hlo : -(2 ^ 56) ≤ ea)
    (hhi : ea + (128 * n : Nat) ≤ 2 ^ 56) : x.mcFill false ea n = { x with lanes := (List.range n).map (mcLane ea) } := by
  have hok : (List.range n).findSome? (fun i => laneFault false (ea + (128 * i : Nat)) 128) = none := by
    rw [List.findSome?_eq_none_iff]
    intro i hi
    rw [List.mem_range] at hi
    exact laneFault_line (by omega) (by omega) (by omega)
  simp only [Access.mcFill, hok]
  rw [foldl_addLane_none, hlanes, List.nil_append]

/-- R257: a poisoned operand fails the instruction. -/
theorem mcFill_fails {x : Access} (hop : x.op ≠ .prf) (ea : Int) (n : Nat) : (x.mcFill true ea (n + 1)).fails ≠ [] := by
  have hbad : (List.range (n + 1)).findSome? (fun i => laneFault true (ea + (128 * i : Nat)) 128) = some 0 := by
    rw [List.range_succ_eq_map, List.findSome?_cons]
    rfl
  simp only [Access.mcFill, hbad, Access.addLane, hop, if_false]
  simp

/-! ## The instruction (R257) -/

section Ldmc
variable {s : State} {u : Nat} {t : Thread} {f : Fields}

/-- The access of an LDMC, without its lines. -/
def ldmcAccess (t : Thread) (f : Fields) : Access :=
  t.access (.ldmc (t.b0 f).w.toNat (fld t.z0.w 29 3) (bit t.z0.w 28) (fld t.z0.w 22 6 + 1) (fld t.z0.w 16 6) (fld t.z0.w 0 16)) 0xA5 f.lit
    (some (fld f.lit 3 2)) (fld f.lit 8 3) (fld f.lit 11 3) []

/-- The tiles that an LDMC names. -/
def ldmcTiles (t : Thread) (f : Fields) : List Nat := mcTiles (t.b0 f).w (fld t.z0.w 29 3) (fld t.z0.w 28 1)

/-- The address of an LDMC's first line. -/
def State.ldmcAddr (s : State) (t : Thread) (f : Fields) : Int := eaOf (s.baseOf t (mBase f.lit)) (t.a0 f).w 4

theorem ldmc_poisoned (hi : Issues s u t f { opc := 0xA5, ctr := some .ld, counts := Thread.anyLane }) (hl : t.selLanes ≠ [])
    (hsc : s.scHeld u (fld f.lit 8 3) = false) (hbad : (t.a0 f).pois = true ∨ (t.b0 f).pois = true ∨ t.z0.pois = true) {b : State}
    (hb : b = (s.issueAcc u ((ldmcAccess t f).mcFill true (s.ldmcAddr t f) (fld t.z0.w 22 6 + 1))).postEv .ldmcRequestArrival { a := s.fresh })
    {e : Eff} (he : e = .val ((t.as f).map (fun v => { v with pois := true }))) {k : Thread} (hk : b.thr? u = some k) (hend : k.ending = false)
    (hr : Room s b t k f e) : Performs (.ldmc f) s u f b k e := by
  have hsel : t.selLanes.isEmpty = false := by simpa using hl
  have hx : exec (.ldmc f) s = execLdmc f s := rfl
  have hsc' : s.scHeld u (mOrd f.lit) = false := hsc
  have hpois : ((t.a0 f).pois || (t.b0 f).pois || t.z0.pois) = true := by simpa [or_assoc] using hbad
  have hfail : ((ldmcAccess t f).mcFill true (s.ldmcAddr t f) (fld t.z0.w 22 6 + 1)).fails.isEmpty = false := by
    simpa using mcFill_fails (x := ldmcAccess t f) (by simp [ldmcAccess, Thread.access]) (s.ldmcAddr t f) (fld t.z0.w 22 6)
  unfold ldmcAccess State.ldmcAddr at hfail
  subst hb he
  refine exec_performs hx hi ?_ hk hend rfl hr
  simp only [hsc', hpois, hsel, Bool.false_eq_true, if_false, if_true]
  simp only [mStream, mOrd, mScope, hfail, Bool.false_and, Bool.false_eq_true, if_false]
  rfl

section Clean
variable (hi : Issues s u t f { opc := 0xA5, ctr := some .ld, counts := Thread.anyLane }) (hl : t.selLanes ≠ [])
    (hsc : s.scHeld u (fld f.lit 8 3) = false) (ha : (t.a0 f).pois = false) (hb : (t.b0 f).pois = false) (hz : t.z0.pois = false)
    (howns : ∀ d ∈ ldmcTiles t f, s.owns t.part (.tile d) = true) (hal : s.ldmcAddr t f % 128 = 0) (hlo : -(2 ^ 56) ≤ s.ldmcAddr t f)
    (hhi : s.ldmcAddr t f + (128 * (fld t.z0.w 22 6 + 1) : Nat) ≤ 2 ^ 56)
include hi hl hsc ha hb hz howns hal hlo hhi

/-- The access that a sound LDMC issues. -/
def State.ldmcLines (s : State) (t : Thread) (f : Fields) : Access :=
  { ldmcAccess t f with lanes := (List.range (fld t.z0.w 22 6 + 1)).map (mcLane (s.ldmcAddr t f)) }

theorem ldmc_exec {b : State} (hbody : b = if ldmcTiles t f = [] then s
      else (s.issueAcc u (s.ldmcLines t f)).postEv .ldmcRequestArrival { a := s.fresh }) {k : Thread} (hk : b.thr? u = some k)
    (hend : k.ending = false) (hr : Room s b t k f (.val (t.as f))) : Performs (.ldmc f) s u f b k (.val (t.as f)) := by
  have hsel : t.selLanes.isEmpty = false := by simpa using hl
  have hx : exec (.ldmc f) s = execLdmc f s := rfl
  have hsc' : s.scHeld u (mOrd f.lit) = false := hsc
  have hfill : (ldmcAccess t f).mcFill false (s.ldmcAddr t f) (fld t.z0.w 22 6 + 1) = s.ldmcLines t f := mcFill_lines rfl hal hlo hhi
  have hclean : (s.ldmcLines t f).fails.isEmpty = true := rfl
  have hmine : (ldmcTiles t f).filter (fun n => s.owns t.part (.tile n)) = ldmcTiles t f := List.filter_eq_self.2 howns
  have hout : s.mcOutside t (ldmcTiles t f) = s := by
    have hnone : (ldmcTiles t f).filter (fun n => !s.owns t.part (.tile n)) = [] := List.filter_eq_nil_iff.2 fun d hd => by simp [howns d hd]
    rw [State.mcOutside, hnone]
    rfl
  refine exec_performs hx hi ?_ hk hend rfl hr
  unfold ldmcAccess State.ldmcAddr at hfill
  unfold ldmcTiles at hmine hout hbody
  simp only [hsc', ha, hb, hz, hsel, Bool.or_self, Bool.false_eq_true, if_false]
  simp only [mStream, mOrd, mScope, hfill, hclean, hmine, hout, Bool.true_and, List.isEmpty_iff, if_true]
  subst hbody
  split <;> rfl

end Clean
end Ldmc

/-! ## The request at a slice (R303, R421) -/

/-- R421: with no other service listed, no line merges. -/
theorem mcMergeLine_alone {s : State} {n : Nat} (h : ∀ e ∈ s.coh.mc, e.1 = n) (v : McSvc) (line : Nat) (pairs : List (Nat × Nat)) :
    s.mcMergeLine n v line pairs = (s, false) := by
  have hnone : s.coh.mc.filter (fun e => e.1 ≠ n ∧ e.2.arrived ∧ e.2.slice = v.slice ∧ e.2.die = v.die ∧ e.2.scope = v.scope) = [] :=
    List.filter_eq_nil_iff.2 fun e he => by simp [h e he]
  simp only [State.mcMergeLine, hnone, List.findSome?_nil]

/-- R421: the request of a service as its slice takes it. -/
def McSvc.taken (v : McSvc) (tick : Nat) : McSvc := { v with arrived := true, order := tick, want := v.lines.map (fun _ => v.want.headD []) }

theorem setMc_mc (s : State) (n : Nat) (v : McSvc) : tget (s.setMc n v).coh.mc n = some v := tget_tset_same ..

theorem mcArrive_alone {s : State} {n : Nat} {v : McSvc} (halone : ∀ e ∈ s.coh.mc, e.1 = n) (hlines : v.lines ≠ []) (hgone : s.acc? v.acc = none) :
    s.mcArrive n v = (s.setMc n (v.taken s.tick)).postEv .ldmcLineRead { a := n } := by
  have hfold : ∀ l : List Nat, l.foldl (fun (r : State × List Nat) l => let q := r.1.mcMergeLine n v l (v.want.headD []);
      (q.1, if q.2 then r.2 ++ [l] else r.2)) (s, []) = (s, []) := by
    intro l
    induction l with
    | nil => rfl
    | cons i l ih =>
      simp only [List.foldl_cons, mcMergeLine_alone halone, Bool.false_eq_true, if_false] at ih ⊢
      exact ih
  have hmerged : (if v.slice = 64 then (s, []) else v.lines.foldl (fun (r : State × List Nat) l =>
      let q := r.1.mcMergeLine n v l (v.want.headD []); (q.1, if q.2 then r.2 ++ [l] else r.2)) (s, [])) = (s, []) := by
    split
    · rfl
    · exact hfold v.lines
  have hgone' : ∀ w : McSvc, ((s.setMc n w).postEv .ldmcLineRead { a := n }).acc? v.acc = none := fun _ => hgone
  unfold State.mcArrive
  simp only [hmerged, List.not_mem_nil, not_false_eq_true, decide_true, List.filter_true, hlines, if_true, if_false, State.mcLanded, hgone']
  rfl

theorem ldmcRequestArrival_waits {s : State} {x : Access} {mask die : Nat} {h : Bool} {n sem inc : Nat} {v : McSvc} (hx : s.acc? s.subj.a = some x)
    (hop : x.op = .ldmc mask die h n sem inc) (hret : x.retired = false) (hc : s.subj.c = 1) (hv : tget s.coh.mc s.subj.b = some v)
    (halone : ∀ e ∈ s.coh.mc, e.1 = s.subj.b) (hlines : v.lines ≠ []) (hsw : s.coh.switch = none) (hgone : s.acc? v.acc = none) :
    exec .ldmcRequestArrival s = .next ((s.setMc s.subj.b (v.taken s.tick)).postEv .ldmcLineRead { a := s.subj.b }) := by
  have he : exec .ldmcRequestArrival s = execLdmcRequestArrival s := rfl
  have hfree : ¬(v.slice ≠ 64 ∧ v.lines.any (fun l => s.switching (l * 128)) = true) := by simp [State.switching, hsw]
  rw [he]
  simp only [execLdmcRequestArrival, hx, hop, hret, hc, hv, hfree, mcArrive_alone halone hlines hgone, Bool.false_eq_true, if_false, if_true]

/-! ## A line is read and sent (R302, R304) -/

section LineRead
variable {s : State} {v : McSvc} (hv : tget s.coh.mc s.subj.a = some v) (hnext : v.next < v.lines.length)
  (hthere : v.slice = 64 ∨ 12 + v.slice / 16 ∉ s.coh.lost)
include hv hnext hthere

theorem ldmcLineRead_exec : exec .ldmcLineRead s = if v.read then
      .next ((((s.mcSend s.subj.a { v with read := false, next := v.next + 1 }
        (mcReplies (v.lines.getD v.next 0) (tgetD v.buf v.next []) (v.want.getD v.next []))).postEv .mergeWindowClose { a := s.subj.a, b := v.next })).postEv
          .ldmcLineRead { a := s.subj.a })
    else if s.mcTurn s.subj.a v then .next (s.mcRead s.subj.a v) else .next (s.postEv .ldmcLineRead { a := s.subj.a }) := by
  have he : exec .ldmcLineRead s = execLdmcLineRead s := rfl
  have hlost : ¬(v.slice ≠ 64 ∧ s.coh.lost.contains (12 + v.slice / 16) = true) := by
    rintro ⟨hne, hl⟩
    exact hthere.elim hne (fun h => h (by simpa using hl))
  rw [he]
  simp only [execLdmcLineRead, hv, hnext, hlost, if_false, if_true]

/-- R302: the slice reads the service's next line as memory holds it, and its merge window opens. -/
theorem ldmcLineRead_reads {x : Access} (hread : v.read = false) (hturn : s.mcTurn s.subj.a v = true) (hx : s.acc? v.acc = some x) (hslice : v.slice ≠ 64)
    (hline : (tget s.coh.lines (v.lines.getD v.next 0)).isSome = true) (hbad : s.badAt (v.lines.getD v.next 0 * 128) 128 = false) :
    exec .ldmcLineRead s = .next ((s.setMc s.subj.a { v with
      read := true, windows := v.windows ++ [v.next], buf := tset v.buf v.next (rdN s.mem (v.lines.getD v.next 0 * 128) 128) }).postEv
        .ldmcLineRead { a := s.subj.a }) := by
  have hnone : (tget s.coh.lines (v.lines.getD v.next 0)).isNone = false := by simpa using hline
  rw [ldmcLineRead_exec hv hnext hthere, hread, hturn]
  simp only [State.mcRead, hx, hslice, hnone, State.lineIn, hline, State.mcBytes, hbad, Bool.false_and, Bool.false_eq_true, if_false, if_true]

end LineRead

theorem mem_insBy {α : Type} (le : α → α → Bool) (x y : α) (l : List α) : y ∈ insBy le x l ↔ y = x ∨ y ∈ l := by
  induction l with
  | nil => simp [insBy]
  | cons z l ih =>
    unfold insBy
    split
    · simp only [List.mem_cons, ih]
      tauto
    · simp

theorem mem_sortBy {α : Type} (le : α → α → Bool) (y : α) (l : List α) : y ∈ sortBy le l ↔ y ∈ l := by
  have hfold : ∀ (l r : List α), y ∈ l.foldl (fun r x => insBy le x r) r ↔ y ∈ r ∨ y ∈ l := by
    intro l
    induction l with
    | nil => simp
    | cons x l ih =>
      intro r
      rw [List.foldl_cons, ih, mem_insBy, List.mem_cons]
      tauto
  rw [sortBy, hfold]
  simp

theorem mem_sortNats (n : Nat) (l : List Nat) : n ∈ sortNats l ↔ n ∈ l := by rw [sortNats, List.mem_dedup, mem_sortBy]

/-- R304: every tile that a reply is for gets its copy of the line. -/
theorem mcReplies_mem {line : Nat} {bytes : List Byte} {want : List (Nat × Nat)} {w : Nat × Nat} (hw : w ∈ want) :
    ∃ r ∈ mcReplies line bytes want, r.tile = w.2 ∧ r.line = line ∧ r.bytes = bytes ∧ w.1 ∈ r.accs := by
  refine ⟨_, List.mem_map.2 ⟨w.2, (mem_sortNats ..).2 (List.mem_map.2 ⟨w, hw, rfl⟩), rfl⟩, rfl, rfl, rfl, ?_⟩
  exact List.mem_dedup.2 (List.mem_map.2 ⟨w, List.mem_filter.2 ⟨hw, by simp⟩, rfl⟩)

/-- What the replies of a service leave. -/
structure McSends (s s' : State) (n : Nat) (v : McSvc) (rs : List McReply) : Prop where
  mem : s'.mem = s.mem
  listed : tget s'.coh.mc n = some { v with replies := v.replies ++ rs }
  posted : ∀ r ∈ rs, Act.ev .ldmcReplyArrival { a := n, b := r.tile } ∈ s'.agenda

theorem foldl_postReply (n : Nat) (rs : List McReply) (s : State) :
    ∃ g, rs.foldl (fun s r => s.postEv .ldmcReplyArrival { a := n, b := r.tile }) s = { s with agenda := g }
      ∧ (∀ a ∈ s.agenda, a ∈ g) ∧ ∀ r ∈ rs, Act.ev .ldmcReplyArrival { a := n, b := r.tile } ∈ g := by
  induction rs generalizing s with
  | nil => exact ⟨_, rfl, fun _ h => h, fun _ h => absurd h List.not_mem_nil⟩
  | cons r rs ih =>
    obtain ⟨g, hg, hold, hnew⟩ := ih (s.postEv .ldmcReplyArrival { a := n, b := r.tile })
    refine ⟨g, hg, fun a ha => hold a (List.mem_append_left _ ha), fun q hq => ?_⟩
    rcases List.mem_cons.1 hq with rfl | hq
    · exact hold _ (List.mem_append_right _ (List.mem_singleton_self _))
    · exact hnew q hq

theorem mcSend_sends (s : State) (n : Nat) (v : McSvc) (rs : List McReply) : McSends s (s.mcSend n v rs) n v rs := by
  obtain ⟨g, hg, -, hposted⟩ := foldl_postReply n rs (s.setMc n { v with replies := v.replies ++ rs })
  rw [State.mcSend, hg]
  exact ⟨rfl, setMc_mc .., hposted⟩

/-! ## A line arrives at a tile (R252, R257) -/

theorem mcDrop_l1 (s : State) (n : Nat) : (s.mcDrop n).coh.l1 = s.coh.l1 := by
  unfold State.mcDrop
  split
  · rfl
  · split <;> rfl

theorem mcDrop_mem (s : State) (n : Nat) : (s.mcDrop n).mem = s.mem := by
  unfold State.mcDrop
  split
  · rfl
  · split <;> rfl

/-- R257: requests that are gone have nothing left to add. -/
theorem foldl_mcLanded_gone {s : State} (tile : Nat) {accs : List Nat} (h : ∀ a ∈ accs, s.acc? a = none) :
    accs.foldl (fun s a => if s.mcOwes a tile then s else s.mcLanded a [tile]) s = s := by
  induction accs with
  | nil => rfl
  | cons a accs ih =>
    have hstep : (if s.mcOwes a tile then s else s.mcLanded a [tile]) = s := by
      split
      · rfl
      · simp only [State.mcLanded, h a List.mem_cons_self]
    rw [List.foldl_cons, hstep]
    exact ih fun b hb => h b (List.mem_cons_of_mem _ hb)

theorem ldmcReplyArrival_fills {s : State} {v : McSvc} {r : McReply} (hv : tget s.coh.mc s.subj.a = some v)
    (hr : v.replies.find? (fun r => r.tile = s.subj.b) = some r) (haway : ∀ inv, s.away (.tile s.subj.b) inv = false) (hbytes : r.bytes ≠ [])
    (hgone : ∀ a ∈ r.accs, s.acc? a = none) : exec .ldmcReplyArrival s = .next
      (((s.setMc s.subj.a { v with replies := v.replies.erase r }).setL1 (.tile s.subj.b) r.line (v.newest r)).mcDrop s.subj.a) := by
  have he : exec .ldmcReplyArrival s = execLdmcReplyArrival s := rfl
  have hfold := foldl_mcLanded_gone (s := (s.setMc s.subj.a { v with replies := v.replies.erase r }).setL1 (.tile s.subj.b) r.line (v.newest r))
    s.subj.b hgone
  rw [he]
  simp only [execLdmcReplyArrival, hv, hr, haway, hbytes, Bool.false_eq_true, if_false, hfold]

/-- R302: a closed window's buffer is gone; a service with lines to come stays listed. -/
theorem mergeWindowClose_closes {s : State} {v : McSvc} (hv : tget s.coh.mc s.subj.a = some v) (hnext : v.next < v.lines.length) :
    exec .mergeWindowClose s = .next (s.setMc s.subj.a { v with windows := v.windows.filter (· ≠ s.subj.b), buf := tdel v.buf s.subj.b }) := by
  have he : exec .mergeWindowClose s = execMergeWindowClose s := rfl
  have hmore : decide (v.lines.length ≤ v.next) = false := decide_eq_false (Nat.not_le.2 hnext)
  rw [he]
  simp only [execMergeWindowClose, hv, State.mcDrop, setMc_mc, hmore, Bool.and_false, Bool.false_and, Bool.false_eq_true, if_false]

/-- Settles O31: the instruction with poisoned and with sound operands, then each event of its service. -/
theorem multicastLoads : Obligations.MulticastLoads := by
  refine ⟨?instruction, fun s => ⟨?request, ?line, ?reply, fun v hv hnext => ⟨_, mergeWindowClose_closes hv hnext, setMc_mc ..⟩⟩⟩
  case instruction =>
    intro s u t f hi hl hsc z tiles n ea op none x e
    have has : (t.as f).map (fun v => ({ v with pois := true } : PWord)) = (List.range t.width).map (fun l => ⟨(t.aW f l).w, true⟩) := by
      rw [as_lanes, List.map_map]
      rfl
    have htiles : tiles = ldmcTiles t f := by simp only [tiles, z, ldmcTiles, mcTiles, bit_eq_getLsbD]
    have he : e = .val (t.as f) := by rw [as_lanes]
    refine ⟨fun hbad k hk hend hr => ldmc_poisoned hi hl hsc hbad rfl (congrArg Eff.val has.symm) hk hend hr,
      fun ha hb hz howns hal hlo hhi => ?_⟩
    rw [htiles] at howns ⊢
    rw [he]
    exact ⟨fun hnone hr => ldmc_exec hi hl hsc ha hb hz howns hal hlo hhi (if_pos hnone).symm hi.thr hi.going hr,
      fun hsome k hk hend hr => ldmc_exec hi hl hsc ha hb hz howns hal hlo hhi (if_neg hsome).symm hk hend hr⟩
  case request =>
    intro x mask die h n sem inc v hx hop hret hc hv halone hlines _ hsw hgone
    exact ⟨_, ldmcRequestArrival_waits hx hop hret hc hv halone hlines hsw hgone, rfl, setMc_mc .., rfl⟩
  case line =>
    intro v x hv hnext hthere line
    refine ⟨fun hread hturn hx hslice hline hbad => ⟨_, ldmcLineRead_reads hv hnext hthere hread hturn hx hslice hline hbad, rfl, setMc_mc .., rfl⟩,
      fun hread => ?_⟩
    rw [ldmcLineRead_exec hv hnext hthere, if_pos hread]
    obtain ⟨hmem, hlisted, hposted⟩ := mcSend_sends s s.subj.a { v with read := false, next := v.next + 1 }
      (mcReplies line (tgetD v.buf v.next []) (v.want.getD v.next []))
    refine ⟨_, rfl, hmem, ⟨_, hlisted, rfl, rfl, fun w hw => ?_⟩, fun w hw => ?_, ?_⟩
    · obtain ⟨r, hr, hrest⟩ := mcReplies_mem (line := line) (bytes := tgetD v.buf v.next []) hw
      exact ⟨r, List.mem_append_right _ hr, hrest⟩
    · obtain ⟨r, hr, htile, -⟩ := mcReplies_mem (line := line) (bytes := tgetD v.buf v.next []) hw
      exact List.mem_append_left _ (List.mem_append_left _ (htile ▸ hposted r hr))
    · exact List.mem_append_left _ (List.mem_append_right _ (List.mem_singleton_self _))
  case reply =>
    intro v r hv hr haway hbytes hgone
    exact ⟨_, ldmcReplyArrival_fills hv hr haway hbytes hgone, mcDrop_mem .., (congrArg (fun t => tget t _) (mcDrop_l1 ..)).trans (tget_tset_same ..)⟩

end Sys2Proof.Machine
end

section
/-! Chains at their home (R261 to R264): the chain that a handle names, what releasing, holding, refusing and dropping an access
leave of it, and how a close arrives and completes. -/

namespace Sys2Proof.Machine

/-! ## The chains of a partition -/

/-- A chain is listed by a partition that is there. -/
theorem parts_of_chain {s : State} {p n : Nat} {c : Chain} (h : tget (s.part p).chains n = some c) : tget s.parts p = some (s.part p) := by
  cases hp : tget s.parts p with
  | none =>
    have hreset : s.part p = Part.reset := by simp only [State.part, tgetD, hp, Option.getD_none]
    rw [hreset] at h
    cases h
  | some v => simp only [State.part, tgetD, hp, Option.getD_some]

theorem chainOf_chain {s : State} {p n : Nat} {h : Word} {c : Chain} (hc : s.chainOf p h = some (n, c)) : tget (s.part p).chains n = some c := by
  unfold State.chainOf at hc
  split at hc
  · cases hc
  · next d hd =>
    obtain ⟨-, hpair⟩ := Option.ite_none_right_eq_some.1 hc
    cases hpair
    exact hd

theorem setChain_eq {s : State} {p : Nat} {v : Part} (hv : tget s.parts p = some v) (n : Nat) (c : Chain) :
    s.setChain p n c = s.setPart p { v with chains := tset v.chains n c } := by
  simp only [State.setChain, State.modPart, hv]

/-- A chain that is written is read back. -/
theorem setChain_chain {s : State} {p n : Nat} {d : Chain} (h : tget (s.part p).chains n = some d) (c : Chain) :
    tget ((s.setChain p n c).part p).chains n = some c := by
  rw [setChain_eq (parts_of_chain h), State.setPart_part, if_pos rfl, tget_tset_same]

theorem modChain_chain {s : State} {p n : Nat} {d : Chain} (h : tget (s.part p).chains n = some d) (g : Chain → Chain) :
    tget ((s.modChain p n g).part p).chains n = some (g d) := by
  simp only [State.modChain, State.modPart, parts_of_chain h, State.setPart_part, if_true, tget_tmod, h, Option.map_some]

@[simp] theorem State.setChain_accs (s : State) (p n : Nat) (c : Chain) : (s.setChain p n c).accs = s.accs := by
  unfold State.setChain State.modPart
  split <;> rfl

@[simp] theorem State.setChain_agenda (s : State) (p n : Nat) (c : Chain) : (s.setChain p n c).agenda = s.agenda := by
  unfold State.setChain State.modPart
  split <;> rfl

@[simp] theorem State.setChain_fresh (s : State) (p n : Nat) (c : Chain) : (s.setChain p n c).fresh = s.fresh := by
  unfold State.setChain State.modPart
  split <;> rfl

theorem State.modChain_agenda (s : State) (p n : Nat) (g : Chain → Chain) : (s.modChain p n g).agenda = s.agenda := by
  unfold State.modChain State.modPart
  split <;> rfl

theorem State.modChain_closes (s : State) (p n : Nat) (g : Chain → Chain) : (s.modChain p n g).closes = s.closes := by
  unfold State.modChain State.modPart
  split <;> rfl

theorem part_of_parts {s s' : State} (h : s'.parts = s.parts) {p n : Nat} {c : Chain} (hc : tget (s.part p).chains n = some c) :
    tget (s'.part p).chains n = some c := by
  rw [State.part_congr h]
  exact hc

/-! ## What an access may do (R261, R263) -/

theorem releasable_iff (c : Chain) (w : BitVec 16) (own pred : Nat) : c.releasable w own pred = true ↔
    (pred = 254 ∧ c.l = 254 ∧ w = c.w + 1) ∨ (pred = 255 ∧ c.w = w ∧ c.l = own) ∨ (pred ≠ 254 ∧ pred ≠ 255 ∧ c.w = w ∧ c.s = some pred) := by
  unfold Chain.releasable
  by_cases h4 : pred = 254
  · simp [h4]
  · by_cases h5 : pred = 255 <;> simp [h4, h5]

theorem chainDup_iff (s : State) (c : Chain) (w : BitVec 16) (own : Nat) : s.chainDup c w own = true ↔
    (c.w = w ∧ c.s = some own) ∨ ∃ b y q, b ∈ c.held ∧ s.acc? b = some y ∧ y.who.wave = w ∧ y.chain = some q ∧ q.own = own := by
  simp only [State.chainDup, Bool.or_eq_true, Bool.and_eq_true, beq_iff_eq, List.any_eq_true]
  refine or_congr_right ⟨fun ⟨b, hb, h⟩ => ?_, fun ⟨b, y, q, hb, hy, hw, hq, ho⟩ => ⟨b, hb, ?_⟩⟩
  · split at h
    · cases h
    · next y hy =>
      simp only [Bool.and_eq_true, beq_iff_eq] at h
      obtain ⟨hw, h⟩ := h
      split at h
      · cases h
      · next q hq => exact ⟨b, y, q, hb, hy, hw, hq, by simpa using h⟩
  · simp [hy, hw, hq, ho]

/-! ## An access arrives (R261 to R263) -/

/-- R261: a chain whose last access is the released one. -/
def Chain.releasedBy (c : Chain) (a : Nat) (x : Access) (r : ChainRef) : Chain :=
  { c with w := x.who.wave, s := some r.own, l := r.succ, released := c.released ++ [a], held := c.held.filter (· ≠ a) }

theorem releaseAcc_chain {s : State} {p n : Nat} {d : Chain} (h : tget (s.part p).chains n = some d) (a : Nat) (x : Access) (r : ChainRef) (c : Chain) :
    tget ((s.releaseAcc p n a x r c).part p).chains n = some (c.releasedBy a x r) := setChain_chain h _

theorem releaseAcc_acc {s : State} {a : Nat} {y : Access} (hy : s.acc? a = some y) (p n : Nat) (x : Access) (r : ChainRef) (c : Chain) :
    (s.releaseAcc p n a x r c).acc? a = some { y with scope := c.scope, chain := some { r with arrived := true, released := true } } := by
  have hacc : (s.setChain p n (c.releasedBy a x r)).acc? a = some y := by
    rw [State.acc?, State.setChain_accs]
    exact hy
  exact (State.modAcc_acc ..).trans ((if_pos rfl).trans (congrArg (Option.map _) hacc))

/-- R261: with nothing held there is nothing more to release. -/
theorem cascade_idle {s : State} {p n : Nat} {c : Chain} (h : tget (s.part p).chains n = some c) (hheld : c.held = []) (k : Nat) :
    s.cascade p n k = s := by
  cases k with
  | zero => rfl
  | succ k => simp only [State.cascade, h, hheld, List.findSome?_nil]

section Arrives
variable {s : State} {x : Access} {r : ChainRef} {n : Nat} {c : Chain} (hx : s.acc? s.subj.a = some x)

theorem chainArrive_dup {a : Nat} (hc : s.chainOf x.who.part r.handle = some (n, c)) (hd : s.chainDup c x.who.wave r.own = true) :
    s.chainArrive a x r = s.dropChainAcc a x r c.held.length 1 := by
  simp only [State.chainArrive, hc, hd, if_true]

theorem chainArrive_releases {a : Nat} (hc : s.chainOf x.who.part r.handle = some (n, c)) (hd : s.chainDup c x.who.wave r.own = false)
    (hrel : c.releasable x.who.wave r.own r.pred = true) (hheld : c.held = []) : s.chainArrive a x r = s.releaseAcc x.who.part n a x r c := by
  have hchain := chainOf_chain hc
  simp only [State.chainArrive, hc, hd, hrel, Bool.false_eq_true, if_false, if_true]
  exact cascade_idle (releaseAcc_chain hchain a x r c) (by simp [Chain.releasedBy, hheld]) _

theorem chainArrive_holds {a : Nat} (hc : s.chainOf x.who.part r.handle = some (n, c)) (hd : s.chainDup c x.who.wave r.own = false)
    (hrel : c.releasable x.who.wave r.own r.pred = false) (hroom : c.held.length < c.share) :
    ∃ c', tget ((s.chainArrive a x r).part x.who.part).chains n = some c' ∧ c'.held = c.held ++ [a] ∧ c'.w = c.w ∧ c'.s = c.s ∧ c'.l = c.l := by
  have hchain := chainOf_chain hc
  simp only [State.chainArrive, hc, hd, hrel, hroom, Bool.false_eq_true, if_false, if_true]
  have hgap : tget ((if c.held = [] then s.modSlice c.home (fun v => { v with gaps := v.gaps + 1 }) else s).part x.who.part).chains n = some c := by
    split <;> exact hchain
  exact ⟨_, setChain_chain hgap _, rfl, rfl, rfl, rfl⟩

theorem chainArrive_refuses {a : Nat} (hc : s.chainOf x.who.part r.handle = some (n, c)) (hd : s.chainDup c x.who.wave r.own = false)
    (hrel : c.releasable x.who.wave r.own r.pred = false) (hfull : c.share ≤ c.held.length) : s.chainArrive a x r
      = (s.modAcc a (fun x => { x with chain := some { r with arrived := true } })).postEv .guylineOverflow { a := a } := by
  simp only [State.chainArrive, hc, hd, hrel, Nat.not_lt.2 hfull, Bool.false_eq_true, if_false]

include hx in
/-- R263: a first arrival whose chain is at its home and that no earlier access of its thread holds back. -/
theorem chainAccessArrival_arrives (hr : x.chain = some r) (hact : r.active = false) (hrel : r.released = false) (harr : r.arrived = false)
    (hearly : s.chainEarlier x r = false) (hc : s.chainOf x.who.part r.handle = some (n, c)) (hsaved : c.saved = false) :
    exec .chainAccessArrival s = .next (s.chainArrive s.subj.a x r) := by
  have he : exec .chainAccessArrival s = execChainAccessArrival s := rfl
  have hs : s.chainSaved x.who.part r.handle = false := by simp only [State.chainSaved, hc, hsaved]
  rw [he]
  simp only [execChainAccessArrival, hx, hr, hact, hrel, harr, hs, hearly, Bool.not_false, Bool.and_false, Bool.or_self, Bool.false_eq_true, if_false]

include hx in
/-- R262: a refused access parks with a replayable record. -/
theorem guylineOverflow_parks (hr : x.chain = some r) (hc : s.chainOf x.who.part r.handle = some (n, c)) : exec .guylineOverflow s
    = .next ((s.modAcc s.subj.a (fun x => { x with lanes := x.lanes.map (fun m => { m with st := .parked }) })).raise x.who 0x0003
      ((chainDetails x.who r c.held.length 0).take 6) (some (.guyline s.subj.a))) := by
  have he : exec .guylineOverflow s = execGuylineOverflow s := rfl
  rw [he]
  simp only [execGuylineOverflow, hx, hr, hc]

end Arrives

/-! ## A close (R264) -/

theorem chainCloseArrival_waits {s : State} {m : CloseMsg} {n : Nat} {c : Chain} (hm : tget s.closes s.subj.a = some m)
    (hc : s.chainOf m.part m.handle = some (n, c)) (hsaved : c.saved = false) :
    ∃ s' c', exec .chainCloseArrival s = .next s' ∧ tget s'.closes s.subj.a = none ∧ tget (s'.part m.part).chains n = some c'
      ∧ c'.closing = some (m.wave, m.own, m.site, m.sem, m.ok) ∧ c'.w = c.w ∧ c'.held = c.held
      ∧ s'.agenda = s.agenda ++ [.ev .chainCloseComplete { a := m.part, b := n }] := by
  have hchain := chainOf_chain hc
  have he : exec .chainCloseArrival s = execChainCloseArrival s := rfl
  have hs : s.chainSaved m.part m.handle = false := by simp only [State.chainSaved, hc, hsaved]
  have hc' : ({ s with closes := tdel s.closes s.subj.a } : State).chainOf m.part m.handle = some (n, c) := hc
  have hchain' : tget (({ s with closes := tdel s.closes s.subj.a } : State).part m.part).chains n = some c := hchain
  rw [he]
  simp only [execChainCloseArrival, hm, hs, hc', Bool.false_eq_true, if_false]
  refine ⟨_, _, rfl, ?closes, part_of_parts rfl (modChain_chain hchain' _), rfl, rfl, rfl, ?agenda⟩
  case closes => exact (congrArg (fun t => tget t s.subj.a) (State.modChain_closes ..)).trans (tget_tdel_same ..)
  case agenda => exact congrArg (· ++ _) (State.modChain_agenda ..)

section Completes
variable {s : State} {c : Chain} {w : BitVec 16} {own : Nat} {x : Site} {sem : Nat} {ok : Bool}
  (hc : tget (s.part s.subj.a).chains s.subj.b = some c) (hclose : c.closing = some (w, own, x, sem, ok))
include hc hclose

theorem chainCloseComplete_exec : exec .chainCloseComplete s
    = if c.saved = false ∧ c.w = w ∧ c.s = some own ∧ ∀ a ∈ c.released, s.performed a c.scope = true
      then .next (s.closeChain s.subj.a s.subj.b c x sem ok) else .next (s.postEv .chainCloseComplete { a := s.subj.a, b := s.subj.b }) := by
  have he : exec .chainCloseComplete s = execChainCloseComplete s := rfl
  rw [he]
  simp only [execChainCloseComplete, hc, hclose, Bool.not_eq_eq_eq_not, Bool.not_true, List.all_eq_true]

/-- R264: a chain without held entries closes: it is free under the next generation and its semaphore's addition is on its way. -/
theorem chainCloseComplete_frees (hsaved : c.saved = false) (hw : c.w = w) (hs : c.s = some own)
    (hperf : ∀ a ∈ c.released, s.performed a c.scope = true) (hheld : c.held = []) (hok : ok = true) :
    ∃ s' c', exec .chainCloseComplete s = .next s' ∧ tget (s'.part s.subj.a).chains s.subj.b = some c' ∧ c'.isOpen = false ∧ c'.gen = c.gen + 1
      ∧ c'.share = 0 ∧ ∃ o, tget s'.semOps s.fresh = some o ∧ o.site = x ∧ o.sem = sem ∧ o.val = 1 ∧ o.set = false := by
  rw [chainCloseComplete_exec hc hclose, if_pos ⟨hsaved, hw, hs, hperf⟩]
  simp only [State.closeChain, hheld, hok, if_true, List.foldl_nil, State.queueSem, State.setChain_fresh]
  exact ⟨_, _, rfl, part_of_parts rfl (setChain_chain hc _), rfl, rfl, rfl, _, tget_tset_same .., rfl, rfl, rfl, rfl⟩

end Completes

/-- Settles O33, by what an arriving access, a refused one, an arriving close and a completing one meet. -/
theorem chainsAtTheHome : Obligations.ChainsAtTheHome := by
  intro s
  refine ⟨?arrives, fun x r n c hx hr hc => guylineOverflow_parks hx hr hc, fun m n c hm hc hsaved => chainCloseArrival_waits hm hc hsaved, ?closes⟩
  case arrives =>
    intro x r n c hx hr hact hrel harr hearly hc hsaved follows dup
    have hexec := chainAccessArrival_arrives hx hr hact hrel harr hearly hc hsaved
    have hdup : s.chainDup c x.who.wave r.own = true ↔ dup := chainDup_iff ..
    have hfollows : c.releasable x.who.wave r.own r.pred = true ↔ follows := releasable_iff ..
    have hchain := chainOf_chain hc
    rw [hexec]
    refine ⟨fun hnd hf hheld => ?_, fun hnd hnf hroom => ?_, fun hnd hnf hfull => ?_, fun hd => ?_⟩
    · rw [chainArrive_releases hc (Bool.eq_false_iff.2 (mt hdup.1 hnd)) (hfollows.2 hf) hheld]
      exact ⟨_, _, _, rfl, releaseAcc_chain hchain .., rfl, rfl, rfl, rfl, by simp [Chain.releasedBy, hheld], releaseAcc_acc hx .., rfl, rfl⟩
    · obtain ⟨c', h⟩ := chainArrive_holds (a := s.subj.a) hc (Bool.eq_false_iff.2 (mt hdup.1 hnd)) (Bool.eq_false_iff.2 (mt hfollows.1 hnf)) hroom
      exact ⟨_, c', rfl, h⟩
    · rw [chainArrive_refuses hc (Bool.eq_false_iff.2 (mt hdup.1 hnd)) (Bool.eq_false_iff.2 (mt hfollows.1 hnf)) hfull]
      exact ⟨_, rfl, List.mem_append_right _ (List.mem_singleton_self _), rfl⟩
    · rw [chainArrive_dup hc (hdup.2 hd)]
  case closes =>
    intro c w own x sem ok hc hclose
    refine ⟨fun h => ?_, fun hsaved hw hs hperf hheld hok => chainCloseComplete_frees hc hclose hsaved hw hs hperf hheld hok⟩
    rw [chainCloseComplete_exec hc hclose, if_neg fun ⟨hsaved, hrest⟩ => h.elim (fun hs => by simp [hsaved] at hs) (fun hn => hn hrest)]

end Sys2Proof.Machine
end

section
/-! The issue of a store at `.gang`, which has performed as it issues (R212, R268): its counter falls at once, but not where the access is
listed as retired. -/

namespace Sys2Proof.Machine

namespace RetiredStore

/-- A thread of partition 0 on cell 0 of tile 0, with no access outstanding. -/
def thread : Thread := oneInput ⟨.tile 0, 0⟩ (HeldBehind.token 1 (.tile 0) none)

/-- The lane of the store: one byte at address 0, still to be translated. -/
def lane : LaneAcc := .new 0 0 1 [0] [true] 0

/-- A store of ST at `.gang` that is listed as retired. -/
def store : Access := { thread.access .st 0xA1 0 (some 0) 0 0 [] with lanes := [lane], retired := true }

/-- Partition 0 maps the first line to itself, for writing, and memory die 0 homes it. -/
def state : State :=
  { State.reset with
    threads := [(0, thread)]
    parts := [(0, { Part.reset with ranges := [(0, ⟨0, 128, 0, true, 0⟩)] })]
    coh := { Coh.reset with doms := [(0, ⟨0, 128, 1, []⟩)] } }

/-- Its issue raises the thread's store counter and does not lower it again. -/
theorem issue_nst : ((state.issueAcc 0 store).thr? 0).map (fun k => k.nst) = some 1 := by decide

end RetiredStore

/-- Refutes O25: the statement has every store at `.gang` leave its thread's store counter as it was, since such a store has performed as it
issues (R268), but it does not ask that the access is not retired already, and of a retired one the step does not count the performance again:
the counter stays one higher. -/
theorem not_memoryInstructionResults : ¬ Obligations.MemoryInstructionResults := by
  intro h
  obtain ⟨hissue, -⟩ := h
  obtain ⟨-, -, ⟨k, hk, -, -, -, -, -, -, hst⟩, -⟩ :=
    hissue RetiredStore.state 0 RetiredStore.thread RetiredStore.store RetiredStore.lane 0 0 0 rfl rfl rfl rfl rfl (fun _ => by decide) (by decide) (by decide)
  have hkept : k.nst = 0 := (hst rfl).1
  have hraised := RetiredStore.issue_nst
  rw [hk, Option.map_some, hkept] at hraised
  exact absurd hraised (by decide)

end Sys2Proof.Machine
end

section
/-! A close that a firmware cell sends with another tile's semaphore (R230, R264): a cell of the system reaches every tile (log 48). -/

namespace Sys2Proof.Machine

namespace FirmwareClose

/-- CHNCLS of the chain in A, with the semaphore of the tile that z names. -/
def fields : Fields := ⟨.next, .a, .zero, .none, .none, 0x40⟩

/-- A thread of the system on cell 0 of memory die 0's Syrad engine, with the handle of chain 0 in A. -/
def thread : Thread := { oneInput ⟨.syrad 0, 0⟩ (HeldBehind.token 1 (.tile 0) none) with
  part := sysPart, lanes := [⟨⟨256, false⟩, .zero, .zero, .zero, .zero, false⟩] }

/-- The thread runs on the current cell, and chain 0 of the system is open. -/
def state : State :=
  { State.reset with
    cur := ⟨.syrad 0, 0⟩
    cells := [(⟨.syrad 0, 0⟩, { Cell.reset with run := some 0 })]
    threads := [(0, thread)]
    parts := [(sysPart, { Part.reset with chains := [(0, { Chain.reset with isOpen := true })] })] }

theorem issues : Issues state 0 thread fields { opc := 0xA8 } := ⟨rfl, rfl, by decide, rfl, by decide⟩

/-- The close that the instruction sends can end at tile 0. -/
theorem sends : (match exec (.chncls fields) state with | .next s' => s'.closes.map (fun e => e.2.ok) | _ => []) = [true] := by decide

end FirmwareClose

/-- Refutes O32: the statement says that a CHNCLS reaches the tile of its semaphore only where the partition owns it, but a firmware cell,
which is in no partition, reaches every tile (log 48), so that its close can end there. -/
theorem not_chainInstructionResults : ¬ Obligations.ChainInstructionResults := by
  intro h
  obtain ⟨-, hopen⟩ := h
  obtain ⟨-, hclose⟩ := hopen FirmwareClose.state 0 FirmwareClose.thread FirmwareClose.fields (by decide)
  obtain ⟨-, -, -, hsends⟩ := hclose FirmwareClose.issues
  obtain ⟨s', hexec, hcompletes⟩ := hsends 0 { Chain.reset with isOpen := true } (by decide) (by decide) (by decide) ⟨by decide, by decide, by decide⟩
  have hcloses := (hcompletes.keeps.same .semOps (by decide)).2
  have hsent := FirmwareClose.sends
  rw [hexec] at hsent
  simp only [hcloses] at hsent
  exact absurd hsent (by decide)

end Sys2Proof.Machine
end

section
/-! The collapses that are owed (R268, R278, R300): writes of the hardware, records of faults and the settling of accesses owe no
collapse and pay none, and acknowledging some pays those alone. -/

namespace Sys2Proof.Machine

/-! ## What owes nothing -/

/-- The collapses on their way or waiting (R300). -/
def State.owed (s : State) : List Coll := s.coh.colls

theorem State.owed_of_coh {s s' : State} (h : s'.coh = s.coh) : s'.owed = s.owed := congrArg Coh.colls h

theorem Keeps.coh {u : Nat} {s s' : State} (h : Keeps [] u s s') : s'.coh = s.coh := h.same .coh (by decide)

theorem hwCollapse_owed (s : State) (line : Nat) : (s.hwCollapse line).owed = s.owed := by
  unfold State.hwCollapse
  split <;> rfl

theorem hwPerform_owed (s : State) (a : Nat) (bs : List Byte) : (s.hwPerform a bs).owed = s.owed := by
  unfold State.hwPerform
  split
  · rfl
  · dsimp only
    refine (foldl_same State.owed _ (fun s i => ?_) _ _).trans rfl
    exact (hwCollapse_owed s (lineOf a + i) :)

theorem hwWrite_owed (s : State) (a : Nat) (bs : List Byte) : (s.hwWrite a bs).owed = s.owed := by
  unfold State.hwWrite
  split
  · exact foldl_same State.owed _ (fun _ _ => by rfl) _ _
  · split
    · rfl
    · exact hwPerform_owed ..

theorem putRecord_owed (s : State) (p cls region inv : Nat) (id : Word) (code : Nat) (details : List Word) (r : Option RecFor) (va : Int) :
    (s.putRecord p cls region inv id code details r va).owed = s.owed := by
  have hend : ∀ b : State, b.endCycle.coh = b.coh := fun _ => rfl
  have hnote : ∀ (b : State) k w, (b.notify k w).coh = b.coh := fun _ _ _ => rfl
  unfold State.putRecord
  split
  · rfl
  · dsimp only
    generalize hz : State.endCycle _ = z
    have hz' : z.owed = s.owed := by
      rw [← hz, State.owed, hend, hnote, State.modLaunch_coh, State.setPart_coh]
      exact hwWrite_owed ..
    split
    · exact hz'
    · split <;> exact hz'

theorem flushHeld_owed (s : State) (p : Nat) : (s.flushHeld p).owed = s.owed := by
  unfold State.flushHeld
  refine foldl_same State.owed _ (fun s e => ?_) _ s
  split
  · rfl
  · exact (State.owed_of_coh (State.modPart_coh ..)).trans (putRecord_owed ..)

theorem fenceRegions_coh (s : State) (p : Nat) (rs : List Nat) : (s.fenceRegions p rs).coh = s.coh := by
  have hheld : (s.returnHeld (tokGone p rs)).coh = s.coh := foldl_same State.coh _ (fun s t => by
    split
    · exact (keeps_unreserve s 0 _).coh
    · rfl) _ s
  have hrecv : ∀ (l : List Token) (s : State), (l.foldl State.countRecv s).coh = s.coh := foldl_same State.coh _ (fun s t => by
    unfold State.countRecv
    dsimp only
    split <;> rfl)
  have hend : ∀ (s : State) (g : Who → Bool), (s.endFenced g).coh = s.coh := fun s g => foldl_same State.coh _ (fun r e =>
    (foldl_same State.coh _ (fun _ _ => by rfl) _ _).trans (foldl_same State.coh _ (fun _ _ => by rfl) _ _)) _ s
  unfold State.fenceRegions
  dsimp only
  refine (foldl_same State.coh _ (fun s e => ?_) _ _).trans ((hend _ _).trans ((foldl_same State.coh _ (fun _ _ => by rfl) _ _).trans
    ((hrecv _ _).trans hheld)))
  split
  · rfl
  · exact (keeps_endThread s _).coh

theorem fenceDomain_owed (s : State) (p r : Nat) (cause : Option Nat) : (s.fenceDomain p r cause).owed = s.owed := by
  unfold State.fenceDomain
  split
  · rfl
  · dsimp only
    split
    · rfl
    · refine (State.owed_of_coh (fenceRegions_coh ..)).trans ?_
      split
      · exact (putRecord_owed ..).trans (flushHeld_owed ..)
      · exact (State.owed_of_coh (State.modPart_coh ..)).trans (flushHeld_owed ..)

theorem countFault_owed (s : State) (w : Who) : (s.countFault w).owed = s.owed := by
  unfold State.countFault
  split
  · rfl
  · dsimp only
    split
    · exact fenceDomain_owed ..
    · rfl

theorem stopFault_owed (s : State) (p region inv : Nat) (id : Word) (code : Nat) (details : List Word) :
    (s.stopFault p region inv id code details).owed = s.owed := by
  refine Eq.trans (b := State.owed (if (s.part p).occupancy < 256 then _ else _)) rfl ?_
  split
  · exact putRecord_owed ..
  · exact State.owed_of_coh (State.modPart_coh ..)

theorem putOrHold_owed (s : State) (w : Who) (code : Nat) (details : List Word) (r : RecFor) (va : Int) :
    (s.putOrHold w code details r va).owed = s.owed := by
  unfold State.putOrHold
  split
  · exact putRecord_owed ..
  · exact State.owed_of_coh (State.modPart_coh ..)

/-- R350 to R357: taking a fault sends no collapse and acknowledges none. -/
theorem raise_owed (s : State) (w : Who) (code : Nat) (details : List Word) (r : Option RecFor) (va : Int) :
    (s.raise w code details r va).owed = s.owed := by
  unfold State.raise
  dsimp only
  split
  · refine (countFault_owed ..).trans ?_
    split
    · exact (putRecord_owed ..).trans (flushHeld_owed ..)
    · exact (State.owed_of_coh (State.modPart_coh ..)).trans (flushHeld_owed ..)
  · exact (stopFault_owed ..).trans (flushHeld_owed ..)
  · exact (putOrHold_owed ..).trans (flushHeld_owed ..)

/-! ## The settling of an access -/

/-- A relation of states that holds over each of the steps by which an access settles (R212, R254). -/
structure Settling (R : State → State → Prop) : Prop where
  refl : ∀ s, R s s
  trans : ∀ {s s' s'' : State}, R s s' → R s' s'' → R s s''
  record : ∀ s a x, R s (s.addressRecord a x)
  retire : ∀ s a x, R s (s.retire a x)
  post : ∀ s i x, R s (s.postEv i x)
  gone : ∀ s a, R s { s with accs := tdel s.accs a }

theorem Settling.nudge {R : State → State → Prop} (h : Settling R) (s : State) (u : Nat) : R s (s.nudge u) := by
  unfold State.nudge
  split
  · exact h.refl s
  · split
    · exact h.post ..
    · exact h.refl s

/-- Such a relation holds over the whole settling. -/
theorem Settling.settleAcc {R : State → State → Prop} (h : Settling R) (s : State) (a : Nat) : R s (s.settleAcc a) := by
  unfold State.settleAcc
  split
  · exact h.refl s
  · next x _ =>
    split
    · split
      · exact h.refl s
      · exact h.retire ..
    · refine h.trans (h.record s a x) ?_
      generalize s.addressRecord a x = s1
      dsimp only
      generalize hs2 : (if x.retired = true then s1 else _) = s2
      have h2 : R s1 s2 := by
        subst hs2
        split
        · exact h.refl s1
        · split
          · split
            · exact h.refl s1
            · split
              · exact h.post ..
              · exact h.retire ..
          · split
            · exact h.retire ..
            · exact h.refl s1
          · exact h.retire ..
          · exact h.post ..
      refine h.trans h2 ?_
      split
      · exact h.refl s2
      · split
        · exact h.trans (h.gone s2 a) (h.nudge ..)
        · exact h.nudge ..

theorem Settling.foldl {R : State → State → Prop} (h : Settling R) {ι : Type} (g : State → ι → State) (hg : ∀ s i, R s (g s i)) (l : List ι)
    (s : State) : R s (l.foldl g s) := by
  induction l generalizing s with
  | nil => exact h.refl s
  | cons i l ih => exact h.trans (hg s i) (ih _)

theorem settling_owed : Settling (fun s s' => s'.owed = s.owed) where
  refl _ := rfl
  trans h h' := h'.trans h
  record s a x := by
    unfold State.addressRecord
    dsimp only
    split
    · rfl
    · split
      · rfl
      · exact raise_owed ..
  retire s a x := State.owed_of_coh (cohStays_retire s a x).coh
  post _ _ _ := rfl
  gone _ _ := rfl

/-- With no partition in the module there is no trap queue, and a contained fault leaves everything as it was. -/
theorem raise_noParts {s : State} (h : s.parts = []) (w : Who) {code : Nat} (hcode : faultClass code = 1) (details : List Word) (r : Option RecFor)
    (va : Int) : s.raise w code details r va = s := by
  have hnone : tget s.parts w.part = none := by rw [h]; rfl
  have hpart : s.part w.part = Part.reset := by simp only [State.part, tgetD, hnone, Option.getD_none]
  have hflush : s.flushHeld w.part = s := State.flushHeld_of_written (by rw [hpart]; exact fun _ he => absurd he List.not_mem_nil)
  have hroom : Part.reset.occupancy < 248 := by decide
  simp only [State.raise, hflush, hcode, hpart, hroom, if_true, State.putRecord, hnone, State.countFault]

/-- Where there is no partition, memory and the slices are as before, and there is still none. -/
structure AloneStays (s s' : State) : Prop where
  stays : CohStays s s'
  parts : s'.parts = []

theorem fall_parts (s : State) (u : Nat) (c : Ctr) : (s.fall u c).parts = s.parts := by
  unfold State.fall
  split
  · rfl
  · split <;> rfl

theorem settling_noParts : Settling (fun s s' => s.parts = [] → AloneStays s s') where
  refl s hs := ⟨.refl s, hs⟩
  trans h h' hs := ⟨(h hs).stays.trans (h' (h hs).parts).stays, (h' (h hs).parts).parts⟩
  record s a x hs := by
    unfold State.addressRecord
    dsimp only
    split
    · exact ⟨.refl s, hs⟩
    · split
      · exact ⟨.refl s, hs⟩
      · rw [raise_noParts (s := s.modAcc a _) hs _ (by decide)]
        exact ⟨⟨rfl, rfl⟩, hs⟩
  retire s a x hs := by
    refine ⟨cohStays_retire s a x, ?_⟩
    unfold State.retire
    dsimp only
    split
    · exact hs
    · exact (fall_parts ..).trans hs
  post _ _ _ hs := ⟨⟨rfl, rfl⟩, hs⟩
  gone _ _ hs := ⟨⟨rfl, rfl⟩, hs⟩

/-! ## Lines leave their slices -/

section Tables
variable {κ α : Type} [DecidableEq κ]

theorem tget_none_iff {t : Tbl κ α} {k : κ} : tget t k = none ↔ ∀ e ∈ t, e.1 ≠ k := by
  induction t with
  | nil => simp [tget]
  | cons e t ih =>
    obtain ⟨j, a⟩ := e
    by_cases hj : j = k
    · simp [tget, hj]
    · simp [tget, hj, ih]

/-- A key that the table does not list is no loss to it. -/
theorem tdel_of_tget_none {t : Tbl κ α} {k : κ} (h : tget t k = none) : tdel t k = t :=
  List.filter_eq_self.2 fun e he => by simpa using tget_none_iff.1 h e he

theorem mem_tdel {t : Tbl κ α} {k : κ} {e : κ × α} : e ∈ tdel t k ↔ e ∈ t ∧ e.1 ≠ k := by simp [tdel]

end Tables

theorem charge_coh (s : State) (p r die : Nat) (i : Item) (n : Nat) : (s.charge p r die i n).coh = s.coh := (keeps_charge s 0 p r die i n).coh

theorem charge_parts_nil {s : State} (h : s.parts = []) (p r die : Nat) (i : Item) (n : Nat) : (s.charge p r die i n).parts = [] := by
  simp only [State.charge, State.modPart, h, tget]

/-- R325: a line that leaves its slice is gone from it; it is the one change there. -/
theorem dropLine_coh (s : State) (line : Nat) : (s.dropLine line).coh = { s.coh with lines := tdel s.coh.lines line } := by
  unfold State.dropLine
  split
  · next h => rw [tdel_of_tget_none h]
  · split
    · simp only [charge_coh]
    · rfl

theorem dropLine_mem (s : State) (line : Nat) : (s.dropLine line).mem = s.mem := by
  unfold State.dropLine
  split
  · rfl
  · split
    · exact mem_charge ..
    · rfl

theorem dropLine_parts_nil {s : State} (h : s.parts = []) (line : Nat) : (s.dropLine line).parts = [] := by
  unfold State.dropLine
  split
  · exact h
  · split
    · exact charge_parts_nil h ..
    · exact h

/-- Some lines have left their slices, and nothing else has changed there. -/
structure LinesLeave (s s' : State) : Prop where
  coh : ∃ ls, (∀ e ∈ ls, e ∈ s.coh.lines) ∧ s'.coh = { s.coh with lines := ls }
  mem : s'.mem = s.mem
  parts : s.parts = [] → s'.parts = []

theorem LinesLeave.refl (s : State) : LinesLeave s s := ⟨⟨_, fun _ he => he, rfl⟩, rfl, id⟩

theorem LinesLeave.trans {s s' s'' : State} (h : LinesLeave s s') (h' : LinesLeave s' s'') : LinesLeave s s'' := by
  obtain ⟨ls, hls, hcoh⟩ := h.coh
  obtain ⟨ls', hls', hcoh'⟩ := h'.coh
  refine ⟨⟨ls', fun e he => hls e (by simpa only [hcoh] using hls' e he), by rw [hcoh', hcoh]⟩, h'.mem.trans h.mem, fun hs => h'.parts (h.parts hs)⟩

theorem linesLeave_dropLine (s : State) (line : Nat) : LinesLeave s (s.dropLine line) :=
  ⟨⟨_, fun _ he => (mem_tdel.1 he).1, dropLine_coh s line⟩, dropLine_mem s line, fun h => dropLine_parts_nil h line⟩

theorem linesLeave_foldl {ι : Type} (g : State → ι → State) (hg : ∀ s i, LinesLeave s (g s i)) (l : List ι) (s : State) :
    LinesLeave s (l.foldl g s) := by
  induction l generalizing s with
  | nil => exact .refl s
  | cons i l ih => exact (hg s i).trans (ih _)

theorem linesLeave_endEvictions (s : State) : LinesLeave s s.endEvictions := 
  linesLeave_foldl (fun s (e : Nat × Line) => s.dropLine e.1) (fun s e => linesLeave_dropLine s e.1) _ s

/-! ## Acknowledgement (R268, R278) -/

/-- R301: a collapse is acknowledged: its wait is counted, and it is owed no longer. -/
def State.payColl (s : State) (c : Coll) : State :=
  let s := s.countWait c
  { s with coh := { s.coh with colls := s.coh.colls.filter (fun d => d.id ≠ c.id) } }

/-- The state in which the collapses of these numbers are acknowledged and nothing that waited for them has been looked at. -/
def State.paid (s : State) (ids : List Nat) : State := (s.coh.colls.filter (fun c => ids.contains c.id)).foldl State.payColl s

/-- Some collapses are owed no longer, the slices' counters may have changed, and nothing else has. -/
def Pays (s s' : State) (gone : Coll → Bool) : Prop :=
  ∃ sl, s' = { s with coh := { s.coh with slices := sl, colls := s.coh.colls.filter (fun d => !gone d) } }

theorem payColl_pays (s : State) (c : Coll) : Pays s (s.payColl c) (fun d => decide (d.id = c.id)) := by
  have hfilter : s.coh.colls.filter (fun d => decide (d.id ≠ c.id)) = s.coh.colls.filter (fun d => !decide (d.id = c.id)) := by simp only [decide_not]
  unfold State.payColl State.countWait
  dsimp only
  split
  · exact ⟨_, by rw [← hfilter]; rfl⟩
  · exact ⟨_, by rw [← hfilter]⟩

theorem payColls_pays (l : List Coll) (s : State) : Pays s (l.foldl State.payColl s) (fun d => l.any (fun c => decide (d.id = c.id))) := by
  induction l generalizing s with
  | nil => exact ⟨s.coh.slices, by simp⟩
  | cons c l ih =>
    obtain ⟨sl, h⟩ := payColl_pays s c
    obtain ⟨sl', h'⟩ := ih (s.payColl c)
    refine ⟨sl', ?_⟩
    rw [List.foldl_cons, h', h]
    simp only [List.filter_filter, List.any_cons, Bool.not_or, Bool.and_comm]

theorem paid_pays (s : State) (ids : List Nat) : Pays s (s.paid ids) (fun d => ids.contains d.id) := by
  obtain ⟨sl, h⟩ := payColls_pays (s.coh.colls.filter (fun c => ids.contains c.id)) s
  have hfilter : s.coh.colls.filter (fun d => !(s.coh.colls.filter (fun c => ids.contains c.id)).any (fun c => decide (d.id = c.id)))
      = s.coh.colls.filter (fun d => !ids.contains d.id) := List.filter_congr fun d hd => congrArg _ ?_
  · exact ⟨sl, by rw [← hfilter]; exact h⟩
  rw [Bool.eq_iff_iff, List.any_eq_true]
  refine ⟨fun ⟨c, hc, hid⟩ => ?_, fun hid => ⟨d, List.mem_filter.2 ⟨hd, hid⟩, decide_eq_true rfl⟩⟩
  rw [of_decide_eq_true hid]
  exact (List.mem_filter.1 hc).2

/-- What waited for acknowledged collapses is looked at again: lines that their home evicts, then accesses and threads. -/
theorem Settling.acked {R : State → State → Prop} (h : Settling R) (s : State) (ids : List Nat) : R (s.paid ids).endEvictions (s.acked ids) :=
  h.trans (h.foldl (fun s (e : Nat × Access) => s.settleAcc e.1) (fun s e => h.settleAcc s e.1) _ _)
    (h.foldl (fun s (e : Nat × Thread) => s.postEv .waitTest { a := e.1 }) (fun s _ => h.post s _ _) _ _)

/-- R268: acknowledged collapses are owed no longer, and all others still are. -/
theorem acked_owed (s : State) (ids : List Nat) : (s.acked ids).owed = s.owed.filter (fun d => !ids.contains d.id) := by
  obtain ⟨sl, hpaid⟩ := paid_pays s ids
  obtain ⟨ls, -, hend⟩ := (linesLeave_endEvictions (s.paid ids)).coh
  have hset : (s.acked ids).owed = (s.paid ids).endEvictions.owed := settling_owed.acked s ids
  rw [hset, State.owed, hend, hpaid]
  rfl

end Sys2Proof.Machine
end

section
/-! Dies and links (R300, R441): heartbeats, a die that is lost, collapses whose link sleeps and a link that wakes. -/

namespace Sys2Proof.Machine

/-! ## Heartbeats (R300) -/

theorem heartbeat_waits {s : State} (h : s.cycle < s.subj.b) : exec .heartbeat s = .next (s.postEv .heartbeat s.subj) := if_pos h

theorem heartbeat_ends {s : State} (h : s.subj.b ≤ s.cycle) (hlost : s.subj.a ∈ s.coh.lost) : exec .heartbeat s = .next s :=
  (if_neg (Nat.not_lt.2 h)).trans (if_pos (List.contains_iff_mem.2 hlost))

theorem heartbeat_beats {s : State} (h : s.subj.b ≤ s.cycle) (hlost : s.subj.a ∉ s.coh.lost) : exec .heartbeat s = .next
    ({ s with coh := { s.coh with beats := tset s.coh.beats s.subj.a s.cycle } }.postEv .heartbeat { a := s.subj.a, b := s.subj.b + 1100 }) :=
  (if_neg (Nat.not_lt.2 h)).trans (if_neg fun hc => hlost (List.contains_iff_mem.1 hc))

/-! ## A lost die (R300) -/

theorem dieLost_ends {s : State} (hlost : s.subj.a ∈ s.coh.lost) : exec .dieLost s = .next s := if_pos (List.contains_iff_mem.2 hlost)

section DieLost
variable {s : State} (hlost : s.subj.a ∉ s.coh.lost)
include hlost

theorem dieLost_waits (h : s.cycle < tgetD s.coh.beats s.subj.a 0 + 55000) : exec .dieLost s = .next (s.postEv .dieLost { a := s.subj.a }) :=
  (if_neg fun hc => hlost (List.contains_iff_mem.1 hc)).trans (if_pos h)

theorem dieLost_loses (h : tgetD s.coh.beats s.subj.a 0 + 55000 ≤ s.cycle) : exec .dieLost s = .next (s.loseDie s.subj.a) :=
  (if_neg fun hc => hlost (List.contains_iff_mem.1 hc)).trans (if_neg (Nat.not_lt.2 h))

end DieLost

/-- R300: the directories, replicas, fills and regions without memory die h. -/
def Coh.without (c : Coh) (h : Nat) : Coh :=
  { c with
    lines := c.lines.map (fun e => (e.1, { e.2 with holders := e.2.holders.filter (· ≠ h) }))
    replicas := c.replicas.filter (fun e => e.1.1 ≠ h)
    fills := c.fills.filter (fun e => e.2.die ≠ h)
    regs := c.regs.map (fun e => if h ∈ e.2.holders
      then (e.1, { e.2 with holders := e.2.holders.filter (· ≠ h), degree := e.2.degree - 1 }) else e) }

/-- What a lost memory die leaves where the module has no partition: nothing of it is held, on its way or owed. -/
structure Dropped (s s' : State) (h : Nat) : Prop where
  mem : s'.mem = s.mem
  parts : s'.parts = []
  lost : s'.coh.lost = s.coh.lost
  replicas : ∀ e ∈ s'.coh.replicas, e.1.1 ≠ h
  fills : ∀ e ∈ s'.coh.fills, e.2.die ≠ h
  colls : ∀ c ∈ s'.coh.colls, c.die ≠ h
  lines : ∀ e ∈ s'.coh.lines, h ∉ e.2.holders

/-- R300: the directories drop a memory die, and the collapses owed to it count as acknowledged. -/
def State.dropDie (s : State) (h : Nat) : State :=
  ({ s with coh := s.coh.without h } : State).acked ((s.coh.colls.filter (fun c => c.die = h)).map (fun c => c.id))

theorem dropDie_dropped {s : State} (hparts : s.parts = []) (h : Nat) : Dropped s (s.dropDie h) h := by
  unfold State.dropDie
  generalize hids : (s.coh.colls.filter (fun c => c.die = h)).map (fun c => c.id) = ids
  generalize hs1 : ({ s with coh := s.coh.without h } : State) = s1
  obtain ⟨sl, hpaid⟩ := paid_pays s1 ids
  have hend := linesLeave_endEvictions (s1.paid ids)
  obtain ⟨ls, hls, hcoh⟩ := hend.coh
  have hparts1 : (s1.paid ids).parts = [] := by rw [hpaid, ← hs1]; exact hparts
  have hset := settling_noParts.acked s1 ids (hend.parts hparts1)
  have hmem : (s1.acked ids).mem = s.mem := by rw [hset.stays.mem, hend.mem, hpaid, ← hs1]
  have hfinal : (s1.acked ids).coh = { s.coh.without h with
      lines := ls, slices := sl, colls := s.coh.colls.filter (fun d => !ids.contains d.id) } := by
    rw [hset.stays.coh, hcoh, hpaid, ← hs1]
    rfl
  have hlines : ∀ e ∈ ls, h ∉ e.2.holders := by
    intro e he
    have hlines1 : (s1.paid ids).coh.lines = (s.coh.without h).lines := by rw [hpaid, ← hs1]
    obtain ⟨d, -, rfl⟩ := List.mem_map.1 (hlines1 ▸ hls e he)
    simp
  refine ⟨hmem, hset.parts, ?_, ?_, ?_, ?_, ?_⟩
  all_goals rw [hfinal]
  · rfl
  · exact fun e he => of_decide_eq_true (List.mem_filter.1 he).2
  · exact fun e he => of_decide_eq_true (List.mem_filter.1 he).2
  · intro c hc hdie
    obtain ⟨hc, hid⟩ := List.mem_filter.1 hc
    have : c.id ∈ ids := hids ▸ List.mem_map.2 ⟨c, List.mem_filter.2 ⟨hc, decide_eq_true hdie⟩, rfl⟩
    simp [this] at hid
  · exact hlines

/-- R300: the state in which a die is listed as lost. -/
def State.noteLost (s : State) (die : Nat) : State := { s with coh := { s.coh with lost := s.coh.lost ++ [die] } }

/-- With no partition there is no domain to fence: a lost die is told to firmware, and a memory die is dropped. -/
theorem loseDie_noParts {s : State} (hparts : s.parts = []) (die : Nat) : ∃ s1, s.loseDie die = s1.notify 0x5000 (w32 die) ∧
    if die < 12 then s1 = s.noteLost die else Dropped (s.noteLost die) s1 (die - 12) := by
  have hloses : ∀ s1 : State, s1.parts = [] → ∀ g : State → Nat × Part → State,
      (s1.notify 0x5000 (w32 die)).parts.foldl g (s1.notify 0x5000 (w32 die)) = s1.notify 0x5000 (w32 die) := by
    intro s1 hs1 g
    rw [(tablesStay_notify ..).parts, hs1]
    rfl
  unfold State.loseDie
  by_cases hdie : die < 12
  · simp only [if_pos hdie]
    exact ⟨s.noteLost die, hloses (s.noteLost die) hparts _, rfl⟩
  · simp only [if_neg hdie]
    have hdrop := dropDie_dropped (s := s.noteLost die) hparts (die - 12)
    exact ⟨(s.noteLost die).dropDie (die - 12), hloses ((s.noteLost die).dropDie (die - 12)) hdrop.parts _, hdrop⟩

/-- R300: what a lost die leaves where the module has no partition. -/
theorem dieLost_noParts {s : State} (hlost : s.subj.a ∉ s.coh.lost) (h : tgetD s.coh.beats s.subj.a 0 + 55000 ≤ s.cycle) (hparts : s.parts = []) :
    ∃ s', exec .dieLost s = .next s' ∧ s'.coh.lost = s.coh.lost ++ [s.subj.a] ∧ s'.mem = s.mem
      ∧ (12 ≤ s.subj.a → (∀ e ∈ s'.coh.replicas, e.1.1 ≠ s.subj.a - 12) ∧ (∀ e ∈ s'.coh.fills, e.2.die ≠ s.subj.a - 12)
        ∧ (∀ c ∈ s'.coh.colls, c.die ≠ s.subj.a - 12) ∧ ∀ e ∈ s'.coh.lines, s.subj.a - 12 ∉ e.2.holders) := by
  obtain ⟨s1, hlose, hs1⟩ := loseDie_noParts hparts s.subj.a
  refine ⟨s1.notify 0x5000 (w32 s.subj.a), (dieLost_loses hlost h).trans (congrArg _ hlose), ?_⟩
  by_cases hdie : s.subj.a < 12
  · rw [if_pos hdie] at hs1
    subst hs1
    exact ⟨rfl, rfl, fun h => absurd hdie (Nat.not_lt.2 h)⟩
  · rw [if_neg hdie] at hs1
    exact ⟨hs1.lost, hs1.mem, fun _ => ⟨hs1.replicas, hs1.fills, hs1.colls, hs1.lines⟩⟩

/-! ## Sleeping links (R300) -/

theorem wakeOverdue_exec {s : State} {c : Coll} (hc : s.coh.colls.find? (fun c => c.id = s.subj.c) = some c) : exec .wakeOverdue s = if c.st ≠ 2 then .next s
    else if s.cycle < c.since + 2200 then .next (s.postEv .wakeOverdue s.subj)
    else .next { s with coh := { s.coh with colls := s.coh.colls.map (fun d => if d.id = c.id then { d with st := 3 } else d) } } := by
  simp only [exec, execWakeOverdue, hc]
  rfl

/-- R300: the collapses of a link go when it wakes. -/
theorem linkWake_wakes (s : State) : ∃ s', exec .linkWake s = .next s' ∧ s'.linkAsleep s.subj.a s.subj.b = false ∧ s'.mem = s.mem
    ∧ s'.coh.lines = s.coh.lines ∧ s'.coh.colls.map (fun c => c.id) = s.coh.colls.map (fun c => c.id)
    ∧ (∀ c ∈ s'.coh.colls, 12 + memDie (c.line * 128) = s.subj.a → 12 + c.die = s.subj.b → c.st = 1) := by
  refine ⟨s.wakeLink s.subj.a s.subj.b, rfl, ?awake, rfl, rfl, ?ids, ?goes⟩
  case awake =>
    refine Bool.eq_false_iff.2 fun h => ?_
    exact of_decide_eq_true (List.mem_filter.1 (List.contains_iff_mem.1 h)).2 rfl
  case ids =>
    refine (List.map_map ..).trans (List.map_congr_left fun c _ => ?_)
    simp only [Function.comp_apply]
    split <;> rfl
  case goes =>
    intro c hc hhome hdie
    obtain ⟨d, -, rfl⟩ := List.mem_map.1 hc
    by_cases h : (min (12 + memDie (d.line * 128)) (12 + d.die), max (12 + memDie (d.line * 128)) (12 + d.die))
        = (min s.subj.a s.subj.b, max s.subj.a s.subj.b)
    · rw [if_pos h]
    · rw [if_neg h] at hhome hdie
      rw [hhome, hdie] at h
      exact absurd rfl h

/-! ## The statement -/

/-- Settles O51, event by event: a heartbeat and a lost die by the cycle and the list of lost dies, an overdue collapse by its state. -/
theorem diesAndLinks : Obligations.DiesAndLinks := by
  intro s
  refine ⟨heartbeat_waits, heartbeat_ends, heartbeat_beats, ⟨dieLost_ends, dieLost_waits, dieLost_noParts, dieLost_loses⟩, fun c hc => ?overdue,
    linkWake_wakes s⟩
  have hexec := wakeOverdue_exec hc
  refine ⟨fun h => hexec.trans (if_pos h), fun h hwait => ?_, fun h hlate => ?_⟩
  · exact hexec.trans ((if_neg (not_not.2 h)).trans (if_pos hwait))
  · exact hexec.trans ((if_neg (not_not.2 h)).trans (if_neg (Nat.not_lt.2 hlate)))

end Sys2Proof.Machine
end

section
/-! The region, launch, placement, fault and mark instructions (R316, R318, R328 to R331, R335, R343, R380, R381), each in its cases. -/

namespace Sys2Proof.Machine

/-! ## The issuer's partition and its address -/

theorem part_of_tget {s : State} {p : Nat} {v : Part} (h : tget s.parts p = some v) : s.part p = v := by
  simp only [State.part, tgetD, h, Option.getD_some]

theorem modPart_of_tget {s : State} {p : Nat} {v : Part} (h : tget s.parts p = some v) (g : Part → Part) : s.modPart p g = s.setPart p (g v) := by
  simp only [State.modPart, h]

/-- R34: the address of an instruction that counts its A in bytes. -/
theorem eaOf_one (base : Int) (a : Word) : eaOf base a 1 = base + a.toInt := by
  unfold eaOf Sx
  omega

/-- R330: closing a region and releasing it runs no thread. -/
theorem releaseRegion_threads (s : State) (p r : Nat) : (s.releaseRegion p r).threads = s.threads := by
  unfold State.releaseRegion
  split
  · rfl
  · split
    · rfl
    · split <;> rfl

/-- R331: a queue with one more packet, which carries its count. -/
def HostQ.accept (q : HostQ) (issuer : Option Nat) (bs : List Byte) : HostQ :=
  { q with accepted := q.accepted + 1, packets := q.packets ++ [⟨q.accepted + 1, issuer, bs⟩] }

theorem enqueue_accepts {s : State} {p n : Nat} {v : Part} (hv : tget s.parts p = some v) {q : HostQ} (hq : tgetD v.queues n HostQ.reset = q)
    (hlive : q.live = true) (hroom : q.packets.length < 64) (issuer : Option Nat) (bs : List Byte) : s.enqueue p n issuer bs
      = some ((s.setPart p { v with queues := tset v.queues n (q.accept issuer bs) }).postEv .launchCheck { a := p }, q.accepted + 1) := by
  subst hq
  have hok : (!(tgetD v.queues n HostQ.reset).live || decide (64 ≤ (tgetD v.queues n HostQ.reset).packets.length)) = false := by
    rw [hlive, decide_eq_false (Nat.not_le.2 hroom)]
    rfl
  simp only [State.enqueue, part_of_tget hv, modPart_of_tget hv, hok, Bool.false_eq_true, if_false]
  rfl

theorem enqueue_refuses {s : State} {p n : Nat} {v : Part} (hv : tget s.parts p = some v) {q : HostQ} (hq : tgetD v.queues n HostQ.reset = q)
    (h : q.live = false ∨ 64 ≤ q.packets.length) (issuer : Option Nat) (bs : List Byte) : s.enqueue p n issuer bs = none := by
  subst hq
  have hno : (!(tgetD v.queues n HostQ.reset).live || decide (64 ≤ (tgetD v.queues n HostQ.reset).packets.length)) = true := by
    rcases h with h | h
    · rw [h]; rfl
    · rw [decide_eq_true h, Bool.or_true]
  simp only [State.enqueue, part_of_tget hv, hno, if_true]

section Tile
variable {s b s1 : State} {u n : Nat} {t : Thread} {f : Fields} {v : Part} {ea : Int} {e : Eff} (hv : tget s.parts t.part = some v) (hl : t.selLanes ≠ [])
  (ha : (t.a0 f).pois = false) (hea : eaOf (s.baseOf t (fld f.lit 0 3)) (t.a0 f).w 1 = ea) (htile : isTile t.src.site = true)
include hl ha htile

/-! ## RGNE (R328, R329) -/

section Rgne
variable (hi : Issues s u t f { opc := 0xF6, b := false }) (hfree : v.freeRegion = some n)
include hv hea hi hfree

theorem rgne_makes {bs : List Byte} {g : Region} (hal : ea % 64 = 0) (hread : s.readRange (t.who 0xF6) ea 128 = .ok s1 bs)
    (hnew : v.newRegion t.region n (some bs) = .ok g) (hb : b = s1.modPart t.part (fun v => v.addRegion n g)) (hk : b.thr? u = some t)
    (he : e = .valP (t.all (.ok (w32 n))) (allP t true)) (hr : Room s b t t f e) : Performs (.rgne f) s u f b t e := by
  have hx : exec (.rgne f) s = execRgne f s := rfl
  subst he hb
  refine exec_performs hx hi ?_ hk hi.going rfl hr
  simp only [ha, List.isEmpty_eq_false_iff.2 hl, htile, part_of_tget hv, hfree, hea, hal, hread, hnew, Bool.not_true, Bool.false_eq_true, ne_eq,
    not_true_eq_false, if_false]

/-- R329: the block that RGNE reads, none where its address is misaligned or unreadable. -/
def RgneBlock (s : State) (w : Who) (ea : Int) (s1 : State) (block : Option (List Byte)) : Prop :=
  ea % 64 ≠ 0 ∧ s1 = s ∧ block = none
  ∨ ea % 64 = 0 ∧ (s.readRange w ea 128 = .fail s1 ∧ block = none ∨ ∃ bs, s.readRange w ea 128 = .ok s1 bs ∧ block = some bs)

theorem rgne_fails {block : Option (List Byte)} {r : Nat} {k : Thread} (hblock : RgneBlock s (t.who 0xF6) ea s1 block)
    (hnew : v.newRegion t.region n block = .error r) (hb : b = s1.raise (t.who 0xF6) 0x0115 ((t.who 0xF6).details r [])) (hk : b.thr? u = some k)
    (hend : k.ending = false) (he : e = .valP (t.all .zero) (allP t false)) (hr : Room s b t k f e) : Performs (.rgne f) s u f b k e := by
  have hx : exec (.rgne f) s = execRgne f s := rfl
  subst he hb
  refine exec_performs hx hi ?_ hk hend rfl hr
  simp only [ha, List.isEmpty_eq_false_iff.2 hl, htile, part_of_tget hv, hfree, hea, Bool.not_true, Bool.false_eq_true, if_false]
  rcases hblock with ⟨hal, rfl, rfl⟩ | ⟨hal, ⟨hread, rfl⟩ | ⟨bs, hread, rfl⟩⟩
  · simp only [hal, hnew, ne_eq, not_false_eq_true, if_true]
  · simp only [hal, hread, hnew, ne_eq, not_true_eq_false, if_false]
  · simp only [hal, hread, hnew, ne_eq, not_true_eq_false, if_false]

theorem rgne_waits (hal : ea % 64 = 0) (hread : s.readRange (t.who 0xF6) ea 128 = .wait s1) : exec (.rgne f) s = .next s1 := by
  have hx : exec (.rgne f) s = execRgne f s := rfl
  rw [hx, execRgne, instr_issues hi]
  simp only [ha, List.isEmpty_eq_false_iff.2 hl, htile, part_of_tget hv, hfree, hea, hal, hread, Bool.not_true, Bool.false_eq_true, ne_eq,
    not_true_eq_false, if_false]

end Rgne

/-! ## RGNX (R330) -/

section Rgnx
variable (hi : Issues s u t f { opc := 0xF7, b := false })
include hv hi

theorem rgnx_closes {g : Region} (hg : tget v.regions (fld (t.a0 f).w 0 10) = some g) (hin : v.within t.region (fld (t.a0 f).w 0 10) = true)
    (hopen : g.closed = false) (hfence : bit f.lit 0 = false)
    (hb : b = (s.setPart t.part (v.close (fld (t.a0 f).w 0 10) (t.src.site, fld f.lit 1 6))).releaseRegion t.part (fld (t.a0 f).w 0 10))
    (he : e = .valP (t.all (t.a0 f)) (allP t true)) (hr : Room s b t t f e) : Performs (.rgnx f) s u f b t e := by
  have hx : exec (.rgnx f) s = execRgnx f s := rfl
  have hk : b.thr? u = some t := by rw [hb, State.thr_congr (releaseRegion_threads ..)]; exact hi.thr
  subst he hb
  refine exec_performs hx hi ?_ hk hi.going rfl hr
  simp only [ha, List.isEmpty_eq_false_iff.2 hl, htile, part_of_tget hv, hg, hin, hopen, hfence, modPart_of_tget hv, Bool.not_true, Bool.false_eq_true,
    if_false]

theorem rgnx_fails (h : tget v.regions (fld (t.a0 f).w 0 10) = none ∨ v.within t.region (fld (t.a0 f).w 0 10) = false)
    (he : e = .valP (t.all .zero) (allP t false)) (hr : Room s s t t f e) : Performs (.rgnx f) s u f s t e := by
  have hx : exec (.rgnx f) s = execRgnx f s := rfl
  subst he
  refine exec_performs hx hi ?_ hi.thr hi.going rfl hr
  simp only [ha, List.isEmpty_eq_false_iff.2 hl, htile, part_of_tget hv, Bool.not_true, Bool.false_eq_true, if_false]
  rcases h with h | h
  · simp only [h]
  · cases hg : tget v.regions (fld (t.a0 f).w 0 10) <;> simp only [h, Bool.not_false, if_true]

end Rgnx

/-! ## LNCH (R331, R335) -/

section Lnch
variable (hi : Issues s u t f { opc := 0xF8, b := false })
include hi

theorem lnch_holds (hdone : s.allDone u 3 = false) : exec (.lnch f) s = .next s := by
  have hx : exec (.lnch f) s = execLnch f s := rfl
  rw [hx, execLnch, instr_issues hi]
  simp only [ha, List.isEmpty_eq_false_iff.2 hl, htile, hdone, Bool.not_true, Bool.not_false, Bool.false_eq_true, if_false, if_true]

variable {bs : List Byte} {q : HostQ} (hdone : s.allDone u 3 = true) (hread : s.readPacket (t.who 0xF8) ea = .ok s1 bs)
  (hv1 : tget s1.parts t.part = some v) (hthr : s1.thr? u = some t) (hq : tgetD v.queues (fld f.lit 3 3) HostQ.reset = q)
include hea hdone hread hv1 hthr hq

theorem lnch_enters (hlive : q.live = true) (hroom : q.packets.length < 64)
    (hb : b = (s1.setPart t.part { v with queues := tset v.queues (fld f.lit 3 3) (q.accept (some t.region) bs) }).postEv .launchCheck { a := t.part })
    (he : e = .valP (t.all (.ok (invocationId (fld f.lit 3 3) (q.accepted + 1)))) (allP t true)) (hr : Room s b t t f e) :
    Performs (.lnch f) s u f b t e := by
  have hx : exec (.lnch f) s = execLnch f s := rfl
  subst he hb
  refine exec_performs hx hi ?_ hthr hi.going rfl hr
  simp only [ha, List.isEmpty_eq_false_iff.2 hl, htile, hdone, hea, hread, enqueue_accepts hv1 hq hlive hroom, Bool.not_true, Bool.false_eq_true,
    if_false]

theorem lnch_refused (h : q.live = false ∨ 64 ≤ q.packets.length) (he : e = .valP (t.all .zero) (allP t false)) (hr : Room s s1 t t f e) :
    Performs (.lnch f) s u f s1 t e := by
  have hx : exec (.lnch f) s = execLnch f s := rfl
  subst he
  refine exec_performs hx hi ?_ hthr hi.going rfl hr
  simp only [ha, List.isEmpty_eq_false_iff.2 hl, htile, hdone, hea, hread, enqueue_refuses hv1 hq h, Bool.not_true, Bool.false_eq_true, if_false]

end Lnch

/-! ## PLACE (R343) -/

theorem place_acts (hi : Issues s u t f { opc := 0xF9, b := false }) {key : ImgKey} {m : Image} (himg : (s.site t.src.site).img = some key)
    (hm : s.image? key = some m) (hstage : fld f.lit 0 7 < imgStages m.bytes) {began : Bool}
    (hform : s.placeForm key (dieOf t.src.site) (fld f.lit 0 7) (fld f.lit 7 2) (t.a0 f).w = (b, began)) (hk : b.thr? u = some t)
    (he : e = .valP (t.all (.ok (w32 (b.stageCount key (dieOf t.src.site) (fld f.lit 0 7))))) (allP t began)) (hr : Room s b t t f e) :
    Performs (.place f) s u f b t e := by
  have hx : exec (.place f) s = execPlace f s := rfl
  subst he
  refine exec_performs hx hi ?_ hk hi.going rfl hr
  simp only [ha, List.isEmpty_eq_false_iff.2 hl, htile, himg, hm, Nat.not_le.2 hstage, hform, Bool.false_eq_true, if_false, if_true]

end Tile

/-! ## RCMIT (R316, R318) -/

/-- R316: the commit that a thread's RCMIT asks for, of the table at an address. -/
def Thread.commitOf (t : Thread) (f : Fields) (table : Int) : Commit :=
  { table := table, site := t.src.site, sem := fld f.lit 3 6, who := t.who 0xFA, staged := none, gate := [] }

section Rcmit
variable {s b : State} {u : Nat} {t : Thread} {f : Fields} {v : Part} {ea : Int} {e : Eff} (hl : t.selLanes ≠ [])
  (hi : Issues s u t f { opc := 0xFA, b := false })
include hl hi

theorem rcmit_onElement {k : Thread} (helem : isElem t.src.site = true) (hb : b = s.raise (t.who 0xFA) 0x0114 ((t.who 0xFA).details 1 []))
    (hk : b.thr? u = some k) (hend : k.ending = false) (he : e = .valP (t.all (t.a0 f)) (allP t false)) (hr : Room s b t k f e) :
    Performs (.rcmit f) s u f b k e := by
  have hx : exec (.rcmit f) s = execRcmit f s := rfl
  subst he hb
  refine exec_performs hx hi ?_ hk hend rfl hr
  simp only [List.isEmpty_eq_false_iff.2 hl, helem, Bool.false_eq_true, if_false, if_true]

variable (helem : isElem t.src.site = false)
include helem

theorem rcmit_poisoned (ha : (t.a0 f).pois = true) (he : e = .valP (t.all (t.a0 f)) (allP t false)) (hr : Room s s t t f e) :
    Performs (.rcmit f) s u f s t e := by
  have hx : exec (.rcmit f) s = execRcmit f s := rfl
  subst he
  refine exec_performs hx hi ?_ hi.thr hi.going rfl hr
  simp only [List.isEmpty_eq_false_iff.2 hl, helem, ha, Bool.false_eq_true, if_false, if_true]

variable (hv : tget s.parts t.part = some v) (ha : (t.a0 f).pois = false)
include hv ha

theorem rcmit_starts (hea : eaOf (s.baseOf t (fld f.lit 0 3)) (t.a0 f).w 1 = ea) (hfree : v.commit = none)
    (hb : b = (s.setPart t.part { v with commit := some (t.commitOf f ea) }).postEv .rangeTableRead { a := t.part })
    (he : e = .valP (t.all (t.a0 f)) (allP t true)) (hr : Room s b t t f e) : Performs (.rcmit f) s u f b t e := by
  have hx : exec (.rcmit f) s = execRcmit f s := rfl
  have hk : b.thr? u = some t := by rw [hb]; exact hi.thr
  subst he hb
  refine exec_performs hx hi ?_ hk hi.going rfl hr
  simp only [List.isEmpty_eq_false_iff.2 hl, helem, ha, hv, hfree, hea, Thread.commitOf, Option.isSome_none, Bool.false_eq_true, if_false]

theorem rcmit_busy (hbusy : v.commit ≠ none) (he : e = .valP (t.all (t.a0 f)) (allP t false)) (hr : Room s s t t f e) :
    Performs (.rcmit f) s u f s t e := by
  have hx : exec (.rcmit f) s = execRcmit f s := rfl
  subst he
  refine exec_performs hx hi ?_ hi.thr hi.going rfl hr
  simp only [List.isEmpty_eq_false_iff.2 hl, helem, ha, hv, Option.isSome_iff_ne_none.2 hbusy, Bool.false_eq_true, if_false, if_true]

end Rcmit

/-! ## FLTX and MARK (R380, R381) -/

section Marks
variable {s b : State} {u : Nat} {t : Thread} {f : Fields} {e : Eff}

theorem fltx_lanes (t : Thread) (f : Fields) : List.zipWith fltxLane (t.as f) (t.bs f) = (List.range t.width).map (fun l =>
    ⟨(t.aW f l).w, (t.aW f l).pois || (t.bW f l).pois || (t.bW f l).w.getLsbD 0⟩) := by
  rw [zipWith_range_getD (t.as f) (t.bs f) (by rw [as_length, bs_length]) PWord.zero PWord.zero, as_length]
  simp only [fltxLane, bit_eq_getLsbD]
  rfl

theorem fltxMask_eq (t : Thread) (f : Fields) : fltxMask t f = maskOf (t.selLanes.filter (fun l => (t.bW f l).w.getLsbD 0)) := by
  simp only [fltxMask, bit_eq_getLsbD]
  rfl

theorem fltx_faults (hl : t.selLanes ≠ []) (hi : Issues s u t f { opc := 0xFB }) {d : List Word} {r : State} {k : Thread}
    (hd : d = (t.who 0xFB).details 0 [w32 (fld f.lit 0 16), (t.a0 f).w, (t.b0 f).w, maskOf (t.selLanes.filter (fun l => (t.bW f l).w.getLsbD 0))])
    (hraise : r = s.raise (t.who 0xFB) 0x0118 d)
    (hb : b = if bit f.lit 17 && t.region == 0 then r.raise (t.who 0xFB) 0x0203 d
      else if bit f.lit 17 || bit f.lit 16 then r.fenceDomain t.part t.region (some t.inv) else r)
    (hk : b.thr? u = some k) (hend : k.ending = false)
    (he : e = .val ((List.range t.width).map (fun l => ⟨(t.aW f l).w, (t.aW f l).pois || (t.bW f l).pois || (t.bW f l).w.getLsbD 0⟩)))
    (hr : Room s b t k f e) : Performs (.fltx f) s u f b k e := by
  have hx : exec (.fltx f) s = execFltx f s := rfl
  rw [← fltx_lanes] at he
  rw [← fltxMask_eq] at hd
  refine exec_performs hx hi ?_ hk hend (by rw [he]; rfl) hr
  subst he hb hraise hd
  simp only [List.isEmpty_eq_false_iff.2 hl, Bool.false_eq_true, if_false]
  split
  · rfl
  · split <;> rfl

variable (hi : Issues s u t f { opc := 0xFC, b := false }) (he : e = .val ((List.range t.width).map (t.aW f)))
include hi he

theorem mark_offers (hl : t.selLanes ≠ []) (hon : bit s.lantern.ctl 31 = true) (hmarks : bit s.lantern.ctl 30 = true)
    (hb : b = s.offer (dieOf t.src.site) 16 (s.markRecord t (t.a0 f) (t.as f) (fld f.lit 0 16))) (hk : b.thr? u = some t) (hr : Room s b t t f e) :
    Performs (.mark f) s u f b t e := by
  have hx : exec (.mark f) s = execMark f s := rfl
  refine exec_performs hx hi ?_ hk hi.going (by rw [he]; rfl) hr
  subst he hb
  simp only [List.isEmpty_eq_false_iff.2 hl, hon, hmarks, Bool.not_false, Bool.and_self, if_true, ← as_lanes]

theorem mark_passes (hoff : bit s.lantern.ctl 31 = false ∨ bit s.lantern.ctl 30 = false) (hr : Room s s t t f e) : Performs (.mark f) s u f s t e := by
  have hx : exec (.mark f) s = execMark f s := rfl
  have hno : (bit s.lantern.ctl 31 && bit s.lantern.ctl 30 && !t.selLanes.isEmpty) = false := by
    rcases hoff with h | h <;> simp [h]
  refine exec_performs hx hi ?_ hi.thr hi.going (by rw [he]; rfl) hr
  subst he
  simp only [hno, Bool.false_eq_true, if_false, ← as_lanes]

end Marks

/-! ## The statement -/

/-- Settles O43, instruction by instruction from its cases. -/
theorem regionFaultAndMarkResults : Obligations.RegionFaultAndMarkResults := by
  refine ⟨fun s u t f v hv hl ha => ?_, fun s u t f hl => ⟨fun hi => ⟨fun helem ha hr => rcmit_poisoned hl hi helem ha rfl hr,
    fun helem k hk hend hr => rcmit_onElement hl hi helem rfl hk hend rfl hr⟩, fun hi k hk hend hr => fltx_faults hl hi rfl rfl rfl hk hend rfl hr,
    fun hi => ⟨fun hon hmarks hk hr => mark_offers hi rfl hl hon hmarks rfl hk hr, fun hoff hr => mark_passes hi rfl hoff hr⟩⟩⟩
  intro A ea P all fail
  have hea : eaOf (s.baseOf t (fld f.lit 0 3)) (t.a0 f).w 1 = ea := eaOf_one ..
  refine ⟨fun htile => ⟨fun hi n hn hnone hlow => ?rgne, fun hi g hg hin hopen hfence => ?rgnx, fun hi h hr => ?rgnxFails, fun hi => lnch_holds hl ha htile hi,
    fun hi hdone s1 bs v hread hv1 hthr => ?lnch, fun hi key m himg hm hstage => ?place⟩, fun hi helem => ⟨fun hfree hr => ?starts, fun hbusy hr => ?busy⟩⟩
  case rgne =>
    have hfree : v.freeRegion = some n := LowestFree.find ⟨hnone, hlow⟩ hn
    exact ⟨fun s1 bs g hal hread hnew hk hr => rgne_makes hv hl ha hea htile hi hfree hal hread hnew rfl hk rfl hr,
      fun s1 block r hblock hnew k hk hend hr => rgne_fails hv hl ha hea htile hi hfree hblock hnew rfl hk hend rfl hr,
      fun s1 hal hread => rgne_waits hv hl ha hea htile hi hfree hal hread⟩
  case rgnx => exact fun hr => rgnx_closes hv hl ha htile hi hg hin hopen hfence rfl rfl hr
  case rgnxFails => exact rgnx_fails hv hl ha htile hi h rfl hr
  case lnch =>
    exact ⟨fun hlive hroom hr => lnch_enters hl ha hea htile hi hdone hread hv1 hthr rfl hlive hroom rfl rfl hr,
      fun h hr => lnch_refused hl ha hea htile hi hdone hread hv1 hthr rfl h rfl hr⟩
  case place =>
    have acts := fun (b : State) (began : Bool) hform hr hk => place_acts (b := b) (began := began) hl ha htile hi himg hm hstage hform hk rfl hr
    refine ⟨fun hf => acts s true ?_, fun hf b hb => acts b true ?_, fun hf n hn => acts (s.beginStrike n) true ?_, fun hf => acts _ true ?_⟩
    all_goals rw [hf]
    · rfl
    · simp only [State.placeForm, hb]
    · simp only [State.placeForm, hn]
    · rfl
  case starts => exact rcmit_starts hl hi helem hv ha hea hfree rfl rfl hr
  case busy => exact rcmit_busy hl hi helem hv ha hbusy rfl hr

end Sys2Proof.Machine
end

section
/-! Page walks and the return of load data (R249, R250, R256, R309, R310, R312): a walk that ends at a leaf or is missed, the word that a
load's bytes give, and the thread that its data reach. -/

namespace Sys2Proof.Machine

/-! ## A walk (R309, R310, R312) -/

/-- A translation that enters the TLBs moves no home and takes no part in any access. -/
theorem fillTlb_place (s : State) (x : Site) (e : TlbEnt) (pa : Nat) : (s.fillTlb x e).place pa = s.place pa := rfl

theorem tlbAdd_head (n k : Nat) (e : TlbEnt) (es : List TlbEnt) : (tlbAdd n k e es).head? = some e := rfl

theorem fillTlb_tlb1 (s : State) {x : Site} (hx : isTile x = true ∨ isElem x = true) (e : TlbEnt) :
    (tgetD (s.fillTlb x e).coh.tlb1 x []).head? = some e := by
  have hsize : tlb1Size x ≠ 0 := by
    unfold tlb1Size
    rcases hx with h | h
    · rw [if_pos h]
      decide
    · rw [if_pos h]
      split <;> decide
  simp only [State.fillTlb, if_neg hsize, tgetD_tset, if_true, tlbAdd_head]

theorem fillTlb_tlb2 (s : State) (x : Site) (e : TlbEnt) : (tgetD (s.fillTlb x e).coh.tlb2 (dieOf x) []).head? = some e := by
  simp only [State.fillTlb, tgetD_tset, if_true, tlbAdd_head]

/-- R291: a lane whose address a home slice serves is on its way to it. -/
theorem arrive_slice {s : State} {x : Access} {pa n : Nat} (hplace : s.place pa = .slice n) (hop : x.op.isLdmc = false) (a l repl : Nat) :
    s.arrive a l x pa repl = (s.modLane a l (fun m => { m with pa := pa, repl := repl, st := .todo })).postEv x.event { a := a, b := l } := by
  have hplace' : (s.modLane a l (fun m => { m with pa := pa, repl := repl, st := .todo })).place pa = .slice n := hplace
  simp only [State.arrive, hplace', hop, Bool.false_eq_true, if_false]

section Walk
variable {s : State} {a l : Nat} {x : Access} {m : LaneAcc} (hx : s.acc? a = some x) (hm : x.lane? l = some m) (hst : m.st = .walk)
  (hxl : s.xlate x.who.part x.who.ag.site m.ea x.op.writes (64 * a + l) = .walk) (hfree : s.walkHeld x.who.part x.who.ag.site m.ea = false)
include hx hm hst hxl hfree

theorem pageWalk_leaf {e : TlbEnt} (hwalk : s.walk x.who.part x.who.ag.site m.ea = some e) :
    s.pageWalk a l = (s.fillTlb x.who.ag.site e).onXlate a l x (e.use m.ea x.op.writes) := by
  have hnot : ¬(m.st = .todo ∧ isAperture m.pa = true) := by simp [hst]
  simp only [State.pageWalk, hx, hm, hst, hxl, hfree, hwalk, reduceCtorEq, decide_false, Bool.false_and, Bool.false_eq_true, ne_eq,
    not_true_eq_false, if_false]

/-- R312: a walk that meets an entry that is not valid parks the lane; its page's record is taken unless one is awaited. -/
theorem pageWalk_miss (hwalk : s.walk x.who.part x.who.ag.site m.ea = none) (hop : x.op ≠ .prf) (hp : x.who.part ≠ sysPart) {s1 : State}
    (hs1 : s1 = s.modLane a l (fun m => { m with st := .parked })) :
    s.pageWalk a l = if s.pageRecorded x.who.part (pageOf m.ea) (dieOf x.who.ag.site) 1 then s1
      else s1.raise x.who 0x0001 (x.who.details 0 []) (some (.page (pageOf m.ea) (dieOf x.who.ag.site))) m.ea := by
  subst hs1
  simp only [State.pageWalk, State.parkLane, hx, hm, hst, hxl, hfree, hwalk, hop, hp, reduceCtorEq, decide_false, Bool.false_and, Bool.false_eq_true,
    ne_eq, not_true_eq_false, if_false]
  rfl

end Walk

/-! ## The word of a load (R256) -/

theorem leNat_lt (bs : List Byte) : leNat bs < 2 ^ (8 * bs.length) := by
  induction bs with
  | nil => decide
  | cons b bs ih =>
    have hb := b.isLt
    rw [leNat, List.length_cons, Nat.mul_add, Nat.pow_add, Nat.mul_comm (2 ^ _)]
    omega

/-- R256: a load's bytes as a number, less 2^(8n) where a signed size has its top bit set. -/
theorem loadWord_eq (sg : Bool) (bs : List Byte) : loadWord sg bs
    = if sg && decide (2 ^ (8 * bs.length - 1) ≤ leNat bs) then wrap32 ((leNat bs : Int) - (2 ^ (8 * bs.length) : Nat)) else w32 (leNat bs) := by
  have hmod : leNat bs % 2 ^ (8 * bs.length) = leNat bs := Nat.mod_eq_of_lt (leNat_lt bs)
  cases sg with
  | false => rfl
  | true =>
    simp only [loadWord, sxN, hmod, if_true, Bool.true_and, decide_eq_true_eq]
    split
    · rfl
    · exact BitVec.ofInt_natCast 32 (leNat bs)

/-! ## The return of data (R249, R250) -/

theorem nudge_threads (s : State) (u : Nat) : (s.nudge u).threads = s.threads := by
  unfold State.nudge
  split
  · rfl
  · split <;> rfl

/-- R212: an access that has retired without a failure settles without its thread. -/
theorem settleAcc_retired_threads {s : State} {a : Nat} {x : Access} (hx : s.acc? a = some x) (hf : x.fails = []) (hret : x.retired = true) :
    (s.settleAcc a).threads = s.threads := by
  simp only [State.settleAcc, hx, addressRecord_clean hf, hret, Bool.true_or, if_true, Bool.true_and]
  split
  · rfl
  · split
    · exact nudge_threads ..
    · exact nudge_threads ..

section Returns
variable {s : State} {a : Nat} {x : Access} {t : Thread} (ht : s.thr? x.uid = some t) (hctr : x.op.counter = some .ld)
include ht hctr

theorem retire_thr : (s.retire a x).thr? x.uid = some (t.subCtr .ld) := by
  have hmod : (s.modAcc a (fun x => { x with retired := true })).thr? x.uid = some t := ht
  simp only [State.retire, hctr]
  exact fall_thr hmod .ld

omit ht in
theorem retire_acc (hx : s.acc? a = some x) : (s.retire a x).acc? a = some { x with retired := true } := by
  have hmod : (s.modAcc a (fun x => { x with retired := true })).acc? a = some { x with retired := true } := by
    rw [State.modAcc_acc, if_pos rfl, hx]
    rfl
  simp only [State.retire, hctr]
  rw [State.acc?, (keeps_fall _ x.uid .ld).same .accs (by decide)]
  exact hmod

/-- R249, R250: the thread takes the words and its load counter falls; memory is as before. -/
theorem returnData_returns (hx : s.acc? a = some x) (hf : x.fails = []) :
    (s.returnData a x).thr? x.uid = some ((t.receive a x).subCtr .ld) ∧ (s.returnData a x).mem = s.mem := by
  have hset : s.modThr x.uid (fun t => t.receive a x) = s.setThr x.uid (t.receive a x) := modThr_eq_setThr ht _
  have hthr := retire_thr (s := s.setThr x.uid (t.receive a x)) (a := a) (x := x) (thr_setThr ..) hctr
  have hacc := retire_acc (s := s.setThr x.uid (t.receive a x)) (a := a) hctr hx
  have hstays := (cohStays_retire (s.setThr x.uid (t.receive a x)) a x).trans (cohStays_settleAcc hacc hf)
  rw [State.returnData, hset]
  exact ⟨(State.thr_congr (settleAcc_retired_threads hacc hf rfl) _).trans hthr, hstays.mem⟩

end Returns

/-- R249: a lane that is no part of the load is as it was. -/
theorem receive_other {t : Thread} {l : Nat} {y : Lane} (hy : t.lanes[l]? = some y) (a : Nat) {x : Access} (hnone : x.lane? l = none) :
    (t.receive a x).lanes[l]? = some y := by
  simp only [Thread.receive, List.getElem?_mapIdx, hy, hnone, Option.map_some]

/-- R249: the targets of a lane of the load take its word. -/
theorem receive_lane {t : Thread} {l : Nat} {y : Lane} (hy : t.lanes[l]? = some y) (a : Nat) {x : Access} {m : LaneAcc} (hm : x.lane? l = some m) :
    (t.receive a x).lanes[l]? = some (x.targets.foldl (fun y r => y.setReg r (x.value m)) y) := by
  simp only [Thread.receive, List.getElem?_mapIdx, hy, hm, Option.map_some]

/-! ## The statement -/

/-- Settles O30: a walk by what it meets, the return of a load by what its thread receives. -/
theorem walksAndReturns : Obligations.WalksAndReturns := by
  refine ⟨fun s x m hx hm hst hxl hfree => ⟨fun e pa repl n hwalk huse hplace hop => ?leaf, fun hwalk hop hp => ?miss⟩,
    fun s x t sg hx ht hu hop hret hres hreturns hf => ?returns⟩
  case leaf =>
    have hexec : s.pageWalk s.subj.a s.subj.b = _ := pageWalk_leaf hx hm hst hxl hfree hwalk
    rw [huse, State.onXlate, arrive_slice ((fillTlb_place ..).trans hplace) hop] at hexec
    refine ⟨_, _, congrArg Host.Outcome.next hexec, rfl, modLane_acc (s := s.fillTlb x.who.ag.site e) hx _ _, withLane_lane hm (fun _ => rfl),
      fun hsite => fillTlb_tlb1 s hsite e, fillTlb_tlb2 .., rfl⟩
  case miss =>
    have hexec := pageWalk_miss hx hm hst hxl hfree hwalk hop hp rfl
    exact ⟨fun hrec => congrArg Host.Outcome.next (hexec.trans (if_pos hrec)),
      fun hrec => congrArg Host.Outcome.next (hexec.trans (if_neg (by rw [hrec]; decide)))⟩
  case returns =>
    have hctr : x.op.counter = some .ld := by rw [hop]; rfl
    have hexec : s.loadReturn s.subj.a = s.returnData s.subj.a x := by
      simp only [State.loadReturn, hx, hu, hret, hres, hreturns, hop, decide_false, Bool.or_self, Bool.not_true, Bool.false_eq_true, if_false]
    obtain ⟨hthr, hmem⟩ := returnData_returns (a := s.subj.a) ht hctr hx hf
    refine ⟨_, _, congrArg Host.Outcome.next hexec, hthr, hmem, rfl, rfl, rfl, rfl, List.length_mapIdx, fun l y hy => ?_⟩
    refine ⟨fun hnone => receive_other hy s.subj.a hnone, fun m hm => ?_⟩
    intro n w
    have hvalue : x.value m = w := by
      simp only [Access.value, hop, loadWord_eq]
      rfl
    rw [← hvalue]
    exact receive_lane hy s.subj.a hm

end Sys2Proof.Machine
end

section
/-! Replicas (R294 to R300): fills, collapses, acknowledgements and evictions, and the window of a die's tracked regions. -/

namespace Sys2Proof.Machine

/-! ## Room in a slice (R20, R25, R295) -/

theorem sendColls_same {α : Type} (proj : State → α) (hproj : ∀ s line h, proj (State.sendColl s line h).1 = proj s) (line : Nat) (hs : List Nat)
    (r : State × List Nat) : proj (sendColls line r hs).1 = proj r.1 := by
  induction hs generalizing r with
  | nil => rfl
  | cons h hs ih => exact (ih ((r.1.sendColl line h).1, r.2 ++ [(r.1.sendColl line h).2])).trans (hproj ..)

/-- The fills on their way (R294). -/
def State.filling (s : State) : Tbl Nat Fill := s.coh.fills

theorem sendColl_filling (s : State) (line h : Nat) : (s.sendColl line h).1.filling = s.filling := by
  unfold State.sendColl
  dsimp only
  split <;> rfl

theorem collapseLine_filling (s : State) (line : Nat) : (s.collapseLine line).1.filling = s.filling := by
  cases hx : tget s.coh.lines line with
  | none => simp only [State.collapseLine, hx]
  | some x =>
    rw [collapseLine_eq hx]
    exact sendColls_same State.filling sendColl_filling ..

/-- Memory and the fills on their way are as before. -/
structure FillsStay (s s' : State) : Prop where
  mem : s'.mem = s.mem
  fills : s'.filling = s.filling

theorem FillsStay.refl (s : State) : FillsStay s s := ⟨rfl, rfl⟩

theorem fillsStay_evictLine (s : State) (line : Nat) : FillsStay s (s.evictLine line) := by
  unfold State.evictLine
  split
  · exact .refl s
  · split
    · exact ⟨dropLine_mem .., by rw [State.filling, dropLine_coh]; rfl⟩
    · exact ⟨(onlyCoh_collapseLine s line).mem, collapseLine_filling s line⟩

theorem fillsStay_replicaEvict (s : State) (die line : Nat) : FillsStay s (s.replicaEvict die line) := by
  unfold State.replicaEvict
  split
  · exact .refl s
  · dsimp only
    split <;> exact ⟨rfl, rfl⟩

/-- R20, R25: a line that a slice displaces for another stops no fill. -/
theorem fillsStay_makeRoom (s : State) (n line i : Nat) : FillsStay s (s.makeRoom n line i) := by
  unfold State.makeRoom
  dsimp only
  split
  · exact .refl s
  · split
    · exact .refl s
    · exact fillsStay_evictLine ..
    · exact fillsStay_replicaEvict ..

/-! ## Fills (R294, R297) -/

/-- An earlier fill of the same line is on its way to the same holder. -/
def State.fillWaits (s : State) (n : Nat) (k : Fill) : Prop := ∃ e ∈ s.coh.fills, e.1 < n ∧ e.2.die = k.die ∧ e.2.line = k.line

theorem fillWaits_iff (s : State) (n : Nat) (k : Fill) :
    s.coh.fills.any (fun e => decide (e.1 < n) && e.2.die == k.die && e.2.line == k.line) = true ↔ s.fillWaits n k := by
  simp only [List.any_eq_true, Bool.and_eq_true, decide_eq_true_eq, beq_iff_eq, State.fillWaits, and_assoc]

section Fill
variable {s : State} {n : Nat} {k : Fill} (hk : tget s.coh.fills n = some k)
include hk

theorem replicaFill_waits (h : s.fillWaits n k) : s.replicaFill n = s.postEv .replicaFill { a := n } := by
  simp only [State.replicaFill, hk, (fillWaits_iff s n k).2 h, if_true]

/-- R297: a fill that a collapse has crossed is dropped. -/
theorem replicaFill_dropped (h : ¬s.fillWaits n k) (hdis : k.discard = true) :
    s.replicaFill n = { s with coh := { s.coh with fills := tdel s.coh.fills n } } := by
  simp only [State.replicaFill, hk, mt (fillWaits_iff s n k).1 h, hdis, Bool.false_eq_true, if_false, if_true]

/-- R294: what a fill that arrives leaves. -/
theorem replicaFill_arrives (h : ¬s.fillWaits n k) (hdis : k.discard = false) : (s.replicaFill n).mem = s.mem
    ∧ tget (s.replicaFill n).coh.fills n = none ∧ tget (s.replicaFill n).coh.replicas (k.die, k.line) = some ⟨n, k.bytes, k.bad⟩ := by
  generalize hs1 : ({ s with coh := { s.coh with fills := tdel s.coh.fills n } } : State) = s1
  have hroom := fillsStay_makeRoom s1 (s1.replicaSlice k.die k.line) k.line 1
  generalize hs2 : s1.makeRoom (s1.replicaSlice k.die k.line) k.line 1 = s2 at hroom
  have hmem : s2.mem = s.mem := hroom.mem.trans (by rw [← hs1])
  have hfills : tget s2.coh.fills n = none := by
    rw [show s2.coh.fills = tdel s.coh.fills n from hroom.fills.trans (by rw [← hs1]; rfl)]
    exact tget_tdel_same ..
  simp only [State.replicaFill, hk, mt (fillWaits_iff s n k).1 h, hdis, hs1, hs2, Bool.false_eq_true, if_false]
  split
  · exact ⟨hmem, hfills, tget_tset_same ..⟩
  · split
    · exact ⟨hmem, hfills, tget_tset_same ..⟩
    · exact ⟨hmem, hfills, tget_tset_same ..⟩

end Fill

/-! ## Collapses and evictions (R295, R296, R297) -/

/-- R296, R297: a collapse that has reached its holder. -/
theorem collapse_arrives {s : State} {die line id : Nat} (hc : ∃ c ∈ s.coh.colls, c.id = id)
    (hawake : s.linkAsleep (12 + memDie (line * 128)) (12 + die) = false) : ∃ s', s.collapseArrives die line id = s' ∧ s'.mem = s.mem
      ∧ (∀ d ∈ s'.coh.colls, d.id = id → d.arrived = true) ∧ tget s'.coh.replicas (die, line) = none
      ∧ (∀ n k, tget s.coh.fills n = some k → tget s'.coh.fills n = some
          { k with discard := k.discard || decide (k.die = die ∧ k.line = line ∧ n < id) })
      ∧ s'.agenda = s.agenda ++ [.ev .collapseAcknowledge { a := die, b := line, c := id }] := by
  have hany : s.coh.colls.any (fun c => decide (c.id = id)) = true := by simpa using hc
  unfold State.collapseArrives
  simp only [hany, hawake, Bool.not_true, Bool.false_eq_true, if_false]
  refine ⟨_, rfl, rfl, fun d hd hid => ?_, tget_tdel_same .., fun n k hk => ?_, rfl⟩
  · obtain ⟨c, -, rfl⟩ := List.mem_map.1 hd
    by_cases hcid : c.id = id
    · rw [if_pos hcid]
    · rw [if_neg hcid] at hid
      exact absurd hid hcid
  · have hmap : s.coh.fills.map (fun e => if e.2.die = die ∧ e.2.line = line ∧ e.1 < id then (e.1, { e.2 with discard := true }) else e)
        = s.coh.fills.map (fun e => (e.1, { e.2 with discard := e.2.discard || decide (e.2.die = die ∧ e.2.line = line ∧ e.1 < id) })) := by
      refine List.map_congr_left fun e _ => ?_
      by_cases h : e.2.die = die ∧ e.2.line = line ∧ e.1 < id
      · rw [if_pos h, decide_eq_true h, Bool.or_true]
      · rw [if_neg h, decide_eq_false h, Bool.or_false]
    have hget := tget_map_snd s.coh.fills (fun e => { e.2 with discard := e.2.discard || decide (e.2.die = die ∧ e.2.line = line ∧ e.1 < id) }) n
    rw [← hmap, hk] at hget
    exact hget

/-- R295: what an evicted replica leaves. -/
theorem replicaEvict_leaves {s : State} {die line : Nat} {r : Replica} (hr : tget s.coh.replicas (die, line) = some r) :
    (s.replicaEvict die line).mem = s.mem ∧ tget (s.replicaEvict die line).coh.replicas (die, line) = none
    ∧ ∀ ln, tget s.coh.lines line = some ln →
      ((∃ e ∈ s.coh.fills, e.2.die = die ∧ e.2.line = line ∧ e.2.discard = false) → tget (s.replicaEvict die line).coh.lines line = some ln)
      ∧ ((¬∃ e ∈ s.coh.fills, e.2.die = die ∧ e.2.line = line ∧ e.2.discard = false) →
        tget (s.replicaEvict die line).coh.lines line = some { ln with holders := ln.holders.filter (fun d => d ≠ die) }) := by
  have hflies : s.coh.fills.any (fun e => e.2.die == die && e.2.line == line && !e.2.discard) = true
      ↔ ∃ e ∈ s.coh.fills, e.2.die = die ∧ e.2.line = line ∧ e.2.discard = false := by
    simp only [List.any_eq_true, Bool.and_eq_true, beq_iff_eq, Bool.not_eq_true', and_assoc]
  simp only [State.replicaEvict, hr]
  split
  · next h => exact ⟨rfl, tget_tdel_same .., fun ln hln => ⟨fun _ => hln, fun hno => absurd (hflies.1 h) hno⟩⟩
  · next h =>
    refine ⟨rfl, tget_tdel_same .., fun ln hln => ⟨fun hf => absurd (hflies.2 hf) h, fun _ => ?_⟩⟩
    rw [tget_tmod, if_pos rfl, hln]
    rfl

/-! ## Which die a region takes or loses (R298) -/

/-- The first element of an ordered list that p picks. -/
theorem find?_eq_some_of_pairwise {α : Type} {R : α → α → Prop} {p : α → Bool} {d : α} : ∀ {l : List α}, l.Pairwise R → d ∈ l → p d = true →
    (∀ x ∈ l, R x d → p x = false) → l.find? p = some d
  | y :: l, hl, hd, hp, hbefore => by
    obtain ⟨hy, hl⟩ := List.pairwise_cons.1 hl
    rcases List.mem_cons.1 hd with rfl | hd
    · exact List.find?_cons_of_pos hp
    · rw [List.find?_cons_of_neg (Bool.eq_false_iff.1 (hbefore y List.mem_cons_self (hy d hd)))]
      exact find?_eq_some_of_pairwise hl hd hp fun x hx => hbefore x (List.mem_cons_of_mem _ hx)

theorem mostRead_eq {r : RegEnt} {ds : List Nat} {d : Nat} (hds : ds.Pairwise (· < ·)) (hd : d ∈ ds)
    (hmost : ∀ e ∈ ds, tgetD r.reads e 0 ≤ tgetD r.reads d 0 ∧ (e < d → tgetD r.reads e 0 < tgetD r.reads d 0)) : mostRead r ds = some d := by
  refine find?_eq_some_of_pairwise hds hd (List.all_eq_true.2 fun e he => decide_eq_true (hmost e he).1) fun x hx hlt => ?_
  exact List.all_eq_false.2 ⟨d, hd, by simpa using (hmost x hx).2 hlt⟩

theorem leastRead_eq {r : RegEnt} {ds : List Nat} {d : Nat} (hds : ds.Pairwise (· < ·)) (hd : d ∈ ds)
    (hleast : ∀ e ∈ ds, tgetD r.reads d 0 ≤ tgetD r.reads e 0 ∧ (d < e → tgetD r.reads d 0 < tgetD r.reads e 0)) : leastRead r ds = some d := by
  refine find?_eq_some_of_pairwise (List.pairwise_reverse.2 hds) (List.mem_reverse.2 hd)
    (List.all_eq_true.2 fun e he => decide_eq_true (hleast e he).1) fun x hx hlt => ?_
  exact List.all_eq_false.2 ⟨d, hd, by simpa using (hleast x (List.mem_reverse.1 hx)).2 hlt⟩

theorem candDies_iff (s : State) (die rg d : Nat) :
    d ∈ s.candDies die rg ↔ d < 4 ∧ d ≠ die ∧ ∃ k ∈ s.regDoms die rg, (s.dom d k).slices ≠ 0 := by
  simp only [State.candDies, List.mem_filter, List.mem_range, Bool.and_eq_true, decide_eq_true_eq, List.any_eq_true, bne_iff_ne]

/-! ## The replicas of a region (R298) -/

/-- A line lies in a tracked region of a memory die. -/
def InRegion (home region line : Nat) : Prop := memDie (line * 128) = home ∧ regionOf (line * 128) = region

theorem onlyCoh_foldl {ι : Type} (g : State → ι → State) (hg : ∀ s i, OnlyCoh s (g s i)) (l : List ι) (s : State) : OnlyCoh s (l.foldl g s) := by
  induction l generalizing s with
  | nil => exact .refl s
  | cons i l ih => exact (hg s i).trans (ih _)

/-- R298: the replica of one line on a die collapses, and the die leaves the line's mask. -/
def State.dropHolder (s : State) (die : Nat) (e : Nat × Line) : State :=
  (({ s with coh := { s.coh with lines := tset s.coh.lines e.1 { e.2 with holders := e.2.holders.filter (· ≠ die) } } } : State).sendColl e.1 die).1

theorem collapseRegion_eq (s : State) (home region die : Nat) : s.collapseRegion home region die
    = (s.coh.lines.filter (fun e => memDie (e.1 * 128) = home ∧ regionOf (e.1 * 128) = region ∧ die ∈ e.2.holders)).foldl
      (fun s e => s.dropHolder die e) s := rfl

theorem onlyCoh_dropHolder (s : State) (die : Nat) (e : Nat × Line) : OnlyCoh s (s.dropHolder die e) :=
  OnlyCoh.trans (s' := { s with coh := { s.coh with lines := _ } }) ⟨_, _, _, rfl⟩ (onlyCoh_sendColl ..)

theorem onlyCoh_collapseRegion (s : State) (home region die : Nat) : OnlyCoh s (s.collapseRegion home region die) :=
  onlyCoh_foldl _ (fun s e => onlyCoh_dropHolder s die e) _ s

theorem sendColl_regs (s : State) (line h : Nat) : (s.sendColl line h).1.coh.regs
    = tmod s.coh.regs (memDie (line * 128), regionOf (line * 128)) (fun r => { r with colls := r.colls + 1 }) := by
  unfold State.sendColl
  dsimp only
  split <;> rfl

theorem sendColl_doms (s : State) (line h : Nat) : (s.sendColl line h).1.coh.doms = s.coh.doms := by
  unfold State.sendColl
  dsimp only
  split <;> rfl

/-- A region's entry, its lines, the collapses on their way and the domains are as before, but that there may be more collapses. -/
structure RegionStays (home region : Nat) (s s' : State) : Prop where
  reg : tget s'.coh.regs (home, region) = tget s.coh.regs (home, region)
  lines : ∀ l ∈ s.coh.lines, InRegion home region l.1 → l ∈ s'.coh.lines
  colls : ∀ c ∈ s.coh.colls, c ∈ s'.coh.colls
  doms : s'.coh.doms = s.coh.doms

theorem RegionStays.refl (home region : Nat) (s : State) : RegionStays home region s s := ⟨rfl, fun _ h _ => h, fun _ h => h, rfl⟩

theorem RegionStays.trans {home region : Nat} {s s' s'' : State} (h : RegionStays home region s s') (h' : RegionStays home region s' s'') :
    RegionStays home region s s'' :=
  ⟨h'.reg.trans h.reg, fun l hl hin => h'.lines l (h.lines l hl hin) hin, fun c hc => h'.colls c (h.colls c hc), h'.doms.trans h.doms⟩

theorem regionStays_foldl {home region : Nat} {ι : Type} (g : State → ι → State) : ∀ (l : List ι) (s : State),
    (∀ i ∈ l, ∀ s, RegionStays home region s (g s i)) → RegionStays home region s (l.foldl g s)
  | [], s, _ => .refl home region s
  | i :: l, s, hg => (hg i List.mem_cons_self s).trans (regionStays_foldl g l _ fun j hj => hg j (List.mem_cons_of_mem _ hj))

theorem mem_tset_of_ne {κ α : Type} [DecidableEq κ] {t : Tbl κ α} {k : κ} {a : α} {e : κ × α} (he : e ∈ t) (hk : e.1 ≠ k) : e ∈ tset t k a := by
  induction t with
  | nil => exact absurd he List.not_mem_nil
  | cons d t ih =>
    obtain ⟨j, b⟩ := d
    unfold tset
    rcases List.mem_cons.1 he with rfl | he
    · rw [if_neg hk]
      exact List.mem_cons_self
    · split
      · exact List.mem_cons_of_mem _ he
      · exact List.mem_cons_of_mem _ (ih he)

/-- A replica that collapses is none of another region's. -/
theorem regionStays_dropHolder {home region : Nat} (s : State) (die : Nat) {e : Nat × Line} (he : ¬InRegion home region e.1) :
    RegionStays home region s (s.dropHolder die e) := by
  obtain ⟨c, hcolls, -⟩ := sendColl_colls
    ({ s with coh := { s.coh with lines := tset s.coh.lines e.1 { e.2 with holders := e.2.holders.filter (· ≠ die) } } } : State) e.1 die
  refine ⟨?_, fun l hl hin => ?_, fun d hd => ?_, sendColl_doms ..⟩
  · rw [State.dropHolder, sendColl_regs, tget_tmod, if_neg fun h => he ⟨(congrArg Prod.fst h).symm, (congrArg Prod.snd h).symm⟩]
  · rw [State.dropHolder, sendColl_lines]
    exact mem_tset_of_ne hl fun h => he (h ▸ hin)
  · rw [State.dropHolder, hcolls]
    exact List.mem_append_left _ hd

theorem regionStays_collapseRegion {home region region' : Nat} (hne : region ≠ region') (s : State) (die : Nat) :
    RegionStays home region s (s.collapseRegion home region' die) := by
  rw [collapseRegion_eq]
  refine regionStays_foldl _ _ _ fun e he s => regionStays_dropHolder s die fun h => hne ?_
  exact h.2.symm.trans (of_decide_eq_true (List.mem_filter.1 he).2).2.1

theorem regionStays_setReg {home region region' : Nat} (hne : region ≠ region') (s : State) (r : RegEnt) :
    RegionStays home region s (s.setReg home region' r) :=
  ⟨tget_tset_ne _ _ fun h => hne (congrArg Prod.snd h), fun _ h _ => h, fun _ h => h, rfl⟩

theorem regionStays_modSlice (home region : Nat) (s : State) (n : Nat) (g : SliceSt → SliceSt) : RegionStays home region s (s.modSlice n g) :=
  ⟨rfl, fun _ h _ => h, fun _ h => h, rfl⟩

/-- What collapsing a region's replicas on a die leaves of the region: one more collapse to each, which the entry counts. -/
structure RegionCollapses (home region die : Nat) (ls : List (Nat × Line)) (s s' : State) : Prop where
  reg : ∀ r, tget s.coh.regs (home, region) = some r → ∃ n, tget s'.coh.regs (home, region) = some { r with colls := n }
  colls : ∀ c ∈ s.coh.colls, c ∈ s'.coh.colls
  sent : ∀ l ∈ ls, ∃ c ∈ s'.coh.colls, c.die = die ∧ c.line = l.1

theorem dropHolders_collapse (home region die : Nat) : ∀ (ls : List (Nat × Line)) (s : State),
    RegionCollapses home region die ls s (ls.foldl (fun s e => s.dropHolder die e) s)
  | [], s => ⟨fun r hr => ⟨r.colls, hr⟩, fun _ h => h, fun _ h => absurd h List.not_mem_nil⟩
  | e :: ls, s => by
    have hrest := dropHolders_collapse home region die ls (s.dropHolder die e)
    obtain ⟨c, hcolls, hdie, hline, -⟩ := sendColl_colls
      ({ s with coh := { s.coh with lines := tset s.coh.lines e.1 { e.2 with holders := e.2.holders.filter (· ≠ die) } } } : State) e.1 die
    have hmem : ∀ d, d ∈ s.coh.colls ∨ d = c → d ∈ (s.dropHolder die e).coh.colls := fun d hd => by
      rw [State.dropHolder, hcolls, List.mem_append, List.mem_singleton]
      exact hd
    refine ⟨fun r hr => ?_, fun d hd => hrest.colls d (hmem d (.inl hd)), fun l hl => ?_⟩
    · have hone : ∃ n, tget (s.dropHolder die e).coh.regs (home, region) = some { r with colls := n } := by
        rw [State.dropHolder, sendColl_regs, tget_tmod]
        split
        · next h =>
          rw [← h]
          exact ⟨r.colls + 1, congrArg (Option.map _) hr⟩
        · exact ⟨r.colls, hr⟩
      obtain ⟨n, hn⟩ := hone
      exact hrest.reg { r with colls := n } hn
    · rcases List.mem_cons.1 hl with rfl | hl
      · exact ⟨c, hrest.colls c (hmem c (.inr rfl)), hdie, hline⟩
      · exact hrest.sent l hl

theorem collapseRegion_collapses (s : State) (home region die : Nat) : RegionCollapses home region die
    (s.coh.lines.filter (fun e => memDie (e.1 * 128) = home ∧ regionOf (e.1 * 128) = region ∧ die ∈ e.2.holders)) s (s.collapseRegion home region die) :=
  dropHolders_collapse ..

/-! ## A region's step at the end of a window (R298) -/

/-- All reads of a region in its window. -/
def RegEnt.total (r : RegEnt) : Nat := (r.reads.map (fun e => e.2)).foldl (· + ·) 0

/-- R298: the candidates for a replica of a region: with at least 64 reads in the window. -/
def State.readers (s : State) (home region : Nat) (r : RegEnt) : List Nat := (s.candDies home region).filter (fun d => decide (64 ≤ tgetD r.reads d 0))

def State.raises (s : State) (home region : Nat) (r : RegEnt) : Prop :=
  r.pinned = false ∧ r.degree < (s.readers home region r).length ∧ 8 * r.colls ≤ r.total

def State.lowers (s : State) (home region : Nat) (r : RegEnt) : Prop :=
  r.pinned = false ∧ ¬s.raises home region r ∧ 0 < r.degree ∧ r.total < 2 * r.colls

/-- A region's counts return to zero. -/
def State.endWindow (s : State) (home region : Nat) : State := s.setReg home region { s.regEnt home region with reads := [], colls := 0 }

theorem endWindow_reg {s : State} {home region : Nat} {r : RegEnt} (hr : tget s.coh.regs (home, region) = some r) :
    tget (s.endWindow home region).coh.regs (home, region) = some { r with reads := [], colls := 0 } := by
  have hent : s.regEnt home region = r := by simp only [State.regEnt, tgetD, hr, Option.getD_some]
  rw [State.endWindow, hent]
  exact tget_tset_same ..

section Window
variable {s : State} {home region : Nat} {r : RegEnt}

theorem windowReg_eq (s : State) (home region : Nat) (r : RegEnt) : s.windowReg home region r = State.endWindow (if r.pinned then s
    else if r.degree < (s.readers home region r).length ∧ 8 * r.colls ≤ r.total then s.raiseReg home region (s.readers home region r)
    else if 0 < r.degree ∧ r.total < 2 * r.colls then s.lowerReg home region else s) home region := rfl

theorem windowReg_raises (h : s.raises home region r) :
    s.windowReg home region r = (s.raiseReg home region (s.readers home region r)).endWindow home region := by
  obtain ⟨hpin, hgrow⟩ := h
  rw [windowReg_eq, if_neg (Bool.eq_false_iff.1 hpin), if_pos hgrow]

theorem windowReg_lowers (h : s.lowers home region r) : s.windowReg home region r = (s.lowerReg home region).endWindow home region := by
  obtain ⟨hpin, hgrow, hshrink⟩ := h
  rw [windowReg_eq, if_neg (Bool.eq_false_iff.1 hpin), if_neg fun hg => hgrow ⟨hpin, hg⟩, if_pos hshrink]

theorem windowReg_keeps (hraise : ¬s.raises home region r) (hlower : ¬s.lowers home region r) :
    s.windowReg home region r = s.endWindow home region := by
  rw [windowReg_eq]
  split
  · rfl
  · next hpin =>
    have hpin := Bool.eq_false_iff.2 hpin
    rw [if_neg fun hg => hraise ⟨hpin, hg⟩, if_neg fun hs => hlower ⟨hpin, hraise, hs⟩]

/-- What a step can be: the one of three that the counts say. -/
theorem windowReg_cases (s : State) (home region : Nat) (r : RegEnt) : ∃ s1, s.windowReg home region r = s1.endWindow home region
    ∧ (s1 = s.raiseReg home region (s.readers home region r) ∨ s1 = s.lowerReg home region ∨ s1 = s) := by
  by_cases hraise : s.raises home region r
  · exact ⟨_, windowReg_raises hraise, .inl rfl⟩
  · by_cases hlower : s.lowers home region r
    · exact ⟨_, windowReg_lowers hlower, .inr (.inl rfl)⟩
    · exact ⟨_, windowReg_keeps hraise hlower, .inr (.inr rfl)⟩

theorem onlyCoh_windowReg (s : State) (home region : Nat) (r : RegEnt) : OnlyCoh s (s.windowReg home region r) := by
  obtain ⟨s1, hs1, hcase⟩ := windowReg_cases s home region r
  rw [hs1]
  refine OnlyCoh.trans (s' := s1) ?_ ⟨_, _, _, rfl⟩
  rcases hcase with rfl | rfl | rfl
  · unfold State.raiseReg
    dsimp only
    split
    · exact .refl s
    · exact ⟨_, _, _, rfl⟩
  · unfold State.lowerReg
    dsimp only
    split
    · exact ⟨_, _, _, rfl⟩
    · exact OnlyCoh.trans (s' := s.setReg home region _) ⟨_, _, _, rfl⟩ ((onlyCoh_collapseRegion ..).trans ⟨_, _, _, rfl⟩)
  · exact .refl _

/-- The step of one region leaves every other as it is. -/
theorem regionStays_windowReg {region' : Nat} (hne : region ≠ region') (s : State) (r : RegEnt) :
    RegionStays home region s (s.windowReg home region' r) := by
  obtain ⟨s1, hs1, hcase⟩ := windowReg_cases s home region' r
  rw [hs1]
  refine RegionStays.trans (s' := s1) ?_ (regionStays_setReg hne ..)
  rcases hcase with rfl | rfl | rfl
  · unfold State.raiseReg
    dsimp only
    split
    · exact .refl home region s
    · exact (regionStays_setReg hne ..).trans (regionStays_modSlice ..)
  · unfold State.lowerReg
    dsimp only
    split
    · exact regionStays_setReg hne ..
    · exact (regionStays_setReg hne ..).trans ((regionStays_collapseRegion hne ..).trans (regionStays_modSlice ..))
  · exact .refl home region _

/-- R298: the counts of a region are zero after its step. -/
theorem windowReg_cleared (s : State) (home region : Nat) (r : RegEnt) :
    ∃ h, tget (s.windowReg home region r).coh.regs (home, region) = some h ∧ h.reads = [] ∧ h.colls = 0 := by
  obtain ⟨s1, hs1, -⟩ := windowReg_cases s home region r
  rw [hs1]
  exact ⟨_, tget_tset_same .., rfl, rfl⟩

variable (hr : tget s.coh.regs (home, region) = some r)
include hr

theorem regEnt_of_tget : s.regEnt home region = r := by simp only [State.regEnt, tgetD, hr, Option.getD_some]

/-- R298: a raised region takes the candidate with the most reads. -/
theorem windowReg_raises_reg (h : s.raises home region r) {d : Nat} (hd : mostRead r ((s.readers home region r).filter (fun d => d ∉ r.holders)) = some d) :
    tget (s.windowReg home region r).coh.regs (home, region)
      = some { r with degree := r.degree + 1, holders := r.holders ++ [d], reads := [], colls := 0 } := by
  rw [windowReg_raises h]
  simp only [State.raiseReg, regEnt_of_tget hr, hd]
  refine endWindow_reg (r := { r with degree := r.degree + 1, holders := r.holders ++ [d] }) ?_
  exact tget_tset_same ..

/-- R298: a lowered region loses the holder with the fewest reads, where every replica of it collapses. -/
theorem windowReg_lowers_reg (h : s.lowers home region r) {d : Nat} (hd : leastRead r ((List.range 4).filter (fun d => d ∈ r.holders)) = some d) :
    tget (s.windowReg home region r).coh.regs (home, region)
      = some { r with degree := r.degree - 1, holders := r.holders.filter (fun e => e ≠ d), reads := [], colls := 0 }
    ∧ ∀ l ∈ s.coh.lines, InRegion home region l.1 → d ∈ l.2.holders → ∃ c ∈ (s.windowReg home region r).coh.colls, c.die = d ∧ c.line = l.1 := by
  rw [windowReg_lowers h]
  simp only [State.lowerReg, regEnt_of_tget hr, hd]
  have hcoll := collapseRegion_collapses (s.setReg home region { r with degree := r.degree - 1, holders := r.holders.filter (fun e => e ≠ d) }) home region d
  obtain ⟨n, hn⟩ := hcoll.reg _ (tget_tset_same ..)
  refine ⟨?_, fun l hl hin hdl => ?_⟩
  · exact endWindow_reg hn
  · exact hcoll.sent l (List.mem_filter.2 ⟨hl, decide_eq_true ⟨hin.1, hin.2, hdl⟩⟩)

theorem windowReg_keeps_reg (hraise : ¬s.raises home region r) (hlower : ¬s.lowers home region r) :
    tget (s.windowReg home region r).coh.regs (home, region) = some { r with reads := [], colls := 0 } := by
  rw [windowReg_keeps hraise hlower]
  exact endWindow_reg hr

end Window

/-! ## The windows of a die (R298) -/

/-- The step of every entry of a list at a window's end. -/
def State.windowRegs (s : State) (die : Nat) (l : Tbl (Nat × Nat) RegEnt) : State := l.foldl (fun s e => s.windowReg die e.1.2 e.2) s

/-- The tracked regions of a die. -/
def State.tracked (s : State) (die : Nat) : Tbl (Nat × Nat) RegEnt := s.coh.regs.filter (fun e => e.1.1 = die)

theorem regionWindow_waits {s : State} (h : s.cycle < s.subj.b) : exec .regionWindow s = .next (s.postEv .regionWindow s.subj) := if_pos h

theorem regionWindow_ends {s : State} (h : s.subj.b ≤ s.cycle) : exec .regionWindow s
    = .next ((s.windowRegs s.subj.a (s.tracked s.subj.a)).postEv .regionWindow { a := s.subj.a, b := s.subj.b + 65536 }) := if_neg (Nat.not_lt.2 h)

theorem windowRegs_mem (s : State) (die : Nat) (l : Tbl (Nat × Nat) RegEnt) : (s.windowRegs die l).mem = s.mem :=
  foldl_same State.mem (fun s (e : (Nat × Nat) × RegEnt) => s.windowReg die e.1.2 e.2) (fun _ _ => (onlyCoh_windowReg ..).mem) l s

theorem windowRegs_stays {die rg : Nat} {l : Tbl (Nat × Nat) RegEnt} (h : ∀ e ∈ l, rg ≠ e.1.2) (s : State) : RegionStays die rg s (s.windowRegs die l) :=
  regionStays_foldl _ l s fun e he s => regionStays_windowReg (h e he) s e.2

theorem windowRegs_cleared {die rg : Nat} : ∀ (l : Tbl (Nat × Nat) RegEnt) (s : State), (∃ e ∈ l, e.1.2 = rg) →
    ∃ h, tget (s.windowRegs die l).coh.regs (die, rg) = some h ∧ h.reads = [] ∧ h.colls = 0
  | [], _, ⟨_, he, _⟩ => absurd he List.not_mem_nil
  | e :: l, s, h => by
    by_cases hlater : ∃ e ∈ l, e.1.2 = rg
    · exact windowRegs_cleared l (s.windowReg die e.1.2 e.2) hlater
    · have he : e.1.2 = rg := by
        obtain ⟨d, hd, hrg⟩ := h
        rcases List.mem_cons.1 hd with rfl | hd
        · exact hrg
        · exact absurd ⟨d, hd, hrg⟩ hlater
      have hstays : RegionStays die rg (s.windowReg die e.1.2 e.2) (s.windowRegs die (e :: l)) :=
        windowRegs_stays (fun d hd hrg => hlater ⟨d, hd, hrg.symm⟩) _
      rw [hstays.reg, ← he]
      exact windowReg_cleared ..

/-- R298: the counts of every region of the die are zero after its window. -/
theorem windows_cleared {s : State} {die rg : Nat} {r : RegEnt}
    (hr : tget (s.windowRegs die (s.tracked die)).coh.regs (die, rg) = some r) : r.reads = [] ∧ r.colls = 0 := by
  by_cases h : ∃ e ∈ s.tracked die, e.1.2 = rg
  · obtain ⟨g, hg, hzero⟩ := windowRegs_cleared (die := die) _ s h
    cases hg.symm.trans hr
    exact hzero
  · have hstays : RegionStays die rg s _ := windowRegs_stays (fun e he hrg => h ⟨e, he, hrg.symm⟩) s
    have hmem := mem_of_tget (hstays.reg.symm.trans hr)
    exact absurd ⟨_, List.mem_filter.2 ⟨hmem, decide_eq_true rfl⟩, rfl⟩ h

/-- A region steps once in its die's window, and nothing of it changes before or after. -/
theorem windows_step {s : State} {die rg : Nat} {r : RegEnt} (hr : tget s.coh.regs (die, rg) = some r)
    (hnodup : (s.coh.regs.map (fun e => e.1)).Nodup) : ∃ s1, RegionStays die rg s s1
      ∧ RegionStays die rg (s1.windowReg die rg r) (s.windowRegs die (s.tracked die)) := by
  have hmem : ((die, rg), r) ∈ s.tracked die := List.mem_filter.2 ⟨mem_of_tget hr, decide_eq_true rfl⟩
  have hdie : ∀ e ∈ s.tracked die, e.1.1 = die := fun e he => of_decide_eq_true (List.mem_filter.1 he).2
  have hkeys : ((s.tracked die).map (fun e => e.1)).Nodup := hnodup.sublist (List.filter_sublist.map _)
  obtain ⟨l1, l2, hl⟩ := List.append_of_mem hmem
  rw [hl] at hdie hkeys ⊢
  rw [List.map_append, List.map_cons, List.nodup_middle, List.nodup_cons, List.mem_append, not_or] at hkeys
  obtain ⟨⟨h1, h2⟩, -⟩ := hkeys
  have hother : ∀ l : Tbl (Nat × Nat) RegEnt, (∀ e ∈ l, e.1.1 = die) → (die, rg) ∉ l.map (fun e => e.1) → ∀ e ∈ l, rg ≠ e.1.2 :=
    fun l hl hno e he hrg => hno (List.mem_map.2 ⟨e, he, Prod.ext (hl e he) hrg.symm⟩)
  refine ⟨s.windowRegs die l1, windowRegs_stays (hother l1 (fun e he => hdie e (List.mem_append_left _ he)) h1) s, ?_⟩
  have hlast := windowRegs_stays (die := die)
    (hother l2 (fun e he => hdie e (List.mem_append_right _ (List.mem_cons_of_mem _ he))) h2) ((s.windowRegs die l1).windowReg die rg r)
  unfold State.windowRegs at hlast ⊢
  rw [List.foldl_append]
  exact hlast

theorem readers_congr {s s' : State} (h : s'.coh.doms = s.coh.doms) (home region : Nat) (r : RegEnt) : s'.readers home region r = s.readers home region r := by
  unfold State.readers State.candDies State.regDoms State.dom
  rw [h]

theorem raises_congr {s s' : State} (h : s'.coh.doms = s.coh.doms) (home region : Nat) (r : RegEnt) : s'.raises home region r ↔ s.raises home region r := by
  rw [State.raises, State.raises, readers_congr h]

theorem lowers_congr {s s' : State} (h : s'.coh.doms = s.coh.doms) (home region : Nat) (r : RegEnt) : s'.lowers home region r ↔ s.lowers home region r := by
  rw [State.lowers, State.lowers, raises_congr h]

theorem candDies_pairwise (s : State) (home region : Nat) : (s.candDies home region).Pairwise (· < ·) :=
  List.Pairwise.filter _ List.pairwise_lt_range

section Windows
variable {s : State} {die rg : Nat} {r : RegEnt} (hr : tget s.coh.regs (die, rg) = some r) (hnodup : (s.coh.regs.map (fun e => e.1)).Nodup)
include hr hnodup

theorem windows_raise (h : s.raises die rg r) {d : Nat} (hd : d ∈ s.readers die rg r) (hnew : d ∉ r.holders)
    (hmost : ∀ e ∈ s.readers die rg r, e ∉ r.holders → tgetD r.reads e 0 ≤ tgetD r.reads d 0 ∧ (e < d → tgetD r.reads e 0 < tgetD r.reads d 0)) :
    tget (s.windowRegs die (s.tracked die)).coh.regs (die, rg)
      = some { r with degree := r.degree + 1, holders := r.holders ++ [d], reads := [], colls := 0 } := by
  obtain ⟨s1, hbefore, hafter⟩ := windows_step hr hnodup
  rw [hafter.reg]
  refine windowReg_raises_reg (hbefore.reg.trans hr) ((raises_congr hbefore.doms ..).2 h) ?_
  rw [readers_congr hbefore.doms]
  refine mostRead_eq (((candDies_pairwise ..).filter _).filter _) (List.mem_filter.2 ⟨hd, decide_eq_true hnew⟩) fun e he => ?_
  obtain ⟨he, hold⟩ := List.mem_filter.1 he
  exact hmost e he (of_decide_eq_true hold)

theorem windows_lower (h : s.lowers die rg r) {d : Nat} (hd : d ∈ r.holders) (hlt : d < 4)
    (hleast : ∀ e ∈ r.holders, e < 4 → tgetD r.reads d 0 ≤ tgetD r.reads e 0 ∧ (d < e → tgetD r.reads d 0 < tgetD r.reads e 0)) :
    tget (s.windowRegs die (s.tracked die)).coh.regs (die, rg)
      = some { r with degree := r.degree - 1, holders := r.holders.filter (fun e => e ≠ d), reads := [], colls := 0 }
    ∧ ∀ l ∈ s.coh.lines, memDie (l.1 * 128) = die → regionOf (l.1 * 128) = rg → d ∈ l.2.holders →
      ∃ c ∈ (s.windowRegs die (s.tracked die)).coh.colls, c.die = d ∧ c.line = l.1 := by
  obtain ⟨s1, hbefore, hafter⟩ := windows_step hr hnodup
  have hleastRead : leastRead r ((List.range 4).filter (fun d => d ∈ r.holders)) = some d := by
    refine leastRead_eq (List.pairwise_lt_range.filter _) (List.mem_filter.2 ⟨List.mem_range.2 hlt, decide_eq_true hd⟩) fun e he => ?_
    obtain ⟨he, hold⟩ := List.mem_filter.1 he
    exact hleast e (of_decide_eq_true hold) (List.mem_range.1 he)
  obtain ⟨hreg, hsent⟩ := windowReg_lowers_reg (hbefore.reg.trans hr) ((lowers_congr hbefore.doms ..).2 h) hleastRead
  refine ⟨hafter.reg.trans hreg, fun l hl hhome hregion hdl => ?_⟩
  obtain ⟨c, hc, hto⟩ := hsent l (hbefore.lines l hl ⟨hhome, hregion⟩) ⟨hhome, hregion⟩ hdl
  exact ⟨c, hafter.colls c hc, hto⟩

theorem windows_keep (hraise : ¬s.raises die rg r) (hlower : ¬s.lowers die rg r) :
    tget (s.windowRegs die (s.tracked die)).coh.regs (die, rg) = some { r with reads := [], colls := 0 } := by
  obtain ⟨s1, hbefore, hafter⟩ := windows_step hr hnodup
  exact hafter.reg.trans (windowReg_keeps_reg (hbefore.reg.trans hr) (mt (raises_congr hbefore.doms ..).1 hraise)
    (mt (lowers_congr hbefore.doms ..).1 hlower))

end Windows

/-! ## The statement -/

/-- Settles O29: each event of a replica by what it meets, a die's window by the one step of each of its regions. -/
theorem replicaEvents : Obligations.ReplicaEvents := by
  refine ⟨fun s => ⟨fun k hk => ?fill, fun c hc hid hawake => ?collapse, ?acknowledge, fun r hr => ?evict⟩,
    fun s => ⟨regionWindow_waits, fun h => ?window, candDies_iff s⟩⟩
  case fill =>
    intro waits
    refine ⟨fun h => congrArg Host.Outcome.next (replicaFill_waits hk h), fun h => ?_⟩
    cases hdis : k.discard with
    | false =>
      obtain ⟨hmem, hfills, hrep⟩ := replicaFill_arrives hk h hdis
      exact ⟨_, rfl, hmem, hfills, fun _ => hrep, fun h => absurd h (by decide)⟩
    | true =>
      exact ⟨_, congrArg Host.Outcome.next (replicaFill_dropped hk h hdis), rfl, tget_tdel_same .., fun h => absurd h (by decide), fun _ => rfl⟩
  case collapse =>
    obtain ⟨s', hexec, hleaves⟩ := collapse_arrives ⟨c, hc, hid⟩ hawake
    exact ⟨s', congrArg Host.Outcome.next hexec, hleaves⟩
  case acknowledge =>
    refine ⟨s.acked [s.subj.c], rfl, fun d hd hid => ?_⟩
    have hpaid : d ∈ s.owed.filter (fun d => !List.contains [s.subj.c] d.id) := acked_owed s [s.subj.c] ▸ hd
    simp [hid] at hpaid
  case evict => exact ⟨_, rfl, replicaEvict_leaves hr⟩
  case window =>
    refine ⟨_, regionWindow_ends h, windowRegs_mem .., List.mem_append_right _ (List.mem_singleton_self _), fun rg r hr => windows_cleared hr,
      fun rg r hr hnodup => ⟨fun hraise d hd hnew hmost => ?_, fun hlower d hd hlt hleast => ?_, fun hraise hlower => ?_⟩⟩
    · exact windows_raise hr hnodup hraise hd hnew hmost
    · exact windows_lower hr hnodup hlower hd hlt hleast
    · exact windows_keep hr hnodup hraise hlower

end Sys2Proof.Machine
end

section
/-! Interleave domains (R293, R305 to R308): the ranged write-back, and the switch from its start to its commit. -/

namespace Sys2Proof.Machine

/-! ## Write-back (R305, R306) -/

theorem l2Writeback_busy {s : State} (h : s.coh.busy = true) : exec .l2Writeback s = .next (s.endCycle.cwSet s.subj.d) := by
  simp only [exec, execL2Writeback, State.l2Writeback, h, if_true]

theorem l2Writeback_starts {s : State} (h : s.coh.busy = false) : exec .l2Writeback s = .next (({ s with coh := { s.coh with
    busy := true, ctlDoms := BitVec.ofNat 16 s.subj.a, writeback := BitVec.ofNat 16 s.subj.a } }.postEv .l2WritebackEnd).endCycle.cwSet s.subj.d) := by
  simp only [exec, execL2Writeback, State.l2Writeback, h, Bool.false_eq_true, if_false]

theorem inDoms_congr {s s' : State} (h : s'.coh = s.coh) (mask : BitVec 16) (pa : Nat) : s'.inDoms mask pa = s.inDoms mask pa := by
  unfold State.inDoms State.domainOf State.dom
  rw [h]

/-- R306: every line of the domains is clean, in the slices as they were. -/
theorem cleanDoms_coh (s : State) (mask : BitVec 16) : (s.cleanDoms mask).coh = { s.coh with
    lines := s.coh.lines.map (fun e => (e.1, { e.2 with dirty := e.2.dirty && !s.inDoms mask (e.1 * 128) })) } := by
  unfold State.cleanDoms
  dsimp only
  generalize hs1 : List.foldl _ s _ = s1
  have hcoh : s1.coh = s.coh := by
    rw [← hs1]
    exact foldl_same State.coh _ (fun _ _ => charge_coh ..) _ s
  simp only [inDoms_congr hcoh, hcoh]
  congr 1
  refine List.map_congr_left fun e _ => ?_
  cases s.inDoms mask (e.1 * 128) <;> simp

theorem cleanDoms_mem (s : State) (mask : BitVec 16) : (s.cleanDoms mask).mem = s.mem :=
  (foldl_same State.mem (fun s (e : Nat × Line) => s.charge e.2.owner.1 e.2.owner.2 (12 + memDie (e.1 * 128)) itemHbm 128)
    (fun _ _ => mem_charge ..) _ s :)

/-! ## The start of a switch (R307, R308) -/

theorem l2Switch_busy {s : State} (h : s.coh.busy = true) : exec .l2Switch s = .next (s.endCycle.cwSet s.subj.d) := by
  simp only [exec, execL2Switch, State.l2Switch, h, if_true]

theorem l2Switch_refused {s : State} (h : s.coh.busy = false)
    (hno : s.switchOk (BitVec.ofNat 16 s.subj.a) = false ∨ s.chainsOn (BitVec.ofNat 16 s.subj.a) = true) : exec .l2Switch s
      = .next (({ s with coh := { s.coh with ctlDoms := BitVec.ofNat 16 s.subj.a, refused := true } } : State).endCycle.cwSet s.subj.d) := by
  have hrefused : (!s.switchOk (BitVec.ofNat 16 s.subj.a) || s.chainsOn (BitVec.ofNat 16 s.subj.a)) = true := by
    rcases hno with h | h <;> simp [h]
  simp only [exec, execL2Switch, State.l2Switch, h, hrefused, Bool.false_eq_true, if_false, if_true]

theorem l2Switch_starts {s : State} (h : s.coh.busy = false) (hok : s.switchOk (BitVec.ofNat 16 s.subj.a) = true)
    (hchains : s.chainsOn (BitVec.ofNat 16 s.subj.a) = false) : exec .l2Switch s = .next (({ s with coh := { s.coh with
      ctlDoms := BitVec.ofNat 16 s.subj.a, refused := false, busy := true, switch := some ⟨BitVec.ofNat 16 s.subj.a⟩ } }.postEv
        .l2SwitchCommit).endCycle.cwSet s.subj.d) := by
  simp only [exec, execL2Switch, State.l2Switch, h, hok, hchains, Bool.not_true, Bool.or_self, Bool.false_eq_true, if_false]

/-! ## What a switch drops (R307 step 3) -/

/-- No line and no replica has come into a slice, and what a switch commits by is as before. -/
structure Shrinks (s s' : State) : Prop where
  lines : ∀ e ∈ s'.coh.lines, ∃ d ∈ s.coh.lines, d.1 = e.1
  replicas : ∀ e ∈ s'.coh.replicas, e ∈ s.coh.replicas
  doms : s'.coh.doms = s.coh.doms
  staged : s'.coh.staged = s.coh.staged
  lost : s'.coh.lost = s.coh.lost
  held : s'.coh.hwHeld = s.coh.hwHeld
  idle : s'.coh.switch = s.coh.switch ∧ s'.coh.busy = s.coh.busy

theorem Shrinks.of_coh {s s' : State} (h : s'.coh = s.coh) : Shrinks s s' :=
  ⟨fun e he => ⟨e, h ▸ he, rfl⟩, fun _ he => h ▸ he, congrArg Coh.doms h, congrArg Coh.staged h, congrArg Coh.lost h, congrArg Coh.hwHeld h,
    congrArg Coh.switch h, congrArg Coh.busy h⟩

theorem Shrinks.trans {s s' s'' : State} (h : Shrinks s s') (h' : Shrinks s' s'') : Shrinks s s'' := by
  refine ⟨fun e he => ?_, fun e he => h.replicas e (h'.replicas e he), h'.doms.trans h.doms, h'.staged.trans h.staged, h'.lost.trans h.lost,
    h'.held.trans h.held, h'.idle.1.trans h.idle.1, h'.idle.2.trans h.idle.2⟩
  obtain ⟨d, hd, hkey⟩ := h'.lines e he
  obtain ⟨c, hc, hkey'⟩ := h.lines d hd
  exact ⟨c, hc, hkey'.trans hkey⟩

theorem shrinks_foldl {ι : Type} (g : State → ι → State) (hg : ∀ s i, Shrinks s (g s i)) (l : List ι) (s : State) : Shrinks s (l.foldl g s) := by
  induction l generalizing s with
  | nil => exact .of_coh rfl
  | cons i l ih => exact (hg s i).trans (ih _)

/-- Writing an entry that a table lists adds no key to it. -/
theorem key_of_mem_tset {κ α : Type} [DecidableEq κ] {t : Tbl κ α} {k : κ} {a b : α} (hk : tget t k = some b) {e : κ × α} (he : e ∈ tset t k a) :
    ∃ d ∈ t, d.1 = e.1 := by
  rcases mem_tset he with rfl | he
  · exact ⟨_, mem_of_tget hk, rfl⟩
  · exact ⟨e, he, rfl⟩

theorem shrinks_hwCollapse (s : State) (line : Nat) : Shrinks s (s.hwCollapse line) := by
  unfold State.hwCollapse
  split
  · exact .of_coh rfl
  · next x hx =>
    exact ⟨fun e he => key_of_mem_tset hx he, fun e he => (List.mem_filter.1 he).1, rfl, rfl, rfl, rfl, rfl, rfl⟩

theorem hwCollapse_mem (s : State) (line : Nat) : (s.hwCollapse line).mem = s.mem := by
  unfold State.hwCollapse
  split <;> rfl

theorem shrinks_dropLine (s : State) (line : Nat) : Shrinks s (s.dropLine line) := by
  have hcoh := dropLine_coh s line
  refine ⟨fun e he => ⟨e, ?_, rfl⟩, fun e he => ?_, by rw [hcoh], by rw [hcoh], by rw [hcoh], by rw [hcoh], by rw [hcoh], by rw [hcoh]⟩
  · rw [hcoh] at he
    exact (mem_tdel.1 he).1
  · rw [hcoh] at he
    exact he

/-- R307 step 3: a line leaves its slice once its replicas have collapsed. -/
def State.expelLine (s : State) (line : Nat) : State := (s.hwCollapse line).dropLine line

theorem shrinks_expelLine (s : State) (line : Nat) : Shrinks s (s.expelLine line) := (shrinks_hwCollapse s line).trans (shrinks_dropLine ..)

theorem expelLine_gone (s : State) (line : Nat) : ∀ e ∈ (s.expelLine line).coh.lines, e.1 ≠ line := fun e he => by
  rw [State.expelLine, dropLine_coh] at he
  exact (mem_tdel.1 he).2

/-- The lines of a list leave their slices. -/
def State.expelLines (s : State) (l : Tbl Nat Line) : State := l.foldl (fun s e => s.expelLine e.1) s

theorem shrinks_expelLines (s : State) (l : Tbl Nat Line) : Shrinks s (s.expelLines l) :=
  shrinks_foldl _ (fun s (e : Nat × Line) => shrinks_expelLine s e.1) l s

theorem expelLines_gone {e : Nat × Line} : ∀ (l : Tbl Nat Line) (s : State), e ∈ l → ∀ d ∈ (s.expelLines l).coh.lines, d.1 ≠ e.1
  | [], _, he, _, _ => absurd he List.not_mem_nil
  | c :: l, s, he, d, hd => by
    have hrest : d ∈ ((s.expelLine c.1).expelLines l).coh.lines := hd
    rcases List.mem_cons.1 he with rfl | he
    · obtain ⟨b, hb, hkey⟩ := (shrinks_expelLines (s.expelLine e.1) l).lines d hrest
      rw [← hkey]
      exact expelLine_gone s e.1 b hb
    · exact expelLines_gone l (s.expelLine c.1) he d hrest

/-- The state without the lines of a switch's ranges. -/
def State.expelSwitched (s : State) : State := s.expelLines (s.coh.lines.filter (fun e => s.switching (e.1 * 128)))

theorem dropLines_eq (s : State) : s.dropLines = { s.expelSwitched with coh := { s.expelSwitched.coh with
    replicas := s.expelSwitched.coh.replicas.filter (fun e => !s.switching (e.1.2 * 128))
    regs := s.expelSwitched.coh.regs.filter (fun e => !((List.range 32).any (fun i => s.switching ((e.1.2 * 16384 + i * 512) * 128)))) } } := rfl

theorem shrinks_expelSwitched (s : State) : Shrinks s s.expelSwitched := shrinks_expelLines ..

theorem shrinks_dropLines (s : State) : Shrinks s s.dropLines := by
  rw [dropLines_eq]
  refine (shrinks_expelSwitched s).trans ⟨fun e he => ⟨e, he, rfl⟩, fun e he => (List.mem_filter.1 he).1, rfl, rfl, rfl, rfl, rfl, rfl⟩

theorem dropLines_mem (s : State) : s.dropLines.mem = s.mem :=
  (foldl_same State.mem (fun s (e : Nat × Line) => s.expelLine e.1) (fun s e => (dropLine_mem ..).trans (hwCollapse_mem s e.1)) _ s :)

/-- R307 step 3: no line and no replica of the switch's ranges is left. -/
theorem dropLines_clear (s : State) : (∀ e ∈ s.dropLines.coh.lines, s.switching (e.1 * 128) = false)
    ∧ ∀ e ∈ s.dropLines.coh.replicas, s.switching (e.1.2 * 128) = false := by
  rw [dropLines_eq]
  refine ⟨fun e he => ?_, fun e he => by simpa using (List.mem_filter.1 he).2⟩
  obtain ⟨d, hd, hkey⟩ := (shrinks_expelSwitched s).lines e he
  by_contra hout
  have hin : s.switching (d.1 * 128) = true := by rw [hkey]; simpa using hout
  exact expelLines_gone _ s (List.mem_filter.2 ⟨hd, hin⟩) e he hkey.symm

/-! ## The commit of a switch (R307 steps 4 and 5) -/

section Tables
variable {κ α : Type} [DecidableEq κ]

/-- A table after one write to each of some keys. -/
theorem tget_foldl_tset (g : κ → α) (k : κ) : ∀ (l : List κ) (t : Tbl κ α),
    tget (l.foldl (fun t i => tset t i (g i)) t) k = if k ∈ l then some (g k) else tget t k
  | [], t => by simp
  | i :: l, t => by
    rw [List.foldl_cons, tget_foldl_tset g k l, tget_tset]
    by_cases hl : k ∈ l
    · simp [hl]
    · by_cases hi : k = i
      · subst hi
        simp
      · simp [hl, hi]

end Tables

/-- The numbers of a switch's domains on every die. -/
def switchKeys (mask : BitVec 16) : List Nat := (List.range 64).filter (fun i => mask.getLsbD (i % 16))

theorem mem_switchKeys (mask : BitVec 16) {die k : Nat} (hdie : die < 4) (hk : k < 16) : 16 * die + k ∈ switchKeys mask ↔ mask.getLsbD k = true := by
  have hmod : (16 * die + k) % 16 = k := by omega
  have hlt : 16 * die + k < 64 := by omega
  rw [switchKeys, List.mem_filter, hmod]
  exact and_iff_right (List.mem_range.2 hlt)

theorem commitDoms_coh (s : State) (mask : BitVec 16) : (s.commitDoms mask).coh = { s.coh with
    doms := (switchKeys mask).foldl (fun d i => tset d i (s.stagedDom (i / 16) (i % 16))) s.coh.doms
    staged := s.coh.staged.filter (fun e => !(switchKeys mask).contains e.1)
    switch := none, busy := false } := rfl

section Commit
variable (s : State) (mask : BitVec 16) {die k : Nat} (hdie : die < 4) (hk : k < 16)
include hdie hk

/-- R307 step 4: the staged words of the named domains are current, and no other's. -/
theorem commitDoms_dom : (s.commitDoms mask).dom die k = if mask.getLsbD k then s.stagedDom die k else s.dom die k := by
  have hdiv : (16 * die + k) / 16 = die := by omega
  have hmod : (16 * die + k) % 16 = k := by omega
  rw [State.dom, tgetD, commitDoms_coh, tget_foldl_tset, hdiv, hmod]
  simp only [mem_switchKeys mask hdie hk]
  split <;> rfl

theorem commitDoms_staged (hin : mask.getLsbD k = true) : (s.commitDoms mask).stagedDom die k = (s.commitDoms mask).dom die k := by
  have hnone : tget (s.commitDoms mask).coh.staged (16 * die + k) = none := by
    rw [commitDoms_coh]
    refine (tget_filter_key s.coh.staged (fun i => !(switchKeys mask).contains i) _).trans (if_neg ?_)
    simpa using (mem_switchKeys mask hdie hk).2 hin
  rw [State.stagedDom, tgetD, hnone]
  rfl

end Commit

theorem shrinks_hwPerform (s : State) (a : Nat) (bs : List Byte) : Shrinks s (s.hwPerform a bs) := by
  unfold State.hwPerform
  split
  · exact .of_coh rfl
  · generalize hs1 : ({ s with mem := _, memBad := _ } : State) = s1
    refine Shrinks.trans (s' := s1) (.of_coh (by rw [← hs1])) (shrinks_foldl _ (fun s i => ?_) _ _)
    refine (shrinks_hwCollapse s (lineOf a + i)).trans ⟨fun e he => ?_, fun _ he => he, rfl, rfl, rfl, rfl, rfl, rfl⟩
    have he' : e ∈ tmod (s.hwCollapse (lineOf a + i)).coh.lines (lineOf a + i) (fun l => { l with dirty := true }) := he
    unfold tmod at he'
    split at he'
    · exact ⟨e, he', rfl⟩
    · next hx => exact key_of_mem_tset hx he'

/-- R300: the hardware's write to a die that is not lost performs. -/
theorem hwPerform_mem {s : State} (hlost : s.coh.lost = []) (a : Nat) (bs : List Byte) : (s.hwPerform a bs).mem = wrN s.mem a bs := by
  have hserved : s.coh.lost.contains (12 + memDie a) = false := by rw [hlost]; rfl
  unfold State.hwPerform
  rw [hserved, if_neg Bool.false_ne_true]
  refine (foldl_same State.mem _ (fun s i => ?_) _ _).trans rfl
  exact (hwCollapse_mem s (lineOf a + i) :)

theorem hwPerforms_mem : ∀ (ws : List (Nat × List Byte)) (s : State), s.coh.lost = [] →
    (ws.foldl (fun s w => s.hwPerform w.1 w.2) s).mem = ws.foldl (fun m w => wrN m w.1 w.2) s.mem
  | [], _, _ => rfl
  | w :: ws, s, hlost => by
    rw [List.foldl_cons, hwPerforms_mem ws _ ((shrinks_hwPerform s w.1 w.2).lost.trans hlost), hwPerform_mem hlost]
    rfl

/-- R307 step 5: the held writes perform; what then waits on a queue is only tested. -/
theorem replayHw_replays (s : State) (hlost : s.coh.lost = []) : Shrinks { s with coh := { s.coh with hwHeld := [] } } s.replayHw
    ∧ s.replayHw.mem = s.coh.hwHeld.foldl (fun m w => wrN m w.1 w.2) s.mem := by
  generalize hs1 : ({ s with coh := { s.coh with hwHeld := [] } } : State) = s1
  generalize hs2 : s.coh.hwHeld.foldl (fun s w => s.hwPerform w.1 w.2) s1 = s2
  have heq : s.replayHw = s2.parts.foldl (fun s e => s.retestQueues e.1) s2 := by rw [← hs2, ← hs1]; rfl
  have hcoh : s.replayHw.coh = s2.coh := heq ▸ foldl_same State.coh _ (fun _ _ => foldl_same State.coh _ (fun _ _ => by rfl) _ _) _ s2
  have hmem : s.replayHw.mem = s2.mem := heq ▸ foldl_same State.mem _ (fun _ _ => foldl_same State.mem _ (fun _ _ => by rfl) _ _) _ s2
  have hshrinks : Shrinks s1 s2 := hs2 ▸ shrinks_foldl _ (fun s (w : Nat × List Byte) => shrinks_hwPerform s w.1 w.2) _ s1
  refine ⟨hshrinks.trans (.of_coh hcoh), hmem.trans ?_⟩
  rw [← hs2, hwPerforms_mem _ s1 (by rw [← hs1]; exact hlost), ← hs1]

/-! ## The commit event -/

section SwitchCommit
variable {s : State} {w : Switch} (hw : s.coh.switch = some w)
include hw

theorem l2SwitchCommit_waits (h : s.drained = false) : exec .l2SwitchCommit s = .next (s.postEv .l2SwitchCommit) := by
  simp only [exec, execL2SwitchCommit, hw, h, Bool.not_false, if_true]

/-- R307 steps 3 to 5, where no LDMC request has to be sent to new homes. -/
theorem l2SwitchCommit_exec (h : s.drained = true) (hmc : s.coh.mc = []) :
    exec .l2SwitchCommit s = .next (s.dropLines.commitDoms w.doms).replayHw := by
  simp only [exec, execL2SwitchCommit, hw, h, hmc, Bool.not_true, Bool.false_eq_true, if_false, List.filter_nil, List.foldl_nil]

end SwitchCommit

theorem dom_congr {s s' : State} (h : s'.coh.doms = s.coh.doms) (die k : Nat) : s'.dom die k = s.dom die k := by rw [State.dom, State.dom, h]

theorem stagedDom_congr {s s' : State} (hdoms : s'.coh.doms = s.coh.doms) (hstaged : s'.coh.staged = s.coh.staged) (die k : Nat) :
    s'.stagedDom die k = s.stagedDom die k := by
  rw [State.stagedDom, State.stagedDom, hstaged, dom_congr hdoms]

/-- What a switch leaves that has committed. -/
structure Switched (s s' : State) (mask : BitVec 16) : Prop where
  mem : s'.mem = s.coh.hwHeld.foldl (fun m w => wrN m w.1 w.2) s.mem
  held : s'.coh.hwHeld = []
  busy : s'.coh.busy = false
  switch : s'.coh.switch = none
  doms : ∀ die k, die < 4 → k < 16 → s'.dom die k = if mask.getLsbD k then s.stagedDom die k else s.dom die k
  lines : ∀ e ∈ s'.coh.lines, s.switching (e.1 * 128) = false
  replicas : ∀ e ∈ s'.coh.replicas, s.switching (e.1.2 * 128) = false
  staged : ∀ die k, die < 4 → k < 16 → mask.getLsbD k = true → s'.stagedDom die k = s'.dom die k

theorem switched_commit {s : State} (hlost : s.coh.lost = []) (mask : BitVec 16) : Switched s (s.dropLines.commitDoms mask).replayHw mask := by
  have hdrop := shrinks_dropLines s
  obtain ⟨hreplay, hmem⟩ := replayHw_replays (s.dropLines.commitDoms mask) (hdrop.lost.trans hlost)
  generalize (s.dropLines.commitDoms mask).replayHw = s' at hreplay hmem
  have hdom : ∀ die k, s'.dom die k = (s.dropLines.commitDoms mask).dom die k := fun die k => dom_congr hreplay.doms die k
  obtain ⟨hlines, hreplicas⟩ := dropLines_clear s
  refine ⟨?mem, hreplay.held, hreplay.idle.2, hreplay.idle.1, fun die k hdie hk => ?doms, fun e he => ?lines,
    fun e he => hreplicas e (hreplay.replicas e he), fun die k hdie hk hin => ?staged⟩
  case mem =>
    rw [hmem]
    exact congrArg₂ (fun l m => List.foldl (fun m w => wrN m w.1 w.2) m l) hdrop.held (dropLines_mem s)
  case doms => rw [hdom, commitDoms_dom _ mask hdie hk, stagedDom_congr hdrop.doms hdrop.staged, dom_congr hdrop.doms]
  case lines =>
    obtain ⟨d, hd, hkey⟩ := hreplay.lines e he
    rw [← hkey]
    exact hlines d hd
  case staged => rw [stagedDom_congr hreplay.doms hreplay.staged die k, hdom, ← commitDoms_staged _ mask hdie hk hin]; rfl

end Sys2Proof.Machine
end

section
/-! Invalidations of translations and range commits (R314 to R319). -/

namespace Sys2Proof.Machine

/-! ## Lanes that walk again (R246, R314, R317) -/

/-- What neither a lane nor the activities to come change, lanes that walk again do not change. -/
theorem rewalk_same {α : Type} (proj : State → α) (hlane : ∀ s a l g, proj (State.modLane s a l g) = proj s)
    (hpost : ∀ s i x, proj (State.postEv s i x) = proj s) (s : State) (p : Nat) (hit : Int → Bool) : proj (s.rewalk p hit) = proj s :=
  foldl_same proj _ (fun s e => foldl_same proj _ (fun s m => by
    split
    · exact (hpost ..).trans (hlane ..)
    · rfl) _ s) _ s

theorem rewalk_coh (s : State) (p : Nat) (hit : Int → Bool) : (s.rewalk p hit).coh = s.coh :=
  rewalk_same State.coh (fun _ _ _ _ => rfl) (fun _ _ _ => rfl) s p hit

theorem rewalk_mem (s : State) (p : Nat) (hit : Int → Bool) : (s.rewalk p hit).mem = s.mem :=
  rewalk_same State.mem (fun _ _ _ _ => rfl) (fun _ _ _ => rfl) s p hit

theorem rewalk_parts (s : State) (p : Nat) (hit : Int → Bool) : (s.rewalk p hit).parts = s.parts :=
  rewalk_same State.parts (fun _ _ _ _ => rfl) (fun _ _ _ => rfl) s p hit

/-! ## Invalidations (R314) -/

/-- The entries of a table of TLBs that an invalidation leaves. -/
theorem kept_valid {κ : Type} [DecidableEq κ] (t : Tbl κ (List TlbEnt)) (p size : Nat) (page : Int) (y : κ) :
    ∀ e ∈ tgetD (t.map (fun e => (e.1, e.2.filter (fun e => !e.invalid p size page)))) y [], e.invalid p size page = false := by
  intro e he
  rw [tgetD, tget_map_snd t (fun e => e.2.filter (fun e => !e.invalid p size page))] at he
  cases ht : tget t y with
  | none =>
    rw [ht] at he
    exact absurd he List.not_mem_nil
  | some es =>
    rw [ht] at he
    simpa using (List.mem_filter.1 he).2

section Invalidate
variable {s : State} {v : Part} (hv : tget s.parts s.subj.a = some v)
include hv

theorem mmuInvalidate_none (h : nfld s.subj.v.toNat 0 1 = 0 ∨ v.invst.isSome = true) : exec .mmuInvalidate s = .next (s.cwSet s.subj.d) := by
  simp only [exec, execMmuInvalidate, State.mmuInvalidate, hv, if_pos h]

theorem mmuInvalidate_starts (hgo : nfld s.subj.v.toNat 0 1 = 1) (hfree : v.invst = none) :
    exec .mmuInvalidate s = .next (((s.setPart s.subj.a { v with invst := some (nfld s.subj.v.toNat 2 2,
      (BitVec.ofNat 64 (nfld s.subj.v.toNat 16 48 * 2 ^ 16)).toInt, []) }).postEv .mmuInvalidateComplete { a := s.subj.a }).cwSet s.subj.d) := by
  have hstart : ¬(nfld s.subj.v.toNat 0 1 = 0 ∨ v.invst.isSome = true) := by simp [hgo, hfree]
  simp only [exec, execMmuInvalidate, State.mmuInvalidate, hv, if_neg hstart]
  rfl

variable {size : Nat} {page : Int} {g : List Nat} (hinv : v.invst = some (size, page, g))
include hinv

/-- R314: the entries that meet the page leave first. -/
theorem mmuInvalidateComplete_drops (hphase : s.subj.c = 0) : ∃ s', exec .mmuInvalidateComplete s = .next s' ∧ s'.mem = s.mem
    ∧ (∀ y e, e ∈ tgetD s'.coh.tlb1 y [] → e.invalid s.subj.a size page = false)
    ∧ (∀ d e, e ∈ tgetD s'.coh.tlb2 d [] → e.invalid s.subj.a size page = false)
    ∧ (s'.part s.subj.a).invst = some (size, page, s.pageUsers s.subj.a (invalHits size page))
    ∧ Act.ev .mmuInvalidateComplete { a := s.subj.a, c := 1 } ∈ s'.agenda := by
  generalize hs1 : (s.dropTlb s.subj.a size page).rewalk s.subj.a (invalHits size page) = s1
  generalize hgate : s.pageUsers s.subj.a (invalHits size page) = gate
  have hexec : exec .mmuInvalidateComplete s
      = .next ((s1.setPart s.subj.a { v with invst := some (size, page, gate) }).postEv .mmuInvalidateComplete { a := s.subj.a, c := 1 }) := by
    simp only [exec, execMmuInvalidateComplete, hv, hinv, hphase, hs1, hgate, if_true]
  have hcoh : s1.coh = (s.dropTlb s.subj.a size page).coh := hs1 ▸ rewalk_coh ..
  have hmem : s1.mem = s.mem := hs1 ▸ rewalk_mem ..
  refine ⟨_, hexec, hmem, fun y e he => ?_, fun d e he => ?_, ?_, List.mem_append_right _ (List.mem_singleton_self _)⟩
  · rw [State.postEv_coh, State.setPart_coh, hcoh] at he
    exact kept_valid s.coh.tlb1 s.subj.a size page y e he
  · rw [State.postEv_coh, State.setPart_coh, hcoh] at he
    exact kept_valid s.coh.tlb2 s.subj.a size page d e he
  · exact congrArg Part.invst ((State.setPart_part ..).trans (if_pos rfl))

variable (hphase : s.subj.c ≠ 0)
include hphase

theorem mmuInvalidateComplete_waits (h : s.pageUsed s.subj.a (invalHits size page) g = true ∨ s.flightHits s.subj.a (invalHits size page) = true) :
    exec .mmuInvalidateComplete s = .next (s.postEv .mmuInvalidateComplete s.subj) := by
  have hbusy : (s.pageUsed s.subj.a (invalHits size page) g || s.flightHits s.subj.a (invalHits size page)) = true := Bool.or_eq_true_iff.2 h
  simp only [exec, execMmuInvalidateComplete, hv, hinv, hphase, hbusy, if_false, if_true]

theorem mmuInvalidateComplete_ends (hused : s.pageUsed s.subj.a (invalHits size page) g = false)
    (hflight : s.flightHits s.subj.a (invalHits size page) = false) : exec .mmuInvalidateComplete s
      = .next ((s.setPart s.subj.a { v with invst := none }).killUnmapped s.subj.a (invalHits size page)) := by
  simp only [exec, execMmuInvalidateComplete, hv, hinv, hphase, hused, hflight, Bool.or_self, Bool.false_eq_true, if_false]

end Invalidate

/-- R232: a partition without queues loses none. -/
theorem killUnmapped_none {s : State} {p : Nat} (h : ∀ q ∈ s.queues ++ s.unusedQueues s.mem, q.part ≠ p) (hit : Int → Bool) :
    s.killUnmapped p hit = s := by
  have hnone : (s.queues ++ s.unusedQueues s.mem).filter (fun q => q.part = p) = [] :=
    List.filter_eq_nil_iff.2 fun q hq => by simpa using h q hq
  rw [State.killUnmapped, hnone]
  rfl

/-! ## The table of a range commit (R315 to R318) -/

section Read
variable {s : State} {c : Commit} (hc : (s.part s.subj.a).commit = some c) (hst : c.staged = none) (hidle : s.idleSite c.site = false)
  (haway : s.away c.site c.who.inv = false)
include hc hst hidle haway

theorem rangeTableRead_misaligned (hal : c.table % 1024 ≠ 0) : exec .rangeTableRead s = .next (s.failCommit s.subj.a c 2 0) := by
  simp only [exec, execRangeTableRead, hc, hst, hidle, haway, hal, Option.isSome_none, Bool.or_self, Bool.false_eq_true, if_false]

variable (hal : c.table % 1024 = 0) {b : State}
include hal

theorem rangeTableRead_fails (hread : s.readRange c.who c.table 1024 = .fail b) : exec .rangeTableRead s = .next (b.failCommit s.subj.a c 2 0) := by
  simp only [exec, execRangeTableRead, hc, hst, hidle, haway, hal, hread, Option.isSome_none, Bool.or_self, Bool.false_eq_true, if_false, if_true]

theorem rangeTableRead_waits (hread : s.readRange c.who c.table 1024 = .wait b) :
    exec .rangeTableRead s = .next (b.postEv .rangeTableRead { a := s.subj.a }) := by
  simp only [exec, execRangeTableRead, hc, hst, hidle, haway, hal, hread, Option.isSome_none, Bool.or_self, Bool.false_eq_true, if_false, if_true]

variable {bs : List Byte} (hread : s.readRange c.who c.table 1024 = .ok b bs)
include hread

theorem rangeTableRead_bad {i : Nat} (hset : b.rangeSet s.subj.a bs (List.range 32) = .error i) :
    exec .rangeTableRead s = .next (b.failCommit s.subj.a c 3 i) := by
  simp only [exec, execRangeTableRead, hc, hst, hidle, haway, hal, hread, hset, Option.isSome_none, Bool.or_self, Bool.false_eq_true, if_false, if_true]

/-- R317 steps 3 and 4: the new set is staged, and what the old one translated is gathered. -/
theorem rangeTableRead_stages {v : Part} (hv : tget b.parts s.subj.a = some v) {rs : Tbl Nat RangeReg}
    (hset : b.rangeSet s.subj.a bs (List.range 32) = .ok rs) : ∃ s', exec .rangeTableRead s = .next s' ∧ s'.mem = b.mem
      ∧ s'.part s.subj.a = { v with commit := some { c with staged := some rs, gate := b.pageUsers s.subj.a v.inRanges } }
      ∧ Act.ev .rangeCommitSwitch { a := s.subj.a } ∈ s'.agenda := by
  generalize hs1 : (b.setPart s.subj.a { v with commit := some { c with staged := some rs, gate := b.pageUsers s.subj.a v.inRanges } }).rewalk
    s.subj.a v.inRanges = s1
  have hexec : exec .rangeTableRead s = .next (s1.postEv .rangeCommitSwitch { a := s.subj.a }) := by
    simp only [exec, execRangeTableRead, hc, hst, hidle, haway, hal, hread, hset, modPart_of_tget hv, part_of_tget hv, hs1, Option.isSome_none,
      Bool.or_self, Bool.false_eq_true, if_false, if_true]
  refine ⟨_, hexec, hs1 ▸ rewalk_mem .., ?_, List.mem_append_right _ (List.mem_singleton_self _)⟩
  have hpart : s1.part s.subj.a = _ := (State.part_congr (hs1 ▸ rewalk_parts ..) _).trans ((State.setPart_part ..).trans (if_pos rfl))
  exact hpart

end Read

/-! ## The switch of a range commit (R317, R319) -/

theorem tset_tset {κ α : Type} [DecidableEq κ] (t : Tbl κ α) (k : κ) (a b : α) : tset (tset t k a) k b = tset t k b := by
  induction t with
  | nil => simp [tset]
  | cons e t ih =>
    obtain ⟨j, d⟩ := e
    by_cases hj : j = k
    · simp [tset, hj]
    · simp [tset, hj, ih]

theorem setPart_setPart (s : State) (p : Nat) (v w : Part) : (s.setPart p v).setPart p w = s.setPart p w := by
  simp only [State.setPart, tset_tset]

/-- R317 step 4: an access or a copy that the old set translated has yet to perform, or the hardware holds a write. -/
def State.commitBusy (s : State) (p : Nat) (v : Part) (c : Commit) : Prop :=
  s.pageUsed p v.inRanges c.gate = true ∨ s.flightHits p v.inRanges = true ∨ s.coh.hwHeld ≠ []

theorem commitBusy_iff (s : State) (p : Nat) (v : Part) (c : Commit) :
    (s.pageUsed p v.inRanges c.gate || s.flightHits p v.inRanges || !s.coh.hwHeld.isEmpty) = true ↔ s.commitBusy p v c := by
  simp only [Bool.or_eq_true, Bool.not_eq_true', List.isEmpty_eq_false_iff, or_assoc, State.commitBusy]

section Switch
variable {s : State} {v : Part} {c : Commit} {rs : Tbl Nat RangeReg} (hv : tget s.parts s.subj.a = some v) (hc : v.commit = some c)
  (hst : c.staged = some rs)
include hv hc hst

theorem rangeCommitSwitch_waits (h : s.commitBusy s.subj.a v c) : exec .rangeCommitSwitch s = .next (s.postEv .rangeCommitSwitch { a := s.subj.a }) := by
  simp only [exec, execRangeCommitSwitch, part_of_tget hv, hc, hst, (commitBusy_iff s s.subj.a v c).2 h, if_true]

/-- R317 step 6, R319: the staged set is current, the commit is counted, and its semaphore will be raised. -/
theorem rangeCommitSwitch_ends (h : ¬s.commitBusy s.subj.a v c) : exec .rangeCommitSwitch s = .next ((s.setPart s.subj.a { v with
    ranges := rs, commit := none, rcstat := w32 (2 ^ 31 + (nfld v.rcstat.toNat 0 8 + 1) % 256) }).queueSem c.site c.sem 1 false [] 3 c.who.inv) := by
  have hset : tget (s.setPart s.subj.a { v with ranges := rs }).parts s.subj.a = some { v with ranges := rs } := tget_tset_same ..
  have hword : rcWord v.rcstat false 0 0 = w32 (2 ^ 31 + (nfld v.rcstat.toNat 0 8 + 1) % 256) := by
    simp only [rcWord, Bool.false_eq_true, if_false, Nat.zero_mul, Nat.add_zero]
    rfl
  have hidle := mt (commitBusy_iff s s.subj.a v c).1 h
  have hexec : exec .rangeCommitSwitch s = .next ((s.modPart s.subj.a (fun v => { v with ranges := rs })).endCommit s.subj.a c false 0 0) := by
    simp only [exec, execRangeCommitSwitch, part_of_tget hv, hc, hst, if_neg hidle]
  rw [hexec, modPart_of_tget hv, State.endCommit, modPart_of_tget hset]
  simp only [setPart_setPart, hword]

end Switch

/-! ## The entries of a range table (R315) -/

theorem rangeEntry_disabled {s : State} {p : Nat} {bs : List Byte} {i : Nat} (h : nfld (pktN ((bs.drop (32 * i)).take 32) 0x18 4) 0 1 = 0) :
    s.rangeEntry p bs i = .ok none := if_pos h

/-- R315: what an entry that fills a register keeps. -/
theorem rangeEntry_enabled {s : State} {p : Nat} {bs : List Byte} {i : Nat} {r : RangeReg} {e : List Byte} (he : e = (bs.drop (32 * i)).take 32)
    (h : s.rangeEntry p bs i = .ok (some r)) : nfld (pktN e 0x18 4) 0 1 = 1 ∧ r.vbase = tblAddr e 0 ∧ r.vlimit = tblAddr e 8 ∧ r.pbase = pktN e 0x10 8
      ∧ (r.write = true ↔ nfld (pktN e 0x18 4) 1 1 = 1) ∧ r.repl = nfld (pktN e 0x18 4) 2 3 ∧ tblAddr e 0 % 65536 = 0 ∧ tblAddr e 8 % 65536 = 0
      ∧ tblAddr e 0 < tblAddr e 8 ∧ r.pbase % 65536 = 0 ∧ r.repl ≤ 4 ∧ nfld (pktN e 0x18 4) 5 27 = 0 ∧ pktN e 0x1C 4 = 0 := by
  unfold State.rangeEntry at h
  rw [← he] at h
  dsimp only at h
  split at h
  · cases h
  · next hon =>
    split at h
    · next hrules =>
      obtain ⟨hvb, -, hvl, hlt, -, hpb, -, hrepl, hres, hzero⟩ := hrules
      cases h
      have hbit : nfld (pktN e 0x18 4) 0 1 = 1 := by
        have : nfld (pktN e 0x18 4) 0 1 < 2 := Nat.mod_lt _ (by decide)
        omega
      exact ⟨hbit, rfl, rfl, rfl, beq_iff_eq, rfl, hvb, hvl, hlt, hpb, hrepl, hres, hzero⟩
    · cases h

/-! ## The statement -/

/-- Settles O52: the write-back and the switch from the state of the slices, an invalidation and a range commit from the partition's words. -/
theorem domainsAndTranslations : Obligations.DomainsAndTranslations := by
  refine ⟨fun s => ⟨fun h => ⟨l2Writeback_busy h, l2Switch_busy h⟩, l2Writeback_starts, ?clean, l2Switch_refused, l2Switch_starts,
    fun w hw => l2SwitchCommit_waits hw, fun w hw hdrained hmc hlost => ?commit⟩, fun s v hv => ?translations⟩
  case clean =>
    refine ⟨_, rfl, rfl, cleanDoms_mem s s.coh.writeback, ?_, ?_⟩
    · exact (congrArg Coh.replicas (cleanDoms_coh s s.coh.writeback) :)
    · exact (congrArg Coh.lines (cleanDoms_coh s s.coh.writeback) :)
  case commit =>
    obtain ⟨hmem, hheld, hbusy, hswitch, hdoms, hlines, hreplicas, hstaged⟩ := switched_commit hlost w.doms
    exact ⟨_, l2SwitchCommit_exec hw hdrained hmc, hmem, hheld, hbusy, hswitch, hdoms, hlines, hreplicas, hstaged⟩
  case translations =>
    have hpart := part_of_tget hv
    refine ⟨mmuInvalidate_none hv, mmuInvalidate_starts hv, fun size page g hinv => ?invalidation, fun c hc hst hidle haway => ?table,
      fun c rs hc hst => ⟨rangeCommitSwitch_waits hv hc hst, rangeCommitSwitch_ends hv hc hst⟩,
      fun bs i => ⟨rangeEntry_disabled, fun r => rangeEntry_enabled rfl⟩⟩
    case invalidation =>
      refine ⟨mmuInvalidateComplete_drops hv hinv, mmuInvalidateComplete_waits hv hinv, fun hphase hused hflight => ?_⟩
      have hends := mmuInvalidateComplete_ends hv hinv hphase hused hflight
      exact ⟨hends, fun hnone => hends.trans (congrArg Host.Outcome.next (killUnmapped_none hnone _))⟩
    case table =>
      have hc' : (s.part s.subj.a).commit = some c := by rw [hpart, hc]
      refine ⟨rangeTableRead_misaligned hc' hst hidle haway, fun b hal hread => rangeTableRead_fails hc' hst hidle haway hal hread,
        fun b hal hread => rangeTableRead_waits hc' hst hidle haway hal hread,
        fun b bs hal hread hvb => ⟨fun i => rangeTableRead_bad hc' hst hidle haway hal hread, fun rs hset => ?_⟩⟩
      obtain ⟨s', hexec, hmem, hstaged, hact⟩ := rangeTableRead_stages hc' hst hidle haway hal hread hvb hset
      exact ⟨s', _, hexec, hmem, congrArg Part.commit hstaged, rfl, rfl, rfl, by rw [hstaged], hact⟩

end Sys2Proof.Machine
end

section
/-! Launches in their states (R54, R332, R333, R336, R340, R341, R429): the packet that a command flit joins, what the trailhead does
in Check, Image, Place and Arm, and the start of a die's tokens. -/

namespace Sys2Proof.Machine

/-! ## Launches after an update -/

theorem launch_congr {s s' : State} (h : s'.launches = s.launches) (l : Nat) : s'.launch? l = s.launch? l := congrArg (tget · l) h

theorem modLaunch_launch {s : State} {l : Nat} {v : Launch} (h : s.launch? l = some v) (g : Launch → Launch) :
    (s.modLaunch l g).launch? l = some (g v) := by
  have hv : tget s.launches l = some v := h
  rw [State.launch?, State.modLaunch, tget_tmod, if_pos rfl, hv]
  rfl

/-- Events posted one after another join what is pending, in order. -/
theorem foldl_postEv {ι : Type} (i : Instr) (x : ι → Subj) (es : List ι) (s : State) :
    es.foldl (fun s e => s.postEv i (x e)) s = { s with agenda := s.agenda ++ es.map (fun e => .ev i (x e)) } := by
  induction es generalizing s with
  | nil => simp
  | cons e es ih => rw [List.foldl_cons, ih]; simp [State.postEv, State.post]

/-! ## Command flits (R337, R429) -/

/-- R429: the packet is the one that the flit belongs to. -/
def Flit.joinsTo (f : Flit) (m : Packet) : Bool := m.part == f.part && m.src == f.src && m.tag == fld f.word 3 8

/-- R429: the flit's place in its packet. -/
def Flit.index (f : Flit) : Nat := fld f.word 11 5

/-- R429: a packet of the flit's partition, source, queue and tag. -/
def Flit.packet (f : Flit) (fs : Tbl Nat (List Byte)) : Packet := ⟨f.part, f.src, fld f.word 0 3, fld f.word 3 8, fs⟩

/-- R429: the packet with the flit in it: the one that the flit goes on with, or a new one. -/
def State.joined (s : State) (f : Flit) : Packet :=
  let base : Packet := match s.io.packets.find? f.joinsTo with
    | some m => if f.index = 0 ∨ (tget m.flits f.index).isSome ∨ m.queue ≠ fld f.word 0 3 then f.packet [] else m
    | none => f.packet []
  { base with flits := tset base.flits f.index f.payload }

/-- Every flit of the packet up to number i has come. -/
def Packet.whole (m : Packet) (i : Nat) : Bool := (List.range (i + 1)).all (fun j => (tget m.flits j).isSome)

/-- The packet that the flit belongs to is taken out of those that are being fetched. -/
def State.withoutPacket (s : State) (f : Flit) : State :=
  { s with io := { s.io with packets := s.io.packets.filter (fun m => !f.joinsTo m) } }

theorem joined_first {s : State} {f : Flit} (hi : f.index = 0) : s.joined f = f.packet [(0, f.payload)] := by
  unfold State.joined
  split <;> simp [hi, Flit.packet, tset]

theorem joined_alone {s : State} {f : Flit} (h : s.io.packets.find? f.joinsTo = none) : s.joined f = f.packet [(f.index, f.payload)] := by
  simp [State.joined, h, Flit.packet, tset]

theorem joined_second {s : State} {f : Flit} {m : Packet} {b0 : List Byte} (hi : f.index = 1) (h : s.io.packets.find? f.joinsTo = some m)
    (hq : m.queue = fld f.word 0 3) (hm : m.flits = [(0, b0)]) : s.joined f = { m with flits := [(0, b0), (1, f.payload)] } := by
  simp [State.joined, h, hi, hq, hm, tset, tget]

/-- R337, R429: what becomes of a packet with its new flit, once it is out of those that are being fetched. -/
def State.receives (s : State) (f : Flit) (m : Packet) : State :=
  let live := (tgetD (s.part f.part).queues (fld f.word 0 3) HostQ.reset).live
  if !bit f.word 16 then (if live then { s with io := { s.io with packets := s.io.packets ++ [m] } } else s)
  else if !m.whole f.index && live then s
  else match (if (tget s.parts f.part).isSome && m.whole f.index
      then s.enqueue f.part (fld f.word 0 3) none (m.bytes (f.index + 1)) else none) with
    | none => s.ack f (fld f.word 3 8) 2 []
    | some r => r.1.ack f (fld f.word 3 8) 0 []

theorem commandFlit_receives {s : State} {f : Flit} (h : s.flit? s.subj.a = some f) : exec .commandFlit s
    = .next (((s.dropFlit s.subj.a).withoutPacket f).receives f ((s.dropFlit s.subj.a).joined f)) := by
  simp only [exec, execCommandFlit, State.withFlit, h]
  rfl

section Receives
variable {s : State} {f : Flit} {m : Packet} {v : Part} {q : HostQ} (hv : tget s.parts f.part = some v)
  (hq : tgetD v.queues (fld f.word 0 3) HostQ.reset = q)
include hv hq

theorem receives_goesOn (hlast : bit f.word 16 = false) :
    s.receives f m = if q.live then { s with io := { s.io with packets := s.io.packets ++ [m] } } else s := by
  simp [State.receives, hlast, part_of_tget hv, hq]

theorem receives_gap (hlast : bit f.word 16 = true) (hgap : m.whole f.index = false) :
    s.receives f m = if q.live then s else s.ack f (fld f.word 3 8) 2 [] := by
  simp [State.receives, hlast, part_of_tget hv, hq, hgap]

theorem receives_enters {bs : List Byte} (hlast : bit f.word 16 = true) (hwhole : m.whole f.index = true) (hbs : m.bytes (f.index + 1) = bs)
    (hlive : q.live = true) (hroom : q.packets.length < 64) : s.receives f m
      = ((s.setPart f.part { v with queues := tset v.queues (fld f.word 0 3) (q.accept none bs) }).postEv .launchCheck { a := f.part }).ack f
          (fld f.word 3 8) 0 [] := by
  simp [State.receives, hlast, hwhole, hbs, hv, enqueue_accepts hv hq hlive hroom]

theorem receives_refused (hlast : bit f.word 16 = true) (hwhole : m.whole f.index = true) (h : q.live = false ∨ 64 ≤ q.packets.length) :
    s.receives f m = s.ack f (fld f.word 3 8) 2 [] := by
  simp [State.receives, hlast, hwhole, hv, enqueue_refuses hv hq h]

end Receives

/-- R429: one flit or two in order make a packet whole. -/
theorem whole_first (f : Flit) (b0 : List Byte) : (f.packet [(0, b0)]).whole 0 = true ∧ (f.packet [(0, b0)]).bytes 1 = b0 := by
  simp [Packet.whole, Packet.bytes, Flit.packet, tget, tgetD, List.range_succ]

theorem whole_second {m : Packet} {b0 b1 : List Byte} (h : m.flits = [(0, b0), (1, b1)]) : m.whole 1 = true ∧ m.bytes 2 = b0 ++ b1 := by
  simp [Packet.whole, Packet.bytes, h, tget, tgetD, List.range_succ]

/-- R429: without its first flit a packet is not whole. -/
theorem whole_alone (f : Flit) (i : Nat) (b : List Byte) (hi : i ≠ 0) : (f.packet [(i, b)]).whole i = false := by
  simp only [Packet.whole, List.all_eq_false, List.mem_range]
  exact ⟨0, Nat.succ_pos i, by simp [Flit.packet, tget, hi]⟩

/-! ## Check (R333, R337) -/

/-- R337: the state once the trailhead has taken a queue's first packet. -/
def State.tookPacket (s : State) (p q : Nat) (v : Part) (rest : List QPacket) : State :=
  s.setPart p { v with queues := tset v.queues q { tgetD v.queues q HostQ.reset with packets := rest }, lastQueue := q }

/-- R333: a packet taken out of its queue leaves the queue's descriptor. -/
theorem tookPacket_reject (s : State) (p q : Nat) (v : Part) (rest : List QPacket) (c reason idx : Nat) (w : Word) :
    (s.tookPacket p q v rest).rejectPacket p q c reason idx w = (s.tookPacket p q v rest).queuePush p (tgetD v.queues q HostQ.reset).sib.toInt
      [w32 (0xF1000000 + reason), invocationId q c, w, w32 idx] := by
  simp [State.rejectPacket, State.tookPacket, State.setPart_part, tgetD_tset]

section Check
variable {s : State} {q : Nat} {m : QPacket} {rest : List QPacket} {v : Part} (hv : tget s.parts s.subj.a = some v) (hq : s.nextQueue s.subj.a = some q)
  (hm : (tgetD v.queues q HostQ.reset).packets = m :: rest)
include hv hq hm

theorem launchCheck_rejects {r i : Nat} (hbad : (s.tookPacket s.subj.a q v rest).checkBad s.subj.a m.issuer m.bytes = some (r, i)) :
    exec .launchCheck s = .next (((s.tookPacket s.subj.a q v rest).rejectPacket s.subj.a q m.count r i (w32 (pktN m.bytes 0 4))).postEv
      .launchCheck { a := s.subj.a }) := by
  unfold State.tookPacket at hbad ⊢
  simp only [exec, execLaunchCheck, hq, part_of_tget hv, hm, modPart_of_tget hv, Part.modQueue, hbad]

variable (hok : (s.tookPacket s.subj.a q v rest).checkBad s.subj.a m.issuer m.bytes = none)
include hok

theorem launchCheck_strikes (hkind : pktN m.bytes 0 4 = 2) : exec .launchCheck s
    = .next (((s.tookPacket s.subj.a q v rest).askStrike (pktKey s.subj.a m.bytes)).postEv .launchCheck { a := s.subj.a }) := by
  unfold State.tookPacket at hok ⊢
  simp only [exec, execLaunchCheck, hq, part_of_tget hv, hm, modPart_of_tget hv, Part.modQueue, hok, hkind, if_true]

theorem launchCheck_launches (hkind : pktN m.bytes 0 4 ≠ 2) : exec .launchCheck s
    = .next (((({ s.tookPacket s.subj.a q v rest with launches := tset s.launches s.fresh (newLaunch s.subj.a q m) } : State).bump).postEv
      .launchImage { a := s.fresh }).postEv .launchCheck { a := s.subj.a }) := by
  unfold State.tookPacket at hok ⊢
  simp only [exec, execLaunchCheck, hq, part_of_tget hv, hm, modPart_of_tget hv, Part.modQueue, hok, hkind, if_false]
  rfl

end Check

/-! ## Image (R333, R336, R340) -/

/-- R336: what a launch does by what its Image state finds. -/
def State.afterImage (s : State) (l : Nat) (v : Launch) : ImgRes → State
  | .waitFar | .waitStrike => s.postEv .launchImage { a := l }
  | .waitStore => s.launchWaits l v .launchImage
  | .unreadable => s.rejectLaunch l v 8 noEntry
  | .bad b version => s.loadFails l v b version
  | .entry i => s.rejectLaunch l v 7 i
  | .resident => (s.launchTo l .place).postEv .launchPlace { a := l }
  | .copied m => ((({ s with images := s.images ++ [m] } : State).modLaunch l (fun v => { v with kib := m.kib })).launchTo l .place).postEv
      .launchPlace { a := l }

section LaunchImage
variable {s : State} {v : Launch} (h : s.launch? s.subj.a = some v) (hst : v.st = .image)
include h hst

theorem launchImage_fenced (hf : s.fencedLaunch v = true) : exec .launchImage s = .next (s.rejectLaunch s.subj.a v 4 noEntry) := by
  simp [exec, execLaunchImage, h, hst, hf]

theorem launchImage_exec (hf : s.fencedLaunch v = false) {b : State} {r : ImgRes} (hr : s.imageStep s.subj.a v = (b, r)) :
    exec .launchImage s = .next (b.afterImage s.subj.a v r) := by
  simp only [exec, execLaunchImage, h, hst, hf, hr, ne_eq, not_true_eq_false, if_false, Bool.false_eq_true]
  cases r <;> rfl

end LaunchImage

/-- The address of the launch's image (R332). -/
def Launch.imageAt (v : Launch) : Int := (BitVec.ofNat 64 (pktN v.hdr 8 8)).toInt

section ImageStep
variable {s : State} {l : Nat} {v : Launch}

theorem imgDone_sound {bs : List Byte} (h : imageJudge bs v = none) (r : ImgRes) : imgDone v bs r = r := by simp [imgDone, h]

theorem imgDone_entry {bs : List Byte} {i : Nat} (h : imageJudge bs v = some i) (r : ImgRes) : imgDone v bs r = .entry i := by simp [imgDone, h]

theorem imageStep_resident {m : Image} (hi : s.image? (pktKey v.part v.hdr) = some m) (hb : s.strikeBegun (pktKey v.part v.hdr) = false) :
    s.imageStep l v = (s, imgDone v m.bytes .resident) := by
  simp [State.imageStep, hi, hb]

variable (hi : s.image? (pktKey v.part v.hdr) = none)
include hi

theorem imageStep_waits {b : State} (hread : s.readRange (v.reader l) v.imageAt 64 = .wait b) : s.imageStep l v = (b, .waitFar) := by
  unfold Launch.imageAt at hread
  simp only [State.imageStep, hi, hread]

theorem imageStep_unreadable {b : State} (hread : s.readRange (v.reader l) v.imageAt 64 = .fail b) : s.imageStep l v = (b, .unreadable) := by
  unfold Launch.imageAt at hread
  simp only [State.imageStep, hi, hread]

variable {b : State} {hd : List Byte} (hread : s.readRange (v.reader l) v.imageAt 64 = .ok b hd) (hhd : headerBad hd = none)
include hread hhd

theorem imageStep_waitsStore (hfit : b.fits v.part v.region itemStore ((imgTotal hd + 1023) / 1024) = false) :
    s.imageStep l v = (b, .waitStore) := by
  unfold Launch.imageAt at hread
  simp only [State.imageStep, hi, hread, hhd, hfit, Bool.not_false, if_true]

variable (hfit : b.fits v.part v.region itemStore ((imgTotal hd + 1023) / 1024) = true) {c : State} {bs : List Byte}
  (hbody : b.readRange (v.reader l) v.imageAt (imgTotal hd) = .ok c bs)
include hfit hbody

theorem imageStep_bad {e : LoadBad} (he : imageBad bs (c.part v.part).tiles .tile = some e) : s.imageStep l v = (c, .bad e (imgVersion bs)) := by
  unfold Launch.imageAt at hread hbody
  simp only [State.imageStep, hi, hread, hhd, hfit, hbody, he, Bool.not_true, Bool.false_eq_true, if_false]

theorem imageStep_copies (he : imageBad bs (c.part v.part).tiles .tile = none) (hj : imageJudge bs v = none) : s.imageStep l v
    = (c, .copied ⟨pktKey v.part v.hdr, bs, (imgTotal hd + 1023) / 1024, c.agenda.contains (strikeAct (pktKey v.part v.hdr)), v.region, false⟩) := by
  unfold Launch.imageAt at hread hbody
  simp only [State.imageStep, hi, hread, hhd, hfit, hbody, he, imgDone_sound hj, Bool.not_true, Bool.false_eq_true, if_false]

end ImageStep

/-- R336: a launch whose image was copied goes to Place with what the copy counts. -/
theorem afterImage_copied {c : State} {l : Nat} {v : Launch} (h : c.launch? l = some v) (m : Image) :
    (c.afterImage l v (.copied m)).launch? l = some { v with kib := m.kib, st := .place } :=
  modLaunch_launch (modLaunch_launch (s := { c with images := c.images ++ [m] }) h _) _

/-! ## Place and the end of a pitch (R54, R336) -/

section LaunchPlace
variable {s b : State} {v : Launch} {m : Image} {r : State × Bool} {new : List (Nat × Nat)} (h : s.launch? s.subj.a = some v) (hst : v.st = .place)
  (hf : s.fencedLaunch v = false) (hi : s.image? (pktKey v.part v.hdr) = some m) (hr : s.placeStep v m = r)
  (hnew : r.1.grantedFrom m.key s.fresh = new)
  (hb : (if new = [] then r.1 else r.1.modLaunch s.subj.a (fun u => { u with pitched := v.pitched ++ new })) = b)
include h hst hf hi hr hnew hb

theorem launchPlace_waits (hno : r.2 = false) : exec .launchPlace s
    = .next ((b.launchWaits s.subj.a { v with pitched := v.pitched ++ new } .launchPlace).startQuanta v.part v.region) := by
  simp only [exec, execLaunchPlace, h, hst, hf, hi, hr, hnew, hno, List.isEmpty_iff, hb, ne_eq, not_true_eq_false, if_false, if_true,
    Bool.false_eq_true, Bool.not_false]

theorem launchPlace_pitching (hyes : r.2 = true) (hp : ∃ n ∈ b.imageTiles m.key, (b.site (.tile n)).pitching = true) :
    exec .launchPlace s = .next (b.postEv .launchPlace { a := s.subj.a }) := by
  have hany : (b.imageTiles m.key).any (fun n => (b.site (.tile n)).pitching) = true := List.any_eq_true.2 hp
  simp only [exec, execLaunchPlace, h, hst, hf, hi, hr, hnew, hyes, List.isEmpty_iff, hb, hany, ne_eq, not_true_eq_false, if_false, if_true,
    Bool.false_eq_true, Bool.not_true]

theorem launchPlace_placed (hyes : r.2 = true) (hp : ∀ n ∈ b.imageTiles m.key, (b.site (.tile n)).pitching = false) :
    exec .launchPlace s = .next ((b.launchTo s.subj.a .arm).postEv .launchArm { a := s.subj.a }) := by
  have hnone : (b.imageTiles m.key).any (fun n => (b.site (.tile n)).pitching) = false :=
    List.any_eq_false.2 (fun n hn => Bool.eq_false_iff.1 (hp n hn))
  simp only [exec, execLaunchPlace, h, hst, hf, hi, hr, hnew, hyes, List.isEmpty_iff, hb, hnone, ne_eq, not_true_eq_false, if_false,
    Bool.false_eq_true, Bool.not_true]

end LaunchPlace

/-- R54: a pitch's end makes its tile valid. -/
theorem pitchComplete_exec {s : State} (h : (s.site (.tile s.subj.a)).pitching = true) : exec .pitchComplete s
    = .next (s.setSite (.tile s.subj.a) { s.site (.tile s.subj.a) with pitching := false, valid := true }) := by
  simp only [exec, execPitchComplete, h, Bool.not_true, Bool.false_eq_true, if_false]
  rfl

/-! ## Arm (R334, R336, R395) -/

section LaunchArm
variable {s : State} {v : Launch} {m : Image} (h : s.launch? s.subj.a = some v) (hst : v.st = .arm) (hready : v.ready = false)
  (hf : s.fencedLaunch v = false) (hi : s.image? (pktKey v.part v.hdr) = some m) (hheld : s.ownersHeld v.part = false)
  (hfar : s.farOwners v.part = [])
include h hst hready hf hi hheld hfar

theorem launchArm_waits (harm : s.armAll s.subj.a v m v.entries [] = none) :
    exec .launchArm s = .next (s.launchWaits s.subj.a v .launchArm) := by
  simp [exec, execLaunchArm, h, hst, hready, hheld, hf, hi, hfar, harm]

theorem launchArm_arms {b : State} {t : Tbl Nat (List Token)} (harm : s.armAll s.subj.a v m v.entries [] = some (b, t)) :
    exec .launchArm s = .next (b.armed s.subj.a t (s.readOwners v.part)) := by
  simp [exec, execLaunchArm, h, hst, hready, hheld, hf, hi, hfar, harm]

end LaunchArm

theorem readOwners_length (s : State) (p : Nat) : (s.readOwners p).length = (s.part p).owncnt.toNat := by
  simp [State.readOwners]

/-- R336: every die of an armed launch is asked to start. -/
theorem armed_eq (s : State) (l : Nat) (t : Tbl Nat (List Token)) (owners : List Word) : s.armed l t owners
    = { s.modLaunch l (fun v => { v with armed := t, ready := true, owners := owners }) with
        agenda := s.agenda ++ t.map (fun e => .ev .launchStart { a := l, b := e.1 }) } := by
  rw [State.armed, foldl_postEv]
  rfl

theorem armed_launch {s : State} {l : Nat} {v : Launch} (h : s.launch? l = some v) (t : Tbl Nat (List Token)) (owners : List Word) :
    (s.armed l t owners).launch? l = some { v with armed := t, ready := true, owners := owners } := by
  rw [armed_eq]
  exact (launch_congr rfl l).trans (modLaunch_launch h (fun v => { v with armed := t, ready := true, owners := owners }))

/-! ## Start (R334, R341) -/

/-- R334: tokens that start one after another enter the fabric in order. -/
theorem foldl_startTok (ks : List Token) (s : State) : ks.foldl State.startTok s
    = { s with fabric := s.fabric ++ ks, agenda := s.agenda ++ ks.map (fun k => .ev .tokenIngressArrival { a := k.id }) } := by
  induction ks generalizing s with
  | nil => simp
  | cons k ks ih => rw [List.foldl_cons, ih]; simp [State.startTok, State.postEv, State.post]

/-- A token that waits stays among those that wait: where none does at the end, each has started. -/
theorem foldl_startTok_or_wait (waits : State × List Token → Token → Bool) (ks : List Token) (r : State × List Token)
    (h : (ks.foldl (fun r k => if waits r k then (r.1, r.2 ++ [k]) else (r.1.startTok k, r.2)) r).2 = []) :
    r.2 = [] ∧ (ks.foldl (fun r k => if waits r k then (r.1, r.2 ++ [k]) else (r.1.startTok k, r.2)) r).1 = ks.foldl State.startTok r.1 := by
  induction ks generalizing r with
  | nil => exact ⟨h, rfl⟩
  | cons k ks ih =>
    rw [List.foldl_cons] at h ⊢
    obtain ⟨hnone, hrest⟩ := ih _ h
    cases hw : waits r k with
    | true => simp [hw] at hnone
    | false =>
      simp only [hw, Bool.false_eq_true, if_false] at hnone hrest ⊢
      exact ⟨hnone, hrest⟩

theorem startToks_all {s : State} {ks : List Token} (h : (s.startToks ks).2 = []) : (s.startToks ks).1 = ks.foldl State.startTok s :=
  (foldl_startTok_or_wait _ ks (s, []) h).2

/-- R341: the launch once all tokens of a die have started. -/
def Launch.startedOn (v : Launch) (d : Nat) : Launch :=
  { v with st := .run, armed := tdel v.armed d, started := if v.started.contains d then v.started else v.started ++ [d] }

section LaunchStart
variable {s : State} {v : Launch} (h : s.launch? s.subj.a = some v) (hready : v.ready = true) (hst : v.st = .arm ∨ v.st = .run)
  (hf : s.fencedLaunch v = false)
include h hready hst hf

theorem launchStart_early (ht : s.tod < s.startOf v.hdr) : exec .launchStart s = .next (s.postEv .launchStart s.subj) := by
  have hgo : (v.st == .arm || v.st == .run) = true := by simpa using hst
  simp [exec, execLaunchStart, h, hready, hgo, hf, ht]

theorem launchStart_starts (ht : s.startOf v.hdr ≤ s.tod) (hall : (s.startToks (tgetD v.armed s.subj.b [])).2 = []) : exec .launchStart s
    = .next ((((tgetD v.armed s.subj.b []).foldl State.startTok s).modLaunch s.subj.a (fun v => v.startedOn s.subj.b)).postEv .launchCheck
        { a := v.part }) := by
  have hgo : (v.st == .arm || v.st == .run) = true := by simpa using hst
  rw [← startToks_all hall]
  simp only [exec, execLaunchStart, h, hready, hgo, hf, Nat.not_lt.2 ht, hall, List.isEmpty_nil, Bool.not_true, Bool.or_self, Bool.false_eq_true,
    if_false, if_true]
  rfl

end LaunchStart

theorem startedOn_started (v : Launch) (d : Nat) : d ∈ (v.startedOn d).started := by
  unfold Launch.startedOn
  by_cases h : d ∈ v.started <;> simp [h]

theorem startedOn_armed (v : Launch) (d : Nat) : tgetD (v.startedOn d).armed d [] = [] := by
  simp [Launch.startedOn, tgetD]

/-! ## The statement -/

/-- Settles O48, state by state from its cases: a packet by the flits it has, Check by what is judged, Image by what it finds, Place by its
pitches, Arm by its entries, the start by what waits. -/
theorem launchStates : Obligations.LaunchStates := by
  refine ⟨?flits, ?check, ?image, ?place, fun s => pitchComplete_exec, ?arm, ?start⟩
  case flits =>
    intro s f hf q tag i s1 same s2 v hv h c
    have hexec : exec .commandFlit s = .next (s2.receives f (s1.joined f)) := commandFlit_receives hf
    have hv2 : tget s2.parts f.part = some v := hv
    clear_value s2
    refine ⟨fun bs hlast hbs => ?last, fun hlast hi hnone => ?gap, fun hlast hdead => ?dead, fun hlast hlive hi => ?first⟩
    case last =>
      have hwhole : (s1.joined f).whole f.index = true ∧ (s1.joined f).bytes (f.index + 1) = bs := by
        rcases hbs with ⟨hi, rfl⟩ | ⟨hi, m, b0, hfind, hqueue, hflits, rfl⟩
        · rw [joined_first hi, show f.index = 0 from hi]
          exact whole_first f f.payload
        · rw [joined_second hi hfind hqueue hflits, show f.index = 1 from hi]
          exact whole_second rfl
      exact ⟨fun hlive hroom => hexec.trans (congrArg _ (receives_enters hv2 rfl hlast hwhole.1 hwhole.2 hlive hroom)),
        fun hfull => hexec.trans (congrArg _ (receives_refused hv2 rfl hlast hwhole.1 hfull))⟩
    case gap =>
      rw [hexec, joined_alone hnone, receives_gap hv2 rfl hlast (whole_alone f _ _ hi)]
    case dead =>
      rw [hexec, receives_goesOn hv2 rfl hlast]
      exact congrArg _ (if_neg (Bool.eq_false_iff.1 hdead))
    case first =>
      rw [hexec, joined_first hi, receives_goesOn hv2 rfl hlast]
      exact congrArg _ (if_pos hlive)
  case check =>
    intro s q m rest v p h hv hq hm s1
    refine ⟨fun r i hbad => ?rejects, fun hok => ⟨launchCheck_strikes hv hq hm hok, fun hkind => ?launches⟩⟩
    case rejects =>
      rw [launchCheck_rejects hv hq hm hbad, tookPacket_reject]
      rfl
    case launches =>
      refine ⟨_, newLaunch p q m, launchCheck_launches hv hq hm hok hkind, ?_, rfl, rfl, rfl, rfl, rfl, rfl, rfl, rfl, ?_, rfl⟩
      · exact tget_tset_same s.launches s.fresh _
      · simp [State.postEv, State.post]
  case image =>
    intro s v l k va h hst
    refine ⟨launchImage_fenced h hst, fun m hf hi hb => ?resident, fun b hf hi => ?unread, ?read⟩
    case resident =>
      have hexec := launchImage_exec h hst hf (imageStep_resident hi hb)
      exact ⟨fun hj => by rw [hexec, imgDone_sound hj]; rfl, fun i hj => by rw [hexec, imgDone_entry hj]; rfl⟩
    case unread =>
      exact ⟨fun hread => launchImage_exec h hst hf (imageStep_waits hi hread), fun hread => launchImage_exec h hst hf (imageStep_unreadable hi hread)⟩
    case read =>
      intro b hd c bs hf hi hread hhd kib
      refine ⟨fun hfit => launchImage_exec h hst hf (imageStep_waitsStore hi hread hhd hfit), fun hfit hbody =>
        ⟨fun e he => launchImage_exec h hst hf (imageStep_bad hi hread hhd hfit hbody he), fun he hj hc => ?_⟩⟩
      exact ⟨_, _, launchImage_exec h hst hf (imageStep_copies hi hread hhd hfit hbody he hj), rfl, afterImage_copied hc _, rfl, rfl, rfl, rfl⟩
  case place =>
    intro s v m l h hst hf hi r new w b
    exact ⟨launchPlace_waits h hst hf hi rfl rfl rfl, launchPlace_pitching h hst hf hi rfl rfl rfl, launchPlace_placed h hst hf hi rfl rfl rfl⟩
  case arm =>
    intro s v m l h hst hready hf hi hheld hfar
    refine ⟨launchArm_waits h hst hready hf hi hheld hfar, fun b t harm hb => ?_⟩
    refine ⟨_, _, launchArm_arms h hst hready hf hi hheld hfar harm, armed_launch hb t _, rfl, rfl, hst,
      readOwners_length s v.part, by rw [armed_eq]; rfl, fun e he => ?_⟩
    rw [armed_eq]
    exact List.mem_append_right _ (List.mem_map_of_mem he)
  case start =>
    intro s v l ks h hready hst hf
    refine ⟨launchStart_early h hready hst hf, fun ht hall => ⟨_, v.startedOn s.subj.b, launchStart_starts h hready hst hf ht hall, ?_⟩⟩
    rw [foldl_startTok]
    refine ⟨rfl, modLaunch_launch h _, rfl, startedOn_started v s.subj.b, startedOn_armed v s.subj.b, fun k hk => ?_⟩
    exact List.mem_append_left _ (List.mem_append_right _ (List.mem_map_of_mem hk))

end Sys2Proof.Machine
end

section
/-! Launches at their end (R330, R336, R337, R348, R349, R353): a budget's expiry, a polling round, retirement, and a destroyed queue. -/

namespace Sys2Proof.Machine

/-! ## The wait T (R336) -/

section LaunchWaitExpiry
variable {s : State} {v : Launch} (h : s.launch? s.subj.a = some v) (hst : v.st.num = s.subj.b)
include h

theorem launchWaitExpiry_idle (hno : pktWait v.hdr = 0xFFFFFFFF ∨ s.launchBlocked s.subj.a v = false) :
    exec .launchWaitExpiry s = .next s := by
  simp only [exec, execLaunchWaitExpiry, h]
  exact if_pos (.inr (hno.imp_right (by simp)))

include hst
variable (hT : pktWait v.hdr ≠ 0xFFFFFFFF) (hblocked : s.launchBlocked s.subj.a v = true)
include hT hblocked

theorem launchWaitExpiry_waits (hlt : s.work v.part < v.since + pktWait v.hdr * 1100) :
    exec .launchWaitExpiry s = .next (s.postEv .launchWaitExpiry s.subj) := by
  simp [exec, execLaunchWaitExpiry, h, hst, hT, hblocked, cyclesPerUs, hlt]

theorem launchWaitExpiry_fails (hle : v.since + pktWait v.hdr * 1100 ≤ s.work v.part) :
    exec .launchWaitExpiry s = .next (s.failLaunch s.subj.a v 2) := by
  simp [exec, execLaunchWaitExpiry, h, hst, hT, hblocked, cyclesPerUs, Nat.not_lt.2 hle]

end LaunchWaitExpiry

/-! ## Completion (R348) -/

theorem completionPoll_waits {s : State} (h : s.cycle < s.subj.b) : exec .completionPoll s = .next (s.postEv .completionPoll s.subj) := if_pos h

theorem completionPoll_polls {s : State} (h : s.subj.b ≤ s.cycle) : exec .completionPoll s
    = .next ((s.launches.foldl (fun s e => s.pollOne e.1 e.2) s).postEv .completionPoll { b := s.subj.b + 2200 }) := if_neg (Nat.not_lt.2 h)

/-- R348: the invocation has work left, tokens that have not started or tokens between its dies. -/
def State.unfinished (s : State) (l : Nat) (v : Launch) : Bool := s.liveWork l || !v.armed.isEmpty || v.sums.1 != v.sums.2

theorem unfinished_iff (s : State) (l : Nat) (v : Launch) :
    s.unfinished l v = true ↔ s.liveWork l = true ∨ v.armed ≠ [] ∨ v.sums.1 ≠ v.sums.2 := by
  simp [State.unfinished, or_assoc]

section PollOne
variable {s : State} {l : Nat} {v : Launch}

theorem pollOne_idle (hst : v.st ≠ .run) : s.pollOne l v = s := if_pos hst

variable (hst : v.st = .run)
include hst

theorem pollOne_running : s.pollOne l v = if s.unfinished l v = true then s.modLaunch l (fun v => { v with passed := none })
    else if v.passed = some v.sums.1 then ((s.modLaunch l (fun v => { v with owed := s.coh.colls.map (fun c => c.id) })).launchTo l .retire).postEv
      .invocationRetire { a := l }
    else s.modLaunch l (fun u => { u with passed := some v.sums.1 }) := by
  rw [State.pollOne, if_neg (not_not.2 hst)]
  rfl

variable (h : s.launch? l = some v)
include h

theorem pollOne_unfinished (hlive : s.unfinished l v = true) : (s.pollOne l v).launch? l = some { v with passed := none } := by
  rw [pollOne_running hst, if_pos hlive]
  exact modLaunch_launch h _

variable (hdone : s.unfinished l v = false)
include hdone

theorem pollOne_passes (hp : v.passed ≠ some v.sums.1) : (s.pollOne l v).launch? l = some { v with passed := some v.sums.1 } := by
  rw [pollOne_running hst, if_neg (Bool.eq_false_iff.1 hdone), if_neg hp]
  exact modLaunch_launch h _

/-- R348, R349: an invocation that passes a second round with the same sum retires, with the collapses outstanding then. -/
theorem pollOne_retires (hp : v.passed = some v.sums.1) :
    (s.pollOne l v).launch? l = some { v with st := .retire, owed := s.coh.colls.map (fun c => c.id) }
    ∧ Act.ev .invocationRetire { a := l } ∈ (s.pollOne l v).agenda := by
  rw [pollOne_running hst, if_neg (Bool.eq_false_iff.1 hdone), if_pos hp]
  exact ⟨modLaunch_launch (modLaunch_launch h _) _, List.mem_append_right _ (List.mem_singleton_self _)⟩

end PollOne

/-! ## What the notices and the end of a launch leave -/

/-- A push changes the pending pushes and what is to come. -/
theorem queuePush_eq (s : State) (p : Nat) (desc : Int) (ws : List Word) (dead : Option Nat) (via : Site) :
    ∃ os n g, s.queuePush p desc ws dead via = { s with pqOps := os, fresh := n, agenda := g } := by
  unfold State.queuePush
  split <;> exact ⟨_, _, _, rfl⟩

theorem queuePush_pending {s : State} {desc : Int} (h : desc ≠ 0) (p : Nat) (ws : List Word) (dead : Option Nat) (via : Site) :
    tget (s.queuePush p desc ws dead via).pqOps s.fresh = some ⟨p, via, desc, ws, dead⟩ := by
  rw [State.queuePush, if_neg h]
  exact tget_tset_same ..

/-- Memory, the launches, the pending pushes and the frames of s' are those of s. -/
structure WorkStays (s s' : State) : Prop where
  mem : s'.mem = s.mem
  launches : s'.launches = s.launches
  pqOps : s'.pqOps = s.pqOps
  frames : ∀ x, (s'.site x).frames = (s.site x).frames

theorem WorkStays.refl (s : State) : WorkStays s s := ⟨rfl, rfl, rfl, fun _ => rfl⟩

theorem WorkStays.trans {s s' s'' : State} (h : WorkStays s s') (h' : WorkStays s' s'') : WorkStays s s'' :=
  ⟨h'.mem.trans h.mem, h'.launches.trans h.launches, h'.pqOps.trans h.pqOps, fun x => (h'.frames x).trans (h.frames x)⟩

theorem workStays_foldl {ι : Type} (g : State → ι → State) (hg : ∀ s i, WorkStays s (g s i)) (l : List ι) (s : State) :
    WorkStays s (l.foldl g s) := by
  induction l generalizing s with
  | nil => exact .refl s
  | cons i l ih => exact (hg s i).trans (ih _)

theorem workStays_queueSem (s : State) (x : Site) (k : Nat) (v : Word) (set : Bool) (gate : List Nat) (scope inv uid seq : Nat) :
    WorkStays s (s.queueSem x k v set gate scope inv uid seq) := ⟨rfl, rfl, rfl, fun _ => rfl⟩

theorem workStays_notify (s : State) (key : Nat) (payload : Word) : WorkStays s (s.notify key payload) := ⟨rfl, rfl, rfl, fun _ => rfl⟩

theorem workStays_modPart (s : State) (p : Nat) (g : Part → Part) : WorkStays s (s.modPart p g) :=
  ⟨State.modPart_mem .., State.modPart_launches .., State.modPart_pqOps ..,
    fun x => congrArg SiteSt.frames (State.site_congr (State.modPart_sites ..) x)⟩

theorem workStays_askStrike (s : State) (k : ImgKey) : WorkStays s (s.askStrike k) := by
  unfold State.askStrike
  dsimp only
  split <;> exact ⟨rfl, rfl, rfl, fun _ => rfl⟩

theorem workStays_clearFence (s : State) (p r : Nat) : WorkStays s (s.clearFence p r) := by
  unfold State.clearFence
  dsimp only
  split
  · exact .refl s
  · exact workStays_modPart ..

/-- R330: the sites of a freed subtree change their region alone. -/
theorem workStays_freeSubtree (s : State) (p r : Nat) : WorkStays s (s.freeSubtree p r) := by
  refine ⟨rfl, rfl, rfl, fun x => ?_⟩
  unfold State.freeSubtree State.site tgetD
  dsimp only
  rw [tget_map_snd s.sites]
  cases tget s.sites x with
  | none => rfl
  | some y => cases hy : y.part <;> simp [hy]

theorem workStays_releaseRegion (s : State) (p r : Nat) : WorkStays s (s.releaseRegion p r) := by
  unfold State.releaseRegion
  split
  · exact .refl s
  · split
    · exact .refl s
    · split
      · exact .refl s
      · exact (workStays_freeSubtree s p r).trans (workStays_queueSem ..)

theorem workStays_releaseRegions (s : State) (p : Nat) : WorkStays s (s.releaseRegions p) :=
  workStays_foldl (fun s r => s.releaseRegion p r) (fun s r => workStays_releaseRegion s p r) _ s

/-- R330, R353: a launch that leaves the trailhead is done; nothing else of the work changes with it. -/
theorem workStays_launchGone (s : State) (l : Nat) (v : Launch) : WorkStays (s.launchTo l .done) (s.launchGone l v) :=
  ((workStays_clearFence ..).trans (workStays_releaseRegions ..)).trans ⟨rfl, rfl, rfl, fun _ => rfl⟩

/-- R349: the semaphore that a launch names is raised behind its push. -/
theorem workStays_notices (s : State) (v : Launch) (status : Nat) : WorkStays (s.queuePush v.part (BitVec.ofNat 64 (pktN v.hdr 0x30 8)).toInt
    [w32 (0xC0000000 + status), v.id, w32 v.dones, w32 v.faults]) (s.notices v status) := by
  unfold State.notices
  dsimp only
  split
  · exact workStays_queueSem ..
  · exact .refl _

/-! ## Retirement (R349) -/

theorem freeFrames_frames {s : State} {l : Nat} {x : Site} {f : Nat} {w : Frame} (h : tget ((s.freeFrames l).site x).frames f = some w) :
    w.inv ≠ l := by
  unfold State.freeFrames State.site tgetD at h
  dsimp only at h
  rw [tget_map_snd s.sites] at h
  cases hx : tget s.sites x with
  | none => simp [hx, SiteSt.reset, tget] at h
  | some y =>
    rw [hx] at h
    have hmem := mem_of_tget h
    simpa using (List.mem_filter.1 hmem).2

/-- R349: the status of a launch that has run. -/
def Launch.endStatus (v : Launch) : Nat := if v.fenced then 3 else 0

/-- R349: the launch has its status, and its frames are free. -/
def State.unframed (s : State) (l : Nat) (v : Launch) : State := (s.freeFrames l).modLaunch l (fun u => { u with status := v.endStatus })

/-- R349: the notices are given, and the image of a launch that asks for it is struck. -/
def State.noticed (s : State) (l : Nat) (v : Launch) : State :=
  let b := ((s.unframed l v).notices v v.endStatus).notify (0x2000 + v.part) v.id
  if nfld (pktN v.hdr 0x1C 4) 8 1 = 1 then b.askStrike (pktKey v.part v.hdr) else b

section Retire
variable {s : State} {v : Launch} (h : s.launch? s.subj.a = some v) (hst : v.st = .retire)
include h hst

theorem invocationRetire_waits (howes : ∃ c ∈ s.coh.colls, c.id ∈ v.owed) :
    exec .invocationRetire s = .next (s.postEv .invocationRetire { a := s.subj.a }) := by
  have hne : (s.owing v.owed).isEmpty = false := by
    obtain ⟨c, hc, hid⟩ := howes
    exact List.isEmpty_eq_false_iff_exists_mem.2 ⟨c, List.mem_filter.2 ⟨hc, by simpa using hid⟩⟩
  simp [exec, execInvocationRetire, h, hst, hne]

theorem invocationRetire_retires (hpaid : ∀ c ∈ s.coh.colls, c.id ∉ v.owed) :
    exec .invocationRetire s = .next ((s.noticed s.subj.a v).launchGone s.subj.a v) := by
  have hnone : s.owing v.owed = [] := List.filter_eq_nil_iff.2 (fun c hc => by simpa using hpaid c hc)
  simp only [exec, execInvocationRetire, h, hst, hnone, List.isEmpty_nil, Bool.not_true, Bool.false_eq_true, ne_eq, not_true_eq_false, if_false]
  rfl

end Retire

/-- R349: after its push the notices of a launch leave its work alone. -/
theorem workStays_noticed (s : State) (l : Nat) (v : Launch) : WorkStays ((s.unframed l v).queuePush v.part
    (BitVec.ofNat 64 (pktN v.hdr 0x30 8)).toInt [w32 (0xC0000000 + v.endStatus), v.id, w32 v.dones, w32 v.faults]) (s.noticed l v) := by
  have hnotes := (workStays_notices (s.unframed l v) v v.endStatus).trans (workStays_notify _ (0x2000 + v.part) v.id)
  unfold State.noticed
  dsimp only
  split
  · exact hnotes.trans (workStays_askStrike ..)
  · exact hnotes

/-- R349: what a retired launch leaves: its status, no frame of its own, and the push that tells of it. -/
theorem retired_leaves {s : State} {l : Nat} {v : Launch} (h : s.launch? l = some v) {desc : Int}
    (hdesc : desc = (BitVec.ofNat 64 (pktN v.hdr 0x30 8)).toInt) {z : State} (hz : z = (s.noticed l v).launchGone l v) :
    z.launch? l = some { v with st := .done, status := v.endStatus } ∧ z.mem = s.mem
    ∧ (∀ x f w, tget (z.site x).frames f = some w → w.inv ≠ l)
    ∧ (desc ≠ 0 → tget z.pqOps s.fresh = some
        ⟨v.part, .syrad 0, desc, [w32 (0xC0000000 + v.endStatus), v.id, w32 v.dones, w32 v.faults], none⟩) := by
  have hgone := workStays_launchGone (s.noticed l v) l v
  have hnoticed := workStays_noticed s l v
  rw [← hdesc] at hnoticed
  rw [← hz] at hgone
  obtain ⟨os, n, g, hpush⟩ := queuePush_eq (s.unframed l v) v.part desc [w32 (0xC0000000 + v.endStatus), v.id, w32 v.dones, w32 v.faults]
    none (.syrad 0)
  refine ⟨?_, ?_, fun x f w hw => ?_, fun hne => ?_⟩
  · have hstatus : (s.noticed l v).launch? l = some { v with status := v.endStatus } := by
      rw [launch_congr hnoticed.launches, hpush]
      exact modLaunch_launch (s := s.freeFrames l) h _
    rw [launch_congr hgone.launches]
    exact modLaunch_launch hstatus _
  · rw [hgone.mem]
    exact hnoticed.mem.trans (by rw [hpush]; rfl)
  · have hframes : (z.site x).frames = ((s.freeFrames l).site x).frames :=
      (hgone.frames x).trans ((hnoticed.frames x).trans (by rw [hpush]; rfl))
    rw [hframes] at hw
    exact freeFrames_frames hw
  · rw [hgone.pqOps]
    exact (congrArg (tget · s.fresh) hnoticed.pqOps).trans (queuePush_pending (s := s.unframed l v) hne ..)

/-! ## Destroyed queues (R333, R337) -/

/-- R337: dropping a partly fetched packet is a push. -/
theorem dropPartial_eq (s : State) (m : Packet) : ∃ os n g, s.dropPartial m = { s with pqOps := os, fresh := n, agenda := g } :=
  queuePush_eq ..

/-- The packet is one of a partition's queue. -/
def Packet.ofQueue (m : Packet) (p q : Nat) : Bool := m.part == p && m.queue == q

/-- R337: a partition's queue takes the word written to it, and the packets that were being fetched for it are out. -/
def State.queueWritten (s : State) (p q x : Nat) (v : Part) : State :=
  { s.setPart p (v.cwPut 0x800 q x) with io := { s.io with packets := s.io.packets.filter (fun m => !m.ofQueue p q) } }

theorem hostQueueDestroy_exec {s : State} {v : Part} (h : tget s.parts s.subj.a = some v) : exec .hostQueueDestroy s
    = .next (((s.io.packets.filter (fun m => m.ofQueue s.subj.a s.subj.b)).foldl State.dropPartial
        (s.queueWritten s.subj.a s.subj.b s.subj.v.toNat v)).endCycle.cwSet s.subj.d) := by
  simp only [exec, execHostQueueDestroy, modPart_of_tget h]
  rfl

/-- R337: after its packets are dropped a destroyed queue stands as it was written. -/
theorem foldl_dropPartial (ms : List Packet) (s : State) : (ms.foldl State.dropPartial s).parts = s.parts ∧ (ms.foldl State.dropPartial s).mem = s.mem
    ∧ (ms.foldl State.dropPartial s).io = s.io := by
  have hdrop := dropPartial_eq
  refine ⟨foldl_same State.parts _ (fun s m => ?_) ms s, foldl_same State.mem _ (fun s m => ?_) ms s, foldl_same State.io _ (fun s m => ?_) ms s⟩
    <;> (obtain ⟨os, n, g, h⟩ := hdrop s m; rw [h])

/-! ## The statement -/

/-- Settles O49: the expiry by what the launch waits for, a round by what counts, retirement by what is owed, and the destroyed queue. -/
theorem launchEnds : Obligations.LaunchEnds := by
  refine ⟨?expiry, ?poll, ?retire, ?destroy⟩
  case expiry =>
    intro s v l T h hst
    exact ⟨launchWaitExpiry_idle h, fun hT hblocked => ⟨launchWaitExpiry_waits h hst hT hblocked, launchWaitExpiry_fails h hst hT hblocked⟩⟩
  case poll =>
    intro s l v h q w live
    have hno : ¬live → s.unfinished l v = false := fun hn => Bool.eq_false_iff.2 (fun hu => hn ((unfinished_iff s l v).1 hu))
    exact ⟨completionPoll_waits, completionPoll_polls, pollOne_idle, fun hst hlive => pollOne_unfinished hst h ((unfinished_iff s l v).2 hlive),
      fun hst hn => pollOne_passes hst h (hno hn), fun hst hn => pollOne_retires hst h (hno hn)⟩
  case retire =>
    intro s v l desc h hst
    refine ⟨invocationRetire_waits h hst, fun hpaid => ?_⟩
    obtain ⟨hlaunch, hmem, hframes, hpush⟩ := retired_leaves h (desc := desc) rfl rfl
    exact ⟨_, _, invocationRetire_retires h hst hpaid, hlaunch, rfl, rfl, hmem, hframes, hpush⟩
  case destroy =>
    intro s v hv hlive
    obtain ⟨hparts, hmem, hio⟩ := foldl_dropPartial (s.io.packets.filter (fun m => m.ofQueue s.subj.a s.subj.b))
      (s.queueWritten s.subj.a s.subj.b s.subj.v.toNat v)
    refine ⟨_, hostQueueDestroy_exec hv, hmem, ?_, (congrArg Io.packets hio :)⟩
    have hdead : v.cwPut 0x800 s.subj.b s.subj.v.toNat = { v with queues := tset v.queues s.subj.b { tgetD v.queues s.subj.b HostQ.reset with
        live := false, prio := nfld s.subj.v.toNat 0 3 } } := by
      simp [Part.cwPut, Part.modQueue, hlive]
    rw [State.endCycle_parts, hparts, ← hdead]
    exact tget_tset_same ..

end Sys2Proof.Machine
end
section
/-! The boot (R437, R438): what comes up with the firmware's graphs or in recovery, and the state that the first step finds. -/

namespace Sys2Proof.Machine

/-! ## The boot (R437) -/

/-- R437: the dies that fail the self-test. -/
def failedDies : List Nat := (List.range 16).filter (fun d => !Config.selfTestOk d)

/-- R437: what decides between the firmware and recovery. -/
def bootOk (flash : List Byte) : Bool :=
  failedDies.isEmpty && Config.signatureOk (Config.digest flash) && (List.range 4).all (graphOk flash)

/-- R437: the module wiped, with what a reset keeps and what is read of the dies and the ports. -/
def State.wiped (s : State) : State :=
  let r := s.restart s.io.flash s.io.life s.io.identity
  { r with agenda := [], io := { r.io with node := Config.moduleNode % 1024, ports := bootPorts, power := failedDies.map (fun d => (d, IslandPower.off)) } }

/-- R437 step 4: the module as the firmware finds it, before its graphs are pitched. -/
def State.firmware (s : State) : State :=
  { s.wiped with
    io := { s.wiped.io with booted := true, matchers := (List.range 4).map (fun d => (d, { Matcher.reset with service := some (sysPart, Config.serviceDesc d) })) }
    agenda := bootActs }

theorem powerOnReset_exec (s : State) : exec .powerOnReset s = .next (if bootOk s.io.flash then
    (List.range 4).foldl (fun b d => b.pitchSyrad s.io.flash d) s.firmware else { s.wiped with io := { s.wiped.io with recovery := true } }) := by
  have h : exec .powerOnReset s = if bootOk s.io.flash then
      .next ((List.range 4).foldl (fun b d => b.pitchSyrad s.io.flash d) s.firmware) else .next { s.wiped with io := { s.wiped.io with recovery := true } } := rfl
  rw [h]
  split <;> rfl

theorem bootOk_iff (flash : List Byte) : bootOk flash = true ↔ (∀ d, d < 16 → Config.selfTestOk d = true)
    ∧ Config.signatureOk (Config.digest flash) = true ∧ ∀ d, d < 4 → graphOk flash d = true := by
  simp [bootOk, failedDies, and_assoc]

theorem wiped_powerOf (s : State) {d : Nat} (hd : d < 16) : s.wiped.powerOf d = if Config.selfTestOk d then .running else .off := by
  have hoff : ∀ l : List Nat, tgetD (l.map (fun d => (d, IslandPower.off))) d .running = if d ∈ l then .off else .running := by
    intro l
    induction l with
    | nil => rfl
    | cons x l ih =>
      by_cases hx : x = d
      · simp [tgetD, tget, hx]
      · simpa [tgetD, tget, hx, Ne.symm hx] using ih
  have hmem : d ∈ failedDies ↔ ¬Config.selfTestOk d = true := by simp [failedDies, hd]
  refine (hoff failedDies).trans ?_
  by_cases h : Config.selfTestOk d = true
  · rw [if_neg (fun hf => hmem.1 hf h), if_pos h]
  · rw [if_pos (hmem.2 h), if_neg h]

/-! ## The firmware's graphs (R437 step 4) -/

/-- Pitching a graph changes cells and sites alone. -/
theorem pitchSyrad_eq (s : State) (flash : List Byte) (d : Nat) : ∃ cs xs, s.pitchSyrad flash d = { s with cells := cs, sites := xs } := by
  obtain ⟨cs, h⟩ := s.writeTables_eq (.syrad d) (recCells (imgRecs (Config.firmwareGraph flash d) 0)) (fun _ c => c)
  exact ⟨cs, _, by rw [State.pitchSyrad, h]; rfl⟩

theorem foldl_pitchSyrad_eq (flash : List Byte) (l : List Nat) (s : State) :
    ∃ cs xs, l.foldl (fun b d => b.pitchSyrad flash d) s = { s with cells := cs, sites := xs } := by
  induction l generalizing s with
  | nil => exact ⟨_, _, rfl⟩
  | cons d l ih =>
    obtain ⟨cs, xs, h⟩ := pitchSyrad_eq s flash d
    obtain ⟨cs', xs', h'⟩ := ih (s.pitchSyrad flash d)
    exact ⟨cs', xs', by rw [List.foldl_cons, h', h]⟩

theorem pitchSyrad_cell (s : State) (flash : List Byte) (d : Nat) (a : Agent) :
    (s.pitchSyrad flash d).cell a = if a.site = .syrad d ∧ a.cell < 64 then recCells (imgRecs (Config.firmwareGraph flash d) 0) a.cell else s.cell a :=
  (State.cell_congr (State.modSite_cells ..) a).trans (State.writeTables_cell ..)

theorem pitchSyrad_site (s : State) (flash : List Byte) (d : Nat) (x : Site) :
    (s.pitchSyrad flash d).site x = if x = .syrad d then { s.site x with valid := true } else s.site x := by
  obtain ⟨cs, h⟩ := s.writeTables_eq (.syrad d) (recCells (imgRecs (Config.firmwareGraph flash d) 0)) (fun _ c => c)
  rw [State.pitchSyrad, h, State.modSite_site]
  split
  · next hx => subst hx; rfl
  · rfl

/-- The four graphs leave every other site and its cells as they were. -/
theorem foldl_pitchSyrad_other (flash : List Byte) (a : Agent) (l : List Nat) (hl : ∀ d ∈ l, a.site ≠ .syrad d) (s : State) :
    (l.foldl (fun b d => b.pitchSyrad flash d) s).cell a = s.cell a ∧ (l.foldl (fun b d => b.pitchSyrad flash d) s).site a.site = s.site a.site := by
  induction l generalizing s with
  | nil => exact ⟨rfl, rfl⟩
  | cons d l ih =>
    have hd := hl d (List.mem_cons_self ..)
    obtain ⟨hcell, hsite⟩ := ih (fun e he => hl e (List.mem_cons_of_mem _ he)) (s.pitchSyrad flash d)
    rw [pitchSyrad_cell, if_neg (fun h => hd h.1)] at hcell
    rw [pitchSyrad_site, if_neg hd] at hsite
    rw [List.foldl_cons]
    exact ⟨hcell, hsite⟩

/-- Each graph stands in its engine's cells, whose dispatcher entry is open. -/
theorem foldl_pitchSyrad_pitched (flash : List Byte) {d : Nat} (l : List Nat) (hd : d ∈ l) (hnd : l.Nodup) (s : State) :
    ((l.foldl (fun b d => b.pitchSyrad flash d) s).site (.syrad d)).valid = true
    ∧ ∀ c, c < 64 → (l.foldl (fun b d => b.pitchSyrad flash d) s).cell ⟨.syrad d, c⟩ = recCells (imgRecs (Config.firmwareGraph flash d) 0) c := by
  induction l generalizing s with
  | nil => cases hd
  | cons e l ih =>
    obtain ⟨he, hl⟩ := List.nodup_cons.1 hnd
    rw [List.foldl_cons]
    rcases List.mem_cons.1 hd with rfl | hd
    · have hother := fun c => foldl_pitchSyrad_other flash ⟨.syrad d, c⟩ l
        (fun x hx h => he ((Site.syrad.inj h) ▸ hx)) (s.pitchSyrad flash d)
      refine ⟨?_, fun c hc => ?_⟩
      · rw [(hother 0).2, pitchSyrad_site, if_pos rfl]
      · rw [(hother c).1, pitchSyrad_cell, if_pos ⟨rfl, hc⟩]
    · exact ih hd hl _

/-! ## Reset (R437) -/

/-- R437: the boot leaves an empty module, with or without the firmware. -/
theorem powerOnReset_empty (s : State) : ∃ s', exec .powerOnReset s = .next s' ∧ s'.mem = [] ∧ s'.parts = [] ∧ s'.threads = [] ∧ s'.cycle = 0
    ∧ (s'.io.booted = true ∨ s'.io.recovery = true) := by
  refine ⟨_, powerOnReset_exec s, ?_⟩
  split
  · obtain ⟨cs, xs, h⟩ := foldl_pitchSyrad_eq s.io.flash (List.range 4) s.firmware
    rw [h]
    exact ⟨rfl, rfl, rfl, rfl, .inl rfl⟩
  · exact ⟨rfl, rfl, rfl, rfl, .inr rfl⟩

theorem reset_nextAct : ∃ s1, State.reset.nextAct = some (.ev .powerOnReset {}, s1) := by
  obtain ⟨n, a, ha, hnext⟩ := State.nextAct_agenda (s := State.reset) rfl (by decide)
  have hact : a = .ev .powerOnReset {} := List.mem_singleton.1 (List.mem_of_getElem? ha)
  exact ⟨_, hact ▸ hnext⟩

/-- Settles O1: the fields of reset by definition, the first step by the boot, which is all that the agenda holds. -/
theorem resetState : Obligations.ResetState := by
  obtain ⟨s1, hnext⟩ := reset_nextAct
  obtain ⟨s', hexec, hboot⟩ := powerOnReset_empty { s1 with subj := {} }
  exact ⟨rfl, fun _ => rfl, rfl, rfl, rfl, rfl, rfl, rfl, rfl, fun _ => ⟨rfl, rfl, rfl, rfl⟩, fun _ => ⟨rfl, rfl, rfl⟩, rfl, rfl,
    s', (step_ev hnext).trans hexec, hboot⟩

end Sys2Proof.Machine
end
section
/-! Taking a fault (R350 to R357, R363): what the hardware's own writes and a record leave of the state, and what each class of
fault writes, holds, counts and stops. -/

namespace Sys2Proof.Machine

/-! ## Writes of the hardware -/

/-- Only memory, the slices and the accesses of s' differ from s; its switch and its lost dies are those of s, and what was to happen still is. -/
structure HwWritten (s s' : State) : Prop where
  eq : ∃ m mb c as g n, s' = { s with mem := m, memBad := mb, coh := c, accs := as, agenda := s.agenda ++ g, fresh := n }
  switch : s'.coh.switch = s.coh.switch
  lost : s'.coh.lost = s.coh.lost

theorem HwWritten.trans {s s' s'' : State} (h : HwWritten s s') (h' : HwWritten s' s'') : HwWritten s s'' := by
  obtain ⟨⟨m, mb, c, as, g, n, rfl⟩, hswitch, hlost⟩ := h
  obtain ⟨⟨m', mb', c', as', g', n', rfl⟩, hswitch', hlost'⟩ := h'
  exact ⟨⟨m', mb', c', as', g ++ g', n', by simp⟩, hswitch'.trans hswitch, hlost'.trans hlost⟩

theorem hwWritten_of_fields {s : State} (m : List Host.Cell) (mb : List Nat) (c : Coh) (as : Tbl Nat Access) (n : Nat)
    (hswitch : c.switch = s.coh.switch) (hlost : c.lost = s.coh.lost) :
    HwWritten s { s with mem := m, memBad := mb, coh := c, accs := as, fresh := n } :=
  ⟨⟨m, mb, c, as, [], n, by simp⟩, hswitch, hlost⟩

theorem hwWritten_of_coh {s : State} (c : Coh) (hswitch : c.switch = s.coh.switch) (hlost : c.lost = s.coh.lost) : HwWritten s { s with coh := c } :=
  hwWritten_of_fields s.mem s.memBad c s.accs s.fresh hswitch hlost

theorem hwWritten_foldl {ι : Type} (g : State → ι → State) (hg : ∀ s i, HwWritten s (g s i)) (l : List ι) (s : State) : HwWritten s (l.foldl g s) := by
  induction l generalizing s with
  | nil => exact hwWritten_of_coh s.coh rfl rfl
  | cons i l ih => exact (hg s i).trans (ih _)

theorem hwWritten_hwCollapse (s : State) (line : Nat) : HwWritten s (s.hwCollapse line) := by
  unfold State.hwCollapse
  split
  · exact hwWritten_of_coh s.coh rfl rfl
  · exact hwWritten_of_coh _ rfl rfl

theorem hwWritten_hwPerform (s : State) (a : Nat) (bs : List Byte) : HwWritten s (s.hwPerform a bs) := by
  unfold State.hwPerform
  split
  · exact hwWritten_of_coh s.coh rfl rfl
  · generalize hs : ({ s with mem := _, memBad := _ } : State) = s'
    have h : HwWritten s s' := hs ▸ hwWritten_of_fields _ _ s.coh s.accs s.fresh rfl rfl
    refine h.trans (hwWritten_foldl _ (fun b i => ?_) _ _)
    exact (hwWritten_hwCollapse b (lineOf a + i)).trans (hwWritten_of_coh _ rfl rfl)

theorem hwWritten_postEv (s : State) (i : Instr) (x : Subj) : HwWritten s (s.postEv i x) := ⟨⟨s.mem, s.memBad, s.coh, s.accs, _, s.fresh, rfl⟩, rfl, rfl⟩

theorem hwWritten_hwSend (s : State) (a : Nat) (bs : List Byte) : HwWritten s (s.hwSend a bs) := by
  unfold State.hwSend
  exact HwWritten.trans (s' := s.bump.setAcc s.fresh _) (hwWritten_of_fields s.mem s.memBad s.coh _ _ rfl rfl)
    (hwWritten_foldl _ (fun b m => hwWritten_postEv ..) _ _)

theorem hwWritten_hwWrite (s : State) (a : Nat) (bs : List Byte) : HwWritten s (s.hwWrite a bs) := by
  unfold State.hwWrite
  split
  · exact hwWritten_hwSend ..
  · split
    · exact hwWritten_of_coh _ rfl rfl
    · exact hwWritten_hwPerform ..

/-- With no switch under way and no die lost, a write to this module stores its bytes. -/
theorem hwWrite_stores {s : State} {a : Nat} (bs : List Byte) (hswitch : s.coh.switch = none) (hlost : s.coh.lost = []) (hap : isAperture a = false) :
    (s.hwWrite a bs).mem = wrN s.mem a bs := by
  rw [State.hwWrite_mem, if_pos]
  simp [State.served, State.switching, hswitch, hlost, hap]

/-! ## A record (R355) -/

/-- Where the next record of a partition goes. -/
def Part.recordAt (v : Part) : Nat := (v.tqBase.toNat + 64 * (v.tqTail.toNat % 256)) % 2 ^ 51

/-- The records that await a reply, once a record stands at the tail. -/
def Part.recordsWith (v : Part) (await : Option RecFor) (code : Nat) (va : Int) : Tbl Nat RecMeta :=
  match await with
  | none => tdel v.recs (v.tqTail.toNat % 256)
  | some r => tset v.recs (v.tqTail.toNat % 256) ⟨v.seq, r, code, va, false⟩

/-- R355, R357: the partition with its next record written. -/
def Part.recorded (v : Part) (await : Option RecFor) (code : Nat) (va : Int) : Part :=
  { v with tqTail := v.tqTail + 1, seq := v.seq + 1, recs := v.recordsWith await code va }

theorem notify_eq (s : State) (key : Nat) (payload : Word) : ∃ i, s.notify key payload
    = { s with io := i, agenda := s.agenda ++ [.ev .eventMatch { a := ((List.range 4).find? (fun d => ((s.matcher d).regs.any (fun r => r.1 = key)))).getD 0 }] } :=
  ⟨_, rfl⟩

/-- Beside its own entry in the partition, a record changes what a write of the hardware does, its launch's fault count, the clock and a matcher. -/
structure Recorded (s s' : State) (p : Nat) (w : Part) (inv : Nat) : Prop where
  eq : ∃ m mb c as g n cy un td io, s' = { s with
    mem := m, memBad := mb, coh := c, accs := as, agenda := s.agenda ++ g, fresh := n, cycle := cy, uncounted := un, tod := td, io := io
    parts := tset s.parts p w, launches := tmod s.launches inv (fun l => { l with faults := l.faults + 1 }) }
  switch : s'.coh.switch = s.coh.switch
  lost : s'.coh.lost = s.coh.lost

section Put
variable {s : State} {p : Nat} {v : Part} (hv : tget s.parts p = some v) (cls region inv : Nat) (id : Word) (code : Nat) (ds : List Word)
  (await : Option RecFor) (va : Int)
include hv

theorem putRecord_recorded : Recorded s (s.putRecord p cls region inv id code ds await va) p (v.recorded await code va) inv
    ∧ (s.putRecord p cls region inv id code ds await va).mem = (s.hwWrite v.recordAt
      (wordsBytes (recordWords p cls region code id v.seq (v.tqTail.toNat % 256) await.isSome ds s.tod))).mem := by
  obtain ⟨⟨m, mb, c, as, g, n, hw⟩, hswitch, hlost⟩ := hwWritten_hwWrite s v.recordAt
    (wordsBytes (recordWords p cls region code id v.seq (v.tqTail.toNat % 256) await.isSome ds s.tod))
  unfold Part.recordAt at hw hswitch hlost ⊢
  unfold State.putRecord
  simp only [hv]
  rw [hw] at hswitch hlost ⊢
  obtain ⟨i, hi⟩ := notify_eq (State.modLaunch (State.setPart { s with mem := m, memBad := mb, coh := c, accs := as, agenda := s.agenda ++ g, fresh := n } p
    (v.recorded await code va)) inv (fun l => { l with faults := l.faults + 1 })) (0x1000 + p) (w32 (v.tqTail.toNat % 256))
  generalize hz : State.endCycle _ = z
  have hzeq : z = State.endCycle (State.notify (State.modLaunch (State.setPart { s with mem := m, memBad := mb, coh := c, accs := as, agenda := s.agenda ++ g, fresh := n } p
    (v.recorded await code va)) inv (fun l => { l with faults := l.faults + 1 })) (0x1000 + p) (w32 (v.tqTail.toNat % 256))) := hz.symm
  rw [hi] at hzeq
  rw [hzeq]
  split
  · exact ⟨⟨⟨m, mb, c, as, g ++ [_] ++ [_], n, _, _, _, i, by simp only [← List.append_assoc]; rfl⟩, hswitch, hlost⟩, rfl⟩
  · split
    · exact ⟨⟨⟨m, mb, c, as, g ++ [_] ++ [_], n, _, _, _, i, by simp only [← List.append_assoc]; rfl⟩, hswitch, hlost⟩, rfl⟩
    · exact ⟨⟨⟨m, mb, c, as, g ++ [_], n, _, _, _, i, by simp only [← List.append_assoc]; rfl⟩, hswitch, hlost⟩, rfl⟩

theorem putRecord_parts : (s.putRecord p cls region inv id code ds await va).parts = tset s.parts p (v.recorded await code va) := by
  obtain ⟨⟨⟨m, mb, c, as, g, n, cy, un, td, io, h⟩, -, -⟩, -⟩ := putRecord_recorded hv cls region inv id code ds await va
  rw [h]

/-- With no switch under way and no die lost, the record's words are stored at the tail. -/
theorem putRecord_stores (hswitch : s.coh.switch = none) (hlost : s.coh.lost = []) (hap : isAperture v.recordAt = false) :
    (s.putRecord p cls region inv id code ds await va).mem = wrN s.mem v.recordAt
      (wordsBytes (recordWords p cls region code id v.seq (v.tqTail.toNat % 256) await.isSome ds s.tod)) :=
  (putRecord_recorded hv ..).2.trans (hwWrite_stores _ hswitch hlost hap)

end Put

/-! ## Taking a fault -/

section Raise
variable {s : State} {w : Who} {code : Nat} {ds : List Word} {r : RecFor} {va : Int} {v : Part}
  (hv : tget s.parts w.part = some v) (hwritten : ∀ e ∈ v.heldRecs, e.2.written = true)
include hv hwritten

theorem flushHeld_idle : s.flushHeld w.part = s := State.flushHeld_of_written (by rw [part_of_tget hv]; exact hwritten)

/-- R357: a replayable or reply-awaiting fault with room has its record written. -/
theorem raise_awaits (hc : faultClass code = 0 ∨ faultClass code = 3) (hroom : v.occupancy < 248) :
    s.raise w code ds (some r) va = s.putRecord w.part (faultClass code) w.region w.inv (s.invId w.inv) code ds (some r) va := by
  have hput : s.raise w code ds (some r) va = s.putOrHold w code ds r va := by
    unfold State.raise
    rw [flushHeld_idle hv hwritten]
    rcases hc with hc | hc <;> rw [hc] <;> rfl
  rw [hput, State.putOrHold, part_of_tget hv, if_pos hroom]

/-- R357: a replayable or reply-awaiting fault without room is held. -/
theorem raise_held (hc : faultClass code = 0 ∨ faultClass code = 3) (hfull : ¬v.occupancy < 248) :
    s.raise w code ds (some r) va = ((s.setPart w.part
      { v with heldRecs := tset v.heldRecs s.fresh ⟨code, faultClass code, w.region, s.invId w.inv, ds, r, va, false⟩ }).bump).postEv .trapRecordWrite { a := w.part, b := s.fresh } := by
  have hput : s.raise w code ds (some r) va = s.putOrHold w code ds r va := by
    unfold State.raise
    rw [flushHeld_idle hv hwritten]
    rcases hc with hc | hc <;> rw [hc] <;> rfl
  rw [hput, State.putOrHold, part_of_tget hv, if_neg hfull]
  simp only [State.modPart, hv]

/-- R352, R357: a contained fault is recorded or its record is lost, and it counts. -/
theorem raise_contained (hc : faultClass code = 1) : s.raise w code ds (some r) va
    = (if v.occupancy < 248 then s.putRecord w.part 1 w.region w.inv (s.invId w.inv) code ds none va
       else s.setPart w.part { v with lost := v.lost + 1 }).countFault w := by
  unfold State.raise
  rw [flushHeld_idle hv hwritten, hc]
  simp only [part_of_tget hv, State.modPart, hv]

theorem raise_stops (hc : faultClass code = 2) : s.raise w code ds (some r) va
    = s.stopFault w.part w.region w.inv (s.invId w.inv) code ds := by
  unfold State.raise
  rw [flushHeld_idle hv hwritten, hc]
  rfl

end Raise

/-- R357, R363: a stop fault with an entry left writes its record; the halt line is to rise. -/
theorem stopFault_records {s : State} {p : Nat} {v : Part} (hv : tget s.parts p = some v) (hroom : v.occupancy < 256) (region inv : Nat)
    (id : Word) (code : Nat) (ds : List Word) : s.stopFault p region inv id code ds
      = (s.putRecord p 2 region inv id code ds none 0).postEv .haltLineRaise { a := p, b := code } := by
  simp only [State.stopFault, part_of_tget hv, if_pos hroom]

theorem stopFault_full {s : State} {p : Nat} {v : Part} (hv : tget s.parts p = some v) (hfull : ¬v.occupancy < 256) (region inv : Nat)
    (id : Word) (code : Nat) (ds : List Word) : s.stopFault p region inv id code ds
      = (s.setPart p { v with stop2 := 0x0200 }).postEv .haltLineRaise { a := p, b := code } := by
  simp only [State.stopFault, part_of_tget hv, if_neg hfull, State.modPart, hv]

/-- R352, R354: the partition with one more contained fault in the domain of a region. -/
def Part.counted (v : Part) (region : Nat) : Part :=
  let d := tgetD v.domains (v.domOf region) ⟨false, false, 0⟩
  { v with domains := tset v.domains (v.domOf region) { d with faults := min 65535 (d.faults + 1) } }

theorem countFault_eq {s : State} {w : Who} {v : Part} (hv : tget s.parts w.part = some v) : s.countFault w
    = if (tgetD v.domains (v.domOf w.region) ⟨false, false, 0⟩).policy then (s.setPart w.part (v.counted w.region)).fenceDomain w.part w.region (some w.inv)
      else s.setPart w.part (v.counted w.region) := by
  simp only [State.countFault, hv]
  rfl

/-- R352, R354, R357: a contained fault with room has its record, and counts in its domain. -/
theorem putRecord_counted {s : State} {w : Who} {v : Part} (hv : tget s.parts w.part = some v) (code : Nat) (ds : List Word) (va : Int) :
    (s.putRecord w.part 1 w.region w.inv (s.invId w.inv) code ds none va).countFault w
      = let c := (s.putRecord w.part 1 w.region w.inv (s.invId w.inv) code ds none va).setPart w.part ((v.recorded none code va).counted w.region)
        if (tgetD v.domains (v.domOf w.region) ⟨false, false, 0⟩).policy then c.fenceDomain w.part w.region (some w.inv) else c :=
  countFault_eq (v := v.recorded none code va) (by rw [putRecord_parts hv]; exact tget_tset_same ..)

/-! ## The statement -/

/-- Settles O53: the record by what a write at the tail leaves; the classes by what each does where it finds room or none. -/
theorem recordQueued : Obligations.RecordQueued := by
  refine ⟨?classes, fun code => rfl⟩
  case classes =>
    intro s w code ds r va v hv entry at_ hheld hswitch hlost hap cls record written room b
    have hstored := fun (cls : Nat) (await : Option RecFor) (va : Int) =>
      putRecord_stores hv cls w.region w.inv (s.invId w.inv) code ds await va hswitch hlost hap
    have hparts := fun (cls : Nat) (await : Option RecFor) (va : Int) =>
      putRecord_parts hv cls w.region w.inv (s.invId w.inv) code ds await va
    refine ⟨fun hc hroom => ?_, fun hc hroom => ?_, fun hc => ?_, fun hc hroom => ?_, fun hc hroom => ?_⟩
    · have hb : b = _ := raise_awaits hv hheld hc hroom
      exact hb ▸ ⟨hstored .., by rw [hparts]; exact tget_tset_same ..⟩
    · have hb : b = _ := raise_held hv hheld hc hroom
      exact hb ▸ ⟨rfl, List.mem_append_right _ (List.mem_singleton.2 rfl), tget_tset_same ..⟩
    · have hb : b = _ := raise_contained hv hheld hc
      by_cases hroom : v.occupancy < 248
      · rw [if_pos hroom, putRecord_counted hv] at hb
        refine ⟨(s.putRecord w.part 1 w.region w.inv (s.invId w.inv) code ds none va).setPart w.part ((v.recorded none code va).counted w.region),
          fun _ => ⟨?_, tget_tset_same ..⟩, fun h => absurd hroom h, hb⟩
        exact (hstored 1 none va).trans (by rw [← hc]; rfl)
      · rw [if_neg hroom, countFault_eq (tget_tset_same ..)] at hb
        exact ⟨(s.setPart w.part { v with lost := v.lost + 1 }).setPart w.part (Part.counted { v with lost := v.lost + 1 } w.region),
          fun h => absurd h hroom, fun _ => ⟨rfl, tget_tset_same ..⟩, hb⟩
    · have hb : b = _ := (raise_stops hv hheld hc).trans (stopFault_records hv hroom ..)
      refine hb ▸ ⟨(hstored 2 none 0).trans (by rw [← hc]; rfl), List.mem_append_right _ (List.mem_singleton.2 rfl), ?_⟩
      rw [State.postEv_parts, hparts]
      exact tget_tset_same ..
    · have hb : b = _ := (raise_stops hv hheld hc).trans (stopFault_full hv (Nat.not_lt.2 hroom) ..)
      exact hb ▸ ⟨rfl, List.mem_append_right _ (List.mem_singleton.2 rfl), tget_tset_same ..⟩

end Sys2Proof.Machine
end
section
/-! Fencing a domain (R353): what records and the ends of threads leave of tokens, engines and elements, and what the fence does to each. -/

namespace Sys2Proof.Machine

/-! ## Tables whose entries change in place -/

section Tables
variable {κ α : Type} [DecidableEq κ]

theorem tgetD_map_snd (t : Tbl κ α) (g : κ × α → α) (k : κ) (d : α) (hd : g (k, d) = d) :
    tgetD (t.map (fun e => (e.1, g e))) k d = g (k, tgetD t k d) := by
  rw [tgetD, tget_map_snd, tgetD]
  cases tget t k with
  | none => exact hd.symm
  | some a => rfl

end Tables

/-! ## What the end of a thread leaves -/

/-- Tokens, frames, engines, elements and launches of s' are those of s, and what was to happen still is. -/
structure WorkKept (s s' : State) : Prop where
  queues : ∀ a, (s'.cell a).queues = (s.cell a).queues ∧ (s'.cell a).pairs = (s.cell a).pairs
  frames : ∀ x, (s'.site x).frames = (s.site x).frames
  buffers : ∀ x, (s'.site x).egress = (s.site x).egress ∧ (s'.site x).ingress = (s.site x).ingress
  engines : ∀ x, (s'.site x).copies = (s.site x).copies ∧ (s'.site x).chains = (s.site x).chains
  elems : s'.elems = s.elems
  fabric : s'.fabric = s.fabric
  launches : s'.launches = s.launches
  parts : s'.parts = s.parts
  agenda : ∀ a ∈ s.agenda, a ∈ s'.agenda

theorem WorkKept.refl (s : State) : WorkKept s s :=
  ⟨fun _ => ⟨rfl, rfl⟩, fun _ => rfl, fun _ => ⟨rfl, rfl⟩, fun _ => ⟨rfl, rfl⟩, rfl, rfl, rfl, rfl, fun _ h => h⟩

theorem WorkKept.trans {s s' s'' : State} (h : WorkKept s s') (h' : WorkKept s' s'') : WorkKept s s'' where
  queues a := ⟨(h'.queues a).1.trans (h.queues a).1, (h'.queues a).2.trans (h.queues a).2⟩
  frames x := (h'.frames x).trans (h.frames x)
  buffers x := ⟨(h'.buffers x).1.trans (h.buffers x).1, (h'.buffers x).2.trans (h.buffers x).2⟩
  engines x := ⟨(h'.engines x).1.trans (h.engines x).1, (h'.engines x).2.trans (h.engines x).2⟩
  elems := h'.elems.trans h.elems
  fabric := h'.fabric.trans h.fabric
  launches := h'.launches.trans h.launches
  parts := h'.parts.trans h.parts
  agenda a ha := h'.agenda a (h.agenda a ha)

theorem workKept_foldl {ι : Type} (g : State → ι → State) (hg : ∀ s i, WorkKept s (g s i)) (l : List ι) (s : State) : WorkKept s (l.foldl g s) := by
  induction l generalizing s with
  | nil => exact .refl s
  | cons i l ih => exact (hg s i).trans (ih _)

theorem workKept_postEv (s : State) (i : Instr) (x : Subj) : WorkKept s (s.postEv i x) :=
  ⟨fun _ => ⟨rfl, rfl⟩, fun _ => rfl, fun _ => ⟨rfl, rfl⟩, fun _ => ⟨rfl, rfl⟩, rfl, rfl, rfl, rfl, fun _ h => List.mem_append_left _ h⟩

theorem workKept_of_threads (s : State) (ts : Tbl Nat Thread) : WorkKept s { s with threads := ts } :=
  ⟨fun _ => ⟨rfl, rfl⟩, fun _ => rfl, fun _ => ⟨rfl, rfl⟩, fun _ => ⟨rfl, rfl⟩, rfl, rfl, rfl, rfl, fun _ h => h⟩

theorem workKept_modCell (s : State) (ag : Agent) (g : Cell → Cell) (hg : ∀ c, (g c).queues = c.queues ∧ (g c).pairs = c.pairs) :
    WorkKept s (s.modCell ag g) where
  queues a := by
    rw [State.modCell_cell]
    split
    · next h => exact h ▸ hg _
    · exact ⟨rfl, rfl⟩
  frames _ := rfl
  buffers _ := ⟨rfl, rfl⟩
  engines _ := ⟨rfl, rfl⟩
  elems := rfl
  fabric := rfl
  launches := rfl
  parts := rfl
  agenda _ h := h

theorem workKept_modCells (s : State) (x : Site) (cs : List Nat) (g : Cell → Cell) (hg : ∀ c, (g c).queues = c.queues ∧ (g c).pairs = c.pairs) :
    WorkKept s (s.modCells x cs g) :=
  workKept_foldl (fun b c => b.modCell ⟨x, c⟩ g) (fun b c => workKept_modCell b ⟨x, c⟩ g hg) cs s

theorem workKept_modSite (s : State) (x : Site) (g : SiteSt → SiteSt) (hg : ∀ v, (g v).frames = v.frames ∧ (g v).egress = v.egress
    ∧ (g v).ingress = v.ingress ∧ (g v).copies = v.copies ∧ (g v).chains = v.chains) : WorkKept s (s.modSite x g) := by
  have hsite : ∀ y, ((s.modSite x g).site y).frames = (s.site y).frames ∧ ((s.modSite x g).site y).egress = (s.site y).egress
      ∧ ((s.modSite x g).site y).ingress = (s.site y).ingress ∧ ((s.modSite x g).site y).copies = (s.site y).copies
      ∧ ((s.modSite x g).site y).chains = (s.site y).chains := by
    intro y
    rw [State.modSite_site]
    split
    · next h => exact h ▸ hg _
    · exact ⟨rfl, rfl, rfl, rfl, rfl⟩
  exact ⟨fun _ => ⟨rfl, rfl⟩, fun y => (hsite y).1, fun y => ⟨(hsite y).2.1, (hsite y).2.2.1⟩, fun y => (hsite y).2.2.2, rfl, rfl, rfl, rfl, fun _ h => h⟩

theorem workKept_unreserve (s : State) (r : Resv) : WorkKept s (s.unreserve r) := by
  unfold State.unreserve
  split
  · exact workKept_modCell s _ _ (fun _ => ⟨rfl, rfl⟩)
  · exact workKept_modSite s _ _ (fun _ => ⟨rfl, rfl, rfl, rfl, rfl⟩)

theorem workKept_endThread (s : State) (u : Nat) : WorkKept s (s.endThread u) := by
  unfold State.endThread
  split
  · exact .refl s
  · refine WorkKept.trans ?_ (workKept_foldl _ (fun b c => workKept_postEv b _ _) _ _)
    refine WorkKept.trans ?_ (workKept_of_threads _ _)
    refine WorkKept.trans ?_ (workKept_modSite _ _ _ (fun _ => ⟨rfl, rfl, rfl, rfl, rfl⟩))
    refine WorkKept.trans ?_ (workKept_modCell _ _ _ (fun _ => ⟨rfl, rfl⟩))
    refine WorkKept.trans ?_ (workKept_modCells _ _ _ _ (fun _ => ⟨rfl, rfl⟩))
    exact workKept_foldl (fun b (r : Resv × Bool) => b.unreserve r.1) (fun b r => workKept_unreserve b r.1) _ s

theorem workKept_endFenced (s : State) (goneW : Who → Bool) : WorkKept s (s.endFenced goneW) :=
  workKept_foldl _ (fun b _ => (workKept_foldl _ (fun c _ => workKept_postEv c ..) _ b).trans (workKept_foldl _ (fun c _ => workKept_postEv c ..) _ _)) _ s

/-! ## Threads of a fenced domain -/

/-- R353: a running thread is to end at its next boundary, every other one ends. -/
def State.endFencedThread (s : State) (e : Nat × Thread) : State :=
  if e.2.stat = .run ∨ e.2.stat = .column then s.modThr e.1 (fun t => { t with ending := true }) else s.endThread e.1

theorem workKept_endFencedThread (s : State) (e : Nat × Thread) : WorkKept s (s.endFencedThread e) := by
  unfold State.endFencedThread
  split
  · exact workKept_of_threads s _
  · exact workKept_endThread s e.1

theorem endThread_other (s : State) {u w : Nat} (h : w ≠ u) : (s.endThread u).thr? w = s.thr? w :=
  (keeps_endThread s u).same .threads (by simp) w h

/-- A thread that stands after it is one that stood before, to end where it is the named one or was to end. -/
theorem endFencedThread_thr {s : State} {e : Nat × Thread} {u : Nat} {t' : Thread} (h : (s.endFencedThread e).thr? u = some t') :
    ∃ t, s.thr? u = some t ∧ t'.part = t.part ∧ t'.region = t.region ∧ ((t.ending = true ∨ u = e.1) → t'.ending = true) := by
  unfold State.endFencedThread at h
  split at h
  · rw [State.modThr_thr] at h
    split at h
    · next hu =>
      obtain ⟨t, ht, rfl⟩ := Option.map_eq_some_iff.1 h
      exact ⟨t, hu ▸ ht, rfl, rfl, fun _ => rfl⟩
    · next hu => exact ⟨t', h, rfl, rfl, fun hor => hor.resolve_right hu⟩
  · by_cases hu : u = e.1
    · rw [hu, endThread_thr] at h
      cases h
    · rw [endThread_other s hu] at h
      exact ⟨t', h, rfl, rfl, fun hor => hor.resolve_right hu⟩

theorem foldl_endFencedThread_thr (l : List (Nat × Thread)) {s : State} {u : Nat} {t' : Thread} (h : (l.foldl State.endFencedThread s).thr? u = some t') :
    ∃ t, s.thr? u = some t ∧ t'.part = t.part ∧ t'.region = t.region ∧ ((t.ending = true ∨ ∃ e ∈ l, e.1 = u) → t'.ending = true) := by
  induction l generalizing s with
  | nil => exact ⟨t', h, rfl, rfl, fun hor => hor.resolve_right (fun ⟨_, he, _⟩ => nomatch he)⟩
  | cons e l ih =>
    obtain ⟨t1, h1, hpart1, hreg1, hend1⟩ := ih h
    obtain ⟨t, ht, hpart, hreg, hend⟩ := endFencedThread_thr h1
    refine ⟨t, ht, hpart1.trans hpart, hreg1.trans hreg, fun hor => ?_⟩
    rcases hor with hor | ⟨e', he', rfl⟩
    · exact hend1 (.inl (hend (.inl hor)))
    · rcases List.mem_cons.1 he' with rfl | he'
      · exact hend1 (.inl (hend (.inr rfl)))
      · exact hend1 (.inr ⟨e', he', rfl⟩)

/-! ## What the fence discards -/

/-- R353: an element without the domain's instructions, the rows of a running one poisoned. -/
def Elem.fenced (e : Elem) (goneW : Who → Bool) : Elem :=
  let q := e.queue.filter (fun m => !goneW m.who)
  match e.running with
  | none => { e with queue := q }
  | some m => if goneW m.who then { (e.poisonRows m.rows.1 m.rows.2) with queue := q, running := none } else { e with queue := q }

/-- R353: a running launch of the domain counts as fenced. -/
def Launch.fence (l : Launch) (p : Nat) (rs : List Nat) : Launch :=
  if l.part = p ∧ l.region ∈ rs ∧ l.st = .run then { l with fenced := true, armed := [] } else l

/-- R353: the state without the tokens, engine work and matrix instructions of a domain's regions. -/
def State.discarded (s : State) (p : Nat) (rs : List Nat) : State :=
  { s with
    cells := s.cells.map (fun e => (e.1, e.2.discard (tokGone p rs)))
    sites := s.sites.map (fun e => (e.1, e.2.discard (tokGone p rs) (whoGone p rs)))
    fabric := s.fabric.filter (fun t => !tokGone p rs t)
    biv := s.biv.map (fun e => (e.1, e.2.discard p rs))
    elems := s.elems.map (fun e => (e.1, e.2.fenced (whoGone p rs)))
    launches := s.launches.map (fun e => (e.1, e.2.fence p rs)) }

/-- The elements whose running instruction is of the domain. -/
def State.stoppedElems (s : State) (goneW : Who → Bool) : List Nat :=
  (s.elems.filter (fun e => e.2.running.any (fun m => goneW m.who))).map (fun e => e.1)

/-- The threads of the domain's regions. -/
def State.threadsOf (s : State) (p : Nat) (rs : List Nat) : List (Nat × Thread) := s.threads.filter (fun e => e.2.part = p ∧ e.2.region ∈ rs)

/-- R206, R348: the slots that discarded tokens held are free, and those on their way have arrived. -/
def State.arrived (s : State) (p : Nat) (rs : List Nat) : State :=
  ((s.returnHeld (tokGone p rs)).fabric.filter (tokGone p rs)).foldl State.countRecv (s.returnHeld (tokGone p rs))

/-- R185, R236: what a fence discards is gone, elements take up their queues and what was cancelled goes on to its end. -/
def State.fencing (s : State) (p : Nat) (rs : List Nat) : State :=
  (((s.arrived p rs).stoppedElems (whoGone p rs)).foldl (fun s e => s.postEv .matrixQueueStart { a := e })
    ((s.arrived p rs).discarded p rs)).endFenced (whoGone p rs)

theorem fenceRegions_eq (s : State) (p : Nat) (rs : List Nat) :
    s.fenceRegions p rs = ((s.fencing p rs).threadsOf p rs).foldl State.endFencedThread (s.fencing p rs) := by
  have helem : ∀ e : Nat × Elem, (e.1, e.2.fenced (whoGone p rs)) = (match e.2.running with
      | none => (e.1, { e.2 with queue := e.2.queue.filter (fun m => !whoGone p rs m.who) })
      | some m => if whoGone p rs m.who then
          (e.1, { (e.2.poisonRows m.rows.1 m.rows.2) with queue := e.2.queue.filter (fun m => !whoGone p rs m.who), running := none })
        else (e.1, { e.2 with queue := e.2.queue.filter (fun m => !whoGone p rs m.who) })) := by
    intro e
    rcases h : e.2.running with _ | m
    · simp only [Elem.fenced, h]
    · by_cases hm : whoGone p rs m.who = true
      · simp only [Elem.fenced, h, if_pos hm]
      · simp only [Elem.fenced, h, if_neg hm]
  have hlaunch : ∀ e : Nat × Launch, (e.1, e.2.fence p rs)
      = if e.2.part = p ∧ e.2.region ∈ rs ∧ e.2.st = .run then (e.1, { e.2 with fenced := true, armed := [] }) else e := by
    intro e
    unfold Launch.fence
    split <;> rfl
  have hd := (rfl : (s.arrived p rs).discarded p rs = _)
  unfold State.discarded at hd
  simp only [helem, hlaunch] at hd
  unfold State.fencing State.discarded
  simp only [helem, hlaunch]
  rfl

theorem workKept_fencing (s : State) (p : Nat) (rs : List Nat) : WorkKept ((s.arrived p rs).discarded p rs) (s.fenceRegions p rs) := by
  rw [fenceRegions_eq]
  refine WorkKept.trans ?_ (workKept_foldl _ (fun b e => workKept_endFencedThread b e) _ _)
  exact (workKept_foldl _ (fun b e => workKept_postEv b _ _) _ _).trans (workKept_endFenced _ _)

/-- R353: the elements that stopped take up their queues. -/
theorem fenceRegions_restarts (s : State) (p : Nat) (rs : List Nat) {e : Nat} (he : e ∈ (s.arrived p rs).stoppedElems (whoGone p rs)) :
    Act.ev .matrixQueueStart { a := e } ∈ (s.fenceRegions p rs).agenda := by
  have hposted : ∀ (l : List Nat) (b : State), e ∈ l → Act.ev .matrixQueueStart { a := e } ∈ (l.foldl (fun s e => s.postEv .matrixQueueStart { a := e }) b).agenda := by
    intro l
    induction l with
    | nil => exact fun _ h => nomatch h
    | cons x l ih =>
      intro b h
      rcases List.mem_cons.1 h with rfl | h
      · exact (workKept_foldl _ (fun c i => workKept_postEv c _ _) l _).agenda _ (List.mem_append_right _ (List.mem_singleton.2 rfl))
      · exact ih _ h
  rw [fenceRegions_eq]
  exact (workKept_foldl _ (fun b e => workKept_endFencedThread b e) _ _).agenda _ ((workKept_endFenced _ _).agenda _ (hposted _ _ he))

/-! ## What arrives before -/

/-- Threads, sites, elements, tokens on their way and partitions of s' are those of s. -/
structure ArrivesIn (s s' : State) : Prop where
  threads : s'.threads = s.threads
  sites : s'.sites = s.sites
  elems : s'.elems = s.elems
  fabric : s'.fabric = s.fabric
  parts : s'.parts = s.parts

theorem ArrivesIn.trans {s s' s'' : State} (h : ArrivesIn s s') (h' : ArrivesIn s' s'') : ArrivesIn s s'' :=
  ⟨h'.threads.trans h.threads, h'.sites.trans h.sites, h'.elems.trans h.elems, h'.fabric.trans h.fabric, h'.parts.trans h.parts⟩

theorem arrivesIn_foldl {ι : Type} (g : State → ι → State) (hg : ∀ s i, ArrivesIn s (g s i)) (l : List ι) (s : State) : ArrivesIn s (l.foldl g s) := by
  induction l generalizing s with
  | nil => exact ⟨rfl, rfl, rfl, rfl, rfl⟩
  | cons i l ih => exact (hg s i).trans (ih _)

theorem arrivesIn_arrived (s : State) (p : Nat) (rs : List Nat) : ArrivesIn s (s.arrived p rs) := by
  have hheld : ArrivesIn s (s.returnHeld (tokGone p rs)) := arrivesIn_foldl _ (fun b t => by split <;> exact ⟨rfl, rfl, rfl, rfl, rfl⟩) _ s
  refine hheld.trans (arrivesIn_foldl _ (fun b k => ?_) _ _)
  unfold State.countRecv
  simp only
  split <;> exact ⟨rfl, rfl, rfl, rfl, rfl⟩

theorem threads_endFenced (s : State) (goneW : Who → Bool) : (s.endFenced goneW).threads = s.threads := by
  unfold State.endFenced
  refine threads_foldl _ (fun b e => ?_) _ s
  exact (threads_foldl _ (fun _ _ => by rfl) _ _).trans (threads_foldl _ (fun _ _ => by rfl) _ _)

theorem fencing_threads (s : State) (p : Nat) (rs : List Nat) : (s.fencing p rs).threads = s.threads := by
  rw [State.fencing, threads_endFenced]
  exact (threads_foldl _ (fun _ _ => by rfl) _ _).trans (arrivesIn_arrived s p rs).threads

/-- R353: of the domain's threads only those that still run are left, to end at their next boundary. -/
theorem fenceRegions_thr {s : State} {p : Nat} {rs : List Nat} {u : Nat} {t : Thread} (h : tget (s.fenceRegions p rs).threads u = some t)
    (hpart : t.part = p) (hreg : t.region ∈ rs) : t.ending = true := by
  rw [fenceRegions_eq] at h
  obtain ⟨t0, h0, hp, hr, hend⟩ := foldl_endFencedThread_thr _ (u := u) h
  refine hend (.inr ⟨(u, t0), List.mem_filter.2 ⟨mem_of_tget h0, ?_⟩, rfl⟩)
  exact decide_eq_true ⟨hp ▸ hpart, hr ▸ hreg⟩

/-! ## What is left of a site, a cell and an element -/

theorem discarded_cell (s : State) (p : Nat) (rs : List Nat) (a : Agent) : (s.discarded p rs).cell a = (s.cell a).discard (tokGone p rs) :=
  tgetD_map_snd s.cells (fun e => e.2.discard (tokGone p rs)) a Cell.reset rfl

theorem discarded_site (s : State) (p : Nat) (rs : List Nat) (x : Site) : (s.discarded p rs).site x = (s.site x).discard (tokGone p rs) (whoGone p rs) :=
  tgetD_map_snd s.sites (fun e => e.2.discard (tokGone p rs) (whoGone p rs)) x SiteSt.reset rfl

theorem discarded_elem (s : State) (p : Nat) (rs : List Nat) (n : Nat) : (s.discarded p rs).elem n = (s.elem n).fenced (whoGone p rs) :=
  tgetD_map_snd s.elems (fun e => e.2.fenced (whoGone p rs)) n Elem.reset rfl

theorem mem_discard_queue {c : Cell} {gone : Token → Bool} {port : Nat} {k : Token} (h : k ∈ (c.discard gone).queue port) : gone k = false := by
  have hq : (c.discard gone).queue port = (c.queue port).filter (fun t => !gone t) :=
    tgetD_map_snd c.queues (fun q => q.2.filter (fun t => !gone t)) port [] rfl
  rw [hq] at h
  simpa using (List.mem_filter.1 h).2

/-- A frame without the tokens of the domain, the slots that they stood in empty. -/
def Frame.discard (w : Frame) (gone : Token → Bool) : Frame :=
  { w with
    toks := w.toks.filter (fun k => !gone k.2)
    present := w.present.filter (fun b => !((w.toks.filter (fun k => gone k.2)).map (fun k => k.1)).contains b) }

theorem discard_frame {v : SiteSt} {gone : Token → Bool} {goneW : Who → Bool} {n : Nat} {w : Frame} (h : tget v.frames n = some w) :
    tget (v.discard gone goneW).frames n = some (w.discard gone) :=
  (tget_map_snd v.frames (fun e => e.2.discard gone) n).trans (by rw [h]; rfl)

theorem mem_discard_present {w : Frame} {gone : Token → Bool} {j : Nat} :
    j ∈ (w.discard gone).present ↔ j ∈ w.present ∧ ∀ k, (j, k) ∈ w.toks → gone k = false := by
  simp [Frame.discard, List.mem_filter]

theorem discard_copy {v : SiteSt} {gone : Token → Bool} {goneW : Who → Bool} {n : Nat} {c : Copy}
    (h : tget (v.discard gone goneW).copies n = some c) (hc : goneW c.who = true) : c.cancelled = true := by
  obtain ⟨c0, -, rfl⟩ := Option.map_eq_some_iff.1 ((tget_map_snd v.copies
    (fun e => { e.2 with cancelled := e.2.cancelled || goneW e.2.who }) n).symm.trans h)
  simp only [show goneW c0.who = true from hc, Bool.or_true]

theorem discard_chain {v : SiteSt} {gone : Token → Bool} {goneW : Who → Bool} {n : Nat} {c : CbChain}
    (h : tget (v.discard gone goneW).chains n = some c) (hc : goneW c.who = true) : c.stopped = true := by
  obtain ⟨c0, -, rfl⟩ := Option.map_eq_some_iff.1 ((tget_map_snd v.chains
    (fun e => { e.2 with stopped := e.2.stopped || goneW e.2.who, testing := if goneW e.2.who then none else e.2.testing }) n).symm.trans h)
  simp only [show goneW c0.who = true from hc, Bool.or_true]

theorem mem_fenced {e : Elem} {goneW : Who → Bool} {m : MxInstr} (h : m ∈ (e.fenced goneW).queue ++ (e.fenced goneW).running.toList) :
    goneW m.who = false := by
  unfold Elem.fenced at h
  rcases hr : e.running with _ | x
  · simp only [hr, Option.toList_none, List.append_nil, List.mem_filter] at h
    simpa using h.2
  · by_cases hx : goneW x.who = true
    · simp only [hr, if_pos hx, Option.toList_none, List.append_nil, List.mem_filter] at h
      simpa using h.2
    · simp only [hr, if_neg hx, Option.toList_some, List.mem_append, List.mem_filter, List.mem_singleton] at h
      rcases h with h | rfl
      · simpa using h.2
      · simpa using hx

/-! ## Poisoned rows -/

/-- An accumulator entry with its poison mark set, a fresh one on its row's pin where there was none. -/
def Elem.poisonEnt (e : Elem) (acc : Tbl Nat AccEnt) (k : Nat) : Tbl Nat AccEnt :=
  tset acc k { tgetD acc k ⟨0, 0, 0, false, tgetD e.pins (k / 128) 0, 0, 0, false⟩ with pois := true }

theorem foldl_poisonEnt (e : Elem) (keys : List Nat) (acc : Tbl Nat AccEnt) (k : Nat) :
    (k ∉ keys → tget (keys.foldl e.poisonEnt acc) k = tget acc k)
    ∧ (k ∈ keys ∨ (∃ a, tget acc k = some a ∧ a.pois = true) → ∃ a, tget (keys.foldl e.poisonEnt acc) k = some a ∧ a.pois = true) := by
  induction keys generalizing acc with
  | nil => exact ⟨fun _ => rfl, fun h => h.resolve_left (fun h => nomatch h)⟩
  | cons x l ih =>
    obtain ⟨hout, hin⟩ := ih (e.poisonEnt acc x)
    refine ⟨fun h => ?_, fun h => hin ?_⟩
    · rw [List.mem_cons, not_or] at h
      exact (hout h.2).trans (tget_tset_ne _ _ h.1)
    · by_cases hx : k = x
      · exact .inr ⟨_, by rw [hx]; exact tget_tset_same .., rfl⟩
      · rcases h with h | ⟨a, ha, hp⟩
        · exact .inl ((List.mem_cons.1 h).resolve_left hx)
        · exact .inr ⟨a, (tget_tset_ne _ _ hx).trans ha, hp⟩

theorem mem_rowKeys {r n i c : Nat} (hc : c < 128) :
    i * 128 + c ∈ (List.range n).flatMap (fun j => (List.range 128).map (fun c => (r + j) * 128 + c)) ↔ r ≤ i ∧ i < r + n := by
  simp only [List.mem_flatMap, List.mem_map, List.mem_range]
  constructor
  · rintro ⟨j, hj, d, hd, h⟩
    omega
  · intro h
    exact ⟨i - r, by omega, c, hc, by omega⟩

theorem poisonRows_acc (e : Elem) (r n : Nat) {i c : Nat} (hc : c < 128) :
    (r ≤ i → i < r + n → ∃ a, tget (e.poisonRows r n).acc (i * 128 + c) = some a ∧ a.pois = true)
    ∧ (i < r ∨ r + n ≤ i → tget (e.poisonRows r n).acc (i * 128 + c) = tget e.acc (i * 128 + c)) := by
  obtain ⟨hout, hin⟩ := foldl_poisonEnt e ((List.range n).flatMap (fun j => (List.range 128).map (fun c => (r + j) * 128 + c))) e.acc (i * 128 + c)
  exact ⟨fun h1 h2 => hin (.inl ((mem_rowKeys hc).2 ⟨h1, h2⟩)), fun h => hout (fun hmem => by have := (mem_rowKeys hc).1 hmem; omega)⟩

theorem rows_plain {m : MxInstr} (h : m.op ∉ [0xD0, 0xD7, 0xD8]) : m.rows = (fld m.lit 0 9, fld m.b 0 10) := by
  simp only [List.mem_cons, List.not_mem_nil, or_false, not_or] at h
  rw [MxInstr.rows, if_neg h.1, if_neg h.2.1, if_neg h.2.2]

/-! ## Before the regions are fenced -/

/-- Records leave the tokens, engines, elements and threads as they are, and the partition's domains and regions. -/
structure RecordsOnly (s s' : State) (p : Nat) : Prop where
  arrives : s'.threads = s.threads ∧ s'.sites = s.sites ∧ s'.elems = s.elems ∧ s'.fabric = s.fabric
  domains : (s'.part p).domains = (s.part p).domains

theorem RecordsOnly.trans {s s' s'' : State} {p : Nat} (h : RecordsOnly s s' p) (h' : RecordsOnly s' s'' p) : RecordsOnly s s'' p := by
  obtain ⟨⟨ht, hx, he, hf⟩, hd⟩ := h
  obtain ⟨⟨ht', hx', he', hf'⟩, hd'⟩ := h'
  exact ⟨⟨ht'.trans ht, hx'.trans hx, he'.trans he, hf'.trans hf⟩, hd'.trans hd⟩

theorem RecordsOnly.refl (s : State) (p : Nat) : RecordsOnly s s p := ⟨⟨rfl, rfl, rfl, rfl⟩, rfl⟩

theorem recordsOnly_modPart (s : State) (p : Nat) {g : Part → Part} (hg : ∀ v, (g v).domains = v.domains) : RecordsOnly s (s.modPart p g) p := by
  rcases hv : tget s.parts p with _ | v
  · simp only [State.modPart, hv]
    exact .refl s p
  · rw [modPart_of_tget hv]
    exact ⟨⟨rfl, rfl, rfl, rfl⟩, by rw [State.setPart_part, if_pos rfl, hg, part_of_tget hv]⟩

theorem recordsOnly_putRecord (s : State) (p cls region inv : Nat) (id : Word) (code : Nat) (ds : List Word) (await : Option RecFor) (va : Int) :
    RecordsOnly s (s.putRecord p cls region inv id code ds await va) p := by
  rcases hv : tget s.parts p with _ | v
  · simp only [State.putRecord, hv]
    exact .refl s p
  · have hdom : (s.putRecord p cls region inv id code ds await va).part p = v.recorded await code va :=
      part_of_tget (by rw [putRecord_parts hv]; exact tget_tset_same ..)
    obtain ⟨⟨⟨m, mb, c, as, g, n, cy, un, td, io, h⟩, -, -⟩, -⟩ := putRecord_recorded hv cls region inv id code ds await va
    refine ⟨?_, by rw [hdom, part_of_tget hv]; rfl⟩
    rw [h]
    exact ⟨rfl, rfl, rfl, rfl⟩

theorem recordsOnly_flushHeld (s : State) (p : Nat) : RecordsOnly s (s.flushHeld p) p := by
  unfold State.flushHeld
  generalize (s.part p).heldRecs.filter _ = l
  induction l generalizing s with
  | nil => exact .refl s p
  | cons e l ih =>
    refine RecordsOnly.trans ?_ (ih _)
    simp only
    split
    · exact .refl s p
    · exact (recordsOnly_putRecord ..).trans (recordsOnly_modPart _ _ (fun _ => rfl))

/-! ## The statement -/

/-- R353: the state in which the fence of a domain reaches its regions: it is marked, and its record is written or lost. -/
theorem fenceDomain_marks {s : State} {p r : Nat} (cause : Option Nat) {v : Part} (hv : tget s.parts p = some v)
    (hd : (tgetD v.domains (v.domOf r) ⟨false, false, 0⟩).fenced = false) :
    ∃ c : State, s.fenceDomain p r cause = c.fenceRegions p ((v.regions.filter (fun g => g.2.dom = v.domOf r)).map (fun g => g.1))
      ∧ (c.threads = s.threads ∧ c.sites = s.sites ∧ c.elems = s.elems ∧ c.fabric = s.fabric)
      ∧ (tgetD (c.part p).domains (v.domOf r) ⟨false, false, 0⟩).fenced = true := by
  let d := tgetD v.domains (v.domOf r) ⟨false, false, 0⟩
  let s1 := s.setPart p { v with domains := tset v.domains (v.domOf r) { d with fenced := true } }
  have h1 : s1.part p = { v with domains := tset v.domains (v.domOf r) { d with fenced := true } } := part_of_tget (tget_tset_same ..)
  have hrec : ∀ (b : State) (g : State), b = (if (g.part p).occupancy < 248 then g.putRecord p 1 (v.domOf r) (cause.getD 0)
      (match cause with | none => 0xFFFFFFFF | some i => s1.invId i) 0x0119 [] none 0
      else g.modPart p (fun v => { v with lost := v.lost + 1 })) → RecordsOnly g b p := by
    rintro b g rfl
    split
    · exact recordsOnly_putRecord ..
    · exact recordsOnly_modPart _ _ (fun _ => rfl)
  have hboth := (recordsOnly_flushHeld s1 p).trans (hrec _ _ rfl)
  refine ⟨_, ?_, hboth.arrives, ?_⟩
  · simp only [State.fenceDomain, hv, hd, Bool.false_eq_true, if_false]
    rfl
  · rw [hboth.domains, h1, tgetD_tset, if_pos rfl]

/-- Settles O54: a fenced domain stays as it is; otherwise each part of the state by what the fence discards of it and the ends of threads leave. -/
theorem domainFence : Obligations.DomainFence := by
  intro s p r cause v hv o d b mine
  have hd : tgetD v.domains (v.domOf r) ⟨false, false, 0⟩ = d := rfl
  refine ⟨fun hf => ?_, fun hf => ?_⟩
  · simp only [b, State.fenceDomain, hv, hd, hf, if_true]
  obtain ⟨c, hb, ⟨hthreads, hsites, helems, hfabric⟩, hdom⟩ := fenceDomain_marks (r := r) cause hv hf
  let rs := (v.regions.filter (fun g => g.2.dom = v.domOf r)).map (fun g => g.1)
  have hb : b = c.fenceRegions p rs := hb
  have hin := arrivesIn_arrived c p rs
  have hkept := workKept_fencing c p rs
  rw [← hb] at hkept
  have hmine : ∀ q n, mine q n ↔ q = p ∧ n ∈ rs := by
    intro q n
    simp only [mine, rs, o, List.mem_map, List.mem_filter, decide_eq_true_eq, Prod.exists, exists_and_right, exists_eq_right]
  have htok : ∀ k : Token, tokGone p rs k = true ↔ mine k.part k.region := fun k => by simp [hmine, tokGone]
  have hwho : ∀ w : Who, whoGone p rs w = true ↔ mine w.part w.region := fun w => by simp [hmine, whoGone]
  have hnot : ∀ k : Token, tokGone p rs k = false ↔ ¬mine k.part k.region := fun k => by rw [← htok, Bool.not_eq_true]
  have hnotw : ∀ w : Who, whoGone p rs w = false ↔ ¬mine w.part w.region := fun w => by rw [← hwho, Bool.not_eq_true]
  have hsite : ∀ x, ((c.arrived p rs).discarded p rs).site x = (s.site x).discard (tokGone p rs) (whoGone p rs) := fun x => by
    rw [discarded_site, State.site_congr (hin.sites.trans hsites)]
  have helem : ∀ n, tget b.elems n = (tget s.elems n).map (fun e => e.fenced (whoGone p rs)) := fun n => by
    rw [hkept.elems, ← helems, ← hin.elems]
    exact tget_map_snd (c.arrived p rs).elems (fun e => e.2.fenced (whoGone p rs)) n
  refine ⟨?marked, ?fabric, ?queues, ?frames, ?pairs, ?buffers, ?copies, ?chains, ?elems, ?restart, ?rows, ?launches, ?threads⟩
  case marked => rwa [State.part_congr (hkept.parts.trans hin.parts)]
  case fabric =>
    intro k hk
    rw [hkept.fabric] at hk
    obtain ⟨hk, hgone⟩ := List.mem_filter.1 hk
    exact ⟨(hin.fabric.trans hfabric) ▸ hk, (hnot k).1 (by simpa using hgone)⟩
  case queues =>
    intro ag n k hk
    rw [Cell.queue, (hkept.queues ag).1, discarded_cell] at hk
    exact (hnot k).1 (mem_discard_queue hk)
  case frames =>
    intro x n w hw
    refine ⟨w.discard (tokGone p rs), by rw [hkept.frames, hsite]; exact discard_frame hw, rfl, rfl, fun e => ?_, fun j => ?_⟩
    · simp only [Frame.discard, List.mem_filter, ← hnot, Bool.not_eq_true']
    · simp only [mem_discard_present, hnot]
  case pairs =>
    intro ag q hq
    rw [(hkept.queues ag).2, discarded_cell] at hq
    have hgone := (List.mem_filter.1 hq).2
    rw [Bool.not_eq_true', Bool.or_eq_false_iff] at hgone
    exact ⟨(hnot _).1 hgone.1, (hnot _).1 hgone.2⟩
  case buffers =>
    intro x k hk
    rw [(hkept.buffers x).1, (hkept.buffers x).2, hsite] at hk
    refine (hnot k).1 ?_
    rcases List.mem_append.1 hk with hk | hk <;> simpa using (List.mem_filter.1 hk).2
  case copies =>
    intro x n k hk hm
    rw [(hkept.engines x).1, hsite] at hk
    exact discard_copy hk ((hwho _).2 hm)
  case chains =>
    intro x n k hk hm
    rw [(hkept.engines x).2, hsite] at hk
    exact discard_chain hk ((hwho _).2 hm)
  case elems =>
    intro n m hm
    have hn : b.elem n = (s.elem n).fenced (whoGone p rs) := by
      rw [State.elem, tgetD, helem, State.elem, tgetD]
      cases tget s.elems n <;> rfl
    rw [hn] at hm
    exact (hnotw _).1 (mem_fenced hm)
  case restart =>
    intro e he m hm hmine
    rw [hb]
    refine fenceRegions_restarts c p rs (List.mem_map.2 ⟨e, List.mem_filter.2 ⟨(hin.elems.trans helems) ▸ he, ?_⟩, rfl⟩)
    rw [hm]
    exact (hwho _).2 hmine
  case rows =>
    intro n x m hx hrun hm hop
    refine ⟨x.fenced (whoGone p rs), by rw [helem, hx]; rfl, ?_⟩
    have hfenced : x.fenced (whoGone p rs) = { x.poisonRows (fld m.lit 0 9) (fld m.b 0 10) with
        queue := x.queue.filter (fun m => !whoGone p rs m.who), running := none } := by
      simp only [Elem.fenced, hrun, if_pos ((hwho _).2 hm), rows_plain hop]
    rw [hfenced]
    exact ⟨rfl, rfl, rfl, fun i c h1 h2 hc => (poisonRows_acc x _ _ hc).1 h1 h2, fun i c h hc => (poisonRows_acc x _ _ hc).2 h⟩
  case launches =>
    intro l x hx hm hst
    rw [hkept.launches] at hx
    obtain ⟨x0, -, rfl⟩ := Option.map_eq_some_iff.1 ((tget_map_snd (c.arrived p rs).launches (fun e => e.2.fence p rs) l).symm.trans hx)
    by_cases h : x0.part = p ∧ x0.region ∈ rs ∧ x0.st = .run
    · simp only [Launch.fence, if_pos h]
    · simp only [Launch.fence, if_neg h] at hm hst
      exact absurd ⟨((hmine _ _).1 hm).1, ((hmine _ _).1 hm).2, hst⟩ h
  case threads =>
    intro u t ht hm
    rw [hb] at ht
    obtain ⟨hp, hr⟩ := (hmine _ _).1 hm
    exact fenceRegions_thr ht hp hr

end Sys2Proof.Machine
end
section
/-! Replies to records (R357, R359, R360) and the control cores' answers (R312, R313, R455). -/

namespace Sys2Proof.Machine

/-! ## Held records (R357) -/

theorem tdel_tset_same {κ α : Type} [DecidableEq κ] (t : Tbl κ α) (k : κ) (a : α) : tdel (tset t k a) k = tdel t k := by
  induction t with
  | nil => simp [tset, tdel]
  | cons e t ih =>
    obtain ⟨j, b⟩ := e
    by_cases h : j = k
    · simp [tset, tdel, h]
    · simpa [tset, tdel, h] using ih

/-- R357: the record that a held record is written as. -/
def State.putHeld (s : State) (p : Nat) (n : Nat) (h : HeldRec) : State :=
  (s.putRecord p h.cls h.region (s.launchOf p h.inv) h.inv h.code h.details (some h.for_) h.va).modPart p (fun v =>
    { v with heldRecs := tset v.heldRecs n { h with written := true } })

/-- R357: one held record's turn. -/
def State.flushOne (s : State) (p : Nat) (e : Nat × HeldRec) : State :=
  if 248 ≤ (s.part p).occupancy then s else s.putHeld p e.1 e.2

theorem flushHeld_eq (s : State) (p : Nat) :
    s.flushHeld p = ((s.part p).heldRecs.filter (fun e => !e.2.written)).foldl (fun s e => s.flushOne p e) s := rfl

/-- With 248 entries occupied nothing held is written. -/
theorem foldl_flushOne_full {s : State} {p : Nat} (hfull : 248 ≤ (s.part p).occupancy) (l : List (Nat × HeldRec)) :
    l.foldl (fun s e => s.flushOne p e) s = s := by
  induction l with
  | nil => rfl
  | cons e l ih => rw [List.foldl_cons, State.flushOne, if_pos hfull, ih]

section Held
variable {s : State} {v : Part} {p n : Nat} {h : HeldRec} (hv : tget s.parts p = some v)
include hv

/-- The partition with a held record written. -/
theorem putHeld_parts : tget (s.putHeld p n h).parts p
    = some { v.recorded (some h.for_) h.code h.va with heldRecs := tset v.heldRecs n { h with written := true } } := by
  rw [State.putHeld, modPart_of_tget (by rw [putRecord_parts hv]; exact tget_tset_same ..)]
  exact tget_tset_same ..

theorem putHeld_mem (hswitch : s.coh.switch = none) (hlost : s.coh.lost = []) (hap : isAperture v.recordAt = false) :
    (s.putHeld p n h).mem = wrN s.mem v.recordAt
      (wordsBytes (recordWords p h.cls h.region h.code h.inv v.seq (v.tqTail.toNat % 256) true h.details s.tod)) := by
  rw [State.putHeld, State.modPart_mem, putRecord_stores hv _ _ _ _ _ _ _ _ hswitch hlost hap]
  rfl

theorem putHeld_threads : (s.putHeld p n h).threads = s.threads := by
  obtain ⟨⟨⟨m, mb, c, as, g, k, cy, un, td, io, heq⟩, -, -⟩, -⟩ := putRecord_recorded hv h.cls h.region (s.launchOf p h.inv) h.inv h.code h.details (some h.for_) h.va
  rw [State.putHeld, State.modPart_threads, heq]

omit hv in
theorem occupancy_recorded {v : Part} (await : Option RecFor) (code : Nat) (va : Int) (hocc : v.occupancy < 256) :
    (v.recorded await code va).occupancy = v.occupancy + 1 := by
  unfold Part.occupancy Part.recorded at *
  simp only
  bv_omega

end Held

/-! ## The event of a held record -/

/-- R357: the agent of a record learns that it is written. -/
def State.told (s : State) (r : RecFor) : State :=
  match r.uid? with
  | some u => s.recordWritten u
  | none => s

theorem trapRecordWrite_exec (s : State) : exec .trapRecordWrite s = (let b := s.flushHeld s.subj.a
    match tget (b.part s.subj.a).heldRecs s.subj.b with
    | none => .next b
    | some h => if !h.written then .next (b.postEv .trapRecordWrite { a := s.subj.a, b := s.subj.b })
      else .next ((b.modPart s.subj.a (fun v => { v with heldRecs := tdel v.heldRecs s.subj.b })).told h.for_)) := by
  simp only [exec, execTrapRecordWrite]
  cases tget ((s.flushHeld s.subj.a).part s.subj.a).heldRecs s.subj.b with
  | none => rfl
  | some h =>
    by_cases hw : h.written = true
    · simp only [hw, Bool.not_true, Bool.false_eq_true, if_false]
      cases h.for_ <;> rfl
    · simp only [Bool.not_eq_true] at hw
      simp only [hw, Bool.not_false, if_true]

section Event
variable {s : State} {v : Part} {h : HeldRec} {b : State} (hflush : s.flushHeld s.subj.a = b) (hb : tget b.parts s.subj.a = some v)
  (hh : tget v.heldRecs s.subj.b = some h)
include hflush hb hh

theorem trapRecordWrite_waits (hw : h.written = false) : exec .trapRecordWrite s = .next (b.postEv .trapRecordWrite { a := s.subj.a, b := s.subj.b }) := by
  rw [trapRecordWrite_exec]
  simp only [hflush, part_of_tget hb, hh, hw, Bool.not_false, if_true]

theorem trapRecordWrite_tells (hw : h.written = true) : exec .trapRecordWrite s
    = .next ((b.setPart s.subj.a { v with heldRecs := tdel v.heldRecs s.subj.b }).told h.for_) := by
  rw [trapRecordWrite_exec]
  simp only [hflush, part_of_tget hb, hh, hw, Bool.not_true, Bool.false_eq_true, if_false, modPart_of_tget hb]

end Event

/-- R358: a thread whose record is written waits for its reply; memory and partitions stay. -/
theorem recordWritten_keeps (s : State) (u : Nat) : (s.recordWritten u).mem = s.mem ∧ (s.recordWritten u).parts = s.parts := by
  unfold State.recordWritten
  split
  · exact ⟨rfl, rfl⟩
  · split
    · exact ⟨(keeps_suspend s u .reply).same .mem (by simp), State.suspend_parts ..⟩
    · exact ⟨rfl, rfl⟩

theorem told_keeps (s : State) (r : RecFor) : (s.told r).mem = s.mem ∧ (s.told r).parts = s.parts := by
  unfold State.told
  split
  · exact recordWritten_keeps ..
  · exact ⟨rfl, rfl⟩

theorem recordWritten_waits {s : State} {u : Nat} {t : Thread} (ht : s.thr? u = some t) (hst : t.stat = .record) :
    ∃ k, (s.recordWritten u).thr? u = some k ∧ k.stat = .reply ∧ k.ip = t.ip := by
  obtain ⟨sl, su, h⟩ := State.suspend_stat .reply ht
  refine ⟨{ t with stat := .reply, slot := sl, susp := su }, ?_, rfl, rfl⟩
  simp only [State.recordWritten, ht, hst, if_true]
  exact h

/-! ## Replies (R359, R360) -/

theorem reply_exec {i : Instr} {act : Nat} (hi : (i, act) ∈ [(Instr.replyRetry, 0), (.replyFail, 1), (.replyEndThread, 2)]) (s : State) :
    exec i s = .next ((s.reply s.subj.a act s.subj.v.toNat).cwSet s.subj.d) := by
  simp only [List.mem_cons, List.not_mem_nil, or_false, Prod.mk.injEq] at hi
  rcases hi with ⟨rfl, rfl⟩ | ⟨rfl, rfl⟩ | ⟨rfl, rfl⟩ <;> rfl

/-- R360: the bit that marks an awaited reply is cleared and the record is answered. -/
def State.answered (s : State) (p entry : Nat) (m : RecMeta) (action : Nat) : State :=
  let out := s.biv.any (fun b => b.2.site.part == some p) || s.sites.any (fun e => e.2.swapped && e.2.part == some p)
  (s.modPart p (fun v => { v with
    recs := tset v.recs entry { m with answered := true }
    kept := if out then v.kept ++ [⟨m.for_, m.code, action⟩] else v.kept })).clearAwait p entry

theorem acceptReply_eq (s : State) (p entry : Nat) (m : RecMeta) (action : Nat) :
    s.acceptReply p entry m action = (s.answered p entry m action).replyEffect p m.for_ m.code action (fun w => !s.away w.ag.site w.inv) := by
  have haway : ∀ g : Part → Part, (fun w : Who => !s.away w.ag.site w.inv) = fun w => !(s.modPart p g).away w.ag.site w.inv := by
    intro g
    funext w
    unfold State.modPart
    split <;> rfl
  rw [State.answered, haway]
  rfl

section Answered
variable {s : State} {p entry : Nat} {v : Part} {m : RecMeta} {act : Nat} (hv : tget s.parts p = some v)
  (hswitch : s.coh.switch = none) (hheld : s.coh.hwHeld = []) (hlost : s.coh.lost = [])
  (hap : isAperture ((v.tqBase.toNat + 64 * entry) % 2 ^ 51 + 13) = false)
include hv hswitch hheld hlost hap

/-- R360: byte 13 of the record loses its bit 0; the record counts as answered; the threads and the cells stay. -/
theorem answered_clears : (s.answered p entry m act).mem = wrB s.mem ((v.tqBase.toNat + 64 * entry) % 2 ^ 51 + 13)
      (rdB s.mem ((v.tqBase.toNat + 64 * entry) % 2 ^ 51 + 13) &&& 0xFE)
    ∧ (∃ n, tget ((s.answered p entry m act).part p).recs entry = some n ∧ n.answered = true)
    ∧ (s.answered p entry m act).threads = s.threads ∧ (s.answered p entry m act).cells = s.cells := by
  unfold State.answered
  simp only [modPart_of_tget hv]
  generalize hb : s.setPart p _ = b
  have hbp : ∃ w, b.part p = w ∧ w.tqBase = v.tqBase ∧ tget w.recs entry = some { m with answered := true } := by
    rw [← hb, State.setPart_part, if_pos rfl]
    exact ⟨_, rfl, rfl, tget_tset_same ..⟩
  obtain ⟨w, hw, hbase, hrec⟩ := hbp
  have hmem : b.mem = s.mem := by rw [← hb]; rfl
  have hcoh : b.coh = s.coh := by rw [← hb]; rfl
  have hthreads : b.threads = s.threads := by rw [← hb]; rfl
  have hcells : b.cells = s.cells := by rw [← hb]; rfl
  have hhw : b.hwMem = s.mem := by rw [State.hwMem, hcoh, hheld, hmem]; rfl
  have hstay := tablesStay_hwWrite b ((v.tqBase.toNat + 64 * entry) % 2 ^ 51 + 13) [rdB s.mem ((v.tqBase.toNat + 64 * entry) % 2 ^ 51 + 13) &&& 0xFE]
  rw [State.clearAwait, hw, hbase]
  simp only [hap, Bool.false_eq_true, if_false, hhw]
  refine ⟨?_, ⟨{ m with answered := true }, ?_, rfl⟩, hstay.threads.trans hthreads, hstay.cells.trans hcells⟩
  · rw [hwWrite_stores _ (by rw [hcoh, hswitch]) (by rw [hcoh, hlost]) hap, hmem]
    rfl
  · rw [State.part_congr hstay.parts, hw]
    exact hrec

end Answered

/-- R359: the thread that a record is for takes its reply where its site is not swapped out. -/
theorem acceptReply_thread {s : State} {p entry : Nat} {m : RecMeta} {act u : Nat} {t : Thread} (hr : m.for_ = .loop u ∨ m.for_ = .trap u)
    (hb : (s.answered p entry m act).thr? u = some t) (haway : s.away t.src.site t.inv = false) :
    s.acceptReply p entry m act = (s.answered p entry m act).replyThread u m.for_ m.code act := by
  have hok : (!s.away (t.who 0).ag.site (t.who 0).inv) = true := by
    rw [show (t.who 0).ag.site = t.src.site from rfl, show (t.who 0).inv = t.inv from rfl, haway]
    rfl
  rw [acceptReply_eq]
  rcases hr with hr | hr <;> simp only [hr, State.replyEffect, RecFor.uid?, hb, hok, if_true]

theorem endThread_mem (s : State) (u : Nat) : (s.endThread u).mem = s.mem := (keeps_endThread s u).same .mem (by simp)

/-- R359: a thread whose record is answered with retry issues its instruction again. -/
theorem runAgain_runs {s : State} {u : Nat} {t : Thread} (ht : s.thr? u = some t) :
    (s.runAgain u).mem = s.mem ∧ (s.runAgain u).parts = s.parts
    ∧ ∃ k, (s.runAgain u).thr? u = some k ∧ k.wait = none ∧ k.ip = t.ip ∧ k.lanes = t.lanes ∧ k.stat = if t.slot.isSome then .ready else .run := by
  have hfree : ∀ rs, (s.unreserveAll rs).mem = s.mem ∧ (s.unreserveAll rs).parts = s.parts := fun rs =>
    ⟨(keeps_unreserveAll s u rs).same .mem (by simp), foldl_same State.parts (fun b (r : Resv × Bool) => b.unreserve r.1) (fun b r => (workKept_unreserve b r.1).parts) rs s⟩
  unfold State.runAgain
  rw [ht]
  simp only
  rcases hs : t.slot with _ | k
  · exact ⟨(hfree _).1, (hfree _).2, _, thr_setThr .., rfl, rfl, rfl, rfl⟩
  · exact ⟨(hfree _).1, (hfree _).2, _, thr_setThr .., rfl, rfl, rfl, rfl⟩

/-! ## Lanes parked on a page (R253, R359) -/

/-- An access that a retry reaches: its identity is x's and each lane of x stands at its address, walking again where `done` says so. -/
structure Rewalks (s : State) (a : Nat) (x : Access) (m : LaneAcc) (walking : Prop) : Prop where
  acc : ∃ y, s.acc? a = some y ∧ y.who = x.who ∧ ∃ n ∈ y.lanes, n.lane = m.lane ∧ n.ea = m.ea ∧ (walking → n.st = .walk)
  posted : walking → Act.ev .pageWalk { a := a, b := m.lane } ∈ s.agenda

/-- R359: one parked lane of an answered page walks again unless its site is stopped. -/
def State.retryLane (s : State) (k : Nat × Nat) : State :=
  if ((s.acc? k.1).map (fun x => s.idleSite x.who.ag.site)).getD true then s
  else (s.modLane k.1 k.2 (fun m => { m with st := .walk })).postEv .pageWalk { a := k.1, b := k.2 }

theorem retryLane_idleSite (s : State) (k : Nat × Nat) (x : Site) : (s.retryLane k).idleSite x = s.idleSite x := by
  unfold State.retryLane
  split <;> rfl

theorem retryLane_rewalks {s : State} {a : Nat} {x : Access} {m : LaneAcc} {walking : Prop} (hidle : s.idleSite x.who.ag.site = false)
    (h : Rewalks s a x m walking) (k : Nat × Nat) : Rewalks (s.retryLane k) a x m (walking ∨ k = (a, m.lane)) := by
  obtain ⟨⟨y, hy, hwho, n, hn, hlane, hea, hwalk⟩, hposted⟩ := h
  obtain ⟨b, l⟩ := k
  by_cases ha : b = a
  · subst ha
    have hgo : s.retryLane (b, l) = (s.modLane b l (fun m => { m with st := .walk })).postEv .pageWalk { a := b, b := l } := by
      unfold State.retryLane
      simp only [hy, Option.map_some, Option.getD_some, hwho, hidle, Bool.false_eq_true, if_false]
    rw [hgo]
    refine ⟨⟨_, modLane_acc hy l _, hwho, _, List.mem_map_of_mem hn, ?_, ?_, ?_⟩, ?_⟩
    · split <;> exact hlane
    · split <;> exact hea
    · rintro (hw | hk)
      · split
        · rfl
        · exact hwalk hw
      · rw [if_pos (hlane.trans (Prod.mk.inj hk).2.symm)]
    · rintro (hw | hk)
      · exact List.mem_append_left _ (hposted hw)
      · exact List.mem_append_right _ (List.mem_singleton.2 ((Prod.mk.inj hk).2 ▸ rfl))
  · have hacc : (s.retryLane (b, l)).acc? a = some y ∧ ∀ c ∈ s.agenda, c ∈ (s.retryLane (b, l)).agenda := by
      unfold State.retryLane
      split
      · exact ⟨hy, fun _ h => h⟩
      · exact ⟨(State.modAcc_acc ..).trans ((if_neg (Ne.symm ha)).trans hy), fun _ h => List.mem_append_left _ h⟩
    have hne : ¬(b, l) = (a, m.lane) := fun h => ha (Prod.mk.inj h).1
    exact ⟨⟨y, hacc.1, hwho, n, hn, hlane, hea, fun hw => hwalk (hw.resolve_right hne)⟩, fun hw => hacc.2 _ (hposted (hw.resolve_right hne))⟩

theorem foldl_retryLane_rewalks {a : Nat} {x : Access} {m : LaneAcc} (l : List (Nat × Nat)) {s : State} {walking : Prop}
    (hidle : s.idleSite x.who.ag.site = false) (h : Rewalks s a x m walking) :
    Rewalks (l.foldl State.retryLane s) a x m (walking ∨ (a, m.lane) ∈ l) := by
  induction l generalizing s walking with
  | nil => simpa using h
  | cons k l ih =>
    have h1 := ih ((retryLane_idleSite s k _).trans hidle) (retryLane_rewalks hidle h k)
    simpa [or_assoc, eq_comm] using h1

theorem replyLanes_retry (s : State) (p page die code : Nat) (ok : Who → Bool) : s.replyLanes p page die code false ok
    = (s.accs.flatMap (fun e => (e.2.lanes.filter (s.laneOn p page die code ok e.2)).map (fun m => (e.1, m.lane)))).foldl State.retryLane s := rfl

/-- R359: a lane parked on an answered page walks again. -/
theorem replyLanes_walks {s : State} {p page die a : Nat} {x : Access} {ok : Who → Bool} (hx : s.acc? a = some x)
    (hidle : s.idleSite x.who.ag.site = false) {m : LaneAcc} (hm : m ∈ x.lanes) (hon : s.laneOn p page die 1 ok x m = true) :
    Rewalks (s.replyLanes p page die 1 false ok) a x m True := by
  have hstart : Rewalks s a x m False := ⟨⟨x, hx, rfl, m, hm, rfl, rfl, False.elim⟩, False.elim⟩
  rw [replyLanes_retry]
  generalize hl : s.accs.flatMap _ = l
  have hmem : (a, m.lane) ∈ l := hl ▸ List.mem_flatMap.2 ⟨(a, x), mem_of_tget hx, List.mem_map.2 ⟨m, List.mem_filter.2 ⟨hm, hon⟩, rfl⟩⟩
  have h := foldl_retryLane_rewalks l hidle hstart
  rwa [eq_true (Or.inr hmem)] at h

/-! ## The control cores' answers (R312, R313, R455) -/

theorem translationMissService_exec (s : State) : exec .translationMissService s = (match s.openRec s.subj.a s.subj.b 1 with
    | none => .next s
    | some m => if s.hwHolds s.subj.a (.syrad 0) m.va then .next (s.postEv .translationMissService { a := s.subj.a, b := s.subj.b })
      else .next (s.acceptReply s.subj.a s.subj.b m (if (s.walk s.subj.a (.syrad 0) m.va).isSome then 0 else 1))) := rfl

section CopyOnWrite
variable {s : State} {m : RecMeta} (hrec : s.openRec s.subj.a s.subj.b 2 = some m)
include hrec

/-- R313: the service goes on to a phase. -/
def State.cowGo (s b : State) (c : Nat) : Out := .next (b.postEv .copyOnWriteService { a := s.subj.a, b := s.subj.b, c := c })

theorem copyOnWrite_copies (hc : s.subj.c = 0) : exec .copyOnWriteService s
    = if s.hwHolds s.subj.a (.syrad 0) m.va || s.switching (s.part s.subj.a).cowbase.toNat then s.cowGo s 0
      else match s.walk s.subj.a (.syrad 0) m.va with
      | none => .next (s.acceptReply s.subj.a s.subj.b m 0)
      | some e =>
        if !e.cow then .next (s.acceptReply s.subj.a s.subj.b m 0)
        else match s.cowCopy s.subj.a m e with
          | none => .next (s.acceptReply s.subj.a s.subj.b m 1)
          | some b => s.cowGo b 1 := by
  simp only [exec, execCopyOnWriteService, hrec, hc]
  rfl

theorem copyOnWrite_invalidates (hc : s.subj.c = 1) : exec .copyOnWriteService s
    = if (s.part s.subj.a).invst.isSome then s.cowGo s 1
      else s.cowGo (s.mmuInvalidate s.subj.a ((BitVec.ofInt 64 m.va).toNat / 65536 * 65536 + 1)) 2 := by
  simp only [exec, execCopyOnWriteService, hrec, hc]
  rfl

theorem copyOnWrite_replies (hc : s.subj.c = 2) : exec .copyOnWriteService s
    = if (s.part s.subj.a).invst.isSome then s.cowGo s 2 else .next (s.acceptReply s.subj.a s.subj.b m 0) := by
  simp only [exec, execCopyOnWriteService, hrec, hc]
  rfl

end CopyOnWrite

/-! ## The copied page (R313) -/

theorem leBytes_length (n x : Nat) : (leBytes n x).length = n := by
  induction n generalizing x with
  | zero => rfl
  | succ n ih => rw [leBytes, List.length_cons, ih]

theorem rdN_getD (m : List Host.Cell) (a n i : Nat) (hi : i < n) : (rdN m a n).getD i 0 = rdB m (a + i) := by
  have h : i < (rdN m a n).length := by rwa [rdN_length]
  rw [List.getD_eq_getElem _ _ h, rdN_getElem]

section Cow
variable {s : State} {p : Nat} {v : Part} {m : RecMeta} {e : TlbEnt} {at_ : Nat} (hv : tget s.parts p = some v)
  (hleaf : s.leafAddr (va57 m.va) 4 (v.root.toNat / 4096 * 4096) = some at_) (hpool : v.cowbase.toNat < v.cowlimit.toNat)
  (hin : s.inMem p v.cowbase.toNat 65536 = true) (hswitch : s.coh.switch = none) (hlost : s.coh.lost = [])
  (hold : isAperture e.pa = false) (hat : isAperture at_ = false) (hnew : isAperture v.cowbase.toNat = false)
include hv hleaf hpool hin hswitch hlost hold hat hnew

/-- R313, R455: the pool's next page takes the old page's bytes, then the leaf takes the new page. -/
theorem cowCopy_writes : ∃ b, s.cowCopy p m e = some b
    ∧ b.mem = wrN (wrN s.mem v.cowbase.toNat (rdN s.mem e.pa 65536)) at_ (leBytes 8 (v.cowbase.toNat / 256 * 256 + e.repl * 32 + 11))
    ∧ tget b.parts p = some { v with cowbase := v.cowbase + 65536 } := by
  have hserved : s.served e.pa = true := by simp [State.served, hold, hlost]
  have hfirst := hwWritten_hwWrite s v.cowbase.toNat (rdN s.mem e.pa 65536)
  have hmem1 := hwWrite_stores (rdN s.mem e.pa 65536) hswitch hlost hnew
  have hparts1 := (tablesStay_hwWrite s v.cowbase.toNat (rdN s.mem e.pa 65536)).parts
  unfold State.cowCopy
  simp only [part_of_tget hv, hleaf]
  rw [if_neg (by simp only [hin, hserved, Bool.not_true, Bool.false_eq_true, or_false, Nat.not_le]; exact hpool)]
  generalize hc : ({ s.hwWrite v.cowbase.toNat (rdN s.mem e.pa 65536) with memBad := _ } : State) = c
  have hcmem : c.mem = (s.hwWrite v.cowbase.toNat (rdN s.mem e.pa 65536)).mem := by rw [← hc]
  have hccoh : c.coh = (s.hwWrite v.cowbase.toNat (rdN s.mem e.pa 65536)).coh := by rw [← hc]
  have hcparts : c.parts = (s.hwWrite v.cowbase.toNat (rdN s.mem e.pa 65536)).parts := by rw [← hc]
  have hmem2 := hwWrite_stores (s := c) (leBytes 8 (v.cowbase.toNat / 256 * 256 + e.repl * 32 + 11))
    (by rw [hccoh, hfirst.switch, hswitch]) (by rw [hccoh, hfirst.lost, hlost]) hat
  have hparts2 := (tablesStay_hwWrite c at_ (leBytes 8 (v.cowbase.toNat / 256 * 256 + e.repl * 32 + 11))).parts
  refine ⟨_, rfl, by rw [State.modPart_mem, hmem2, hcmem, hmem1], ?_⟩
  rw [modPart_of_tget (by rw [hparts2, hcparts, hparts1]; exact hv)]
  exact tget_tset_same ..

end Cow

/-! ## The statement -/

/-- Settles O55: held records by what a flush writes, replies by the record that they name, the control cores' answers case by case. -/
theorem repliesAndAnswers : Obligations.RepliesAndAnswers := by
  refine ⟨⟨?held, ?replies, ?lanes⟩, ?services⟩
  case held =>
    intro s h v hv hh hlost hap p entry again held
    have hpart : s.part s.subj.a = v := part_of_tget hv
    have hidle : 248 ≤ v.occupancy ∨ held = [] → s.flushHeld s.subj.a = s := by
      rintro (hfull | hnone)
      · rw [flushHeld_eq]
        exact foldl_flushOne_full (by rw [hpart]; exact hfull) _
      · rw [flushHeld_eq, hpart, show v.heldRecs.filter _ = [] from hnone]
        rfl
    have hfirst : ∀ n g rest, held = (n, g) :: rest → v.occupancy < 248 → rest = [] ∨ v.occupancy = 247 → s.flushHeld s.subj.a = s.putHeld s.subj.a n g := by
      intro n g rest hq hroom hrest
      rw [flushHeld_eq, hpart, show v.heldRecs.filter _ = (n, g) :: rest from hq, List.foldl_cons, State.flushOne,
        if_neg (by rw [hpart]; omega)]
      rcases hrest with rfl | hocc
      · rfl
      · have hput : ((s.putHeld s.subj.a n g).part s.subj.a).occupancy = v.occupancy + 1 := by
          rw [part_of_tget (putHeld_parts hv)]
          exact occupancy_recorded (some g.for_) g.code g.va (by omega)
        exact foldl_flushOne_full (le_of_eq (by rw [hput, hocc])) rest
    refine ⟨fun hw hfull => trapRecordWrite_waits (hidle (.inl hfull)) hv hh hw, fun hw hnone => ?_, ?_, ?_⟩
    · obtain ⟨hmem, hparts⟩ := told_keeps (s.setPart s.subj.a { v with heldRecs := tdel v.heldRecs s.subj.b }) h.for_
      exact ⟨_, trapRecordWrite_tells (hidle (.inr hnone)) hv hh hw, hmem, by rw [hparts]; exact tget_tset_same ..⟩
    · intro n g rest hq hn hw hocc hswitch ws
      have hb := hfirst n g rest hq (show v.occupancy < 248 by rw [Part.occupancy, hocc]; decide) (.inr hocc)
      refine ⟨_, trapRecordWrite_waits hb (putHeld_parts hv) ((tget_tset_ne _ _ (Ne.symm hn)).trans hh) hw, putHeld_mem hv hswitch hlost hap,
        putHeld_parts hv, List.mem_append_right _ (List.mem_singleton.2 rfl)⟩
    · intro hq hroom hswitch ws
      have hb := hfirst _ _ _ hq hroom (.inl rfl)
      have htold := trapRecordWrite_tells hb (putHeld_parts hv) (tget_tset_same ..) rfl
      rw [tdel_tset_same] at htold
      obtain ⟨hmem, hparts⟩ := told_keeps (((s.putHeld s.subj.a s.subj.b h).setPart s.subj.a
        { v.recorded (some h.for_) h.code h.va with heldRecs := tdel v.heldRecs s.subj.b })) h.for_
      refine ⟨_, htold, hmem.trans (putHeld_mem hv hswitch hlost hap), by rw [hparts]; exact tget_tset_same .., fun u t hu ht hst => ?_⟩
      simp only [State.told, hu]
      exact recordWritten_waits ((State.thr_congr (putHeld_threads hv) u).trans ht) hst
  case replies =>
    intro s v m i act hv hi hswitch hheld p x entry at_ hlost hap refused
    have hexec := reply_exec hi s
    have hpart : s.part s.subj.a = v := part_of_tget hv
    have hans := fun act => answered_clears (m := m) (act := act) hv hswitch hheld hlost hap
    refine ⟨fun hr => ?_, fun hr hor => ?_, fun hr hopen hseq => ?_, fun u t hr hfor ht hst haway => ?_, fun u t hr hfor ht hst haway => ?_⟩
    · refine hexec.trans ?_
      rw [State.reply, hpart, hr, modPart_of_tget hv]
    · refine hexec.trans ?_
      rw [State.reply, hpart, hr]
      simp only
      rw [if_pos hor, modPart_of_tget hv]
    · rw [hexec, State.reply, hpart, hr]
      simp only
      rw [if_neg (not_or.2 ⟨by rw [hopen]; exact Bool.false_ne_true, not_not.2 hseq⟩)]
    · obtain ⟨hmem, ⟨n, hn, hnans⟩, hthreads, hcells⟩ := hans act
      have hthr : (s.answered p entry m act).thr? u = some t := (State.thr_congr hthreads u).trans ht
      refine ⟨_, rfl, ?_⟩
      rw [acceptReply_thread (.inl hfor) hthr haway, State.replyThread, hthr, hfor]
      simp only
      by_cases hact : act = 0
      · obtain ⟨hrmem, hrparts, hrun⟩ := runAgain_runs hthr
        rw [if_pos hact]
        exact ⟨hrmem.trans hmem, ⟨n, by rw [State.part_congr hrparts]; exact hn, hnans⟩, fun _ => hrun, fun h => absurd hact h⟩
      · rw [if_neg hact]
        exact ⟨(endThread_mem ..).trans hmem, ⟨n, by rw [State.part_congr (workKept_endThread ..).parts]; exact hn, hnans⟩,
          fun h => absurd h hact, fun _ => endThread_thr ..⟩
    · obtain ⟨hmem, -, hthreads, hcells⟩ := hans act
      have hthr : (s.answered p entry m act).thr? u = some t := (State.thr_congr hthreads u).trans ht
      refine ⟨s.answered p entry m act, hmem, hthr, hcells, fun hact => ?_, fun hact => ?_⟩
      · rw [acceptReply_thread (.inr hfor) hthr haway, State.replyThread, hthr, hfor]
        simp only [hact, if_true]
      · rw [acceptReply_thread (.inr hfor) hthr haway, State.replyThread, hthr, hfor]
        simp only [hact, if_false]
  case lanes =>
    intro s p page die a x ok hx hidle m hm hon
    obtain ⟨⟨y, hy, -, n, hn, hlane, hea, hwalk⟩, hposted⟩ := replyLanes_walks hx hidle hm hon
    exact ⟨y, hy, ⟨n, hn, hlane, hwalk trivial, hea⟩, hposted trivial⟩
  case services =>
    intro s m p entry go
    refine ⟨fun hr => ?_, fun hr hheld => ?_, fun hr hheld => ?_, fun hr => ?_, ?_⟩
    · rw [translationMissService_exec, hr]
    · rw [translationMissService_exec, hr]
      exact if_pos hheld
    · rw [translationMissService_exec, hr]
      exact if_neg (by rw [hheld]; exact Bool.false_ne_true)
    · refine ⟨fun hc hheld => ?_, fun hc hheld hwalk => ?_, fun e hc hheld hwalk => ⟨fun hcow => ?_, fun hcow hcopy => ?_, fun b hcow hcopy => ?_⟩,
        fun hc hinv => ?_, fun hc hinv => ?_, fun hc hinv => ?_, fun hc hinv => ?_⟩
      · rw [copyOnWrite_copies hr hc, if_pos hheld]
        rfl
      · rw [copyOnWrite_copies hr hc, if_neg (by rw [hheld]; exact Bool.false_ne_true), hwalk]
      · rw [copyOnWrite_copies hr hc, if_neg (by rw [hheld]; exact Bool.false_ne_true), hwalk]
        simp only [hcow, Bool.not_false, if_true]
        rfl
      · rw [copyOnWrite_copies hr hc, if_neg (by rw [hheld]; exact Bool.false_ne_true), hwalk]
        simp only [hcow, show s.cowCopy s.subj.a m e = _ from hcopy, Bool.not_true, Bool.false_eq_true, if_false]
        rfl
      · rw [copyOnWrite_copies hr hc, if_neg (by rw [hheld]; exact Bool.false_ne_true), hwalk]
        simp only [hcow, show s.cowCopy s.subj.a m e = _ from hcopy, Bool.not_true, Bool.false_eq_true, if_false]
        rfl
      · rw [copyOnWrite_invalidates hr hc, if_pos hinv]
        rfl
      · rw [copyOnWrite_invalidates hr hc, hinv]
        rfl
      · rw [copyOnWrite_replies hr hc, if_pos hinv]
        rfl
      · rw [copyOnWrite_replies hr hc, hinv]
        rfl
    · intro v e at_ hv hleaf new hpool hin hswitch hwf hlost hold hat hnew hapart
      obtain ⟨b, hb, hmem, hparts⟩ := cowCopy_writes (m := m) (e := e) hv hleaf hpool hin hswitch hlost hold hat hnew
      have hread : ∀ a, rdB b.mem a = if at_ ≤ a ∧ a < at_ + 8 then (leBytes 8 (new / 256 * 256 + e.repl * 32 + 11)).getD (a - at_) 0
          else if new ≤ a ∧ a < new + 65536 then rdB s.mem (e.pa + (a - new)) else rdB s.mem a := by
        intro a
        rw [hmem, rdB_wrN (wrN_wf hwf ..), leBytes_length, rdB_wrN hwf, rdN_length]
        split
        · rfl
        · split
          · next h => exact rdN_getD _ _ _ _ (by omega)
          · rfl
      refine ⟨b, hb, fun i hi => ?_, ?_, fun a hout hleafout => ?_, hparts⟩
      · rw [hread, if_neg (by omega), if_pos (by omega), Nat.add_sub_cancel_left]
      · have h := rdN_wrN_same (wrN_wf hwf new (rdN s.mem e.pa 65536)) at_ (leBytes 8 (new / 256 * 256 + e.repl * 32 + 11))
        rwa [leBytes_length, ← hmem] at h
      · rw [hread, if_neg (by omega), if_neg (by omega)]

end Sys2Proof.Machine
end
section
/-! Memory errors and the lantern's ring (R362, R374). -/

namespace Sys2Proof.Machine

theorem mem_wordAddrs (pa a : Nat) : a ∈ wordAddrs pa ↔ a / 4 = pa / 4 := by
  simp only [wordAddrs, List.mem_map, List.mem_range]
  constructor
  · rintro ⟨i, hi, rfl⟩
    omega
  · intro h
    exact ⟨a % 4, by omega, by omega⟩

/-! ## Memory (R362) -/

theorem spoil_memBad (s : State) (pa a : Nat) : a ∈ (s.spoil pa).memBad ↔ a ∈ s.memBad ∨ a / 4 = pa / 4 := by
  have hbad : (s.spoil pa).memBad = sortBy (fun a b => decide (a ≤ b)) (s.memBad.filter (fun a => a / 4 != pa / 4) ++ wordAddrs pa) := by
    unfold State.spoil
    split <;> rfl
  rw [hbad, mem_sortBy, List.mem_append, List.mem_filter, mem_wordAddrs, bne_iff_ne]
  by_cases h : a / 4 = pa / 4 <;> simp [h]

theorem spoil_mem (s : State) (pa : Nat) : (s.spoil pa).mem = s.mem := by
  unfold State.spoil
  split <;> rfl

/-! ## The state of an engine (R362) -/

@[simp] theorem markErr_site (s : State) (x : Site) : (s.markErr x).site x = { s.site x with err := true } := (State.modSite_site ..).trans (if_pos rfl)

/-- The cell's tables carry an error at the slot, and its engine knows of one. -/
def State.tableMarked (s : State) (ag : Agent) (slot : Nat) : State :=
  (s.markErr ag.site).modCell ag (fun c => { c with bad := slot :: c.bad.filter (· ≠ slot) })

theorem tableError_stops {s : State} {ag : Agent} {p : Nat} (hp : (s.site ag.site).part = some p) (slot : Nat) :
    s.tableError ag slot = (s.tableMarked ag slot).stopFault p (s.site ag.site).region 0 0xFFFFFFFF 0x0201 [0, tileid ag, 0, 0, w32 ag.cell, w32 slot] := by
  have hsite : (s.tableMarked ag slot).site ag.site = { s.site ag.site with err := true } := markErr_site ..
  have heq : s.tableError ag slot = match ((s.tableMarked ag slot).site ag.site).part with
      | none => s.tableMarked ag slot
      | some p => (s.tableMarked ag slot).stopFault p ((s.tableMarked ag slot).site ag.site).region 0 0xFFFFFFFF 0x0201
        [0, tileid ag, 0, 0, w32 ag.cell, w32 slot] := rfl
  simp only [heq, hsite, hp]

/-- Poison of one word of a lane leaves the others and the predicate. -/
theorem poison_words (x : Lane) {k : Nat} (hk : k < 5) :
    ([(x.poison k).a, (x.poison k).b, (x.poison k).c, (x.poison k).d, (x.poison k).v]
      = [x.a, x.b, x.c, x.d, x.v].mapIdx (fun i q => if i = k then { q with pois := true } else q)) ∧ (x.poison k).p = x.p := by
  match k, hk with
  | 0, _ | 1, _ | 2, _ | 3, _ | 4, _ => exact ⟨rfl, rfl⟩

theorem tmod_of_tget {κ α : Type} [DecidableEq κ] {t : Tbl κ α} {k : κ} {a : α} (h : tget t k = some a) (g : α → α) : tmod t k g = tset t k (g a) := by
  rw [tmod, h]

theorem tget_tmod_of {κ α : Type} [DecidableEq κ] {t : Tbl κ α} {k : κ} {a : α} (h : tget t k = some a) (g : α → α) : tget (tmod t k g) k = some (g a) := by
  rw [tmod_of_tget h, tget_tset_same]

/-! ## The ring of the lantern (R374) -/

theorem lanternDrain_drains {s : State} {r : LtRec} {rs : List LtRec} (hr : tgetD s.lantern.buf s.subj.a [] = r :: rs) :
    exec .lanternDrain s = .next (let o := s.lantern.wr.toNat % s.lantern.ring
      let b := s.hwWrite ((s.lantern.base.toNat / s.lantern.ring * s.lantern.ring + o) % 2 ^ 51) (wordsBytes r.words)
      { b with lantern := { b.lantern with buf := tset b.lantern.buf s.subj.a rs, wr := w32 ((o + 32) % s.lantern.ring) } }) := by
  obtain ⟨⟨m, mb, c, as, g, n, hw⟩, -, -⟩ := hwWritten_hwWrite s
    ((s.lantern.base.toNat / s.lantern.ring * s.lantern.ring + s.lantern.wr.toNat % s.lantern.ring) % 2 ^ 51) (wordsBytes r.words)
  simp only [exec, execLanternDrain, hr, hw]

/-! ## The statement -/

/-- Settles O56: each place of an error by what is marked there, the ring by the write of its oldest record. -/
theorem errorsAndLantern : Obligations.ErrorsAndLantern := by
  intro s
  refine ⟨?memory, ?table, ?frame, ?laneFile, ?queue, fun x k hk => poison_words x hk, ?threadSlot, ?bivouac, ?l1, ?replica, ?ecc, ?ring⟩
  case memory =>
    intro pa he
    exact ⟨by simp only [exec, execMemoryError, he], spoil_memBad s pa, spoil_mem s pa⟩
  case table =>
    intro ag slot p he hp
    refine ⟨s.tableMarked ag slot, by simp only [exec, execMemoryError, he, tableError_stops hp], ?_, ?_, rfl, rfl⟩
    · rw [State.tableMarked, State.modCell_cell, if_pos rfl]
      exact List.mem_cons_self ..
    · exact congrArg SiteSt.err (markErr_site s ag.site)
  case frame =>
    intro n i slot lane w ws he hw hs
    simp only [exec, execMemoryError, he]
    refine ⟨_, { w with slots := tmod w.slots slot (poisonAt lane) }, rfl, ?_, tget_tmod_of hs _, rfl, ?_⟩
    · rw [State.modSite_site, if_pos rfl, markErr_site]
      exact tget_tmod_of hw _
    · rw [State.modSite_site, if_pos rfl, markErr_site]
  case laneFile =>
    intro ag i he
    simp only [exec, execMemoryError, he]
    refine ⟨_, rfl, rfl, fun j => ?_⟩
    rw [State.modCell_cell, if_pos rfl]
    exact tgetD_tset ..
  case queue =>
    intro ag port lane k ks he hq
    simp only [exec, execMemoryError, he]
    refine ⟨_, rfl, rfl, ?_⟩
    rw [State.modCell_cell, if_pos rfl]
    have hcell : tget ((s.markErr ag.site).cell ag).queues port = some (k :: ks) := hq
    simp only [Cell.queue, tgetD, tget_tmod_of hcell]
    rfl
  case threadSlot =>
    intro u lane k t he ht
    have hm : tget (s.markErr t.src.site).threads u = some t := ht
    simp only [exec, execMemoryError, he, ht, State.modThr, tmod_of_tget hm]
    rfl
  case bivouac =>
    intro n bv he hb
    simp only [exec, execMemoryError, he]
    exact ⟨_, rfl, tget_tmod_of hb _, rfl, rfl⟩
  case l1 =>
    intro n pa he
    simp only [exec, execMemoryError, he]
    refine ⟨_, rfl, rfl, rfl, fun e => ?_, congrArg SiteSt.err (markErr_site s (.tile n))⟩
    obtain ⟨x, a⟩ := e
    have hin : (x, a) ∈ (wordAddrs pa).map (fun a => (Site.tile n, a)) ↔ x = .tile n ∧ a / 4 = pa / 4 := by
      simp only [List.mem_map, Prod.mk.injEq, mem_wordAddrs]
      exact ⟨fun ⟨b, hb, hx, hab⟩ => ⟨hx.symm, hab ▸ hb⟩, fun ⟨hx, ha⟩ => ⟨a, ha, hx.symm, rfl⟩⟩
    rw [List.mem_append, hin]
    rfl
  case replica =>
    intro d pa r he hr
    simp only [exec, execMemoryError, he]
    refine ⟨_, _, rfl, rfl, rfl, tget_tmod_of hr _, rfl, fun a => ?_⟩
    rw [List.mem_append, mem_wordAddrs]
  case ecc =>
    intro v hv
    simp only [exec, execEccCorrection, modPart_of_tget hv]
  case ring =>
    intro r rs hr hswitch ring o hlost hap
    have hmem := hwWrite_stores (wordsBytes r.words) hswitch hlost hap
    obtain ⟨⟨m, mb, c, as, g, n, hw⟩, -, -⟩ := hwWritten_hwWrite s ((s.lantern.base.toNat / ring * ring + o) % 2 ^ 51) (wordsBytes r.words)
    refine ⟨_, lanternDrain_drains hr, rfl, (tgetD_tset ..).trans (if_pos rfl), hmem, ?_⟩
    exact (tablesStay_hwWrite ..).parts

end Sys2Proof.Machine
end
section
/-! The halt line (R363 to R368): its rise, the stop of an engine, the release. -/

namespace Sys2Proof.Machine

/-! ## The rise of the line (R363) -/

section Raised
variable {s : State} {v : Part} (hv : tget s.parts s.subj.a = some v)
include hv

/-- R363: every engine slot of the partition has to stop. -/
theorem haltLineRaise_halts (hh : v.halted = false) : ∃ s', exec .haltLineRaise s = .next s' ∧ s'.mem = s.mem
    ∧ tget s'.parts s.subj.a = some { v with halted := true, haltAt := s.cycle, stop1 := s.subj.b, stopping := s.slotsOf s.subj.a v.tiles v.elems }
    ∧ ∀ k ∈ s.slotsOf s.subj.a v.tiles v.elems, Act.ev .engineStop { a := s.subj.a, b := k } ∈ s'.agenda := by
  simp only [exec, execHaltLineRaise, hv, hh, Bool.false_eq_true, if_false, foldl_postEv]
  exact ⟨_, rfl, rfl, tget_tset_same .., fun k hk => List.mem_append_right _ (List.mem_map_of_mem hk)⟩

theorem haltLineRaise_halted (hh : v.halted = true) : exec .haltLineRaise s
    = .next (if s.subj.b ≠ 0 ∧ v.stop2 = 0 then s.setPart s.subj.a { v with stop2 := s.subj.b } else s) := by
  simp only [exec, execHaltLineRaise, hv, hh, if_true]

/-! ## An engine stops (R364, R365) -/

theorem engineStop_halts (hc : s.subj.c = 0) (hh : v.halted = true) (hk : s.subj.b ∈ v.stopping) : exec .engineStop s
    = if s.engineReady s.subj.a s.subj.b v.stopping (fun x => (s.site x).part == some s.subj.a) then
        .next (((s.stopEngine s.subj.a s.subj.b).hwWrite ((v.srbase.toNat / 4096 * 4096 + 128 * s.subj.b) % 2 ^ 51)
          (wordsBytes (s.stopRecord s.subj.a s.subj.b))).modPart s.subj.a (fun v => { v with stopping := v.stopping.filter (· ≠ s.subj.b) }))
      else .next (s.postEv .engineStop s.subj) := by
  simp only [exec, execEngineStop, part_of_tget hv, hc, if_true, hh, List.contains_iff_mem.2 hk, Bool.not_true, Bool.or_self, Bool.false_eq_true, if_false]
  cases s.engineReady s.subj.a s.subj.b v.stopping (fun x => (s.site x).part == some s.subj.a) <;> rfl

omit hv in
/-- R365: 32 words, the first of which names partition, kind and slot. -/
theorem stopRecord_words (s : State) (p k : Nat) : (s.stopRecord p k).length = 32 ∧ (s.stopRecord p k).take 3
    = [w32 (p * 2 ^ 28 + slotKind k * 2 ^ 24 + k), w32 ((s.part p).stop1 + (s.part p).stop2 * 2 ^ 16), w32 (s.cycle - (s.part p).haltAt)] := by
  constructor
  · simp only [State.stopRecord, List.length_take, List.length_append, List.length_replicate]
    omega
  · simp [State.stopRecord]

/-! ## The release (R366, R367) -/

omit hv in
/-- What walks again changes accesses alone. -/
theorem reissueParked_eq (s : State) (mine : Who → Bool) : ∃ as g, s.reissueParked mine = { s with accs := as, agenda := s.agenda ++ g } := by
  unfold State.reissueParked
  simp only
  generalize s.accs.flatMap _ = l
  induction l generalizing s with
  | nil => exact ⟨s.accs, [], by simp⟩
  | cons k l ih =>
    obtain ⟨as, g, h⟩ := ih ((s.modLane k.1 k.2 (fun m => { m with st := .walk })).postEv .pageWalk { a := k.1, b := k.2 })
    refine ⟨as, .ev .pageWalk { a := k.1, b := k.2 } :: g, ?_⟩
    rw [List.foldl_cons, h]
    simp only [State.postEv, State.post, List.append_assoc, List.singleton_append]
    rfl

theorem releaseHalt_waits (hw : v.halted = false ∨ v.stopping ≠ []) : exec .releaseHalt s = .next (s.cwSet s.subj.d) := by
  have hcond : (!v.halted || !v.stopping.isEmpty) = true := by
    rcases hw with hh | hs
    · simp [hh]
    · simp [hs]
  simp only [exec, execReleaseHalt, part_of_tget hv, hcond, if_true]

/-- R367: the partition with its line released. -/
def Part.released (v : Part) (cycle : Nat) : Part :=
  { v with halted := false, frozen := v.frozen + (cycle - v.haltAt), stop1 := 0, stop2 := 0 }

omit hv in
/-- R265, R366: the line is down; the chains are restored unless a pre-emption holds them. -/
def State.lineDown (s : State) (p : Nat) (v : Part) : State :=
  if v.preempt.st = 0 then (s.setPart p (v.released s.cycle)).restoreChains p else s.setPart p (v.released s.cycle)

omit hv in
theorem lineDown_eq (s : State) (p : Nat) (v : Part) : ∃ w : Part, s.lineDown p v = s.setPart p w ∧ w.halted = false ∧ w.stop1 = 0 ∧ w.stop2 = 0
    ∧ w.frozen = v.frozen + (s.cycle - v.haltAt) := by
  unfold State.lineDown
  split
  · refine ⟨{ v.released s.cycle with chains := (v.released s.cycle).chains.map (fun c => (c.1, { c.2 with saved := false })) }, ?_, rfl, rfl, rfl, rfl⟩
    rw [State.restoreChains, modPart_of_tget (v := v.released s.cycle) (tget_tset_same ..)]
    simp only [State.setPart, tset_tset]
  · exact ⟨v.released s.cycle, rfl, rfl, rfl, rfl, rfl⟩

omit hv in
theorem lineDown_subj (s : State) (p : Nat) (v : Part) : (s.lineDown p v).subj = s.subj := by
  obtain ⟨w, hw, _⟩ := lineDown_eq s p v
  rw [hw]
  rfl

theorem releaseHalt_releases (hh : v.halted = true) (hs : v.stopping = []) : exec .releaseHalt s = .next (((s.lineDown s.subj.a v).reissueParked
    (fun w => w.part == s.subj.a && !(s.lineDown s.subj.a v).idleSite w.ag.site)).cwSet (s.lineDown s.subj.a v).subj.d) := by
  have hcond : (!v.halted || !v.stopping.isEmpty) = false := by simp [hh, hs]
  simp only [exec, execReleaseHalt, part_of_tget hv, hcond, Bool.false_eq_true, if_false, modPart_of_tget hv]
  rfl

end Raised

/-- R363 to R368: the halt line of a partition, from its raise command to its release. -/
theorem halt_cases (s : State) (v : Part) (hv : tget s.parts s.subj.a = some v) :
    let p := s.subj.a
    (exec .raiseHalt s = .next ((s.postEv .haltLineRaise { a := p }).cwSet s.subj.d))
    ∧ (v.halted = false → ∃ s', exec .haltLineRaise s = .next s' ∧ s'.mem = s.mem ∧ tget s'.parts p = some { v with
          halted := true, haltAt := s.cycle, stop1 := s.subj.b, stopping := s.slotsOf p v.tiles v.elems }
        ∧ (∀ k ∈ s.slotsOf p v.tiles v.elems, Act.ev .engineStop { a := p, b := k } ∈ s'.agenda))
    ∧ (v.halted = true → s.subj.b ≠ 0 → v.stop2 = 0 → exec .haltLineRaise s = .next (s.setPart p { v with stop2 := s.subj.b }))
    ∧ (v.halted = true → s.subj.b = 0 ∨ v.stop2 ≠ 0 → exec .haltLineRaise s = .next s)
    ∧ (s.subj.c = 0 → v.halted = true → s.subj.b ∈ v.stopping →
      let ready := s.engineReady p s.subj.b v.stopping (fun x => (s.site x).part == some p)
      (ready = false → exec .engineStop s = .next (s.postEv .engineStop s.subj))
      ∧ (ready = true →
        let b := (s.stopEngine p s.subj.b).hwWrite ((v.srbase.toNat / 4096 * 4096 + 128 * s.subj.b) % 2 ^ 51)
          (wordsBytes (s.stopRecord p s.subj.b))
        exec .engineStop s = .next (b.modPart p (fun v => { v with stopping := v.stopping.filter (· ≠ s.subj.b) }))))
    ∧ (∀ k, (s.stopRecord p k).length = 32
        ∧ (s.stopRecord p k).take 3 = [w32 (p * 2 ^ 28 + slotKind k * 2 ^ 24 + k), w32 (v.stop1 + v.stop2 * 2 ^ 16), w32 (s.cycle - v.haltAt)])
    ∧ (v.halted = false ∨ v.stopping ≠ [] → exec .releaseHalt s = .next (s.cwSet s.subj.d))
    ∧ (v.halted = true → v.stopping = [] → ∃ b : State, exec .releaseHalt s = .next (b.cwSet s.subj.d) ∧ b.mem = s.mem
        ∧ (b.part p).halted = false ∧ (b.part p).stop1 = 0 ∧ (b.part p).stop2 = 0
        ∧ (b.part p).frozen = v.frozen + (s.cycle - v.haltAt) ∧ (v.haltAt ≤ s.cycle → b.work p = s.work p)
        ∧ (∀ q, q ≠ p → b.part q = s.part q)) := by
  refine ⟨rfl, haltLineRaise_halts hv, fun hh hb h2 => ?_, fun hh hor => ?_, fun hc hh hk => ⟨fun hr => ?_, fun hr => ?_⟩, fun k => ?_,
    releaseHalt_waits hv, fun hh hs => ?_⟩
  · rw [haltLineRaise_halted hv hh, if_pos ⟨hb, h2⟩]
  · rw [haltLineRaise_halted hv hh, if_neg (fun h => hor.elim h.1 (fun h2 => h2 h.2))]
  · rw [engineStop_halts hv hc hh hk, if_neg (by rw [hr]; exact Bool.false_ne_true)]
  · rw [engineStop_halts hv hc hh hk, if_pos hr]
  · have h := stopRecord_words s s.subj.a k
    rwa [part_of_tget hv] at h
  · obtain ⟨w, hw, hwh, hw1, hw2, hwf⟩ := lineDown_eq s s.subj.a v
    obtain ⟨as, g, hb⟩ := reissueParked_eq (s.lineDown s.subj.a v) (fun w => w.part == s.subj.a && !(s.lineDown s.subj.a v).idleSite w.ag.site)
    refine ⟨_, lineDown_subj s s.subj.a v ▸ releaseHalt_releases hv hh hs, ?_⟩
    rw [hb, hw]
    generalize hc : ({ s.setPart s.subj.a w with accs := as, agenda := _ } : State) = c
    have hcparts : c.parts = tset s.parts s.subj.a w := by rw [← hc]; rfl
    have hccycle : c.cycle = s.cycle := by rw [← hc]; rfl
    have hpart : c.part s.subj.a = w := part_of_tget (by rw [hcparts]; exact tget_tset_same ..)
    rw [hpart]
    refine ⟨by rw [← hc]; rfl, hwh, hw1, hw2, hwf, fun hle => ?_, fun q hq => ?_⟩
    · simp only [State.work, Part.clock, hpart, part_of_tget hv, hwh, hh, hwf, hccycle, Bool.false_eq_true, if_false, if_true]
      omega
    · simp only [State.part, tgetD, hcparts, tget_tset_ne _ _ hq]

end Sys2Proof.Machine
end
section
/-! Pre-emption of regions (R345, R369 to R371): the request, the stop of an engine, the swap-out. -/

namespace Sys2Proof.Machine

/-! ## Tables -/

theorem tget_filter_of {κ α : Type} [DecidableEq κ] (P : κ × α → Bool) {t : Tbl κ α} {k : κ} {a : α} (h : tget t k = some a) (hP : P (k, a) = true) :
    tget (t.filter P) k = some a := by
  induction t with
  | nil => cases h
  | cons e t ih =>
    by_cases hk : e.1 = k
    · obtain rfl : e = (k, a) := by
        simp only [tget, hk, if_true, Option.some.injEq] at h
        exact Prod.ext hk h
      simp [hP, tget]
    · simp only [tget, if_neg hk] at h
      rw [List.filter_cons]
      split
      · simpa only [tget, if_neg hk] using ih h
      · exact ih h

theorem tget_map_range {α : Type} (g : Nat → α) {n c : Nat} (hc : c < n) : tget ((List.range n).map (fun c => (c, g c))) c = some (g c) := by
  have hmap : ∀ l : List Nat, c ∈ l → tget (l.map (fun c => (c, g c))) c = some (g c) := by
    intro l hl
    induction l with
    | nil => cases hl
    | cons d l ih =>
      by_cases hd : d = c
      · simp [tget, hd]
      · simpa only [List.map_cons, tget, if_neg hd] using ih ((List.mem_cons.1 hl).resolve_left (Ne.symm hd))
  exact hmap _ (List.mem_range.2 hc)

/-! ## The request (R369) -/

section Asked
variable {s : State} {p : Nat} {v : Part} (hv : tget s.parts p = some v) {rs : List Nat}
include hv

theorem preempt_refused (h : v.halted = true ∨ v.preempt.st ≠ 0 ∨ (∃ n ∈ v.tiles.filter (fun n => s.tileRuns p n (s.runningOf p rs)), (tget s.biv n).isSome = true)
    ∨ (v.tiles.filter (fun n => s.tileRuns p n (s.runningOf p rs)) = [] ∧ v.elems.filter (fun e => s.elemRuns e (s.runningOf p rs)) = [])) :
    s.preempt p rs false = s := by
  unfold State.preempt
  simp only [part_of_tget hv]
  refine if_pos ?_
  simp only [Bool.or_eq_true, Bool.and_eq_true, bne_iff_ne, List.any_eq_true, List.isEmpty_iff]
  rw [or_assoc, or_assoc]
  exact h

theorem preempt_asks (hh : v.halted = false) (hst : v.preempt.st = 0)
    (hfree : ∀ n ∈ v.tiles.filter (fun n => s.tileRuns p n (s.runningOf p rs)), tget s.biv n = none)
    (hsome : v.tiles.filter (fun n => s.tileRuns p n (s.runningOf p rs)) ≠ [] ∨ v.elems.filter (fun e => s.elemRuns e (s.runningOf p rs)) ≠ []) :
    let tiles := v.tiles.filter (fun n => s.tileRuns p n (s.runningOf p rs))
    let elems := v.elems.filter (fun e => s.elemRuns e (s.runningOf p rs))
    tget (s.preempt p rs false).parts p = some { v with preempt := ⟨1, rs, tiles, elems, s.slotsOf p tiles elems, false⟩ }
      ∧ ∀ k ∈ s.slotsOf p tiles elems, Act.ev .engineStop { a := p, b := k, c := 1 } ∈ (s.preempt p rs false).agenda := by
  intro tiles elems
  have hcond : ¬(v.halted || v.preempt.st != 0 || tiles.any (fun n => (tget s.biv n).isSome) || (tiles.isEmpty && elems.isEmpty)) = true := by
    have hany : ¬tiles.any (fun n => (tget s.biv n).isSome) = true := by
      rw [List.any_eq_true]
      rintro ⟨n, hn, hb⟩
      rw [hfree n hn] at hb
      cases hb
    simp only [Bool.or_eq_true, Bool.and_eq_true, bne_iff_ne, List.isEmpty_iff, hh, hst]
    tauto
  have heq : s.preempt p rs false = (s.slotsOf p tiles elems).foldl (fun s k => s.postEv .engineStop { a := p, b := k, c := 1 })
      (s.setPart p { v with preempt := ⟨1, rs, tiles, elems, s.slotsOf p tiles elems, false⟩ }) := by
    unfold State.preempt
    simp only [part_of_tget hv]
    exact if_neg hcond
  rw [heq, foldl_postEv]
  exact ⟨tget_tset_same .., fun k hk => List.mem_append_right _ (List.mem_map_of_mem hk)⟩

end Asked

/-! ## An engine acknowledges, the last one starts the swap-out (R370) -/

section Stops
variable {s : State} {v : Part} (hv : tget s.parts s.subj.a = some v)
include hv

theorem engineStop_acknowledges (hc : s.subj.c ≠ 0) (hk : s.subj.b ∈ v.preempt.toStop) (hh : v.halted = false) : exec .engineStop s
    = if s.engineReady s.subj.a s.subj.b v.preempt.toStop (fun x => v.preempt.covers (engOf x)) then
        let b := (s.stopEngine s.subj.a s.subj.b).modPart s.subj.a (fun v => { v with preempt := { v.preempt with toStop := v.preempt.toStop.filter (· ≠ s.subj.b) } })
        .next (if (b.part s.subj.a).preempt.toStop.isEmpty then b.postEv .preemptionComplete { a := s.subj.a } else b)
      else .next (s.postEv .engineStop s.subj) := by
  simp only [exec, execEngineStop, part_of_tget hv, hc, if_false, hh, List.contains_iff_mem.2 hk, Bool.not_true, Bool.false_or, Bool.false_eq_true]
  cases s.engineReady s.subj.a s.subj.b v.preempt.toStop (fun x => v.preempt.covers (engOf x)) <;> rfl

omit hv in
/-- R171: a tile whose column unit serves none of its threads stops as it stands. -/
theorem stopEngine_tile (p : Nat) {k : Nat} (hk : k < 512) (hq : (s.site (.tile k)).colq = []) : s.stopEngine p k = s := by
  simp only [State.stopEngine, hk, if_true, State.withdrawTiles, List.flatMap_cons, List.flatMap_nil, hq, List.append_nil, List.foldl_nil]

theorem engineStop_stopped (hc : s.subj.c ≠ 0) (hk : s.subj.b ∈ v.preempt.toStop) (hh : v.halted = false)
    (hr : s.engineReady s.subj.a s.subj.b v.preempt.toStop (fun x => v.preempt.covers (engOf x)) = true) (hlt : s.subj.b < 512)
    (hq : (s.site (.tile s.subj.b)).colq = []) : ∃ s', exec .engineStop s = .next s' ∧ s'.mem = s.mem
      ∧ (s'.part s.subj.a).preempt = { v.preempt with toStop := v.preempt.toStop.filter (· ≠ s.subj.b) }
      ∧ (v.preempt.toStop.filter (· ≠ s.subj.b) = [] → Act.ev .preemptionComplete { a := s.subj.a } ∈ s'.agenda) := by
  rw [engineStop_acknowledges hv hc hk hh, if_pos hr, stopEngine_tile _ hlt hq, modPart_of_tget hv]
  have hpart : ∀ w, (s.setPart s.subj.a w).part s.subj.a = w := fun w => part_of_tget (tget_tset_same ..)
  simp only [hpart]
  split
  · exact ⟨_, rfl, rfl, congrArg Part.preempt (hpart _), fun _ => List.mem_append_right _ (List.mem_singleton.2 rfl)⟩
  · rename_i hne
    exact ⟨_, rfl, rfl, congrArg Part.preempt (hpart _), fun h => absurd (List.isEmpty_iff.2 h) hne⟩

theorem preemptionComplete_halted (hst : v.preempt.st = 1) (hstop : v.preempt.toStop = []) (hh : v.halted = true) :
    exec .preemptionComplete s = .next (s.postEv .preemptionComplete { a := s.subj.a }) := by
  simp [exec, execPreemptionComplete, part_of_tget hv, hst, hstop, hh]

omit hv in
theorem dropCommit_mem (s : State) (p : Nat) (stops : Site → Bool) : (s.dropCommit p stops).mem = s.mem := by
  unfold State.dropCommit State.modPart
  split <;> rfl

/-- A staged commit of the partition leaves its pre-emption as it is. -/
theorem dropCommit_preempt (stops : Site → Bool) : ∃ w, tget (s.dropCommit s.subj.a stops).parts s.subj.a = some w ∧ w.preempt = v.preempt := by
  unfold State.dropCommit
  rw [modPart_of_tget hv]
  refine ⟨_, tget_tset_same .., ?_⟩
  split
  · rfl
  · split <;> rfl

theorem preemptionComplete_swapsOut (hst : v.preempt.st = 1) (hstop : v.preempt.toStop = []) (hh : v.halted = false) (hscr : s.scr = []) :
    ∃ s', exec .preemptionComplete s = .next s' ∧ s'.mem = s.mem ∧ (s'.part s.subj.a).preempt = { v.preempt with st := 2 }
      ∧ Act.ev .swapOutComplete { a := s.subj.a } ∈ s'.agenda := by
  obtain ⟨w, hw, hwq⟩ := dropCommit_preempt hv (fun x => v.preempt.covers (engOf x))
  have hflush : s.flushRegions s.subj.a v.preempt.regions = s := by simp [State.flushRegions, hscr]
  have hexec : exec .preemptionComplete s = .next (((s.dropCommit s.subj.a (fun x => v.preempt.covers (engOf x))).setPart s.subj.a
      { w with preempt := { w.preempt with st := 2 } }).postEv .swapOutComplete { a := s.subj.a }) := by
    simp only [exec, execPreemptionComplete, part_of_tget hv, hst, hstop, hh, hflush, modPart_of_tget hw]
    rfl
  refine ⟨_, hexec, dropCommit_mem .., ?_, List.mem_append_right _ (List.mem_singleton.2 rfl)⟩
  rw [← hwq]
  exact congrArg Part.preempt (part_of_tget (s := State.setPart _ _ _) (tget_tset_same ..))

end Stops

/-! ## The swap-out (R370, R371, R373) -/

theorem lands_iff (s : State) (k : Token) : s.lands k = true ↔ k.first s.fabric = true ∧ s.entryWaits k = false ∧ s.away k.dst k.inv = false
    ∧ ((s.site k.dst).ingress.filter (fun m => !m.held)).length < (if k.tag.kind = .control then 64 else 56) := by
  simp only [State.lands, ingressRoom, Bool.and_eq_true, Bool.not_eq_true', decide_eq_true_eq, beq_iff_eq]
  tauto

/-- R370 step 3: the context of a tile, as its bivouac slot takes it. -/
def State.contextOf (s : State) (p n : Nat) : Biv :=
  let ths := s.threads.filter (fun e => e.2.src.site == .tile n)
  { site := (s.site (.tile n)).retime (leftOf (s.work p))
    cells := (List.range 64).map (fun c => (c, s.cell ⟨.tile n, c⟩))
    threads := ths.map (fun e => (e.1, e.2.retime (leftOf (s.work p))))
    invs := s.tileInvs p n
    acts := s.agenda.filter (Machine.actOf (.tile n) (ths.map (fun e => e.1))) }

/-- R371: what a tile is after its context has left it. -/
def SiteSt.vacated (v : SiteSt) : SiteSt := { SiteSt.reset with part := v.part, copyGens := v.copyGens, chainGens := v.chainGens }

/-- R371: a cell with its tables and state cleared, its counts apart. -/
def Cell.emptied (c : Cell) : Cell := { Cell.reset with issued := c.issued, passed := c.passed }

/-- The context is in its slot; the tile is not yet cleared. -/
def State.vacating (s : State) (p n : Nat) : State :=
  { s with biv := tset s.biv n (s.contextOf p n)
           threads := s.threads.filter (fun e => e.2.src.site != .tile n)
           agenda := s.agenda.filter (fun a => !Machine.actOf (.tile n) ((s.threads.filter (fun e => e.2.src.site == .tile n)).map (fun e => e.1)) a) }

theorem swapTile_vacates (s : State) (p n : Nat) : s.swapTile p n = ((s.vacating p n).writeTables (.tile n) (fun _ => Cell.reset)
    (fun old _ => old.emptied)).setSite (.tile n) (s.site (.tile n)).vacated := rfl

theorem swapTile_eq (s : State) (p n : Nat) : ∃ cs, s.swapTile p n = State.setSite { s.vacating p n with cells := cs } (.tile n) (s.site (.tile n)).vacated := by
  obtain ⟨cs, h⟩ := State.writeTables_eq (s.vacating p n) (.tile n) (fun _ => Cell.reset) (fun old _ => old.emptied)
  exact ⟨cs, by rw [swapTile_vacates, h]⟩

theorem writeTables_written (s : State) (x : Site) (new : Nat → Cell) (g : Cell → Cell → Cell) {c : Nat} (hc : c < 64) :
    (s.writeTables x new g).cell ⟨x, c⟩ = g (s.cell ⟨x, c⟩) (new c) := by
  rw [State.writeTables_cell, if_pos ⟨rfl, hc⟩]

theorem swapTile_cell (s : State) (p n : Nat) {c : Nat} (hc : c < 64) : (s.swapTile p n).cell ⟨.tile n, c⟩ = (s.cell ⟨.tile n, c⟩).emptied := by
  have hset : ∀ (b : State) (x : Site) (v : SiteSt) (a : Agent), (b.setSite x v).cell a = b.cell a := fun _ _ _ _ => rfl
  have hcell : (s.vacating p n).cell ⟨.tile n, c⟩ = s.cell ⟨.tile n, c⟩ := rfl
  rw [swapTile_vacates, hset, writeTables_written _ _ _ _ hc, hcell]

section Out
variable {s : State} {v : Part} (hv : tget s.parts s.subj.a = some v)
include hv

theorem swapOutComplete_waits (hst : v.preempt.st = 2) (h : ∃ k ∈ s.fabric, s.lands k = true ∧ ∃ n ∈ v.preempt.tiles, k.dst = .tile n) :
    exec .swapOutComplete s = .next (s.postEv .swapOutComplete { a := s.subj.a }) := by
  obtain ⟨k, hk, hl, n, hn, hd⟩ := h
  have hany : s.fabric.any (fun k => v.preempt.tiles.any (fun n => k.dst == .tile n) && s.lands k) = true :=
    List.any_eq_true.2 ⟨k, hk, by rw [hl, Bool.and_true]; exact List.any_eq_true.2 ⟨n, hn, beq_iff_eq.2 hd⟩⟩
  simp only [exec, execSwapOutComplete, part_of_tget hv, hst, ne_eq, not_true, if_false, hany, if_true]

theorem swapOutComplete_swaps (hst : v.preempt.st = 2) (h : ∀ k ∈ s.fabric, s.lands k = true → ∀ n ∈ v.preempt.tiles, k.dst ≠ .tile n)
    (he : v.preempt.elems = []) {n : Nat} (ht : v.preempt.tiles = [n]) : exec .swapOutComplete s
    = .next (let b := (s.swapTile s.subj.a n).setPart s.subj.a { v with preempt := { v.preempt with st := 3 } }
        if v.preempt.byQuantum then b.postEv .resume { a := s.subj.a } else b) := by
  have hany : ¬s.fabric.any (fun k => v.preempt.tiles.any (fun n => k.dst == .tile n) && s.lands k) = true := by
    rw [List.any_eq_true]
    rintro ⟨k, hk, hb⟩
    obtain ⟨hd, hl⟩ := Bool.and_eq_true_iff.1 hb
    obtain ⟨m, hm, hd⟩ := List.any_eq_true.1 hd
    exact h k hk hl m hm (beq_iff_eq.1 hd)
  have hparts : tget (s.swapTile s.subj.a n).parts s.subj.a = some v := by
    obtain ⟨cs, hb⟩ := swapTile_eq s s.subj.a n
    rw [hb]
    exact hv
  simp only [exec, execSwapOutComplete, part_of_tget hv, hst, ne_eq, not_true, if_false]
  rw [if_neg hany]
  simp only [ht, he, List.foldl_cons, List.foldl_nil, modPart_of_tget hparts]

/-- R370, R371: what stands in the slot, and what is left of the tile. -/
theorem swapOutComplete_takes (hst : v.preempt.st = 2) (h : ∀ k ∈ s.fabric, s.lands k = true → ∀ n ∈ v.preempt.tiles, k.dst ≠ .tile n)
    (he : v.preempt.elems = []) {n : Nat} (ht : v.preempt.tiles = [n]) : ∃ s', exec .swapOutComplete s = .next s' ∧ s'.mem = s.mem
      ∧ (s'.part s.subj.a).preempt = { v.preempt with st := 3 } ∧ tget s'.biv n = some (s.contextOf s.subj.a n)
      ∧ s'.site (.tile n) = (s.site (.tile n)).vacated ∧ s'.threads = s.threads.filter (fun e => e.2.src.site != .tile n)
      ∧ ∀ c, c < 64 → s'.cell ⟨.tile n, c⟩ = (s.cell ⟨.tile n, c⟩).emptied := by
  obtain ⟨cs, hb⟩ := swapTile_eq s s.subj.a n
  have hcell := fun c (hc : c < 64) => swapTile_cell s s.subj.a n hc
  have hsite : (s.swapTile s.subj.a n).site (.tile n) = (s.site (.tile n)).vacated := by
    rw [swapTile_vacates, State.setSite_site, if_pos rfl]
  have hbiv : tget (s.swapTile s.subj.a n).biv n = some (s.contextOf s.subj.a n) := by
    rw [hb]
    exact tget_tset_same ..
  have hrest : (s.swapTile s.subj.a n).mem = s.mem ∧ (s.swapTile s.subj.a n).threads = s.threads.filter (fun e => e.2.src.site != .tile n) := by
    rw [hb]
    exact ⟨rfl, rfl⟩
  refine ⟨_, swapOutComplete_swaps hv hst h he ht, ?_⟩
  generalize s.swapTile s.subj.a n = b at *
  have hpart : (b.setPart s.subj.a { v with preempt := { v.preempt with st := 3 } }).part s.subj.a = { v with preempt := { v.preempt with st := 3 } } :=
    part_of_tget (tget_tset_same ..)
  simp only
  split <;> exact ⟨hrest.1, congrArg Part.preempt hpart, hbiv, hsite, hrest.2, hcell⟩

end Out

/-- R371, R373: a thread of the tile stands in its context, with what is left of its deadline. -/
theorem contextOf_thread {s : State} {p n u : Nat} {t : Thread} (ht : s.thr? u = some t) (hx : t.src.site = .tile n) :
    (u, t.retime (leftOf (s.work p))) ∈ (s.contextOf p n).threads :=
  List.mem_map.2 ⟨(u, t), List.mem_filter.2 ⟨mem_of_tget ht, beq_iff_eq.2 hx⟩, rfl⟩

end Sys2Proof.Machine
end
section
/-! The resume of pre-empted regions (R345, R372, R373) and the proof of the obligation on stops and pre-emption. -/

namespace Sys2Proof.Machine

/-! ## Who waits before the resume (R345) -/

theorem foldl_max_le {l : List Nat} {a k : Nat} : l.foldl max a ≤ k ↔ a ≤ k ∧ ∀ x ∈ l, x ≤ k := by
  induction l generalizing a with
  | nil => simp
  | cons x l ih => rw [List.foldl_cons, ih, max_le_iff, List.forall_mem_cons, and_assoc]

section Waiting
variable {s : State} {p : Nat} {v : Part} (hv : tget s.parts p = some v)
include hv

theorem placeWaits_iff (rs : List Nat) : s.placeWaits p rs = true ↔ ∃ e ∈ s.launches, e.2.part = p ∧ e.2.st = .place ∧ e.2.region ∉ rs
    ∧ (∀ r ∈ rs, ((tget v.regions r).map (fun g => g.prio)).getD 0 ≤ ((tget v.regions e.2.region).map (fun g => g.prio)).getD 0)
    ∧ ∃ m, s.image? (pktKey p e.2.hdr) = some m ∧ (s.placeStep e.2 m).2 = true := by
  have hprio : ∀ r, (match tget v.regions r with | none => 0 | some g => g.prio) = ((tget v.regions r).map (fun g => g.prio)).getD 0 := by
    intro r
    cases tget v.regions r <;> rfl
  have himg : ∀ e : Nat × Launch, (match s.image? (pktKey p e.2.hdr) with | none => false | some m => (s.placeStep e.2 m).2) = true
      ↔ ∃ m, s.image? (pktKey p e.2.hdr) = some m ∧ (s.placeStep e.2 m).2 = true := by
    intro e
    cases s.image? (pktKey p e.2.hdr) <;> simp
  unfold State.placeWaits
  rw [List.any_eq_true]
  refine exists_congr fun e => and_congr_right fun _ => ?_
  simp only [part_of_tget hv, Bool.and_eq_true, beq_iff_eq, decide_eq_true_eq, Bool.not_eq_true', List.contains_eq_mem, decide_eq_false_iff_not,
    foldl_max_le, List.forall_mem_map, Nat.zero_le, true_and]
  rw [← himg e]
  simp only [← hprio]
  tauto

end Waiting

/-! ## The resume (R372) -/

section Resumes
variable {s : State} {v : Part} (hv : tget s.parts s.subj.a = some v)
include hv

theorem resumeRegion_exec : exec .resumeRegion s = .next (State.cwSet (if v.preempt.st = 3 ∧ s.subj.b ∈ v.preempt.regions then
    (s.setPart s.subj.a { v with preempt := { v.preempt with byQuantum := false } }).postEv .resume { a := s.subj.a } else s) s.subj.d) := by
  simp only [exec, execResumeRegion, part_of_tget hv, modPart_of_tget hv, List.contains_iff_mem]

theorem resume_waits (hst : v.preempt.st = 3) (h : v.halted = true ∨ (∃ n ∈ v.preempt.tiles, s.freeTile s.subj.a n = false)
    ∨ (v.preempt.byQuantum = true ∧ s.placeWaits s.subj.a v.preempt.regions = true)) : exec .resume s = .next (s.postEv .resume { a := s.subj.a }) := by
  have hcond : (v.halted || !v.preempt.tiles.all (s.freeTile s.subj.a) || (v.preempt.byQuantum && s.placeWaits s.subj.a v.preempt.regions)) = true := by
    simpa only [Bool.or_eq_true, Bool.and_eq_true, Bool.not_eq_true', List.all_eq_false, Bool.not_eq_true, or_assoc] using h
  simp only [exec, execResume, part_of_tget hv, hst, ne_eq, not_true, if_false, hcond, if_true]

/-- R372: with its tiles free and nothing before it, a resume either finds a context in error or begins. -/
theorem resume_begins (hst : v.preempt.st = 3) (hh : v.halted = false) (hfree : ∀ n ∈ v.preempt.tiles, s.freeTile s.subj.a n = true)
    (hwait : v.preempt.byQuantum = false ∨ s.placeWaits s.subj.a v.preempt.regions = false) : exec .resume s
    = if v.preempt.tiles.any (fun n => (tget s.biv n).any (fun b => b.bad)) then
        .next (((v.preempt.tiles.filter (fun n => (tget s.biv n).any (fun b => b.bad))).foldl State.contextError s).postEv .resume { a := s.subj.a })
      else .next (((v.preempt.tiles.foldl State.swapIn s).modPart s.subj.a (fun v => { v with preempt := { v.preempt with st := 4 } })).postEv
        .swapInComplete { a := s.subj.a }) := by
  have hcond : (v.halted || !v.preempt.tiles.all (s.freeTile s.subj.a) || (v.preempt.byQuantum && s.placeWaits s.subj.a v.preempt.regions)) = false := by
    simpa only [Bool.or_eq_false_iff, Bool.and_eq_false_iff, Bool.not_eq_false', List.all_eq_true, hh, true_and] using And.intro hfree hwait
  simp only [exec, execResume, part_of_tget hv, hst, ne_eq, not_true, if_false, hcond, Bool.false_eq_true]

/-- R362: a context with an uncorrectable error stops its partition. -/
theorem resume_contextError (hst : v.preempt.st = 3) (hh : v.halted = false) {n o : Nat} {bv : Biv} (ht : v.preempt.tiles = [n])
    (hfree : s.freeTile s.subj.a n = true) (hwait : v.preempt.byQuantum = false ∨ s.placeWaits s.subj.a v.preempt.regions = false)
    (hb : tget s.biv n = some bv) (hbad : bv.bad = true) (ho : bv.site.part = some o) : exec .resume s
      = .next ((s.stopFault o bv.site.region 0 0xFFFFFFFF 0x0202 [0, tileid ⟨.tile n, 0⟩]).postEv .resume { a := s.subj.a }) := by
  have hbad : ((tget s.biv n).any (fun b => b.bad)) = true := by rw [hb]; exact hbad
  have herr : s.contextError n = s.stopFault o bv.site.region 0 0xFFFFFFFF 0x0202 [0, tileid ⟨.tile n, 0⟩] := by
    simp only [State.contextError, hb, Option.bind_some, ho, Option.map_some]
  rw [resume_begins hv hst hh (by rw [ht]; exact List.forall_mem_singleton.2 hfree) hwait, ht]
  simp only [List.any_cons, hbad, Bool.true_or, if_true, List.filter_cons, List.filter_nil, List.foldl_cons, List.foldl_nil, herr]

end Resumes

/-! ## A context comes back (R372 steps 1 and 2) -/

/-- A restored cell: what its context holds, with the tables that the tile has. -/
def Cell.restored (old c : Cell) : Cell :=
  { old with instr := c.instr, lits := c.lits, routes := c.routes, nroutes := c.nroutes, bases := c.bases, last := c.last, bad := [], issued := c.issued, passed := c.passed }

theorem swapIn_eq {s : State} {n : Nat} {bv : Biv} {k : ImgKey} {m : Image} (hb : tget s.biv n = some bv) (hk : bv.site.img = some k) (hm : s.image? k = some m) :
    s.swapIn n = (bv.cells.foldl (fun s e => s.setCell ⟨.tile n, e.1⟩ (e.2.restored (s.cell ⟨.tile n, e.1⟩)))
      (s.writeTables (.tile n) (recCells (imgRecs m.bytes bv.site.stage)) (fun old c => { c with issued := old.issued, passed := old.passed }))).setSite (.tile n)
        { bv.site with valid := false } := by
  simp only [State.swapIn, hb, hk, hm]
  rfl

theorem swapIn_places {s : State} {n : Nat} {bv : Biv} {k : ImgKey} {m : Image} (hb : tget s.biv n = some bv) (hk : bv.site.img = some k) (hm : s.image? k = some m) :
    (s.swapIn n).mem = s.mem ∧ (s.swapIn n).threads = s.threads ∧ (s.swapIn n).site (.tile n) = { bv.site with valid := false } := by
  have hcells : ∀ b : State, (bv.cells.foldl (fun s e => s.setCell ⟨.tile n, e.1⟩ (e.2.restored (s.cell ⟨.tile n, e.1⟩))) b).mem = b.mem
      ∧ (bv.cells.foldl (fun s e => s.setCell ⟨.tile n, e.1⟩ (e.2.restored (s.cell ⟨.tile n, e.1⟩))) b).threads = b.threads := fun b =>
    ⟨foldl_same State.mem _ (fun _ _ => by rfl) _ b, foldl_same State.threads _ (fun _ _ => by rfl) _ b⟩
  have hset : ∀ b : State, (b.setSite (.tile n) { bv.site with valid := false }).mem = b.mem ∧ (b.setSite (.tile n) { bv.site with valid := false }).threads = b.threads :=
    fun _ => ⟨rfl, rfl⟩
  obtain ⟨cs, hw⟩ := State.writeTables_eq s (.tile n) (recCells (imgRecs m.bytes bv.site.stage)) (fun old c => { c with issued := old.issued, passed := old.passed })
  rw [swapIn_eq hb hk hm, State.setSite_site, if_pos rfl, (hset _).1, (hset _).2, (hcells _).1, (hcells _).2, hw]
  exact ⟨rfl, rfl, rfl⟩

theorem swapIn_cell {s : State} {n c : Nat} {bv : Biv} {k : ImgKey} {m : Image} {old : Cell} (hb : tget s.biv n = some bv) (hk : bv.site.img = some k)
    (hm : s.image? k = some m) (hc : c < 64) (hcells : bv.cells = [(c, old)]) : ∃ was : Cell, (s.swapIn n).cell ⟨.tile n, c⟩
      = old.restored { recCells (imgRecs m.bytes bv.site.stage) c with issued := was.issued, passed := was.passed } := by
  have hset : ∀ (b : State) (x : Site) (v : SiteSt) (a : Agent), (b.setSite x v).cell a = b.cell a := fun _ _ _ _ => rfl
  rw [swapIn_eq hb hk hm, hcells, List.foldl_cons, List.foldl_nil, hset, State.setCell_cell, if_pos rfl, writeTables_written _ _ _ _ hc]
  exact ⟨_, rfl⟩

/-! ## A tile's threads and activities return (R372 step 5) -/

theorem tget_append_of_none {κ α : Type} [DecidableEq κ] {t w : Tbl κ α} {k : κ} (h : tget t k = none) : tget (t ++ w) k = tget w k := by
  induction t with
  | nil => rfl
  | cons e t ih =>
    by_cases hk : e.1 = k
    · simp [tget, hk] at h
    · simp only [tget, if_neg hk] at h
      simpa only [List.cons_append, tget, if_neg hk] using ih h

/-- R372 step 5: the context has left its slot; its threads and activities stand again, its site accepts. -/
def State.unpacked (s : State) (n now : Nat) (b : Biv) : State :=
  (({ s with threads := s.threads ++ b.threads.map (fun e => (e.1, e.2.retime (fromLeft now)))
             biv := tdel s.biv n
             agenda := s.agenda ++ b.acts } : State).modSite (.tile n) (fun v => { v.retime (fromLeft now) with valid := true })).postEv
    .textureRequestAccept { a := n / 2 }

/-- Chains and cells of a site are looked at again. -/
theorem looksAgain_eq (s : State) (x : Site) : ∃ g, (s.retestChains x).wake x (List.range 64)
    = { s with agenda := s.agenda ++ g ++ (List.range 64).map (fun c => .ev .workSelection { ag := ⟨x, c⟩ }) } := by
  unfold State.retestChains State.wake
  rw [foldl_postEv, foldl_postEv]
  exact ⟨_, rfl⟩

/-- What the revival of the threads does is only to look at them again. -/
theorem reviveTile_eq {s : State} {p n now : Nat} {b : Biv} {g : List Act} (hb : tget s.biv n = some b)
    (hfold : b.threads.foldl (fun s e => s.reviveThread p e.1) (s.unpacked n now b) = { s.unpacked n now b with agenda := (s.unpacked n now b).agenda ++ g }) :
    ∃ g', s.reviveTile p n now = { s.unpacked n now b with agenda := (s.unpacked n now b).agenda ++ g ++ g' ++ (List.range 64).map (fun c => .ev .workSelection { ag := ⟨.tile n, c⟩ }) } := by
  have heq : s.reviveTile p n now = ((b.threads.foldl (fun s e => s.reviveThread p e.1) (s.unpacked n now b)).retestChains (.tile n)).wake (.tile n) (List.range 64) := by
    simp only [State.reviveTile, hb]
    rfl
  obtain ⟨g', h⟩ := looksAgain_eq { s.unpacked n now b with agenda := (s.unpacked n now b).agenda ++ g } (.tile n)
  exact ⟨g', by rw [heq, hfold, h]⟩

theorem unpacked_thr {s : State} {n now u : Nat} {b : Biv} {t : Thread} (hb : b.threads = [(u, t)]) (hu : s.thr? u = none) :
    (s.unpacked n now b).thr? u = some (t.retime (fromLeft now)) := by
  refine (tget_append_of_none hu).trans ?_
  simp [hb, tget]

theorem unpacked_valid (s : State) (n now : Nat) (b : Biv) : ((s.unpacked n now b).site (.tile n)).valid = true := by
  unfold State.unpacked
  rw [State.site_congr (State.postEv_sites ..), State.modSite_site, if_pos rfl]

/-- R373: a waiting thread is tested again, its deadline on the work clock of now. -/
theorem reviveTile_waiting {s : State} {p n now u d : Nat} {bv : Biv} {t : Thread} {w : Wait} (hb : tget s.biv n = some bv) (hths : bv.threads = [(u, t)])
    (hu : s.thr? u = none) (hend : t.ending = false) (hst : t.stat = .wait) (hw : t.wait = some w) (hd : w.deadline = some d) :
    ∃ k, (s.reviveTile p n now).thr? u = some k ∧ k.wait = some { w with deadline := some (d + now) } ∧ k.lanes = t.lanes
      ∧ Act.ev .waitTest { a := u } ∈ (s.reviveTile p n now).agenda := by
  have hthr := unpacked_thr (n := n) (now := now) hths hu
  have hrev : (s.unpacked n now bv).reviveThread p u = (s.unpacked n now bv).postEv .waitTest { a := u } := by
    have he : (t.retime (fromLeft now)).ending = false := hend
    have hs : (t.retime (fromLeft now)).stat = .wait := hst
    simp only [State.reviveThread, hthr, he, hs, Bool.false_and, Bool.false_eq_true, if_false]
  obtain ⟨g', h⟩ := reviveTile_eq (p := p) (g := [.ev .waitTest { a := u }]) hb (by rw [hths]; exact hrev)
  rw [h]
  refine ⟨t.retime (fromLeft now), hthr, ?_, rfl, ?_⟩
  · simp only [Thread.retime, hw, Option.map_some, hd, fromLeft]
  · simp only [List.mem_append, List.mem_singleton]
    tauto

/-- A thread that waits for a reply stands as it stood; without one, nothing stands. -/
theorem foldl_reviveThread_reply {s : State} {p n now : Nat} {b : Biv}
    (h : b.threads = [] ∨ ∃ u t, b.threads = [(u, t)] ∧ s.thr? u = none ∧ t.ending = false ∧ t.stat = .reply) :
    b.threads.foldl (fun s e => s.reviveThread p e.1) (s.unpacked n now b) = { s.unpacked n now b with agenda := (s.unpacked n now b).agenda ++ [] } := by
  rw [List.append_nil]
  rcases h with h | ⟨u, t, h, hu, hend, hst⟩
  · rw [h]
    rfl
  · have he : (t.retime (fromLeft now)).ending = false := hend
    have hs : (t.retime (fromLeft now)).stat = .reply := hst
    rw [h]
    simp only [List.foldl_cons, List.foldl_nil, State.reviveThread, unpacked_thr h hu, he, hs, Bool.false_and, Bool.false_eq_true, if_false]

/-! ## The end of the resume (R372 steps 3 to 5) -/

/-- R265, R372: a partition with its chains restored. -/
def Part.chainsBack (v : Part) : Part := { v with chains := v.chains.map (fun c => (c.1, { c.2 with saved := false })) }

/-- R372: a context of a tile stands in the state b, and the partition holds no pre-emption. -/
structure UnpackedIn (s b : State) (n : Nat) (bv : Biv) (p : Nat) (v : Part) : Prop where
  mem : b.mem = s.mem
  free : tget b.biv n = none
  valid : (b.site (.tile n)).valid = true
  part : tget b.parts p = some { v.chainsBack with preempt := Preempt.reset }
  threads : b.threads = s.threads ++ bv.threads.map (fun e => (e.1, e.2.retime (fromLeft (s.work p))))
  acts : ∀ a ∈ bv.acts, a ∈ b.agenda
  woken : ∀ c, c < 64 → Act.ev .workSelection { ag := ⟨.tile n, c⟩ } ∈ b.agenda

theorem unpackedIn_of {s r : State} {n p : Nat} {bv : Biv} (v : Part) (g : List Act)
    (hr : r = { (s.setPart p v.chainsBack).unpacked n (s.work p) bv with agenda := ((s.setPart p v.chainsBack).unpacked n (s.work p) bv).agenda ++ g ++ (List.range 64).map (fun c => .ev .workSelection { ag := ⟨.tile n, c⟩ }) }) :
    UnpackedIn s (r.modPart p (fun v => { v with preempt := Preempt.reset })) n bv p v := by
  have hpart : tget r.parts p = some v.chainsBack := by
    rw [hr]
    exact tget_tset_same ..
  rw [modPart_of_tget hpart]
  constructor
  case part => exact tget_tset_same ..
  case free =>
    rw [hr]
    exact tget_tdel_same ..
  case valid =>
    rw [hr]
    exact unpacked_valid (s.setPart p v.chainsBack) n (s.work p) bv
  case acts =>
    intro a ha
    rw [hr]
    exact List.mem_append_left _ (List.mem_append_left _ (List.mem_append_left _ (List.mem_append_right _ ha)))
  case woken =>
    intro c hc
    rw [hr]
    exact List.mem_append_right _ (List.mem_map_of_mem (List.mem_range.2 hc))
  all_goals
    rw [hr]
    rfl

section Back
variable {s : State} {v : Part} (hv : tget s.parts s.subj.a = some v) (hst : v.preempt.st = 4)
include hv hst

theorem swapInComplete_halted (hh : v.halted = true) : exec .swapInComplete s = .next (s.postEv .swapInComplete { a := s.subj.a }) := by
  simp only [exec, execSwapInComplete, part_of_tget hv, hst, ne_eq, not_true, if_false, hh, if_true]

theorem swapInComplete_returns (hh : v.halted = false) (he : v.preempt.elems = []) {n : Nat} {bv : Biv} (ht : v.preempt.tiles = [n])
    (hb : tget s.biv n = some bv) (hths : bv.threads = [] ∨ ∃ u t, bv.threads = [(u, t)] ∧ s.thr? u = none ∧ t.ending = false ∧ t.stat = .reply) :
    ∃ (mine : Who → Bool) (b : State), (∀ w : Who, w.ag.site = .tile n → mine w = bv.invs.contains w.inv) ∧ UnpackedIn s b n bv s.subj.a v
      ∧ exec .swapInComplete s = .next (if v.commit.isSome then ((b.applyKept s.subj.a mine).reissueParked mine).postEv .rangeTableRead { a := s.subj.a }
          else (b.applyKept s.subj.a mine).reissueParked mine) := by
  have hrev := foldl_reviveThread_reply (s := s.setPart s.subj.a v.chainsBack) (p := s.subj.a) (n := n) (now := s.work s.subj.a) hths
  obtain ⟨g, hg⟩ := reviveTile_eq (s := s.setPart s.subj.a v.chainsBack) hb hrev
  have hunpacked := unpackedIn_of v g (show (s.setPart s.subj.a v.chainsBack).reviveTile s.subj.a n (s.work s.subj.a) = _ by rw [hg, List.append_nil])
  refine ⟨fun w => match w.ag.site with
      | .tile m => [(n, bv.invs)].any (fun e => e.1 == m && e.2.contains w.inv)
      | .elem e => v.preempt.elems.contains e
      | .syrad _ => false, _, fun w hw => ?_, hunpacked, ?_⟩
  · simp only [hw, List.any_cons, List.any_nil, Bool.or_false, beq_self_eq_true, Bool.true_and]
  · have hchains : s.restoreChains s.subj.a = s.setPart s.subj.a v.chainsBack := modPart_of_tget hv _
    simp only [exec, execSwapInComplete, part_of_tget hv, hst, ne_eq, not_true, if_false, hh, Bool.false_eq_true, ht, he, List.map_cons, List.map_nil, hb,
      hchains, List.foldl_cons, List.foldl_nil] <;> rfl

end Back

/-- What walks again and the read of a range table change neither threads, sites, slots nor partitions. -/
theorem reissued_keeps (a : State) (mine : Who → Bool) (p : Nat) (c : Bool) {s' : State}
    (hs' : s' = if c then (a.reissueParked mine).postEv .rangeTableRead { a := p } else a.reissueParked mine) :
    s'.mem = a.mem ∧ s'.threads = a.threads ∧ s'.sites = a.sites ∧ s'.biv = a.biv ∧ s'.parts = a.parts ∧ ∀ x ∈ a.agenda, x ∈ s'.agenda := by
  obtain ⟨as, g, h⟩ := reissueParked_eq a mine
  rw [hs', h]
  split
  · exact ⟨rfl, rfl, rfl, rfl, rfl, fun x hx => List.mem_append_left _ (List.mem_append_left _ hx)⟩
  · exact ⟨rfl, rfl, rfl, rfl, rfl, fun x hx => List.mem_append_left _ hx⟩

theorem applyKept_none {s : State} {p : Nat} {w : Part} (hw : tget s.parts p = some w) (hk : w.kept = []) (mine : Who → Bool) :
    s.applyKept p mine = s.setPart p { w with kept := [] } := by
  simp only [State.applyKept, part_of_tget hw, hk, List.foldl_nil, modPart_of_tget hw]

/-- R360: the reply that was kept for a thread of the context reaches it. -/
theorem applyKept_thread {s : State} {p u code act : Nat} {w : Part} {t : Thread} (hw : tget s.parts p = some w) (hk : w.kept = [⟨.loop u, code, act⟩])
    (ht : s.thr? u = some t) {mine : Who → Bool} (hm : mine (t.who 0) = true) : s.applyKept p mine
      = if act = 0 then (s.setPart p { w with kept := [] }).runAgain u else (s.setPart p { w with kept := [] }).endThread u := by
  have ht' : (s.setPart p { w with kept := [] }).thr? u = some t := ht
  simp only [State.applyKept, part_of_tget hw, hk, List.foldl_cons, List.foldl_nil, modPart_of_tget hw, State.replyEffect, RecFor.uid?, ht', hm, if_true,
    State.replyThread]

section Returned
variable {s : State} {v : Part} (hv : tget s.parts s.subj.a = some v) (hst : v.preempt.st = 4) (hh : v.halted = false) (he : v.preempt.elems = [])
  {n : Nat} {bv : Biv} (ht : v.preempt.tiles = [n]) (hb : tget s.biv n = some bv)
include hv hst hh he ht hb

/-- R372: a tile without threads goes on. -/
theorem swapInComplete_idle (hk : v.kept = []) (hths : bv.threads = []) : ∃ s', exec .swapInComplete s = .next s' ∧ s'.mem = s.mem
      ∧ tget s'.biv n = none ∧ (s'.site (.tile n)).valid = true ∧ (s'.part s.subj.a).preempt = Preempt.reset ∧ s'.threads = s.threads
      ∧ (∀ a ∈ bv.acts, a ∈ s'.agenda) ∧ ∀ c, c < 64 → Act.ev .workSelection { ag := ⟨.tile n, c⟩ } ∈ s'.agenda := by
  obtain ⟨mine, b, -, h, hexec⟩ := swapInComplete_returns hv hst hh he ht hb (.inl hths)
  rw [applyKept_none h.part hk] at hexec
  obtain ⟨hmem, hthreads, hsites, hbiv, hparts, hagenda⟩ := reissued_keeps (b.setPart s.subj.a _) mine s.subj.a v.commit.isSome rfl
  refine ⟨_, hexec, hmem.trans h.mem, by rw [hbiv]; exact h.free, by rw [State.site_congr hsites]; exact h.valid, ?_, ?_,
    fun a ha => hagenda a (h.acts a ha), fun c hc => hagenda _ (h.woken c hc)⟩
  · rw [State.part_congr hparts]
    exact congrArg Part.preempt (part_of_tget (s := State.setPart _ _ _) (tget_tset_same ..))
  · rw [hthreads]
    refine h.threads.trans ?_
    rw [hths, List.map_nil, List.append_nil]

variable {u : Nat} {t : Thread} (hths : bv.threads = [(u, t)]) (hu : s.thr? u = none) (hend : t.ending = false) (hreply : t.stat = .reply) (hwait : t.wait = none)
include hths hu hend hreply hwait

/-- A thread that waits for a reply and for no time stands in the state as it stood in its context. -/
theorem swapInComplete_stands : ∃ (mine : Who → Bool) (b : State), (∀ w : Who, w.ag.site = .tile n → mine w = bv.invs.contains w.inv)
      ∧ b.thr? u = some t ∧ tget b.parts s.subj.a = some { v.chainsBack with preempt := Preempt.reset }
      ∧ ∃ s', exec .swapInComplete s = .next s' ∧ s'.threads = (b.applyKept s.subj.a mine).threads ∧ s'.parts = (b.applyKept s.subj.a mine).parts := by
  obtain ⟨mine, b, hmine, h, hexec⟩ := swapInComplete_returns hv hst hh he ht hb (.inr ⟨u, t, hths, hu, hend, hreply⟩)
  obtain ⟨-, hthreads, -, -, hparts, -⟩ := reissued_keeps (b.applyKept s.subj.a mine) mine s.subj.a v.commit.isSome rfl
  refine ⟨mine, b, hmine, ?_, h.part, _, hexec, hthreads, hparts⟩
  have hsame : t.retime (fromLeft (s.work s.subj.a)) = t := by
    simp only [Thread.retime, hwait, Option.map_none]
    rw [← hwait]
  rw [State.thr?, h.threads, tget_append_of_none hu, hths]
  simp [tget, hsame]

theorem swapInComplete_unreplied (hk : v.kept = []) : ∃ s', exec .swapInComplete s = .next s' ∧ s'.thr? u = some t := by
  obtain ⟨mine, b, -, hthr, hpart, s', hexec, hthreads, -⟩ := swapInComplete_stands hv hst hh he ht hb hths hu hend hreply hwait
  rw [applyKept_none hpart hk] at hthreads
  exact ⟨s', hexec, (State.thr_congr hthreads u).trans hthr⟩

theorem swapInComplete_replied (hin : t.inv ∈ bv.invs) (hsite : t.src.site = .tile n) {code act : Nat} (hk : v.kept = [⟨.loop u, code, act⟩]) :
    ∃ s', exec .swapInComplete s = .next s' ∧ (s'.part s.subj.a).kept = [] ∧ (act ≠ 0 → s'.thr? u = none)
      ∧ (act = 0 → ∃ k, s'.thr? u = some k ∧ k.lanes = t.lanes ∧ k.ip = t.ip ∧ k.stat = if t.slot.isSome then .ready else .run) := by
  obtain ⟨mine, b, hmine, hthr, hpart, s', hexec, hthreads, hparts⟩ := swapInComplete_stands hv hst hh he ht hb hths hu hend hreply hwait
  have hok : mine (t.who 0) = true := (hmine (t.who 0) hsite).trans (List.contains_iff_mem.2 hin)
  rw [applyKept_thread hpart hk hthr hok] at hthreads hparts
  generalize hc : b.setPart s.subj.a { v.chainsBack with preempt := Preempt.reset, kept := [] } = c at hthreads hparts
  have hcpart : (c.part s.subj.a).kept = [] := by
    rw [← hc]
    exact congrArg Part.kept (part_of_tget (s := State.setPart _ _ _) (tget_tset_same ..))
  have hcthr : c.thr? u = some t := by
    rw [← hc]
    exact hthr
  refine ⟨s', hexec, ?_⟩
  rw [State.part_congr hparts, State.thr_congr hthreads]
  by_cases hact : act = 0
  · obtain ⟨-, hrparts, k, hk, -, hip, hlanes, hstat⟩ := runAgain_runs hcthr
    rw [if_pos hact, State.part_congr hrparts]
    exact ⟨hcpart, fun h => absurd hact h, fun _ => ⟨k, hk, hlanes, hip, hstat⟩⟩
  · rw [if_neg hact, State.part_congr (workKept_endThread ..).parts]
    exact ⟨hcpart, fun _ => endThread_thr .., fun h => absurd h hact⟩

end Returned

/-- Settles O57: the halt line case by case, then the pre-emption from its request to the resume. -/
theorem haltPreemptionAndResume : Obligations.HaltPreemptionAndResume := by
  unfold Obligations.HaltPreemptionAndResume
  refine ⟨halt_cases, fun s v hv => ?_⟩
  refine ⟨by rw [show exec .preemptRegion s = execPreemptRegion s from rfl, execPreemptRegion, part_of_tget hv],
    fun rs => ⟨preempt_refused hv, preempt_asks hv⟩,
    fun hc hk hh => ⟨fun hr => ?_, engineStop_stopped hv hc hk hh⟩, preemptionComplete_halted hv, preemptionComplete_swapsOut hv, lands_iff s,
    swapOutComplete_waits hv, fun hst hl he n ht => ?_, ?_, placeWaits_iff hv _, resume_waits hv, ?_, ?_, ?_, swapInComplete_halted hv, ?_, ?_, ?_⟩
  · rw [engineStop_acknowledges hv hc hk hh, if_neg (by rw [hr]; exact Bool.false_ne_true)]
  · obtain ⟨s', hexec, hmem, hpre, hbiv, hsite, hthreads, hcells⟩ := swapOutComplete_takes hv hst hl he ht
    refine ⟨s', _, hexec, hmem, hpre, hbiv, rfl, rfl, rfl, rfl, fun c hc => tget_map_range _ hc, fun u t hu hx => ?_, by rw [hsite]; rfl, by rw [hsite]; rfl,
      by rw [hsite]; rfl, fun c hc => by rw [hcells c hc]; exact ⟨rfl, rfl, rfl⟩, fun u t hu => ?_, fun u t hu hx => ?_⟩
    · refine ⟨_, contextOf_thread hu hx, rfl, rfl, rfl, fun w d hw hd => ?_⟩
      simp only [Thread.retime, hw, Option.map_some, hd, leftOf]
    · rw [State.thr?, hthreads] at hu
      exact bne_iff_ne.1 (List.mem_filter.1 (mem_of_tget hu)).2
    · rw [State.thr?, hthreads]
      exact tget_filter_of _ hu (bne_iff_ne.2 hx)
  · exact resumeRegion_exec hv
  · exact fun n bv o hst hh ht hfree hwait hb hbad ho => resume_contextError hv hst hh ht hfree hwait hb hbad ho
  · intro hst hh hfree hwait hgood
    rw [resume_begins hv hst hh hfree hwait, if_neg]
    rw [List.any_eq_true]
    rintro ⟨n, hn, hbad⟩
    obtain ⟨bv, hb, hbb⟩ := (Option.any_eq_true _ _).1 hbad
    rw [hgood n hn bv hb] at hbb
    cases hbb
  · intro n bv k m hb hk hm x b
    obtain ⟨hmem, hthreads, hsite⟩ := swapIn_places hb hk hm
    refine ⟨hmem, hthreads, hsite, fun c old hc hcells => ?_⟩
    obtain ⟨was, h⟩ := swapIn_cell hb hk hm hc hcells
    rw [h]
    exact ⟨rfl, rfl, rfl, rfl⟩
  · exact fun hst hh he hk _ n bv ht hb hths => swapInComplete_idle hv hst hh he ht hb hk hths
  · intro n bv u t hst hh he _ ht hb hths hu hsite hin hend hreply hwait
    exact ⟨swapInComplete_unreplied hv hst hh he ht hb hths hu hend hreply hwait,
      fun code act hk => swapInComplete_replied hv hst hh he ht hb hths hu hend hreply hwait hin hsite hk⟩
  · exact fun n bv u t w d hb hths hu hend hstat hw hd => reviveTile_waiting hb hths hu hend hstat hw hd

end Sys2Proof.Machine
end
section
/-! The life cycle, the power of islands and the Syrad engine (R434, R436 to R441). -/

namespace Sys2Proof.Machine

/-! ## A module booted (R437) -/

theorem recovering_powerOf (s : State) (d : Nat) : State.powerOf { s with io := { s.io with recovery := true } } d = s.powerOf d := rfl

/-- R437: what the boot leaves, whether its tests passed or failed. -/
theorem powerOnReset_boots (s : State) : ∃ s', exec .powerOnReset s = .next s' ∧ s'.mem = [] ∧ s'.memBad = [] ∧ s'.parts = [] ∧ s'.threads = []
    ∧ (∀ ag, (∀ d, d < 4 → ag.site ≠ .syrad d) → s'.cell ag = Cell.reset ∧ s'.site ag.site = SiteSt.reset)
    ∧ (∀ d, d < 16 → s'.powerOf d = if Config.selfTestOk d then .running else .off)
    ∧ s'.cycle = 0 ∧ s'.tod = 0 ∧ s'.launches = [] ∧ s'.images = [] ∧ s'.coh = Coh.reset ∧ s'.lantern = Lantern.reset
    ∧ s'.io.flash = s.io.flash ∧ s'.io.life = s.io.life ∧ s'.io.identity = s.io.identity
    ∧ (bootOk s.io.flash = true → s'.io.booted = true ∧ s'.io.recovery = false ∧ s'.agenda = bootActs
        ∧ ∀ d, d < 4 → (s'.site (.syrad d)).valid = true
          ∧ ∀ c, c < 64 → s'.cell ⟨.syrad d, c⟩ = recCells (imgRecs (Config.firmwareGraph s.io.flash d) 0) c)
    ∧ (¬bootOk s.io.flash = true → s'.cells = [] ∧ s'.sites = [] ∧ s'.io.booted = false ∧ s'.io.recovery = true ∧ s'.agenda = []) := by
  refine ⟨_, powerOnReset_exec s, ?_⟩
  have hempty : ∀ ag, s.firmware.cell ag = Cell.reset ∧ s.firmware.site ag.site = SiteSt.reset := fun _ => ⟨rfl, rfl⟩
  by_cases hok : bootOk s.io.flash = true
  · rw [if_pos hok]
    have hother := fun (ag : Agent) (h : ∀ d, d < 4 → ag.site ≠ .syrad d) =>
      (foldl_pitchSyrad_other s.io.flash ag (List.range 4) (fun d hd => h d (List.mem_range.1 hd)) s.firmware).imp (·.trans (hempty ag).1) (·.trans (hempty ag).2)
    have hpitched := fun d (hd : d < 4) => foldl_pitchSyrad_pitched s.io.flash (List.range 4) (List.mem_range.2 hd) List.nodup_range s.firmware
    obtain ⟨cs, xs, h⟩ := foldl_pitchSyrad_eq s.io.flash (List.range 4) s.firmware
    rw [h] at hother hpitched ⊢
    exact ⟨rfl, rfl, rfl, rfl, hother, fun d hd => wiped_powerOf s hd, rfl, rfl, rfl, rfl, rfl, rfl, rfl, rfl, rfl, fun _ => ⟨rfl, rfl, rfl, hpitched⟩, fun h => absurd hok h⟩
  · have hpower : ∀ d, d < 16 → State.powerOf { s.wiped with io := { s.wiped.io with recovery := true } } d = if Config.selfTestOk d then .running else .off := by
      intro d hd
      rw [recovering_powerOf, wiped_powerOf s hd]
    rw [if_neg hok]
    exact ⟨rfl, rfl, rfl, rfl, fun _ _ => ⟨rfl, rfl⟩, hpower, rfl, rfl, rfl, rfl, rfl, rfl, rfl, rfl, rfl, fun h => absurd h hok,
      fun _ => ⟨rfl, rfl, rfl, rfl, rfl⟩⟩

/-! ## The life cycle (R440) -/

theorem lifeCycle_next (l : LifeCycle) : l.next = [LifeCycle.manufacturing, .provisioned, .production, .returned, .decommissioned][l.code + 1]? := by
  cases l <;> rfl

/-- The state in which a management command finds its flit gone. -/
theorem withFlit_eq {s : State} {f : Flit} (hf : s.flit? s.subj.a = some f) (k : State → Flit → State) : s.withFlit k = .next (k (s.dropFlit s.subj.a) f) := by
  rw [State.withFlit, hf]

section Changed
variable {s : State} {f : Flit} (hf : s.flit? s.subj.a = some f)
include hf

theorem lifeCycleChange_last (h : s.io.life = .decommissioned) : exec .lifeCycleChange s = .next ((s.dropFlit s.subj.a).ack f (fld f.word 0 8) 1 []) := by
  have hlife : (s.dropFlit s.subj.a).io.life = .decommissioned := h
  rw [show exec .lifeCycleChange s = execLifeCycleChange s from rfl, execLifeCycleChange, withFlit_eq hf, hlife]
  rfl

theorem lifeCycleChange_asks {nxt : LifeCycle} (h : s.io.life.next = some nxt) : exec .lifeCycleChange s
    = .next (if pktN f.payload 0 1 ≠ nxt.code || !lifeOk nxt f.payload then (s.dropFlit s.subj.a).ack f (fld f.word 0 8) 1 []
      else ((s.dropFlit s.subj.a).ack f (fld f.word 0 8) 0 []).restart s.io.flash nxt (decide (nxt = .provisioned) || (s.io.identity && decide (nxt ≠ .decommissioned)))) := by
  have hlife : (s.dropFlit s.subj.a).io.life.next = some nxt := h
  rw [show exec .lifeCycleChange s = execLifeCycleChange s from rfl, execLifeCycleChange, withFlit_eq hf, hlife]
  rfl

end Changed

/-! ## Power (R441) -/

/-- A link's power follows its ends; nothing but its sleep and its collapses changes. -/
theorem linkPower_eq (s : State) (a b : Nat) : ∃ as cs, s.linkPower a b = { s with coh := { s.coh with asleep := as, colls := cs } } := by
  unfold State.linkPower
  split
  · exact ⟨_, _, rfl⟩
  · split
    · split
      · exact ⟨_, _, rfl⟩
      · exact ⟨_, _, rfl⟩
    · split
      · exact ⟨_, _, rfl⟩
      · exact ⟨_, _, rfl⟩

theorem linkPower_asleep (s : State) {a d : Nat} (hd : d ≠ a) (b : Nat) : (s.linkPower a b).linkAsleep a d = true
    ↔ if b = d then s.powerOf a = .idle ∧ s.powerOf d = .idle else s.linkAsleep a d = true := by
  have hkey : (min a b, max a b) = (min a d, max a d) ↔ b = d := by
    rw [Prod.mk.injEq]
    omega
  unfold State.linkPower
  by_cases hab : a = b
  · rw [if_pos hab, if_neg (fun h => hd (h.symm.trans hab.symm))]
  rw [if_neg hab]
  by_cases hbd : b = d
  · subst hbd
    rw [if_pos rfl]
    by_cases hi : s.powerOf a = .idle ∧ s.powerOf b = .idle
    · rw [if_pos hi]
      split
      · next h => exact iff_of_true h hi
      · exact iff_of_true (by simp [State.linkAsleep]) hi
    · rw [if_neg hi]
      split
      · exact iff_of_false (by simp [State.linkAsleep, State.wakeLink]) hi
      · next h => exact iff_of_false h hi
  · rw [if_neg hbd]
    have hne : ¬(min a d, max a d) = (min a b, max a b) := fun h => hbd (hkey.1 h.symm)
    split
    · split
      · rfl
      · simp only [State.linkAsleep, List.contains_iff_mem, List.mem_append, List.mem_singleton, hne, or_false]
    · split
      · simp only [State.linkAsleep, State.wakeLink, List.contains_iff_mem, List.mem_filter, decide_eq_true_eq, ne_eq, hne, not_false_eq_true, and_true]
      · rfl

theorem foldl_linkPower_eq (a : Nat) (l : List Nat) (s : State) : ∃ as cs, l.foldl (fun s b => s.linkPower a b) s = { s with coh := { s.coh with asleep := as, colls := cs } } := by
  induction l generalizing s with
  | nil => exact ⟨_, _, rfl⟩
  | cons b l ih =>
    obtain ⟨as, cs, h⟩ := linkPower_eq s a b
    obtain ⟨as', cs', h'⟩ := ih (s.linkPower a b)
    exact ⟨as', cs', by rw [List.foldl_cons, h', h]⟩

theorem foldl_linkPower_asleep {a d : Nat} (hd : d ≠ a) (l : List Nat) (s : State) : (l.foldl (fun s b => s.linkPower a b) s).linkAsleep a d = true
    ↔ if d ∈ l then s.powerOf a = .idle ∧ s.powerOf d = .idle else s.linkAsleep a d = true := by
  induction l generalizing s with
  | nil => simp
  | cons b l ih =>
    have hpower : ∀ e, (s.linkPower a b).powerOf e = s.powerOf e := by
      intro e
      obtain ⟨as, cs, h⟩ := linkPower_eq s a b
      rw [h]
      rfl
    rw [List.foldl_cons, ih, hpower, hpower, linkPower_asleep s hd]
    by_cases hl : d ∈ l
    · simp only [hl, List.mem_cons_of_mem, if_true]
    · by_cases hb : b = d
      · simp [hl, hb]
      · simp [hl, hb, Ne.symm hb]

/-- R441: an island takes its power; its links sleep where both ends are idle. -/
theorem setPower_sets (s : State) (die : Nat) (q : IslandPower) : (s.setPower die q).powerOf die = q ∧ (s.setPower die q).mem = s.mem
    ∧ (s.setPower die q).parts = s.parts ∧ (∀ d, d ≠ die → (s.setPower die q).powerOf d = s.powerOf d)
    ∧ ∀ d, d < 16 → d ≠ die → ((s.setPower die q).linkAsleep die d = true ↔ q = .idle ∧ s.powerOf d = .idle) := by
  have hself : State.powerOf { s with io := { s.io with power := tset s.io.power die q } } die = q := (tgetD_tset ..).trans (if_pos rfl)
  have hother : ∀ d, d ≠ die → State.powerOf { s with io := { s.io with power := tset s.io.power die q } } d = s.powerOf d := fun d hd => (tgetD_tset ..).trans (if_neg hd)
  obtain ⟨as, cs, h⟩ := foldl_linkPower_eq die (List.range 16) { s with io := { s.io with power := tset s.io.power die q } }
  have hasleep := fun d (hd : d ≠ die) => foldl_linkPower_asleep hd (List.range 16) { s with io := { s.io with power := tset s.io.power die q } }
  unfold State.setPower
  refine ⟨?_, ?_, ?_, fun d hd => ?_, fun d hlt hd => ?_⟩
  · rw [h]
    exact hself
  · rw [h]
  · rw [h]
  · rw [h]
    exact hother d hd
  · rw [hasleep d hd, if_pos (List.mem_range.2 hlt), hself, hother d hd]

/-! ## The event matcher (R434) -/

theorem eventMatch_exec (s : State) : exec .eventMatch s = (let d := s.subj.a
    let b := s.modMatcher d Matcher.refill
    let m := (s.matcher d).refill
    match (m.waiting.find? (fun e => m.regs.any (fun r => r.1 == e.1))).bind (fun e => (m.regs.find? (fun r => r.1 == e.1)).map (fun r => (e, r.2))) with
    | none => .next b
    | some (e, rt) => .next (((b.modMatcher d (fun m => { m with waiting := m.waiting.erase e })).bump.startTok (eventToken d s.fresh rt e.2)).postEv .eventMatch { a := d })) := by
  have hm : (s.modMatcher s.subj.a Matcher.refill).matcher s.subj.a = (s.matcher s.subj.a).refill := (State.modMatcher_matcher ..).trans (if_pos rfl)
  show execEventMatch s = _
  unfold execEventMatch
  simp only [hm] <;> rfl

theorem eventMatch_idle (s : State) (h : ∀ e ∈ ((s.matcher s.subj.a).refill).waiting, ∀ r ∈ ((s.matcher s.subj.a).refill).regs, r.1 ≠ e.1) :
    exec .eventMatch s = .next (s.modMatcher s.subj.a Matcher.refill) := by
  have hfind : ((s.matcher s.subj.a).refill).waiting.find? (fun e => ((s.matcher s.subj.a).refill).regs.any (fun r => r.1 == e.1)) = none := by
    rw [List.find?_eq_none]
    intro e he hany
    obtain ⟨r, hr, heq⟩ := List.any_eq_true.1 hany
    exact h e he r hr (beq_iff_eq.1 heq)
  rw [eventMatch_exec]
  simp only [hfind, Option.bind_none]

theorem eventMatch_delivers (s : State) {e r : Nat × Word}
    (he : ((s.matcher s.subj.a).refill).waiting.find? (fun e => ((s.matcher s.subj.a).refill).regs.any (fun r => r.1 == e.1)) = some e)
    (hr : ((s.matcher s.subj.a).refill).regs.find? (fun r => r.1 == e.1) = some r) :
    ∃ s', exec .eventMatch s = .next s' ∧ s'.fabric = s.fabric ++ [eventToken s.subj.a s.fresh r.2 e.2]
      ∧ s'.matcher s.subj.a = { (s.matcher s.subj.a).refill with waiting := ((s.matcher s.subj.a).refill).waiting.erase e } ∧ s'.mem = s.mem
      ∧ Act.ev .tokenIngressArrival { a := s.fresh } ∈ s'.agenda ∧ Act.ev .eventMatch { a := s.subj.a } ∈ s'.agenda := by
  have hm : (s.modMatcher s.subj.a Matcher.refill).matcher s.subj.a = (s.matcher s.subj.a).refill := (State.modMatcher_matcher ..).trans (if_pos rfl)
  have hexec : exec .eventMatch s = .next ((((s.modMatcher s.subj.a Matcher.refill).modMatcher s.subj.a (fun m => { m with waiting := m.waiting.erase e })).bump.startTok
      (eventToken s.subj.a s.fresh r.2 e.2)).postEv .eventMatch { a := s.subj.a }) := by
    rw [eventMatch_exec]
    simp only [he, hr, Option.bind_some, Option.map_some]
  have hsent : ∀ (b : State) (k : Token) (d : Nat), let c := (b.bump.startTok k).postEv .eventMatch { a := d }
      c.matcher d = b.matcher d ∧ c.fabric = b.fabric ++ [k] ∧ c.mem = b.mem ∧ Act.ev .tokenIngressArrival { a := k.id } ∈ c.agenda ∧ Act.ev .eventMatch { a := d } ∈ c.agenda :=
    fun b k d => ⟨rfl, rfl, rfl, List.mem_append_left _ (List.mem_append_right _ (List.mem_singleton.2 rfl)), List.mem_append_right _ (List.mem_singleton.2 rfl)⟩
  obtain ⟨hmatcher, hfabric, hmem, harrives, hagain⟩ := hsent ((s.modMatcher s.subj.a Matcher.refill).modMatcher s.subj.a (fun m => { m with waiting := m.waiting.erase e }))
    (eventToken s.subj.a s.fresh r.2 e.2) s.subj.a
  refine ⟨_, hexec, hfabric, ?_, hmem, harrives, hagain⟩
  rw [hmatcher, State.modMatcher_matcher, if_pos rfl, hm]

/-! ## Timers (R434) -/

/-- An event that coalesces stands where the earlier one of its key stood. -/
theorem coalesce_replaces {m m' : Matcher} {key : Nat} {payload : Word} (h : m.coalesce key payload = some m') :
    m'.regs = m.regs ∧ m'.timers = m.timers ∧ (key, payload) ∈ m'.waiting ++ m'.sources := by
  have hin : ∀ l : List (Nat × Word), l.any (fun e => e.1 == key) = true → (key, payload) ∈ l.map (fun e => if e.1 = key then (key, payload) else e) := by
    intro l hl
    obtain ⟨e, he, hk⟩ := List.any_eq_true.1 hl
    exact List.mem_map.2 ⟨e, he, if_pos (beq_iff_eq.1 hk)⟩
  unfold Matcher.coalesce at h
  split at h
  · next hw =>
    cases h
    exact ⟨rfl, rfl, List.mem_append_left _ (hin _ hw)⟩
  · split at h
    · next hs =>
      cases h
      exact ⟨rfl, rfl, List.mem_append_right _ (hin _ hs)⟩
    · cases h

/-- R434: the matcher with a timer's count raised. -/
def Matcher.expired (m : Matcher) (t : Nat) : Matcher :=
  { m with timers := tset m.timers t ((tgetD m.timers t (0, 0)).1, (tgetD m.timers t (0, 0)).2 + 1) }

theorem syradTimer_expires (s : State) : ∃ s' m', exec .syradTimer s = .next s' ∧ s'.mem = s.mem ∧ s'.matcher s.subj.a = m'
    ∧ m'.regs = (s.matcher s.subj.a).regs ∧ m'.timers = ((s.matcher s.subj.a).expired s.subj.b).timers
    ∧ (0x4000 + s.subj.b, w32 ((tgetD (s.matcher s.subj.a).timers s.subj.b (0, 0)).2 + 1)) ∈ m'.waiting ++ m'.sources := by
  have hm : ∀ (b : State) (g : Matcher → Matcher), (b.modMatcher s.subj.a g).matcher s.subj.a = g (b.matcher s.subj.a) := fun b g => (State.modMatcher_matcher ..).trans (if_pos rfl)
  have hexec : exec .syradTimer s = (let b := s.modMatcher s.subj.a (fun m => m.expired s.subj.b)
      let key := 0x4000 + s.subj.b
      let c := (tgetD (s.matcher s.subj.a).timers s.subj.b (0, 0)).2 + 1
      match ((s.matcher s.subj.a).expired s.subj.b).coalesce key (w32 c) with
      | some m' => .next (b.modMatcher s.subj.a (fun _ => m'))
      | none => .next ((b.modMatcher s.subj.a (fun m => if decide (512 ≤ ((s.matcher s.subj.a).expired s.subj.b).regs.length + ((s.matcher s.subj.a).expired s.subj.b).waiting.length) then
          { m with sources := m.sources ++ [(key, w32 c)] } else { m with waiting := m.waiting ++ [(key, w32 c)] })).postEv .eventMatch { a := s.subj.a })) := by
    rw [← hm s (fun m => m.expired s.subj.b)]
    rfl
  rw [hexec]
  simp only
  split
  · next m' h =>
    obtain ⟨hregs, htimers, hin⟩ := coalesce_replaces h
    exact ⟨_, m', rfl, rfl, hm _ _, hregs, htimers, hin⟩
  · have hp : ∀ b : State, (b.postEv .eventMatch { a := s.subj.a }).matcher s.subj.a = b.matcher s.subj.a := fun _ => rfl
    refine ⟨_, _, rfl, rfl, (hp _).trans (hm _ _), ?_⟩
    rw [hm]
    split
    · exact ⟨rfl, rfl, List.mem_append_right _ (List.mem_append_right _ (List.mem_singleton.2 rfl))⟩
    · exact ⟨rfl, rfl, List.mem_append_left _ (List.mem_append_right _ (List.mem_singleton.2 rfl))⟩

/-! ## The control core's services (R436) -/

theorem notHeld_of_qPop {s b : State} {p n : Nat} {x : Site} {desc : Int} {ws : List Word} (h : s.qPop p x desc n = .done b ws) : s.pkgQueueHeld p x desc n = false := by
  by_contra hh
  rw [State.qPop, if_pos (Bool.not_eq_false _ ▸ hh)] at h
  cases h

theorem wakeService_eq (s : State) (p : Nat) (x : Site) (desc : Int) : ∃ g, s.wakeService p x desc = { s with agenda := s.agenda ++ g } := by
  unfold State.wakeService
  rw [foldl_postEv]
  exact ⟨_, rfl⟩

theorem queuePush_keeps (s : State) (p : Nat) (desc : Int) (ws : List Word) (x : Site) : (s.queuePush p desc ws none x).mem = s.mem ∧ (s.queuePush p desc ws none x).turn = s.turn := by
  unfold State.queuePush
  split <;> exact ⟨rfl, rfl⟩

/-- A write of a system agent only names what happens next. -/
theorem sysWrite_agenda (b : State) (g : List Act) (c : CwAt) (v : DWord) : State.sysWrite { b with agenda := g } c v = (b.sysWrite c v).map (fun k => { k with agenda := g }) := by
  unfold State.sysWrite
  rw [apply_ite (Option.map _)]
  rfl

theorem sysWrite_mem {b k : State} {c : CwAt} {v : DWord} (h : b.sysWrite c v = some k) : k.mem = b.mem := by
  unfold State.sysWrite at h
  split at h <;> cases h
  rfl

section Served
variable {s b : State} {p : Nat} {desc : Int} {w : Word} {ws : List Word} (hs : (s.matcher s.subj.a).service = some (p, desc))
  (hpop : s.qPop p (.syrad s.subj.a) desc 1 = .done b (w :: ws))
include hs hpop

/-- R436: a request is taken, its word is what the next step writes where it may be written, and an answer is pushed. -/
theorem controlCoreService_serves : ∃ s', exec .controlCoreService s = .next s' ∧ s'.mem = b.mem
    ∧ s'.turn = ((b.sysWrite (sysCw (Config.serviceOf w).1 (Config.serviceOf w).2.1) (Config.serviceOf w).2.2).map (fun k => k.turn)).getD b.turn := by
  obtain ⟨g, hg⟩ := wakeService_eq b p (.syrad b.subj.a) desc
  show ∃ s', execControlCoreService s = .next s' ∧ _
  unfold execControlCoreService
  simp only [hs, notHeld_of_qPop hpop, hpop, Bool.false_eq_true, if_false, hg, sysWrite_agenda]
  refine ⟨_, rfl, (queuePush_keeps ..).1.trans ?_, (queuePush_keeps ..).2.trans ?_⟩
  · cases hb : b.sysWrite (sysCw (Config.serviceOf w).1 (Config.serviceOf w).2.1) (Config.serviceOf w).2.2 with
    | none => rfl
    | some k =>
      have hmem := sysWrite_mem hb
      exact hmem
  · cases b.sysWrite (sysCw (Config.serviceOf w).1 (Config.serviceOf w).2.1) (Config.serviceOf w).2.2 <;> rfl

end Served

theorem sysWrite_writes {b : State} {c : CwAt} (v : DWord) (hw : b.cwWrites c = true) (hr : cwWriter c.n ≠ 1) (hp : (tget b.parts c.part).isSome = true) :
    b.sysWrite c v = some { b with turn := some (.ev (b.cwEvent c.n c.part c.i c.die (if c.wide then v.toNat else v.toNat % 2 ^ 32) 0).1 (b.cwEvent c.n c.part c.i c.die (if c.wide then v.toNat else v.toNat % 2 ^ 32) 0).2) } := by
  have hcond : (!b.cwWrites c || decide (cwWriter c.n = 1) || (tget b.parts c.part).isNone) = false := by
    rw [hw, decide_eq_false hr, Option.isNone_eq_false_iff.2 hp]
    rfl
  unfold State.sysWrite
  rw [if_neg (by rw [hcond]; exact Bool.false_ne_true)]

/-- Settles O60: boot, life cycle and power, then the Syrad engine's matcher, timers and services. -/
theorem bootLifeAndSyrad : Obligations.BootLifeAndSyrad := by
  unfold Obligations.BootLifeAndSyrad
  refine ⟨fun s => ⟨?_, fun f hf => ?_, fun hq hu => ?_, fun h => ?_⟩, fun s => ⟨eventMatch_idle s, fun e r he hr => ?_, ?_, fun hs => ?_, fun p desc b w ws hs hpop => ?_⟩⟩
  · simp only [← bootOk_iff]
    exact powerOnReset_boots s
  · intro s1 no order
    refine ⟨lifeCycleChange_last hf, fun nxt hnxt => ?_⟩
    have hasks := lifeCycleChange_asks hf ((lifeCycle_next _).trans hnxt)
    intro signed
    have hsigned : lifeOk nxt f.payload = signed := rfl
    refine ⟨fun hor => ?_, fun hcode hok => ⟨((s.dropFlit s.subj.a).ack f (fld f.word 0 8) 0 []).restart s.io.flash nxt
      (decide (nxt = .provisioned) || (s.io.identity && decide (nxt ≠ .decommissioned))), ?_, rfl, rfl, rfl, rfl, rfl, rfl⟩⟩
    · refine hasks.trans (congrArg _ (if_pos ?_))
      rw [hsigned]
      rcases hor with h | h
      · rw [decide_eq_true (show pktN f.payload 0 1 ≠ nxt.code from h)]
        rfl
      · rw [h]
        simp
    · refine hasks.trans (congrArg _ (if_neg ?_))
      rw [hsigned, hok, decide_eq_false (not_not.2 (show pktN f.payload 0 1 = nxt.code from hcode))]
      exact Bool.false_ne_true
  · exact if_pos ⟨hq, hu⟩
  · exact ⟨_, if_neg (fun hc => h.elim hc.1 (fun hu => by rw [hu] at hc; exact absurd hc.2 Bool.false_ne_true)), setPower_sets s s.subj.a s.subj.power⟩
  · obtain ⟨s', hexec, hfabric, hmatcher, hmem, harr, hagain⟩ := eventMatch_delivers s he hr
    exact ⟨s', hexec, hfabric, by rw [hmatcher], by rw [hmatcher]; rfl, hmem, harr, hagain, rfl, rfl, rfl⟩
  · obtain ⟨s', m', hexec, hmem, hm, hregs, htimers, hin⟩ := syradTimer_expires s
    refine ⟨s', hexec, hmem, ?_, by rw [hm, hregs], by rw [hm]; exact hin, fun i hi => ?_⟩
    · rw [hm, htimers]
      exact (tgetD_tset ..).trans (if_pos rfl)
    · rw [hm, htimers]
      exact (tgetD_tset ..).trans (if_neg hi)
  · show execControlCoreService s = _
    rw [execControlCoreService, hs]
  · obtain ⟨s', hexec, hmem, hturn⟩ := controlCoreService_serves hs hpop
    refine ⟨fun hn => ⟨s', hexec, hmem, ?_⟩, fun k hk => ⟨s', hexec, hmem, ?_⟩, fun hw hr hp => ⟨_, sysWrite_writes _ hw hr hp, rfl⟩⟩
    · rw [hturn, show b.sysWrite (sysCw (Config.serviceOf w).1 (Config.serviceOf w).2.1) (Config.serviceOf w).2.2 = none from hn]
      rfl
    · rw [hturn, show b.sysWrite (sysCw (Config.serviceOf w).1 (Config.serviceOf w).2.1) (Config.serviceOf w).2.2 = some k from hk]
      rfl

end Sys2Proof.Machine
end
section
/-! The management commands (R429 to R431, R438, R439, R441). -/

namespace Sys2Proof.Machine

/-! ## What a command that reads answers -/

section Read
variable {s : State} {f : Flit} (hf : s.flit? s.subj.a = some f)
include hf

theorem managementQueueRead_none (h : tget s.parts f.part = none) :
    exec .managementQueueRead s = .next ((s.dropFlit s.subj.a).ack f (fld f.word 0 8) 1 []) := by
  show execManagementQueueRead s = _
  rw [execManagementQueueRead, withFlit_eq hf, show tget (s.dropFlit s.subj.a).parts f.part = none from h]
  rfl

theorem managementQueueRead_some {v : Part} (h : tget s.parts f.part = some v) : exec .managementQueueRead s
    = .next ((s.dropFlit s.subj.a).ack f (fld f.word 0 8) 0 (leBytes 4 ((if (tgetD v.queues (f.arg.toNat % 8) HostQ.reset).live then 256 else 0)
        + (tgetD v.queues (f.arg.toNat % 8) HostQ.reset).prio) ++ leBytes 4 ((s.dropFlit s.subj.a).cwPart v f.part 0x801 (f.arg.toNat % 8)))) := by
  show execManagementQueueRead s = _
  rw [execManagementQueueRead, withFlit_eq hf, show tget (s.dropFlit s.subj.a).parts f.part = some v from h]
  rfl

theorem identity_eq : exec .identity s = .next (if s.io.identity then (s.dropFlit s.subj.a).ack f (fld f.word 0 8) 0 Config.identity
    else (s.dropFlit s.subj.a).ack f (fld f.word 0 8) 1 []) := by
  show execIdentity s = _
  rw [execIdentity, withFlit_eq hf]
  rfl

/-- R439: the signature goes out in as many acknowledgements as it takes. -/
theorem attest_eq : exec .attest s = .next (if !s.io.identity then (s.dropFlit s.subj.a).ack f (fld f.word 0 8) 1 []
    else
      let sig := Config.signature (Config.digest (s.attestRecord f.payload))
      (List.range ((sig.length + 239) / 240)).foldl (fun s i => s.ack f (fld f.word 0 8) 0 ((sig.drop (240 * i)).take 240)) (s.dropFlit s.subj.a)) := by
  show execAttest s = _
  rw [execAttest, withFlit_eq hf]
  rfl

theorem imageLoad_eq : exec .imageLoad s = .next (if Config.signatureOk (Config.digest (Config.firmwareOf f.payload)) then
    ((s.dropFlit s.subj.a).ack f (fld f.word 0 8) 0 []).restart (Config.firmwareOf f.payload) s.io.life s.io.identity
    else (s.dropFlit s.subj.a).ack f (fld f.word 0 8) 1 []) := by
  show execImageLoad s = _
  rw [execImageLoad, withFlit_eq hf]
  rfl

end Read

theorem hostOk_iff (s : State) (f : Flit) : s.hostOk f = true ↔ s.io.life = .production ∧ Config.isHost f.src = true := by
  simp only [State.hostOk, Bool.and_eq_true, decide_eq_true_eq]

/-! ## A control word is written (R431) -/

/-- R431: the control word that a command's payload names. -/
def Flit.cw (f : Flit) : CwAt := sysCw (leNat (f.payload.take 1) % 16) (w32 (leNat ((f.payload.drop 4).take 4)))

section Written
variable {s : State} {f : Flit} (hf : s.flit? s.subj.a = some f)
include hf

theorem managementWrite_eq : exec .managementWrite s = .next (match (if s.hostOk f then
      (s.dropFlit s.subj.a).sysWrite f.cw (BitVec.ofNat 64 (leNat ((f.payload.drop 8).take 8))) else none) with
    | none => (s.dropFlit s.subj.a).ack f (fld f.word 0 8) 1 []
    | some b => b.ack f (fld f.word 0 8) 0 []) := by
  show execManagementWrite s = _
  rw [execManagementWrite, withFlit_eq hf]
  rfl

theorem managementWrite_refused (h : ¬(s.io.life = .production ∧ Config.isHost f.src = true) ∨ s.cwWrites f.cw = false ∨ cwWriter f.cw.n = 1
    ∨ tget s.parts f.cw.part = none) : exec .managementWrite s = .next ((s.dropFlit s.subj.a).ack f (fld f.word 0 8) 1 []) := by
  have hnone : (if s.hostOk f then (s.dropFlit s.subj.a).sysWrite f.cw (BitVec.ofNat 64 (leNat ((f.payload.drop 8).take 8))) else none) = none := by
    rcases h with h | h
    · rw [if_neg (fun hk => h ((hostOk_iff s f).1 hk))]
    · have hw : (s.dropFlit s.subj.a).sysWrite f.cw (BitVec.ofNat 64 (leNat ((f.payload.drop 8).take 8))) = none := by
        refine if_pos ?_
        rcases h with h | h | h
        · rw [show (s.dropFlit s.subj.a).cwWrites f.cw = false from h]
          rfl
        · rw [decide_eq_true h, Bool.or_true, Bool.true_or]
        · rw [show tget (s.dropFlit s.subj.a).parts f.cw.part = none from h, Option.isNone_none, Bool.or_true]
      rw [hw, ite_self]
  rw [managementWrite_eq hf, hnone]

theorem managementWrite_writes (hh : s.io.life = .production ∧ Config.isHost f.src = true) (hw : (s.dropFlit s.subj.a).cwWrites f.cw = true)
    (hr : cwWriter f.cw.n ≠ 1) (hp : (tget s.parts f.cw.part).isSome = true) :
    let s1 := s.dropFlit s.subj.a
    let x := leNat ((f.payload.drop 8).take 8)
    let e := s1.cwEvent f.cw.n f.cw.part f.cw.i f.cw.die (if f.cw.wide then x % 2 ^ 64 else x % 2 ^ 32) 0
    exec .managementWrite s = .next (State.ack { s1 with turn := some (.ev e.1 e.2) } f (fld f.word 0 8) 0 []) := by
  intro s1 x e
  have hx : (if f.cw.wide then (BitVec.ofNat 64 x).toNat else (BitVec.ofNat 64 x).toNat % 2 ^ 32) = if f.cw.wide then x % 2 ^ 64 else x % 2 ^ 32 := by
    rw [BitVec.toNat_ofNat, Nat.mod_mod_of_dvd x (by decide)]
  have hwrite := sysWrite_writes (b := s1) (BitVec.ofNat 64 x) hw hr hp
  rw [hx] at hwrite
  rw [managementWrite_eq hf, if_pos ((hostOk_iff s f).2 hh), hwrite]

end Written

/-! ## A partition is destroyed (R431) -/

/-- What is read of a memory of which some addresses are dropped. -/
theorem rdB_filter (P : Nat → Bool) {m : List Host.Cell} {lo : Option Nat} (h : Memory.wfFrom lo m = true) (a : Nat) :
    rdB (m.filter (fun e => P e.1)) a = if P a then rdB m a else 0 := by
  induction m generalizing lo with
  | nil => exact (ite_self _).symm
  | cons e m ih =>
    obtain ⟨k, b⟩ := e
    obtain ⟨-, hm⟩ := Bool.and_eq_true_iff.1 h
    have hlow : ∀ x, x ≤ k → rdB (m.filter (fun e => P e.1)) x = 0 := fun x hx =>
      rdB_below _ k x (filter_wfFrom (fun e => P e.1) m (some k) hm) hx
    rw [List.filter_cons]
    by_cases hk : k = a
    · subst hk
      split
      · simp [rdB]
      · exact hlow k le_rfl
    · by_cases hlt : a < k
      · have hzero : rdB ((k, b) :: m) a = 0 := by simp only [rdB, if_neg hk, if_pos hlt]; rfl
        rw [hzero, ite_self]
        split
        · simp only [rdB, if_neg hk, if_pos hlt]
          rfl
        · exact hlow a (Nat.le_of_lt hlt)
      · have hrest : rdB ((k, b) :: m) a = rdB m a := by simp only [rdB, if_neg hk, if_neg hlt]
        rw [hrest, ← ih hm]
        split
        · simp only [rdB, if_neg hk, if_neg hlt]
        · rfl

section Destroyed
variable {s : State} {f : Flit} (hf : s.flit? s.subj.a = some f)
include hf

theorem partitionDestroy_eq : exec .partitionDestroy s = .next (if !s.hostOk f || (tget s.parts (leNat (f.payload.take 1) % 16)).isNone then
      (s.dropFlit s.subj.a).ack f (fld f.word 0 8) 1 []
    else ((s.dropFlit s.subj.a).destroy (leNat (f.payload.take 1) % 16)).ack f (fld f.word 0 8) 0 []) := by
  show execPartitionDestroy s = _
  rw [execPartitionDestroy, withFlit_eq hf]
  rfl

omit hf in
/-- R431: the state of a destroyed partition. -/
theorem destroy_eq {p : Nat} {v : Part} (h : tget s.parts p = some v) : s.destroy p
    = let b := ((((({ s with agenda := s.agenda.filter (fun a => !s.actOf p a) } : State).endWork p).zeroSites (sitesOf v.tiles v.elems) none).zeroSlices
        ((List.range 64).filter (s.ownSlice p))).wipeMem v).setDoms v.doms (fun _ _ => L2Dom.reset)
      { b with parts := tdel b.parts p } := by
  simp only [State.destroy, h]

omit hf in
theorem destroy_ends {p : Nat} {v : Part} (h : tget s.parts p = some v) (hwf : Memory.wf s.mem = true) :
    tget (s.destroy p).parts p = none ∧ (∀ q, q ≠ p → tget (s.destroy p).parts q = tget s.parts q)
    ∧ (∀ a ∈ (s.destroy p).agenda, a ∈ s.agenda ∧ s.actOf p a = false)
    ∧ (∀ a, v.owns a = true → rdB (s.destroy p).mem a = 0) ∧ (∀ a, v.owns a = false → rdB (s.destroy p).mem a = rdB s.mem a)
    ∧ (∀ u t, tget (s.destroy p).threads u = some t → t.part ≠ p) ∧ (∀ k ∈ (s.destroy p).fabric, k.part ≠ p)
    ∧ ∀ l x, tget (s.destroy p).launches l = some x → x.part ≠ p := by
  have hmem : (s.destroy p).mem = s.mem.filter (fun e => !v.owns e.1) := by rw [destroy_eq h]; rfl
  have hparts : (s.destroy p).parts = tdel s.parts p := by rw [destroy_eq h]; rfl
  have hagenda : (s.destroy p).agenda = s.agenda.filter (fun a => !s.actOf p a) := by rw [destroy_eq h]; rfl
  have hthreads : (s.destroy p).threads = s.threads.filter (fun e => e.2.part != p) := by rw [destroy_eq h]; rfl
  have hfabric : (s.destroy p).fabric = s.fabric.filter (fun k => k.part != p) := by rw [destroy_eq h]; rfl
  have hlaunches : (s.destroy p).launches = s.launches.filter (fun e => e.2.part != p) := by rw [destroy_eq h]; rfl
  have hrd := fun a => rdB_filter (fun k => !v.owns k) hwf a
  refine ⟨by rw [hparts]; exact tget_tdel_same .., fun q hq => by rw [hparts]; exact tget_tdel_ne _ hq, fun a ha => ?_, fun a ho => ?_, fun a ho => ?_, fun u t hu => ?_,
    fun k hk => ?_, fun l x hl => ?_⟩
  · rw [hagenda] at ha
    obtain ⟨hin, hact⟩ := List.mem_filter.1 ha
    exact ⟨hin, by simpa using hact⟩
  · rw [hmem, hrd, ho]
    rfl
  · rw [hmem, hrd, ho]
    rfl
  · rw [hthreads] at hu
    exact bne_iff_ne.1 (List.mem_filter.1 (mem_of_tget hu)).2
  · rw [hfabric] at hk
    exact bne_iff_ne.1 (List.mem_filter.1 hk).2
  · rw [hlaunches] at hl
    exact bne_iff_ne.1 (List.mem_filter.1 (mem_of_tget hl)).2

end Destroyed

/-! ## A partition is made (R430, R441) -/

/-- A woken die runs; no die that runs stops; only power and links change. -/
theorem foldl_setPower_running (l : List Nat) (s : State) :
    (∀ d, d ∈ l ∨ s.powerOf d = .running → (l.foldl (fun s d => s.setPower d .running) s).powerOf d = .running)
    ∧ ∃ c io, l.foldl (fun s d => s.setPower d .running) s = { s with coh := c, io := io } := by
  induction l generalizing s with
  | nil => exact ⟨fun d hd => hd.resolve_left (List.not_mem_nil), _, _, rfl⟩
  | cons e l ih =>
    obtain ⟨hrun, c, io, heq⟩ := ih (s.setPower e .running)
    obtain ⟨hself, -, -, hother, -⟩ := setPower_sets s e .running
    refine ⟨fun d hd => hrun d ?_, c, io, ?_⟩
    · by_cases hde : d = e
      · exact .inr (hde ▸ hself)
      · exact (hd.imp_left (fun h => (List.mem_cons.1 h).resolve_left hde)).imp_right (hother d hde).trans
    · obtain ⟨as, cs, hs⟩ := foldl_linkPower_eq e (List.range 16) { s with io := { s.io with power := tset s.io.power e .running } }
      rw [List.foldl_cons, heq, State.setPower, hs]

theorem wakeDies_running (s : State) (ds : List Nat) : (∀ d ∈ ds, (s.wakeDies ds).powerOf d = .running) ∧ ∃ c io, s.wakeDies ds = { s with coh := c, io := io } := by
  obtain ⟨hrun, heq⟩ := foldl_setPower_running (ds.filter (fun d => s.powerOf d ≠ .running)) s
  refine ⟨fun d hd => hrun d ?_, heq⟩
  by_cases h : s.powerOf d = .running
  · exact .inr h
  · exact .inl (List.mem_filter.2 ⟨hd, decide_eq_true h⟩)

theorem mem_recDies {bs : List Byte} {d : Nat} (hd : d < 16) (h : (∃ n ∈ recTiles bs, n / 64 = d) ∨ ∃ e ∈ recElems bs, 8 + e / 96 = d) : d ∈ recDies bs := by
  refine List.mem_filter.2 ⟨List.mem_range.2 hd, ?_⟩
  simp only [Bool.or_eq_true, List.any_eq_true, beq_iff_eq]
  exact .inl h

theorem mem_recTiles {bs : List Byte} {n : Nat} (h : n ∈ recTiles bs) : n < 512 := List.mem_range.1 (List.mem_filter.1 h).1
theorem mem_recElems {bs : List Byte} {e : Nat} (h : e ∈ recElems bs) : e < 384 := List.mem_range.1 (List.mem_filter.1 h).1

theorem zeroSites_site (s : State) (xs : List Site) (p : Option Nat) {x : Site} (hx : x ∈ xs) : (s.zeroSites xs p).site x = { SiteSt.reset with part := p } := by
  show tgetD (xs.foldl (fun t x => tset t x { SiteSt.reset with part := p }) s.sites) x SiteSt.reset = _
  rw [tgetD, tget_foldl_tset (fun _ => { SiteSt.reset with part := p }) x xs s.sites, if_pos hx]
  rfl

/-- The handler's image goes to the elements alone. -/
theorem foldl_pitchElem (bs : List Byte) (l : List Nat) (s : State) : (∀ n, (l.foldl (fun s e => s.pitchElem e bs) s).site (.tile n) = s.site (.tile n))
    ∧ ∃ cs xs, l.foldl (fun s e => s.pitchElem e bs) s = { s with cells := cs, sites := xs } := by
  induction l generalizing s with
  | nil => exact ⟨fun _ => rfl, _, _, rfl⟩
  | cons e l ih =>
    obtain ⟨hsite, cs, xs, h⟩ := ih (s.pitchElem e bs)
    refine ⟨fun n => ?_, cs, xs, ?_⟩
    · rw [List.foldl_cons, hsite, State.pitchElem, State.modSite_site, if_neg (fun h => nomatch h), State.site_congr (State.setCell_sites ..)]
    · rw [List.foldl_cons, h]
      rfl

/-- R430: what a record asks for is zero and the partition's, before the handler is pitched. -/
def State.made (s : State) (bs : List Byte) (arg : Nat) (img : List Byte) : State :=
  let p := pktN bs 0 4
  let low := ((List.range 16).find? (fun k => (recDoms bs).getLsbD k)).getD 0
  (((s.zeroSites (sitesOf (recTiles bs) (recElems bs)) (some p)).zeroSlices ((List.range 64).filter (fun n => (recSlices bs (n / 16)).getLsbD (n % 16)))).setDoms
    (recDoms bs) (fun die k => if k = low then recDom bs die else L2Dom.reset)).setPart p { recPart bs arg with handler := img }

theorem create_eq (s : State) (bs : List Byte) (arg : Nat) (img : List Byte) : s.create bs arg img
    = if img.isEmpty then (s.wakeDies (recDies bs)).made bs arg img
      else (recElems bs).foldl (fun s e => s.pitchElem e img) ((s.wakeDies (recDies bs)).made bs arg img) := rfl

theorem pktN_zero (bs : List Byte) (n : Nat) : pktN bs 0 n = leNat (bs.take n) := by rw [pktN, List.drop_zero]

theorem made_keeps (s : State) (bs : List Byte) (arg : Nat) (img : List Byte) : (s.made bs arg img).mem = s.mem
    ∧ (s.made bs arg img).parts = tset s.parts (pktN bs 0 4) { recPart bs arg with handler := img }
    ∧ (∀ d, (s.made bs arg img).powerOf d = s.powerOf d)
    ∧ ∀ n ∈ recTiles bs, (s.made bs arg img).site (.tile n) = { SiteSt.reset with part := some (pktN bs 0 4) } := by
  have hsites : (s.made bs arg img).sites = (s.zeroSites (sitesOf (recTiles bs) (recElems bs)) (some (pktN bs 0 4))).sites := by
    simp only [State.made, State.setPart, State.setDoms, State.zeroSlices]
  refine ⟨?_, ?_, fun d => ?_, fun n hn => (State.site_congr hsites (.tile n)).trans (zeroSites_site s _ _ (List.mem_append_left _ (List.mem_map_of_mem hn)))⟩
  all_goals simp only [State.made, State.setPart, State.setDoms, State.zeroSlices, State.zeroSites, State.powerOf]

/-- R430 steps 3 and 4: the words of a new partition. -/
theorem recPart_words (bs : List Byte) (arg : Nat) (img : List Byte) : let v := { recPart bs arg with handler := img }
    v.tiles = recTiles bs ∧ v.elems = recElems bs ∧ v.handler = img ∧ v.expBase.toNat = rec8 bs 0xB8 % 2 ^ 64 ∧ v.tqBase = v.expBase
    ∧ v.tqHead = 0 ∧ v.tqTail = 0 ∧ v.halted = false ∧ v.frmK = nfld arg 0 5 ∧ v.regions.map (fun e => e.1) = [0] :=
  ⟨by simp only [recPart], by simp only [recPart], rfl, BitVec.toNat_ofNat .., rfl, rfl, rfl, rfl, rfl, rfl⟩

/-- R430: the partition of a record. -/
theorem create_makes (s : State) (bs : List Byte) (arg : Nat) (img : List Byte) : let b := s.create bs arg img
    tget b.parts (pktN bs 0 4) = some { recPart bs arg with handler := img } ∧ b.mem = s.mem
    ∧ (∀ n ∈ recTiles bs, b.site (.tile n) = { SiteSt.reset with part := some (pktN bs 0 4) })
    ∧ (∀ n ∈ recTiles bs, b.powerOf (n / 64) = .running) ∧ (∀ e ∈ recElems bs, b.powerOf (8 + e / 96) = .running)
    ∧ ∀ q, q ≠ pktN bs 0 4 → tget b.parts q = tget s.parts q := by
  obtain ⟨hrun, c, io, hwake⟩ := wakeDies_running s (recDies bs)
  obtain ⟨hmem, hparts, hpower, hsite⟩ := made_keeps (s.wakeDies (recDies bs)) bs arg img
  have hwmem : (s.wakeDies (recDies bs)).mem = s.mem := by rw [hwake]
  have hwparts : (s.wakeDies (recDies bs)).parts = s.parts := by rw [hwake]
  rw [create_eq]
  generalize (s.wakeDies (recDies bs)).made bs arg img = r at hmem hparts hpower hsite ⊢
  have hkeep : ∀ b : State, b = (if img.isEmpty then r else (recElems bs).foldl (fun s e => s.pitchElem e img) r) →
      b.mem = r.mem ∧ b.parts = r.parts ∧ (∀ d, b.powerOf d = r.powerOf d) ∧ ∀ n, b.site (.tile n) = r.site (.tile n) := by
    intro b hb
    obtain ⟨hs, cs, xs, hf⟩ := foldl_pitchElem img (recElems bs) r
    rw [hb]
    split
    · exact ⟨rfl, rfl, fun _ => rfl, fun _ => rfl⟩
    · rw [hf] at hs ⊢
      exact ⟨rfl, rfl, fun _ => rfl, hs⟩
  generalize hb : (if img.isEmpty then r else (recElems bs).foldl (fun s e => s.pitchElem e img) r) = b
  obtain ⟨hbmem, hbparts, hbpower, hbsite⟩ := hkeep b hb.symm
  rw [hwparts] at hparts
  refine ⟨by rw [hbparts, hparts]; exact tget_tset_same .., hbmem.trans (hmem.trans hwmem), fun n hn => (hbsite n).trans (hsite n hn), fun n hn => ?_, fun e he => ?_,
    fun q hq => by rw [hbparts, hparts]; exact tget_tset_ne _ _ hq⟩
  · rw [hbpower, hpower]
    exact hrun _ (mem_recDies (by have := mem_recTiles hn; omega) (.inl ⟨n, hn, rfl⟩))
  · rw [hbpower, hpower]
    exact hrun _ (mem_recDies (by have := mem_recElems he; omega) (.inr ⟨e, he, rfl⟩))

section Created
variable {s : State} {f : Flit} (hf : s.flit? s.subj.a = some f)
include hf

theorem partitionCreate_eq : exec .partitionCreate s = .next (if !s.hostOk f || !creationOk f.payload || !s.recFree f.payload then
      (s.dropFlit s.subj.a).ack f (fld f.word 0 8) 1 []
    else match s.handlerOf f.payload with
      | .error r => (s.dropFlit s.subj.a).ack f (fld f.word 0 8) 1 (leBytes 4 r)
      | .ok img => ((s.dropFlit s.subj.a).create f.payload f.arg.toNat img).ack f (fld f.word 0 8) 0 []) := by
  show execPartitionCreate s = _
  rw [execPartitionCreate, withFlit_eq hf]
  rfl

theorem partitionCreate_refused (h : ¬(s.io.life = .production ∧ Config.isHost f.src = true) ∨ creationOk f.payload = false ∨ s.recFree f.payload = false) :
    exec .partitionCreate s = .next ((s.dropFlit s.subj.a).ack f (fld f.word 0 8) 1 []) := by
  rw [partitionCreate_eq hf, if_pos]
  rcases h with h | h | h
  · rw [Bool.eq_false_iff.2 (fun hk => h ((hostOk_iff s f).1 hk))]
    rfl
  · rw [h]
    simp
  · rw [h]
    simp

theorem partitionCreate_accepts (hh : s.io.life = .production ∧ Config.isHost f.src = true) (hok : creationOk f.payload = true) (hfree : s.recFree f.payload = true) :
    exec .partitionCreate s = .next (match s.handlerOf f.payload with
      | .error r => (s.dropFlit s.subj.a).ack f (fld f.word 0 8) 1 (leBytes 4 r)
      | .ok img => ((s.dropFlit s.subj.a).create f.payload f.arg.toNat img).ack f (fld f.word 0 8) 0 []) := by
  rw [partitionCreate_eq hf, if_neg]
  rw [(hostOk_iff s f).2 hh, hok, hfree]
  exact Bool.false_ne_true

end Created

/-- R310, R430: a root that is not page-aligned refuses the record. -/
theorem creationOk_root {bs : List Byte} (h : rec8 bs 0xD0 % 4096 ≠ 0) : creationOk bs = false := by
  have hroot : decide (rec8 bs 0xD0 % 4096 = 0 ∧ rec8 bs 0xD0 < 2 ^ 51) = false := decide_eq_false (fun hk => h hk.1)
  simp only [creationOk, hroot, Bool.and_false, Bool.false_and]

/-- Settles O59, command by command. -/
theorem managementCommands : Obligations.ManagementCommands := by
  unfold Obligations.ManagementCommands
  intro s f hf s1 cmd host bs no
  refine ⟨managementQueueRead_none hf, fun v hv => managementQueueRead_some hf hv, fun hid => ?_, fun hid => ⟨?_, ?_⟩, fun hid => ?_, ⟨fun hsig => ?_, fun hsig => ?_⟩,
    partitionCreate_refused hf, fun hroot => partitionCreate_refused hf (.inr (.inl (creationOk_root hroot))), fun hh hok hfree => ⟨fun r hr => ?_, fun img himg => ?_⟩,
    ⟨managementWrite_refused hf, managementWrite_writes hf⟩, fun h => ?_, fun v hh hv hwf => ?_⟩
  · rw [identity_eq hf, if_pos hid]
  · rw [identity_eq hf, if_neg (by rw [hid]; exact Bool.false_ne_true)]
  · rw [attest_eq hf, if_pos (by rw [hid]; rfl)]
  · rw [attest_eq hf, if_neg (by rw [hid]; exact Bool.false_ne_true)]
    rfl
  · rw [imageLoad_eq hf, if_neg (by rw [hsig]; exact Bool.false_ne_true)]
  · refine ⟨_, (imageLoad_eq hf).trans (congrArg _ (if_pos hsig)), rfl, rfl, rfl, rfl, rfl, rfl, rfl⟩
  · rw [partitionCreate_accepts hf hh hok hfree, hr]
  · obtain ⟨hpart, hmem, hsites, htiles, helems, hothers⟩ := create_makes s1 bs f.arg.toNat img
    rw [pktN_zero] at hpart hsites hothers
    obtain ⟨htl, hel, hha, hexp, htq, hhd, htt, hhalt, hfrm, hreg⟩ := recPart_words bs f.arg.toNat img
    refine ⟨s1.create bs f.arg.toNat img, { recPart bs f.arg.toNat with handler := img }, (partitionCreate_accepts hf hh hok hfree).trans (by rw [himg]), hpart, hmem,
      htl, hel, hha, hexp, htq, hhd, htt, hhalt, hfrm, hreg, ?_, ?_, ?_, hothers⟩
    · rw [htl]
      exact hsites
    · rw [htl]
      exact htiles
    · rw [hel]
      exact helems
  · rw [partitionDestroy_eq hf, if_pos]
    rcases h with h | h
    · rw [Bool.eq_false_iff.2 (fun hk => h ((hostOk_iff s f).1 hk))]
      rfl
    · rw [h, Option.isNone_none, Bool.or_true]
  · have hcond : ¬(!s.hostOk f || (tget s.parts (leNat (f.payload.take 1) % 16)).isNone) = true := by
      rw [(hostOk_iff s f).2 hh, hv]
      exact Bool.false_ne_true
    exact ⟨_, (partitionDestroy_eq hf).trans (congrArg _ (if_neg hcond)), destroy_ends (s := s1) hv hwf⟩

end Sys2Proof.Machine
end
section
/-! Flits between modules (R426, R428, R432, R438): forwarding, serving another module's accesses, answers, time and stop. -/

namespace Sys2Proof.Machine

/-! ## A flit and its payload (R427) -/

theorem fit_fit (f : Flit) : f.fit.fit = f.fit := by
  have hlen : ((f.payload ++ List.replicate 240 0).take 240).length = 240 := by
    rw [List.length_take, List.length_append, List.length_replicate]
    omega
  unfold Flit.fit
  simp only [List.take_append_of_le_length (Nat.le_of_eq hlen.symm), List.take_take, Nat.min_self]

theorem fit_of_flit {s : State} {n : Nat} {f : Flit} (h : s.flit? n = some f) : f.fit = f := by
  obtain ⟨g, -, rfl⟩ := Option.map_eq_some_iff.1 h
  exact fit_fit g

/-! ## Forwarding (R426, R438) -/

theorem flitWaits_iff (s : State) (n : Nat) (f : Flit) : s.flitWaits n f = true ↔ ∃ e ∈ s.io.flits.takeWhile (fun e => decide (e.1 ≠ n)),
    e.2.src = f.src ∧ e.2.dst = f.dst ∧ Act.ev .flitForwarding { a := e.1 } ∈ s.agenda := by
  simp only [State.flitWaits, List.any_eq_true, Bool.and_eq_true, beq_iff_eq, List.contains_iff_mem, and_assoc]

/-- The matcher takes a notice; nothing else of the module changes. -/
theorem notifyFlit_eq (s : State) (n : Nat) (f : Flit) : ∃ ms g, s.notifyFlit n f = { s with io := { s.io with matchers := ms }, agenda := g } := by
  have hnotify : ∀ (b : State) (key : Nat) (w : Word), ∃ ms g, b.notify key w = { b with io := { b.io with matchers := ms }, agenda := g } := fun _ _ _ => ⟨_, _, rfl⟩
  unfold State.notifyFlit
  split
  · obtain ⟨ms, g, h⟩ := hnotify s (0x3000 + fld f.word 0 8) (w32 n)
    simp only [h]
    split
    · exact ⟨_, _, rfl⟩
    · exact ⟨_, _, rfl⟩
  · exact ⟨_, _, rfl⟩

section Forwarded
variable {s : State} {f : Flit} (hf : s.flit? s.subj.a = some f)
include hf

theorem flitForwarding_waits (h : s.flitWaits s.subj.a f = true) : exec .flitForwarding s = .next (s.postEv .flitForwarding { a := s.subj.a }) := by
  show execFlitForwarding s = _
  simp only [execFlitForwarding, hf, h, if_true]

/-- R426: what becomes of a flit whose turn it is. -/
theorem flitForwarding_goes (h : s.flitWaits s.subj.a f = false) : exec .flitForwarding s
    = if 9 ≤ f.kind || !(f.dst == s.io.node || (tget s.io.ports f.dst).isSome) then .next (s.discardFlit s.subj.a f)
      else if s.io.recovery && !(f.dst == s.io.node && f.inRecovery) then .next (s.discardFlit s.subj.a f)
      else if !s.io.booted && !s.io.recovery then .next (s.dropFlit s.subj.a)
      else if f.dst ≠ s.io.node then .next ((s.dropFlit s.subj.a).sendFlit f)
      else match f.event with
        | none => .next ((s.notifyFlit s.subj.a f).dropFlit s.subj.a)
        | some i => .next { s.notifyFlit s.subj.a f with turn := some (.ev i { a := s.subj.a }) } := by
  show execFlitForwarding s = _
  simp only [execFlitForwarding, hf, h, Bool.false_eq_true, if_false] <;> rfl

variable (hgo : s.flitWaits s.subj.a f = false)
include hgo

theorem flitForwarding_unknown (h : 9 ≤ f.kind ∨ (f.dst ≠ s.io.node ∧ tget s.io.ports f.dst = none)) : exec .flitForwarding s = .next (s.discardFlit s.subj.a f) := by
  rw [flitForwarding_goes hf hgo, if_pos]
  rcases h with h | ⟨hd, hp⟩
  · rw [decide_eq_true h, Bool.true_or]
  · rw [beq_eq_false_iff_ne.2 hd, hp]
    simp

variable (hk : f.kind < 9)
include hk

/-- R426: a flit of a named kind for a node that is known. -/
theorem flitForwarding_known (hd : f.dst = s.io.node ∨ (tget s.io.ports f.dst).isSome = true) : exec .flitForwarding s
    = if s.io.recovery && !(f.dst == s.io.node && f.inRecovery) then .next (s.discardFlit s.subj.a f)
      else if !s.io.booted && !s.io.recovery then .next (s.dropFlit s.subj.a)
      else if f.dst ≠ s.io.node then .next ((s.dropFlit s.subj.a).sendFlit f)
      else match f.event with
        | none => .next ((s.notifyFlit s.subj.a f).dropFlit s.subj.a)
        | some i => .next { s.notifyFlit s.subj.a f with turn := some (.ev i { a := s.subj.a }) } := by
  rw [flitForwarding_goes hf hgo, if_neg]
  rw [decide_eq_false (Nat.not_le.2 hk)]
  rcases hd with hd | hd
  · rw [beq_iff_eq.2 hd]
    exact Bool.false_ne_true
  · rw [hd, Bool.or_true]
    exact Bool.false_ne_true

theorem flitForwarding_recovery (hd : f.dst ≠ s.io.node) (hr : s.io.recovery = true) : exec .flitForwarding s = .next (s.discardFlit s.subj.a f) := by
  cases hp : tget s.io.ports f.dst with
  | none => exact flitForwarding_unknown hf hgo (.inr ⟨hd, hp⟩)
  | some q =>
    rw [flitForwarding_known hf hgo hk (.inr (by rw [hp]; rfl)), if_pos]
    rw [hr, beq_eq_false_iff_ne.2 hd]
    rfl

theorem flitForwarding_passes (hd : f.dst ≠ s.io.node) (hr : s.io.recovery = false) (hb : s.io.booted = true) {q : Nat} (hp : tget s.io.ports f.dst = some q) :
    exec .flitForwarding s = .next ((s.dropFlit s.subj.a).sendFlit f) := by
  rw [flitForwarding_known hf hgo hk (.inr (by rw [hp]; rfl)), hr, hb, if_neg (by exact Bool.false_ne_true), if_neg (by exact Bool.false_ne_true), if_pos hd]

variable (hd : f.dst = s.io.node)
include hd

theorem flitForwarding_here : exec .flitForwarding s = if s.io.recovery && !f.inRecovery then .next (s.discardFlit s.subj.a f)
      else if !s.io.booted && !s.io.recovery then .next (s.dropFlit s.subj.a)
      else match f.event with
        | none => .next ((s.notifyFlit s.subj.a f).dropFlit s.subj.a)
        | some i => .next { s.notifyFlit s.subj.a f with turn := some (.ev i { a := s.subj.a }) } := by
  rw [flitForwarding_known hf hgo hk (.inl hd), if_neg (not_not.2 hd), beq_iff_eq.2 hd, Bool.true_and]

/-- R426: an event that the flit starts is the next step. -/
theorem flitForwarding_starts {i : Instr} (hr : s.io.recovery = false ∧ s.io.booted = true ∨ s.io.recovery = true ∧ f.inRecovery = true) (hi : f.event = some i) :
    exec .flitForwarding s = .next { s.notifyFlit s.subj.a f with turn := some (.ev i { a := s.subj.a }) } := by
  rw [flitForwarding_here hf hgo hk hd, hi]
  rcases hr with ⟨hr, hb⟩ | ⟨hr, hin⟩
  · rw [hr, hb]
    rfl
  · rw [hr, hin, Bool.not_true, Bool.and_false, Bool.and_false]
    rfl

end Forwarded

theorem inRecovery_iff (f : Flit) : f.inRecovery = true ↔ f.kind = 1 ∧ 2 ≤ fld f.word 0 8 ∧ fld f.word 0 8 ≤ 4 := by
  simp only [Flit.inRecovery, Bool.and_eq_true, beq_iff_eq, decide_eq_true_eq]

/-- The events of the kinds but for the management flit. -/
theorem event_of_kind {f : Flit} {i : Instr} (h : (f.kind, i) ∈ [(0, Instr.commandFlit), (2, .readFlit), (3, .readReplyFlit), (4, .writeFlit), (5, .atomicFlit),
      (6, .acknowledgementFlit), (7, .timeFlit), (8, .stopFlit)]) : f.event = some i ∧ f.kind ≠ 1 ∧ f.kind < 9 := by
  simp only [List.mem_cons, Prod.mk.injEq, List.not_mem_nil, or_false] at h
  unfold Flit.event
  rcases h with ⟨hk, rfl⟩ | ⟨hk, rfl⟩ | ⟨hk, rfl⟩ | ⟨hk, rfl⟩ | ⟨hk, rfl⟩ | ⟨hk, rfl⟩ | ⟨hk, rfl⟩ | ⟨hk, rfl⟩ <;> rw [hk] <;> exact ⟨rfl, by decide, by decide⟩

theorem event_of_command {f : Flit} {i : Instr} (hk : f.kind = 1) (h : (fld f.word 0 8, i) ∈ [(1, Instr.managementQueueRead), (2, .identity), (3, .attest), (4, .imageLoad),
      (5, .partitionCreate), (6, .managementWrite), (7, .partitionDestroy)]) : f.event = some i := by
  simp only [List.mem_cons, Prod.mk.injEq, List.not_mem_nil, or_false] at h
  unfold Flit.event
  rw [hk]
  rcases h with ⟨hc, rfl⟩ | ⟨hc, rfl⟩ | ⟨hc, rfl⟩ | ⟨hc, rfl⟩ | ⟨hc, rfl⟩ | ⟨hc, rfl⟩ | ⟨hc, rfl⟩ <;> rw [hc] <;> rfl

/-! ## What a write of another module leaves (R268, R296) -/

/-- A collapse that is new since a state is of the line and has a number below the next fresh one. -/
structure SentOf (s s' : State) (line : Nat) : Prop where
  fresh : s.fresh ≤ s'.fresh
  colls : ∀ c ∈ s'.coh.colls, c ∈ s.coh.colls ∨ (c.line = line ∧ c.id < s'.fresh)

theorem SentOf.refl (s : State) (line : Nat) : SentOf s s line := ⟨le_rfl, fun _ hc => .inl hc⟩

theorem SentOf.trans {s s' s'' : State} {line : Nat} (h : SentOf s s' line) (h' : SentOf s' s'' line) : SentOf s s'' line :=
  ⟨h.fresh.trans h'.fresh, fun c hc => (h'.colls c hc).elim (fun hc => (h.colls c hc).imp_right (fun hn => ⟨hn.1, hn.2.trans_le h'.fresh⟩)) .inr⟩

theorem sentOf_sendColl (s : State) (line h : Nat) : SentOf s (s.sendColl line h).1 line := by
  have hsent : ∃ c, c.line = line ∧ c.id = s.fresh ∧ (s.sendColl line h).1.coh.colls = s.coh.colls ++ [c] ∧ (s.sendColl line h).1.fresh = s.fresh + 1 := by
    unfold State.sendColl
    dsimp only
    split
    · exact ⟨_, rfl, rfl, rfl, rfl⟩
    · exact ⟨_, rfl, rfl, rfl, rfl⟩
  obtain ⟨c, hline, hid, hcolls, hfresh⟩ := hsent
  refine ⟨by rw [hfresh]; exact Nat.le_succ _, fun d hd => ?_⟩
  rw [hcolls, List.mem_append, List.mem_singleton] at hd
  rw [hfresh]
  rcases hd with hd | rfl
  · exact .inl hd
  · exact .inr ⟨hline, by rw [hid]; exact Nat.lt_succ_self _⟩

theorem sentOf_sendColls (line : Nat) (hs : List Nat) (r : State × List Nat) :
    SentOf r.1 (hs.foldl (fun r h => let q := r.1.sendColl line h; (q.1, r.2 ++ [q.2])) r).1 line := by
  induction hs generalizing r with
  | nil => exact .refl _ _
  | cons h hs ih =>
    rw [List.foldl_cons]
    exact (sentOf_sendColl r.1 line h).trans (ih (_, _))

theorem sentOf_collapseLine (s : State) (line : Nat) : SentOf s (s.collapseLine line).1 line := by
  unfold State.collapseLine
  split
  · exact .refl _ _
  · next x _ =>
    have h := sentOf_sendColls line x.holders ({ s with coh := { s.coh with lines := tset s.coh.lines line { x with holders := [] } } }, s.collsOf line)
    exact ⟨h.fresh, h.colls⟩

/-- A write of which every byte is taken. -/
theorem wrMasked_fullMask (m : List Host.Cell) (a : Nat) (bs : List Byte) : wrMasked m a bs (fullMask bs) = wrN m a bs := by
  induction bs generalizing m a with
  | nil => rfl
  | cons b bs ih => exact ih (wrB m a b) (a + 1)

/-- R428: a write at its home by another module. -/
structure HomeWritten (s s' : State) (pa : Nat) (bs : List Byte) (mask : List Bool) : Prop where
  mem : s'.mem = wrMasked s.mem pa bs mask
  io : s'.io = s.io
  parts : s'.parts = s.parts
  sent : SentOf s s' (lineOf pa)

theorem writeHome_writes {s : State} {pa : Nat} (hq : s.queuesIn s.mem (lineOf pa) = []) (bs : List Byte) (mask : List Bool) :
    HomeWritten s (s.writeHome none pa bs mask).1 pa bs mask := by
  have hw := written_written (s := s) (pa := pa) none bs mask
  have hcolls : (s.written none pa bs mask).coh.colls = s.coh.colls ∧ (s.written none pa bs mask).fresh = s.fresh ∧ (s.written none pa bs mask).io = s.io := ⟨rfl, rfl, rfl⟩
  rw [writeHome_eq]
  generalize s.written none pa bs mask = b at hw hcolls ⊢
  obtain ⟨hc, hfresh, hio⟩ := hcolls
  have honly := onlyCoh_collapseLine (b.soil (lineOf pa)) (lineOf pa)
  have hsent := sentOf_collapseLine (b.soil (lineOf pa)) (lineOf pa)
  rw [killChanged_none (by rw [honly.queuesIn]; exact (queuesIn_congr hw.queues hw.parts hw.tick ..).trans hq)]
  refine ⟨honly.mem.trans hw.mem, ?_, ?_, hfresh.symm.le.trans hsent.fresh, fun c hc' => (hsent.colls c hc').imp_left (fun h => hc ▸ h)⟩
  · obtain ⟨c, g, n, heq⟩ := honly
    rw [heq]
    exact hio
  · obtain ⟨c, g, n, heq⟩ := honly
    rw [heq]
    exact hw.parts

/-! ## Another module's accesses (R428) -/

/-- R428: the address of an offset in the export window. -/
theorem exported_at {s : State} {p off n pa : Nat} (h : s.exported p off n = some pa) : pa = (s.part p).expBase.toNat + off := by
  unfold State.exported at h
  split at h
  · cases h
  · next v hv =>
    simp only at h
    rw [part_of_tget hv]
    split at h
    · cases h
    · split at h <;> cases h
      rfl

section Served
variable {s : State} {f : Flit} (hf : s.flit? s.subj.a = some f)
include hf

theorem readFlit_refused (h : s.exported f.part f.arg.toNat 128 = none) : exec .readFlit s
    = .next ((s.dropFlit s.subj.a).answer f 3 (w32 (fld f.word 0 8 + 256)) (List.replicate 128 0)) := by
  show execReadFlit s = _
  simp only [execReadFlit, hf, h]

theorem readFlit_exported {pa : Nat} (h : s.exported f.part f.arg.toNat 128 = some pa) : exec .readFlit s
    = .next (if s.switching pa then s.postEv .readFlit s.subj
      else if s.badAt pa 128 then (s.dropFlit s.subj.a).answer f 3 (w32 (fld f.word 0 8 + 256)) (List.replicate 128 0)
      else (s.dropFlit s.subj.a).answer f 3 (w32 (fld f.word 0 8)) (rdN s.mem pa 128)) := by
  show execReadFlit s = _
  simp only [execReadFlit, hf, h]
  split
  · rfl
  · split <;> rfl

omit hf in
theorem remoteDone_eq (s : State) (i : Instr) (f : Flit) (bs : List Byte) : ((∃ c ∈ s.coh.colls, c.line = s.subj.b - 1 ∧ c.id < s.subj.c) →
      s.remoteDone i f bs = .next (s.postEv i s.subj))
    ∧ (¬(∃ c ∈ s.coh.colls, c.line = s.subj.b - 1 ∧ c.id < s.subj.c) → s.remoteDone i f bs = .next ((s.dropFlit s.subj.a).ack f (fld f.word 0 8) 0 bs)) := by
  have hany : s.coh.colls.any (fun c => c.line == s.subj.b - 1 && decide (c.id < s.subj.c)) = true ↔ ∃ c ∈ s.coh.colls, c.line = s.subj.b - 1 ∧ c.id < s.subj.c := by
    simp only [List.any_eq_true, Bool.and_eq_true, beq_iff_eq, decide_eq_true_eq]
  exact ⟨fun h => if_pos (hany.2 h), fun h => if_neg (fun hk => h (hany.1 hk))⟩

theorem writeFlit_done (hb : s.subj.b ≠ 0) : exec .writeFlit s = s.remoteDone .writeFlit f [] := by
  show execWriteFlit s = _
  simp only [execWriteFlit, hf, ne_eq, hb, not_false_eq_true, if_true]

theorem atomicFlit_done (hb : s.subj.b ≠ 0) : exec .atomicFlit s = s.remoteDone .atomicFlit f f.payload := by
  show execAtomicFlit s = _
  simp only [execAtomicFlit, hf, ne_eq, hb, not_false_eq_true, if_true]

/-- R268: a flit is kept with its answer until the collapses of its line that are out are acknowledged. -/
structure KeptFor (s s' : State) (i : Instr) (n : Nat) (f : Flit) (line : Nat) : Prop where
  mem : s'.mem = s.mem
  parts : s'.parts = s.parts
  coh : s'.coh = s.coh
  fresh : s'.fresh = s.fresh
  flit : s'.flit? n = some f.fit
  waits : Act.ev i { a := n, b := 1 + line, c := s'.fresh } ∈ s'.agenda

omit hf in
theorem remoteWait_keeps (s : State) (i : Instr) (n : Nat) (f : Flit) (line : Nat) : ∃ s', s.remoteWait i n f line = .next s' ∧ KeptFor s s' i n f line :=
  ⟨_, rfl, rfl, rfl, rfl, rfl, congrArg (Option.map Flit.fit) (tget_tset_same ..), List.mem_append_right _ (List.mem_singleton.2 rfl)⟩

section Writes
variable (hb : s.subj.b = 0)
include hb

theorem writeFlit_refused (h : s.exported f.part (f.arg.toNat / 128 * 128) 128 = none) : exec .writeFlit s = .next ((s.dropFlit s.subj.a).ack f (fld f.word 0 8) 1 []) := by
  show execWriteFlit s = _
  simp only [execWriteFlit, hf, hb, ne_eq, not_true, if_false, h]

theorem writeFlit_exported {pa : Nat} (h : s.exported f.part (f.arg.toNat / 128 * 128) 128 = some pa) : exec .writeFlit s
    = if s.switching pa then .next (s.postEv .writeFlit s.subj)
      else (s.writeHome none pa (f.payload.take 128) (flitMask f.payload)).1.remoteWait .writeFlit s.subj.a f (lineOf pa) := by
  show execWriteFlit s = _
  simp only [execWriteFlit, hf, hb, ne_eq, not_true, if_false, h]

theorem writeFlit_performs {pa : Nat} (h : s.exported f.part (f.arg.toNat / 128 * 128) 128 = some pa) (hs : s.switching pa = false)
    (hq : s.queuesIn s.mem (lineOf pa) = []) : ∃ s', exec .writeFlit s = .next s' ∧ s'.mem = wrMasked s.mem pa (f.payload.take 128) (flitMask f.payload)
      ∧ s'.flit? s.subj.a = some f ∧ s'.parts = s.parts ∧ Act.ev .writeFlit { a := s.subj.a, b := 1 + lineOf pa, c := s'.fresh } ∈ s'.agenda
      ∧ ∀ c ∈ s'.coh.colls, c ∈ s.coh.colls ∨ (c.line = lineOf pa ∧ c.id < s'.fresh) := by
  have hw := writeHome_writes hq (f.payload.take 128) (flitMask f.payload)
  obtain ⟨s', hexec, hk⟩ := remoteWait_keeps (s.writeHome none pa (f.payload.take 128) (flitMask f.payload)).1 .writeFlit s.subj.a f (lineOf pa)
  refine ⟨s', ?_, hk.mem.trans hw.mem, by rw [hk.flit, fit_of_flit hf], hk.parts.trans hw.parts, hk.waits, ?_⟩
  · rw [writeFlit_exported hf hb h, hs, ← hexec]
    exact if_neg Bool.false_ne_true
  · rw [hk.coh, hk.fresh]
    exact hw.sent.colls

theorem atomicFlit_unknown (h : atKindOf (fld f.word 8 8) (fld f.word 16 4) = none) : exec .atomicFlit s = .next ((s.dropFlit s.subj.a).ack f (fld f.word 0 8) 1 []) := by
  show execAtomicFlit s = _
  simp only [execAtomicFlit, hf, hb, ne_eq, not_true, if_false, h]

variable {k : AtKind} (hk : atKindOf (fld f.word 8 8) (fld f.word 16 4) = some k)
include hk

theorem atomicFlit_refused (h : s.exported f.part f.arg.toNat (if k = .tri then 8 else 4) = none) : exec .atomicFlit s = .next ((s.dropFlit s.subj.a).ack f (fld f.word 0 8) 1 []) := by
  show execAtomicFlit s = _
  simp only [execAtomicFlit, hf, hb, ne_eq, not_true, if_false, hk, h]

theorem atomicFlit_exported {pa z : Nat} (hz : z = if k = .tri then 8 else 4) (h : s.exported f.part f.arg.toNat z = some pa) : exec .atomicFlit s
    = if pa % z ≠ 0 ∨ s.badAt pa z then .next ((s.dropFlit s.subj.a).ack f (fld f.word 0 8) 1 [])
      else if s.switching pa then .next (s.postEv .atomicFlit s.subj)
      else
        let new := leBytes z (k.apply (leNat (rdN s.mem pa z)) (leNat (f.payload.take z)) (leNat ((f.payload.drop 8).take 4)))
        (s.writeHome none pa new (fullMask new)).1.remoteWait .atomicFlit s.subj.a { f with payload := rdN s.mem pa z } (lineOf pa) := by
  subst hz
  show execAtomicFlit s = _
  simp only [execAtomicFlit, hf, hb, ne_eq, not_true, if_false, hk, h]

theorem atomicFlit_performs {pa z : Nat} (hz : z = if k = .tri then 8 else 4) (h : s.exported f.part f.arg.toNat z = some pa) (hal : pa % z = 0) (hbad : s.badAt pa z = false)
    (hs : s.switching pa = false) (hq : s.queuesIn s.mem (lineOf pa) = []) : ∃ s', exec .atomicFlit s = .next s'
      ∧ s'.mem = wrN s.mem pa (leBytes z (k.apply (leNat (rdN s.mem pa z)) (leNat (f.payload.take z)) (leNat ((f.payload.drop 8).take 4))))
      ∧ s'.flit? s.subj.a = some { f with payload := (rdN s.mem pa z ++ List.replicate 240 0).take 240 }
      ∧ Act.ev .atomicFlit { a := s.subj.a, b := 1 + lineOf pa, c := s'.fresh } ∈ s'.agenda := by
  have hexec := atomicFlit_exported hf hb hk hz h
  rw [if_neg (by rw [hbad]; exact fun h => h.elim (fun h => h hal) Bool.false_ne_true), if_neg (by rw [hs]; exact Bool.false_ne_true)] at hexec
  generalize leBytes z (k.apply (leNat (rdN s.mem pa z)) (leNat (f.payload.take z)) (leNat ((f.payload.drop 8).take 4))) = new at hexec ⊢
  obtain ⟨s', hwait, hkept⟩ := remoteWait_keeps (s.writeHome none pa new (fullMask new)).1 .atomicFlit s.subj.a { f with payload := rdN s.mem pa z } (lineOf pa)
  refine ⟨s', hexec.trans hwait, ?_, hkept.flit, hkept.waits⟩
  rw [hkept.mem, (writeHome_writes hq new (fullMask new)).mem, wrMasked_fullMask]

end Writes

end Served

/-! ## Answers of another module (R428) -/

section Answered
variable {s : State} {f : Flit} (hf : s.flit? s.subj.a = some f)
include hf

theorem readReplyFlit_eq : exec .readReplyFlit s = .next ((s.dropFlit s.subj.a).remoteBack f.port (fld f.word 0 8) (bit f.word 8)
    (fun _ m => (f.payload.drop (m.pa % 128)).take m.size)) := by
  show execReadReplyFlit s = _
  rw [execReadReplyFlit, withFlit_eq hf]

theorem acknowledgementFlit_eq : exec .acknowledgementFlit s = .next ((s.dropFlit s.subj.a).remoteBack f.port (fld f.word 0 8) (fld f.word 8 3 != 0)
    (fun x m => match x.op with | .atomic _ => f.payload.take m.size | _ => [])) := by
  show execAcknowledgementFlit s = _
  rw [execAcknowledgementFlit, withFlit_eq hf] <;> rfl

omit hf in
theorem remoteBack_unknown {s : State} {g : Nat} (h : tget s.io.remote g = none) (port : Nat) (refused : Bool) (take : Access → LaneAcc → List Byte) :
    s.remoteBack port g refused take = s := by
  simp only [State.remoteBack, State.takeTag, h, Option.map_none]

omit hf in
/-- R325, R428: the state in which a lane's answer has been counted at its port. -/
def State.cameBack (s : State) (port g : Nat) (x : Access) (n : Nat) : State :=
  ({ s with io := { s.io with remote := tdel s.io.remote g } } : State).charge x.who.part x.who.region (12 + port / 4) itemReltin n

omit hf in
theorem remoteBack_eq {s : State} {g a l : Nat} {x : Access} {m : LaneAcc} (hg : tget s.io.remote g = some (a, l)) (hx : s.acc? a = some x) (hm : x.lane? l = some m)
    (hst : m.st = .remote) (port : Nat) (refused : Bool) (take : Access → LaneAcc → List Byte) : s.remoteBack port g refused take
      = (let b := s.cameBack port g x (answerBytes x m refused)
        if refused then b.failLane a l 3
        else if x.op.isLdmc then b.modLane a l (fun m => { m with st := .todo, got := take x m })
        else b.finishLane a l (take x m) false []) := by
  have hx' : State.acc? { s with io := { s.io with remote := tdel s.io.remote g } } a = some x := hx
  simp only [State.remoteBack, State.takeTag, hg, Option.map_some, hx', hm, hst, ne_eq, not_true, if_false]
  rfl

end Answered

/-! ## Time and stop (R363, R432) -/

section Timed
variable {s : State} {f : Flit} (hf : s.flit? s.subj.a = some f)
include hf

omit hf in
/-- R432: what is pending when the time is set: the period's end is that of the new time. -/
def retimedAct (due : Nat) (a : Act) : Act := match a with | .ev .periodBoundary x => .ev .periodBoundary { x with b := due } | a => a

omit hf in
/-- R432: the time of day that a sync message gives. -/
def State.synced (s : State) (f : Flit) : State :=
  let t := Config.disciplined f.payload s.tod
  { s with tod := t, io := { s.io with locked := true, grandmaster := some f.port }, agenda := s.agenda.map (retimedAct ((t / 50000 + 1) * 50000)) }

theorem timeFlit_eq : exec .timeFlit s = .next (if !Config.isSync f.word f.payload
      || !(match s.io.grandmaster with | none => true | some q => decide (f.port ≤ q)) then s.dropFlit s.subj.a else (s.dropFlit s.subj.a).synced f) := by
  show execTimeFlit s = _
  rw [execTimeFlit, withFlit_eq hf]
  rfl

omit hf in
theorem best_iff (s : State) (f : Flit) : (match s.io.grandmaster with | none => true | some q => decide (f.port ≤ q)) = true ↔ ∀ q, s.io.grandmaster = some q → f.port ≤ q := by
  cases s.io.grandmaster <;> simp

theorem stopFlit_eq : exec .stopFlit s = .next ((s.dropFlit s.subj.a).hostStop f.part) := by
  show execStopFlit s = _
  rw [execStopFlit, withFlit_eq hf]

end Timed

/-- Settles O58: the flits forwarded, the accesses of another module served, its answers, the time and the stop. -/
theorem flitsHandled : Obligations.FlitsHandled := by
  unfold Obligations.FlitsHandled
  refine ⟨fun s f hf => ?_, fun s f hf => ?_, fun s f hf => ?_⟩
  · intro n s1 bad here events commands command
    refine ⟨flitForwarding_waits hf, flitWaits_iff s n f, fun hgo => ⟨flitForwarding_unknown hf hgo, fun hk hd hr => flitForwarding_recovery hf hgo hk hd hr, fun q hk hd hr hb hp => ?_,
      fun h hr hc => ?_, fun h hr hb => ?_, fun h hr hb i hi => ?_, fun h hk hr i hi => ?_⟩⟩
    · have hsend : (s.dropFlit s.subj.a).sendFlit f = { s1 with io := { s1.io with out := s.io.out ++ [{ f with port := q }] } } := by
        have hnode : ¬f.dst = (s.dropFlit s.subj.a).io.node := hd
        have hport : tget (s.dropFlit s.subj.a).io.ports f.dst = some q := hp
        rw [State.sendFlit, if_neg hnode, hport, fit_of_flit hf]
        rfl
      rw [flitForwarding_passes hf hgo hk hd hr hb hp, hsend]
    · rw [show bad ↔ exec .flitForwarding s = .next (s.discardFlit s.subj.a f) from Iff.rfl, flitForwarding_here hf hgo h.2 h.1, if_pos]
      have hnot : f.inRecovery = false := by
        rw [← Bool.not_eq_true, inRecovery_iff]
        exact fun hin => hc.elim (fun hc => hc hin.1) (fun hc => by have := hin.2; omega)
      rw [hr, hnot]
      rfl
    · rw [flitForwarding_here hf hgo h.2 h.1, hr, hb]
      rfl
    · obtain ⟨hevent, hk, hlt⟩ := event_of_kind hi
      have hnotify : s.notifyFlit s.subj.a f = s := if_neg hk
      rw [flitForwarding_starts hf hgo h.2 h.1 (.inl ⟨hr, hb⟩) hevent, hnotify]
    · obtain ⟨ms, g, hn⟩ := notifyFlit_eq s s.subj.a f
      refine ⟨_, flitForwarding_starts hf hgo h.2 h.1 (hr.imp_right (fun hr => ⟨hr.1, (inRecovery_iff f).2 ⟨hk, hr.2⟩⟩)) (event_of_command hk hi), ?_⟩
      rw [hn]
      exact ⟨rfl, hf, rfl, rfl⟩
  · intro n s1 tag line
    refine ⟨readFlit_refused hf, fun pa hpa => ⟨fun hs => ?_, fun hs hbad => ?_, fun hs hbad => ?_⟩, writeFlit_refused hf, fun pa hb hpa => ⟨fun hs => ?_, writeFlit_performs hf hb hpa⟩,
      fun hb => ?_, fun k hb hk => ?_, atomicFlit_unknown hf⟩
    · rw [readFlit_exported hf hpa, if_pos hs]
    · rw [readFlit_exported hf hpa, if_neg (by rw [hs]; exact Bool.false_ne_true), if_pos hbad]
    · rw [readFlit_exported hf hpa, if_neg (by rw [hs]; exact Bool.false_ne_true), if_neg (by rw [hbad]; exact Bool.false_ne_true)]
    · rw [writeFlit_exported hf hb hpa, if_pos hs]
    · rw [writeFlit_done hf hb, atomicFlit_done hf hb]
      obtain ⟨hwowes, hwdone⟩ := remoteDone_eq s .writeFlit f []
      obtain ⟨haowes, hadone⟩ := remoteDone_eq s .atomicFlit f f.payload
      exact ⟨fun h => ⟨hwowes h, haowes h⟩, fun h => ⟨hwdone h, hadone h⟩⟩
    · intro z old
      refine ⟨atomicFlit_refused hf hb hk, fun pa hpa => ⟨fun hal hbad hs => ?_, fun h => ?_, fun hal hbad hs hq => ?_⟩⟩
      · rw [atomicFlit_exported hf hb hk rfl hpa, if_neg (by rw [hbad]; exact fun h => h.elim (fun h => h hal) Bool.false_ne_true), if_pos hs]
      · rw [atomicFlit_exported hf hb hk rfl hpa, if_pos h]
      · have hold : old = rdN s.mem pa z := by rw [exported_at hpa]
        obtain ⟨s', hexec, hmem, hflit, hact⟩ := atomicFlit_performs hf hb hk rfl hpa hal hbad hs hq
        rw [hold]
        exact ⟨s', _, hexec, hmem, hflit, hact, rfl, rfl, rfl⟩
  · intro s1 tag
    refine ⟨fun i hi hnone => ?_, fun a l x m hg hx hm hst => ?_, ?_, fun hnone => ?_, fun v hv => ?_⟩
    · simp only [List.mem_cons, List.not_mem_nil, or_false] at hi
      rcases hi with rfl | rfl
      · exact (readReplyFlit_eq hf).trans (congrArg _ (remoteBack_unknown (s := s1) hnone ..))
      · exact (acknowledgementFlit_eq hf).trans (congrArg _ (remoteBack_unknown (s := s1) hnone ..))
    · intro bytes back b
      have hread := (readReplyFlit_eq hf).trans (congrArg _ (remoteBack_eq (s := s1) hg hx hm hst f.port (bit f.word 8) (fun _ m => (f.payload.drop (m.pa % 128)).take m.size)))
      have hack := (acknowledgementFlit_eq hf).trans (congrArg _ (remoteBack_eq (s := s1) hg hx hm hst f.port (fld f.word 8 3 != 0)
        (fun x m => match x.op with | .atomic _ => f.payload.take m.size | _ => [])))
      refine ⟨fun h => ?_, fun h hl => ?_, fun h hl => ?_, fun h => ?_, fun h hop => ?_, fun k h hop => ?_⟩
      · rw [hread, h]
        rfl
      · rw [hread, h, hl]
        rfl
      · rw [hread, h, hl]
        rfl
      · rw [hack, bne_iff_ne.2 h]
        rfl
      · have hl : x.op.isLdmc = false := by rcases hop with h | h <;> rw [h] <;> rfl
        have htake : (match x.op with | .atomic _ => f.payload.take m.size | _ => []) = [] := by rcases hop with h | h <;> rw [h]
        rw [hack, h, hl]
        simp only [htake]
        rfl
      · have hl : x.op.isLdmc = false := by rw [hop]; rfl
        rw [hack, h, hl]
        simp only [hop]
        rfl
    · refine ⟨fun h => ?_, fun hsync hbest => ?_⟩
      · rw [timeFlit_eq hf, if_pos]
        rcases h with h | h
        · rw [h]
          rfl
        · rw [Bool.eq_false_iff.2 (fun hk => h ((best_iff s f).1 hk)), Bool.not_false, Bool.or_true]
      · have hexec := timeFlit_eq hf
        rw [hsync, (best_iff s f).2 hbest] at hexec
        exact ⟨_, hexec, rfl, rfl, rfl, rfl, rfl, fun x hx => List.mem_map.2 ⟨_, hx, rfl⟩⟩
    · rw [stopFlit_eq hf]
      exact congrArg _ (if_pos (by rw [show tget (s.dropFlit s.subj.a).parts f.part = none from hnone]; rfl))
    · rw [stopFlit_eq hf]
      exact congrArg _ (if_neg (by rw [show tget (s.dropFlit s.subj.a).parts f.part = some v from hv]; exact Bool.false_ne_true))

end Sys2Proof.Machine
end
section
/-! Ray queries and the box, triangle and beam tests (R383 to R394). -/

namespace Sys2Proof.Machine

/-! ## Records in the lane file (R383) -/

theorem recOob_threads (s : State) (t : Thread) (idx : List PWord) (n : Nat) (write : Bool) : (s.recOob t idx n write).threads = s.threads := by
  unfold State.recOob State.recOobs
  simp only
  split
  · rfl
  · exact State.lfOobRecord_threads ..

theorem recOob_cells (s : State) (t : Thread) (idx : List PWord) (n : Nat) (write : Bool) : (s.recOob t idx n write).cells = s.cells := by
  unfold State.recOob State.recOobs
  simp only
  split
  · rfl
  · exact State.lfOobRecord_cells ..

/-- R383: nothing is recorded where every selected lane's record can be used. -/
theorem recOob_used {s : State} {t : Thread} {idx : List PWord} {n : Nat} (h : ∀ l ∈ t.selLanes, recOk (idx.getD l .zero) n = true) (write : Bool) :
    s.recOob t idx n write = s := by
  have hnone : t.selLanes.findSome? (fun l => ([(idx, n, write)].find? (fun r => let i := r.1.getD l .zero; !i.pois && !recOk i r.2.1)).map (fun r => (l, r))) = none := by
    rw [List.findSome?_eq_none_iff]
    intro l hl
    simp only [List.find?_cons, h l hl, Bool.not_true, Bool.and_false, List.find?_nil, Option.map_none]
  unfold State.recOob State.recOobs
  simp only [hnone]

theorem recWrite_threads (s : State) (t : Thread) (l i : Nat) (ws : List (Nat × Word)) (pois : Bool) : (s.recWrite t l i ws pois).threads = s.threads :=
  foldl_same State.threads _ (fun _ _ => by rfl) ws s

theorem rw_recWords (s : State) (t : Thread) (l : Nat) (i : PWord) {n j : Nat} (hj : j < n) : rw (s.recWords t l i n) j = s.lfWord (t.laneAgent l) (i.w.toNat + j) := by
  unfold rw State.recWords
  rw [List.getD_eq_getElem?_getD, List.getElem?_map, List.getElem?_range hj]
  rfl

/-! ## Query instructions (R383, R388 to R390) -/

section Query
variable (t : Thread) (f : Fields)

/-- R383: a lane's record of 16 words can be used. -/
def queryOk (l : Nat) : Bool := !(t.aW f l).pois && decide ((t.aW f l).w.toNat + 16 ≤ 1024)

/-- R383: the state after each selected lane's words are written. -/
def State.queried (s : State) (t : Thread) (f : Fields) (ws : Nat → List (Nat × Word)) (pois : Nat → Bool) : State :=
  t.selLanes.foldl (fun s l => if queryOk t f l then s.recWrite t l (t.aW f l).w.toNat (ws l) (pois l) else s) s

/-- R383, R390: the results of a query instruction, lane by lane. -/
def queryEff (r : Nat → Word) (p : Nat → Option Bool) (pois : Nat → Bool) : Eff :=
  let old := fun (l : Nat) => (t.lanes.map (fun x => x.p)).getD l false
  { v := some ((List.range t.width).map (fun l => if queryOk t f l then ⟨r l, pois l⟩ else ⟨0, true⟩))
    p := some ((List.range t.width).map (fun l => if queryOk t f l then (p l).getD (old l) else if (p l).isSome then false else old l)) }

theorem queried_threads (s : State) (ws : Nat → List (Nat × Word)) (pois : Nat → Bool) : (s.queried t f ws pois).threads = s.threads := by
  refine foldl_same State.threads _ (fun b l => ?_) _ s
  split
  · exact recWrite_threads ..
  · rfl

end Query

section Performed
variable {i : Instr} {s : State} {u : Nat} {t : Thread} {f : Fields} {m : Form} {step : List PWord → QStep}
  (hx : exec i s = s.queryInstr f m step) (htile : isTile t.src.site = true) (hi : Issues s u t f m)
  {ws : Nat → List (Nat × Word)} {rs : Nat → List Nat} {r : Nat → Word} {p : Nat → Option Bool}
include hx htile hi

/-- R383: what a query instruction does, from what its step gives on a lane's record. -/
theorem query_performs
    (hstep : ∀ l, step ((s.recOob t (t.as f) 16 false).recWords t l (t.aW f l) 16) = ⟨ws l, r l, p l, rs l⟩)
    (hp : ∀ q l, (step q).p.isSome = (p l).isSome) (hrs : ∀ l, ∀ j ∈ rs l, j < 16) :
    let s1 := s.recOob t (t.as f) 16 false
    let pois := fun (l : Nat) => (rs l).any (fun j => (s1.lfWord (t.laneAgent l) ((t.aW f l).w.toNat + j)).pois)
    Room s (s1.queried t f ws pois) t t f (queryEff t f r p pois) → Performs i s u f (s1.queried t f ws pois) t (queryEff t f r p pois) := by
  intro s1 pois hroom
  have hpois : ∀ l, anyPois (s1.recWords t l (t.aW f l) 16) (rs l) = pois l := by
    intro l
    rw [Bool.eq_iff_iff]
    simp only [anyPois, pois, List.any_eq_true]
    exact exists_congr fun j => and_congr_right fun hj => by rw [rw_recWords _ _ _ _ (hrs l j hj)]
  have hthr : (s1.queried t f ws pois).thr? u = some t :=
    (State.thr_congr ((queried_threads t f s1 ws pois).trans (recOob_threads ..)) u).trans hi.thr
  refine exec_performs hx hi ?_ hthr hi.going rfl hroom
  have hok : ∀ l, recOk (t.aW f l) 16 = queryOk t f l := fun _ => rfl
  have haw : ∀ l, (t.as f).getD l .zero = t.aW f l := fun _ => rfl
  simp only [htile, if_true, haw, hok, hstep]
  refine congrArg₂ Body.ok ?_ ?_
  · refine List.foldl_ext _ _ _ fun b l hl => ?_
    have hlt : l < t.width := (mem_selLanes.1 hl).1
    rw [List.getD_eq_getElem?_getD, List.getElem?_map, List.getElem?_range hlt]
    cases h : queryOk t f l
    · simp [h]
    · simp only [h, if_true, Option.map_some, Option.getD_some]
      exact congrArg _ (hpois l)
  · unfold queryEff
    congr 2
    · rw [List.map_map]
      refine List.map_congr_left fun l _ => ?_
      cases h : queryOk t f l
      · simp only [Function.comp_apply, h, Bool.false_eq_true, if_false]
        rfl
      · simp only [Function.comp_apply, h, if_true]
        exact congrArg _ (hpois l)
    · refine List.ext_getElem (by simp [Thread.width]) fun l hl hl' => ?_
      have hlt : l < t.lanes.length := by simpa [Thread.width] using hl'
      have hold : (t.lanes.map (fun x => x.p)).getD l false = t.lanes[l].p := by
        rw [List.getD_eq_getElem?_getD, List.getElem?_map, List.getElem?_eq_getElem hlt]
        rfl
      simp only [List.getElem_map, List.getElem_zip, List.getElem_range, hold]
      cases h : queryOk t f l
      · simp only [Bool.false_eq_true, if_false, hp [] l]
      · simp only [if_true]

end Performed

theorem rqproStep_p (q : List PWord) : (rqproStep q).p.isSome = true := by
  unfold rqproStep
  dsimp only
  split <;> rfl

theorem rqcomStep_p (q : List PWord) : (rqcomStep q).p.isSome = true := by
  unfold rqcomStep
  dsimp only
  split <;> rfl

section Steps
variable {q : List PWord} {q' : Nat → PWord} (hq : ∀ j, j < 16 → rw q j = q' j)
include hq

theorem rayOk_words : rayOk q = ([1, 2, 3, 4, 5, 6].all (fun j => (F (q' j).w).finite) && !(F (q' 7).w).isNan && !(F (q' 8).w).isNan
    && !([4, 5, 6].all (fun j => (F (q' j).w).isZero)) && FV.zero.le (F (q' 7).w) && (F (q' 7).w).le (F (q' 8).w)) := by
  simp only [rayOk, rf, List.all_cons, List.all_nil, hq 1 (by decide), hq 2 (by decide), hq 3 (by decide), hq 4 (by decide), hq 5 (by decide), hq 6 (by decide),
    hq 7 (by decide), hq 8 (by decide)]

theorem stepTo_words (st : Nat) (p : Bool) : stepTo (rw q 0).w st p
    = ⟨[(0, w32 (fld (q' 0).w 4 4 * 16 + (if bit (q' 0).w 2 then 4 else 0) + st))], w32 (fld (q' 0).w 4 4 * 16 + (if bit (q' 0).w 2 then 4 else 0) + st), some p, [0]⟩ := by
  rw [hq 0 (by decide)]
  rfl

theorem rqproStep_words : rqproStep q = stepTo (rw q 0).w (if fld (q' 0).w 0 2 = 1 ∨ fld (q' 0).w 0 2 = 2 then 1 else fld (q' 0).w 0 2)
    (decide (fld (q' 0).w 0 2 = 1 ∨ fld (q' 0).w 0 2 = 2)) := by
  have hst : qState (rw q 0).w = fld (q' 0).w 0 2 := by rw [hq 0 (by decide)]; rfl
  unfold rqproStep
  simp only [hst]
  split
  · next h => simp [h]
  · next h => simp [h]
  · next h1 h2 =>
    have hne : ¬(fld (q' 0).w 0 2 = 1 ∨ fld (q' 0).w 0 2 = 2) := fun h => h.elim h1 h2
    simp only [hne, if_false, decide_false]

theorem rqcomStep_commits (h : fld (q' 0).w 0 2 = 2) : rqcomStep q
    = (let done := w32 (fld (q' 0).w 4 4 * 16 + 4 + (if bit (q' 0).w 4 then 3 else 1))
      ⟨[(0, done), (8, (q' 12).w), (9, (q' 13).w), (10, (q' 14).w), (11, (q' 15).w)], done, some true, [0, 12, 13, 14, 15]⟩) := by
  have hst : qState (q' 0).w = 2 := h
  unfold rqcomStep
  simp only [hst, if_true, hq 0 (by decide), hq 12 (by decide), hq 13 (by decide), hq 14 (by decide), hq 15 (by decide)]
  rfl

theorem rqcomStep_stays (h : fld (q' 0).w 0 2 ≠ 2) : rqcomStep q = stepTo (rw q 0).w (fld (q' 0).w 0 2) false := by
  have hst : qState (rw q 0).w = fld (q' 0).w 0 2 := by rw [hq 0 (by decide)]; rfl
  unfold rqcomStep
  simp only [hst, h, if_false]

omit hq in
theorem rqField_lt (n : Nat) : rqField n < 16 := by
  unfold rqField
  match n with
  | 0 | 1 | 2 | 3 | 4 | 5 | 6 | 7 | 8 | 9 => decide
  | n + 10 => exact Nat.zero_lt_succ _

end Steps

/-- R388 to R390: the five query instructions. -/
theorem query_cases (s : State) (u : Nat) (t : Thread) (f : Fields) (htile : isTile t.src.site = true) :
    let s1 := s.recOob t (t.as f) 16 false
    let ix := fun (l : Nat) => (t.aW f l).w.toNat
    let ok := fun (l : Nat) => !(t.aW f l).pois && decide (ix l + 16 ≤ 1024)
    let q := fun (l j : Nat) => s1.lfWord (t.laneAgent l) (ix l + j)
    let st := fun (l : Nat) => fld (q l 0).w 0 2
    let word := fun (flags : Nat) (hit : Bool) (state : Nat) => w32 (flags * 16 + (if hit then 4 else 0) + state)
    let next := fun (l : Nat) (state : Nat) => word (fld (q l 0).w 4 4) (bit (q l 0).w 2) state
    let acts := fun (i : Instr) (ws : Nat → List (Nat × Word)) (rs : Nat → List Nat) (r : Nat → Word) (p : Nat → Option Bool) =>
      let pois := fun (l : Nat) => (rs l).any (fun j => (q l j).pois)
      let b := t.selLanes.foldl (fun s l => if ok l then s.recWrite t l (ix l) (ws l) (pois l) else s) s1
      let old := fun (l : Nat) => (t.lanes.map (fun x => x.p)).getD l false
      let e : Eff :=
        { v := some ((List.range t.width).map (fun l => if ok l then ⟨r l, pois l⟩ else ⟨0, true⟩))
          p := some ((List.range t.width).map (fun l => if ok l then (p l).getD (old l) else if (p l).isSome then false else old l)) }
      Room s b t t f e → Performs i s u f b t e
    let F := fun (l j : Nat) => F (q l j).w
    let valid := fun (l : Nat) =>
      [1, 2, 3, 4, 5, 6].all (fun j => (F l j).finite) && !(F l 7).isNan && !(F l 8).isNan
        && !([4, 5, 6].all (fun j => (F l j).isZero)) && FV.zero.le (F l 7) && (F l 7).le (F l 8)
    (Issues s u t f { opc := 0xE0, b := false, lf := true } →
      let w := fun (l : Nat) => word (fld f.lit 0 4) false (if valid l then 1 else 3)
      acts (.rqinit f) (fun l => [(0, w l)]) (fun _ => [1, 2, 3, 4, 5, 6, 7, 8]) w (fun _ => none))
    ∧ (Issues s u t f { opc := 0xE1, b := false, lf := true } →
      let nx := fun (l : Nat) => if st l = 1 ∨ st l = 2 then 1 else st l
      acts (.rqpro f) (fun l => [(0, next l (nx l))]) (fun _ => [0]) (fun l => next l (nx l))
        (fun l => some (decide (st l = 1 ∨ st l = 2))))
    ∧ (Issues s u t f { opc := 0xE2, b := false, lf := true } →
      let done := fun (l : Nat) => word (fld (q l 0).w 4 4) true (if bit (q l 0).w 4 then 3 else 1)
      acts (.rqcom f)
        (fun l => if st l = 2 then [(0, done l), (8, (q l 12).w), (9, (q l 13).w), (10, (q l 14).w), (11, (q l 15).w)]
          else [(0, next l (st l))])
        (fun l => if st l = 2 then [0, 12, 13, 14, 15] else [0])
        (fun l => if st l = 2 then done l else next l (st l)) (fun l => some (decide (st l = 2))))
    ∧ (Issues s u t f { opc := 0xE3, b := false, lf := true } →
      acts (.rqabt f) (fun l => [(0, next l 3)]) (fun _ => [0]) (fun l => next l 3) (fun _ => some true))
    ∧ (Issues s u t f { opc := 0xE4, b := false, lf := true } →
      let j := [0, 8, 9, 10, 11, 12, 13, 14, 15, 7].getD (fld f.lit 0 4) 0
      acts (.rqget f) (fun _ => []) (fun _ => [j]) (fun l => (q l j).w) (fun _ => none)) := by
  intro s1 ix ok q st word next acts F valid
  have hq : ∀ l j, j < 16 → rw (s1.recWords t l (t.aW f l) 16) j = q l j := fun l j hj => rw_recWords s1 t l (t.aW f l) hj
  refine ⟨fun hi => ?_, fun hi => ?_, fun hi => ?_, fun hi => ?_, fun hi => ?_⟩
  · intro w
    refine query_performs (ws := fun l => [(0, w l)]) (rs := fun _ => [1, 2, 3, 4, 5, 6, 7, 8]) (r := w) (p := fun _ => none) rfl htile hi (fun l => ?_) (fun _ _ => rfl) (fun _ j hj => ?_)
    · unfold rqinitStep
      rw [rayOk_words (hq l)]
      rfl
    · simp only [List.mem_cons, List.not_mem_nil, or_false] at hj
      omega
  · intro nx
    refine query_performs (ws := fun l => [(0, next l (nx l))]) (rs := fun _ => [0]) (r := fun l => next l (nx l)) (p := fun l => some (decide (st l = 1 ∨ st l = 2))) rfl htile hi
      (fun l => ?_) (fun q l => ?_) (fun _ j hj => ?_)
    · rw [rqproStep_words (hq l), stepTo_words (hq l)]
    · exact rqproStep_p q
    · rw [List.mem_singleton.1 hj]
      decide
  · intro done
    refine query_performs (ws := fun l => if st l = 2 then [(0, done l), (8, (q l 12).w), (9, (q l 13).w), (10, (q l 14).w), (11, (q l 15).w)] else [(0, next l (st l))])
      (rs := fun l => if st l = 2 then [0, 12, 13, 14, 15] else [0]) (r := fun l => if st l = 2 then done l else next l (st l)) (p := fun l => some (decide (st l = 2))) rfl htile hi
      (fun l => ?_) (fun q l => ?_) (fun l j hj => ?_)
    · by_cases h : st l = 2
      · rw [rqcomStep_commits (hq l) h]
        simp only [h, if_true, decide_true]
        rfl
      · rw [rqcomStep_stays (hq l) h, stepTo_words (hq l)]
        simp only [h, if_false, decide_false]
        rfl
    · exact rqcomStep_p q
    · split at hj
      · simp only [List.mem_cons, List.not_mem_nil, or_false] at hj
        omega
      · rw [List.mem_singleton.1 hj]
        decide
  · refine query_performs (ws := fun l => [(0, next l 3)]) (rs := fun _ => [0]) (r := fun l => next l 3) (p := fun _ => some true) rfl htile hi
      (fun l => stepTo_words (hq l) 3 true) (fun _ _ => rfl) (fun _ j hj => ?_)
    rw [List.mem_singleton.1 hj]
    decide
  · intro j
    refine query_performs (step := fun q => ⟨[], (rw q (rqField (fld f.lit 0 4))).w, none, [rqField (fld f.lit 0 4)]⟩) (ws := fun _ => []) (rs := fun _ => [j]) (r := fun l => (q l j).w) (p := fun _ => none) rfl htile hi (fun l => ?_) (fun _ _ => rfl) (fun _ k hk => ?_)
    · exact congrArg (fun w : PWord => (⟨[], w.w, none, [rqField (fld f.lit 0 4)]⟩ : QStep)) (hq l _ (rqField_lt _))
    · rw [List.mem_singleton.1 hk]
      exact rqField_lt (fld f.lit 0 4)

/-! ## The loads of nodes and triangles (R384) -/

theorem addLane_parts (ms : List LaneAcc) (x : Access) : ms.foldl (fun x m => x.addLane m none) x = { x with lanes := x.lanes ++ ms } := by
  induction ms generalizing x with
  | nil => simp
  | cons m ms ih =>
    rw [List.foldl_cons, ih]
    simp [Access.addLane]

/-- R384: the access of a test whose lanes are sound: each lane's parts in turn. -/
theorem foldl_parts (ls : List Nat) (step : Access → Nat → Access) (parts : Nat → List LaneAcc)
    (h : ∀ x, ∀ l ∈ ls, step x l = { x with lanes := x.lanes ++ parts l }) (x : Access) : ls.foldl step x = { x with lanes := x.lanes ++ ls.flatMap parts } := by
  induction ls generalizing x with
  | nil => simp
  | cons l ls ih =>
    rw [List.foldl_cons, ih (fun x l hl => h x l (List.mem_cons_of_mem _ hl)), h x l (List.mem_cons_self ..)]
    simp [List.flatMap_cons]

section Loads
variable {s : State} {u : Nat} {t : Thread} {f : Fields} (opc : Nat) (op : AccOp) (size align : Nat)

/-- R384: the access that a test issues. -/
def testAccess (s : State) (t : Thread) (f : Fields) (opc : Nat) (op : AccOp) (size : Nat) : Access :=
  let ea := fun (l : Nat) => (tgetD (s.cell t.src).bases (fld f.lit 0 3) 0).toInt + (t.bW f l).w.toInt
  { t.access op opc f.lit (some (fld f.lit 3 2)) 0 1 (dstRegs f) with
    lanes := t.selLanes.flatMap (fun l => recParts l (ea l) size (s.recWords t l (t.aW f l) 16) (t.aW f l).w.toNat) }

variable (hl : ∀ l ∈ t.selLanes, (t.aW f l).pois = false ∧ (t.bW f l).pois = false ∧ (t.aW f l).w.toNat + 16 ≤ 1024
  ∧ ((tgetD (s.cell t.src).bases (fld f.lit 0 3) 0).toInt + (t.bW f l).w.toInt) % align = 0
  ∧ -(2 ^ 56) ≤ (tgetD (s.cell t.src).bases (fld f.lit 0 3) 0).toInt + (t.bW f l).w.toInt
  ∧ (tgetD (s.cell t.src).bases (fld f.lit 0 3) 0).toInt + (t.bW f l).w.toInt < 2 ^ 56)
include hl

theorem testLoad_issues : s.testLoad u t f opc op size align = (let b := s.issueAcc u (testAccess s t f opc op size)
    if op = .tri ∧ (b.acc? s.fresh).isSome then b.modThr u (fun k => { k with lfPend := k.lfPend ++ [s.fresh] }) else b) := by
  have hused : s.recOob t (t.as f) 16 false = s := recOob_used (fun l hls => by
    obtain ⟨ha, -, hix, -⟩ := hl l hls
    show (!(t.aW f l).pois && decide ((t.aW f l).w.toNat + 16 ≤ 1024)) = true
    rw [ha, decide_eq_true hix]
    rfl) false
  unfold State.testLoad
  simp only [hused]
  rw [foldl_parts t.selLanes _ (fun l => recParts l ((tgetD (s.cell t.src).bases (fld f.lit 0 3) 0).toInt + (t.bW f l).w.toInt) size
    (s.recWords t l (t.aW f l) 16) (t.aW f l).w.toNat)]
  · rfl
  · intro x l hls
    obtain ⟨ha, hb, hix, hal, hlo, hhi⟩ := hl l hls
    have haw : (t.as f).getD l .zero = t.aW f l := rfl
    have hbw : (t.bs f).getD l .zero = t.bW f l := rfl
    have hok : recOk (t.aW f l) 16 = true := by
      show (!(t.aW f l).pois && decide ((t.aW f l).w.toNat + 16 ≤ 1024)) = true
      rw [ha, decide_eq_true hix]
      rfl
    have hfault : laneFault false ((tgetD (s.cell t.src).bases (fld f.lit 0 3) 0).toInt + (t.bW f l).w.toInt) align = none := by
      rw [laneFault_eq, if_neg Bool.false_ne_true, if_neg (by omega), if_neg (by omega)]
    simp only [haw, hbw, hok, ha, hb, eaOf_one, State.baseOf, Bool.not_true, Bool.and_false, Bool.false_eq_true, if_false, Bool.or_self, hfault, addLane_parts]
    rfl

/-- R384: a test sends one access that reads its lanes' records, and keeps A until it returns. -/
theorem test_performs {i : Instr} (hx : exec i s = s.testInstr f opc op size align) (htile : isTile t.src.site = true)
    (hi : Issues s u t f { opc := opc, lf := true, ctr := some .ld, counts := Thread.tileLane }) {b' : State} {k : Thread}
    (hb' : if op = .tri ∧ ((s.issueAcc u (testAccess s t f opc op size)).acc? s.fresh).isSome then
        b' = (s.issueAcc u (testAccess s t f opc op size)).modThr u (fun k => { k with lfPend := k.lfPend ++ [s.fresh] })
      else b' = s.issueAcc u (testAccess s t f opc op size))
    (hk : b'.thr? u = some k) (hend : k.ending = false) (hroom : Room s b' t k f { v := some ((List.range t.width).map (t.aW f)), load := true }) :
    Performs i s u f b' k { v := some ((List.range t.width).map (t.aW f)), load := true } := by
  have hload : s.testLoad u t f opc op size align = b' := by
    rw [testLoad_issues opc op size align hl]
    split at hb' <;> rw [hb']
    · next h => exact if_pos h
    · next h => exact if_neg h
  refine exec_performs hx hi ?_ hk hend rfl hroom
  simp only [htile, if_true, hload, as_lanes]

end Loads

/-- R384: the same with the records as they stand after the check of their indices, which records nothing. -/
theorem test_reads {s : State} {u : Nat} {t : Thread} {f : Fields} {i : Instr} {opc : Nat} {op : AccOp} {size align : Nat}
    (htile : isTile t.src.site = true) (hx : ∀ s, exec i s = s.testInstr f opc op size align)
    (hi : Issues s u t f { opc := opc, lf := true, ctr := some .ld, counts := Thread.tileLane }) :
    let s1 := s.recOob t (t.as f) 16 false
    let ea := fun (l : Nat) => (tgetD (s.cell t.src).bases (fld f.lit 0 3) 0).toInt + (t.bW f l).w.toInt
    let q := fun (l : Nat) => (List.range 16).map (fun j => s1.lfWord (t.laneAgent l) ((t.aW f l).w.toNat + j))
    (∀ l ∈ t.selLanes, (t.aW f l).pois = false ∧ (t.bW f l).pois = false ∧ (t.aW f l).w.toNat + 16 ≤ 1024 ∧ ea l % align = 0
      ∧ -(2 ^ 56) ≤ ea l ∧ ea l < 2 ^ 56) →
    let x : Access := { t.access op opc f.lit (some (fld f.lit 3 2)) 0 1 (dstRegs f) with
                        lanes := t.selLanes.flatMap (fun l => recParts l (ea l) size (q l) (t.aW f l).w.toNat) }
    let b := s1.issueAcc u x
    let e : Eff := { v := some ((List.range t.width).map (t.aW f)), load := true }
    ∀ b' k, (if op = .tri ∧ (b.acc? s.fresh).isSome then b' = b.modThr u (fun k => { k with lfPend := k.lfPend ++ [s.fresh] }) else b' = b) →
      b'.thr? u = some k → k.ending = false → Room s b' t k f e → Performs i s u f b' k e := by
  intro s1 ea q hl x b e b' k hb' hk hend hroom
  have hused : s1 = s := recOob_used (fun l hls => by
    obtain ⟨ha, -, hix, -⟩ := hl l hls
    show (!(t.aW f l).pois && decide ((t.aW f l).w.toNat + 16 ≤ 1024)) = true
    rw [ha, decide_eq_true hix]
    rfl) false
  have hb : b = s.issueAcc u (testAccess s t f opc op size) := by
    simp only [b, x, q, hused]
    rfl
  rw [hb] at hb'
  exact test_performs opc op size align hl (hx s) htile hi hb' hk hend hroom

/-! ## The triangle's step (R394) -/

section Triangle
variable (q : List PWord) (rec : List Byte)

theorem tritStep_idle (h : qState (rw q 0).w ≠ 1) : tritStep q rec = ([], 3) := if_pos h

theorem tritStep_miss (h : qState (rw q 0).w = 1) (hm : triTest q rec = none) : tritStep q rec = ([], 0) := by
  simp only [tritStep, h, ne_eq, not_true, if_false, hm]

theorem tritStep_hit {k : TriHit} (h : qState (rw q 0).w = 1) (hk : triTest q rec = some k) : tritStep q rec
    = (let id := w32 (leNat ((rec.drop 0x24).take 4))
      let cand := [(12, k.t), (13, id), (14, k.u), (15, k.v)]
      if triOpaque (rw q 0).w rec then (cand ++ commitWrites (rw q 0).w k.t id k.u k.v, 1)
      else (cand ++ [(0, toState (rw q 0).w (bit (rw q 0).w 2) 2)], 2)) := by
  simp only [tritStep, h, ne_eq, not_true, if_false, hk]

end Triangle

/-! ## The word of a box test (R392) -/

theorem insBy_perm {α : Type} (le : α → α → Bool) (x : α) (l : List α) : (insBy le x l).Perm (x :: l) := by
  induction l with
  | nil => exact .refl _
  | cons y ys ih =>
    unfold insBy
    split
    · exact (ih.cons y).trans (.swap ..)
    · exact .refl _

theorem sortBy_perm {α : Type} (le : α → α → Bool) (l : List α) : (sortBy le l).Perm l := by
  have hfold : ∀ (l acc : List α), (l.foldl (fun r x => insBy le x r) acc).Perm (l ++ acc) := by
    intro l
    induction l with
    | nil => exact fun acc => .refl _
    | cons x l ih =>
      intro acc
      refine (ih (insBy le x acc)).trans ?_
      exact ((insBy_perm le x acc).append_left l).trans List.perm_middle
  have h := hfold l []
  rwa [List.append_nil] at h

section BoxWord
variable (q : List PWord) (node : List Byte)

/-- R392: the boxes hit, with their entries. -/
def boxHits : List (Nat × FV) := (List.range 4).filterMap (fun i => (boxHit q node i).map (fun e => (i, e)))

/-- R392: the order of the four boxes: those hit by their entries, then those missed. -/
def boxOrder : List Nat :=
  let order := (sortBy (fun (a b : Nat × FV) => !b.2.lt a.2) (boxHits q node)).map (fun h => h.1)
  order ++ (List.range 4).filter (fun i => !order.contains i)

theorem boxWord_eq : boxWord q node = w32 (((boxHits q node).map (fun h => 2 ^ h.1)).foldl (· + ·) 0
    + ((boxOrder q node).mapIdx (fun j i => i * 2 ^ (4 + 2 * j))).foldl (· + ·) 0) := rfl

/-- The boxes hit, each once. -/
theorem boxHits_fst : (boxHits q node).map (fun h => h.1) = (List.range 4).filter (fun i => (boxHit q node i).isSome) := by
  unfold boxHits
  generalize List.range 4 = l
  induction l with
  | nil => rfl
  | cons i l ih => cases h : boxHit q node i <;> simp [h, ih]

/-- R392: each box has its place in the order. -/
theorem boxOrder_perm : (boxOrder q node).Perm (List.range 4) := by
  have hsorted := (sortBy_perm (fun (a b : Nat × FV) => !b.2.lt a.2) (boxHits q node)).map (fun h => h.1)
  rw [boxHits_fst] at hsorted
  have hcontains : ∀ i ∈ List.range 4, (!((sortBy (fun (a b : Nat × FV) => !b.2.lt a.2) (boxHits q node)).map (fun h => h.1)).contains i) = !(boxHit q node i).isSome := by
    intro i hi
    rw [Bool.not_inj_iff, Bool.eq_iff_iff, List.contains_iff_mem, hsorted.mem_iff, List.mem_filter]
    exact and_iff_right hi
  unfold boxOrder
  simp only
  rw [List.filter_congr hcontains]
  exact (hsorted.append_right _).trans (List.filter_append_perm _ _)

theorem foldl_add_filter (P : Nat → Bool) (g : Nat → Nat) (l : List Nat) (a : Nat) :
    ((l.filter P).map g).foldl (· + ·) a = l.foldl (fun a i => a + if P i then g i else 0) a := by
  induction l generalizing a with
  | nil => rfl
  | cons i l ih => cases h : P i <;> simp [h, ih]

/-- The bits of the boxes hit. -/
theorem boxMask_eq : ((boxHits q node).map (fun h => 2 ^ h.1)).foldl (· + ·) 0 = (if (boxHit q node 0).isSome then 1 else 0) + (if (boxHit q node 1).isSome then 2 else 0)
    + (if (boxHit q node 2).isSome then 4 else 0) + (if (boxHit q node 3).isSome then 8 else 0) := by
  have hmap : (boxHits q node).map (fun h => 2 ^ h.1) = ((boxHits q node).map (fun h => h.1)).map (fun i => 2 ^ i) := by rw [List.map_map]; rfl
  rw [hmap, boxHits_fst, foldl_add_filter, show List.range 4 = [0, 1, 2, 3] from rfl]
  simp only [List.foldl_cons, List.foldl_nil, Nat.zero_add]
  rfl

/-- R392: the word as a number: four bits of the boxes hit, then four places of two bits. -/
theorem boxWord_places : ∃ a b c d, boxOrder q node = [a, b, c, d] ∧ a < 4 ∧ b < 4 ∧ c < 4 ∧ d < 4 ∧ (boxWord q node).toNat
    = (if (boxHit q node 0).isSome then 1 else 0) + (if (boxHit q node 1).isSome then 2 else 0) + (if (boxHit q node 2).isSome then 4 else 0)
      + (if (boxHit q node 3).isSome then 8 else 0) + (a * 16 + b * 64 + c * 256 + d * 1024) := by
  have hperm := boxOrder_perm q node
  have hlen : (boxOrder q node).length = 4 := hperm.length_eq.trans (List.length_range ..)
  have hlt : ∀ i ∈ boxOrder q node, i < 4 := fun i hi => List.mem_range.1 (hperm.mem_iff.1 hi)
  rw [boxWord_eq, boxMask_eq]
  generalize boxOrder q node = o at hlen hlt ⊢
  obtain ⟨a, b, c, d, rfl⟩ : ∃ a b c d, o = [a, b, c, d] := by
    match o, hlen with
    | [a, b, c, d], _ => exact ⟨a, b, c, d, rfl⟩
  have ha := hlt a (by simp)
  have hb := hlt b (by simp)
  have hc := hlt c (by simp)
  have hd := hlt d (by simp)
  refine ⟨a, b, c, d, rfl, ha, hb, hc, hd, ?_⟩
  have hsum : ([a, b, c, d].mapIdx (fun j i => i * 2 ^ (4 + 2 * j))).foldl (· + ·) 0 = a * 16 + b * 64 + c * 256 + d * 1024 := by
    simp [List.mapIdx_cons]
  rw [hsum]
  exact w32_toNat (by split <;> split <;> split <;> split <;> omega)

theorem getLsbD_toNat {n : Nat} (w : BitVec n) (i : Nat) : w.getLsbD i = decide (w.toNat / 2 ^ i % 2 = 1) := by
  rw [BitVec.getLsbD, Nat.testBit_eq_decide_div_mod_eq]

/-- R392: bit i names box i. -/
theorem boxWord_hits : (∀ i, i < 4 → (boxWord q node).getLsbD i = (boxHit q node i).isSome) ∧ ∀ i, 12 ≤ i → (boxWord q node).getLsbD i = false := by
  obtain ⟨a, b, c, d, -, ha, hb, hc, hd, hw⟩ := boxWord_places q node
  refine ⟨fun i hi => ?_, fun i hi => ?_⟩
  · have hbit : (boxWord q node).getLsbD i = true ↔ (boxHit q node i).isSome = true := by
      rw [getLsbD_toNat, decide_eq_true_eq, hw]
      obtain rfl | rfl | rfl | rfl : i = 0 ∨ i = 1 ∨ i = 2 ∨ i = 3 := by omega
      all_goals
        split <;> split <;> split <;> split <;> simp_all <;> omega
    exact Bool.eq_iff_iff.2 hbit
  · have hlt : (boxWord q node).toNat < 2 ^ i := by
      have h12 : 2 ^ 12 ≤ 2 ^ i := Nat.pow_le_pow_right (by decide) hi
      rw [hw]
      split <;> split <;> split <;> split <;> omega
    rw [getLsbD_toNat, Nat.div_eq_of_lt hlt]
    rfl

/-- R392: each box has a place. -/
theorem boxWord_orders {i : Nat} (hi : i < 4) : ∃ j, j < 4 ∧ fld (boxWord q node) (4 + 2 * j) 2 = i := by
  obtain ⟨a, b, c, d, ho, ha, hb, hc, hd, hw⟩ := boxWord_places q node
  have hmem : i ∈ boxOrder q node := (boxOrder_perm q node).mem_iff.2 (List.mem_range.2 hi)
  have hmask : (if (boxHit q node 0).isSome then 1 else 0) + (if (boxHit q node 1).isSome then 2 else 0) + (if (boxHit q node 2).isSome then 4 else 0)
      + (if (boxHit q node 3).isSome then 8 else 0) < 16 := by
    split <;> split <;> split <;> split <;> omega
  generalize (if (boxHit q node 0).isSome then 1 else 0) + (if (boxHit q node 1).isSome then 2 else 0) + (if (boxHit q node 2).isSome then 4 else 0)
      + (if (boxHit q node 3).isSome then 8 else 0) = mask at hw hmask
  have hplace : ∀ j, fld (boxWord q node) (4 + 2 * j) 2 = (boxWord q node).toNat / 2 ^ (4 + 2 * j) % 2 ^ 2 := fun _ => rfl
  rw [ho] at hmem
  simp only [List.mem_cons, List.not_mem_nil, or_false] at hmem
  simp only [hplace, hw]
  rcases hmem with rfl | rfl | rfl | rfl
  · exact ⟨0, by decide, by simp only [Nat.reduceMul, Nat.reduceAdd, Nat.reducePow]; omega⟩
  · exact ⟨1, by decide, by simp only [Nat.reduceMul, Nat.reduceAdd, Nat.reducePow]; omega⟩
  · exact ⟨2, by decide, by simp only [Nat.reduceMul, Nat.reduceAdd, Nat.reducePow]; omega⟩
  · exact ⟨3, by decide, by simp only [Nat.reduceMul, Nat.reduceAdd, Nat.reducePow]; omega⟩

/-- R392: a query that is not running hits no box. -/
theorem boxWord_idle (h : qState (rw q 0).w = 0 ∨ qState (rw q 0).w = 3) : boxWord q node = w32 (0 + 1 * 2 ^ 6 + 2 * 2 ^ 8 + 3 * 2 ^ 10) := by
  have hmiss : ∀ i, boxHit q node i = none := fun i => if_pos (or_assoc.1 (.inl h))
  have hhits : boxHits q node = [] := by
    unfold boxHits
    simp only [hmiss, Option.map_none, List.filterMap_none]
  have horder : boxOrder q node = [0, 1, 2, 3] := by
    unfold boxOrder
    rw [hhits]
    rfl
  rw [boxWord_eq, hhits, horder]
  rfl

end BoxWord

/-- Settles O39: the query instructions, the loads of the tests, the word of a box test and the step of a triangle. -/
theorem rayInstructionResults : Obligations.RayInstructionResults := by
  unfold Obligations.RayInstructionResults
  refine ⟨query_cases, fun s u t f htile => ?_, fun q node => ?_, fun q rec => ?_⟩
  · exact ⟨test_reads htile (fun _ => rfl), test_reads htile (fun _ => rfl), test_reads htile (fun _ => rfl)⟩
  · exact ⟨(boxWord_hits q node).1, (boxWord_hits q node).2, fun i hi => boxWord_orders q node hi, boxWord_idle q node⟩
  · refine ⟨tritStep_idle q rec, tritStep_miss q rec, fun k h hk ho => ?_, fun k h hk ho => ?_⟩
    · rw [tritStep_hit q rec h hk, show triOpaque (rw q 0).w rec = false from ho]
      rfl
    · rw [tritStep_hit q rec h hk, show triOpaque (rw q 0).w rec = true from ho]
      rfl

end Sys2Proof.Machine
end
section
/-! The reload of a flushed screen tile (R405), and where the flush area is lost. -/

namespace Sys2Proof.Machine

/-! ## What writes and wakes leave unchanged -/

theorem hwCollapse_scr (s : State) (line : Nat) : (s.hwCollapse line).scr = s.scr := by
  unfold State.hwCollapse
  split
  · rfl
  · rfl

theorem hwPerform_scr (s : State) (a : Nat) (bs : List Byte) : (s.hwPerform a bs).scr = s.scr := by
  unfold State.hwPerform
  split
  · rfl
  · exact foldl_same State.scr _ (fun s i => by exact hwCollapse_scr s (lineOf a + i)) _ _

theorem hwWrite_scr (s : State) (a : Nat) (bs : List Byte) : (s.hwWrite a bs).scr = s.scr := by
  unfold State.hwWrite
  split
  · exact foldl_same State.scr _ (fun _ _ => by rfl) _ _
  · split
    · rfl
    · exact hwPerform_scr ..

theorem descState_scr (s : State) (k : ScrKey) (st : Nat) : (s.descState k st).scr = s.scr := by
  unfold State.descState State.descWrite
  split
  · rfl
  · exact hwWrite_scr ..

theorem wake_scr (s : State) (x : Site) (cs : List Nat) : (s.wake x cs).scr = s.scr := foldl_same State.scr _ (fun _ _ => by rfl) _ s

theorem wakeTickets_scr (s : State) (k : ScrKey) : (s.wakeTickets k).scr = s.scr := by
  refine foldl_same State.scr _ (fun b e => ?_) _ s
  split
  · exact wake_scr ..
  · rfl

/-! ## The reload -/

/-- R405: a flushed tile whose flush area holds nothing up and whose buffer has room reloads at once. -/
theorem screenTileReload_reloads {s : State} {e : ScrTile} {k : ScrKey} (hk : (s.subj.a, s.subj.c, s.subj.v.toInt) = k) (he : s.scrOf k = some e)
    (hflushed : e.flushed = true) (hheld : ∀ p ∈ flushPieces e, s.hwHolds k.2.1 (.tile (64 * k.1)) p.1 = false) (hroom : bufPages e.lgS ≤ s.tbFree k.1 k.2.1) :
    exec .screenTileReload s = .next (((s.setScr k (s.reloaded k e)).descState k 1).wakeTickets k) := by
  have hnone : (flushPieces e).any (fun p => s.hwHolds k.2.1 (.tile (64 * k.1)) p.1) = false := by
    rw [List.any_eq_false]
    exact fun p hp => by simp [hheld p hp]
  have hneed : s.needPages k (bufPages e.lgS) 512 = (s, true) := by
    rw [State.needPages, if_pos hroom]
  subst hk
  show execScreenTileReload s = _
  unfold execScreenTileReload
  dsimp only at he hnone hneed ⊢
  simp only [he, hflushed, hnone, hneed, Bool.not_true, Bool.false_eq_true, if_false]

/-- R405: the tile's entry is then what the reload makes of it. -/
theorem scrOf_reloads (s : State) (k : ScrKey) (e : ScrTile) : (((s.setScr k e).descState k 1).wakeTickets k).scrOf k = some e := by
  unfold State.scrOf
  rw [wakeTickets_scr, descState_scr]
  exact tget_tset_same ..

/-- R300, R405: where a piece of the flush area is not served, the samples are what no rule lays out, one for each sample of the tile. -/
theorem reloaded_unserved {s : State} {k : ScrKey} {e : ScrTile} {p : Int × List Byte} {pa : Nat} (hp : p ∈ flushPieces e)
    (hx : s.hwXlate k.2.1 (.tile (64 * k.1)) p.1 false = some pa) (hlost : s.served pa = false) : (s.reloaded k e).samples.length = sampleCount e.lgS := by
  unfold State.reloaded
  dsimp only
  split
  · next hall =>
    have hbad := List.all_eq_true.1 hall p hp
    simp only [hx, hlost, Bool.false_and, Bool.false_eq_true] at hbad
  · rw [List.length_map, List.length_range]

/-! ## Reads of parts of a written range, and of a mapped one -/

/-- A read inside the range that a write stored. -/
theorem rdN_wrN_part {m : List Host.Cell} (h : Memory.wf m = true) {a o n : Nat} {bs : List Byte} (hin : o + n ≤ bs.length) :
    rdN (wrN m a bs) (a + o) n = (bs.drop o).take n := by
  refine List.ext_getElem ?_ fun i hi hi' => ?_
  · rw [rdN_length, List.length_take, List.length_drop]
    omega
  · have hlt : i < n := by rwa [rdN_length] at hi
    rw [rdN_getElem, rdB_wrN h, if_pos (by omega), List.getElem_take, List.getElem_drop, List.getD_eq_getElem _ _ (by omega)]
    congr 1
    omega

theorem drop_take_map_range {α : Type} (g : Nat → α) {o n len : Nat} (h : o + n ≤ len) :
    (((List.range len).map g).drop o).take n = (List.range n).map (fun j => g (o + j)) := by
  refine List.ext_getElem (by simp; omega) fun i hi hi' => ?_
  simp

/-- R315: the hardware's read through a range register. -/
theorem hwXlate_range {s : State} {p : Nat} {x : Site} {ea : Int} {r : RangeReg} (h57 : inRange57 ea = true) (hr : (s.part p).rangeFor ea = some r) :
    s.hwXlate p x ea false = some (r.pbase + (ea - r.vbase).toNat) := by
  unfold State.hwXlate
  simp only [h57, hr, Bool.not_true, Bool.false_and, Bool.false_eq_true, if_false]

/-- R317: nothing holds an access through a range register while no commit is staged and no switch runs. -/
theorem hwHolds_range {s : State} {p : Nat} {x : Site} {ea : Int} {r : RangeReg} (hr : (s.part p).rangeFor ea = some r) (hs : (s.part p).staging = false)
    (hsw : s.coh.switch = none) : s.hwHolds p x ea = false := by
  unfold State.hwHolds State.switching
  simp only [hr, hs, hsw, Bool.or_self]

/-! ## A flush area whose die is lost -/

namespace LostFlush

/-- A screen tile that was flushed to virtual address 0 before any sample was blended. -/
def tile : ScrTile :=
  { lgS := 0, flush := 0, clear := ⟨0, [0, 0, 0, 0]⟩, issued := 0, expected := 0, late := 0, resident := false, flushed := true,
    pages := 0, binPages := 0, samples := [], bin := [], last := 0, region := 0 }

/-- The bytes of its flush area. -/
def area : List Byte := (List.range 49152).map (Config.flushByte (sampleCode tile))

def range : RangeReg := ⟨0, 2 ^ 40, 0, true, 0⟩
def part : Part := { Part.reset with ranges := [(0, range)], quota := [(0, 2)] }

/-- The area is mapped, its bytes still stand in memory, and their memory die is lost (R300). -/
def state : State :=
  { State.reset with
    mem := wrN [] 0 area, parts := [(0, part)], scr := [((0, 0, 0), tile)], coh := { Coh.reset with lost := [12] } }

theorem pieces : sampleCount tile.lgS * 12 / 4096 = 12 := by decide

theorem piece {p : Int × List Byte} (hp : p ∈ flushPieces tile) : ∃ i, i < 12 ∧ p.1 = ((4096 * i : Nat) : Int)
    ∧ p.2 = (List.range 4096).map (fun j => Config.flushByte (sampleCode tile) (4096 * i + j)) := by
  obtain ⟨i, hi, rfl⟩ := List.mem_map.1 hp
  refine ⟨i, pieces ▸ List.mem_range.1 hi, Int.zero_add _, ?_⟩
  dsimp only

theorem rangeFor {ea : Int} (h0 : 0 ≤ ea) (h1 : ea < 2 ^ 40) : (state.part 0).rangeFor ea = some range := by
  show part.rangeFor ea = _
  unfold Part.rangeFor
  rw [List.range_succ_eq_map, List.findSome?_cons]
  have hin : range.vbase ≤ ea ∧ ea < range.vlimit := ⟨h0, h1⟩
  have h : tget part.ranges 0 = some range := rfl
  simp only [h, hin, and_self, if_true]

theorem maps {i : Nat} (hi : i < 12) : state.hwXlate 0 (.tile 0) ((4096 * i : Nat) : Int) false = some (4096 * i) := by
  rw [hwXlate_range (r := range) (by unfold inRange57; simp only [decide_eq_true_eq]; omega) (rangeFor (by omega) (by omega))]
  show some (0 + (((4096 * i : Nat) : Int) - 0).toNat) = _
  congr 1
  omega

theorem holds {p : Int × List Byte} (hp : p ∈ flushPieces tile) : state.hwHolds 0 (.tile 0) p.1 = false := by
  obtain ⟨i, hi, h1, -⟩ := piece hp
  rw [h1]
  exact hwHolds_range (r := range) (rangeFor (by omega) (by omega)) rfl rfl

theorem reads {i : Nat} (hi : i < 12) : rdN state.mem (4096 * i) 4096 = (List.range 4096).map (fun j => Config.flushByte (sampleCode tile) (4096 * i + j)) := by
  have hlen : area.length = 49152 := by rw [area, List.length_map, List.length_range]
  have hcut : (area.drop (4096 * i)).take 4096 = (List.range 4096).map (fun j => Config.flushByte (sampleCode tile) (4096 * i + j)) := by
    rw [area]
    exact drop_take_map_range _ (by omega)
  have hmem : state.mem = wrN [] 0 area := by rw [state]
  have hread := rdN_wrN_part (m := []) rfl (a := 0) (o := 4096 * i) (n := 4096) (bs := area) (by omega)
  rw [hcut, ← hmem] at hread
  calc rdN state.mem (4096 * i) 4096 = rdN state.mem (0 + 4096 * i) 4096 := congrArg (fun a => rdN state.mem a 4096) (Nat.zero_add (4096 * i)).symm
    _ = _ := hread

end LostFlush

/-- Refutes O40: the statement has a flushed tile reload its samples where its flush area is mapped and memory holds the flush's bytes, but it
does not ask that the area's memory die is there: of an area on a lost die (R300) no byte is read, and the samples are not those of the flush. -/
theorem not_coverageAndScreenTileResults : ¬ Obligations.CoverageAndScreenTileResults := by
  intro h
  obtain ⟨-, -, hreload⟩ := h
  have hpiece : ((0 : Int), (List.range 4096).map (fun j => Config.flushByte (sampleCode LostFlush.tile) (4096 * 0 + j))) ∈ flushPieces LostFlush.tile :=
    List.mem_map.2 ⟨0, by decide, rfl⟩
  obtain ⟨s', hexec, hscr⟩ := hreload LostFlush.state LostFlush.tile rfl rfl (by decide) fun p hp => ⟨LostFlush.holds hp, by
    obtain ⟨i, hi, h1, h2⟩ := LostFlush.piece hp
    exact ⟨4096 * i, by rw [h1]; exact LostFlush.maps hi, by rw [h2]; exact LostFlush.reads hi⟩⟩
  have hrun := screenTileReload_reloads (s := LostFlush.state) (k := (0, 0, 0)) rfl rfl rfl (fun p hp => LostFlush.holds hp) (by decide)
  obtain rfl := Host.Outcome.next.inj (hexec.symm.trans hrun)
  have hlen := reloaded_unserved (k := (0, 0, 0)) hpiece (LostFlush.maps (i := 0) (by decide)) (by decide)
  have hkept := (scrOf_reloads LostFlush.state (0, 0, 0) (LostFlush.state.reloaded (0, 0, 0) LostFlush.tile)).symm.trans hscr
  rw [Option.some.inj hkept] at hlen
  exact absurd hlen (by decide)

end Sys2Proof.Machine
end
section
/-! A texture descriptor that is malformed where it is read (R409), and lies under an error there (R362). -/

namespace Sys2Proof.Machine

namespace BadReplica

/-- A TXL of one lane on a tile of die 2, whose nearest memory die is 1; its descriptor is at virtual address 0. -/
def lane : LaneAcc := { LaneAcc.new 0 0 4 [] [] 0 with st := .todo }
def access : Access :=
  { op := .tex .txl, uid := 1, who := ⟨⟨.tile 128, 0⟩, 0, 0, 0, 0, 0, 0, 0, 0⟩, seq := 0, stream := none, ord := 0, scope := 0, noalloc := false,
    targets := [], lanes := [lane], chain := none, lit := 0, desc := 0, faulted := false, fails := [], recd := false, retired := false, gates := [] }

/-- The descriptor's page is mapped to memory die 0, whose words there are sound; memory die 1 holds a replica of its line, of format 0 and with an
error in its first word. -/
def state : State :=
  { State.reset with
    subj := { a := 5 }, accs := [(5, access)], parts := [(0, { Part.reset with ranges := [(0, ⟨0, 2 ^ 40, 0, true, 0⟩)] })]
    coh := { Coh.reset with doms := [(0, ⟨0, 2 ^ 49, 1, []⟩)], replicas := [((1, 0), ⟨0, [], [0]⟩)] } }

/-- R254, R362: the lanes that failed, with their reasons. -/
def fails (s : State) : Option (List (Nat × Nat)) := (s.acc? 5).map (fun x => x.fails)

/-- R362: the reply meets the error, which is reason 9. -/
theorem replies : ∃ s', exec .textureReply state = .next s' ∧ fails s' = some [(0, 9)] := ⟨_, rfl, by decide +kernel⟩

theorem malformed : fails (state.failLane 5 0 6) = some [(0, 6)] := by decide +kernel

end BadReplica

/-- Refutes O41: the statement has a reply that finds its descriptor malformed fail its lane with reason 6 wherever memory has no error under the
descriptor, but the bytes may come from a replica (R269), and an error in that replica is met first (R362): the lane fails with reason 9. -/
theorem not_textureResults : ¬ Obligations.TextureResults := by
  intro h
  obtain ⟨-, -, -, -, hmalformed, -⟩ := h
  obtain ⟨s', hexec, hfails⟩ := BadReplica.replies
  have hsix := hmalformed BadReplica.state BadReplica.access .txl BadReplica.lane 0 0 rfl rfl rfl rfl rfl rfl (by decide) (by decide) (by decide) (by decide) rfl
    (Or.inr ⟨rfl, by decide⟩)
  rw [Host.Outcome.next.inj (hexec.symm.trans hsix)] at hfails
  exact absurd (BadReplica.malformed.symm.trans hfails) (by decide)

end Sys2Proof.Machine
end
